-- ==== Sys2Proof/Word.lean ====
section
/-! DEFINITION. The word types of the part: bytes, 16-bit quality fields, 32-bit register words and 64-bit words (R5, R11, R13). -/

namespace Sys2Proof

/-- One byte of a memory structure. -/
abbrev Byte := BitVec 8
/-- A 16-bit field, such as an ATT or sample quality (R12, R14). -/
abbrev Half := BitVec 16
/-- A register word (R5), or the bits of a binary32 value. -/
abbrev Word := BitVec 32
/-- A 64-bit word, such as a bay output word (R298). -/
abbrev DWord := BitVec 64

end Sys2Proof
end

