-- ==== Sys2Proof/Machine/Tab.lean ====
section
/-! DEFINITION. Sparse tables keyed by number, kept in ascending order of key; a key that is not listed reads as the table's default. Byte memories in one canonical form. -/

namespace Sys2Proof.Machine

/-- A sparse table: key and value pairs in ascending order of key. -/
abbrev Tab (α : Type) := List (Nat × α)

/-- The value at key `k`, if one is listed. -/
def tget? {α : Type} : Tab α → Nat → Option α
  | [], _ => none
  | (j, a) :: t, k => if j = k then some a else tget? t k

/-- The value at key `k`, or `d` where none is listed. -/
def tget {α : Type} (d : α) (t : Tab α) (k : Nat) : α := (tget? t k).getD d

/-- The table with `a` at key `k`. -/
def tset {α : Type} : Tab α → Nat → α → Tab α
  | [], k, a => [(k, a)]
  | (j, b) :: t, k, a =>
    if k < j then (k, a) :: (j, b) :: t
    else if k = j then (k, a) :: t
    else (j, b) :: tset t k a

/-- The table without key `k`. -/
def terase {α : Type} : Tab α → Nat → Tab α
  | [], _ => []
  | (j, b) :: t, k => if j = k then t else (j, b) :: terase t k

/-- The table with the value at `k` changed by `f`, from `d` where none is listed. -/
def tmod {α : Type} (d : α) (t : Tab α) (k : Nat) (f : α → α) : Tab α := tset t k (f (tget d t k))

/-- A byte memory: `(address, byte)` pairs, addresses strictly rising, no byte equal to 0; an unlisted address reads 0 (log entry 4). -/
abbrev Memory := List Host.Cell

/-- What an unlisted address reads as (log entry 4). -/
def Memory.blank : Byte := 0

/-- The byte at an address. -/
def memRead : Memory → Nat → Byte
  | [], _ => Memory.blank
  | (j, b) :: t, a => if j = a then b else memRead t a

/-- The memory without an entry at an address. -/
def memClear : Memory → Nat → Memory
  | [], _ => []
  | (j, b) :: t, a => if j = a then t else (j, b) :: memClear t a

/-- The memory with an entry put in at an address. -/
def memPut : Memory → Nat → Byte → Memory
  | [], a, v => [(a, v)]
  | (j, b) :: t, a, v =>
    if a < j then (a, v) :: (j, b) :: t
    else if a = j then (a, v) :: t
    else (j, b) :: memPut t a v

/-- One byte written, keeping the canonical form. -/
def memWrite (m : Memory) (a : Nat) (v : Byte) : Memory :=
  if v = Memory.blank then memClear m a else memPut m a v

/-- A byte string written at consecutive addresses. -/
def memWriteBytes (m : Memory) (a : Nat) : List Byte → Memory
  | [] => m
  | b :: bs => memWriteBytes (memWrite m a b) (a + 1) bs

/-- `n` bytes read at consecutive addresses. -/
def memReadBytes (m : Memory) (a : Nat) : Nat → List Byte
  | 0 => []
  | n + 1 => memRead m a :: memReadBytes m (a + 1) n

/-- The canonical form from address `lo` on: addresses strictly rising and no entry equal to the blank byte. -/
def Memory.wfFrom (lo : Nat) : Memory → Bool
  | [] => true
  | (j, b) :: t => decide (lo ≤ j) && decide (b ≠ Memory.blank) && Memory.wfFrom (j + 1) t

/-- The canonical form of a memory. -/
def Memory.wf (m : Memory) : Bool := Memory.wfFrom 0 m

end Sys2Proof.Machine
end

