-- ==== Sys2Proof/Machine/Parts/Base.lean ====
section
/-! DEFINITION. Types shared by every part of the state: modes, time tags, events (R11, R12, R25, R502). -/

namespace Sys2Proof.Machine

/-- The operating modes of R25. -/
inductive Mode
  | boot | commission | service | vigil | test | safe
deriving DecidableEq, Repr

/-- An Almanac time tag (R11): seconds, nanoseconds, fraction in units of 2^-16 ns, and the quality field of R12. -/
structure Att where
  sec : Nat
  ns : Nat
  frac : Nat
  q : Half
deriving DecidableEq, Repr

/-- The tag of all zeros: "0 when there is none" (R492). -/
def Att.zero : Att := ⟨0, 0, 0, 0⟩

/-- An event as raised (R502): code, bay (0xFFFF for none), instant, index, the carried items of value A and value B, the second ATT. -/
structure Event where
  code : Nat
  bay : Nat
  seq : Nat
  att : Att
  index : Nat
  a : Nat
  b : Nat
  att2 : Att
deriving DecidableEq, Repr

/-- A time or duration counted in ticks of the 800 MHz clock since entry to BOOT. -/
abbrev Ticks := Nat

/-- An instant of Almanac time in units of 2^-16 ns since the PTP epoch (R11). -/
abbrev Inst := Nat

end Sys2Proof.Machine
end

