-- ==== Sys2Proof/Machine/Parts/Afe.lean ====
section
/-! DEFINITION. The state of the analogue front end: circular buffers, SAMPLE_SYNC, snapshots, the rotating spare, taps and cycle trackers (R82 to R119). -/

namespace Sys2Proof.Machine

/-- An instant in quarter-nanoseconds since the PTP epoch: seconds times 4,000,000,000 plus the count of R13. -/
abbrev QInst := Nat

/-- A sample word (R13): value, quality, channel ID, seconds and quarter-nanoseconds. -/
structure SampleWord where
  value : Int
  q : Half
  ch : Nat
  at_ : QInst
deriving DecidableEq, Repr

/-- An entry of a circular buffer (R103): code, delay in 0.25 ns, flags, and the grid or edge instant. The seconds part of `at_` is the model's; the memory layout stores only the quarter-nanoseconds. -/
structure BufEntry where
  code : Int
  delay : Nat
  flags : Nat
  at_ : QInst
deriving DecidableEq, Repr

/-- A fast-path channel: results written, the circular buffer, the conversion that a snapshot displaced (its grid or edge instant and the instant it holds again), displaced or latched conversions in progress (instant and delay), SAMPLE_SYNC edges ignored and not yet filled, the overrange episode, the last CH_OVERRANGE, the last snapshot, self-check failures in a row, the results offered to the taps so far, and the last edge converted since a step. -/
structure AfeCh where
  cnt : Nat
  buf : Tab BufEntry
  aborted : Option (QInst × QInst)
  displaced : List (QInst × Nat)
  ignored : List QInst
  ovrStart : Option QInst
  ovrEnd : Option QInst
  ovrEvt : Option Ticks
  prevSnap : Option QInst
  selfFail : Nat
  failed : Bool
  tapped : Nat
  lastAt : Option QInst
deriving DecidableEq, Repr

/-- SAMPLE_SYNC (R86 to R88): edges in use, the last edge, the last hold with the edge it serves, the latched edge, the second whose edges are counted and whether it is counted from its top, the edges in it, a loss in it, and a full good second that has just ended. -/
structure SyncIn where
  active : Bool
  lastEdge : Option QInst
  hold : Option (QInst × QInst)
  latched : Option QInst
  sec : Nat
  whole : Bool
  edges : Nat
  lost : Bool
  ready : Bool
deriving DecidableEq, Repr

/-- A requested snapshot (R90, R91): channel mask, instant, host address, the command that waits for it and whether it is executed late. A snapshot of SCHED_ADD has no command. -/
structure Snap where
  mask : Nat
  at_ : QInst
  host : Nat
  cid : Option Nat
  late : Bool
deriving DecidableEq, Repr

/-- The spare's phase (R97): the three phases of a step, the calibration in place of a disabled SAR, and the spare's own calibration. -/
inductive SparePhase
  | idle | shadow | substitute | handBack | inPlace | selfCal
deriving DecidableEq, Repr

/-- The rotating spare (R97 to R99): phase, SAR of the step, SAR of the next step, when the last step began, whether phase 1 has been repeated, steps completed, and the permanent substitution. -/
structure Spare where
  phase : SparePhase
  sar : Nat
  next : Nat
  since : Ticks
  retried : Bool
  steps : Nat
  perm : Option Nat
  queued : List Nat
deriving DecidableEq, Repr

/-- An AFE_CAL in progress (R100): kind, mask still to do, the command. -/
structure AfeCal where
  kind : Nat
  mask : Nat
  cid : Option Nat
deriving DecidableEq, Repr

/-- A tap's entry being filled (R104, R507): the decimation count, the words so far and the tick of the first. -/
structure TapBuf where
  count : Nat
  words : List SampleWord
  since : Ticks
deriving DecidableEq, Repr

/-- One channel's sums over a metering cycle (R113): Σx, Σx², n, flags. -/
structure CycleChan where
  ch : Nat
  sx : Int
  sxx : Nat
  n : Nat
  flags : Nat
deriving DecidableEq, Repr

/-- One pair's sum over a metering cycle (R113). -/
structure CyclePair where
  pair : Nat
  svi : Int
  flags : Nat
deriving DecidableEq, Repr

/-- A cycle block (R113). -/
structure CycleBlock where
  trk : Nat
  flags : Nat
  seq : Nat
  startNs : Nat
  durNs : Nat
  chans : List CycleChan
  pairs : List CyclePair
deriving DecidableEq, Repr

/-- The tracker states of AFE_TRK_STAT. -/
inductive TrkState
  | off | tracking | freeRun | relocking
deriving DecidableEq, Repr

/-- A cycle tracker (R106 to R113): state, the last boundary in ns, the duration of the last complete cycle, the last complete cycle's block, a gap being bridged (its start, the block before it, its end), the REF_FAULT groups and the saturated channels seen in the gap, cycles out of range and valid in a row, whether a step fell in this cycle, REF_FAULT groups seen in this cycle, the last IR sample of the reference, whether it was last beyond −h (armed) or +h, the last zero crossings up and down, the detected positive and negative crossings not yet used, the peak since the last boundary, the last crossing seen while it free-runs, the instant from which it free-runs before its first boundary, the block sequence, the ring of blocks and its counts. -/
structure Tracker where
  st : TrkState
  lastB : Option Nat
  period : Nat
  prev : Option CycleBlock
  gapFrom : Option (Nat × CycleBlock)
  gapTo : Option Nat
  gapRef : Nat
  gapSat : Nat
  bad : Nat
  good : Nat
  stepped : Bool
  refSeen : Nat
  ir : Option (Int × QInst)
  armed : Bool
  upAt : Option Nat
  downAt : Option Nat
  pos : Option Nat
  neg : Option Nat
  peak : Nat
  lastX : Option Nat
  startAt : Nat
  seq : Nat
  ring : Tab CycleBlock
  wr : Nat
  rd : Nat
deriving DecidableEq, Repr

/-- The analogue front end's state. `chEn` and `ilv` are the enables in effect, `pendCh` and `pendIlv` those that wait for the top of second `cfgAt` (R96), `stopAt` the second at which the path stops, `started` whether it has run since entry to BOOT (R114), `minTag` the instant of the last step (R89), `gridFrom` the instant from which grid edges are converted (R88, R114), `pinDelay` the calibrated delay from SAMPLE_SYNC to the hold in 0.25 ns (R86), `snapRun` the snapshots held and not yet converted with the channels taken. -/
structure Afe where
  chans : Tab AfeCh
  refFault : Nat
  sync : SyncIn
  minTag : QInst
  gridFrom : QInst
  pinDelay : Nat
  pendCh : Option Nat
  pendIlv : Option Nat
  chEn : Nat
  ilv : Nat
  running : Bool
  stopAt : Option Nat
  cfgAt : Nat
  started : Bool
  snaps : List Snap
  snapRun : List (Snap × Nat)
  spare : Spare
  cal : Option AfeCal
  taps : Tab TapBuf
  trks : Tab Tracker
deriving DecidableEq, Repr

end Sys2Proof.Machine
end

