-- ==== Sys2Proof/Machine/Parts/Scheme.lean ====
section
/-! DEFINITION. A scheme image as the part holds it after verification (R185, R202 to R205): header, sections as their records, trailer. -/

namespace Sys2Proof.Machine

/-- A section (R202, R203): its type, its flags and its records as bytes. -/
structure Section where
  ty : Nat
  flags : Nat
  recs : List (List Byte)
deriving DecidableEq, Repr

/-- A scheme image (R202 to R205). -/
structure Scheme where
  hdr : List Byte
  secs : List Section
  trailer : List Byte
deriving DecidableEq, Repr

/-- A load failure (R206): reason, section index, record index. -/
structure LoadErr where
  reason : Nat
  sec : Nat
  idx : Nat
deriving DecidableEq, Repr

end Sys2Proof.Machine
end

