-- ==== Sys2Proof/Machine/Parts/Bay.lean ====
section
/-! DEFINITION. The live state of a bay: sample slot, bay context and measurement history (R162, R214, R288 to R294). -/

namespace Sys2Proof.Machine

/-- An evaluation instant: TAI second and index k on the bay's grid (R20). -/
structure EvalAt where
  sec : Nat
  k : Nat
deriving DecidableEq, Repr

/-- A sealed instant whose task has not committed: the staged-sample number of tap s3 of each channel and the source of each channel (R162, R163, R169). -/
structure Sealed where
  at_ : EvalAt
  taps : List Nat
  src : List Nat
deriving DecidableEq, Repr

/-- The sample slot and its descriptor (R162): staged samples of each channel, the words by channel × 32 + ring index, instants sealed and not yet committed, the newest sealed instant, instants sealed, the next instant to seal, the source of each channel now, the last SLOT_OVERFLOW, and by channel a change of source under way: its instant and the words of the new source that wait for the old source's words before it (R168). -/
structure Slot where
  cnt : List Nat
  words : Tab SampleWord
  queue : List Sealed
  newest : Option Sealed
  count : Nat
  next : EvalAt
  src : List Nat
  ovfEvt : Option Ticks
  sw : Tab (QInst × List SampleWord)
deriving DecidableEq, Repr

/-- A comparator of the pickup bank (R230, R291): threshold in Q8.24, dropout in hundredths, sense, state, owning slot. -/
structure Comp where
  thr : Nat
  dr : Nat
  under : Bool
  p : Bool
  slot : Nat
deriving DecidableEq, Repr

/-- The reclose states of R268. -/
inductive RcState
  | ready | waitOpen | dead | closing | reclaim | lockout
deriving DecidableEq, Repr

/-- The reclose state of a bay (R292): state, shot count, RECLOSE slot or 0xFF, start of the running timer. -/
structure Reclose where
  st : RcState
  shots : Nat
  slot : Nat
  tmr : EvalAt
deriving DecidableEq, Repr

/-- The bay constants in use (R289, R290, R295): f_nom 60 Hz or not, ACB rotation or not, ROCOF window, In, Vn, and for each channel m_loc, m_sv, s_loc, s_sv, FS_c. -/
structure BayConst where
  hz60 : Bool
  acb : Bool
  m : Nat
  inom : Nat
  vnom : Nat
  mloc : List Int
  msv : List Int
  sloc : List Nat
  ssv : List Nat
  fs : List Nat
deriving DecidableEq, Repr

/-- The state block of an element (R291): its output vector, its type, and its private values by number. -/
structure ElSt where
  out : Nat
  ty : Nat
  p : Tab Int
deriving DecidableEq, Repr

/-- The measurement state (R216 to R226, R248, R292): f in Q16.16 Hz, FVALID, RVALID, reference present, ψ, ROCOF in binary32, V1m and the κ it was taken at, instants without and with a reference in a row, entries written to the cycle-frequency ring, the length of the run of entries with FVALID, and per channel the run of usable samples and the κ + 1 of the last OVERRANGE tap and of the last unusable sample that did not carry SETTLING. -/
structure Meas1 where
  f : Nat
  fvalid : Bool
  rvalid : Bool
  ref : Bool
  psi : Nat
  rocof : Nat
  v1m : Int × Int
  v1mAt : Option Nat
  noRef : Nat
  refRun : Nat
  cyc : Nat
  cycRun : Nat
  run : List Nat
  ovr : List Nat
  bad : List Nat
deriving DecidableEq, Repr

/-- The measurement history (R214): each entry with the κ it was written at; x by channel × 360, ψ, the C ring by channel × 90 with the flags PVALID, POVR and PSETTLE of its full-cycle phasor in bits 0 to 2, the reference ring (`none` without a reference), the cycle-frequency ring. -/
structure Hist where
  x : Tab (Nat × Int)
  psi : Tab (Nat × Nat)
  c : Tab (Nat × Int × Nat)
  r : Tab (Nat × Option (Int × Int))
  cf : Tab Nat
deriving DecidableEq, Repr

/-- The target record of R293. -/
structure Target where
  bits : Nat
  slots : Nat
  first : Att
  last : Att
  count : Nat
deriving DecidableEq, Repr

/-- The counters of R293. -/
structure BayCnt where
  trip : Nat
  close : Nat
  reclose : Nat
  bf : Nat
  qinv : Nat
  aborted : Nat
deriving DecidableEq, Repr

/-- The bay context (R288): everything a task reads and writes through the commit buffer. `aborted` of the counters is written by the part. -/
structure Ctx where
  run : Nat
  sg : Nat
  const : BayConst
  last : Option EvalAt
  start : EvalAt
  count : Nat
  word : Nat
  pub : Nat
  vars : Nat
  bins : Nat
  comps : Tab Comp
  integ : Tab Nat
  logic : Tab Nat
  theta : Tab Nat
  rc : Reclose
  meas : Meas1
  hist : Hist
  tgt : Target
  cnt : BayCnt
  els : Tab ElSt
deriving DecidableEq, Repr

/-- The IR outputs of a channel kept for the preprocessors of R279: how many, and the last 41,472 by number modulo 41,472. -/
structure IrRing where
  n : Nat
  w : Tab SampleWord
deriving DecidableEq, Repr

/-- A wavefront (R280): mode β or α, its time in 0.25 ns, and whether its difference is positive. -/
structure Front where
  beta : Bool
  t : QInst
  pos : Bool
deriving DecidableEq, Repr

/-- The wavefront preprocessor of a bay (R280): the newest merged samples of IA, IB and IC with whether they are usable, newest first, the tag of the first modes formed without a gap, the last 3α and √3β, the last two differences of each mode with their tags, and the last 64 wavefronts, newest first. -/
structure TwPrep where
  cur : Tab (List (QInst × Int × Bool))
  first : Option QInst
  modes : Option (QInst × Int × Int)
  diffs : List (QInst × Int × Int)
  fronts : List Front
deriving DecidableEq, Repr

/-- The preprocessors of the incremental rate (R278): the IR outputs by channel, the wavefront preprocessors by bay. -/
structure Prep where
  ir : Tab IrRing
  tw : Tab TwPrep
deriving DecidableEq, Repr

/-- A bay placed on a group (R182, R287): its BAY and ELEMENT records, the eight settings groups, the context and the sample slot, its group and form, and the task scratch beyond the measurement history, by 64-bit word from 0xF000 on. -/
structure Bay where
  recd : List Byte
  els : List (List Byte)
  groups : Tab (List Byte)
  ctx : Ctx
  slot : Slot
  grp : Nat
  form : Nat
  work : Tab Nat
deriving DecidableEq, Repr

/-- One store of a copy, as a lane of the commit buffer holds it (R425): the cluster offset of the 64-bit word, the data, the byte mask. -/
structure Store where
  off : Nat
  data : Nat
  mask : Nat
deriving DecidableEq, Repr

/-- The resources of a cell (R179): g1 to g31 (g0 reads 0), v0 to v15 of 256 bits, the pickup bank, the curve integrators, and the offset in instruction SRAM that its 2 KiB instruction buffer holds. -/
structure Cell where
  g : List Nat
  v : List Nat
  bank : Tab Comp
  integ : Tab Nat
  ibuf : Nat
deriving DecidableEq, Repr

/-- What a copy does in a window (R421 to R425): the addresses it loads from, its stores in order, and its cell at the end. -/
structure CopyRun where
  loads : List Nat
  stores : List Store
  cell : Cell
deriving DecidableEq, Repr

end Sys2Proof.Machine
end

