-- ==== Sys2Proof/Machine/Parts/Bel.lean ====
section
/-! DEFINITION. The state of Belfry: ports, switch tables, queues, publications and subscriptions (R384 to R413). -/

namespace Sys2Proof.Machine

/-- A frame in an egress queue: its bytes without FCS, whether it is a Belfry frame, and whether it has REPEAT set (R392). -/
structure NetFrame where
  bytes : List Byte
  belfry : Bool
  rep : Bool
deriving DecidableEq, Repr

/-- A port: link, speed code, the bell queue, queues 0 to 3, busy until, the tick of the last frame received or else of the link coming up, whether a frame has come since, at fault (R395), the last BELL_OVERFLOW. -/
structure Port where
  up : Bool
  speed : Nat
  bell : List NetFrame
  qs : List (List NetFrame)
  busy : Ticks
  lastRx : Ticks
  got : Bool
  fault : Bool
  ovfEvt : Option Ticks
deriving DecidableEq, Repr

/-- A learned unicast address (R389). -/
structure UniEntry where
  mac : Nat
  vid : Nat
  port : Nat
  since : Ticks
deriving DecidableEq, Repr

/-- A GOOSE publication (R406, R407): whether it has sent, stNum, sqNum, the encoding of the last frame without the times and the one with them, the instant of the last state change, the sum of the gaps to the next retransmission and the next gap in ms, its UtcTime, the TEST bit of the last frame. -/
structure GoPub where
  st : Nat
  sq : Nat
  enc : List Byte
  full : List Byte
  tc : Inst
  sum : Nat
  gap : Nat
  utc : List Byte
  test : Bool
  first : Bool
deriving DecidableEq, Repr

/-- A value of a GOOSE member. -/
inductive GVal
  | bool (b : Bool)
  | dbpos (n : Nat)
  | bits (bs : List Bool)
  | other
deriving DecidableEq, Repr

/-- An accepted GOOSE frame (R410): stNum, sqNum, arrival tag, timeAllowedToLive in ms, members. -/
structure GoFrame where
  st : Nat
  sq : Nat
  arr : QInst
  tal : Nat
  vals : List GVal
deriving DecidableEq, Repr

/-- A subscription (R409 to R411): the last 8 accepted frames, newest first; valid; counters accept, dup, stale, tal, rej; the last GOOSE_CONFREV; by map entry the last value of quality good among the frames that have left the list (R412). -/
structure GoSub where
  frames : List GoFrame
  valid : Bool
  accept : Nat
  dup : Nat
  stale : Nat
  tal : Nat
  rej : Nat
  confEvt : Option Ticks
  held : Tab Bool
deriving DecidableEq, Repr

/-- Belfry's state: ports, VLAN table words, multicast entries, learned addresses, redundancy sequence counters by source MAC, TRIP ordinals by bay, instants since the rising edge of a trip by bay, publications, subscriptions, beacon count, the millisecond of the last beacon, the tick of the last PRP supervision frames and their count, frames sent (newest first). -/
structure Bel where
  ports : Tab Port
  vlan : Tab Nat
  mc : Tab (Nat × Nat × Nat)
  uni : List UniEntry
  seqs : Tab Nat
  ord : Tab Nat
  rep : Tab Nat
  pubs : Tab GoPub
  subs : Tab GoSub
  bcn : Nat
  bcnAt : Inst
  supAt : Ticks
  supSeq : Nat
  sent : List (Nat × List Byte)
deriving DecidableEq, Repr

/-- Belfry on entry to BOOT. VLAN entry 0 has VID 1 with every port a member and untagged (R416). -/
def Bel.reset : Bel :=
  { ports := [], vlan := [(0, 2 ^ 31 + 0x3F * 2 ^ 25 + 0x7F * 2 ^ 18 + 1)], mc := [], uni := [], seqs := [], ord := [], rep := [], pubs := [], subs := [],
    bcn := 0, bcnAt := 0, supAt := 0, supSeq := 0, sent := [] }

end Sys2Proof.Machine
end

