-- ==== Sys2Proof/Machine/Parts/Wire.lean ====
section
/-! DEFINITION. What the operands of commands and events carry: command entries, frames as received, verdicts of the comparators (R47 to R53, R63, R105, R148, R428, R451 to R464, R490). -/

namespace Sys2Proof

/-- A fetched command entry (R490): its CMD ring and index, its flags, tag, completion ring, reserved bytes 5 to 7, token address and parameter area. -/
structure CmdEntry where
  ring : Nat
  idx : Nat
  flags : Nat
  tag : Nat
  cpl : Nat
  rsvd : Nat
  token : Nat
  params : List Byte
deriving DecidableEq, Repr

/-- A read of host memory issued by the part (R481): of a ring's command entry, or of a token or parameter of a fetched command. -/
inductive DmaRead
  | entry (ring : Nat)
  | param (op : Nat) (e : CmdEntry) (addr : Nat)
deriving DecidableEq, Repr

/-- Why the time counter is stepped (R44). -/
inductive StepCause
  | firstLock | preset | restep
deriving DecidableEq, Repr

/-- A Sync of the grandmaster, with the preciseOriginTimestamp of its Follow_Up when it is two-step (R47, R53): origin seconds, nanoseconds, correctionField in units of 2^-16 ns. -/
structure PtpSync where
  port : Nat
  logInterval : Int
  gmId : Nat
  domain : Nat
  originSec : Nat
  originNs : Nat
  correction : Int
deriving DecidableEq, Repr

/-- An Announce message (R45 to R48, R64, R65). -/
structure PtpAnnounce where
  port : Nat
  sender : Nat
  domain : Nat
  gmId : Nat
  clockClass : Nat
  accuracy : Nat
  variance : Nat
  prio1 : Nat
  prio2 : Nat
  steps : Nat
  ptpScale : Bool
  traceable : Bool
  utcValid : Bool
  utcOffset : Int
  leap61 : Bool
  leap59 : Bool
  logInterval : Int
  inaccuracy : Option Nat
  tlvId : Option Nat
deriving DecidableEq, Repr

/-- A peer-delay message (R47, R49): a request to answer, with its logMessageInterval, or a response that gives a delay measurement in units of 2^-16 ns. -/
inductive PtpPdelay
  | req (port seq : Nat) (reqPort : Nat) (log : Int) (turnaround : Int)
  | resp (port seq : Nat) (delay : Int)
deriving DecidableEq, Repr

/-- A decoded IRIG-B frame (R63): whether it is well formed, the measured offset, whether IEEE 1344 extensions are present, and what they carry. -/
structure IrigFrame where
  good : Bool
  ofs : Int
  ext : Bool
  irigSec : Nat
  zoneSec : Int
  leapPending : Bool
  leapDir : Bool
  quality : Nat
deriving DecidableEq, Repr

/-- What a modulator hands over at a cycle boundary (R105): the channel, the readout of the integrator set in units of 2^-10 LSB, whether it saturated, and the interior samples that overlap the cycle. -/
structure MetChan where
  ch : Nat
  sx : Int
  sat : Bool
  samples : List Int
deriving DecidableEq, Repr

/-- The readout of a tracker's channels at a boundary (R107): the TAI second and the index, at 1,296,000 S/s, of the first interior sample. -/
structure MetCycle where
  sec : Nat
  first : Nat
  chans : List MetChan
deriving DecidableEq, Repr

/-- One ASDU of a sampled-value frame (R148): smpCnt, and the members' values with their 32-bit quality. -/
structure SvAsdu where
  smpCnt : Nat
  vals : List (Int × Nat)
deriving DecidableEq, Repr

/-- A sampled-value frame whose FCS passed (R148, R149, R151): port, length, source and destination MAC, redundancy sequence number where a trailer or tag is present, APPID, svID, confRev, smpSynch, smpRate and smpMod where present, the simulation bit, and the ASDUs in order. -/
structure SvFrame where
  port : Nat
  len : Nat
  src : Nat
  dst : Nat
  red : Option Nat
  appid : Nat
  svId : List Byte
  confRev : Nat
  synch : Nat
  smpRate : Option Nat
  smpMod : Option Nat
  sim : Bool
  asdus : List SvAsdu
deriving DecidableEq, Repr

/-- What a comparator finds for a window (R422, R428, R434): for each copy a number that is equal for copies whose store signatures agree, the same for fold signatures, and whether a load divergence occurred. -/
structure Verdict where
  store : List Nat
  fold : List Nat
  loadDiv : Bool
deriving DecidableEq, Repr

/-- The close of a window (R422 to R436): what each copy did in it, what a comparator answers that does not answer the truth (R436), whether an injection test in it passes in both, what the observing cell did (R441), and whether a doorbell of the bay fires during a copy taken at this boundary (R307). -/
structure WindowEnd where
  runs : List Machine.CopyRun
  xBad : Option Verdict
  yBad : Option Verdict
  injOk : Bool
  obs : Option Machine.CopyRun
  bell : Bool
deriving DecidableEq, Repr

/-- A bridge crossing with an uncorrectable error (R18): how many crossings of the island corrected an error since the last such row (log entry 63), and the sample that is lost, as bay, channel and tag. -/
structure Crossing where
  corrected : Nat
  lost : Option (Nat × Nat × Nat)
deriving DecidableEq, Repr

/-- What precedes the payload of a link frame as received (R451): the lane (0 A, 1 B), the sequence, and whether the CRC is good. -/
structure LinkHead where
  lane : Nat
  seq : Nat
  crcOk : Bool
deriving DecidableEq, Repr

/-- A HEARTBEAT payload (R453), its ATTs in units of 2^-16 ns, with the lane delay measured at training. -/
structure Heartbeat where
  pairId : Nat
  unit : Nat
  role : Nat
  mode : Nat
  pstate : Nat
  flags : Nat
  sendAt : Nat
  snum : Nat
  lib : Nat
  digest : List Byte
  effAt : Nat
  delay : Nat
deriving DecidableEq, Repr

/-- A SAMPLES payload (R454): the channel, the instant on the 14,400 S/s grid, the BIN levels, the PR and S4 words as value, quality and quarter-nanoseconds since the PTP epoch, and the IR entries as value, flags and quarter-nanoseconds. -/
structure MirSamples where
  ch : Nat
  sec : Nat
  k : Nat
  bins : Nat
  pr : Option (Int × Nat × Nat)
  s4 : Option (Int × Nat × Nat)
  ir : List (Int × Nat × Nat)
deriving DecidableEq, Repr

/-- An EVENT entry (R459); `arg` is the group of kind 1, the epoch of kind 10, the flags of kind 11. -/
structure MirEvent where
  kind : Nat
  bay : Nat
  k : Nat
  sec : Nat
  arg : Nat
deriving DecidableEq, Repr

/-- What the parts of a bay's BAYSTATE hold (R464): the bay context with its measurement history, the ordinal, and the publication state of the blocks sourced from the bay. -/
structure BayCopy where
  ctx : Machine.Ctx
  ord : Nat
  pubs : List (Nat × Machine.GoPub)
deriving DecidableEq, Repr

/-- A GOOSE frame whose FCS passed (R409): port, addresses, redundancy sequence number where a trailer or tag is present, APPID, gocbRef, goID where present, timeAllowedToLive in ms, stNum, sqNum, simulation bit, test, confRev, ndsCom, numDatSetEntries, the members decoded, and whether the frame is well formed. -/
structure GooseFrame where
  port : Nat
  dst : Nat
  src : Nat
  red : Option Nat
  appid : Nat
  gocbRef : List Byte
  goId : Option (List Byte)
  tal : Nat
  st : Nat
  sq : Nat
  sim : Bool
  test : Bool
  confRev : Nat
  ndsCom : Bool
  entries : Nat
  vals : List Machine.GVal
  wellFormed : Bool
deriving DecidableEq, Repr

end Sys2Proof
end

