-- ==== Sys2Proof/Syntax.lean ====
section
/-! DEFINITION. The commands, bus accesses and events the block takes: one constructor of `Instr` for each row of the table of operations and events, with the row's operands. What the outside determines (the contents of a frame, a measured value, a pin level) is an operand. -/

namespace Sys2Proof

/-- The commands and events of the part: one constructor for each row of the table of operations and events. -/
inductive Instr
  /-- NOP: Command that does nothing and completes OK in every mode. -/
  | nop (e : CmdEntry)
  /-- IDENTIFY: Command that returns the part, revision, mode, unit ID, library version and enabled resources. -/
  | identify (e : CmdEntry)
  /-- MODE_SET: Command that requests a mode transition, checked against R27 and any authority token. -/
  | modeSet (e : CmdEntry)
  /-- RING_CREATE: Command that creates a ring of a given type, size, vector and moderation; held events are delivered to the first matching EVT ring. -/
  | ringCreate (e : CmdEntry)
  /-- RING_DESTROY: Command that stops the part writing a ring and makes it ignore the ring's doorbell. -/
  | ringDestroy (e : CmdEntry)
  /-- IMAGE_LOAD: Command that reads, verifies and writes an image or certificate to the slot that is not selected. -/
  | imageLoad (e : CmdEntry)
  /-- IMAGE_COMMIT: Command that selects the pending image, may advance rollback and revoke keys, and schedules a scheme's effect. -/
  | imageCommit (e : CmdEntry)
  /-- ATTEST: Command that writes a signed attestation report, the certificate chain or the identity modulus to host memory. -/
  | attest (e : CmdEntry)
  /-- DEBUG_UNLOCK: Command that issues a challenge, grants a debug scope on a valid token, or ends the grant, according to its phase. -/
  | debugUnlock (e : CmdEntry)
  /-- TIME_RESTEP: Command that requests a re-step of disputed time to the candidate time. -/
  | timeRestep (e : CmdEntry)
  /-- SCHED_ADD: Command that fills a scheduled-action slot, judged for lateness under R71. -/
  | schedAdd (e : CmdEntry)
  /-- SCHED_CANCEL: Command that frees a scheduled-action slot unless its execution is less than 10 µs away. -/
  | schedCancel (e : CmdEntry)
  /-- AFE_SNAP: Command that requests a point-on-wave snapshot of chosen channels, either at once or at a given ATT. -/
  | afeSnap (e : CmdEntry)
  /-- AFE_CAL: Command that requests out-of-turn spare steps, a foreground SAR calibration or a reference-buffer calibration. -/
  | afeCal (e : CmdEntry)
  /-- BAY_START: Command that requests a bay start at its first evaluation instant at least 100 µs after acceptance. -/
  | bayStart (e : CmdEntry)
  /-- BAY_STOP: Command that requests a bay stop at its first evaluation instant at least 100 µs after acceptance. -/
  | bayStop (e : CmdEntry)
  /-- GROUP_SELECT: Command that requests a settings-group switch for a running bay. -/
  | groupSelect (e : CmdEntry)
  /-- BAY_STATE_READ: Command that copies selected parts of a bay's state to host memory at a task boundary. -/
  | bayStateRead (e : CmdEntry)
  /-- TARGET_RESET: Command that requests the reset of a bay's latched targets and latched CT_SUPV outputs. -/
  | targetReset (e : CmdEntry)
  /-- CELL_SPLIT: Command that detaches one position from a group at a task boundary, optionally as an observer. -/
  | cellSplit (e : CmdEntry)
  /-- CELL_JOIN: Command that returns a detached position to its group at a task boundary. -/
  | cellJoin (e : CmdEntry)
  /-- CELL_MIGRATE: Command that requests a migration of a bay to a spare group. -/
  | cellMigrate (e : CmdEntry)
  /-- SELFTEST: Command that runs a self-test of the kind given on a target. -/
  | selftest (e : CmdEntry)
  /-- REC_FORCE: Command that fires trigger index 16 on a bay at its first instant at least 10 µs after acceptance. -/
  | recForce (e : CmdEntry)
  /-- REC_FETCH: Command that writes a native record, COMTRADE stream, summary or index list to host memory and announces it on a REC ring. -/
  | recFetch (e : CmdEntry)
  /-- REC_RELEASE: Command that frees one record, or every COMPLETE and LOST record. -/
  | recRelease (e : CmdEntry)
  /-- HIST_SNAPSHOT: Command that copies a bay's statistics to host memory, optionally clearing them. -/
  | histSnapshot (e : CmdEntry)
  /-- MIR_ROLE: Command that requests a role move between the units of a pair, or clears revert suspension. -/
  | mirRole (e : CmdEntry)
  /-- MIR_SYNC: Command that starts a bay resynchronisation or a full resynchronisation of the pair. -/
  | mirSync (e : CmdEntry)
  /-- MET_INTERVAL_POST: Command that posts a downstream energy total for a closed interval, which is then judged. -/
  | metIntervalPost (e : CmdEntry)
  /-- MET_READ: Command that writes an open or closed interval record, or lifetime totals, to host memory. -/
  | metRead (e : CmdEntry)
  /-- BEL_TEST_PUBLISH: Command that sends one test state change of a GOOSE block, encoded from a given word. -/
  | belTestPublish (e : CmdEntry)
  /-- CMD_DOORBELL: Write of a CMD ring's tail doorbell, which is checked and makes new commands available for fetch. -/
  | cmdDoorbell (ring : Nat) (value : Nat)
  /-- HEAD_DOORBELL: Write of a part-to-host ring's head doorbell, which is checked and releases slots to the part. -/
  | headDoorbell (ring : Nat) (value : Nat)
  /-- COMMAND_FETCH: The part fetches a command from a CMD ring, reserves a completion slot and checks and accepts the command. -/
  | commandFetch (err : Bool)
  /-- DMA_COMPLETION_TIMEOUT: A read request issued by the part receives no completion within 50 ms and counts as a DMA error. -/
  | dmaCompletionTimeout (r : DmaRead)
  /-- MSIX_MODERATION_EXPIRY: The oldest unsignalled entry of a ring reaches its moderation time and the ring's vector fires. -/
  | msixModerationExpiry (ring : Nat)
  /-- MSIX_VECTOR_UNMASK: A masked vector with its PBA bit set is unmasked and sends its message. -/
  | msixVectorUnmask (vec : Nat)
  /-- DPORT_READ: A read through the DPORT window reaches the internal address in DPC_ADDR and advances it. -/
  | dportRead (len : Nat) (enabled : Bool)
  /-- DPORT_WRITE: A write through the DPORT window reaches the internal address, subject to its region's rules, and advances it. -/
  | dportWrite (data : List Byte) (enabled : Bool)
  /-- DPORT_UNDERRUN: A DPORT read whose data is not ready within 10 µs completes with zeros and sets underrun. -/
  | dportUnderrun (len : Nat)
  /-- DPC_ADDR_WRITE: Write of the data-port address, applied once earlier DPORT accesses have completed. -/
  | dpcAddrWrite (hi : Bool) (value : Nat)
  /-- REGISTER_WRITE: A SETUP write to a register with no row of its own, with its access, range and seal checks. -/
  | registerWrite (addr : Nat) (data : Nat) (be : Nat)
  /-- ALM_PRESET: Writing ALM_CTL.preset requests a time preset, which is accepted or rejected. -/
  | almPreset
  /-- ALM_SNAP: Writing ALM_CTL.snap latches the current ATT into ALM_NOW_*. -/
  | almSnap
  /-- ROT_NOW: Writing CFG_CTL.rot_now starts the next rotation step, or queues it behind a running step. -/
  | rotNow
  /-- FLT_SYNC_RESET: Writing FLT_CTLn.sync_reset requests a synchronising reset of channel n at its next S0 input. -/
  | fltSyncReset (ch : Nat)
  /-- FLT_SWAP_REQUEST: Writing s3_swap or s4_swap requests a coefficient-bank fade, which is rejected, deferred, ignored or scheduled. -/
  | fltSwapRequest (ch : Nat) (s3 : Nat) (s4 : Nat)
  /-- ADMIN_EN: Writing HIF_CTL.admin_en creates rings 0 and 1 from the admin registers. -/
  | adminEn
  /-- ADMIN_RESET: Writing HIF_CTL.admin_reset destroys every ring and resets the host island's ring state. -/
  | adminReset
  /-- CUP_REARM: Writing CUP_BAYn_CTL.rearm re-arms a bay in SINGLE trigger mode. -/
  | cupRearm (bay : Nat)
  /-- LKS_DBG_ATTACH: Writing LKS_DBG_CTL.attach requests the attach of a cell to the debug port, accepted only in TEST under a grant. -/
  | lksDbgAttach (cell : Nat)
  /-- LKS_DBG_DETACH: Writing LKS_DBG_CTL.detach requests the end of a debug attach. -/
  | lksDbgDetach
  /-- OTP_PROG_GO: Writing SEC_OTP_PROG_CTL.go starts the programming of one OTP word, if the conditions are met. -/
  | otpProgGo
  /-- OTP_PROG_DONE: An OTP programming operation completes and the word is read back and checked. -/
  | otpProgDone (readback : Nat)
  /-- DTO_EN_WRITE: Write of MODE_CTL.dto_en; a clear holds the DTO pins inactive within 1 µs, and a set is scheduled on the grid. -/
  | dtoEnWrite (value : Bool)
  /-- DTO_EN_EFFECT: A set of dto_en takes effect at the first 14,400 S/s instant at least 100 µs after the write. -/
  | dtoEnEffect
  /-- AFE_CFG_EFFECT: A change to the channel enables or the interleaving takes effect at the top of a TAI second, with a synchronising reset. -/
  | afeCfgEffect
  /-- FAST_PATH_STOP: After fast_run is cleared, the fast path stops at the next top of a TAI second. -/
  | fastPathStop
  /-- POWER_GOOD: RESET_N is high and PWR_FAIL_N has been high for 10 ms, so the part enters BOOT and starts the boot chain. -/
  | powerGood
  /-- BOOT_STAGE_VERIFIED: A boot stage finishes verifying the next image; the chain goes on, halts, or completes with entry to the requested mode. -/
  | bootStageVerified (otpOk : Bool) (flashOk : Bool)
  /-- DRAM_TRAINING_DONE: DRAM training ends; DEV_CAP2 is set and the record-area check deferred until now is made. -/
  | dramTrainingDone (good : Bool) (eightGib : Bool)
  /-- RESET_N_ASSERT: RESET_N is held low for at least 1 µs after power good, which resets every island without a dying sequence. -/
  | resetNAssert
  /-- PWR_FAIL_ASSERT: PWR_FAIL_N is detected low, which starts the dying sequence: background work is gated and metering frozen. -/
  | pwrFailAssert
  /-- PROT_HOLD_END: The protection hold of the dying sequence expires; DTO levels are held, GASP is sent, and the islands are latched and gated. -/
  | protHoldEnd
  /-- DYING_BLOCK_WRITTEN: The dying block header page is written to flash and the part halts. -/
  | dyingBlockWritten (durUs : Nat) (energy : Nat)
  /-- PWR_FAIL_RELEASE: PWR_FAIL_N has stayed high for 10 ms after a completed dying sequence, and the part re-enters BOOT. -/
  | pwrFailRelease
  /-- RAIL_FAULT: A rail leaves its band for more than 10 µs; it is a SAFE cause while PWR_FAIL_N is high. -/
  | railFault (rail : Nat)
  /-- PLL_LOCK_LOSS: The Almanac PLL loses lock, or OSC_IN stops, for more than 1 ms, which is a SAFE cause. -/
  | pllLockLoss
  /-- D2D_FAILURE: The die-to-die interface fails and cannot retrain within 10 ms, which is a SAFE cause. -/
  | d2dFailure
  /-- THERMAL_SAFE: A sensor reaches 155 °C, which is a SAFE cause. -/
  | thermalSafe (sensor : Nat) (temp : Int)
  /-- THERMAL_SHUTDOWN: A sensor reaches 165 °C, so hardware holds every island in reset and drives the DTO pins low. -/
  | thermalShutdown (sensor : Nat) (temp : Int)
  /-- THERMAL_SHUTDOWN_RELEASE: Tj falls below 140 °C after a shutdown and the part enters BOOT. -/
  | thermalShutdownRelease (temps : List Int)
  /-- THERMAL_THROTTLE: A sensor reaches 140 °C, so the part throttles its background work. -/
  | thermalThrottle (sensor : Nat) (temp : Int)
  /-- THERMAL_RELEASE: Every sensor has stayed below 135 °C for 10 s, so throttling ends. -/
  | thermalRelease (temps : List Int)
  /-- DRAM_CE_HIGH: DRAM corrected errors in the current hour exceed the threshold, which is a degraded cause. -/
  | dramCeHigh (count : Nat)
  /-- DRAM_CE_HOUR_END: A clock hour ends within the DRAM error threshold, which clears the degraded cause. -/
  | dramCeHourEnd (count : Nat)
  /-- PCIE_FLR: A PCIe function-level reset resets the host island's ring state only. -/
  | pcieFlr
  /-- PERST_ASSERT: PERST# is asserted, or the PCIe link goes down, which resets ring state once the link returns. -/
  | perstAssert (linkDown : Bool)
  /-- ALMANAC_STEP: The time counter is stepped by a first lock, a preset or a re-step; grids, filters, slots, records and scheduled actions are adjusted. -/
  | almanacStep (sec : Nat) (ns : Nat) (cause : StepCause)
  /-- PTP_SYNC_RX: A Sync from the selected grandmaster is a measurement, which drives the servo and the lock-state transitions. -/
  | ptpSyncRx (m : PtpSync)
  /-- PTP_ANNOUNCE_RX: An Announce is received and used for best-master selection and source usability. -/
  | ptpAnnounceRx (m : PtpAnnounce)
  /-- PTP_PDELAY_RX: A peer-delay message is received and answered with a one-step Pdelay_Resp, or used for delay measurement. -/
  | ptpPdelayRx (m : PtpPdelay)
  /-- TC_EVENT_FORWARD: A PTP event message crosses the switch and has its residence time added to correctionField. -/
  | tcEventForward (frame : List Byte) (ingress : Nat) (egress_ : Nat) (residence : Int)
  /-- TC_FOLLOW_UP_FORWARD: A Follow_Up crosses the switch and is corrected from the correlation table, or forwarded unchanged as an orphan. -/
  | tcFollowUpForward (frame : List Byte) (ingress : Nat) (egress_ : Nat)
  /-- TC_ENTRY_EXPIRY: A correlation-table entry left unmatched for 100 ms is freed. -/
  | tcEntryExpiry
  /-- PPS_IN_EDGE: A rising edge on PPS_IN is a measurement of the top of a TAI second. -/
  | ppsInEdge
  /-- IRIGB_FRAME: An IRIG-B frame is decoded for phase and, with IEEE 1344 extensions, for seconds and leap information. -/
  | irigbFrame (f : IrigFrame)
  /-- SOURCE_LOST: A time source stops delivering within its limit; Almanac changes source or enters holdover or free-run. -/
  | sourceLost (src : Nat)
  /-- DISPUTE_HOLD_EXPIRY: The dispute hold runs out and Almanac starts slewing toward the source. -/
  | disputeHoldExpiry
  /-- RESTEP_READY: The candidate time has persisted for confirm_s, so restep_ready is set. -/
  | restepReady
  /-- RESTEP_LANDING: An accepted re-step reaches its top of a second and is applied, or is aborted if the lock state has left 4. -/
  | restepLanding
  /-- PRESET_LANDING: An accepted preset reaches the next top of a second and is applied as a step. -/
  | presetLanding
  /-- HOLDOVER_TRACE_LOSS: In holdover, err_class exceeds trace_class and traceable clears. -/
  | holdoverTraceLoss
  /-- LEAP_APPLY: At the end of a UTC day with a leap second announced, tai_utc is adjusted and leap_pending clears. -/
  | leapApply
  /-- PPS_OUT_PULSE: PPS_OUT rises at the top of a TAI second, if enabled and gated, and falls after out_width_ms. -/
  | ppsOutPulse
  /-- SCHED_EXECUTE: A scheduled action reaches its execution instant and is executed, or skipped under R74; a repeating action advances. -/
  | schedExecute
  /-- SAMPLE_SYNC_EDGE: An active SAMPLE_SYNC edge is timestamped and starts, latches or overruns a conversion. -/
  | sampleSyncEdge (rising : Bool) (at_ : Nat)
  /-- LATCHED_CONVERSION_START: A latched SAMPLE_SYNC conversion starts once the SARs are ready, marked RESTARTED. -/
  | latchedConversionStart
  /-- SYNC_LOST: No SAMPLE_SYNC edge arrives for 1,929 ns, so conversion falls back to the grid with a synchronising reset. -/
  | syncLost
  /-- SYNC_RESTORED: After a full good second of edges, conversion returns to SAMPLE_SYNC at the top of a second. -/
  | syncRestored
  /-- SYNC_RATE_CHECK: At each TAI second the mean SAMPLE_SYNC rate is checked against ±200 ppm. -/
  | syncRateCheck
  /-- CONVERSION_COMPLETE: A fast-path conversion completes and its result is written to the channel's circular buffer with its flags. -/
  | conversionComplete (ch : Nat) (at_ : Nat) (code : Int) (selfOk : Bool)
  /-- SNAPSHOT_TAKE: A point-on-wave snapshot holds and converts the selected channels, aborting or deferring grid conversions. -/
  | snapshotTake
  /-- SNAPSHOT_RESULT: The snapshot conversions complete; the latch and host words are written and AFE_SNAP completes. -/
  | snapshotResult (codes : List Int)
  /-- DISPLACED_CONVERSION: A conversion displaced by a snapshot holds 160 ns after it and is marked RESTARTED. -/
  | displacedConversion (ch : Nat)
  /-- SPARE_STEP_DUE: The rotation interval of the spare SAR expires and the next shadow phase starts on the next SAR. -/
  | spareStepDue
  /-- SPARE_PHASE_DONE: A phase of a spare step completes and the next phase, a retry or a permanent substitution follows. -/
  | sparePhaseDone (mismatch : Nat) (calOk : Bool) (gain : Nat) (ofs : Nat) (skew : Nat)
  /-- AFE_CAL_DONE: A requested AFE calibration finishes and AFE_CAL completes. -/
  | afeCalDone
  /-- REF_FAULT: A reference buffer leaves tolerance, which invalidates its group's results. -/
  | refFault (group : Nat)
  /-- REF_RESTORED: A reference buffer has stayed in tolerance for 1 ms, which clears the fault. -/
  | refRestored (group : Nat)
  /-- MET_BOUNDARY: A tracker detects a positive zero crossing, which closes a metering cycle and writes a cycle block. -/
  | metBoundary (trk : Nat) (m : MetCycle)
  /-- MET_NEG_CROSSING: A tracker's negative crossing checks the half-cycle frequency and may abort the running integration. -/
  | metNegCrossing (trk : Nat)
  /-- TRK_FREE_RUN_BOUNDARY: A free-running tracker places a boundary 1/f_nom after the last one. -/
  | trkFreeRunBoundary (trk : Nat) (m : MetCycle)
  /-- MET_CYCLE_BLOCK: The MET block consumes a cycle block, accumulating energy, squared current and the bypass signature. -/
  | metCycleBlock (trk : Nat)
  /-- MET_INTERVAL_CLOSE: An interval closes once the block spanning its boundary is complete, and its record is written. -/
  | metIntervalClose (bay : Nat)
  /-- POST_MISSING: An interval has had no post for post_wait_min after its close. -/
  | postMissing (bay : Nat)
  /-- FILTER_OUTPUT: A filter stage forms a tagged output, which is staged into bay slots and taps. -/
  | filterOutput (ch : Nat)
  /-- FADE_START: A requested bank swap begins its fade at the first stage output tagged at or after T_s. -/
  | fadeStart (ch : Nat) (s4 : Bool)
  /-- SV_FRAME_RX: A sampled-value frame is received; it is checked, deduplicated, tagged, supervised and staged. -/
  | svFrameRx (f : SvFrame)
  /-- SV_REORDER_EXPIRY: The reorder wait for a gap runs out and the missing instants are interpolated. -/
  | svReorderExpiry (stream : Nat)
  /-- SV_DEADLINE_EXPIRY: An SV instant's deadline passes with no sample, so a substitute or invalid sample is written and the stream state may change. -/
  | svDeadlineExpiry (stream : Nat)
  /-- DD_ENTRY_FORGET: A duplicate-discard entry is forgotten dd_forget after its first frame. -/
  | ddEntryForget
  /-- SV_PUBLISH_FRAME: A published SV frame is sent once its last ASDU's samples exist. -/
  | svPublishFrame (stream : Nat)
  /-- BAY_TASK_START: A sealed slot's doorbell, with the previous task committed and BIN debounce done, starts the bay task on every copy. -/
  | bayTaskStart (bay : Nat) (ce : List Nat)
  /-- TASK_WATCHDOG: The first copy runs wd_cycles without ending, so the task is aborted and nothing is committed. -/
  | taskWatchdog (bay : Nat)
  /-- EARLY_WINDOW_CLOSE: Every copy fills the early-close entry, so the window closes and is judged before its task ends. -/
  | earlyWindowClose (bay : Nat) (w : WindowEnd)
  /-- WINDOW_CLOSE: A window's signatures are judged by both comparators, and the chosen lane is committed with its emissions handed to Belfry and Cupola. -/
  | windowClose (bay : Nat) (w : WindowEnd)
  /-- RESYNC_CHECK_DONE: The check sequence of a resynchronising cell ends; the cell rejoins, or the failure and any structural fault are handled. -/
  | resyncCheckDone (group : Nat) (pos : Nat) (ok : Bool)
  /-- DTO_DEMAND_FALL: A DTO pin's demand falls, or its minimum width expires after the fall, and the pin goes inactive. -/
  | dtoDemandFall (pin : Nat)
  /-- DTO_FAULT: A DTO pin differs from its intended level for more than 2 µs. -/
  | dtoFault (pin : Nat)
  /-- MIGRATION_PRECOPY_DONE: The settings groups have been copied to the destination and the migration waits for a boundary. -/
  | migrationPrecopyDone
  /-- MIGRATION_REDIRECT: Context and slot copies complete; staging is redirected to the destination and held writes are released. -/
  | migrationRedirect
  /-- ROTATION_STEP_DUE: The rotation interval expires and the next rotation step starts or waits. -/
  | rotationStepDue
  /-- LOGIC_SELFTEST_DONE: A group's logic self-test completes; the group returns to the spare pool or failed cells are marked. -/
  | logicSelftestDone (group : Nat) (failMask : Nat) (pathsOk : Bool)
  /-- ECC_UNCORRECTABLE: A task or the scrubber finds an uncorrectable SRAM error, which is repaired by location; the task re-runs and the cluster may be quarantined. -/
  | eccUncorrectable (cluster : Nat) (offset : Nat) (met : Option Nat)
  /-- ECC_HOUR_END: A clock hour ends and the corrected-error threshold condition is updated. -/
  | eccHourEnd
  /-- BRIDGE_UNCORRECTABLE: A bridge crossing finds an uncorrectable error and discards the word. -/
  | bridgeUncorrectable (island : Nat) (sample : Crossing)
  /-- MODE_SET_EFFECT: An accepted MODE_SET takes effect at its grid instant. -/
  | modeSetEffect
  /-- IMAGE_APPLY: A committed scheme image takes effect: REGSET applied, sections loaded, bays kept live or restarted. -/
  | imageApply
  /-- BAY_START_EFFECT: A bay is built from the image and started at its effect instant. -/
  | bayStartEffect (bay : Nat)
  /-- BAY_STOP_EFFECT: A bay stops at its effect instant and hands its stop word. -/
  | bayStopEffect (bay : Nat)
  /-- GROUP_SWITCH_EFFECT: A settings-group switch takes effect at its evaluation instant. -/
  | groupSwitchEffect (bay : Nat)
  /-- TARGET_RESET_EFFECT: A target reset takes effect, clearing the target record and latched CT_SUPV outputs. -/
  | targetResetEffect (bay : Nat)
  /-- CELL_FORM_CHANGE: A split or join takes effect at its task boundary, changing the group's form. -/
  | cellFormChange (grp : Nat) (ok : Bool)
  /-- DEBUG_ATTACH_EFFECT: A debug attach or detach takes effect at the group's task boundary. -/
  | debugAttachEffect (ok : Bool)
  /-- BIN_ACCEPT: A new binary-input level has held for N samples and is accepted, with chatter checked. -/
  | binAccept (input : Nat) (level : Bool) (sec : Nat) (m : Nat)
  /-- BIN_CHATTER_RELEASE: At the end of a quiet TAI second, a frozen binary input is released. -/
  | binChatterRelease (input : Nat) (changes : Nat)
  /-- RECORD_LINE: Cupola takes a bay's record line, stores it in the ring and evaluates triggers; a record opens or extends. -/
  | recordLine (bay : Nat)
  /-- RECORD_T0_REFINED: A LEVEL_INST T0 is refined from IR samples, and any cross-trigger is handed to Belfry. -/
  | recordT0Refined (bay : Nat)
  /-- RECORD_POST_END: A record's last post instant is decided and the record enters SEALING. -/
  | recordPostEnd (bay : Nat)
  /-- RECORD_SEALED: SEALING ends; the record moves to TAIL or COMPLETE and the oldest queued trigger opens a record. -/
  | recordSealed (bay : Nat)
  /-- RECORD_TAIL_END: A record's RMS tail ends and it becomes COMPLETE. -/
  | recordTailEnd (num : Nat)
  /-- AUTO_TRIGGER: In AUTO mode, auto_s passes without a record and trigger index 18 fires. -/
  | autoTrigger (bay : Nat)
  /-- INDEX_FLASH_COPY: A sealed record's index entry and summary, or a release mark, are written to flash. -/
  | indexFlashCopy
  /-- ETH_FRAME_RX: A frame is received on a port and forwarded by the switch and its tables. -/
  | ethFrameRx (port : Nat) (frame : List Byte) (fcsOk : Bool)
  /-- BELFRY_FRAME_RX: A frame with the Belfry EtherType goes to the pair logic, to Cupola as a cross-trigger, or is ignored. -/
  | belfryFrameRx (payload : List Byte)
  /-- GOOSE_FRAME_RX: A GOOSE frame matching a subscription is accepted, rejected, or found a duplicate or stale. -/
  | gooseFrameRx (f : GooseFrame)
  /-- GOOSE_TAL_EXPIRY: A subscription's timeAllowedToLive runs out and it becomes LOST. -/
  | gooseTalExpiry (sub : Nat)
  /-- GOOSE_RETRANSMIT: A GOOSE retransmission falls due on the bay's grid and is sent. -/
  | gooseRetransmit (block : Nat)
  /-- BEACON_SEND: At each whole millisecond of TAI a BEACON frame is sent. -/
  | beaconSend
  /-- LINK_STATE_CHANGE: A port link goes up or down. -/
  | linkStateChange (port : Nat) (up : Bool) (speed : Nat)
  /-- LAN_FAULT_TIMEOUT: A redundant port has received nothing for 100 ms while its partner has. -/
  | lanFaultTimeout (pair : Nat)
  /-- PRP_SUPERVISION_SEND: Every 2 s a PRP supervision frame is sent. -/
  | prpSupervisionSend
  /-- MAC_AGE_OUT: A learned unicast entry ages out after age_s. -/
  | macAgeOut
  /-- HEARTBEAT_SEND: Every 100 µs a HEARTBEAT goes out on both mirror lanes. -/
  | heartbeatSend
  /-- HEARTBEAT_RX: A partner heartbeat is received and used for time offset, configuration, contention and entry checks. -/
  | heartbeatRx (h : LinkHead) (b : Heartbeat)
  /-- SAMPLES_RX: The standby stages mirrored samples and BIN levels. -/
  | samplesRx (h : LinkHead) (m : MirSamples)
  /-- MIRROR_DEADLINE: A mirrored word has not arrived by its deadline, so the standby falls back to its own samples. -/
  | mirrorDeadline
  /-- EVENT_RX: An EVENT frame delivers forwarded requests or hand-over messages to the partner. -/
  | eventRx (h : LinkHead) (es : List MirEvent)
  /-- SNAPSHOT_SEND: Once every running bay has committed a snapshot instant, the active sends the snapshot. -/
  | snapshotSend
  /-- SNAPSHOT_PART_RX: A snapshot part is received; a complete, valid snapshot is committed and compared with the shadow. -/
  | snapshotPartRx (h : LinkHead) (part : Nat) (count : Nat) (data : List Byte)
  /-- SNAPSHOT_TIMEOUT: A snapshot is not complete within 1 ms of its first part and is discarded. -/
  | snapshotTimeout
  /-- LANE_DOWN_TIMEOUT: A mirror lane delivers no valid heartbeat for 1 ms and goes down. -/
  | laneDownTimeout (lane : Nat)
  /-- FULL_RESYNC_START: A full resynchronisation starts when its preconditions hold or on MIR_SYNC. -/
  | fullResyncStart
  /-- BAY_RESYNC_STEP: At each whole millisecond of a full resynchronisation, the next bay resynchronisation begins. -/
  | bayResyncStep
  /-- BAYSTATE_RX: The standby receives the bay-state copy and adopts it before running k_r. -/
  | baystateRx (h : LinkHead) (bay : Nat) (part : Nat) (count : Nat) (copy : BayCopy)
  /-- BAY_RESYNC_TIMEOUT: The copy is incomplete 200 µs after the standby's seal of k_r, so k_r runs on own state. -/
  | bayResyncTimeout (bay : Nat)
  /-- PARTNER_LOSS: No partner heartbeat or beacon for more than 3 ms is detected as a takeover cause. -/
  | partnerLoss
  /-- TAKEOVER_EFFECT: At the takeover instant the standby reconciles authority, sets epoch and stNum, and enters SERVICE. -/
  | takeoverEffect
  /-- REVERT_HOLDOFF_EXPIRY: Unit A has stayed SYNCED for holdoff_s and becomes revert ready. -/
  | revertHoldoffExpiry
  /-- QUIET_INSTANT: The active finds a quiet instant and proposes a hand-over. -/
  | quietInstant
  /-- HANDOVER_EFFECT: At k_h after a commit, the units swap roles. -/
  | handoverEffect
  /-- CONTENTION_EFFECT: Unit B in contention enters VIGIL at the first grid instant at least 100 µs after detection. -/
  | contentionEffect
  /-- LOG_CHECKPOINT: A CHECKPOINT entry and signature entries are appended after 256 entries, a MODE entry, or 10 s. -/
  | logCheckpoint
  /-- SVT_ENTRY_TIMEOUT: An SVT entry is written 100 µs after its first word. -/
  | svtEntryTimeout
  /-- TOKEN_LOCK_EXPIRY: The 10-minute token lockout ends. -/
  | tokenLockExpiry
  /-- DEBUG_GRANT_EXPIRY: A debug grant reaches its not-after time and ends. -/
  | debugGrantExpiry
  /-- CHALLENGE_EXPIRY: A debug challenge expires after 60 s. -/
  | challengeExpiry
  /-- PTP_INTERVAL_SEND: At each of its intervals the part originates a one-step Sync, an Announce as boundary-clock master, or a Pdelay_Req for peer delay. -/
  | ptpIntervalSend (kind : Nat) (port : Nat)
  /-- SCRUB_CORRECTED: The SRAM scrubber corrects a single-bit error, writes it back and counts it for the bank, which may raise ECC_CE_HIGH. -/
  | scrubCorrected (cluster : Nat) (bank : Nat)
  /-- IMAGE_LOAD_DONE: An IMAGE_LOAD finishes reading, verifying and writing the slot, reads it back, and completes. -/
  | imageLoadDone (flashOk : Bool)
  /-- SELFTEST_DONE: A SELFTEST of kind 3 to 6 finishes; PWR_SELFTEST_STAT is loaded, SELFTEST_DONE is raised and the command completes. -/
  | selftestDone (faults : Nat) (cells : List Nat)
  /-- REC_FETCH_DONE: A REC_FETCH finishes writing its output and announcements, and its deferred completion is written. -/
  | recFetchDone
  /-- THERMAL_MARGIN_CLEAR: A throttle entry ages out of the 24 h window, so fewer than margin_n remain and the degraded cause clears. -/
  | thermalMarginClear
  /-- HANDOVER_TIMEOUT: No HANDOVER_ACCEPT arrives within 200 µs, or no commit is possible by k_h − 200 µs, so the active cancels the hand-over. -/
  | handoverTimeout
  /-- MIR_ROLE_QUIET_TIMEOUT: No quiet instant occurs within 10 s of a MIR_ROLE, which then completes with ABORTED. -/
  | mirRoleQuietTimeout
  /-- MIR_FRAME_TIMEOUT: A mirror-link frame is not complete 20 µs after its first byte, so it is discarded and counted in the lane error counter. -/
  | mirFrameTimeout (lane : Nat)
  /-- BAY_RESYNC_RETRY: At least 10 ms after a failed or divergence-scheduled bay resynchronisation, the active starts a bay resynchronisation of that bay. -/
  | bayResyncRetry (bay : Nat)
  /-- PCIE_LINK_UP: The PCIe link comes up again after PERST# or link loss, and the host island's ring state is reset as under R32. -/
  | pcieLinkUp
  /-- PCIE_POWER_STATE_CHANGE: The host moves the function between D0 and D3hot, which stops or resumes the part's memory requests and MSI-X messages. -/
  | pciePowerStateChange (d3hot : Bool)
deriving DecidableEq, Repr

end Sys2Proof
end

