-- ==== Sys2Proof/Config.lean ====
section
/-! DEFINITION. What an implementation fixes and the spec leaves open: constants with no body, so that no proof can see what they are. -/

namespace Sys2Proof.Config

/-- Haldilo's PCI Vendor ID (R481, R571: the value is not stated). -/
opaque vendorId : Nat
/-- The boot ROM version (R571: "Fixed", the value is not stated). -/
opaque romVersion : Nat
/-- A fresh value at each count, where the spec leaves a value open and no operand fixes it. -/
opaque freeWord : Nat → Word
/-- Fresh bytes at each count: the challenge of R536 and the key pair of R533 come from the true random source. -/
opaque randomByte : Nat → Nat → Byte
/-- The private exponent that the private region of the identity key holds (R525, R533: its form is not stated). -/
opaque rsaExponent : List Byte → Nat
/-- The random salt of a signature by the identity key (R509, R534): private key, message, byte. -/
opaque pssSalt : List Byte → List Byte → Nat → Byte
/-- The modulus that belongs to a freshly generated private key (R533). -/
opaque rsaModulus : List Byte → List Byte
/-- The subject public key of an X.509 certificate chain (R528, R533), as its modulus. -/
opaque certSubjectKey : List Byte → Option (List Byte)
/-- The rate correction the servo asks for on a measurement (R54 bounds it and says no more): offset in 2^-16 ns and the present increment. -/
opaque servoInc : Int → Nat → Nat
/-- The servo's offset deviation in ns (R56 names it and does not define it), from the offsets of the last measurements. -/
opaque offsetDeviation : List Int → Nat

/-- The correction terms that the calibration in BOOT gives a SAR (R114, R125): SAR, and 0 gain, 1 offset, 2 skew. -/
opaque bootTerm : Nat → Nat → Nat

/-- The SARs that fail a foreground calibration (R99, R100), as a mask, at a count of the free counter. -/
opaque calFailed : Nat → Nat

/-- The correction term that a foreground calibration finds (R100): count of the free counter, SAR, and 0 gain, 1 offset, 2 skew. -/
opaque calTerm : Nat → Nat → Nat → Nat

/-- The column of the fixed linear compression that folds a bit of a copy's state (R424 states its properties and not its columns). -/
opaque foldColumn : Nat → BitVec 64

/-- The error of the element library's fixed routines within the bound that R216 and R604 state: routine, and its operands. -/
opaque fnErr : Nat → Nat → Nat → Nat

/-- The decimal text of a binary64 number in a COMTRADE .cfg (R370 states the values and not how a fraction is written). -/
opaque realText : Nat → List Byte

/-- The bytes that the element library keeps in private places of a bay context (R288, R291, R292): which block, its private values, the offset. -/
opaque libByte : Nat → List (Nat × Int) → Nat → Byte

/-- The internal addresses of a bay's record configuration block and trigger table (R294 names them and does not place them): bay, and 0 or 1. -/
opaque recConfigAddr : Nat → Nat → Nat

end Sys2Proof.Config
end

