-- ==== Sys2Proof/Machine/Bits.lean ====
section
/-! DEFINITION. Byte order, bit fields and exact rounding, as plain functions (R5, R38, R42, R124). -/

namespace Sys2Proof.Machine

/-- The low `n` bytes of `v`, least significant first (R5: memory structures are little-endian). -/
def leBytes : Nat → Nat → List Byte
  | 0, _ => []
  | n + 1, v => BitVec.ofNat 8 v :: leBytes n (v / 256)

/-- The `n` bytes of `v`, most significant first, for wire formats. -/
def beBytes (n v : Nat) : List Byte := (leBytes n v).reverse

/-- The value of a little-endian byte string (R5). -/
def leVal : List Byte → Nat
  | [] => 0
  | b :: bs => b.toNat + 256 * leVal bs

/-- The value of a big-endian byte string. -/
def beVal (bs : List Byte) : Nat := leVal bs.reverse

/-- `n` bytes at offset `o` of a byte string; bytes beyond its end read 0. -/
def slice (bs : List Byte) (o n : Nat) : List Byte :=
  let t := (bs.drop o).take n
  t ++ List.replicate (n - t.length) 0

/-- The little-endian field of `n` bytes at offset `o` (R5, R490). -/
def field (bs : List Byte) (o n : Nat) : Nat := leVal (slice bs o n)

/-- The big-endian field of `n` bytes at offset `o`. -/
def fieldBE (bs : List Byte) (o n : Nat) : Nat := beVal (slice bs o n)

/-- `src` written over `bs` at offset `o`; the length of `bs` is kept when `src` fits. -/
def patch (bs : List Byte) (o : Nat) (src : List Byte) : List Byte :=
  slice bs 0 o ++ src ++ bs.drop (o + src.length)

/-- Bits `hi` down to `lo` of a number. -/
def bitsOf (v hi lo : Nat) : Nat := (v / 2 ^ lo) % 2 ^ (hi + 1 - lo)

/-- Bit `i` of a number. -/
def bitOf (v i : Nat) : Bool := (v / 2 ^ i) % 2 == 1

/-- A bit as a number. -/
def b2n (b : Bool) : Nat := if b then 1 else 0

/-- `v` read as a two's-complement number of `w` bits. -/
def toSigned (w v : Nat) : Int :=
  let m := v % 2 ^ w
  if m < 2 ^ (w - 1) then (m : Int) else (m : Int) - (2 ^ w : Nat)

/-- The low `w` bits of an integer, as two's complement. -/
def ofSigned (w : Nat) (i : Int) : Nat := (i % (2 ^ w : Nat)).toNat

/-- `i` held within `lo` and `hi`. -/
def clampI (lo hi i : Int) : Int := if i < lo then lo else if hi < i then hi else i

/-- `v` held at most `hi` (a saturating counter). -/
def capN (hi v : Nat) : Nat := if hi < v then hi else v

/-- `i` saturated to a two's-complement number of `w` bits (R124). -/
def satI (w : Nat) (i : Int) : Int := clampI (-(2 ^ (w - 1) : Nat)) ((2 ^ (w - 1) : Nat) - 1) i

/-- `n / d` rounded to the nearest whole number, ties to even (R38, R42). -/
def rdivN (n d : Nat) : Nat :=
  let q := n / d
  let r := n % d
  if 2 * r < d then q else if d < 2 * r then q + 1 else q + q % 2

/-- `n / d` rounded to the nearest whole number, ties to even, on integers (R124). -/
def rdivI (n : Int) (d : Nat) : Int :=
  let q := n / (d : Int)
  let r := (n % (d : Int)).toNat
  if 2 * r < d then q else if d < 2 * r then q + 1 else q + q % 2

/-- `n / d` rounded up. -/
def cdivN (n d : Nat) : Nat := (n + d - 1) / d

/-- The list with element `i` replaced. -/
def setAt {α : Type} (l : List α) (i : Nat) (a : α) : List α := l.set i a

/-- The last `n` elements of a list. -/
def lastN {α : Type} (n : Nat) (l : List α) : List α := l.drop (l.length - n)

/-- The numbers `0 … n-1`, as tags of a list. -/
def enumFrom0 {α : Type} (l : List α) : List (Nat × α) := (List.range l.length).zip l

/-- The sum of a list of integers. -/
def sumI : List Int → Int
  | [] => 0
  | x :: xs => x + sumI xs

/-- The largest of a list of integers, from `d` on. -/
def maxI (d : Int) : List Int → Int
  | [] => d
  | x :: xs => maxI (if d < x then x else d) xs

/-- The smallest of a list of integers, from `d` on. -/
def minI (d : Int) : List Int → Int
  | [] => d
  | x :: xs => minI (if x < d then x else d) xs

/-- The set bits of a number below `n`, in ascending order. -/
def setBits (n v : Nat) : List Nat := (List.range n).filter (fun i => bitOf v i)

/-- A number whose bits below `n` are those for which `p` holds. -/
def maskOf (n : Nat) (p : Nat → Bool) : Nat :=
  (List.range n).foldl (fun a i => if p i then a + 2 ^ i else a) 0

end Sys2Proof.Machine
end

