-- ==== Sys2Proof/Machine/Sha.lean ====
section
/-! DEFINITION. SHA-256 of FIPS 180-4 and the CRC-32 the part uses (R4, R203, R508). -/

namespace Sys2Proof.Machine

/-- Rotation of a 32-bit number to the right. -/
def rotr32 (x n : Nat) : Nat := (x / 2 ^ n + (x % 2 ^ n) * 2 ^ (32 - n)) % 2 ^ 32

/-- The 32-bit words packed in a number, the first in its lowest bits. -/
def packed32 (n v : Nat) : List Nat := (List.range n).map (fun i => v / 2 ^ (32 * i) % 2 ^ 32)

/-- The round constants of FIPS 180-4, sixteen to a number. -/
def shaK : List Nat :=
  packed32 16
    0xc19bf1749bdc06a780deb1fe72be5d74550c7dc3243185be12835b01d807aa98ab1c5ed5923f82a459f111f13956c25be9b5dba5b5c0fbcf71374491428a2f98
  ++ packed32 16
    0x1429296706ca6351d5a79147c6e00bf3bf597fc7b00327c8a831c66d983e515276f988da5cb0a9dc4a7484aa2de92c6f240ca1cc0fc19dc6efbe4786e49b69c1
  ++ packed32 16
    0x106aa070f40e3585d6990624d192e819c76c51a3c24b8b70a81a664ba2bfe8a192722c8581c2c92e766a0abb650a735453380d134d2c6dfc2e1b213827b70a85
  ++ packed32 16
    0xc67178f2bef9a3f7a4506ceb90befffa8cc7020884c8781478a5636f748f82ee682e6ff35b9cca4f4ed8aa4a391c0cb334b0bcb52748774c1e376c0819a4c116

/-- The eight working words of SHA-256. -/
structure ShaWords where
  a : Nat
  b : Nat
  c : Nat
  d : Nat
  e : Nat
  f : Nat
  g : Nat
  h : Nat
deriving DecidableEq, Repr

/-- The initial hash value of FIPS 180-4. -/
def shaInit : ShaWords :=
  let w (i : Nat) : Nat :=
    0x5be0cd191f83d9ab9b05688c510e527fa54ff53a3c6ef372bb67ae856a09e667 / 2 ^ (32 * i) % 2 ^ 32
  ⟨w 0, w 1, w 2, w 3, w 4, w 5, w 6, w 7⟩

/-- One round of the compression function. -/
def shaRound (s : ShaWords) (k w : Nat) : ShaWords :=
  let s1 := rotr32 s.e 6 ^^^ rotr32 s.e 11 ^^^ rotr32 s.e 25
  let ch := (s.e &&& s.f) ^^^ ((0xFFFFFFFF ^^^ s.e) &&& s.g)
  let t1 := (s.h + s1 + ch + k + w) % 2 ^ 32
  let s0 := rotr32 s.a 2 ^^^ rotr32 s.a 13 ^^^ rotr32 s.a 22
  let mj := (s.a &&& s.b) ^^^ (s.a &&& s.c) ^^^ (s.b &&& s.c)
  ⟨(t1 + s0 + mj) % 2 ^ 32, s.a, s.b, s.c, (s.d + t1) % 2 ^ 32, s.e, s.f, s.g⟩

/-- The rounds over a window of 16 schedule words, which advances by one word each round. -/
def shaRounds : List Nat → List Nat → ShaWords → ShaWords
  | [], _, s => s
  | k :: ks, win, s =>
    let w0 := win.getD 0 0
    let w1 := win.getD 1 0
    let w9 := win.getD 9 0
    let w14 := win.getD 14 0
    let g0 := rotr32 w1 7 ^^^ rotr32 w1 18 ^^^ (w1 / 2 ^ 3)
    let g1 := rotr32 w14 17 ^^^ rotr32 w14 19 ^^^ (w14 / 2 ^ 10)
    shaRounds ks (win.drop 1 ++ [(w0 + g0 + w9 + g1) % 2 ^ 32]) (shaRound s k w0)

/-- The big-endian 32-bit words of a 64-byte block. -/
def shaBlockWords (b : List Byte) : List Nat := (List.range 16).map (fun i => fieldBE b (4 * i) 4)

/-- One block compressed into the hash value. -/
def shaCompress (s : ShaWords) (b : List Byte) : ShaWords :=
  let t := shaRounds shaK (shaBlockWords b) s
  ⟨(s.a + t.a) % 2 ^ 32, (s.b + t.b) % 2 ^ 32, (s.c + t.c) % 2 ^ 32, (s.d + t.d) % 2 ^ 32,
   (s.e + t.e) % 2 ^ 32, (s.f + t.f) % 2 ^ 32, (s.g + t.g) % 2 ^ 32, (s.h + t.h) % 2 ^ 32⟩

/-- `n` blocks compressed in turn. -/
def shaBlocks : Nat → List Byte → ShaWords → ShaWords
  | 0, _, s => s
  | n + 1, bs, s => shaBlocks n (bs.drop 64) (shaCompress s (bs.take 64))

/-- The padding of FIPS 180-4 for a message of `len` bytes. -/
def shaPad (len : Nat) : List Byte :=
  (0x80 : Byte) :: (List.replicate ((119 - len % 64) % 64) 0 ++ beBytes 8 (8 * len))

/-- SHA-256 of a byte string (FIPS 180-4). -/
def sha256 (m : List Byte) : List Byte :=
  let p := m ++ shaPad m.length
  let s := shaBlocks (p.length / 64) p shaInit
  [s.a, s.b, s.c, s.d, s.e, s.f, s.g, s.h].flatMap (beBytes 4)

/-- Eight shift steps of the reflected CRC-32 register. -/
def crcShift : Nat → Nat → Nat
  | 0, c => c
  | n + 1, c => crcShift n (if c % 2 = 1 then (c / 2) ^^^ 0xEDB88320 else c / 2)

/-- The CRC-32 register after a byte string. -/
def crcRun : List Byte → Nat → Nat
  | [], c => c
  | b :: bs, c => crcRun bs (crcShift 8 (c ^^^ b.toNat))

/-- CRC-32 with the IEEE 802.3 polynomial. -/
def crc32 (bs : List Byte) : Nat := crcRun bs 0xFFFFFFFF ^^^ 0xFFFFFFFF

end Sys2Proof.Machine
end

