-- ==== Sys2Proof/Machine/Rsa.lean ====
section
/-! DEFINITION. RSASSA-PSS of RFC 8017 with a 3,072-bit modulus, SHA-256, MGF1 with SHA-256 and a salt of 32 bytes (R4, R518 step 3, R509, R532, R534). -/

namespace Sys2Proof.Machine

/-- `b` to the power `e` modulo `n`, for an exponent below `2 ^ k`: square and multiply. -/
def powMod (n : Nat) : Nat → Nat → Nat → Nat
  | 0, _, _ => 1 % n
  | k + 1, b, e =>
    let r := powMod n k (b * b % n) (e / 2)
    if e % 2 = 1 then r * b % n else r

/-- MGF1 with SHA-256: `len` bytes from a seed (RFC 8017, B.2.1). -/
def mgf1 (seed : List Byte) (len : Nat) : List Byte :=
  ((List.range (cdivN len 32)).flatMap (fun i => sha256 (seed ++ beBytes 4 i))).take len

/-- The bytes of two strings added bit by bit without carry. -/
def xorBytes (a b : List Byte) : List Byte := List.zipWith (· ^^^ ·) a b

/-- The first bit of a string cleared: an encoded message has 3,071 bits in 384 bytes. -/
def clearTop : List Byte → List Byte
  | [] => []
  | b :: bs => (b &&& 0x7F) :: bs

/-- The hash of an encoded message: eight bytes of 0, the hash of the message, the salt. -/
def pssHash (msg salt : List Byte) : List Byte := sha256 (List.replicate 8 0 ++ sha256 msg ++ salt)

/-- EMSA-PSS encoding in 384 bytes with a salt of 32 bytes (RFC 8017, 9.1.1). -/
def pssEncode (msg salt : List Byte) : List Byte :=
  let h := pssHash msg salt
  clearTop (xorBytes (List.replicate 318 0 ++ [0x01] ++ salt) (mgf1 h 351)) ++ h ++ [0xBC]

/-- EMSA-PSS verification of 384 bytes (RFC 8017, 9.1.2). -/
def pssOk (msg em : List Byte) : Bool :=
  let masked := slice em 0 351
  let h := slice em 351 32
  let db := clearTop (xorBytes masked (mgf1 h 351))
  decide (field em 383 1 = 0xBC) && decide (field em 0 1 < 128) && decide (slice db 0 319 = List.replicate 318 0 ++ [0x01])
    && decide (pssHash msg (slice db 319 32) = h)

/-- RSASSA-PSS verification with the public exponent 65,537: modulus and signature are big-endian; a modulus that is not of 3,072 bits verifies nothing (R205, R518). -/
def rsaVerify (modulus msg sig : List Byte) : Bool :=
  let n := beVal modulus
  let v := beVal sig
  decide (2 ^ 3071 ≤ n) && decide (v < n) && pssOk msg (beBytes 384 (powMod n 17 v 65537))

/-- RSASSA-PSS signature by the identity key. The spec states neither the form of the private region nor a salt's value: both are free (log entry 75). -/
def rsaSign (priv modulus msg : List Byte) : List Byte :=
  let salt := (List.range 32).map (Config.pssSalt priv msg)
  beBytes 384 (powMod (beVal modulus) 3072 (beVal (pssEncode msg salt)) (Config.rsaExponent priv))

end Sys2Proof.Machine
end

