-- ==== Sys2Proof/Machine/Parts/Alm.lean ====
section
/-! DEFINITION. The state of the Almanac: the counter, the lock state, the sources, the dispute, steps and scheduled actions (R37 to R77). -/

namespace Sys2Proof.Machine

/-- The lock states of R12. -/
inductive Lock
  | freeRun | acquiring | locked | holdover | disputed
deriving DecidableEq, Repr

/-- The time sources of R12. -/
inductive Source
  | ptp | pps | irig | internal
deriving DecidableEq, Repr

/-- One measurement (R53): the Almanac instant and the offset, source minus Almanac, in units of 2^-16 ns. -/
structure Meas where
  at_ : Inst
  ofs : Int
deriving DecidableEq, Repr

/-- A scheduled action in its slot (R69); `late` names the deferred completion of a late action (R72), `earliest` its least execution instant, `own` the AFE_SNAP that the slot belongs to, with its host address (R91). -/
structure Sched where
  action : Nat
  rep : Bool
  bay : Nat
  arg : Nat
  at_ : Inst
  arg2 : Nat
  period : Nat
  late : Option Nat
  earliest : Inst
  own : Option (Nat × Nat)
deriving DecidableEq, Repr

/-- An entry of the correlation table of R51. -/
structure TcEntry where
  domain : Nat
  portId : Nat
  seq : Nat
  egress : Nat
  residence : Int
  since : Ticks
deriving DecidableEq, Repr

/-- What is held of a grandmaster seen on Announce (R45 to R48, R56): its identity, the port it is heard on, the sender of the Announce, its data set, and what the IEEE_C37_238 TLV gives. -/
structure Grandmaster where
  id : Nat
  port : Nat
  sender : Nat
  clockClass : Nat
  accuracy : Nat
  variance : Nat
  prio1 : Nat
  prio2 : Nat
  steps : Nat
  traceable : Bool
  ptpScale : Bool
  inaccuracy : Option Nat
  tlvId : Option Nat
  ivl : Int
  last : Ticks
deriving DecidableEq, Repr

/-- The Almanac's state. `leapDay` is the UTC day at whose end an announced leap second falls, `preset` a waiting preset with the second at whose top it lands, `run` the measurements in a row (newest first), `lastOfs` the last offset, `devEst` the servo's offset deviation in ns, `holdE0` the error estimate at the loss or at the entry to the disputed state, `slewed` the total correction slewed since entry in units of 2^-48 ns, `incBase` the increment held at entry, `slewLeft` what is left to slew, `candRef` the constant the candidate offset is held against, `restep` the re-step command with the candidate time at which it lands, `ppsOut` the tick PPS_OUT rose at while it is high, `ppsSec` the second of its last rise, `lockHist` the lock states with the instants they began, newest first, `rateHist` the increments held with the instants they began, newest first. `syncAt` and `syncIvl` are the tick of the last Sync of the selected grandmaster (or of its selection) and its logSyncInterval, `syncLost` that its Syncs have stopped, `ppsLast` and `irigLast` the ticks of the last PPS edge and IRIG-B frame, `irigWhole` that the last frame gave seconds, `irigTq` its time quality, `ptpLeap` and `irigLeap` the leap second that each source announces (true for a deletion), and `leapAt` the TAI second at which the last leap second was applied and whether it was a deletion. -/
structure Alm where
  sec : Nat
  ns : Nat
  frac : Nat
  inc : Nat
  lock : Lock
  source : Source
  errClass : Nat
  traceable : Bool
  leapDir : Bool
  leapPending : Bool
  leapDay : Nat
  era : Nat
  preset : Option (Nat × Nat)
  firstLock : Bool
  stepRefused : Bool
  oscFail : Bool
  restepReady : Bool
  usable : List Source
  secKnown : Bool
  selPort : Nat
  gm : Option Grandmaster
  foreign : List Grandmaster
  pathDelay : Tab Int
  run : List Meas
  lastOfs : Int
  devEst : Nat
  holdE0 : Nat
  holdAt : Inst
  rateHist : List (Inst × Nat)
  dispAt : Inst
  holdUntil : Inst
  slewed : Int
  slewing : Bool
  incBase : Nat
  slewLeft : Int
  cand : Int
  candRef : Int
  candSince : Inst
  restep : Option (Nat × Inst)
  utcValid : Bool
  srcPtp : Bool
  ppsOut : Option Ticks
  ppsSec : Nat
  irigBad : Nat
  syncAt : Ticks
  syncIvl : Int
  syncLost : Bool
  ppsLast : Ticks
  irigLast : Ticks
  irigWhole : Bool
  irigTq : Nat
  ptpLeap : Option Bool
  irigLeap : Option Bool
  leapAt : Option (Nat × Bool)
  slots : Tab Sched
  tc : List TcEntry
  ptpSeq : Tab Nat
  lockHist : List (Inst × Lock)
deriving DecidableEq, Repr

end Sys2Proof.Machine
end

