-- ==== Sys2Proof/Machine/Parts/Cup.lean ====
section
/-! DEFINITION. The state of Cupola: rings, records, queues, statistics (R341 to R379). -/

namespace Sys2Proof.Machine

/-- The phasor section of a record line (R342): real and imaginary parts of the fourteen phasors, f, PVALID and POVR. -/
structure PhSec where
  v : List Int
  f : Nat
  pv : Nat
  po : Nat
deriving DecidableEq, Repr

/-- An entry of a bay's PR ring (R344), with the phasor section its line carried and whether it is a half-cycle and a cycle boundary (R343). -/
structure PrEnt where
  at_ : EvalAt
  x : List Int
  q : List Nat
  word : Nat
  bins : Nat
  tv : Nat
  psi : Nat
  ph : Option PhSec
  half : Bool
  cyc : Bool
deriving DecidableEq, Repr

/-- A trigger of a detection instant: its index, its T0 in ns of TAI, and the sender of a cross-trigger. -/
structure Fire where
  idx : Nat
  t0 : Nat
  unit : Nat
  num : Nat
  cid : Option Nat
deriving DecidableEq, Repr

/-- A detection instant: the instant, its ATT, the word, the triggers that fired, the T0s that wait for their refinement. -/
structure Detect where
  at_ : EvalAt
  att : Att
  word : Nat
  fires : List Fire
deriving DecidableEq, Repr

/-- An entry of a record's trigger table (R367). -/
structure TrigEnt where
  idx : Nat
  ty : Nat
  role : Nat
  det : Att
  refined : Option Int
  unit : Nat
  num : Nat
deriving DecidableEq, Repr

/-- The record states of R355. -/
inductive RecSt
  | open_ | sealing | tail | complete | lost
deriving DecidableEq, Repr

/-- A record (R354 to R359, R365, R367): number, bay, state, T0 trigger index, T0 in ns with its quality, whether T0 is final, flags, triggers fired, trigger table, detection instant and its ATT, number of raw instants before T0, requested n_pre, last post instant, end of the RMS span, raw entries newest first, entries of the tail newest first, IR and HR samples by channel newest first, the settings and constants of R367 at T0 (mode, ALM_ERA, tai_utc, f_nom, settings group, channel table), the leap of the record, overlap, summary, units held, the first instant, restored index entry. -/
structure CupRec where
  num : Nat
  bay : Nat
  st : RecSt
  t0i : Nat
  t0 : Nat
  t0q : Half
  final : Bool
  flags : Nat
  fired : Nat
  trigs : List TrigEnt
  det : EvalAt
  detAtt : Att
  nPre : Nat
  nPreReq : Nat
  last : EvalAt
  rmsEnd : EvalAt
  raw : List PrEnt
  tailE : List PrEnt
  ir : Tab (List SampleWord)
  hr : Tab (List SampleWord)
  mode : Nat
  era : Nat
  taiUtc : Int
  hz60 : Bool
  sg : Nat
  rate : Nat
  chans : List Byte
  leap : Nat
  ovr : Option (Nat × Nat)
  summary : List Byte
  units : Nat
  cids : List Nat
  sealAt : Option Ticks
  xgroup : Option Nat
  entry : List Byte
deriving DecidableEq, Repr

/-- A record line waiting for Cupola: its instant, its ATT, its bytes (R342), the committed word, the instants committed since the start, whether it is a stop word's. -/
structure Line where
  at_ : EvalAt
  att : Att
  bytes : List Byte
  word : Nat
  count : Nat
  stop : Bool
deriving DecidableEq, Repr

/-- A sag or swell under way (R376): its start in ns and the extreme r seen, in binary64 units of 2^-52. -/
structure PqEvent where
  start : Nat
  ext : Option Nat
deriving DecidableEq, Repr

/-- The Cupola state of a recorded bay: its RECORD record, lines waiting, the PR ring newest first and the entries written since its last clear, the conditions of triggers 0 to 15 at their last evaluation (all held after a ring clear), queued detection instants, armed, records opened since BAY_START, the instant of the later of BAY_START and the last opening, whether AUTO has fired since, forced triggers waiting with their earliest instant and command, action 0x07 triggers waiting with their instants in units of 2^-16 ns, cross-triggers waiting, the last TRIG_DROPPED, the three statistics with the ATT of the last clear and the last instant, the sag and swell under way, and the number, first and last raw instant of the bay's last sealed record (R358). -/
structure CupBay where
  recd : List Byte
  lines : List Line
  ring : List PrEnt
  wr : Nat
  held : Nat
  queue : List Detect
  armed : Bool
  opened : Nat
  autoAt : Inst
  forced : List (Inst × Nat)
  acts : List (Inst × Inst)
  xtrigs : List (Nat × Fire)
  dropEvt : Option Ticks
  ev : Tab Nat
  harm : Tab Nat
  pm : Tab Nat
  clrAtt : Att
  lastAtt : Att
  sag : Option PqEvent
  swell : Option PqEvent
  prev : Option (Nat × EvalAt × EvalAt)
deriving DecidableEq, Repr

/-- A REC_FETCH being written (R374): record, kind, set mask, ring, host address, offset, maximum length, command. -/
structure RecFetch where
  num : Nat
  kind : Nat
  sets : Nat
  ring : Nat
  host : Nat
  ofs : Nat
  max : Nat
  cid : Nat
deriving DecidableEq, Repr

/-- Cupola's state: bays, records in ascending number, the HR rings by pair, fetches under way, flash copies pending (record number, release mark) with the tick they became due. -/
structure Cup where
  bays : Tab CupBay
  recs : List CupRec
  hr : Tab IrRing
  fetches : List RecFetch
  flash : List (Nat × Bool × Ticks)
deriving DecidableEq, Repr

/-- Cupola on entry to BOOT. -/
def Cup.reset : Cup := ⟨[], [], [], [], []⟩

end Sys2Proof.Machine
end

