-- ==== Sys2Proof/Machine/Parts/Sec.lean ====
section
/-! DEFINITION. The state of the security island: OTP, flash, the boot chain, pending images, tokens, debug grants (R517 to R540, R545, R530). -/

namespace Sys2Proof.Machine

/-- The OTP of R525. Key slots hold the 32 bytes of a hash; a slot is programmed when they are not all 0. -/
structure Otp where
  uid : Nat
  unitField : Nat
  vend : Tab (List Byte)
  own : Tab (List Byte)
  revoked : Nat
  vendFuses : Nat
  ownFuses : Nat
  trim : List Byte
  idPriv : List Byte
  idPub : List Byte
deriving DecidableEq, Repr

/-- One metered bay's entry of a dying block (R545): the bay, the interval flags, the coverage, the interval start, the energies of the open interval and the lifetime energies. -/
structure DyingEntry where
  bay : Nat
  flags : Nat
  coverage : Nat
  start : Nat
  energies : List Byte
  lifetime : List Byte
deriving DecidableEq, Repr

/-- The header page of a dying block (R545). -/
structure DyingHeader where
  seq : Nat
  at_ : Att
  mode : Mode
  cause : Nat
  hottest : Int
  durUs : Nat
  energy : Nat
  consumed : Bool
deriving DecidableEq, Repr

/-- A bank of the dying-sequence area: erased, written whole, or not verifying (R545, R546). -/
inductive DyingBank
  | erased
  | block (h : DyingHeader) (es : List DyingEntry)
  | broken
deriving DecidableEq, Repr

/-- A record-index entry and its summary as copied to flash (R366). -/
structure FlashRec where
  num : Nat
  entry : List Byte
  summary : List Byte
  freed : Bool
deriving DecidableEq, Repr

/-- The flash regions of R530. A slot that holds no image is `none`; `sel` is true for slot B. -/
structure Flash where
  bcbOk : Bool
  s1Sel : Bool
  libSel : Bool
  schSel : Bool
  s1A : Option (List Byte)
  s1B : Option (List Byte)
  libA : Option (List Byte)
  libB : Option (List Byte)
  schA : Option (List Byte)
  schB : Option (List Byte)
  cert : List Byte
  serial : Nat
  bank0 : DyingBank
  bank1 : DyingBank
  recs : List FlashRec
  recsOk : Bool
deriving DecidableEq, Repr

/-- A debug grant (R535): scope bits, not-after seconds, the class of its token. -/
structure Grant where
  scope : Nat
  notAfter : Nat
  vendor : Bool
deriving DecidableEq, Repr

/-- A load being verified and written (R528). -/
structure LoadJob where
  kind : Nat
  image : List Byte
  cid : Nat
deriving DecidableEq, Repr

/-- A committed scheme image that waits for its instant (R207, R529). -/
structure SchemeApply where
  at_ : Nat
deriving DecidableEq, Repr

/-- The security island's volatile state. -/
structure Sec where
  stage : Nat
  cause : Nat
  halted : Bool
  chainDone : Bool
  dramDone : Bool
  s1Slot : Bool
  libSlot : Bool
  schSlot : Bool
  fallback : Bool
  s1Key : Nat
  libKey : Nat
  schKey : Nat
  meas1 : List Byte
  meas2 : List Byte
  meas3 : List Byte
  libVer : Nat
  s1Pend : Bool
  libPend : Bool
  schPend : Bool
  load : Option LoadJob
  apply : Option SchemeApply
  failTimes : List Ticks
  lockUntil : Option Ticks
  grant : Option Grant
  grantSeen : Bool
  challenge : Option (Nat × Ticks)
  otpBusy : Option (Nat × Nat)
  bootTick : Ticks
  firstEval : Option Nat
deriving DecidableEq, Repr

end Sys2Proof.Machine
end

