-- ==== Sys2Proof/Machine/Parts/Dev.lean ====
section
/-! DEFINITION. The state of the device as a whole and of its power and health (R2, R25 to R36, R541 to R559, R571). -/

namespace Sys2Proof.Machine

/-- An accepted MODE_SET that waits for its instant (R30): the target, the effect instant and the command. -/
structure ModeChange where
  target : Mode
  at_ : Inst
  cid : Nat
deriving DecidableEq, Repr

/-- The device: ordering code, mode, the mode before it and the instant of the change, the pending MODE_SET, DTO enable, bridge counters, the tick count and the phase of the interpolator within the tick (R38). -/
structure Dev where
  part7264 : Bool
  mode : Mode
  prev : Mode
  since : Inst
  bootErr : Bool
  pend : Option ModeChange
  dtoEn : Bool
  dtoActive : Bool
  dtoAt : Option Inst
  bridgeCe : Tab Nat
  bridgeUe : Tab Nat
  ticks : Ticks
  phase : Nat
  free : Nat
deriving DecidableEq, Repr

/-- The phases of the dying sequence (R544): the protection hold, the writing of the dying block, the halt. -/
inductive DyingPhase
  | hold | writing | halted
deriving DecidableEq, Repr

/-- A dying sequence under way (R543, R544): t_d, its tick, the phase, the mode and the SAFE cause at t_d, whether a bank was erased, and the entries of the frozen metering accumulators. -/
structure Dying where
  at_ : Att
  since : Ticks
  phase : DyingPhase
  mode : Mode
  cause : Nat
  bankOk : Bool
  entries : List DyingEntry
deriving DecidableEq, Repr

/-- A SELFTEST that has been accepted and not yet completed (R555); for kind 2 the injection tests left in each group, and the faults found so far. -/
structure SelfTest where
  kind : Nat
  target : Nat
  cid : Nat
  left : Tab Nat
  faults : Nat
deriving DecidableEq, Repr

/-- Power and health; `hotAt` is the last tick that took a reading of 135 °C or more (R552). -/
structure Pwr where
  powerGood : Bool
  resetLow : Bool
  failLow : Bool
  shutdown : Bool
  dying : Option Dying
  railFault : Tab Ticks
  pllLost : Option Ticks
  d2dOk : Bool
  temps : Tab Int
  hottest : Int
  hotAt : Ticks
  throttle : Bool
  throttleAt : List Ticks
  causes : Nat
  degraded : Bool
  safeCause : Nat
  selftest : Option SelfTest
deriving DecidableEq, Repr

end Sys2Proof.Machine
end

