-- ==== Sys2Proof/Machine/Parts/Flt.lean ====
section
/-! DEFINITION. The state of the filter and decimation chain (R121 to R145). -/

namespace Sys2Proof.Machine

/-- A value in a filter window with the quality bits it carries (R134, R135). `valid` is false for an input past the 16th invalid one. -/
structure FVal where
  v : Int
  bits : Nat
  valid : Bool
deriving DecidableEq, Repr

/-- A coefficient-bank fade (R138, R139): target bank B or not, outputs formed, its length L once it has begun (0 before), and T_s. -/
structure Fade where
  toB : Bool
  i : Nat
  len : Nat
  start : QInst
deriving DecidableEq, Repr

/-- The bank state of a FIR stage: whether bank B is active, the fade, the deferred request. -/
structure BankState where
  actB : Bool
  fade : Option Fade
  deferred : Option Bool
deriving DecidableEq, Repr

/-- The filter chain of one channel. `rd` is the number of the next result S0 takes; `since` counts the S0 samples since the last synchronising reset and `first` is the instant of the first of them; windows are newest first; the banks are lists of coefficients; `hrLast` and `hrRun` are the last merged sample of an interleaved pair and the invalid ones in a row. -/
structure FltCh where
  rd : Nat
  since : Nat
  first : QInst
  w1 : List FVal
  integ : List Int
  comb : List Int
  w2 : List FVal
  w3 : List FVal
  w4 : List FVal
  last : FVal
  invalidRun : Nat
  resetDue : Bool
  b3 : BankState
  b4 : BankState
  b3A : List Int
  b3B : List Int
  b4A : List Int
  b4B : List Int
  satEvt : Option Ticks
  settling : Bool
  tag3 : QInst
  tag4 : QInst
  hrLast : FVal
  hrRun : Nat
deriving DecidableEq, Repr

/-- The filter chains, by channel. -/
structure Flt where
  chans : Tab FltCh
deriving DecidableEq, Repr

end Sys2Proof.Machine
end

