-- ==== Sys2Proof/Machine/Parts/Grp.lean ====
section
/-! DEFINITION. The state of the groups: placement, migration, rotation, memory health, lockstep, pending requests of the bays, binary inputs and direct trip outputs (R182 to R211, R303 to R313, R418 to R447). -/

namespace Sys2Proof.Machine

/-- Causes of a migration, in the coding of CFG_MIG_STAT. -/
inductive MigCause
  | command | rotation | fault | quarantine
deriving DecidableEq, Repr

/-- Steps of a migration (R194): waiting, precopy, waiting for a boundary, context and slot being copied. -/
inductive MigStep
  | waiting | precopy | boundary | copy
deriving DecidableEq, Repr

/-- A migration pending or running (R194 to R196): bay, cause, the destination named or chosen, step, the command that waits for it; for a fault migration its cause (0 unresolved instant, 1 structural fault, 2 comparator fault) and whether FAULT_NO_SPARE has been raised for it. -/
structure Mig where
  bay : Nat
  cause : MigCause
  dst : Option Nat
  step : MigStep
  cid : Option Nat
  why : Nat
  told : Bool
deriving DecidableEq, Repr

/-- A split or join pending at a group (R439, R440): join or split, position, observe, the instant before which it does not take effect, the command. -/
structure FormReq where
  join : Bool
  pos : Nat
  obs : Bool
  at_ : Inst
  cid : Nat
deriving DecidableEq, Repr

/-- A group (R418 to R443). `lost` are positions detached by a split, a debug attach or a fault beyond what the form leaves unused; `extra` positions that a join added above the configured form; `resync` positions being resynchronised, `again` those in the task to be left out after a failed resynchronisation, `fresh` those in their first window after rejoining, `fixed` positions out for a structural fault; `failAt` the last failed resynchronisation by position; windows counted, injection tests run, whether a test moved to the next window; counters; observer, its difference; attached cell's position; unsupervised; fault migrations vacated, withdrawn, last test, comparators or delay path failed, test after a fault migration due; LKS_MISMATCH and LKS_REEXEC last raised. -/
structure Grp where
  lost : Nat
  extra : Nat
  resync : Nat
  again : Nat
  fresh : Nat
  fixed : Nat
  failAt : Tab Ticks
  windows : Nat
  inj : Nat
  moved : Bool
  mism : Nat
  latent : Nat
  obs : Option Nat
  obsDiff : Bool
  dbg : Option Nat
  debug : Bool
  unsup : Bool
  vacated : List Ticks
  withdrawn : Bool
  tested : Option Ticks
  broken : Bool
  faultTest : Bool
  form : Option FormReq
  mismEvt : Option Ticks
  reexEvt : Option Ticks
deriving DecidableEq, Repr

/-- A group that nothing has touched since entry to BOOT. -/
def Grp.blank : Grp :=
  ⟨0, 0, 0, 0, 0, 0, [], 0, 0, false, 0, 0, none, false, none, false, false, [], false, none, false, false, none, none, none⟩

/-- A running bay task (R188, R420): its 128-byte task record, its result, the copies it runs on, re-executed or not, an earlier window committed. -/
structure Task where
  at_ : EvalAt
  record : List Byte
  ctx : Ctx
  line : List Byte
  latched : Bool
  copies : List Nat
  reex : Bool
  early : Bool
deriving DecidableEq, Repr

/-- A request for a bay with an effect instant (R200, R207, R302, R303): a settings-group switch, waiting and then in effect but not yet applied by a task; a start; a stop; a target reset, waiting and then in effect; the records and settings groups of a new image for a bay kept live, waiting, and then in effect with the settings they replace. -/
inductive BayReqKind
  | switch (g : Nat)
  | switched (g : Nat)
  | start
  | stop
  | reset
  | cleared
  | reload (recd : List Byte) (els : List (List Byte)) (groups : Tab (List Byte))
  | reloaded (old : List Byte)
deriving DecidableEq, Repr

/-- A pending request of a bay with its instant; `cmd` is false for a scheduled action (R73). -/
structure BayReq where
  kind : BayReqKind
  at_ : EvalAt
  cmd : Bool
deriving DecidableEq, Repr

/-- A pending BAY_STATE_READ (R307): part mask, host address, attempts left, the command. -/
structure StateRead where
  mask : Nat
  host : Nat
  left : Nat
  cid : Nat
deriving DecidableEq, Repr

/-- Origins of a rotation step (R197, R431). -/
inductive RotOrigin
  | regular | now | latent
deriving DecidableEq, Repr

/-- A rotation step under way: its group, origin, and whether the self-test runs (else its migration does). -/
structure RotStep where
  grp : Nat
  origin : RotOrigin
  testing : Bool
deriving DecidableEq, Repr

/-- Cluster memory health (R184, R186): corrected errors of this hour by bank, quarantine, the ticks of the uncorrectable errors, whether the hour so far is over the threshold. -/
structure Clu where
  ce : Tab Nat
  quar : Bool
  ue : List Ticks
deriving DecidableEq, Repr

/-- A binary input (R308 to R310): accepted level, the levels accepted with their acceptance instants, newest first, the accepted changes in a second and that second, the second in which it was frozen, and the instant of its last release, after which a new debounce starts. -/
structure Bin where
  level : Bool
  acc : List (QInst × Bool)
  chg : Nat
  sec : Nat
  frozen : Option Nat
  since : QInst
deriving DecidableEq, Repr

/-- A direct trip output (R311 to R313): the mapped demand, running pulse ends, active, the tick of the active edge, whether it waits for its minimum width. -/
structure Dto where
  demand : Bool
  pulse : Option Ticks
  active : Bool
  since : Ticks
deriving DecidableEq, Repr

/-- The configuration, lockstep and trip-path state. `after` holds fault and quarantine migrations of bays whose present migration ends first; `preAt` is the tick at which the running precopy began; `rotAgain` the group whose stopped test is to run again (R195); `dbgLog` the debug store log (R442); `cells` by global cell (R179); `bufs` the commit buffer of each group, entry by entry with one lane per copy (R425). -/
structure Cfg where
  grps : Tab Grp
  tasks : Tab Task
  reqs : Tab (List BayReq)
  reads : Tab (List StateRead)
  migs : List Mig
  late : Tab Nat
  after : List Mig
  preAt : Ticks
  rot : Option RotStep
  rotNow : Bool
  rotReg : Bool
  rotLat : Option Nat
  rotAgain : Option Nat
  rotDue : Ticks
  cellFail : List Nat
  clus : Tab Clu
  ceOver : Bool
  dbgReq : Option (Bool × Nat)
  dbgCell : Option Nat
  dbgLog : List Store
  cells : Tab Cell
  bufs : Tab (List (List (Option Store)))
  bins : Tab Bin
  dtos : Tab Dto
deriving DecidableEq, Repr

/-- The configuration state on entry to BOOT. -/
def Cfg.reset : Cfg :=
  { grps := [], tasks := [], reqs := [], reads := [], migs := [], late := [], after := [], preAt := 0, rot := none, rotNow := false, rotReg := false, rotLat := none, rotAgain := none,
    rotDue := 0, cellFail := [], clus := [], ceOver := false, dbgReq := none, dbgCell := none, dbgLog := [], cells := [], bufs := [], bins := [], dtos := [] }

end Sys2Proof.Machine
end

