-- ==== Sys2Proof/Machine/Parts/Hif.lean ====
section
/-! DEFINITION. The state of the host island: rings, commands in flight, held events, MSI-X, the audit log and the data port (R481 to R516). -/

namespace Sys2Proof.Machine

/-- The ring types of R484. -/
inductive RingKind
  | cmd | cpl | evt | record | svt | log
deriving DecidableEq, Repr

/-- A created ring (R484, R485, R487, R497). `used` counts entries written by the part that the head has not released; `reserved` the completion slots reserved (R491). -/
structure HostRing where
  kind : RingKind
  n : Nat
  base : Nat
  vec : Nat
  modCount : Nat
  modTime : Nat
  dflt : Nat
  mask : Nat
  host : Nat
  part : Nat
  phase : Bool
  used : Nat
  reserved : Nat
  halted : Bool
  unsig : Nat
  since : Ticks
  dropped : Nat
deriving DecidableEq, Repr

/-- A command accepted but not yet completed (R491). -/
structure InFlight where
  cid : Nat
  ring : Nat
  idx : Nat
  op : Nat
  tag : Nat
  cpl : Nat
  acc : Att
deriving DecidableEq, Repr

/-- PCIe device power state (R481, R482). -/
inductive PciePower
  | d0 | d3hot
deriving DecidableEq, Repr

/-- The host island's state. `inflight` are accepted commands, `waiting` those that wait for a completion slot; `gone` the event blocks whose ring was destroyed (R496); `dpEvt` the tick of the last DPORT_UNDERRUN; `dram` the bytes that data-port writes have left in DRAM over what the part keeps there (R513). -/
structure Hif where
  rings : Tab HostRing
  inflight : List InFlight
  nextCid : Nat
  waiting : List (Nat × CmdEntry)
  lastServed : Nat
  doorbells : Tab Nat
  held : List Event
  evtSeq : Nat
  hostResetDue : Bool
  msixMasked : Nat
  msixPending : Nat
  msixSent : Tab Nat
  power : PciePower
  linkUp : Bool
  perst : Bool
  logSeq : Nat
  logHash : List Byte
  logHold : List (List Byte)
  logLost : Nat
  logCount : Nat
  logSince : Option Ticks
  dportData : List Word
  gone : Nat
  dpEvt : Option Ticks
  dram : Tab Byte
deriving DecidableEq, Repr

end Sys2Proof.Machine
end

