-- ==== Sys2Proof/Machine/Parts/Met.lean ====
section
/-! DEFINITION. The state of the feeder energy accounting (R320 to R338). -/

namespace Sys2Proof.Machine

/-- An interval being accumulated (R321 to R325): its start in ns of TAI, flags, covered ns, sealed and usable instants of an SV bay, energies in 2^-20 W·s, squared currents in 2^-20 A²·s, signature units that qualify and that lie outside the band. -/
structure MetOpen where
  start : Nat
  flags : Nat
  covNs : Nat
  sealed : Nat
  usable : Nat
  eImp : Nat
  eExp : Nat
  q : List Nat
  sqn : Nat
  sout : Nat
deriving DecidableEq, Repr

/-- A closed interval (R329). -/
structure MetRec where
  bay : Nat
  flags : Nat
  cov : Nat
  start : Nat
  dur : Nat
  eImp : Nat
  eExp : Nat
  q : List Nat
  eds : Nat
  lt : Int
  nt : Int
  r : Int
  exp : Nat
  rcv : Nat
  sqn : Nat
  sout : Nat
  rShort : Int
  rLong : Int
deriving DecidableEq, Repr

/-- A closed interval as held: its record, the tick of its close, whether POST_MISSING was raised. -/
structure MetHeld where
  rec_ : MetRec
  closed : Ticks
  missing : Bool
deriving DecidableEq, Repr

/-- A metered bay: its METER record, the open interval, intervals complete and not yet written with their ends in ns, the closed intervals newest first, lifetime energies in 2^-20 W·s, the seconds of the last close, whether alarm and step conditions stand, whether the last interval carried BYPASS, and for an SV bay the running second's square sums with the seconds and the count. -/
structure MetBay where
  recd : List Byte
  open_ : MetOpen
  done : List (MetOpen × Nat)
  held : List MetHeld
  lifeImp : Nat
  lifeExp : Nat
  lastClose : Nat
  alarm : Bool
  step : Bool
  bypass : Bool
  sec : Nat × Nat × List Nat
deriving DecidableEq, Repr

/-- The metering state, by bay. -/
structure Met where
  bays : Tab MetBay
deriving DecidableEq, Repr

end Sys2Proof.Machine
end

