-- ==== Sys2Proof/Machine/Parts/Mir.lean ====
section
/-! DEFINITION. The state of a redundant pair: lanes, partner, mirrored samples, snapshots, resynchronisation, takeover and hand-over (R449 to R476). -/

namespace Sys2Proof.Machine

/-- A lane (R451, R452): up, consecutive valid heartbeats, the tick of the last one, the tick at which the frame in transmission ends, the frames that wait with their types, in the order in which they go out. -/
structure Lane where
  up : Bool
  good : Nat
  lastHb : Ticks
  busy : Ticks
  wait : List (Nat × List Byte)
deriving DecidableEq, Repr

/-- What the partner last reported (R453, R397): by heartbeat or beacon. -/
structure Partner where
  unit : Nat
  role : Nat
  mode : Nat
  pstate : Nat
  flags : Nat
  snum : Nat
  lib : Nat
  digest : List Byte
  pairId : Nat
  effAt : Inst
deriving DecidableEq, Repr

/-- A takeover detected and not yet in effect (R465): its cause and its effect instant, and whether a snapshot was current at detection. -/
structure Takeover where
  cause : Nat
  at_ : Inst
  snap : Option Nat
deriving DecidableEq, Repr

/-- A hand-over in progress (R473): this unit proposed it, its instant, accepted, committed, whether every instant since the proposal was quiet, whether quiet is waived, the tick of the proposal, the cause of ROLE_MOVED. -/
structure HandOver where
  mine : Bool
  kh : Inst
  accepted : Bool
  committed : Bool
  quiet : Bool
  force : Bool
  since : Ticks
  cause : Nat
deriving DecidableEq, Repr

/-- A MIR_ROLE that waits (R474): its target, force, the tick at which it lapses, the command. -/
structure RoleReq where
  target : Nat
  force : Bool
  until_ : Ticks
  cid : Option Nat
deriving DecidableEq, Repr

/-- A bay resynchronisation under way (R464): k_r, the parts received with their count, the copy once it is whole, the tick of the seal of k_r. -/
structure BayRs where
  kr : EvalAt
  parts : List Nat
  count : Nat
  copy : Option BayCopy
  sealAt : Option Ticks
deriving DecidableEq, Repr

/-- A full resynchronisation (R463): bays still to do, the MIR_SYNC command, the ATT of the last k_r, the whole millisecond of TAI of the last step. -/
structure FullRs where
  todo : List Nat
  cid : Option Nat
  last : Att
  ms : Nat
deriving DecidableEq, Repr

/-- A mirrored sample word with its instant on the 14,400 S/s grid (R454). -/
structure MirWord where
  at_ : EvalAt
  pr : SampleWord
  s4 : Option SampleWord
deriving DecidableEq, Repr

/-- The own values recorded at a snapshot instant (R462): s_num, bay entries by bay, publication entries by block with their source bay. -/
structure Shadow where
  num : Nat
  bays : Tab (List Byte)
  pubs : Tab (List Byte)
  src : Tab Nat
deriving DecidableEq, Repr

/-- The pair state. `pstate` is coded as MIR_STAT.pstate; sequences are kept by frame type for sending, and the newest received by type; own outputs held aside by channel × 2 for S3 and + 1 for S4, newest first, with the tick they were available; BIN levels carried in SAMPLES by instant, newest first; the last committed snapshot with its s_num and the tick of its commit; the snapshot being received; shadows of the last snapshot instants; MIR_SYNC commands of single bays by bay; frames sent, newest first, with the lanes; whether the last committed snapshot matched its shadow; whether the unit is ISOLATED, which outlasts the pair state (R469); the instant of the next heartbeat; IR outputs of a channel since its last SAMPLES frame, newest first; the running second of MIR_LAT with its largest latency in ns. -/
structure Mir where
  pstate : Nat
  laneA : Lane
  laneB : Lane
  txSeq : Tab Nat
  rxSeq : Tab (List Nat)
  partner : Option Partner
  lastHb : Option Ticks
  lastBcn : Option Ticks
  ofsBad : Nat
  ofsGood : Nat
  era : Option Nat
  inUse : Bool
  since : Option Ticks
  aside : Tab (List (SampleWord × Ticks))
  binsAt : List (EvalAt × Nat)
  binsMir : Bool
  snap : Option (Nat × List Byte × Ticks)
  rx : Tab (List Byte)
  rxCount : Nat
  rxSince : Option Ticks
  rxNum : Nat
  shadow : List Shadow
  sentNum : Nat
  synced : List Nat
  brs : Tab BayRs
  retry : Tab Ticks
  full : Option FullRs
  one : Tab (List Nat)
  takeover : Option Takeover
  contention : Option Inst
  hand : Option HandOver
  role : Option RoleReq
  syncSince : Option Ticks
  epochSeen : Nat
  latSec : Nat × Nat
  sent : List (Nat × List Byte)
  matched : Bool
  iso : Bool
  hbAt : Inst
  irOut : Tab (List SampleWord)
deriving DecidableEq, Repr

/-- A lane that is down and sends nothing. -/
def Lane.blank : Lane := ⟨false, 0, 0, 0, []⟩

/-- The pair state on entry to BOOT. -/
def Mir.reset : Mir :=
  { pstate := 0, laneA := Lane.blank, laneB := Lane.blank, txSeq := [], rxSeq := [], partner := none, lastHb := none, lastBcn := none,
    ofsBad := 0, ofsGood := 0, era := none, inUse := false, since := none, aside := [], binsAt := [], binsMir := false, snap := none,
    rx := [], rxCount := 0, rxSince := none, rxNum := 0, shadow := [], sentNum := 0, synced := [], brs := [], retry := [], full := none,
    one := [], takeover := none, contention := none, hand := none, role := none, syncSince := none, epochSeen := 0, latSec := (0, 0), sent := [],
    matched := false, iso := false, hbAt := 0, irOut := [] }

end Sys2Proof.Machine
end

