-- ==== Sys2Proof/Machine/Parts/Svi.lean ====
section
/-! DEFINITION. The state of sampled-value ingest and republication (R148 to R177). -/

namespace Sys2Proof.Machine

/-- The states of R165. -/
inductive SvState
  | ok | hold | invalid | resync
deriving DecidableEq, Repr

/-- A staged sample (R158): its instant as a global index (second times rate plus smpCnt), tag, arrival, its frame, and the members' values with their quality on entry. -/
structure SvSample where
  idx : Nat
  tag : QInst
  arr : QInst
  frame : Nat
  vals : List (Int × Nat)
deriving DecidableEq, Repr

/-- A subscribed stream: state, enabled, the next instant to write, the last one written, the newest consumed instant, the last written values, the staging buffer, the latencies of the last staged frames (newest first), missing instants in a row, sane frames counted, the last index and latency of the previous frame, samples still to carry SETTLING, indexes of the samples of the last second written as received, frames staged, and the last CONFREV_MISMATCH, LATENCY_EXCEEDED and TAG_ERROR. -/
structure SvStream where
  st : SvState
  en : Bool
  exp : Nat
  wrote : Option Nat
  newest : Option QInst
  last : List (Int × Nat)
  staged : List SvSample
  lat : List Int
  miss : Nat
  sane : Nat
  prev : Option (Nat × Int)
  settle : Nat
  got : List Nat
  frames : Nat
  confEvt : Option Ticks
  lateEvt : Option Ticks
  tagEvt : Option Ticks
deriving DecidableEq, Repr

/-- An entry of a duplicate-discard table (R151). -/
structure DdEntry where
  src : Nat
  seq : Nat
  since : Ticks
deriving DecidableEq, Repr

/-- A published stream (R172): the global index of the next sample to publish. -/
structure SvPub where
  run : Bool
  next : Nat
deriving DecidableEq, Repr

/-- Sampled-value state: streams, the SVI_SC counters by stream × 16 + counter, the two discard tables (oldest first), published streams, and the last outputs of each local channel, newest first, by channel × 2 for S3 and + 1 for S4. -/
structure Svi where
  streams : Tab SvStream
  cnts : Tab Nat
  dd01 : List DdEntry
  dd23 : List DdEntry
  pubs : Tab SvPub
  outs : Tab (List SampleWord)
deriving DecidableEq, Repr

end Sys2Proof.Machine
end

