-- ==== Sys2Proof/Machine/RegMap.lean ====
section
/-! DEFINITION. The register map: every SETUP register with its address, its fields, their access codes, reset values and stated ranges (R7, R79, R118, R143, R176, R209, R317, R339, R381, R415, R446, R478, R515, R516, R538, R558, R560, R571, R579). -/

namespace Sys2Proof.Machine

/-- The access codes of R7. -/
inductive Access
  | ro | rw | rws | w1c | w1s | wo
deriving DecidableEq, Repr

/-- A register field: bits `hi` to `lo`, access code, reset value, and the least and greatest value stated for it. -/
structure Fld where
  hi : Nat
  lo : Nat
  acc : Access
  rst : Nat
  least : Nat
  most : Nat
deriving DecidableEq, Repr

/-- A register, or a run of `count` like registers `stride` bytes apart (R579). -/
structure RegDesc where
  name : String
  base : Nat
  stride : Nat
  count : Nat
  flds : List Fld
deriving DecidableEq, Repr

namespace R
/-- DEV_ID. -/ abbrev devId : Nat := 0x0000
/-- DEV_REV. -/ abbrev devRev : Nat := 0x0004
/-- DEV_CAP0. -/ abbrev devCap0 : Nat := 0x0008
/-- DEV_CAP1. -/ abbrev devCap1 : Nat := 0x000C
/-- DEV_CAP2. -/ abbrev devCap2 : Nat := 0x0010
/-- MODE_STAT. -/ abbrev modeStat : Nat := 0x0014
/-- MODE_CTL. -/ abbrev modeCtl : Nat := 0x0018
/-- DEV_SCRATCH. -/ abbrev devScratch : Nat := 0x001C
/-- DEV_BRIDGE_SEL. -/ abbrev devBridgeSel : Nat := 0x0020
/-- DEV_BRIDGE_CNT. -/ abbrev devBridgeCnt : Nat := 0x0024
/-- HEALTH. -/ abbrev health : Nat := 0x0400
/-- PWR_STAT. -/ abbrev pwrStat : Nat := 0x0404
/-- PWR_THERM_CFG. -/ abbrev pwrThermCfg : Nat := 0x0408
/-- PWR_TSEL. -/ abbrev pwrTsel : Nat := 0x040C
/-- PWR_TVAL. -/ abbrev pwrTval : Nat := 0x0410
/-- PWR_DRAM_CFG. -/ abbrev pwrDramCfg : Nat := 0x0414
/-- PWR_DYING_CFG. -/ abbrev pwrDyingCfg : Nat := 0x0418
/-- PWR_DYING_LAST. -/ abbrev pwrDyingLast : Nat := 0x041C
/-- PWR_SELFTEST_STAT. -/ abbrev pwrSelftestStat : Nat := 0x0420
/-- PWR_DRAM_CE_CNT. -/ abbrev pwrDramCeCnt : Nat := 0x0424
/-- PWR_THROTTLE_CNT. -/ abbrev pwrThrottleCnt : Nat := 0x0428
/-- PWR_SUPPLY_FAULT_CNT. -/ abbrev pwrSupplyFaultCnt : Nat := 0x042C
/-- ALM_CTL. -/ abbrev almCtl : Nat := 0x0800
/-- ALM_STAT. -/ abbrev almStat : Nat := 0x0804
/-- ALM_SRC_CFG. -/ abbrev almSrcCfg : Nat := 0x0808
/-- ALM_SERVO_CFG. -/ abbrev almServoCfg : Nat := 0x080C
/-- ALM_HOLD_CFG. -/ abbrev almHoldCfg : Nat := 0x0810
/-- ALM_PTP_CFG. -/ abbrev almPtpCfg : Nat := 0x0814
/-- ALM_PPS_CFG. -/ abbrev almPpsCfg : Nat := 0x0818
/-- ALM_PPS_IN_DELAY. -/ abbrev almPpsInDelay : Nat := 0x081C
/-- ALM_UTC_OFFSET. -/ abbrev almUtcOffset : Nat := 0x0820
/-- ALM_RESTEP_CFG. -/ abbrev almRestepCfg : Nat := 0x0824
/-- ALM_SCHED_CFG. -/ abbrev almSchedCfg : Nat := 0x0828
/-- ALM_NOW_SEC_LO. -/ abbrev almNowSecLo : Nat := 0x082C
/-- ALM_NOW_SEC_HI. -/ abbrev almNowSecHi : Nat := 0x0830
/-- ALM_NOW_NS. -/ abbrev almNowNs : Nat := 0x0834
/-- ALM_NOW_FQ. -/ abbrev almNowFq : Nat := 0x0838
/-- ALM_PRESET_SEC_LO. -/ abbrev almPresetSecLo : Nat := 0x083C
/-- ALM_PRESET_SEC_HI. -/ abbrev almPresetSecHi : Nat := 0x0840
/-- ALM_OFFSET. -/ abbrev almOffset : Nat := 0x0844
/-- ALM_RATE. -/ abbrev almRate : Nat := 0x0848
/-- ALM_GM_ID_LO. -/ abbrev almGmIdLo : Nat := 0x084C
/-- ALM_GM_ID_HI. -/ abbrev almGmIdHi : Nat := 0x0850
/-- ALM_CAND_OFS_LO. -/ abbrev almCandOfsLo : Nat := 0x0854
/-- ALM_CAND_OFS_HI. -/ abbrev almCandOfsHi : Nat := 0x0858
/-- ALM_RESTEP_STAT. -/ abbrev almRestepStat : Nat := 0x085C
/-- ALM_TC_CNT. -/ abbrev almTcCnt : Nat := 0x0860
/-- ALM_SCHED_USED_LO. -/ abbrev almSchedUsedLo : Nat := 0x0864
/-- ALM_SCHED_USED_HI. -/ abbrev almSchedUsedHi : Nat := 0x0868
/-- ALM_SCHED_SKIPS. -/ abbrev almSchedSkips : Nat := 0x086C
/-- ALM_ERA. -/ abbrev almEra : Nat := 0x0870
/-- AFE_CTL. -/ abbrev afeCtl : Nat := 0x1000
/-- AFE_STAT. -/ abbrev afeStat : Nat := 0x1004
/-- AFE_CH_EN. -/ abbrev afeChEn : Nat := 0x1008
/-- AFE_MET_EN. -/ abbrev afeMetEn : Nat := 0x100C
/-- AFE_ILV. -/ abbrev afeIlv : Nat := 0x1010
/-- AFE_SPARE_CFG. -/ abbrev afeSpareCfg : Nat := 0x1014
/-- AFE_SPARE_STAT. -/ abbrev afeSpareStat : Nat := 0x1018
/-- AFE_SAR_FAIL. -/ abbrev afeSarFail : Nat := 0x101C
/-- AFE_OVR_STAT. -/ abbrev afeOvrStat : Nat := 0x1020
/-- AFE_SYNC_OVERRUN. -/ abbrev afeSyncOverrun : Nat := 0x1024
/-- AFE_SNAP_COLLIDE. -/ abbrev afeSnapCollide : Nat := 0x1028
/-- AFE_TAP_DROP. -/ abbrev afeTapDrop : Nat := 0x102C
/-- AFE_TAP_CFG. -/ abbrev afeTapCfg (n : Nat) : Nat := 0x1030 + 0x4 * n
/-- AFE_TRK_CFG. -/ abbrev afeTrkCfg (n : Nat) : Nat := 0x1040 + 0x4 * n
/-- AFE_TRK_STAT. -/ abbrev afeTrkStat (n : Nat) : Nat := 0x1060 + 0x4 * n
/-- AFE_PAIR_CFG. -/ abbrev afePairCfg (n : Nat) : Nat := 0x1080 + 0x4 * n
/-- AFE_MET_TRK. -/ abbrev afeMetTrk (n : Nat) : Nat := 0x10C0 + 0x4 * n
/-- AFE_MET_SAT. -/ abbrev afeMetSat : Nat := 0x10D0
/-- AFE_SNAP_VAL. -/ abbrev afeSnapVal (n : Nat) : Nat := 0x1100 + 0x4 * n
/-- AFE_SNAP_SEC_LO. -/ abbrev afeSnapSecLo : Nat := 0x1140
/-- AFE_SNAP_SEC_HI. -/ abbrev afeSnapSecHi : Nat := 0x1144
/-- AFE_SNAP_NS. -/ abbrev afeSnapNs : Nat := 0x1148
/-- AFE_SNAP_FQ. -/ abbrev afeSnapFq : Nat := 0x114C
/-- AFE_SNAP_VALID. -/ abbrev afeSnapValid : Nat := 0x1150
/-- AFE_SNAP_OVR. -/ abbrev afeSnapOvr : Nat := 0x1154
/-- FLT_CTL. -/ abbrev fltCtl (n : Nat) : Nat := 0x1800 + 0x40 * n
/-- FLT_STAT. -/ abbrev fltStat (n : Nat) : Nat := 0x1804 + 0x40 * n
/-- FLT_GAIN. -/ abbrev fltGain (n : Nat) : Nat := 0x1808 + 0x40 * n
/-- FLT_OFS. -/ abbrev fltOfs (n : Nat) : Nat := 0x180C + 0x40 * n
/-- FLT_SKEW. -/ abbrev fltSkew (n : Nat) : Nat := 0x1810 + 0x40 * n
/-- FLT_FADE. -/ abbrev fltFade (n : Nat) : Nat := 0x1814 + 0x40 * n
/-- FLT_SUBST_CNT. -/ abbrev fltSubstCnt (n : Nat) : Nat := 0x1818 + 0x40 * n
/-- FLT_SAT_CNT. -/ abbrev fltSatCnt (n : Nat) : Nat := 0x181C + 0x40 * n
/-- FLT_RESET_CNT. -/ abbrev fltResetCnt (n : Nat) : Nat := 0x1820 + 0x40 * n
/-- SVI_CTL. -/ abbrev sviCtl : Nat := 0x2000
/-- SVI_STAT. -/ abbrev sviStat : Nat := 0x2004
/-- SVI_UNMATCHED. -/ abbrev sviUnmatched : Nat := 0x2008
/-- SVI_DROP_STOPPED. -/ abbrev sviDropStopped : Nat := 0x200C
/-- SVI_DD_P01. -/ abbrev sviDdP01 : Nat := 0x2010
/-- SVI_DD_P23. -/ abbrev sviDdP23 : Nat := 0x2014
/-- SVI_DD_EVICT. -/ abbrev sviDdEvict : Nat := 0x2018
/-- SVI_SEL. -/ abbrev sviSel : Nat := 0x201C
/-- SVI_SC_ACCEPT. -/ abbrev sviScAccept : Nat := 0x2020
/-- SVI_SC_STALE. -/ abbrev sviScStale : Nat := 0x2024
/-- SVI_SC_CONFREV. -/ abbrev sviScConfrev : Nat := 0x2028
/-- SVI_SC_UNSYNC. -/ abbrev sviScUnsync : Nat := 0x202C
/-- SVI_SC_TAGERR. -/ abbrev sviScTagerr : Nat := 0x2030
/-- SVI_SC_LATE. -/ abbrev sviScLate : Nat := 0x2034
/-- SVI_SC_INTERP. -/ abbrev sviScInterp : Nat := 0x2038
/-- SVI_SC_SUBST. -/ abbrev sviScSubst : Nat := 0x203C
/-- SVI_SC_OVF. -/ abbrev sviScOvf : Nat := 0x2040
/-- SVI_SC_DUP. -/ abbrev sviScDup : Nat := 0x2044
/-- SVI_PUB_CTL. -/ abbrev sviPubCtl : Nat := 0x2048
/-- SVI_SLOT_OVF. -/ abbrev sviSlotOvf : Nat := 0x204C
/-- SVI_STR_STAT. -/ abbrev sviStrStat (n : Nat) : Nat := 0x2100 + 0x4 * n
/-- SVI_STR_CFG. -/ abbrev sviStrCfg (n : Nat) : Nat := 0x2300 + 0x4 * n
/-- CFG_CTL. -/ abbrev cfgCtl : Nat := 0x2800
/-- CFG_STAT. -/ abbrev cfgStat : Nat := 0x2804
/-- CFG_ROT_CFG. -/ abbrev cfgRotCfg : Nat := 0x2808
/-- CFG_ROT_STAT. -/ abbrev cfgRotStat : Nat := 0x280C
/-- CFG_ECC_CFG. -/ abbrev cfgEccCfg : Nat := 0x2810
/-- CFG_LOAD_ERR. -/ abbrev cfgLoadErr : Nat := 0x2814
/-- CFG_MIG_STAT. -/ abbrev cfgMigStat : Nat := 0x2818
/-- CFG_MIG_LATE. -/ abbrev cfgMigLate : Nat := 0x281C
/-- CFG_TASK_OVERRUN. -/ abbrev cfgTaskOverrun : Nat := 0x2820
/-- CFG_ECC_UE. -/ abbrev cfgEccUe : Nat := 0x2824
/-- CFG_LIB_VER. -/ abbrev cfgLibVer : Nat := 0x2828
/-- CFG_IMG_VER. -/ abbrev cfgImgVer : Nat := 0x282C
/-- CFG_SPARE. -/ abbrev cfgSpare (n : Nat) : Nat := 0x2830 + 0x4 * n
/-- CFG_CELL_FAIL. -/ abbrev cfgCellFail (n : Nat) : Nat := 0x2850 + 0x4 * n
/-- CFG_BAY_GRP. -/ abbrev cfgBayGrp (n : Nat) : Nat := 0x2900 + 0x4 * n
/-- CFG_CLU_STAT. -/ abbrev cfgCluStat (n : Nat) : Nat := 0x2B00 + 0x4 * n
/-- LKS_CTL. -/ abbrev lksCtl : Nat := 0x3000
/-- LKS_STAT. -/ abbrev lksStat : Nat := 0x3004
/-- LKS_CFG. -/ abbrev lksCfg : Nat := 0x3008
/-- LKS_INJ_CNT. -/ abbrev lksInjCnt : Nat := 0x300C
/-- LKS_MISMATCH_CNT. -/ abbrev lksMismatchCnt : Nat := 0x3010
/-- LKS_REEXEC_CNT. -/ abbrev lksReexecCnt : Nat := 0x3014
/-- LKS_LATENT_CNT. -/ abbrev lksLatentCnt : Nat := 0x3018
/-- LKS_UNRESOLVED_CNT. -/ abbrev lksUnresolvedCnt : Nat := 0x301C
/-- LKS_CMP_FAULT_CNT. -/ abbrev lksCmpFaultCnt : Nat := 0x3020
/-- LKS_RESYNC_FAIL_CNT. -/ abbrev lksResyncFailCnt : Nat := 0x3024
/-- LKS_EARLY_CNT. -/ abbrev lksEarlyCnt : Nat := 0x3028
/-- LKS_DBG_CTL. -/ abbrev lksDbgCtl : Nat := 0x302C
/-- LKS_DBG_STAT. -/ abbrev lksDbgStat : Nat := 0x3030
/-- LKS_SEL. -/ abbrev lksSel : Nat := 0x3034
/-- LKS_GRP_STAT. -/ abbrev lksGrpStat : Nat := 0x3038
/-- LKS_GRP_CNT. -/ abbrev lksGrpCnt : Nat := 0x303C
/-- LKS_OBS_SIG_LO. -/ abbrev lksObsSigLo : Nat := 0x3040
/-- LKS_OBS_SIG_HI. -/ abbrev lksObsSigHi : Nat := 0x3044
/-- LKS_UNSUP. -/ abbrev lksUnsup (n : Nat) : Nat := 0x3048 + 0x4 * n
/-- LKS_DEBUG. -/ abbrev lksDebug (n : Nat) : Nat := 0x305C + 0x4 * n
/-- BAY_STAT. -/ abbrev bayStat : Nat := 0x3800
/-- BAY_BIN_CFG. -/ abbrev bayBinCfg : Nat := 0x3804
/-- BAY_BIN_STAT. -/ abbrev bayBinStat : Nat := 0x3808
/-- BAY_BIN_EVT_EN. -/ abbrev bayBinEvtEn : Nat := 0x380C
/-- BAY_DTO_CFG. -/ abbrev bayDtoCfg (n : Nat) : Nat := 0x3810 + 0x4 * n
/-- BAY_DTO_STAT. -/ abbrev bayDtoStat : Nat := 0x3830
/-- BAY_BEL_CFG. -/ abbrev bayBelCfg : Nat := 0x3834
/-- BAY_BEL_EN. -/ abbrev bayBelEn (n : Nat) : Nat := 0x3838 + 0x4 * n
/-- BAY_TGT. -/ abbrev bayTgt (n : Nat) : Nat := 0x3848 + 0x4 * n
/-- BAY_OUT_LO. -/ abbrev bayOutLo (n : Nat) : Nat := 0x3C00 + 0x8 * n
/-- BAY_OUT_HI. -/ abbrev bayOutHi (n : Nat) : Nat := 0x3C04 + 0x8 * n
/-- CUP_CTL. -/ abbrev cupCtl : Nat := 0x4000
/-- CUP_STAT. -/ abbrev cupStat : Nat := 0x4004
/-- CUP_AREA_CFG. -/ abbrev cupAreaCfg : Nat := 0x4008
/-- CUP_AREA_USED. -/ abbrev cupAreaUsed : Nat := 0x400C
/-- CUP_IDX_USED. -/ abbrev cupIdxUsed : Nat := 0x4010
/-- CUP_REC_NEXT. -/ abbrev cupRecNext : Nat := 0x4014
/-- CUP_TRIG_DROP. -/ abbrev cupTrigDrop : Nat := 0x4018
/-- CUP_TRIG_DISARMED. -/ abbrev cupTrigDisarmed : Nat := 0x401C
/-- CUP_OVERWRITTEN. -/ abbrev cupOverwritten : Nat := 0x4020
/-- CUP_XTRIG_RX. -/ abbrev cupXtrigRx : Nat := 0x4024
/-- CUP_XTRIG_IGN. -/ abbrev cupXtrigIgn : Nat := 0x4028
/-- CUP_FLASH_PEND. -/ abbrev cupFlashPend : Nat := 0x402C
/-- CUP_BAY_CTL. -/ abbrev cupBayCtl (n : Nat) : Nat := 0x4100 + 0x4 * n
/-- CUP_BAY_STAT. -/ abbrev cupBayStat (n : Nat) : Nat := 0x4300 + 0x4 * n
/-- BEL_CTL. -/ abbrev belCtl : Nat := 0x4800
/-- BEL_STAT. -/ abbrev belStat : Nat := 0x4804
/-- BEL_PAIR_ID. -/ abbrev belPairId : Nat := 0x4808
/-- BEL_PAIR_MAC_LO. -/ abbrev belPairMacLo : Nat := 0x480C
/-- BEL_PAIR_MAC_HI. -/ abbrev belPairMacHi : Nat := 0x4810
/-- BEL_UNIT_MAC_LO. -/ abbrev belUnitMacLo : Nat := 0x4814
/-- BEL_UNIT_MAC_HI. -/ abbrev belUnitMacHi : Nat := 0x4818
/-- BEL_ETYPE. -/ abbrev belEtype : Nat := 0x481C
/-- BEL_BF_CFG. -/ abbrev belBfCfg : Nat := 0x4820
/-- BEL_BF_DMAC_LO. -/ abbrev belBfDmacLo : Nat := 0x4824
/-- BEL_BF_DMAC_HI. -/ abbrev belBfDmacHi : Nat := 0x4828
/-- BEL_BCN_CFG. -/ abbrev belBcnCfg : Nat := 0x482C
/-- BEL_XT_CFG. -/ abbrev belXtCfg : Nat := 0x4830
/-- BEL_EPOCH. -/ abbrev belEpoch : Nat := 0x4834
/-- BEL_GASP_CFG. -/ abbrev belGaspCfg : Nat := 0x4838
/-- BEL_SW_CFG. -/ abbrev belSwCfg : Nat := 0x483C
/-- BEL_SW_PRIO. -/ abbrev belSwPrio : Nat := 0x4840
/-- BEL_PAIR_MODE. -/ abbrev belPairMode : Nat := 0x4844
/-- BEL_VLAN_IDX. -/ abbrev belVlanIdx : Nat := 0x4848
/-- BEL_VLAN_CFG. -/ abbrev belVlanCfg : Nat := 0x484C
/-- BEL_MC_IDX. -/ abbrev belMcIdx : Nat := 0x4850
/-- BEL_MC_MAC_LO. -/ abbrev belMcMacLo : Nat := 0x4854
/-- BEL_MC_MAC_HI. -/ abbrev belMcMacHi : Nat := 0x4858
/-- BEL_MC_PORTS. -/ abbrev belMcPorts : Nat := 0x485C
/-- BEL_GS_SEL. -/ abbrev belGsSel : Nat := 0x4860
/-- BEL_GS_STAT. -/ abbrev belGsStat : Nat := 0x4864
/-- BEL_GS_ACCEPT. -/ abbrev belGsAccept : Nat := 0x4868
/-- BEL_GS_DUP. -/ abbrev belGsDup : Nat := 0x486C
/-- BEL_GS_STALE. -/ abbrev belGsStale : Nat := 0x4870
/-- BEL_GS_TAL. -/ abbrev belGsTal : Nat := 0x4874
/-- BEL_GS_REJ. -/ abbrev belGsRej : Nat := 0x4878
/-- BEL_GP_SEL. -/ abbrev belGpSel : Nat := 0x487C
/-- BEL_GP_STNUM. -/ abbrev belGpStnum : Nat := 0x4880
/-- BEL_GP_SQNUM. -/ abbrev belGpSqnum : Nat := 0x4884
/-- BEL_BCN_RX. -/ abbrev belBcnRx : Nat := 0x4888
/-- BEL_RX_IGN. -/ abbrev belRxIgn : Nat := 0x488C
/-- BEL_XT_TX. -/ abbrev belXtTx : Nat := 0x4890
/-- BEL_GP_SENT. -/ abbrev belGpSent : Nat := 0x4894
/-- BEL_P_CFG. -/ abbrev belPCfg (n : Nat) : Nat := 0x4900 + 0x40 * n
/-- BEL_P_STAT. -/ abbrev belPStat (n : Nat) : Nat := 0x4904 + 0x40 * n
/-- BEL_P_RX_OK. -/ abbrev belPRxOk (n : Nat) : Nat := 0x4908 + 0x40 * n
/-- BEL_P_RX_FCS. -/ abbrev belPRxFcs (n : Nat) : Nat := 0x490C + 0x40 * n
/-- BEL_P_RX_LEN. -/ abbrev belPRxLen (n : Nat) : Nat := 0x4910 + 0x40 * n
/-- BEL_P_RX_DROP. -/ abbrev belPRxDrop (n : Nat) : Nat := 0x4914 + 0x40 * n
/-- BEL_P_TX_OK. -/ abbrev belPTxOk (n : Nat) : Nat := 0x4918 + 0x40 * n
/-- BEL_P_TX_DROP. -/ abbrev belPTxDrop (n : Nat) : Nat := 0x491C + 0x40 * n
/-- BEL_P_TX_STOMP. -/ abbrev belPTxStomp (n : Nat) : Nat := 0x4920 + 0x40 * n
/-- BEL_GI_VAL. -/ abbrev belGiVal (n : Nat) : Nat := 0x4B80 + 0x4 * n
/-- BEL_GS_VALID. -/ abbrev belGsValid (n : Nat) : Nat := 0x4BA0 + 0x4 * n
/-- MIR_CTL. -/ abbrev mirCtl : Nat := 0x5000
/-- MIR_STAT. -/ abbrev mirStat : Nat := 0x5004
/-- MIR_CFG. -/ abbrev mirCfg : Nat := 0x5008
/-- MIR_PARTNER. -/ abbrev mirPartner : Nat := 0x500C
/-- MIR_SNAP_LO. -/ abbrev mirSnapLo : Nat := 0x5010
/-- MIR_SNAP_HI. -/ abbrev mirSnapHi : Nat := 0x5014
/-- MIR_OFFSET. -/ abbrev mirOffset : Nat := 0x5018
/-- MIR_HOLDOFF_LEFT. -/ abbrev mirHoldoffLeft : Nat := 0x501C
/-- MIR_LAT. -/ abbrev mirLat : Nat := 0x5020
/-- MIR_LANE_A_ERR. -/ abbrev mirLaneAErr : Nat := 0x5024
/-- MIR_LANE_B_ERR. -/ abbrev mirLaneBErr : Nat := 0x5028
/-- MIR_SNAP_DISCARD. -/ abbrev mirSnapDiscard : Nat := 0x502C
/-- MIR_BAY_RESYNC. -/ abbrev mirBayResync : Nat := 0x5030
/-- MIR_TAKEOVER_CNT. -/ abbrev mirTakeoverCnt : Nat := 0x5034
/-- MIR_ROLE_CNT. -/ abbrev mirRoleCnt : Nat := 0x5038
/-- MIR_FALLBACK_CNT. -/ abbrev mirFallbackCnt : Nat := 0x503C
/-- MIR_SYNCED. -/ abbrev mirSynced (n : Nat) : Nat := 0x5040 + 0x4 * n
/-- HIF_CTL. -/ abbrev hifCtl : Nat := 0x5800
/-- HIF_STAT. -/ abbrev hifStat : Nat := 0x5804
/-- HIF_ADMIN_CFG. -/ abbrev hifAdminCfg : Nat := 0x5808
/-- HIF_ADMIN_CMD_LO. -/ abbrev hifAdminCmdLo : Nat := 0x580C
/-- HIF_ADMIN_CMD_HI. -/ abbrev hifAdminCmdHi : Nat := 0x5810
/-- HIF_ADMIN_CPL_LO. -/ abbrev hifAdminCplLo : Nat := 0x5814
/-- HIF_ADMIN_CPL_HI. -/ abbrev hifAdminCplHi : Nat := 0x5818
/-- HIF_BAD_ACCESS. -/ abbrev hifBadAccess : Nat := 0x581C
/-- HIF_BAD_DB. -/ abbrev hifBadDb : Nat := 0x5820
/-- HIF_EVT_UNROUTED. -/ abbrev hifEvtUnrouted : Nat := 0x5824
/-- HIF_EVT_DROP. -/ abbrev hifEvtDrop : Nat := 0x5828
/-- HIF_DMA_ERR. -/ abbrev hifDmaErr : Nat := 0x582C
/-- HIF_RING_SEL. -/ abbrev hifRingSel : Nat := 0x5830
/-- HIF_RING_STAT. -/ abbrev hifRingStat : Nat := 0x5834
/-- HIF_RING_IDX. -/ abbrev hifRingIdx : Nat := 0x5838
/-- HIF_LOG_SEQ_LO. -/ abbrev hifLogSeqLo : Nat := 0x583C
/-- HIF_LOG_SEQ_HI. -/ abbrev hifLogSeqHi : Nat := 0x5840
/-- HIF_LOG_DROP. -/ abbrev hifLogDrop : Nat := 0x5844
/-- SEC_STAT. -/ abbrev secStat : Nat := 0x6000
/-- SEC_BOOT_STAT. -/ abbrev secBootStat : Nat := 0x6004
/-- SEC_KEY_STAT. -/ abbrev secKeyStat : Nat := 0x6008
/-- SEC_ROLLBACK. -/ abbrev secRollback : Nat := 0x600C
/-- SEC_DBG_STAT. -/ abbrev secDbgStat : Nat := 0x6010
/-- SEC_DBG_EXP. -/ abbrev secDbgExp : Nat := 0x6014
/-- SEC_TOK_SERIAL_LO. -/ abbrev secTokSerialLo : Nat := 0x6018
/-- SEC_TOK_SERIAL_HI. -/ abbrev secTokSerialHi : Nat := 0x601C
/-- SEC_UID. -/ abbrev secUid (n : Nat) : Nat := 0x6020 + 0x4 * n
/-- SEC_UNIT_ID. -/ abbrev secUnitId : Nat := 0x6030
/-- SEC_OTP_PROG_CTL. -/ abbrev secOtpProgCtl : Nat := 0x6034
/-- SEC_OTP_PROG_ADDR. -/ abbrev secOtpProgAddr : Nat := 0x6038
/-- SEC_OTP_PROG_DATA. -/ abbrev secOtpProgData : Nat := 0x603C
/-- SEC_AUTH_FAIL_CNT. -/ abbrev secAuthFailCnt : Nat := 0x6040
/-- SEC_BOOT_TIME. -/ abbrev secBootTime : Nat := 0x6044
/-- DPC_ADDR_LO. -/ abbrev dpcAddrLo : Nat := 0x6800
/-- DPC_ADDR_HI. -/ abbrev dpcAddrHi : Nat := 0x6804
/-- DPC_STAT. -/ abbrev dpcStat : Nat := 0x6808
/-- DPC_UNDERRUN_CNT. -/ abbrev dpcUnderrunCnt : Nat := 0x680C
/-- DPC_WR_REJ_CNT. -/ abbrev dpcWrRejCnt : Nat := 0x6810
/-- MET_CTL. -/ abbrev metCtl : Nat := 0x7000
/-- MET_STAT. -/ abbrev metStat : Nat := 0x7004
/-- MET_JUDGE_CFG. -/ abbrev metJudgeCfg : Nat := 0x7008
/-- MET_POST_CNT. -/ abbrev metPostCnt : Nat := 0x700C
/-- MET_AMEND_CNT. -/ abbrev metAmendCnt : Nat := 0x7010
/-- MET_MISSING_CNT. -/ abbrev metMissingCnt : Nat := 0x7014
/-- MET_NT_ALARM. -/ abbrev metNtAlarm (n : Nat) : Nat := 0x7020 + 0x4 * n
/-- MET_BYPASS. -/ abbrev metBypass (n : Nat) : Nat := 0x7030 + 0x4 * n
end R

/-- Registers of the DEV block. -/
def regsDev0 : List RegDesc :=
  [⟨"DEV_ID", 0x0000, 0x4, 1, [⟨31, 16, .ro, 0, 0, 65535⟩, ⟨15, 0, .ro, 0, 0, 65535⟩]⟩,
   ⟨"DEV_REV", 0x0004, 0x4, 1, [⟨31, 24, .ro, 161, 0, 255⟩, ⟨15, 0, .ro, 0, 0, 65535⟩]⟩,
   ⟨"DEV_CAP0", 0x0008, 0x4, 1, [⟨31, 24, .ro, 0, 0, 255⟩, ⟨23, 16, .ro, 0, 0, 255⟩, ⟨15, 8, .ro, 0, 0, 255⟩]⟩,
   ⟨"DEV_CAP1", 0x000C, 0x4, 1, [⟨31, 16, .ro, 0, 0, 65535⟩, ⟨15, 8, .ro, 128, 0, 255⟩, ⟨7, 4, .ro, 8, 0, 15⟩]⟩,
   ⟨"DEV_CAP2", 0x0010, 0x4, 1, [⟨31, 28, .ro, 0, 0, 15⟩, ⟨27, 20, .ro, 0, 0, 255⟩, ⟨19, 16, .ro, 6, 0, 15⟩]⟩,
   ⟨"MODE_STAT", 0x0014, 0x4, 1, [⟨15, 15, .ro, 0, 0, 1⟩, ⟨14, 14, .ro, 0, 0, 1⟩, ⟨13, 11, .ro, 0, 0, 7⟩, ⟨10, 8, .ro, 0, 0, 7⟩, ⟨2, 0, .ro, 0, 0, 7⟩]⟩,
   ⟨"MODE_CTL", 0x0018, 0x4, 1, [⟨0, 0, .rw, 0, 0, 1⟩]⟩,
   ⟨"DEV_SCRATCH", 0x001C, 0x4, 1, [⟨31, 0, .rw, 0, 0, 4294967295⟩]⟩,
   ⟨"DEV_BRIDGE_SEL", 0x0020, 0x4, 1, [⟨5, 0, .rw, 0, 0, 63⟩]⟩,
   ⟨"DEV_BRIDGE_CNT", 0x0024, 0x4, 1, [⟨31, 16, .ro, 0, 0, 65535⟩, ⟨15, 0, .ro, 0, 0, 65535⟩]⟩]

/-- Registers of the PWR block. -/
def regsPwr0 : List RegDesc :=
  [⟨"HEALTH", 0x0400, 0x4, 1, [⟨31, 31, .ro, 0, 0, 1⟩, ⟨23, 20, .ro, 0, 0, 15⟩, ⟨6, 6, .ro, 0, 0, 1⟩, ⟨5, 5, .ro, 0, 0, 1⟩, ⟨4, 4, .ro, 0, 0, 1⟩, ⟨3, 3, .ro, 0, 0, 1⟩, ⟨2, 2, .ro, 0, 0, 1⟩, ⟨1, 1, .ro, 0, 0, 1⟩, ⟨0, 0, .ro, 0, 0, 1⟩]⟩,
   ⟨"PWR_STAT", 0x0404, 0x4, 1, [⟨31, 24, .ro, 0, 0, 255⟩, ⟨23, 16, .ro, 0, 0, 255⟩, ⟨6, 6, .ro, 0, 0, 1⟩, ⟨5, 5, .ro, 0, 0, 1⟩, ⟨4, 4, .ro, 0, 0, 1⟩, ⟨3, 3, .w1c, 0, 0, 1⟩, ⟨2, 2, .ro, 0, 0, 1⟩, ⟨1, 1, .w1c, 0, 0, 1⟩]⟩,
   ⟨"PWR_THERM_CFG", 0x0408, 0x4, 1, [⟨7, 4, .rws, 3, 1, 15⟩]⟩,
   ⟨"PWR_TSEL", 0x040C, 0x4, 1, [⟨5, 0, .rw, 0, 0, 39⟩]⟩,
   ⟨"PWR_TVAL", 0x0410, 0x4, 1, [⟨31, 0, .ro, 0, 0, 4294967295⟩]⟩,
   ⟨"PWR_DRAM_CFG", 0x0414, 0x4, 1, [⟨7, 0, .rws, 16, 1, 255⟩]⟩,
   ⟨"PWR_DYING_CFG", 0x0418, 0x4, 1, [⟨2, 0, .rws, 2, 0, 5⟩]⟩,
   ⟨"PWR_DYING_LAST", 0x041C, 0x4, 1, [⟨31, 16, .ro, 0, 0, 65535⟩, ⟨15, 0, .ro, 0, 0, 65535⟩]⟩,
   ⟨"PWR_SELFTEST_STAT", 0x0420, 0x4, 1, [⟨31, 24, .ro, 255, 0, 255⟩, ⟨23, 16, .ro, 0, 0, 255⟩, ⟨15, 0, .ro, 0, 0, 65535⟩]⟩,
   ⟨"PWR_DRAM_CE_CNT", 0x0424, 0x4, 1, [⟨31, 0, .ro, 0, 0, 4294967295⟩]⟩,
   ⟨"PWR_THROTTLE_CNT", 0x0428, 0x4, 1, [⟨31, 0, .ro, 0, 0, 4294967295⟩]⟩,
   ⟨"PWR_SUPPLY_FAULT_CNT", 0x042C, 0x4, 1, [⟨31, 0, .ro, 0, 0, 4294967295⟩]⟩]

/-- Registers of the ALM block. -/
def regsAlm0 : List RegDesc :=
  [⟨"ALM_CTL", 0x0800, 0x4, 1, [⟨1, 1, .w1s, 0, 0, 1⟩, ⟨0, 0, .w1s, 0, 0, 1⟩]⟩,
   ⟨"ALM_STAT", 0x0804, 0x4, 1, [⟨31, 16, .ro, 65472, 0, 65535⟩, ⟨15, 12, .ro, 15, 0, 15⟩, ⟨11, 11, .ro, 0, 0, 1⟩, ⟨10, 10, .ro, 0, 0, 1⟩, ⟨9, 9, .ro, 0, 0, 1⟩, ⟨8, 8, .ro, 0, 0, 1⟩, ⟨7, 7, .w1c, 0, 0, 1⟩, ⟨6, 6, .w1c, 0, 0, 1⟩]⟩,
   ⟨"ALM_SRC_CFG", 0x0808, 0x4, 1, [⟨5, 4, .rws, 1, 0, 3⟩, ⟨3, 2, .rws, 2, 0, 3⟩, ⟨1, 0, .rws, 3, 0, 3⟩]⟩,
   ⟨"ALM_SERVO_CFG", 0x080C, 0x4, 1, [⟨31, 24, .rws, 100, 1, 100⟩, ⟨23, 16, .rws, 10, 0, 60⟩, ⟨15, 0, .rws, 10, 1, 10000⟩]⟩,
   ⟨"ALM_HOLD_CFG", 0x0810, 0x4, 1, [⟨31, 24, .rws, 10, 1, 100⟩, ⟨23, 16, .rws, 10, 0, 30⟩, ⟨15, 15, .rws, 0, 0, 1⟩, ⟨14, 0, .rws, 0, 0, 32767⟩]⟩,
   ⟨"ALM_PTP_CFG", 0x0814, 0x4, 1, [⟨31, 24, .rws, 0, 0, 255⟩, ⟨23, 23, .rws, 0, 0, 1⟩, ⟨21, 20, .rws, 0, 0, 3⟩, ⟨19, 16, .rws, 15, 0, 15⟩, ⟨15, 15, .rws, 0, 0, 1⟩, ⟨14, 12, .rws, 4, 0, 7⟩, ⟨11, 0, .rws, 0, 0, 4094⟩]⟩,
   ⟨"ALM_PPS_CFG", 0x0818, 0x4, 1, [⟨11, 2, .rws, 100, 1, 999⟩, ⟨1, 1, .rws, 0, 0, 1⟩, ⟨0, 0, .rws, 1, 0, 1⟩]⟩,
   ⟨"ALM_PPS_IN_DELAY", 0x081C, 0x4, 1, [⟨31, 0, .rws, 0, 0, 4294967295⟩]⟩,
   ⟨"ALM_UTC_OFFSET", 0x0820, 0x4, 1, [⟨31, 31, .ro, 0, 0, 1⟩, ⟨30, 30, .ro, 0, 0, 1⟩, ⟨15, 0, .rws, 0, 0, 65535⟩]⟩,
   ⟨"ALM_RESTEP_CFG", 0x0824, 0x4, 1, [⟨11, 0, .rws, 60, 10, 3600⟩]⟩,
   ⟨"ALM_SCHED_CFG", 0x0828, 0x4, 1, [⟨15, 0, .rws, 1000, 0, 60000⟩]⟩,
   ⟨"ALM_NOW_SEC_LO", 0x082C, 0x4, 1, [⟨31, 0, .ro, 0, 0, 4294967295⟩]⟩]

/-- Registers of the ALM block. -/
def regsAlm1 : List RegDesc :=
  [⟨"ALM_NOW_SEC_HI", 0x0830, 0x4, 1, [⟨31, 0, .ro, 0, 0, 4294967295⟩]⟩,
   ⟨"ALM_NOW_NS", 0x0834, 0x4, 1, [⟨31, 0, .ro, 0, 0, 4294967295⟩]⟩,
   ⟨"ALM_NOW_FQ", 0x0838, 0x4, 1, [⟨31, 0, .ro, 0, 0, 4294967295⟩]⟩,
   ⟨"ALM_PRESET_SEC_LO", 0x083C, 0x4, 1, [⟨31, 0, .rw, 0, 0, 4294967295⟩]⟩,
   ⟨"ALM_PRESET_SEC_HI", 0x0840, 0x4, 1, [⟨31, 0, .rw, 0, 0, 4294967295⟩]⟩,
   ⟨"ALM_OFFSET", 0x0844, 0x4, 1, [⟨31, 0, .ro, 0, 0, 4294967295⟩]⟩,
   ⟨"ALM_RATE", 0x0848, 0x4, 1, [⟨31, 0, .ro, 0, 0, 4294967295⟩]⟩,
   ⟨"ALM_GM_ID_LO", 0x084C, 0x4, 1, [⟨31, 0, .ro, 0, 0, 4294967295⟩]⟩,
   ⟨"ALM_GM_ID_HI", 0x0850, 0x4, 1, [⟨31, 0, .ro, 0, 0, 4294967295⟩]⟩,
   ⟨"ALM_CAND_OFS_LO", 0x0854, 0x4, 1, [⟨31, 0, .ro, 0, 0, 4294967295⟩]⟩,
   ⟨"ALM_CAND_OFS_HI", 0x0858, 0x4, 1, [⟨31, 0, .ro, 0, 0, 4294967295⟩]⟩,
   ⟨"ALM_RESTEP_STAT", 0x085C, 0x4, 1, [⟨31, 0, .ro, 0, 0, 4294967295⟩]⟩]

/-- Registers of the ALM block. -/
def regsAlm2 : List RegDesc :=
  [⟨"ALM_TC_CNT", 0x0860, 0x4, 1, [⟨31, 16, .ro, 0, 0, 65535⟩, ⟨15, 0, .ro, 0, 0, 65535⟩]⟩,
   ⟨"ALM_SCHED_USED_LO", 0x0864, 0x4, 1, [⟨31, 0, .ro, 0, 0, 4294967295⟩]⟩,
   ⟨"ALM_SCHED_USED_HI", 0x0868, 0x4, 1, [⟨31, 0, .ro, 0, 0, 4294967295⟩]⟩,
   ⟨"ALM_SCHED_SKIPS", 0x086C, 0x4, 1, [⟨31, 0, .ro, 0, 0, 4294967295⟩]⟩,
   ⟨"ALM_ERA", 0x0870, 0x4, 1, [⟨31, 0, .ro, 0, 0, 4294967295⟩]⟩]

/-- Registers of the AFE block. -/
def regsAfe0 : List RegDesc :=
  [⟨"AFE_CTL", 0x1000, 0x4, 1, [⟨4, 4, .rws, 0, 0, 1⟩, ⟨3, 3, .rws, 0, 0, 1⟩, ⟨2, 2, .rws, 1, 0, 1⟩, ⟨1, 1, .rws, 0, 0, 1⟩, ⟨0, 0, .rws, 0, 0, 1⟩]⟩,
   ⟨"AFE_STAT", 0x1004, 0x4, 1, [⟨15, 15, .w1c, 0, 0, 1⟩, ⟨14, 14, .ro, 0, 0, 1⟩, ⟨13, 13, .ro, 0, 0, 1⟩, ⟨12, 12, .ro, 0, 0, 1⟩, ⟨11, 8, .ro, 0, 0, 15⟩, ⟨7, 7, .ro, 0, 0, 1⟩]⟩,
   ⟨"AFE_CH_EN", 0x1008, 0x4, 1, [⟨31, 0, .rws, 0, 0, 4294967295⟩]⟩,
   ⟨"AFE_MET_EN", 0x100C, 0x4, 1, [⟨31, 0, .rws, 0, 0, 4294967295⟩]⟩,
   ⟨"AFE_ILV", 0x1010, 0x4, 1, [⟨15, 0, .rws, 0, 0, 65535⟩]⟩,
   ⟨"AFE_SPARE_CFG", 0x1014, 0x4, 1, [⟨19, 8, .rws, 60, 32, 3600⟩, ⟨7, 0, .rws, 8, 1, 255⟩]⟩,
   ⟨"AFE_SPARE_STAT", 0x1018, 0x4, 1, [⟨31, 31, .ro, 0, 0, 1⟩, ⟨30, 29, .ro, 0, 0, 3⟩, ⟨28, 24, .ro, 0, 0, 31⟩, ⟨15, 0, .ro, 0, 0, 65535⟩]⟩,
   ⟨"AFE_SAR_FAIL", 0x101C, 0x4, 1, [⟨31, 0, .ro, 0, 0, 4294967295⟩]⟩,
   ⟨"AFE_OVR_STAT", 0x1020, 0x4, 1, [⟨31, 0, .w1c, 0, 0, 4294967295⟩]⟩,
   ⟨"AFE_SYNC_OVERRUN", 0x1024, 0x4, 1, [⟨31, 0, .ro, 0, 0, 4294967295⟩]⟩,
   ⟨"AFE_SNAP_COLLIDE", 0x1028, 0x4, 1, [⟨31, 0, .ro, 0, 0, 4294967295⟩]⟩,
   ⟨"AFE_TAP_DROP", 0x102C, 0x4, 1, [⟨31, 0, .ro, 0, 0, 4294967295⟩]⟩]

/-- Registers of the AFE block. -/
def regsAfe1 : List RegDesc :=
  [⟨"AFE_TAP_CFG", 0x1030, 0x4, 4, [⟨31, 31, .rw, 0, 0, 1⟩, ⟨20, 16, .rw, 0, 0, 31⟩, ⟨15, 8, .rw, 1, 1, 255⟩, ⟨6, 0, .rw, 0, 0, 127⟩]⟩,
   ⟨"AFE_TRK_CFG", 0x1040, 0x4, 8, [⟨31, 31, .rws, 0, 0, 1⟩, ⟨30, 30, .rws, 0, 0, 1⟩, ⟨24, 20, .rws, 0, 0, 31⟩, ⟨19, 8, .rws, 500, 10, 4000⟩, ⟨7, 0, .rws, 32, 1, 255⟩]⟩,
   ⟨"AFE_TRK_STAT", 0x1060, 0x4, 8, [⟨31, 30, .ro, 0, 0, 3⟩, ⟨24, 0, .ro, 0, 0, 33554431⟩]⟩,
   ⟨"AFE_PAIR_CFG", 0x1080, 0x4, 16, [⟨31, 31, .rws, 0, 0, 1⟩, ⟨9, 5, .rws, 0, 0, 31⟩, ⟨4, 0, .rws, 0, 0, 31⟩]⟩,
   ⟨"AFE_MET_TRK", 0x10C0, 0x4, 4, [⟨2, 0, .rws, 0, 0, 7⟩, ⟨6, 4, .rws, 0, 0, 7⟩, ⟨10, 8, .rws, 0, 0, 7⟩, ⟨14, 12, .rws, 0, 0, 7⟩, ⟨18, 16, .rws, 0, 0, 7⟩, ⟨22, 20, .rws, 0, 0, 7⟩, ⟨26, 24, .rws, 0, 0, 7⟩, ⟨30, 28, .rws, 0, 0, 7⟩]⟩,
   ⟨"AFE_MET_SAT", 0x10D0, 0x4, 1, [⟨31, 0, .w1c, 0, 0, 4294967295⟩]⟩,
   ⟨"AFE_SNAP_VAL", 0x1100, 0x4, 16, [⟨31, 0, .ro, 0, 0, 4294967295⟩]⟩,
   ⟨"AFE_SNAP_SEC_LO", 0x1140, 0x4, 1, [⟨31, 0, .ro, 0, 0, 4294967295⟩]⟩,
   ⟨"AFE_SNAP_SEC_HI", 0x1144, 0x4, 1, [⟨31, 0, .ro, 0, 0, 4294967295⟩]⟩,
   ⟨"AFE_SNAP_NS", 0x1148, 0x4, 1, [⟨31, 0, .ro, 0, 0, 4294967295⟩]⟩,
   ⟨"AFE_SNAP_FQ", 0x114C, 0x4, 1, [⟨31, 0, .ro, 0, 0, 4294967295⟩]⟩,
   ⟨"AFE_SNAP_VALID", 0x1150, 0x4, 1, [⟨31, 0, .ro, 0, 0, 4294967295⟩]⟩]

/-- Registers of the AFE block. -/
def regsAfe2 : List RegDesc :=
  [⟨"AFE_SNAP_OVR", 0x1154, 0x4, 1, [⟨31, 0, .ro, 0, 0, 4294967295⟩]⟩]

/-- Registers of the FLT block. -/
def regsFlt0 : List RegDesc :=
  [⟨"FLT_CTL", 0x1800, 0x40, 32, [⟨8, 8, .w1s, 0, 0, 1⟩, ⟨7, 7, .rws, 0, 0, 1⟩, ⟨5, 4, .wo, 0, 0, 3⟩, ⟨3, 2, .wo, 0, 0, 3⟩]⟩,
   ⟨"FLT_STAT", 0x1804, 0x40, 32, [⟨15, 15, .w1c, 0, 0, 1⟩, ⟨14, 14, .w1c, 0, 0, 1⟩, ⟨13, 13, .w1c, 0, 0, 1⟩, ⟨12, 12, .ro, 0, 0, 1⟩, ⟨11, 11, .ro, 0, 0, 1⟩, ⟨10, 10, .ro, 0, 0, 1⟩, ⟨9, 9, .ro, 0, 0, 1⟩, ⟨8, 8, .ro, 0, 0, 1⟩, ⟨7, 7, .ro, 0, 0, 1⟩, ⟨6, 6, .ro, 0, 0, 1⟩, ⟨5, 5, .ro, 0, 0, 1⟩, ⟨4, 4, .w1c, 0, 0, 1⟩]⟩,
   ⟨"FLT_GAIN", 0x1808, 0x40, 32, [⟨31, 0, .ro, 1073741824, 0, 4294967295⟩]⟩,
   ⟨"FLT_OFS", 0x180C, 0x40, 32, [⟨15, 0, .ro, 0, 0, 65535⟩]⟩,
   ⟨"FLT_SKEW", 0x1810, 0x40, 32, [⟨15, 0, .ro, 0, 0, 65535⟩]⟩,
   ⟨"FLT_FADE", 0x1814, 0x40, 32, [⟨28, 16, .rw, 256, 16, 4096⟩, ⟨12, 0, .rw, 256, 16, 4096⟩]⟩,
   ⟨"FLT_SUBST_CNT", 0x1818, 0x40, 32, [⟨31, 0, .ro, 0, 0, 4294967295⟩]⟩,
   ⟨"FLT_SAT_CNT", 0x181C, 0x40, 32, [⟨31, 0, .ro, 0, 0, 4294967295⟩]⟩,
   ⟨"FLT_RESET_CNT", 0x1820, 0x40, 32, [⟨31, 0, .ro, 0, 0, 4294967295⟩]⟩]

/-- Registers of the SVI block. -/
def regsSvi0 : List RegDesc :=
  [⟨"SVI_CTL", 0x2000, 0x4, 1, [⟨15, 8, .rws, 40, 1, 100⟩, ⟨0, 0, .rws, 0, 0, 1⟩]⟩,
   ⟨"SVI_STAT", 0x2004, 0x4, 1, [⟨31, 24, .ro, 0, 0, 255⟩, ⟨23, 16, .ro, 0, 0, 255⟩, ⟨1, 1, .w1c, 0, 0, 1⟩, ⟨0, 0, .w1c, 0, 0, 1⟩]⟩,
   ⟨"SVI_UNMATCHED", 0x2008, 0x4, 1, [⟨31, 0, .ro, 0, 0, 4294967295⟩]⟩,
   ⟨"SVI_DROP_STOPPED", 0x200C, 0x4, 1, [⟨31, 0, .ro, 0, 0, 4294967295⟩]⟩,
   ⟨"SVI_DD_P01", 0x2010, 0x4, 1, [⟨31, 0, .ro, 0, 0, 4294967295⟩]⟩,
   ⟨"SVI_DD_P23", 0x2014, 0x4, 1, [⟨31, 0, .ro, 0, 0, 4294967295⟩]⟩,
   ⟨"SVI_DD_EVICT", 0x2018, 0x4, 1, [⟨31, 0, .ro, 0, 0, 4294967295⟩]⟩,
   ⟨"SVI_SEL", 0x201C, 0x4, 1, [⟨6, 0, .rw, 0, 0, 127⟩]⟩,
   ⟨"SVI_SC_ACCEPT", 0x2020, 0x4, 1, [⟨31, 0, .ro, 0, 0, 4294967295⟩]⟩,
   ⟨"SVI_SC_STALE", 0x2024, 0x4, 1, [⟨31, 0, .ro, 0, 0, 4294967295⟩]⟩,
   ⟨"SVI_SC_CONFREV", 0x2028, 0x4, 1, [⟨31, 0, .ro, 0, 0, 4294967295⟩]⟩,
   ⟨"SVI_SC_UNSYNC", 0x202C, 0x4, 1, [⟨31, 0, .ro, 0, 0, 4294967295⟩]⟩]

/-- Registers of the SVI block. -/
def regsSvi1 : List RegDesc :=
  [⟨"SVI_SC_TAGERR", 0x2030, 0x4, 1, [⟨31, 0, .ro, 0, 0, 4294967295⟩]⟩,
   ⟨"SVI_SC_LATE", 0x2034, 0x4, 1, [⟨31, 0, .ro, 0, 0, 4294967295⟩]⟩,
   ⟨"SVI_SC_INTERP", 0x2038, 0x4, 1, [⟨31, 0, .ro, 0, 0, 4294967295⟩]⟩,
   ⟨"SVI_SC_SUBST", 0x203C, 0x4, 1, [⟨31, 0, .ro, 0, 0, 4294967295⟩]⟩,
   ⟨"SVI_SC_OVF", 0x2040, 0x4, 1, [⟨31, 0, .ro, 0, 0, 4294967295⟩]⟩,
   ⟨"SVI_SC_DUP", 0x2044, 0x4, 1, [⟨31, 0, .ro, 0, 0, 4294967295⟩]⟩,
   ⟨"SVI_PUB_CTL", 0x2048, 0x4, 1, [⟨7, 0, .rws, 0, 0, 255⟩]⟩,
   ⟨"SVI_SLOT_OVF", 0x204C, 0x4, 1, [⟨31, 0, .ro, 0, 0, 4294967295⟩]⟩,
   ⟨"SVI_STR_STAT", 0x2100, 0x4, 128, [⟨31, 30, .ro, 2, 0, 3⟩, ⟨29, 29, .ro, 0, 0, 1⟩, ⟨28, 28, .ro, 0, 0, 1⟩, ⟨20, 16, .ro, 0, 0, 31⟩, ⟨15, 0, .ro, 0, 0, 65535⟩]⟩,
   ⟨"SVI_STR_CFG", 0x2300, 0x4, 128, [⟨31, 31, .rws, 0, 0, 1⟩, ⟨30, 29, .rws, 2, 0, 2⟩, ⟨28, 22, .rws, 20, 1, 100⟩, ⟨21, 16, .rws, 5, 0, 63⟩, ⟨15, 11, .rws, 8, 1, 31⟩, ⟨10, 6, .rws, 8, 0, 31⟩, ⟨5, 2, .rws, 2, 1, 15⟩]⟩]

/-- Registers of the CFG block. -/
def regsCfg0 : List RegDesc :=
  [⟨"CFG_CTL", 0x2800, 0x4, 1, [⟨25, 16, .rws, 320, 300, 1023⟩, ⟨1, 1, .w1s, 0, 0, 1⟩, ⟨0, 0, .rws, 1, 0, 1⟩]⟩,
   ⟨"CFG_STAT", 0x2804, 0x4, 1, [⟨31, 24, .ro, 0, 0, 255⟩, ⟨23, 23, .ro, 0, 0, 1⟩, ⟨22, 22, .ro, 0, 0, 1⟩, ⟨21, 21, .ro, 0, 0, 1⟩, ⟨20, 20, .ro, 0, 0, 1⟩, ⟨19, 19, .w1c, 0, 0, 1⟩, ⟨18, 18, .w1c, 0, 0, 1⟩, ⟨17, 17, .w1c, 0, 0, 1⟩]⟩,
   ⟨"CFG_ROT_CFG", 0x2808, 0x4, 1, [⟨7, 0, .rws, 24, 1, 168⟩]⟩,
   ⟨"CFG_ROT_STAT", 0x280C, 0x4, 1, [⟨31, 24, .ro, 255, 0, 255⟩, ⟨23, 16, .ro, 0, 0, 255⟩, ⟨15, 8, .ro, 0, 0, 255⟩, ⟨7, 0, .ro, 0, 0, 255⟩]⟩,
   ⟨"CFG_ECC_CFG", 0x2810, 0x4, 1, [⟨11, 8, .rws, 4, 1, 15⟩, ⟨7, 0, .rws, 16, 1, 255⟩]⟩,
   ⟨"CFG_LOAD_ERR", 0x2814, 0x4, 1, [⟨31, 24, .ro, 0, 0, 255⟩, ⟨23, 16, .ro, 0, 0, 255⟩, ⟨15, 0, .ro, 0, 0, 65535⟩]⟩,
   ⟨"CFG_MIG_STAT", 0x2818, 0x4, 1, [⟨31, 30, .ro, 0, 0, 3⟩, ⟨29, 28, .ro, 0, 0, 3⟩, ⟨26, 20, .ro, 0, 0, 127⟩, ⟨19, 12, .ro, 0, 0, 255⟩, ⟨11, 4, .ro, 0, 0, 255⟩]⟩,
   ⟨"CFG_MIG_LATE", 0x281C, 0x4, 1, [⟨31, 0, .ro, 0, 0, 4294967295⟩]⟩,
   ⟨"CFG_TASK_OVERRUN", 0x2820, 0x4, 1, [⟨31, 0, .ro, 0, 0, 4294967295⟩]⟩,
   ⟨"CFG_ECC_UE", 0x2824, 0x4, 1, [⟨31, 0, .ro, 0, 0, 4294967295⟩]⟩,
   ⟨"CFG_LIB_VER", 0x2828, 0x4, 1, [⟨31, 0, .ro, 0, 0, 4294967295⟩]⟩,
   ⟨"CFG_IMG_VER", 0x282C, 0x4, 1, [⟨31, 24, .ro, 0, 0, 255⟩, ⟨23, 16, .ro, 0, 0, 255⟩, ⟨6, 0, .ro, 0, 0, 127⟩]⟩]

/-- Registers of the CFG block. -/
def regsCfg1 : List RegDesc :=
  [⟨"CFG_SPARE", 0x2830, 0x4, 5, [⟨31, 0, .ro, 0, 0, 4294967295⟩]⟩,
   ⟨"CFG_CELL_FAIL", 0x2850, 0x4, 14, [⟨31, 0, .ro, 0, 0, 4294967295⟩]⟩,
   ⟨"CFG_BAY_GRP", 0x2900, 0x4, 128, [⟨31, 31, .ro, 0, 0, 1⟩, ⟨30, 29, .ro, 0, 0, 3⟩, ⟨28, 28, .ro, 0, 0, 1⟩, ⟨18, 16, .ro, 0, 0, 7⟩, ⟨7, 0, .ro, 255, 0, 255⟩]⟩,
   ⟨"CFG_CLU_STAT", 0x2B00, 0x4, 36, [⟨31, 31, .ro, 0, 0, 1⟩, ⟨30, 27, .ro, 0, 0, 15⟩, ⟨26, 22, .ro, 0, 0, 31⟩, ⟨15, 0, .ro, 0, 0, 65535⟩]⟩]

/-- Registers of the LKS block. -/
def regsLks0 : List RegDesc :=
  [⟨"LKS_CTL", 0x3000, 0x4, 1, [⟨0, 0, .rws, 1, 0, 1⟩]⟩,
   ⟨"LKS_STAT", 0x3004, 0x4, 1, [⟨31, 24, .ro, 0, 0, 255⟩, ⟨23, 16, .ro, 0, 0, 255⟩, ⟨4, 4, .ro, 0, 0, 1⟩, ⟨3, 3, .ro, 0, 0, 1⟩, ⟨2, 2, .w1c, 0, 0, 1⟩, ⟨1, 1, .ro, 0, 0, 1⟩, ⟨0, 0, .w1c, 0, 0, 1⟩]⟩,
   ⟨"LKS_CFG", 0x3008, 0x4, 1, [⟨8, 0, .rws, 480, 64, 480⟩]⟩,
   ⟨"LKS_INJ_CNT", 0x300C, 0x4, 1, [⟨31, 0, .ro, 0, 0, 4294967295⟩]⟩,
   ⟨"LKS_MISMATCH_CNT", 0x3010, 0x4, 1, [⟨31, 0, .ro, 0, 0, 4294967295⟩]⟩,
   ⟨"LKS_REEXEC_CNT", 0x3014, 0x4, 1, [⟨31, 0, .ro, 0, 0, 4294967295⟩]⟩,
   ⟨"LKS_LATENT_CNT", 0x3018, 0x4, 1, [⟨31, 0, .ro, 0, 0, 4294967295⟩]⟩,
   ⟨"LKS_UNRESOLVED_CNT", 0x301C, 0x4, 1, [⟨31, 0, .ro, 0, 0, 4294967295⟩]⟩,
   ⟨"LKS_CMP_FAULT_CNT", 0x3020, 0x4, 1, [⟨31, 0, .ro, 0, 0, 4294967295⟩]⟩,
   ⟨"LKS_RESYNC_FAIL_CNT", 0x3024, 0x4, 1, [⟨31, 0, .ro, 0, 0, 4294967295⟩]⟩,
   ⟨"LKS_EARLY_CNT", 0x3028, 0x4, 1, [⟨31, 0, .ro, 0, 0, 4294967295⟩]⟩,
   ⟨"LKS_DBG_CTL", 0x302C, 0x4, 1, [⟨31, 31, .w1s, 0, 0, 1⟩, ⟨30, 30, .w1s, 0, 0, 1⟩, ⟨8, 0, .rw, 0, 0, 431⟩]⟩]

/-- Registers of the LKS block. -/
def regsLks1 : List RegDesc :=
  [⟨"LKS_DBG_STAT", 0x3030, 0x4, 1, [⟨31, 31, .ro, 0, 0, 1⟩, ⟨30, 30, .ro, 0, 0, 1⟩, ⟨8, 0, .ro, 0, 0, 511⟩]⟩,
   ⟨"LKS_SEL", 0x3034, 0x4, 1, [⟨7, 0, .rw, 0, 0, 143⟩]⟩,
   ⟨"LKS_GRP_STAT", 0x3038, 0x4, 1, [⟨31, 30, .ro, 0, 0, 3⟩, ⟨29, 27, .ro, 0, 0, 7⟩, ⟨26, 24, .ro, 7, 0, 7⟩, ⟨23, 23, .ro, 0, 0, 1⟩, ⟨22, 22, .w1c, 0, 0, 1⟩, ⟨21, 21, .ro, 0, 0, 1⟩, ⟨20, 20, .ro, 0, 0, 1⟩, ⟨19, 19, .ro, 0, 0, 1⟩, ⟨18, 18, .ro, 0, 0, 1⟩, ⟨17, 17, .ro, 0, 0, 1⟩, ⟨7, 0, .ro, 255, 0, 255⟩]⟩,
   ⟨"LKS_GRP_CNT", 0x303C, 0x4, 1, [⟨31, 16, .ro, 0, 0, 65535⟩, ⟨15, 0, .ro, 0, 0, 65535⟩]⟩,
   ⟨"LKS_OBS_SIG_LO", 0x3040, 0x4, 1, [⟨31, 0, .ro, 0, 0, 4294967295⟩]⟩,
   ⟨"LKS_OBS_SIG_HI", 0x3044, 0x4, 1, [⟨31, 0, .ro, 0, 0, 4294967295⟩]⟩,
   ⟨"LKS_UNSUP", 0x3048, 0x4, 5, [⟨31, 0, .ro, 0, 0, 4294967295⟩]⟩,
   ⟨"LKS_DEBUG", 0x305C, 0x4, 5, [⟨31, 0, .ro, 0, 0, 4294967295⟩]⟩]

/-- Registers of the BAY block. -/
def regsBay0 : List RegDesc :=
  [⟨"BAY_STAT", 0x3800, 0x4, 1, [⟨31, 24, .ro, 0, 0, 255⟩, ⟨23, 16, .ro, 0, 0, 255⟩, ⟨2, 2, .w1c, 0, 0, 1⟩, ⟨1, 1, .w1c, 0, 0, 1⟩, ⟨0, 0, .w1c, 0, 0, 1⟩]⟩,
   ⟨"BAY_BIN_CFG", 0x3804, 0x4, 1, [⟨31, 16, .rws, 2000, 0, 20000⟩, ⟨15, 8, .rws, 20, 0, 255⟩]⟩,
   ⟨"BAY_BIN_STAT", 0x3808, 0x4, 1, [⟨31, 16, .ro, 0, 0, 65535⟩, ⟨15, 0, .ro, 0, 0, 65535⟩]⟩,
   ⟨"BAY_BIN_EVT_EN", 0x380C, 0x4, 1, [⟨15, 0, .rw, 0, 0, 65535⟩]⟩,
   ⟨"BAY_DTO_CFG", 0x3810, 0x4, 8, [⟨31, 31, .rws, 0, 0, 1⟩, ⟨30, 30, .rws, 0, 0, 1⟩, ⟨29, 23, .rws, 0, 0, 127⟩, ⟨22, 17, .rws, 0, 0, 63⟩, ⟨13, 0, .rws, 10, 1, 10000⟩]⟩,
   ⟨"BAY_DTO_STAT", 0x3830, 0x4, 1, [⟨23, 16, .ro, 255, 0, 255⟩, ⟨15, 8, .w1c, 0, 0, 255⟩, ⟨7, 0, .ro, 0, 0, 255⟩]⟩,
   ⟨"BAY_BEL_CFG", 0x3834, 0x4, 1, [⟨7, 0, .rws, 1, 1, 255⟩]⟩,
   ⟨"BAY_BEL_EN", 0x3838, 0x4, 4, [⟨31, 0, .rws, 0, 0, 4294967295⟩]⟩,
   ⟨"BAY_TGT", 0x3848, 0x4, 4, [⟨31, 0, .ro, 0, 0, 4294967295⟩]⟩,
   ⟨"BAY_OUT_LO", 0x3C00, 0x8, 128, [⟨31, 0, .ro, 0, 0, 4294967295⟩]⟩,
   ⟨"BAY_OUT_HI", 0x3C04, 0x8, 128, [⟨31, 0, .ro, 0, 0, 4294967295⟩]⟩]

/-- Registers of the CUP block. -/
def regsCup0 : List RegDesc :=
  [⟨"CUP_CTL", 0x4000, 0x4, 1, [⟨3, 3, .rws, 1, 0, 1⟩, ⟨2, 2, .rws, 1, 0, 1⟩, ⟨1, 1, .rws, 1, 0, 1⟩, ⟨0, 0, .rws, 0, 0, 1⟩]⟩,
   ⟨"CUP_STAT", 0x4004, 0x4, 1, [⟨31, 23, .ro, 0, 0, 511⟩, ⟨5, 5, .w1c, 0, 0, 1⟩, ⟨4, 4, .ro, 0, 0, 1⟩, ⟨3, 3, .ro, 0, 0, 1⟩, ⟨2, 2, .ro, 0, 0, 1⟩, ⟨0, 0, .w1c, 0, 0, 1⟩]⟩,
   ⟨"CUP_AREA_CFG", 0x4008, 0x4, 1, [⟨7, 0, .rws, 16, 4, 96⟩]⟩,
   ⟨"CUP_AREA_USED", 0x400C, 0x4, 1, [⟨31, 0, .ro, 0, 0, 4294967295⟩]⟩,
   ⟨"CUP_IDX_USED", 0x4010, 0x4, 1, [⟨31, 0, .ro, 0, 0, 4294967295⟩]⟩,
   ⟨"CUP_REC_NEXT", 0x4014, 0x4, 1, [⟨31, 0, .ro, 1, 0, 4294967295⟩]⟩,
   ⟨"CUP_TRIG_DROP", 0x4018, 0x4, 1, [⟨31, 0, .ro, 0, 0, 4294967295⟩]⟩,
   ⟨"CUP_TRIG_DISARMED", 0x401C, 0x4, 1, [⟨31, 0, .ro, 0, 0, 4294967295⟩]⟩,
   ⟨"CUP_OVERWRITTEN", 0x4020, 0x4, 1, [⟨31, 0, .ro, 0, 0, 4294967295⟩]⟩,
   ⟨"CUP_XTRIG_RX", 0x4024, 0x4, 1, [⟨31, 0, .ro, 0, 0, 4294967295⟩]⟩,
   ⟨"CUP_XTRIG_IGN", 0x4028, 0x4, 1, [⟨31, 0, .ro, 0, 0, 4294967295⟩]⟩,
   ⟨"CUP_FLASH_PEND", 0x402C, 0x4, 1, [⟨31, 0, .ro, 0, 0, 4294967295⟩]⟩]

/-- Registers of the CUP block. -/
def regsCup1 : List RegDesc :=
  [⟨"CUP_BAY_CTL", 0x4100, 0x4, 128, [⟨3, 2, .rws, 0, 0, 3⟩, ⟨0, 0, .w1s, 0, 0, 1⟩]⟩,
   ⟨"CUP_BAY_STAT", 0x4300, 0x4, 128, [⟨31, 31, .ro, 0, 0, 1⟩, ⟨30, 29, .ro, 0, 0, 3⟩, ⟨28, 28, .ro, 0, 0, 1⟩, ⟨27, 24, .ro, 0, 0, 15⟩, ⟨15, 0, .ro, 0, 0, 65535⟩]⟩]

/-- Registers of the BEL block. -/
def regsBel0 : List RegDesc :=
  [⟨"BEL_CTL", 0x4800, 0x4, 1, [⟨15, 11, .rws, 20, 0, 31⟩, ⟨2, 2, .rws, 0, 0, 1⟩, ⟨1, 1, .rws, 0, 0, 1⟩, ⟨0, 0, .rws, 0, 0, 1⟩]⟩,
   ⟨"BEL_STAT", 0x4804, 0x4, 1, [⟨29, 24, .ro, 0, 0, 63⟩, ⟨3, 3, .ro, 0, 0, 1⟩, ⟨2, 2, .ro, 0, 0, 1⟩, ⟨1, 1, .w1c, 0, 0, 1⟩, ⟨0, 0, .w1c, 0, 0, 1⟩]⟩,
   ⟨"BEL_PAIR_ID", 0x4808, 0x4, 1, [⟨31, 0, .rws, 0, 0, 4294967295⟩]⟩,
   ⟨"BEL_PAIR_MAC_LO", 0x480C, 0x4, 1, [⟨31, 0, .rws, 0, 0, 4294967295⟩]⟩,
   ⟨"BEL_PAIR_MAC_HI", 0x4810, 0x4, 1, [⟨15, 0, .rws, 0, 0, 65535⟩]⟩,
   ⟨"BEL_UNIT_MAC_LO", 0x4814, 0x4, 1, [⟨31, 0, .rws, 0, 0, 4294967295⟩]⟩,
   ⟨"BEL_UNIT_MAC_HI", 0x4818, 0x4, 1, [⟨15, 0, .rws, 0, 0, 65535⟩]⟩,
   ⟨"BEL_ETYPE", 0x481C, 0x4, 1, [⟨15, 0, .rws, 34997, 0, 65535⟩]⟩,
   ⟨"BEL_BF_CFG", 0x4820, 0x4, 1, [⟨29, 24, .rws, 15, 0, 15⟩, ⟨15, 15, .rws, 0, 0, 1⟩, ⟨14, 12, .rws, 7, 0, 7⟩, ⟨11, 0, .rws, 0, 0, 4094⟩]⟩,
   ⟨"BEL_BF_DMAC_LO", 0x4824, 0x4, 1, [⟨31, 0, .rws, 0, 0, 4294967295⟩]⟩,
   ⟨"BEL_BF_DMAC_HI", 0x4828, 0x4, 1, [⟨15, 0, .rws, 0, 0, 65535⟩]⟩,
   ⟨"BEL_BCN_CFG", 0x482C, 0x4, 1, [⟨29, 24, .rws, 15, 0, 15⟩, ⟨15, 15, .rws, 0, 0, 1⟩, ⟨14, 12, .rws, 7, 0, 7⟩, ⟨11, 0, .rws, 0, 0, 4094⟩]⟩]

/-- Registers of the BEL block. -/
def regsBel1 : List RegDesc :=
  [⟨"BEL_XT_CFG", 0x4830, 0x4, 1, [⟨29, 24, .rws, 63, 0, 63⟩, ⟨15, 15, .rws, 0, 0, 1⟩, ⟨14, 12, .rws, 6, 0, 7⟩, ⟨11, 0, .rws, 0, 0, 4094⟩]⟩,
   ⟨"BEL_EPOCH", 0x4834, 0x4, 1, [⟨15, 0, .ro, 0, 0, 65535⟩]⟩,
   ⟨"BEL_GASP_CFG", 0x4838, 0x4, 1, [⟨31, 31, .rws, 0, 0, 1⟩, ⟨7, 0, .rws, 0, 0, 255⟩]⟩,
   ⟨"BEL_SW_CFG", 0x483C, 0x4, 1, [⟨31, 16, .rws, 300, 10, 3600⟩, ⟨2, 2, .rws, 0, 0, 1⟩, ⟨1, 1, .rws, 1, 0, 1⟩, ⟨0, 0, .rws, 1, 0, 1⟩]⟩,
   ⟨"BEL_SW_PRIO", 0x4840, 0x4, 1, [⟨15, 0, .rws, 64080, 0, 65535⟩]⟩,
   ⟨"BEL_PAIR_MODE", 0x4844, 0x4, 1, [⟨3, 2, .rws, 0, 0, 2⟩, ⟨1, 0, .rws, 0, 0, 2⟩]⟩,
   ⟨"BEL_VLAN_IDX", 0x4848, 0x4, 1, [⟨5, 0, .rw, 0, 0, 63⟩]⟩,
   ⟨"BEL_VLAN_CFG", 0x484C, 0x4, 1, [⟨31, 31, .rws, 0, 0, 1⟩, ⟨30, 25, .rws, 0, 0, 63⟩, ⟨24, 18, .rws, 0, 0, 127⟩, ⟨11, 0, .rws, 0, 1, 4094⟩]⟩,
   ⟨"BEL_MC_IDX", 0x4850, 0x4, 1, [⟨7, 0, .rw, 0, 0, 255⟩]⟩,
   ⟨"BEL_MC_MAC_LO", 0x4854, 0x4, 1, [⟨31, 0, .rws, 0, 0, 4294967295⟩]⟩,
   ⟨"BEL_MC_MAC_HI", 0x4858, 0x4, 1, [⟨31, 31, .rws, 0, 0, 1⟩, ⟨27, 16, .rws, 0, 0, 4095⟩, ⟨15, 0, .rws, 0, 0, 65535⟩]⟩,
   ⟨"BEL_MC_PORTS", 0x485C, 0x4, 1, [⟨6, 0, .rws, 0, 0, 127⟩]⟩]

/-- Registers of the BEL block. -/
def regsBel2 : List RegDesc :=
  [⟨"BEL_GS_SEL", 0x4860, 0x4, 1, [⟨8, 0, .rw, 0, 0, 511⟩]⟩,
   ⟨"BEL_GS_STAT", 0x4864, 0x4, 1, [⟨31, 0, .ro, 0, 0, 4294967295⟩]⟩,
   ⟨"BEL_GS_ACCEPT", 0x4868, 0x4, 1, [⟨31, 0, .ro, 0, 0, 4294967295⟩]⟩,
   ⟨"BEL_GS_DUP", 0x486C, 0x4, 1, [⟨31, 0, .ro, 0, 0, 4294967295⟩]⟩,
   ⟨"BEL_GS_STALE", 0x4870, 0x4, 1, [⟨31, 0, .ro, 0, 0, 4294967295⟩]⟩,
   ⟨"BEL_GS_TAL", 0x4874, 0x4, 1, [⟨31, 0, .ro, 0, 0, 4294967295⟩]⟩,
   ⟨"BEL_GS_REJ", 0x4878, 0x4, 1, [⟨31, 0, .ro, 0, 0, 4294967295⟩]⟩,
   ⟨"BEL_GP_SEL", 0x487C, 0x4, 1, [⟨7, 0, .rw, 0, 0, 255⟩]⟩,
   ⟨"BEL_GP_STNUM", 0x4880, 0x4, 1, [⟨31, 0, .ro, 0, 0, 4294967295⟩]⟩,
   ⟨"BEL_GP_SQNUM", 0x4884, 0x4, 1, [⟨31, 0, .ro, 0, 0, 4294967295⟩]⟩,
   ⟨"BEL_BCN_RX", 0x4888, 0x4, 1, [⟨31, 0, .ro, 0, 0, 4294967295⟩]⟩,
   ⟨"BEL_RX_IGN", 0x488C, 0x4, 1, [⟨31, 0, .ro, 0, 0, 4294967295⟩]⟩]

/-- Registers of the BEL block. -/
def regsBel3 : List RegDesc :=
  [⟨"BEL_XT_TX", 0x4890, 0x4, 1, [⟨31, 0, .ro, 0, 0, 4294967295⟩]⟩,
   ⟨"BEL_GP_SENT", 0x4894, 0x4, 1, [⟨31, 0, .ro, 0, 0, 4294967295⟩]⟩,
   ⟨"BEL_P_CFG", 0x4900, 0x40, 6, [⟨31, 28, .rws, 0, 0, 15⟩, ⟨27, 27, .rws, 1, 0, 1⟩, ⟨26, 24, .rws, 0, 0, 7⟩, ⟨23, 12, .rws, 1, 1, 4094⟩]⟩,
   ⟨"BEL_P_STAT", 0x4904, 0x40, 6, [⟨31, 31, .ro, 0, 0, 1⟩, ⟨30, 28, .ro, 0, 0, 7⟩]⟩,
   ⟨"BEL_P_RX_OK", 0x4908, 0x40, 6, [⟨31, 0, .ro, 0, 0, 4294967295⟩]⟩,
   ⟨"BEL_P_RX_FCS", 0x490C, 0x40, 6, [⟨31, 0, .ro, 0, 0, 4294967295⟩]⟩,
   ⟨"BEL_P_RX_LEN", 0x4910, 0x40, 6, [⟨31, 0, .ro, 0, 0, 4294967295⟩]⟩,
   ⟨"BEL_P_RX_DROP", 0x4914, 0x40, 6, [⟨31, 0, .ro, 0, 0, 4294967295⟩]⟩,
   ⟨"BEL_P_TX_OK", 0x4918, 0x40, 6, [⟨31, 0, .ro, 0, 0, 4294967295⟩]⟩,
   ⟨"BEL_P_TX_DROP", 0x491C, 0x40, 6, [⟨31, 0, .ro, 0, 0, 4294967295⟩]⟩,
   ⟨"BEL_P_TX_STOMP", 0x4920, 0x40, 6, [⟨31, 0, .ro, 0, 0, 4294967295⟩]⟩,
   ⟨"BEL_GI_VAL", 0x4B80, 0x4, 8, [⟨31, 0, .ro, 0, 0, 4294967295⟩]⟩]

/-- Registers of the BEL block. -/
def regsBel4 : List RegDesc :=
  [⟨"BEL_GS_VALID", 0x4BA0, 0x4, 16, [⟨31, 0, .ro, 0, 0, 4294967295⟩]⟩]

/-- Registers of the MIR block. -/
def regsMir0 : List RegDesc :=
  [⟨"MIR_CTL", 0x5000, 0x4, 1, [⟨1, 1, .rws, 1, 0, 1⟩, ⟨0, 0, .rws, 1, 0, 1⟩]⟩,
   ⟨"MIR_STAT", 0x5004, 0x4, 1, [⟨31, 29, .ro, 0, 0, 7⟩, ⟨28, 28, .ro, 0, 0, 1⟩, ⟨27, 27, .ro, 0, 0, 1⟩, ⟨26, 26, .ro, 0, 0, 1⟩, ⟨25, 25, .ro, 0, 0, 1⟩, ⟨24, 24, .ro, 0, 0, 1⟩, ⟨23, 23, .ro, 0, 0, 1⟩, ⟨22, 22, .ro, 0, 0, 1⟩, ⟨21, 21, .ro, 0, 0, 1⟩, ⟨20, 20, .ro, 0, 0, 1⟩, ⟨19, 19, .ro, 0, 0, 1⟩, ⟨18, 18, .ro, 0, 0, 1⟩, ⟨17, 17, .w1c, 0, 0, 1⟩, ⟨7, 0, .ro, 0, 0, 255⟩]⟩,
   ⟨"MIR_CFG", 0x5008, 0x4, 1, [⟨31, 31, .rws, 1, 0, 1⟩, ⟨24, 17, .rws, 20, 5, 255⟩, ⟨16, 0, .rws, 120, 10, 86400⟩]⟩,
   ⟨"MIR_PARTNER", 0x500C, 0x4, 1, [⟨31, 29, .ro, 7, 0, 7⟩, ⟨28, 27, .ro, 3, 0, 3⟩, ⟨19, 0, .ro, 0, 0, 1048575⟩]⟩,
   ⟨"MIR_SNAP_LO", 0x5010, 0x4, 1, [⟨31, 0, .ro, 0, 0, 4294967295⟩]⟩,
   ⟨"MIR_SNAP_HI", 0x5014, 0x4, 1, [⟨31, 0, .ro, 0, 0, 4294967295⟩]⟩,
   ⟨"MIR_OFFSET", 0x5018, 0x4, 1, [⟨31, 0, .ro, 0, 0, 4294967295⟩]⟩,
   ⟨"MIR_HOLDOFF_LEFT", 0x501C, 0x4, 1, [⟨31, 0, .ro, 0, 0, 4294967295⟩]⟩,
   ⟨"MIR_LAT", 0x5020, 0x4, 1, [⟨31, 0, .ro, 0, 0, 4294967295⟩]⟩,
   ⟨"MIR_LANE_A_ERR", 0x5024, 0x4, 1, [⟨31, 0, .ro, 0, 0, 4294967295⟩]⟩,
   ⟨"MIR_LANE_B_ERR", 0x5028, 0x4, 1, [⟨31, 0, .ro, 0, 0, 4294967295⟩]⟩,
   ⟨"MIR_SNAP_DISCARD", 0x502C, 0x4, 1, [⟨31, 0, .ro, 0, 0, 4294967295⟩]⟩]

/-- Registers of the MIR block. -/
def regsMir1 : List RegDesc :=
  [⟨"MIR_BAY_RESYNC", 0x5030, 0x4, 1, [⟨31, 0, .ro, 0, 0, 4294967295⟩]⟩,
   ⟨"MIR_TAKEOVER_CNT", 0x5034, 0x4, 1, [⟨31, 0, .ro, 0, 0, 4294967295⟩]⟩,
   ⟨"MIR_ROLE_CNT", 0x5038, 0x4, 1, [⟨31, 0, .ro, 0, 0, 4294967295⟩]⟩,
   ⟨"MIR_FALLBACK_CNT", 0x503C, 0x4, 1, [⟨31, 0, .ro, 0, 0, 4294967295⟩]⟩,
   ⟨"MIR_SYNCED", 0x5040, 0x4, 4, [⟨31, 0, .ro, 0, 0, 4294967295⟩]⟩]

/-- Registers of the HIF block. -/
def regsHif0 : List RegDesc :=
  [⟨"HIF_CTL", 0x5800, 0x4, 1, [⟨1, 1, .w1s, 0, 0, 1⟩, ⟨0, 0, .rw, 0, 0, 1⟩]⟩,
   ⟨"HIF_STAT", 0x5804, 0x4, 1, [⟨31, 24, .ro, 0, 0, 255⟩, ⟨23, 15, .ro, 0, 0, 511⟩, ⟨3, 3, .w1c, 0, 0, 1⟩, ⟨2, 2, .w1c, 0, 0, 1⟩, ⟨1, 1, .w1c, 0, 0, 1⟩, ⟨0, 0, .w1c, 0, 0, 1⟩]⟩,
   ⟨"HIF_ADMIN_CFG", 0x5808, 0x4, 1, [⟨23, 16, .rw, 0, 0, 255⟩, ⟨11, 8, .rw, 4, 4, 14⟩, ⟨7, 4, .rw, 4, 4, 14⟩]⟩,
   ⟨"HIF_ADMIN_CMD_LO", 0x580C, 0x4, 1, [⟨31, 0, .rw, 0, 0, 4294967295⟩]⟩,
   ⟨"HIF_ADMIN_CMD_HI", 0x5810, 0x4, 1, [⟨31, 0, .rw, 0, 0, 4294967295⟩]⟩,
   ⟨"HIF_ADMIN_CPL_LO", 0x5814, 0x4, 1, [⟨31, 0, .rw, 0, 0, 4294967295⟩]⟩,
   ⟨"HIF_ADMIN_CPL_HI", 0x5818, 0x4, 1, [⟨31, 0, .rw, 0, 0, 4294967295⟩]⟩,
   ⟨"HIF_BAD_ACCESS", 0x581C, 0x4, 1, [⟨31, 0, .ro, 0, 0, 4294967295⟩]⟩,
   ⟨"HIF_BAD_DB", 0x5820, 0x4, 1, [⟨31, 0, .ro, 0, 0, 4294967295⟩]⟩,
   ⟨"HIF_EVT_UNROUTED", 0x5824, 0x4, 1, [⟨31, 0, .ro, 0, 0, 4294967295⟩]⟩,
   ⟨"HIF_EVT_DROP", 0x5828, 0x4, 1, [⟨31, 0, .ro, 0, 0, 4294967295⟩]⟩,
   ⟨"HIF_DMA_ERR", 0x582C, 0x4, 1, [⟨31, 0, .ro, 0, 0, 4294967295⟩]⟩]

/-- Registers of the HIF block. -/
def regsHif1 : List RegDesc :=
  [⟨"HIF_RING_SEL", 0x5830, 0x4, 1, [⟨6, 0, .rw, 0, 0, 127⟩]⟩,
   ⟨"HIF_RING_STAT", 0x5834, 0x4, 1, [⟨31, 29, .ro, 7, 0, 7⟩, ⟨28, 25, .ro, 0, 0, 15⟩, ⟨24, 24, .ro, 0, 0, 1⟩, ⟨23, 23, .ro, 0, 0, 1⟩, ⟨22, 15, .ro, 255, 0, 255⟩]⟩,
   ⟨"HIF_RING_IDX", 0x5838, 0x4, 1, [⟨31, 16, .ro, 0, 0, 65535⟩, ⟨15, 0, .ro, 0, 0, 65535⟩]⟩,
   ⟨"HIF_LOG_SEQ_LO", 0x583C, 0x4, 1, [⟨31, 0, .ro, 0, 0, 4294967295⟩]⟩,
   ⟨"HIF_LOG_SEQ_HI", 0x5840, 0x4, 1, [⟨31, 0, .ro, 0, 0, 4294967295⟩]⟩,
   ⟨"HIF_LOG_DROP", 0x5844, 0x4, 1, [⟨31, 0, .ro, 0, 0, 4294967295⟩]⟩]

/-- Registers of the SEC block. -/
def regsSec0 : List RegDesc :=
  [⟨"SEC_STAT", 0x6000, 0x4, 1, [⟨7, 7, .w1c, 0, 0, 1⟩, ⟨6, 6, .ro, 0, 0, 1⟩, ⟨5, 5, .ro, 0, 0, 1⟩, ⟨4, 4, .ro, 0, 0, 1⟩, ⟨3, 3, .ro, 0, 0, 1⟩, ⟨2, 2, .ro, 0, 0, 1⟩, ⟨1, 1, .ro, 0, 0, 1⟩, ⟨0, 0, .ro, 0, 0, 1⟩]⟩,
   ⟨"SEC_BOOT_STAT", 0x6004, 0x4, 1, [⟨31, 24, .ro, 0, 0, 255⟩, ⟨23, 20, .ro, 0, 0, 15⟩, ⟨19, 19, .ro, 0, 0, 1⟩, ⟨18, 18, .ro, 0, 0, 1⟩, ⟨17, 17, .ro, 0, 0, 1⟩]⟩,
   ⟨"SEC_KEY_STAT", 0x6008, 0x4, 1, [⟨31, 28, .ro, 0, 0, 15⟩, ⟨27, 24, .ro, 0, 0, 15⟩, ⟨23, 20, .ro, 0, 0, 15⟩, ⟨19, 16, .ro, 0, 0, 15⟩, ⟨15, 14, .ro, 0, 0, 3⟩, ⟨13, 12, .ro, 0, 0, 3⟩, ⟨11, 10, .ro, 0, 0, 3⟩]⟩,
   ⟨"SEC_ROLLBACK", 0x600C, 0x4, 1, [⟨15, 8, .ro, 0, 0, 255⟩, ⟨7, 0, .ro, 0, 0, 255⟩]⟩,
   ⟨"SEC_DBG_STAT", 0x6010, 0x4, 1, [⟨31, 31, .ro, 0, 0, 1⟩, ⟨30, 30, .ro, 0, 0, 1⟩, ⟨29, 29, .ro, 0, 0, 1⟩, ⟨28, 28, .ro, 0, 0, 1⟩]⟩,
   ⟨"SEC_DBG_EXP", 0x6014, 0x4, 1, [⟨31, 0, .ro, 0, 0, 4294967295⟩]⟩,
   ⟨"SEC_TOK_SERIAL_LO", 0x6018, 0x4, 1, [⟨31, 0, .ro, 0, 0, 4294967295⟩]⟩,
   ⟨"SEC_TOK_SERIAL_HI", 0x601C, 0x4, 1, [⟨31, 0, .ro, 0, 0, 4294967295⟩]⟩,
   ⟨"SEC_UID", 0x6020, 0x4, 4, [⟨31, 0, .ro, 0, 0, 4294967295⟩]⟩,
   ⟨"SEC_UNIT_ID", 0x6030, 0x4, 1, [⟨31, 31, .ro, 0, 0, 1⟩, ⟨19, 0, .ro, 0, 0, 1048575⟩]⟩,
   ⟨"SEC_OTP_PROG_CTL", 0x6034, 0x4, 1, [⟨1, 1, .ro, 0, 0, 1⟩, ⟨0, 0, .w1s, 0, 0, 1⟩]⟩,
   ⟨"SEC_OTP_PROG_ADDR", 0x6038, 0x4, 1, [⟨13, 0, .rw, 0, 0, 16383⟩]⟩]

/-- Registers of the SEC block. -/
def regsSec1 : List RegDesc :=
  [⟨"SEC_OTP_PROG_DATA", 0x603C, 0x4, 1, [⟨31, 0, .rw, 0, 0, 4294967295⟩]⟩,
   ⟨"SEC_AUTH_FAIL_CNT", 0x6040, 0x4, 1, [⟨31, 0, .ro, 0, 0, 4294967295⟩]⟩,
   ⟨"SEC_BOOT_TIME", 0x6044, 0x4, 1, [⟨31, 0, .ro, 0, 0, 4294967295⟩]⟩]

/-- Registers of the DPC block. -/
def regsDpc0 : List RegDesc :=
  [⟨"DPC_ADDR_LO", 0x6800, 0x4, 1, [⟨31, 0, .rw, 0, 0, 4294967295⟩]⟩,
   ⟨"DPC_ADDR_HI", 0x6804, 0x4, 1, [⟨7, 0, .rw, 0, 0, 255⟩]⟩,
   ⟨"DPC_STAT", 0x6808, 0x4, 1, [⟨2, 2, .w1c, 0, 0, 1⟩, ⟨1, 1, .w1c, 0, 0, 1⟩, ⟨0, 0, .w1c, 0, 0, 1⟩]⟩,
   ⟨"DPC_UNDERRUN_CNT", 0x680C, 0x4, 1, [⟨31, 0, .ro, 0, 0, 4294967295⟩]⟩,
   ⟨"DPC_WR_REJ_CNT", 0x6810, 0x4, 1, [⟨31, 0, .ro, 0, 0, 4294967295⟩]⟩]

/-- Registers of the MET block. -/
def regsMet0 : List RegDesc :=
  [⟨"MET_CTL", 0x7000, 0x4, 1, [⟨7, 5, .rws, 3, 0, 5⟩, ⟨4, 4, .rws, 1, 0, 1⟩, ⟨0, 0, .rws, 0, 0, 1⟩]⟩,
   ⟨"MET_STAT", 0x7004, 0x4, 1, [⟨31, 24, .ro, 0, 0, 255⟩, ⟨23, 16, .ro, 0, 0, 255⟩, ⟨1, 1, .w1c, 0, 0, 1⟩, ⟨0, 0, .w1c, 0, 0, 1⟩]⟩,
   ⟨"MET_JUDGE_CFG", 0x7008, 0x4, 1, [⟨23, 16, .rws, 10, 0, 100⟩, ⟨10, 0, .rws, 60, 1, 1440⟩]⟩,
   ⟨"MET_POST_CNT", 0x700C, 0x4, 1, [⟨31, 0, .ro, 0, 0, 4294967295⟩]⟩,
   ⟨"MET_AMEND_CNT", 0x7010, 0x4, 1, [⟨31, 0, .ro, 0, 0, 4294967295⟩]⟩,
   ⟨"MET_MISSING_CNT", 0x7014, 0x4, 1, [⟨31, 0, .ro, 0, 0, 4294967295⟩]⟩,
   ⟨"MET_NT_ALARM", 0x7020, 0x4, 4, [⟨31, 0, .ro, 0, 0, 4294967295⟩]⟩,
   ⟨"MET_BYPASS", 0x7030, 0x4, 4, [⟨31, 0, .ro, 0, 0, 4294967295⟩]⟩]

/-- Every register of the SETUP window (R579). -/
def regTable : List RegDesc :=
  regsDev0 ++ regsPwr0 ++ regsAlm0 ++ regsAlm1 ++ regsAlm2 ++ regsAfe0 ++ regsAfe1 ++ regsAfe2 ++ regsFlt0 ++ regsSvi0 ++ regsSvi1 ++ regsCfg0 ++ regsCfg1 ++ regsLks0 ++ regsLks1 ++ regsBay0 ++ regsCup0 ++ regsCup1 ++ regsBel0 ++ regsBel1 ++ regsBel2 ++ regsBel3 ++ regsBel4 ++ regsMir0 ++ regsMir1 ++ regsHif0 ++ regsHif1 ++ regsSec0 ++ regsSec1 ++ regsDpc0 ++ regsMet0

/-- Whether a run of registers holds the address. -/
def RegDesc.holds (d : RegDesc) (a : Nat) : Bool :=
  decide (d.base ≤ a) && decide ((a - d.base) % d.stride = 0) && decide ((a - d.base) / d.stride < d.count)

/-- The register at an address, if one is named there; every other address is reserved (R560). -/
def regAt (a : Nat) : Option RegDesc := regTable.find? (fun d => d.holds a)

/-- The reset word of a register: each field at its reset value (R565). -/
def RegDesc.resetWord (d : RegDesc) : Nat := d.flds.foldl (fun w f => w + f.rst * 2 ^ f.lo) 0

/-- The reset word at an address; a reserved address reads 0 (R561). -/
def resetWordAt (a : Nat) : Nat :=
  match regAt a with
  | some d => d.resetWord
  | none => 0

/-- The value of a field in a word. -/
def Fld.get (f : Fld) (w : Nat) : Nat := bitsOf w f.hi f.lo

/-- The word with a field set to a value. -/
def Fld.put (f : Fld) (w v : Nat) : Nat :=
  w - f.get w * 2 ^ f.lo + (v % 2 ^ (f.hi + 1 - f.lo)) * 2 ^ f.lo

/-- Whether a value lies in the range stated for a field. -/
def Fld.admits (f : Fld) (v : Nat) : Bool := decide (f.least ≤ v) && decide (v ≤ f.most)

end Sys2Proof.Machine
end

