-- ==== Sys2Proof/Machine/State.lean ====
section
/-! DEFINITION. The state of the part, the reasons it can stop, and the state right after entry to BOOT. -/

namespace Sys2Proof.Machine

/-- Faults. No meaning of this model answers with one: every happening of the spec has an effect. -/
inductive Fault
  /-- Raised by no meaning; the part's own failures (R28, R31, R544) are states, not stops. Safe. -/
  | none
deriving DecidableEq, Repr

/-- Refusals. -/
inductive Refusal
  /-- Raised by `exec` for a command that has no meaning yet. Safe: the machine stops. -/
  | notModelled (mnemonic : String)
deriving DecidableEq, Repr

/-- The whole state of the part and of what it works on. -/
structure State where
  dev : Dev
  pwr : Pwr
  alm : Alm
  hif : Hif
  sec : Sec
  otp : Otp
  flash : Flash
  afe : Afe
  flt : Flt
  svi : Svi
  scheme : Option Scheme
  bays : Tab Bay
  prep : Prep
  cfg : Cfg
  cup : Cup
  bel : Bel
  mir : Mir
  met : Met
  regs : Tab Word
  hostMem : Memory
  pending : List Instr
deriving DecidableEq, Repr

/-- The device on entry to BOOT (R25, R571). The ordering code is DX-7296-E1 (log entry 2). -/
def Dev.reset : Dev :=
  { part7264 := false, mode := .boot, prev := .boot, since := 0, bootErr := false, pend := none, dtoEn := false, dtoActive := false,
    dtoAt := none, bridgeCe := [], bridgeUe := [], ticks := 0, phase := 0, free := 0 }

/-- Power and health on entry to BOOT (R541, R558). -/
def Pwr.reset : Pwr :=
  { powerGood := true, resetLow := false, failLow := false, shutdown := false, dying := none, railFault := [], pllLost := none,
    d2dOk := true, temps := [], hottest := -1024, hotAt := 0, throttle := false, throttleAt := [],
    causes := 0, degraded := false, safeCause := 0, selftest := none }

/-- The nominal increment of R37, 1.25 ns, in units of 2^-48 ns. -/
def incNominal : Nat := 5 * 2 ^ 46

/-- The Almanac on entry to BOOT (R40, R77, R80). -/
def Alm.reset : Alm :=
  { sec := 0, ns := 0, frac := 0, inc := incNominal, lock := .freeRun, source := .internal, errClass := 0xFF, traceable := false,
    leapDir := false, leapPending := false, leapDay := 0, era := 0, preset := none, firstLock := false, stepRefused := false, oscFail := false,
    restepReady := false, usable := [], secKnown := false, selPort := 15, gm := none, foreign := [], pathDelay := [], run := [],
    lastOfs := 0, devEst := 0, holdE0 := 0, holdAt := 0, rateHist := [], dispAt := 0, holdUntil := 0, slewed := 0, slewing := false, incBase := incNominal, slewLeft := 0,
    cand := 0, candRef := 0, candSince := 0, restep := none, utcValid := false, srcPtp := false, ppsOut := none, ppsSec := 0, irigBad := 0,
    syncAt := 0, syncIvl := 0, syncLost := false, ppsLast := 0, irigLast := 0, irigWhole := false, irigTq := 0, ptpLeap := none, irigLeap := none, leapAt := none,
    slots := [], tc := [], ptpSeq := [], lockHist := [] }

/-- The log entry of R508 appended on entry to BOOT: sequence 0, kind 1, the unit ID in bytes 12 to 15, the ATT of R40. -/
def bootLogBytes (unitId : Nat) : List Byte :=
  leBytes 8 0 ++ [1, 0] ++ leBytes 2 0 ++ leBytes 4 unitId ++ leBytes 8 0 ++ leBytes 4 0 ++ leBytes 2 0 ++ leBytes 2 0xFFC0

/-- The host island on entry to BOOT (R515): no ring, nothing in flight, every vector masked (log entry 6), and the BOOT entry of the log. -/
def Hif.reset (unitId : Nat) (now : Ticks) : Hif :=
  let h := sha256 (List.replicate 32 0 ++ bootLogBytes unitId)
  { rings := [], inflight := [], nextCid := 0, waiting := [], lastServed := 127, doorbells := [], held := [], evtSeq := 0,
    hostResetDue := false, msixMasked := 2 ^ 128 - 1, msixPending := 0, msixSent := [], power := .d0, linkUp := true, perst := false,
    logSeq := 1, logHash := h, logHold := [bootLogBytes unitId ++ h.take 16 ++ List.replicate 16 0], logLost := 0, logCount := 1,
    logSince := some now, dportData := [], gone := 0, dpEvt := none, dram := [] }

/-- The security island on entry to BOOT (R517, R539). -/
def Sec.reset : Sec :=
  { stage := 0, cause := 0, halted := false, chainDone := false, dramDone := false, s1Slot := false, libSlot := false, schSlot := false,
    fallback := false, s1Key := 0, libKey := 0, schKey := 0, meas1 := List.replicate 32 0, meas2 := List.replicate 32 0,
    meas3 := List.replicate 32 0, libVer := 0, s1Pend := false, libPend := false, schPend := false, load := none, apply := none, failTimes := [],
    lockUntil := none, grant := none, grantSeen := false, challenge := none, otpBusy := none, bootTick := 0, firstEval := none }

/-- The OTP of a part as shipped, before an owner programs it (R525; contents not stated: log entry 3). -/
def Otp.reset : Otp :=
  { uid := 0, unitField := 0, vend := [], own := [], revoked := 0, vendFuses := 0, ownFuses := 0,
    trim := List.replicate 1536 0, idPriv := List.replicate 1536 0, idPub := List.replicate 384 0 }

/-- Flash that holds no image, no record copy and no dying block (R530; contents not stated: log entry 3). -/
def Flash.reset : Flash :=
  { bcbOk := true, s1Sel := false, libSel := false, schSel := false, s1A := none, s1B := none, libA := none, libB := none,
    schA := none, schB := none, cert := [], serial := 0, bank0 := .erased, bank1 := .erased, recs := [], recsOk := true }

/-- The analogue front end on entry to BOOT (R114, R119): no path runs. -/
def Afe.reset : Afe :=
  { chans := [], refFault := 0, sync := ⟨false, none, none, none, 0, false, 0, false, false⟩, minTag := 0, gridFrom := 0, pinDelay := 0, pendCh := none, pendIlv := none,
    chEn := 0, ilv := 0, running := false, stopAt := none, cfgAt := 0, started := false, snaps := [], snapRun := [],
    spare := ⟨.idle, 0, 0, 0, false, 0, none, []⟩, cal := none, taps := [], trks := [] }

/-- The unit ID in use (R525). -/
def Otp.unitId (o : Otp) : Nat :=
  if bitOf o.unitField 31 then bitsOf o.unitField 19 0 else bitsOf o.uid 19 0

/-- The machine right after entry to BOOT. -/
def State.reset : State :=
  { dev := Dev.reset, pwr := Pwr.reset, alm := Alm.reset, hif := Hif.reset 0 0, sec := Sec.reset, otp := Otp.reset, flash := Flash.reset, afe := Afe.reset, flt := ⟨[]⟩,
    svi := ⟨[], [], [], [], [], []⟩, scheme := none, bays := [], prep := ⟨[], []⟩, cfg := Cfg.reset,
    cup := Cup.reset, bel := Bel.reset, mir := Mir.reset, met := ⟨[]⟩,
    regs := [], hostMem := [], pending := [] }

end Sys2Proof.Machine
end

