-- ==== Sys2Proof/Machine/Ops.lean ====
section
/-! DEFINITION. The named operations over registers, time, events, rings, completions and the audit log, which every meaning is built from. -/

namespace Sys2Proof.Machine

/-! ### Registers -/

/-- The word a register holds: the stored word, or its reset word where none is stored (R565). -/
def regGet (s : State) (a : Nat) : Nat :=
  match tget? s.regs a with
  | some w => w.toNat
  | none => resetWordAt a

/-- A word stored in a register. -/
def regSet (s : State) (a v : Nat) : State := { s with regs := tset s.regs a (BitVec.ofNat 32 v) }

/-- Bits `hi` to `lo` of a register. -/
def fld (s : State) (a hi lo : Nat) : Nat := bitsOf (regGet s a) hi lo

/-- Bit `i` of a register. -/
def flag (s : State) (a i : Nat) : Bool := bitOf (regGet s a) i

/-- Bits `hi` to `lo` of a register set to a value. -/
def fldSet (s : State) (a hi lo v : Nat) : State :=
  regSet s a (Fld.put ⟨hi, lo, .ro, 0, 0, 0⟩ (regGet s a) v)

/-- Bit `i` of a register set. -/
def flagSet (s : State) (a i : Nat) (v : Bool) : State := fldSet s a i i (b2n v)

/-- A saturating 32-bit counter increased by one (R515). -/
def bump (s : State) (a : Nat) : State := regSet s a (capN (2 ^ 32 - 1) (regGet s a + 1))

/-- A saturating 32-bit counter increased by `n`. -/
def bumpBy (s : State) (a n : Nat) : State := regSet s a (capN (2 ^ 32 - 1) (regGet s a + n))

/-- A saturating counter in bits `hi` to `lo` of a register increased by one. -/
def bumpFld (s : State) (a hi lo : Nat) : State :=
  fldSet s a hi lo (capN (2 ^ (hi + 1 - lo) - 1) (fld s a hi lo + 1))

/-! ### Time -/

/-- One microsecond in units of 2^-16 ns. -/
def usI : Nat := 65536000
/-- One millisecond in units of 2^-16 ns. -/
def msI : Nat := 65536000000
/-- One second in units of 2^-16 ns. -/
def secI : Nat := 65536000000000
/-- One nanosecond in units of 2^-16 ns. -/
def nsI : Nat := 65536
/-- Ticks of the 800 MHz clock in one microsecond (R37). -/
def usT : Nat := 800
/-- Ticks of the 800 MHz clock in one millisecond. -/
def msT : Nat := 800000
/-- Ticks of the 800 MHz clock in one second. -/
def secT : Nat := 800000000

/-- The lock code of R12. -/
def Lock.code : Lock → Nat
  | .freeRun => 0 | .acquiring => 1 | .locked => 2 | .holdover => 3 | .disputed => 4

/-- The source code of R12. -/
def Source.code : Source → Nat
  | .ptp => 0 | .pps => 1 | .irig => 2 | .internal => 3

/-- The mode code of R25. -/
def Mode.code : Mode → Nat
  | .boot => 0 | .commission => 1 | .service => 2 | .vigil => 3 | .test => 4 | .safe => 5

/-- The mode of a code of R25. -/
def Mode.ofCode : Nat → Option Mode
  | 0 => some .boot | 1 => some .commission | 2 => some .service | 3 => some .vigil | 4 => some .test | 5 => some .safe
  | _ => none

/-- The ATT quality field now (R12). -/
def qualityNow (a : Alm) : Half :=
  BitVec.ofNat 16 (a.source.code * 2 ^ 14 + a.errClass * 2 ^ 6 + b2n a.traceable * 2 ^ 5 + b2n a.leapDir * 2 ^ 4
    + b2n a.leapPending * 2 ^ 3 + a.lock.code)

/-- The counter's time in units of 2^-16 ns, its fraction rounded half to even with carry (R38). -/
def Alm.inst (a : Alm) : Inst := (a.sec * 10 ^ 9 + a.ns) * 65536 + rdivN a.frac (2 ^ 32)

/-- The instant now. -/
def now (s : State) : Inst := s.alm.inst

/-- The instant of an event or a frame in quarter-nanoseconds: the counter with the phase of the five-phase interpolator within the tick, resolved to 0.25 ns (R38). -/
def eventQ (s : State) : Nat :=
  rdivN ((s.alm.sec * 10 ^ 9 + s.alm.ns) * 2 ^ 48 + s.alm.frac + s.dev.phase * s.alm.inc / 5) (2 ^ 46)

/-- The instant of an event or a frame (R38). -/
def eventInst (s : State) : Inst := eventQ s * 16384

/-- An instant as an ATT with a given quality (R11). -/
def attOf (i : Inst) (q : Half) : Att := ⟨i / secI, i / 65536 % 10 ^ 9, i % 65536, q⟩

/-- The instant of an ATT. -/
def Att.inst (a : Att) : Inst := (a.sec * 10 ^ 9 + a.ns) * 65536 + a.frac

/-- An instant as an ATT with the present quality. -/
def attAt (s : State) (i : Inst) : Att := attOf i (qualityNow s.alm)

/-- The ATT now (R38). -/
def attNow (s : State) : Att := attAt s (now s)

/-- The 16 bytes of an ATT (R11). -/
def Att.bytes (a : Att) : List Byte := leBytes 8 a.sec ++ leBytes 4 a.ns ++ leBytes 2 a.frac ++ leBytes 2 a.q.toNat

/-- Instant `k` of the grid at `rate` in second `sec`, rounded to 2^-16 ns with ties to even (R20, R42). -/
def gridInst (rate sec k : Nat) : Inst := sec * secI + rdivN (k * secI) rate

/-- The second and index of the first instant of the grid at `rate` that lies at or after `t`. -/
def gridAt (rate : Nat) (t : Inst) : Nat × Nat :=
  let sec := t / secI
  let k0 := (t % secI) * rate / secI
  let k := if t ≤ gridInst rate sec k0 then k0 else k0 + 1
  if k < rate then (sec, k) else (sec + 1, 0)

/-- The first instant of the grid at `rate` at or after `t` (R30). -/
def firstGrid (rate : Nat) (t : Inst) : Inst := gridInst rate (gridAt rate t).1 (gridAt rate t).2

/-- The effect instant on the 14,400 S/s grid: at least 100 µs from now (R30, R572). -/
def effectInst (s : State) : Inst := firstGrid 14400 (now s + 100 * usI)

/-- The conversion instant of edge `j` in quarter-nanoseconds within the second, ties to even (R42). -/
def convEdgeQ (j : Nat) : Nat := rdivN (j * 4 * 10 ^ 9) 2073600

/-- The Almanac counter advanced by one increment (R37). -/
def Alm.advance (a : Alm) : Alm :=
  let f := a.frac + a.inc
  let n := a.ns + f / 2 ^ 48
  { a with frac := f % 2 ^ 48, ns := n % 10 ^ 9, sec := a.sec + n / 10 ^ 9 }

/-- One tick of the 800 MHz clock (R37); no event falls due by itself (log entry 1). -/
def tick (s : State) : State :=
  { s with alm := s.alm.advance, dev := { s.dev with ticks := s.dev.ticks + 1, phase := 0 } }

/-- Whether at least `n` ticks have passed since tick `t`. -/
def elapsed (s : State) (t n : Ticks) : Bool := decide (t + n ≤ s.dev.ticks)

/-- Whether tokens are locked out (R532). -/
def tokenLocked (s : State) : Bool := match s.sec.lockUntil with | some t => decide (s.dev.ticks < t) | none => false

/-- The challenge that is current: one given at most 60 s ago and not used (R536). -/
def challengeNow (s : State) : Option Nat := match s.sec.challenge with | some (c, t) => if elapsed s t (60 * secT) then none else some c | none => none

/-- The free counter advanced: each use of a free value takes a fresh count. -/
def bumpFree (s : State) : State := { s with dev := { s.dev with free := s.dev.free + 1 } }

/-! ### The resources of the ordering code (R2, R3) -/

/-- Bays enabled. -/
def nBays (s : State) : Nat := if s.dev.part7264 then 64 else 128
/-- Clusters enabled. -/
def nClusters (s : State) : Nat := if s.dev.part7264 then 18 else 36
/-- Groups enabled. -/
def nGroups (s : State) : Nat := if s.dev.part7264 then 72 else 144
/-- Cells enabled. -/
def nCells (s : State) : Nat := if s.dev.part7264 then 216 else 432

/-! ### Rings and interrupts -/

/-- Whether the part may issue memory requests and MSI-X messages (R482). -/
def linkOk (s : State) : Bool := decide (s.hif.power = .d0) && s.hif.linkUp && !s.hif.perst

/-- The number of entries of a ring (R484). -/
def HostRing.size (r : HostRing) : Nat := 2 ^ r.n

/-- Whether a part-to-host ring has a slot that is neither written and unread nor reserved (R488, R491). -/
def HostRing.free (r : HostRing) : Bool := decide (r.used + r.reserved < r.size)

/-- The rings of `h` with ring `i` changed. -/
def modRing (s : State) (i : Nat) (f : HostRing → HostRing) : State :=
  match tget? s.hif.rings i with
  | some r => { s with hif := { s.hif with rings := tset s.hif.rings i (f r) } }
  | none => s

/-- A vector fires: the counts of every ring on it are reset; a masked vector sets its PBA bit instead of sending (R497). -/
def fireVector (s : State) (v : Nat) : State :=
  let rs := s.hif.rings.map (fun (i, r) => (i, if r.vec = v then { r with unsig := 0 } else r))
  let h := { s.hif with rings := rs }
  if bitOf h.msixMasked v || !linkOk s then
    { s with hif := { h with msixPending := if bitOf h.msixPending v then h.msixPending else h.msixPending + 2 ^ v } }
  else { s with hif := { h with msixSent := tmod 0 h.msixSent v (· + 1) } }

/-- A ring with a vector asks when its count or its time is reached (R497). -/
def HostRing.asks (r : HostRing) (ticks : Ticks) : Bool :=
  decide (r.vec < 128) && decide (0 < r.unsig) &&
    (decide (r.modCount ≤ r.unsig) || decide (r.since + r.modTime * usT ≤ ticks))

/-- The vector of a ring that asks fires. -/
def askVector (s : State) (i : Nat) : State :=
  match tget? s.hif.rings i with
  | some r => if r.asks s.dev.ticks then fireVector s r.vec else s
  | none => s

/-- Bytes of host memory written, while the link lets the part write (R482, R489). -/
def hostWrite (s : State) (a : Nat) (bs : List Byte) : State :=
  if linkOk s then { s with hostMem := memWriteBytes s.hostMem a bs } else s

/-- Bytes of host memory read. -/
def hostRead (s : State) (a n : Nat) : List Byte := memReadBytes s.hostMem a n

/-- One 64-byte entry written to a part-to-host ring with its phase bit in byte 63, bit 7 (R487, R488). -/
def ringPut (s : State) (i : Nat) (ent : List Byte) : State :=
  match tget? s.hif.rings i with
  | none => s
  | some r =>
    let bs := slice ent 0 63 ++ [if r.phase then 0x80 else 0x00]
    let nxt := (r.part + 1) % r.size
    let r' := { r with part := nxt, phase := if nxt = 0 then !r.phase else r.phase, used := r.used + 1,
                       unsig := r.unsig + 1, since := if r.unsig = 0 then s.dev.ticks else r.since }
    let s1 := { hostWrite s (r.base + 64 * r.part) bs with hif := { s.hif with rings := tset s.hif.rings i r' } }
    askVector s1 i

/-! ### Events -/

/-- The carried items packed into value A and then value B: each takes 1, 2, 4 or 8 bytes at the next free offset aligned to its width; one of 8 bytes goes in B, and one that no longer fits is left out (R502). `p` is the next offset in A (4 once the items have gone on to B) and `q` the next in B. -/
def packItems : List (Nat × Nat) → Nat → Nat → Nat → Nat → Nat × Nat
  | [], _, _, a, b => (a, b)
  | (w, v) :: t, p, q, a, b =>
    let i := (p + w - 1) / w * w
    let j := (q + w - 1) / w * w
    if w ≤ 4 ∧ i + w ≤ 4 then packItems t (i + w) q (a + (v % 256 ^ w) * 256 ^ i) b
    else if j + w ≤ 8 then packItems t (if w ≤ 4 then 4 else p) (j + w) a (b + (v % 256 ^ w) * 256 ^ j)
    else packItems t p q a b

/-- The event entry of R502, with the count of events dropped on the ring. -/
def Event.bytes (e : Event) (dropped : Nat) : List Byte :=
  leBytes 2 e.code ++ leBytes 2 e.bay ++ leBytes 4 e.seq ++ e.att.bytes ++ leBytes 2 e.index ++ leBytes 2 0 ++ leBytes 4 e.a
    ++ leBytes 8 e.b ++ e.att2.bytes ++ leBytes 4 dropped ++ leBytes 3 0

/-- Whether a ring takes an event: an EVT ring whose block mask holds the high byte of the code (R495, R501). -/
def HostRing.takes (r : HostRing) (e : Event) : Bool := decide (r.kind = .evt) && bitOf r.mask (e.code / 256)

/-- The numbers of the rings that take an event. -/
def takers (s : State) (e : Event) : List Nat :=
  (s.hif.rings.filter (fun p => p.2.takes e)).map Prod.fst

/-- An event written to one EVT ring, or dropped there and counted when no slot is free (R488). -/
def evtPut (s : State) (i : Nat) (e : Event) : State :=
  match tget? s.hif.rings i with
  | none => s
  | some r =>
    if r.free then
      let s1 := ringPut s i (e.bytes r.dropped)
      modRing s1 i (fun x => { x with dropped := 0 })
    else bump (modRing s i (fun x => { x with dropped := x.dropped + 1 })) R.hifEvtDrop

/-- An event held for the first EVT ring that takes it; past 256 the oldest is displaced and counted unrouted (R501). One whose ring was destroyed counts as unrouted (R496). -/
def evtHold (s : State) (e : Event) : State :=
  if bitOf s.hif.gone (e.code / 256) then bump s R.hifEvtUnrouted
  else if s.hif.held.length < 256 then { s with hif := { s.hif with held := s.hif.held ++ [e] } }
  else bump { s with hif := { s.hif with held := s.hif.held.drop 1 ++ [e] } } R.hifEvtUnrouted

/-- An event delivered to every EVT ring that takes it, or held while there is none or the link is away (R482, R501). -/
def deliver (s : State) (e : Event) : State :=
  if linkOk s && !(takers s e).isEmpty then (takers s e).foldl (fun st i => evtPut st i e) s else evtHold s e

/-- An event raised (R501, R502): `items` are the carried items with their widths, `att` the instant concerned, `att2` the second ATT. -/
def raise (code : Nat) (s : State) (bay : Nat := 0xFFFF) (idx : Nat := 0) (items : List (Nat × Nat) := [])
    (att : Option Att := none) (att2 : Att := Att.zero) : State :=
  let ab := packItems items 0 0 0 0
  let e : Event := ⟨code, bay, s.hif.evtSeq, att.getD (attAt s (eventInst s)), idx, ab.1, ab.2, att2⟩
  deliver { s with hif := { s.hif with evtSeq := (s.hif.evtSeq + 1) % 2 ^ 32 } } e

/-- The held events offered again, in order; those that find a ring are delivered and leave the hold (R501). -/
def redeliver (s : State) : State :=
  let es := s.hif.held
  es.foldl (fun st e => if linkOk st && !(takers st e).isEmpty then deliver st e else { st with hif := { st.hif with held := st.hif.held ++ [e] } })
    { s with hif := { s.hif with held := [] } }

/-! ### The audit log -/

/-- The LOG ring, if one is created. -/
def logRing (s : State) : Option Nat := (s.hif.rings.find? (fun p => decide (p.2.kind = .log))).map Prod.fst

/-- Held log entries moved to the LOG ring while it has room, at most `n` of them (R510). -/
def drainLog : Nat → State → State
  | 0, s => s
  | n + 1, s =>
    match logRing s, s.hif.logHold with
    | some i, e :: es =>
      if linkOk s && ((tget? s.hif.rings i).map HostRing.free).getD false then
        drainLog n (ringPut { s with hif := { s.hif with logHold := es } } i e)
      else s
    | _, _ => s

/-- One entry put into the hold and on to the ring. -/
def logPush (s : State) (e : List Byte) : State :=
  drainLog 1025 { s with hif := { s.hif with logHold := s.hif.logHold ++ [e], logSeq := s.hif.logSeq + 1 } }

/-- Bytes 0 to 31 of a log entry (R508). -/
def logHead (s : State) (kind b9 b10 b12 : Nat) : List Byte :=
  leBytes 8 s.hif.logSeq ++ leBytes 1 kind ++ leBytes 1 b9 ++ leBytes 2 b10 ++ leBytes 4 b12 ++ (attNow s).bytes

/-- An entry that finds no place in the hold: dropped and counted (R510). -/
def logDrop (s : State) : State := bump { s with hif := { s.hif with logLost := s.hif.logLost + 1 } } R.hifLogDrop

/-- A chained entry appended: H_n = SHA-256(H_(n-1) ‖ bytes 0 to 31); dropped and counted when the hold is full (R508, R510). -/
def logChained (s : State) (kind b9 b10 b12 : Nat) : State :=
  if 1024 ≤ s.hif.logHold.length then
    logDrop s
  else
    let head := logHead s kind b9 b10 b12
    let h := sha256 (s.hif.logHash ++ head)
    let s1 := { s with hif := { s.hif with logHash := h, logCount := s.hif.logCount + 1, logSince := s.hif.logSince.orElse (fun _ => some s.dev.ticks) } }
    logPush s1 (head ++ h.take 16 ++ List.replicate 16 0)

/-- The eight SIG entries that follow a CHECKPOINT (R509). -/
def logSigs (sig : List Byte) : List Nat → State → State
  | [], s => s
  | p :: ps, s => logSigs sig ps (logPush s (leBytes 8 s.hif.logSeq ++ leBytes 1 10 ++ leBytes 1 p ++ slice sig (53 * p) 53))

/-- A CHECKPOINT entry and its signature under the identity key (R509). DESIGN CHOICE (log entry 101): where the hold has no place for the nine entries, all are dropped and the CHECKPOINT counts as one dropped entry (R510); the next comes when its cause does. -/
def logCheckpoint (s : State) : State :=
  if 1015 < s.hif.logHold.length then logDrop { s with hif := { s.hif with logCount := 0, logSince := s.hif.logSince.map (fun _ => s.dev.ticks) } }
  else
  let seq := s.hif.logSeq
  let s1 := logChained s 9 0 0 0
  let sig := rsaSign s.otp.idPriv s.otp.idPub (s1.hif.logHash ++ leBytes 8 seq)
  logSigs (slice sig 0 384) (List.range 8) { s1 with hif := { s1.hif with logCount := 0, logSince := none } }

/-- A log entry, with the CHECKPOINT that follows a MODE entry or 256 chained entries (R508, R509). -/
def appendLog (s : State) (kind b9 b10 b12 : Nat) : State :=
  let s1 := logChained s kind b9 b10 b12
  if kind = 3 ∨ 256 ≤ s1.hif.logCount then logCheckpoint s1 else s1

/-- Room returns in the log: the ring is filled from the hold, and a GAP entry gives the count of dropped entries (R510). -/
def logRoom (s : State) : State :=
  let s1 := drainLog 1025 s
  if s1.hif.logLost = 0 ∨ 1024 ≤ s1.hif.logHold.length then s1
  else
    let n := s1.hif.logLost
    raise 0x0D04 (appendLog { s1 with hif := { s1.hif with logLost := 0 } } 8 0 0 n) (items := [(4, n)])

/-! ### Completions -/

/-- Status OK (R493). -/ abbrev stOk : Nat := 0x00
/-- Status LATE (R493). -/ abbrev stLate : Nat := 0x01
/-- Status BAD_OPCODE (R493). -/ abbrev stBadOpcode : Nat := 0x10
/-- Status BAD_PARAM (R493). -/ abbrev stBadParam : Nat := 0x11
/-- Status BAD_MODE (R493). -/ abbrev stBadMode : Nat := 0x12
/-- Status BUSY (R493). -/ abbrev stBusy : Nat := 0x13
/-- Status PAST (R493). -/ abbrev stPast : Nat := 0x14
/-- Status AUTH_FAIL (R493). -/ abbrev stAuthFail : Nat := 0x15
/-- Status NO_RESOURCE (R493). -/ abbrev stNoResource : Nat := 0x16
/-- Status SEALED (R493). -/ abbrev stSealed : Nat := 0x17
/-- Status ABORTED (R493). -/ abbrev stAborted : Nat := 0x18
/-- Status INTERNAL (R493). -/ abbrev stInternal : Nat := 0x1F

/-- The completion entry of R492. -/
def cplBytes (f : InFlight) (status : Nat) (res acc : Att) (fields : List Byte) : List Byte :=
  leBytes 1 f.op ++ leBytes 1 status ++ leBytes 2 f.tag ++ leBytes 1 f.ring ++ leBytes 1 0 ++ leBytes 2 f.idx ++ res.bytes ++ acc.bytes
    ++ slice fields 0 16 ++ leBytes 7 0

/-- Opcodes whose completion is not logged: NOP, IDENTIFY, BAY_STATE_READ, REC_FETCH, MET_READ, HIST_SNAPSHOT (R508). -/
def unlogged (op : Nat) : Bool := [0x01, 0x02, 0x43, 0x61, 0x81, 0x63].contains op

/-- A command's completion written to its ring, its reservation given back, and logged (R492, R508); discarded when the link is away (R482). -/
def writeCpl (s : State) (f : InFlight) (status : Nat) (res acc : Att) (fields : List Byte) : State :=
  let s1 := { s with hif := { s.hif with inflight := s.hif.inflight.filter (fun x => x.cid ≠ f.cid) } }
  let s2 := modRing s1 f.cpl (fun r => { r with reserved := r.reserved - 1 })
  let s3 := if linkOk s2 then ringPut s2 f.cpl (cplBytes f status res acc fields) else s2
  if unlogged f.op then s3 else appendLog s3 2 status f.op (f.ring * 65536 + f.idx)

/-- A deferred completion by its command number; nothing when it is no longer in flight. -/
def complete (s : State) (cid status : Nat) (res : Att) (fields : List Byte := []) : State :=
  match s.hif.inflight.find? (fun f => f.cid = cid) with
  | some f => writeCpl s f status res f.acc fields
  | none => s

/-- A SELFTEST ends: PWR_SELFTEST_STAT is loaded, SELFTEST_DONE raised, and the command completes with INTERNAL when a fault was found (R555). -/
def selfFinish (s : State) (faults : Nat) : State :=
  match s.pwr.selftest with
  | none => s
  | some t =>
    let n := t.faults + faults
    let st := if n = 0 then stOk else stInternal
    let s1 := regSet { s with pwr := { s.pwr with selftest := none } } R.pwrSelftestStat (t.kind * 2 ^ 24 + st * 2 ^ 16 + capN 65535 n)
    complete (raise 0x020A s1 (items := [(1, t.kind), (2, t.target), (2, capN 65535 n)])) t.cid st Att.zero

/-- What a command's owning rule answers: the state, and the completion to write now, or `none` where it is deferred. -/
structure CmdOut where
  s : State
  status : Option Nat
  res : Att
  fields : List Byte

/-- The owning rule refuses with a status; nothing else changes. -/
def CmdOut.rej (s : State) (status : Nat) : CmdOut := ⟨s, some status, Att.zero, []⟩
/-- The owning rule completes with OK now. -/
def CmdOut.ok (s : State) (res : Att := Att.zero) (fields : List Byte := []) : CmdOut := ⟨s, some stOk, res, fields⟩
/-- The owning rule defers its completion. -/
def CmdOut.later (s : State) : CmdOut := ⟨s, none, Att.zero, []⟩

/-- Whether every byte of the parameter area outside the listed fields is 0 (R490, R491 step 4). -/
def rsvdZero (e : CmdEntry) (used : List (Nat × Nat)) : Bool :=
  decide (e.rsvd = 0) && decide (e.flags / 2 = 0) &&
    (enumFrom0 e.params).all (fun (i, b) => decide (b = 0) || used.any (fun (o, n) => decide (o ≤ i) && decide (i < o + n)))

/-- The CPL ring a command completes on: the ring it names when that is a created CPL ring, else the default of its CMD ring (R491 step 1); and whether the named ring was right. -/
def cplRingOf (s : State) (e : CmdEntry) : Option (Nat × Bool) :=
  match tget? s.hif.rings e.ring with
  | some cr =>
    if cr.kind = .cmd then
      let want := if e.cpl = 0xFF then cr.dflt else e.cpl
      let isCpl (i : Nat) : Bool := decide ((tget? s.hif.rings i).map HostRing.kind = some .cpl)
      if isCpl want then some (want, true) else if isCpl cr.dflt then some (cr.dflt, false) else none
    else none
  | none => none

/-- Whether a command can be taken now: its completion ring exists and has a slot to reserve (R491 steps 1 and 2). -/
def cmdReady (s : State) (e : CmdEntry) : Bool :=
  match cplRingOf s e with
  | some (i, _) => ((tget? s.hif.rings i).map HostRing.free).getD false
  | none => false

/-- A slot of the completion ring reserved and the command counted in flight (R491 step 2). -/
def reserve (s : State) (op : Nat) (e : CmdEntry) (i : Nat) : State × InFlight :=
  let f : InFlight := ⟨s.hif.nextCid, e.ring, e.idx, op, e.tag, i, attNow s⟩
  let s1 := modRing s i (fun r => { r with reserved := r.reserved + 1 })
  ({ s1 with hif := { s1.hif with inflight := s1.hif.inflight ++ [f], nextCid := s1.hif.nextCid + 1 } }, f)

/-- A fetched command checked in the order of R491 and given to its owning rule. A command that finds no completion slot waits. The acceptance ATT is 0 for a command that is not accepted (R492). -/
def submit (op : Nat) (used : List (Nat × Nat)) (own : CmdEntry → Nat → State → CmdOut) (e : CmdEntry) (s : State) : State :=
  match cplRingOf s e with
  | none => s
  | some (i, named) =>
    if cmdReady s e then
      let (s1, f) := reserve s op e i
      if !named || !rsvdZero e used then writeCpl s1 f stBadParam Att.zero Att.zero []
      else
        let o := own e f.cid s1
        match o.status with
        | none => o.s
        | some st => writeCpl o.s f st o.res (if st = stOk then f.acc else Att.zero) o.fields
    else { s with hif := { s.hif with waiting := s.hif.waiting ++ [(op, e)] } }

/-- Whether the mode seals the RWS fields (R7, R26, R567). -/
def isSealed (s : State) : Bool := decide (s.dev.mode = .service) || decide (s.dev.mode = .vigil)

/-- A rule that answers a next state. -/
abbrev next (s : State) : Host.Outcome State Fault Refusal := .next s

/-- Whether the dying sequence runs: background work is gated off from its start (R544 step 1). -/
def isDying (s : State) : Bool := s.pwr.dying.isSome

/-! ### Degraded causes -/

/-- A degraded cause bit of HEALTH set or cleared, with DEGRADED_CAUSE on a change; in SERVICE and VIGIL a cause sets HEALTH.degraded (R34, R556). -/
def setCause (s : State) (bit : Nat) (v : Bool) : State :=
  if bitOf s.pwr.causes bit = v then s
  else
    let c := if v then s.pwr.causes + 2 ^ bit else s.pwr.causes - 2 ^ bit
    let s1 := raise 0x0204 { s with pwr := { s.pwr with causes := c } } (items := [(1, bit), (1, b2n v)])
    if v && !s1.pwr.degraded && (decide (s1.dev.mode = .service) || decide (s1.dev.mode = .vigil)) then
      raise 0x0203 { s1 with pwr := { s1.pwr with degraded := true } }
    else s1

/-- A write discarded as sealed: SEALED is raised and logged with its address (R504, R508, R567). -/
def sealedWrite (s : State) (addr : Nat) (inner : Bool) : State :=
  let s1 := if inner then raise 0x0D01 s (items := [(4, 0), (8, addr)]) else raise 0x0D01 s (items := [(4, addr)])
  appendLog s1 4 0 0 (addr % 2 ^ 32)

end Sys2Proof.Machine
end

