-- ==== Sys2Proof/Machine/AfeOps.lean ====
section
/-! DEFINITION. Operations of the analogue front end: sample quality, conversions, taps, snapshots, the spare, cycle trackers and cycle blocks (R82 to R114). -/

namespace Sys2Proof.Machine

/-! ### Sample quality (R14) -/

/-- VALID. -/ abbrev qVALID : Nat := 0x0001
/-- OVERRANGE. -/ abbrev qOVERRANGE : Nat := 0x0002
/-- RECOVERING. -/ abbrev qRECOVERING : Nat := 0x0004
/-- SUBST. -/ abbrev qSUBST : Nat := 0x0008
/-- SETTLING. -/ abbrev qSETTLING : Nat := 0x0010
/-- RESTARTED. -/ abbrev qRESTARTED : Nat := 0x0020
/-- INTERP. -/ abbrev qINTERP : Nat := 0x0040
/-- TEST. -/ abbrev qTEST : Nat := 0x0080
/-- TIME_HOLDOVER. -/ abbrev qTIMEHOLDOVER : Nat := 0x0100
/-- TIME_DISPUTE. -/ abbrev qTIMEDISPUTE : Nat := 0x0200
/-- UNSUPERVISED. -/ abbrev qUNSUPERVISED : Nat := 0x0400
/-- SOURCE_SV. -/ abbrev qSOURCESV : Nat := 0x0800
/-- SOURCE_LOCAL. -/ abbrev qSOURCELOCAL : Nat := 0x1000
/-- MIRRORED. -/ abbrev qMIRRORED : Nat := 0x2000
/-- STALE. -/ abbrev qSTALE : Nat := 0x4000

/-- Whether every bit of `m` is set in `q`. -/
def qHas (q m : Nat) : Bool := decide (Nat.land q m = m)

/-- The bits of `m` when `b` holds. -/
def qIf (b : Bool) (m : Nat) : Nat := if b then m else 0

/-- The bits `a` without those of `m`. -/
def qClear (a m : Nat) : Nat := a - Nat.land a m

/-- The lock state at an instant, from the changes recorded (R57). -/
def lockAt (a : Alm) (t : Inst) : Lock :=
  match a.lockHist.find? (fun p => decide (p.1 ≤ t)) with
  | some p => p.2
  | none => match a.lockHist.getLast? with
    | some p => p.2
    | none => a.lock

/-- TIME_HOLDOVER or TIME_DISPUTE, judged at the tag (R57). -/
def qTime (s : State) (tag : QInst) : Nat :=
  match lockAt s.alm (tag * 16384) with
  | .holdover => qTIMEHOLDOVER
  | .disputed => qTIMEDISPUTE
  | _ => 0

/-- TEST in COMMISSION and TEST (R104, R134). -/
def qMode (s : State) : Nat := qIf (decide (s.dev.mode = .commission) || decide (s.dev.mode = .test)) qTEST

/-- The sample word's 16 bytes (R13). -/
def SampleWord.bytes (w : SampleWord) : List Byte :=
  leBytes 4 (ofSigned 32 w.value) ++ leBytes 2 w.q.toNat ++ leBytes 2 w.ch ++ leBytes 4 (w.at_ / 4000000000) ++ leBytes 4 (w.at_ % 4000000000)

/-- One second in quarter-nanoseconds. -/
abbrev secQ : Nat := 4000000000

/-! ### Channels -/

/-- A channel with nothing converted. -/
def AfeCh.empty : AfeCh := ⟨0, [], none, [], [], none, none, none, none, 0, false, 0, none⟩

/-- The channel `n`. -/
def afeCh (s : State) (n : Nat) : AfeCh := tget AfeCh.empty s.afe.chans n

/-- The channel `n` changed. -/
def modCh (s : State) (n : Nat) (f : AfeCh → AfeCh) : State :=
  { s with afe := { s.afe with chans := tset s.afe.chans n (f (afeCh s n)) } }

/-- Every channel of the mask changed. -/
def modChs (s : State) (mask : Nat) (f : AfeCh → AfeCh) : State :=
  (setBits 32 mask).foldl (fun st n => modCh st n f) s

/-- Whether pair `k` is interleaved in effect (R95). -/
def pairIlv (s : State) (k : Nat) : Bool := bitOf s.afe.ilv k

/-- The channel ID of SAR `n`'s results: that of the even channel on an interleaved pair (R95). -/
def chId (s : State) (n : Nat) : Nat := if pairIlv s (n / 2) then n / 2 * 2 else n

/-- Whether channel `n` converts: enabled, or the odd SAR of an enabled interleaved pair (R84, R95). -/
def chConverts (s : State) (n : Nat) : Bool := s.afe.running && bitOf s.afe.chEn (chId s n)

/-- Whether AINn has a fast path that a snapshot may name: enabled, and not the odd channel of an interleaved pair (R92, R95). -/
def chHasPath (s : State) (n : Nat) : Bool := bitOf s.afe.chEn n && decide (chId s n = n)

/-- The last entry written to a channel's buffer. -/
def AfeCh.last? (c : AfeCh) : Option BufEntry := if c.cnt = 0 then none else tget? c.buf ((c.cnt - 1) % 4096)

/-- The result number `i` of a channel, while the buffer still holds it (R103). -/
def AfeCh.result? (c : AfeCh) (i : Nat) : Option BufEntry :=
  if i < c.cnt ∧ c.cnt ≤ i + 4096 then tget? c.buf (i % 4096) else none

/-- An entry written to the circular buffer (R103). -/
def AfeCh.put (c : AfeCh) (e : BufEntry) : AfeCh := { c with buf := tset c.buf (c.cnt % 4096) e, cnt := c.cnt + 1 }

/-- The instant of the actual hold of an entry. -/
def BufEntry.hold (e : BufEntry) : QInst := e.at_ + e.delay

/-- The 8 bytes of a buffer entry (R103). -/
def BufEntry.bytes (e : BufEntry) : List Byte :=
  leBytes 2 (ofSigned 16 e.code) ++ leBytes 2 (e.delay % 2048 * 32 + e.flags % 32) ++ leBytes 4 (e.at_ % secQ)

/-- Whether a hold instant lies within the channel's overrange episode (R101). -/
def AfeCh.inEpisode (c : AfeCh) (h : QInst) : Bool :=
  match c.ovrStart with
  | none => false
  | some a => decide (a ≤ h) && (match c.ovrEnd with | none => true | some b => decide (h ≤ b))

/-- The other channels of a channel's reference group (R10). -/
def groupMates (n : Nat) : List Nat := ((List.range 8).map (fun i => n / 8 * 8 + i)).filter (fun m => m ≠ n)

/-- RECOVERING on a result of SAR `n` held at `h`: it lies within an episode of another channel of the group (R102). The two phases of an interleaved pair are one channel (R95). -/
def recovering (s : State) (n : Nat) (h : QInst) : Bool :=
  (groupMates n).any (fun m => decide (chId s m ≠ chId s n) && (afeCh s m).inEpisode h)

/-- RECOVERING put on the entries of a channel whose hold is at or after `h`, for results written before the episode was known. -/
def AfeCh.markFrom (c : AfeCh) (h : QInst) : AfeCh :=
  { c with buf := c.buf.map (fun (i, e) => (i, if h ≤ e.hold ∧ e.flags / 2 % 2 = 0 then { e with flags := e.flags + 2 } else e)) }

/-! ### Taps (R104, R507) -/

/-- The SVT entry of R507. -/
def svtBytes (tap : Nat) (ws : List SampleWord) : List Byte :=
  leBytes 8 ((ws.head?.map (fun w => w.at_ / secQ)).getD 0)
    ++ slice (ws.map SampleWord.bytes).flatten 0 48 ++ leBytes 1 ws.length ++ leBytes 1 tap ++ leBytes 5 0

/-- The entry of a tap written to its SVT ring, or its words dropped and counted when the ring has no free entry (R104). -/
def tapFlush (s : State) (tap : Nat) : State :=
  let t := tget ⟨0, [], 0⟩ s.afe.taps tap
  let i := fld s (R.afeTapCfg tap) 6 0
  let s1 := { s with afe := { s.afe with taps := tset s.afe.taps tap { t with words := [] } } }
  if t.words.isEmpty then s1
  else match tget? s1.hif.rings i with
    | some r => if decide (r.kind = .svt) && r.free && linkOk s1 then ringPut s1 i (svtBytes tap t.words) else bumpBy s1 R.afeTapDrop t.words.length
    | none => bumpBy s1 R.afeTapDrop t.words.length

/-- A word put into a tap: the entry is written when the word falls in a new second, and when it holds three words (R507). -/
def tapPut (s : State) (tap : Nat) (w : SampleWord) : State :=
  let t := tget ⟨0, [], 0⟩ s.afe.taps tap
  let s1 := match t.words.head? with
    | some f => if f.at_ / secQ = w.at_ / secQ then s else tapFlush s tap
    | none => s
  let t1 := tget ⟨0, [], 0⟩ s1.afe.taps tap
  let t2 := { t1 with words := t1.words ++ [w], since := if t1.words.isEmpty then s1.dev.ticks else t1.since }
  let s2 := { s1 with afe := { s1.afe with taps := tset s1.afe.taps tap t2 } }
  if 3 ≤ t2.words.length then tapFlush s2 tap else s2

/-- The tapped word of a result: the raw code, not referred to its instant (R104). -/
def tapWord (s : State) (n : Nat) (e : BufEntry) : SampleWord :=
  let f := e.flags
  ⟨e.code, BitVec.ofNat 16 (qIf (!bitOf f 4) qVALID + qIf (bitOf f 0) qOVERRANGE + qIf (bitOf f 1) qRECOVERING + qIf (bitOf f 2) qRESTARTED
    + qIf (bitOf f 3) qINTERP + qSOURCELOCAL + qMode s + qTime s e.at_), n, e.at_⟩

/-- A result of a channel offered to the four taps: every decim-th result of the tapped channel is sent (R104). -/
def tapResult (s : State) (n : Nat) (e : BufEntry) : State :=
  (List.range 4).foldl (fun st tap =>
    if flag st (R.afeTapCfg tap) 31 && decide (fld st (R.afeTapCfg tap) 20 16 = n) then
      let t := tget ⟨0, [], 0⟩ st.afe.taps tap
      let c := t.count + 1
      let d := fld st (R.afeTapCfg tap) 15 8
      let st1 := { st with afe := { st.afe with taps := tset st.afe.taps tap { t with count := if d ≤ c then 0 else c } } }
      if d ≤ c then tapPut st1 tap (tapWord st1 n e) else st1
    else st) s

/-- The results of SAR `n` not yet offered to the taps are offered. A result is tapped when the next one exists, so that an overrange of the same edge has marked it (R102, R104; DEDUCED, log entry 103). -/
def tapUp (s : State) (n : Nat) : State :=
  let c := afeCh s n
  let s1 := (List.range (c.cnt - c.tapped)).foldl (fun st i =>
    match c.result? (c.tapped + i) with
    | some e => tapResult st (chId s n) e
    | none => st) s
  modCh s1 n (fun c => { c with tapped := c.cnt })

/-! ### The rotating spare (R97 to R100) -/

/-- The code of the spare's phase in AFE_SPARE_STAT. -/
def SparePhase.code : SparePhase → Nat
  | .idle => 0 | .shadow => 1 | .substitute => 2 | .handBack => 3 | .inPlace => 0 | .selfCal => 0

/-- The spare's state changed, and AFE_SPARE_STAT with it. -/
def setSpare (s : State) (f : Spare → Spare) : State :=
  let p := f s.afe.spare
  regSet { s with afe := { s.afe with spare := p } } R.afeSpareStat
    (b2n p.perm.isSome * 2 ^ 31 + p.phase.code * 2 ^ 29 + (p.perm.getD p.sar) % 32 * 2 ^ 24 + capN 0xFFFF p.steps)

/-- The spare substituted permanently for SAR `n`, with the reason: 0 self-calibration, 1 mismatch in hand back, 2 mismatch in shadow, 3 self-check (R99). -/
def substPerm (s : State) (n reason : Nat) : State :=
  let s1 := setSpare s (fun p => { p with perm := some n, phase := .idle, queued := [] })
  let s2 := flagSet (flagSet s1 R.afeStat 12 true) R.afeSarFail n true
  setCause (raise 0x0401 s2 (idx := n) (items := [(1, reason)])) 1 true

/-- Self-check failures of SAR `n` reach 16: the spare is substituted for it, or with no spare left the SAR is marked failed (R99). -/
def selfCheckFail (s : State) (n : Nat) : State :=
  match s.afe.spare.perm with
  | none => substPerm (modCh s n (fun c => { c with selfFail := 0 })) n 3
  | some m =>
    if (afeCh s n).failed then s
    else
      let _ := m
      raise 0x0402 (flagSet (modCh s n (fun c => { c with failed := true })) R.afeSarFail n true) (idx := n)

/-! ### Conversions (R84 to R103) -/

/-- The value on the straight line between two entries at an instant between them, rounded to nearest even (R87). -/
def lerpCode (a b : BufEntry) (t : QInst) : Int :=
  if b.at_ ≤ a.at_ then a.code else rdivI (a.code * ((b.at_ : Int) - t) + b.code * ((t : Int) - a.at_)) (b.at_ - a.at_)

/-- Whether a code is at full scale (R101). -/
def fullScale (code : Int) : Bool := decide (code = 32767) || decide (code = -32768)

/-- Whether results of channel `n` are written with VALID clear: its reference group is faulty, a foreground or reference calibration runs, its SAR has failed, or this conversion failed its self-check (R83, R99, R100). -/
def invalidNow (s : State) (n : Nat) (selfOk : Bool) : Bool :=
  !selfOk || bitOf s.afe.refFault (n / 8) || (afeCh s n).failed
    || (match s.afe.cal with | some c => (decide (c.kind = 1) && bitOf c.mask n) || decide (c.kind = 2) | none => false)

/-- The slots of ignored SAMPLE_SYNC edges filled, now that the next result exists (R83, R87, R101, R102). -/
def fillIgnored (s : State) (n : Nat) (e : BufEntry) : State :=
  let c := afeCh s n
  match c.last? with
  | none => modCh s n (fun c => { c with ignored := [] })
  | some p =>
    let due := c.ignored.filter (fun t => decide (p.at_ < t) && decide (t < e.at_))
    due.foldl (fun st t =>
      let v := lerpCode p e t
      modCh st n (fun c => c.put ⟨v, 0, b2n (fullScale v) + 2 * b2n (recovering st n t) + 8 + 16 * b2n (invalidNow st n true), t⟩))
      (modCh s n (fun c => { c with ignored := c.ignored.filter (fun t => decide (e.at_ ≤ t)) }))

/-- The overrange episode of channel `n` after a result held at `h` (R101, R102). -/
def episode (s : State) (n : Nat) (e : BufEntry) (ovr : Bool) : State :=
  let c := afeCh s n
  if ovr then
    let open_ := c.ovrStart.isSome && c.ovrEnd.isNone
    let tail := c.inEpisode e.hold
    let start := if open_ || tail then c.ovrStart else some e.hold
    let s1 := flagSet (modCh s n (fun c => { c with ovrStart := start, ovrEnd := none })) R.afeOvrStat n true
    let s2 := ((groupMates n).filter (fun m => chId s m ≠ n)).foldl (fun st m => modCh st m (fun x => x.markFrom (start.getD e.hold))) s1
    if open_ || tail then s2
    else if (match c.ovrEvt with | some t => !elapsed s2 t secT | none => false) then s2
    else raise 0x0406 (modCh s2 n (fun c => { c with ovrEvt := some s2.dev.ticks })) (idx := n) (att := some (attAt s2 (e.hold * 16384)))
  else if c.ovrStart.isSome && c.ovrEnd.isNone then modCh s n (fun c => { c with ovrEnd := some (e.hold + 8000) })
  else s

/-- The odd instant `j` of the grid at 4,147,200 edges per second (R42, R95). -/
def oddEdgeQ (j : Nat) : Nat := rdivN (j * 4 * 10 ^ 9) 4147200

/-- Whether an instant is a conversion-grid edge (R42, R84). -/
def isGridEdge (t : QInst) : Bool := let r := t % secQ; decide (r = convEdgeQ (rdivN (r * 2073600) secQ))

/-- Whether an instant is an odd instant of the grid at 4,147,200 edges per second (R95). -/
def isOddEdge (t : QInst) : Bool :=
  let r := t % secQ
  let j := rdivN (r * 4147200) secQ
  decide (j % 2 = 1) && decide (r = oddEdgeQ j)

/-- Whether SAR `n` held for the edge at `t`: the SAMPLE_SYNC edge held last or one held late, or a grid edge of its phase since the grid came into use, not before the last step, and later than the edges already converted (R84 to R89, R95). -/
def isEdge (s : State) (n : Nat) (t : QInst) : Bool :=
  let c := afeCh s n
  let held := decide (s.afe.sync.hold.map Prod.snd = some t) || c.displaced.any (fun p => decide (p.1 = t))
  let grid := !s.afe.sync.active && decide (s.afe.gridFrom ≤ t) && isGridEdge t
  (if chId s n = n then held || grid else isOddEdge t && decide (s.afe.gridFrom ≤ t))
    && decide (s.afe.minTag ≤ t) && (match c.lastAt with | some l => decide (l < t) | none => true)

/-- A fast-path result written to its circular buffer with its flags (R87, R89, R99 to R104). -/
def writeResult (s : State) (n : Nat) (at_ : QInst) (code : Int) (selfOk : Bool) : State :=
  let c := afeCh s n
  if (c.aborted.map Prod.fst) = some at_ then s
  else
    let delay := ((c.displaced.find? (fun p => p.1 = at_)).map Prod.snd).getD 0
    let code := satI 16 code
    let ovr := fullScale code
    let fails := if selfOk then 0 else c.selfFail + 1
    let e0 : BufEntry := ⟨code, delay, b2n ovr + 4 * b2n (decide (0 < delay)) + 16 * b2n (invalidNow s n selfOk), at_⟩
    let e : BufEntry := { e0 with flags := e0.flags + 2 * b2n (recovering s n e0.hold) }
    let s1 := tapUp (fillIgnored (modCh s n (fun c => { c with displaced := c.displaced.filter (fun p => p.1 ≠ at_), selfFail := fails, lastAt := some at_ })) n e) n
    let s2 := modCh s1 n (fun c => c.put e)
    let s3 := episode s2 (chId s n) e ovr
    if 16 ≤ fails then selfCheckFail s3 n else s3

/-! ### Cycle trackers (R105 to R113) -/

/-- A tracker that does not run. -/
def Tracker.empty : Tracker :=
  ⟨.off, none, 0, none, none, none, 0, 0, 0, 0, false, 0, none, false, none, none, none, none, 0, none, 0, 0, [], 0, 0⟩

/-- The tracker `t`. -/
def trk (s : State) (t : Nat) : Tracker := tget Tracker.empty s.afe.trks t

/-- The code of a tracker's state in AFE_TRK_STAT. -/
def TrkState.code : TrkState → Nat
  | .off => 0 | .tracking => 1 | .freeRun => 2 | .relocking => 3

/-- The tracker `t` changed, and its AFE_TRK_STAT with it. -/
def modTrk (s : State) (t : Nat) (f : Tracker → Tracker) : State :=
  let k := f (trk s t)
  regSet { s with afe := { s.afe with trks := tset s.afe.trks t k } } (R.afeTrkStat t) (k.st.code * 2 ^ 30 + capN (2 ^ 25 - 1) k.period)

/-- The zero between two IR samples in ns, linearly interpolated on their tags and rounded to 1 ns (R106). -/
def zeroNs (v0 : Int) (t0 : QInst) (v1 : Int) (t1 : QInst) : Nat :=
  if v1 = v0 then t1 / 4
  else
    let den := (v1 - v0).natAbs
    let sg : Int := if v0 < v1 then 1 else -1
    (rdivI ((t0 : Int) * den + sg * (0 - v0) * ((t1 : Int) - t0)) (4 * den)).toNat

/-- An IR sample of a tracker's reference: crossings of zero are interpolated, and one counts once the signal has passed from beyond one threshold to beyond the other, h = ref_min / 4 (R106, R108). -/
def Tracker.see (k : Tracker) (refMin : Nat) (v : Int) (tag : QInst) : Tracker :=
  let h : Int := (refMin * 8192 / 4 : Nat)
  let up := match k.ir with | some (v0, t0) => if v0 < 0 ∧ 0 ≤ v then some (zeroNs v0 t0 v tag) else k.upAt | none => none
  let dn := match k.ir with | some (v0, t0) => if 0 < v0 ∧ v ≤ 0 then some (zeroNs v0 t0 v tag) else k.downAt | none => none
  let k1 := { k with ir := some (v, tag), upAt := up, downAt := dn, peak := if k.peak < v.natAbs then v.natAbs else k.peak }
  if h < v then { k1 with armed := false, pos := if k.armed then up else k.pos }
  else if v < -h then { k1 with armed := true, neg := if k.armed then k.neg else dn }
  else k1

/-- An IR sample of channel `n` offered to every enabled tracker whose reference it is (R106). -/
def trkSample (s : State) (n : Nat) (v : Int) (tag : QInst) : State :=
  (List.range 8).foldl (fun st t =>
    if flag st (R.afeTrkCfg t) 31 && decide (fld st (R.afeTrkCfg t) 24 20 = n) then
      { st with afe := { st.afe with trks := tset st.afe.trks t ((trk st t).see (fld st (R.afeTrkCfg t) 7 0) v tag) } }
    else st) s

/-- The tracker of a metering channel (R106). -/
def trkOf (s : State) (n : Nat) : Nat := fld s (R.afeMetTrk (n / 8)) (4 * (n % 8) + 2) (4 * (n % 8))

/-- Whether the modulator of channel `n` runs (R105). -/
def metRuns (s : State) (n : Nat) : Bool := flag s R.afeCtl 1 && flag s R.afeMetEn n

/-- The weights, in units of 2^-10, of `n` interior samples from sample `m0` of second `sec`, over the span from `a` to `b` in ns: 1,024 but for the fractions of the samples that span a boundary, rounded to nearest even (R107). -/
def weights (sec m0 n a b : Nat) : List Nat :=
  (List.range n).map (fun i =>
    let p0 : Int := ((m0 + i : Nat) : Int) * 10 ^ 9
    let p1 : Int := p0 + 10 ^ 9
    let lo : Int := ((a : Int) - (sec : Int) * 10 ^ 9) * 1296000
    let hi : Int := ((b : Int) - (sec : Int) * 10 ^ 9) * 1296000
    let x0 := if lo < p0 then p0 else lo
    let x1 := if p1 < hi then p1 else hi
    if x1 ≤ x0 then 0 else rdivN ((x1 - x0).toNat * 1024) (10 ^ 9))

/-- The weighted sum of the products of two sample lists (R107, R111). -/
def wsum (ws : List Nat) (xs ys : List Int) : Int :=
  sumI (ws.zipWith (fun (w : Nat) (p : Int) => (w : Int) * p) (xs.zipWith (· * ·) ys))

/-- A channel's entry from its readout (R105, R107, R110). -/
def cycleChan (ws : List Nat) (flags : Nat) (r : MetChan) : CycleChan :=
  ⟨r.ch, r.sx, (wsum ws r.samples r.samples).toNat, ws.foldl (· + ·) 0, flags⟩

/-- The flags of channel `n` in a block: SATURATED, REF_FAULT and those of the block (R83, R110, R113). -/
def chanFlags (base refSeen : Nat) (r : MetChan) : Nat := base + b2n r.sat + 16 * b2n (bitOf refSeen (r.ch / 8))

/-- A cycle block over the span from `a` to `b` (R107, R110, R111, R113); `base` holds FREE_RUN and TIME_STEP. -/
def cycleBlock (s : State) (t : Nat) (base seq a b : Nat) (m : MetCycle) : CycleBlock :=
  let k := trk s t
  let reads := m.chans.filter (fun r => metRuns s r.ch && decide (trkOf s r.ch = t))
  let refs := Nat.lor k.refSeen s.afe.refFault
  let n := m.chans.foldl (fun x r => if x < r.samples.length then r.samples.length else x) 0
  let ws := if bitOf base 3 then List.replicate n 1024 else weights m.sec m.first n a b
  let chans := ((List.range 32).filterMap (fun c => reads.find? (fun r => r.ch = c))).map (fun r => cycleChan ws (chanFlags base refs r) r)
  let pairs := (List.range 16).filterMap (fun p =>
    if flag s (R.afePairCfg p) 31 then
      match reads.find? (fun r => r.ch = fld s (R.afePairCfg p) 9 5), reads.find? (fun r => r.ch = fld s (R.afePairCfg p) 4 0) with
      | some v, some i => some ⟨p, wsum ws v.samples i.samples, Nat.lor (chanFlags base refs v) (chanFlags base refs i)⟩
      | _, _ => none
    else none)
  let flags := chans.foldl (fun f c => Nat.lor f c.flags) base
  ⟨t, flags, seq, a, if bitOf base 3 then 0 else b - a, chans, pairs⟩

/-- One interpolated sum of a gap block (R108). -/
def gapSum (g : Nat) (p n : CycleBlock) (sp sn : Int) : Int :=
  if p.durNs = 0 ∨ n.durNs = 0 then 0
  else rdivI ((g : Int) * (sp * n.durNs + sn * p.durNs)) (2 * p.durNs * n.durNs)

/-- The gap block from `a` to `b`, interpolated between the complete cycles before and after it (R108); `refs` and `sat` are the REF_FAULT groups and the saturated channels of the span (R83, R110), and `mate` gives the two channels of a pair. -/
def gapBlock (t seq a b : Nat) (p n : CycleBlock) (refs sat : Nat) (mate : Nat → Nat × Nat) : CycleBlock :=
  let g := b - a
  let fl (ch : Nat) : Nat := 2 + b2n (bitOf sat ch) + 16 * b2n (bitOf refs (ch / 8))
  let chans := n.chans.map (fun c =>
    let x := (p.chans.find? (fun x => x.ch = c.ch)).getD c
    let p := if p.chans.any (fun x => x.ch = c.ch) then p else n
    (⟨c.ch, gapSum g p n x.sx c.sx, (gapSum g p n x.sxx c.sxx).toNat, (gapSum g p n x.n c.n).toNat, fl c.ch⟩ : CycleChan))
  let pairs := n.pairs.map (fun q =>
    let x := (p.pairs.find? (fun x => x.pair = q.pair)).getD q
    let p := if p.pairs.any (fun x => x.pair = q.pair) then p else n
    (⟨q.pair, gapSum g p n x.svi q.svi, Nat.lor (fl (mate q.pair).1) (fl (mate q.pair).2)⟩ : CyclePair))
  { trk := t, flags := chans.foldl (fun f c => Nat.lor f c.flags) 2, seq := seq, startNs := a, durNs := g, chans := chans, pairs := pairs }

/-- A block written to the tracker's ring of 64 slots, with AFE_MET_SAT for saturated channels (R110, R113). -/
def putBlock (s : State) (t : Nat) (b : CycleBlock) : State :=
  let s1 := modTrk s t (fun k => { k with ring := tset k.ring (k.wr % 64) b, wr := k.wr + 1, seq := (k.seq + 1) % 2 ^ 32 })
  (b.chans.filter (fun c => bitOf c.flags 0)).foldl (fun st c => flagSet st R.afeMetSat c.ch true) s1

/-- The bytes of a cycle block (R113). -/
def CycleBlock.bytes (b : CycleBlock) : List Byte :=
  leBytes 2 b.trk ++ leBytes 2 b.flags ++ leBytes 4 b.seq ++ leBytes 8 (b.startNs / 10 ^ 9) ++ leBytes 4 (b.startNs % 10 ^ 9)
    ++ leBytes 2 b.chans.length ++ leBytes 2 b.pairs.length ++ leBytes 4 b.durNs ++ leBytes 4 0
    ++ (b.chans.map (fun c => leBytes 8 (ofSigned 64 c.sx) ++ leBytes 8 c.sxx ++ leBytes 4 c.n ++ leBytes 2 c.ch ++ leBytes 2 c.flags)).flatten
    ++ (b.pairs.map (fun p => leBytes 8 (ofSigned 64 p.svi) ++ leBytes 2 p.pair ++ leBytes 2 p.flags ++ leBytes 4 0)).flatten

/-- Whether a period in ns lies between 1/70 s and 1/40 s (R106). -/
def periodValid (d : Nat) : Bool := decide (10 ^ 9 ≤ d * 70) && decide (d * 40 ≤ 10 ^ 9)

/-- One period of the nominal frequency in ns, rounded (R109). -/
def nominalNs (s : State) (t : Nat) : Nat := if flag s (R.afeTrkCfg t) 30 then rdivN (10 ^ 9) 60 else 20000000

end Sys2Proof.Machine
end

