-- ==== Sys2Proof/Machine/FltOps.lean ====
section
/-! DEFINITION. Operations of the filter and decimation chain: correction, stages, tags, quality, bank fades and the synchronising reset (R121 to R145). -/

namespace Sys2Proof.Machine

/-- An output of the chain: stage 0 is the merged interleaved stream (R129), 1 is IR, 3 is PR, 4 is 4,800 S/s. -/
structure FltOut where
  stage : Nat
  v : Int
  q : Nat
  tag : QInst
deriving DecidableEq, Repr

/-- A chain before its first sample: bank A of each stage is active (R136), and the coefficient memory holds zeros until an image loads it (log entry 7). -/
def FltCh.empty : FltCh :=
  ⟨0, 0, 0, [], [0, 0, 0, 0], [0, 0, 0, 0], [], [], [], ⟨0, 0, true⟩, 0, false, ⟨false, none, none⟩, ⟨false, none, none⟩,
   List.replicate 64 0, List.replicate 64 0, List.replicate 37 0, List.replicate 37 0, none, false, 0, 0, ⟨0, 0, true⟩, 0⟩

/-- The chain of channel `n`. -/
def fltCh (s : State) (n : Nat) : FltCh := tget FltCh.empty s.flt.chans n

/-- The bits of FLT_STATn that follow the chain's state: subst_run, settling, the pending, fading and active bits (R145). -/
def fltStatBits (c : FltCh) : Nat :=
  let run (b : BankState) : Bool := match b.fade with | some f => decide (0 < f.i) | none => false
  b2n (decide (17 ≤ c.invalidRun)) * 2 ^ 12 + b2n c.settling * 2 ^ 11 + b2n c.b4.deferred.isSome * 2 ^ 10 + b2n c.b3.deferred.isSome * 2 ^ 9
    + b2n (run c.b4) * 2 ^ 8 + b2n (run c.b3) * 2 ^ 7 + b2n c.b4.actB * 2 ^ 6 + b2n c.b3.actB * 2 ^ 5

/-- The chain of channel `n` replaced, and FLT_STATn with it. -/
def setFlt (s : State) (n : Nat) (c : FltCh) : State :=
  let w := regGet s (R.fltStat n)
  regSet { s with flt := { s.flt with chans := tset s.flt.chans n c } } (R.fltStat n) (bitsOf w 31 13 * 2 ^ 13 + fltStatBits c + bitsOf w 4 0)

/-- A fade cleared by making its target bank active at once; a deferred swap stays (R140). -/
def BankState.settle (b : BankState) : BankState :=
  match b.fade with
  | some f => { b with actB := f.toB, fade := none }
  | none => b

/-- The synchronising reset of a chain (R140). -/
def FltCh.reset (c : FltCh) : FltCh :=
  { c with since := 0, w1 := [], integ := [0, 0, 0, 0], comb := [0, 0, 0, 0], w2 := [], w3 := [], w4 := [], resetDue := false,
           b3 := c.b3.settle, b4 := c.b4.settle }

/-- A synchronising reset ordered for the channels of a mask, with its cause: 0 sync_reset, 1 Almanac step, 2 edge source, 3 enable or interleave change, 4 restart. It applies at the next S0 input of each (R140). -/
def syncReset (s : State) (mask cause : Nat) : State :=
  let s1 := (setBits 32 mask).foldl (fun st n => bump (setFlt st n { fltCh st n with resetDue := true }) (R.fltResetCnt n)) s
  raise 0x0501 s1 (items := [(4, mask), (1, cause)])

/-- A saturated output counted, flagged and raised at most once per channel per second (R124). -/
def satNote (s : State) (n stage : Nat) : State :=
  let s1 := flagSet (bump s (R.fltSatCnt n)) (R.fltStat n) 13 true
  let c := fltCh s1 n
  if (match c.satEvt with | some t => !elapsed s1 t secT | none => false) then s1
  else raise 0x0504 (setFlt s1 n { c with satEvt := some s1.dev.ticks }) (idx := n) (items := [(1, stage)])

/-! ### S0 (R125 to R129) -/

/-- The gain term of FLT_GAINn. -/
def s0Gain (s : State) (n : Nat) : Nat := regGet s (R.fltGain n)
/-- The offset term of FLT_OFSn, in 24-bit LSB. -/
def s0Ofs (s : State) (n : Nat) : Int := toSigned 16 (regGet s (R.fltOfs n))
/-- The skew term of FLT_SKEWn, in 2^-8 ns. -/
def s0Skew (s : State) (n : Nat) : Int := toSigned 16 (regGet s (R.fltSkew n))

/-- R125 on a value in the 24-bit scale, before saturation. -/
def s0Correct (gain : Nat) (ofs v : Int) : Int := rdivI ((v - ofs) * gain) (2 ^ 30)

/-- Whether a neighbour can serve the referral of R127: VALID set and not OVERRANGE. -/
def BufEntry.usable (e : BufEntry) : Bool := !bitOf e.flags 4 && !bitOf e.flags 0

/-- The value held, in the 24-bit scale, referred back over `d` by the slope (x1 - x0) / (h1 - h0) (R127). -/
def referBack (xh : Int) (d : Int) (x0 x1 : Int) (h0 h1 : Int) : Int :=
  if h1 ≤ h0 then xh * 256 else rdivI ((xh * (h1 - h0) - d * (x1 - x0)) * 256) (h1 - h0).toNat

/-- S0's value for a result, in the 24-bit scale and before R125: a RESTARTED result is referred to its instant with the neighbours that are usable (R127). -/
def s0Value (prev : Option BufEntry) (e : BufEntry) (next : BufEntry) : Int :=
  if bitOf e.flags 2 then
    let d : Int := e.delay
    let p := prev.filter BufEntry.usable
    match p, next.usable with
    | some p, true => referBack e.code d p.code next.code p.hold next.hold
    | some p, false => referBack e.code d p.code e.code p.hold e.hold
    | none, true => referBack e.code d e.code next.code e.hold next.hold
    | none, false => e.code * 256
  else e.code * 256

/-- The quality bits an S0 output takes from its buffer entry (R134). -/
def entryBits (f : Nat) : Nat :=
  qIf (bitOf f 0) qOVERRANGE + qIf (bitOf f 1) qRECOVERING + qIf (bitOf f 2) qRESTARTED + qIf (bitOf f 3) qINTERP

/-! ### Stages (R130, R131, R136) -/

/-- The 23 taps of S1 (R130). -/
def s1Taps : List Int :=
  [-3649, 0, 20762, 0, -66689, 0, 160222, 0, -369518, 0, 1307448, 2097152, 1307448, 0, -369518, 0, 160222, 0, -66689, 0, 20762, 0, -3649]

/-- The accumulator of a FIR stage over its window; inputs before the window's first are 0. -/
def firAcc (taps : List Int) (w : List FVal) : Int := sumI (taps.zipWith (fun c x => c * x.v) w)

/-- The window with a new input, at most `n` long. -/
def push (n : Nat) (w : List FVal) (x : FVal) : List FVal := (x :: w).take n

/-- The quality an output takes from its stage's window (R134, R135). -/
def winBits (w : List FVal) : Nat := w.foldl (fun a x => Nat.lor a x.bits) 0

/-- A value saturated to its width, and whether it saturates (R124). -/
def satTo (width : Nat) (y : Int) : Int × Bool := (satI width y, decide (satI width y ≠ y))

/-- An output over its stage's window: OVERRANGE is added when it saturates (R124, R134, R135). -/
def stageVal (z : Int) (ovr : Bool) (w : List FVal) : FVal := ⟨z, Nat.lor (winBits w) (qIf ovr qOVERRANGE), w.all (·.valid)⟩

/-- 36-bit two's-complement wrapping (R131). -/
def wrap36 (i : Int) : Int := toSigned 36 (ofSigned 36 i)

/-- The integrators of S2 over one input (R131). -/
def cicIn (integ : List Int) (x : Int) : List Int :=
  match integ with
  | [] => []
  | a :: t => let y := wrap36 (a + x); y :: cicIn t y

/-- The combs of S2 over one decimated value: the output and the new delays (R131). -/
def cicOut (comb : List Int) (x : Int) : Int × List Int :=
  match comb with
  | [] => (x, [])
  | p :: t => let r := cicOut t (wrap36 (x - p)); (r.1, x :: r.2)

/-- A fade begins with its first output: its length is taken then (R139). -/
def Fade.begin (f : Fade) (len : Nat) : Fade := if f.i = 0 then { f with len := len } else f

/-- What one output of S3 or S4 makes: the value, whether it saturated, the new bank state, and the bank that the last fade output made active, if any. -/
structure BankOut where
  y : Int
  ovr : Bool
  b : BankState
  done : Option Bool

/-- A deferred swap that no fade stands before starts with the next output, or is dropped when its bank is active (R139, R140). -/
def BankState.resume (b : BankState) : BankState :=
  match b.fade, b.deferred with
  | none, some d => { b with fade := if d = b.actB then none else some ⟨d, 0, 0, 0⟩, deferred := none }
  | _, _ => b

/-- One output of S3 or S4 under its bank state (R124, R136, R138, R139). A fade begins with the first output tagged at or after T_s; an output of a fade is saturated where a bank's output that it takes in is. -/
def bankOut (b0 : BankState) (cA cB : List Int) (w : List FVal) (len : Nat) (tag : QInst) : BankOut :=
  let b := b0.resume
  let one (isB : Bool) : Int × Bool := satTo 32 (rdivI (firAcc (if isB then cB else cA) w) (2 ^ 30))
  let plain : BankOut := ⟨(one b.actB).1, (one b.actB).2, b, none⟩
  match b.fade with
  | none => plain
  | some f0 =>
    if f0.i = 0 ∧ tag < f0.start then plain
    else
      let f := f0.begin len
      let i := f.i + 1
      let wt : Int := rdivN (i * 2 ^ 16) f.len
      let old := one b.actB
      let new := one f.toB
      let y := old.1 + rdivI ((new.1 - old.1) * wt) (2 ^ 16)
      if f.len ≤ i then ⟨y, new.2, { b with actB := f.toB, fade := none }, some f.toB⟩
      else ⟨y, old.2 || new.2, { b with fade := some { f with i := i } }, none⟩

/-! ### Tags (R132, R133) -/

/-- Whether SAMPLE_SYNC edges are in use. -/
def syncMode (s : State) : Bool := s.afe.sync.active

/-- The index j of an S0 sample: that of its grid edge within the second, or the count since the last synchronising reset in SAMPLE_SYNC mode (R132). -/
def s0Index (s : State) (c : FltCh) (at_ : QInst) : Nat :=
  if syncMode s then c.since else rdivN ((at_ % secQ) * 2073600) secQ

/-- inst(j_new - G), the instant that an output represents, in units of 10^-4 ns; j_new is one less than the samples entered. Before the first edge after a synchronising reset it is extrapolated at 482.2531 ns per sample (R133). -/
def instBack (s : State) (n : Nat) (c : FltCh) (at_ : QInst) (g : Nat) : Nat :=
  if syncMode s then
    if g < c.since then ((afeCh s n).result? (c.rd - g)).elim (at_ * 2500 - g * 4822531) (fun e => e.at_ * 2500)
    else c.first * 2500 - (g + 1 - c.since) * 4822531
  else
    let j := rdivN ((at_ % secQ) * 2073600) secQ
    let sec := at_ / secQ
    (if g ≤ j then sec * secQ + convEdgeQ (j - g) else (sec - 1) * secQ + convEdgeQ (j + 2073600 - g)) * 2500

/-- The tag of an output: the instant represented, in units of 10^-4 ns, plus the skew term, rounded once to 0.25 ns (R126, R133). -/
def tagOf (s : State) (n : Nat) (i : Nat) : QInst := (rdivI ((i : Int) * 256 + s0Skew s n * 10000) 640000).toNat

/-- The full quality of an output (R134, R135, R141). -/
def outQ (s : State) (x : FVal) (settling : Bool) (tag : QInst) : Nat :=
  Nat.lor x.bits (qIf x.valid qVALID + qIf settling qSETTLING + qSOURCELOCAL + qMode s + qTime s tag)

/-! ### One S0 sample through the chain -/

/-- What one S0 sample makes: the state and the outputs formed. -/
structure FltRun where
  s : State
  outs : List FltOut

/-- The S0 output for the next result of the chain (R125, R127, R134, R135); `true` when it saturates. -/
def s0Out (s : State) (n : Nat) (c : FltCh) (prev : Option BufEntry) (e next : BufEntry) : FVal × Bool :=
  if bitOf e.flags 4 then
    (⟨c.last.v, Nat.lor (entryBits e.flags) qSUBST, decide (c.invalidRun + 1 < 17)⟩, false)
  else
    let y := s0Correct (s0Gain s n) (s0Ofs s n) (s0Value prev e next)
    let z := satI 24 y
    (⟨z, Nat.lor (entryBits e.flags) (qIf (decide (z ≠ y)) qOVERRANGE), true⟩, decide (z ≠ y))

/-- S4 on one PR output (R121, R136, R139). -/
def stage4 (s : State) (n : Nat) (at_ : QInst) : FltRun :=
  let c := fltCh s n
  let tag := tagOf s n (instBack s n c at_ 3135)
  let r := bankOut c.b4 c.b4A c.b4B c.w4 (fld s (R.fltFade n) 28 16) tag
  let x := stageVal r.y r.ovr c.w4
  let s1 := setFlt s n { c with b4 := r.b, tag4 := tag }
  let s2 := if r.ovr then satNote s1 n 4 else s1
  let s3 := match r.done with
    | some bk => raise 0x0502 s2 (idx := n) (items := [(1, 4), (1, b2n bk)]) (att := some (attAt s2 (tag * 16384)))
    | none => s2
  ⟨s3, [⟨4, x.v, outQ s3 x (decide (c.since < 6271)) tag, tag⟩]⟩

/-- S3 on one S2 output, and S4 after it where one is due (R121, R132, R136, R139). -/
def stage3 (s : State) (n : Nat) (at_ : QInst) (j : Nat) : FltRun :=
  let c := fltCh s n
  let tag := tagOf s n (instBack s n c at_ 543)
  let r := bankOut c.b3 c.b3A c.b3B c.w3 (fld s (R.fltFade n) 12 0) tag
  let x := stageVal r.y r.ovr c.w3
  let settling := decide (c.since < 1087)
  let s4 := flag s (R.fltCtl n) 7
  let s1 := setFlt s n { c with b3 := r.b, settling := settling, tag3 := tag, w4 := if s4 then push 37 c.w4 x else [] }
  let s2 := if r.ovr then satNote s1 n 3 else s1
  let s3 := match r.done with
    | some bk => raise 0x0502 s2 (idx := n) (items := [(1, 3), (1, b2n bk)]) (att := some (attAt s2 (tag * 16384)))
    | none => s2
  let o : FltOut := ⟨3, x.v, outQ s3 x settling tag, tag⟩
  if s4 && decide (j % 432 = 111) then
    let r := stage4 s3 n at_
    ⟨r.s, o :: r.outs⟩
  else ⟨s3, [o]⟩

/-- S2 on its window, and S3 after it where one is due (R131, R132). -/
def stage2 (s : State) (n : Nat) (at_ : QInst) (j : Nat) : FltRun :=
  let c := fltCh s n
  let (y, comb) := cicOut c.comb ((c.integ.getLast?).getD 0)
  let x : FVal := ⟨satI 32 (rdivI y 16), winBits c.w2, c.w2.all (·.valid)⟩
  let s1 := setFlt s n { c with comb := comb, w3 := push 64 c.w3 x }
  if j % 144 = 111 then stage3 s1 n at_ j else ⟨s1, []⟩

/-- S1 on its window: the IR output, and the stages after it where they are due (R130, R132). -/
def stage1 (s : State) (n : Nat) (at_ : QInst) (j : Nat) : FltRun :=
  let c := fltCh s n
  let (z, ovr) := satTo 24 (rdivI (firAcc s1Taps c.w1) (2 ^ 22))
  let x := stageVal z ovr c.w1
  let tag := tagOf s n (instBack s n c at_ 11)
  let s1 := setFlt s n { c with integ := cicIn c.integ x.v, w2 := push 29 c.w2 x }
  let s2 := if ovr then satNote s1 n 1 else s1
  let o : FltOut := ⟨1, x.v, outQ s2 x (decide (c.since < 23)) tag, tag⟩
  if j % 16 = 15 then
    let r := stage2 s2 n at_ j
    ⟨r.s, o :: r.outs⟩
  else ⟨s2, [o]⟩

/-- The value of a merged sample of an interleaved pair before saturation (R129): corrected by R125 with the terms of its own SAR `n`, then referred to its nominal instant by R127 over its skew term, with the merged stream's neighbours, which SAR `m` converted. -/
def hrValue (s : State) (n m : Nat) (prev : Option BufEntry) (e : BufEntry) (next : Option BufEntry) : Int :=
  let corr (k : Nat) (x : BufEntry) : Int := satI 24 (s0Correct (s0Gain s k) (s0Ofs s k) (x.code * 256))
  let h (k : Nat) (x : BufEntry) : Int := (x.hold : Int) * 64 + s0Skew s k
  let y := corr n e
  let d := s0Skew s n
  let slope (y0 y1 h0 h1 : Int) : Int := if h1 ≤ h0 then y else rdivI (y * (h1 - h0) - d * (y1 - y0)) (h1 - h0).toNat
  match prev.filter BufEntry.usable, next.filter BufEntry.usable with
    | some p, some q => slope (corr m p) (corr m q) (h m p) (h m q)
    | some p, none => slope (corr m p) y (h m p) (h n e)
    | none, some q => slope y (corr m q) (h n e) (h m q)
    | none, none => y

/-- One merged sample of an interleaved pair, for the channel of its even SAR: an invalid entry gives a copy of the sample before (R124, R129, R134, R135). -/
def hrOut (s : State) (n m : Nat) (prev : Option BufEntry) (e : BufEntry) (next : Option BufEntry) : FltRun :=
  let ch := n / 2 * 2
  let c := fltCh s ch
  if bitOf e.flags 4 then
    let x : FVal := ⟨c.hrLast.v, Nat.lor (entryBits e.flags) qSUBST, decide (c.hrRun + 1 < 17)⟩
    let s1 := setFlt s ch { c with hrLast := x, hrRun := c.hrRun + 1 }
    ⟨if n = ch then s1 else bump s1 (R.fltSubstCnt ch), [⟨0, x.v, outQ s x false e.at_, e.at_⟩]⟩
  else
    let (z, ovr) := satTo 24 (hrValue s n m prev e next)
    let x : FVal := ⟨z, Nat.lor (entryBits e.flags) (qIf ovr qOVERRANGE), true⟩
    let s1 := setFlt s ch { c with hrLast := x, hrRun := 0 }
    ⟨if ovr then satNote s1 ch 0 else s1, [⟨0, z, outQ s x false e.at_, e.at_⟩]⟩

/-- Merged samples formed in turn. -/
def FltRun.then (r : FltRun) (f : State → FltRun) : FltRun := let t := f r.s; ⟨t.s, r.outs ++ t.outs⟩

/-- The results of a channel between two instants, in order. -/
def AfeCh.between (c : AfeCh) (a b : QInst) : List BufEntry :=
  ((c.buf.map Prod.snd).filter (fun e => decide (a < e.at_) && decide (e.at_ < b))).mergeSort (fun x y => decide (x.at_ ≤ y.at_))

/-- The merged samples that one even result releases: the result itself and the odd results up to the next even one (R129). -/
def hrOuts (s : State) (k : Nat) (prev : Option BufEntry) (e next : BufEntry) : FltRun :=
  let odd := (afeCh s (2 * k + 1))
  let before := match prev with | some p => (odd.between p.at_ e.at_).getLast? | none => none
  let after := odd.between e.at_ next.at_
  after.foldl (fun r o => r.then (fun st => hrOut st (2 * k + 1) (2 * k) (some e) o (some next))) (hrOut s (2 * k) (2 * k + 1) before e after.head?)

/-- The next S0 sample of channel `n` taken through every stage that is due (R121 to R141). A result from before an Almanac step is no neighbour of one after it, since their instants are on different time (DEDUCED, log entry 103). Nothing happens before result j + 1 exists (R127), or for the odd channel of an interleaved pair (R129). -/
def fltAdvance (s : State) (n : Nat) : FltRun :=
  let c0 := fltCh s n
  let a := afeCh s n
  if !(s.afe.running && chHasPath s n) then ⟨s, []⟩
  else match a.result? c0.rd, a.result? (c0.rd + 1) with
    | some e, some next =>
      let c := if c0.resetDue then c0.reset else c0
      let prev := (if c.rd = 0 then none else a.result? (c.rd - 1)).filter (fun p => decide (s.afe.minTag ≤ p.at_))
      let (x, ovr) := s0Out s n c prev e next
      let inv := bitOf e.flags 4
      let run := if inv then c.invalidRun + 1 else 0
      let first := if c.since = 0 then e.at_ else c.first
      let s1 := setFlt s n { c with w1 := push 23 c.w1 x, last := x, invalidRun := run, first := first }
      let s2 := if ovr then satNote s1 n 0 else s1
      let s3 := if inv then bump s2 (R.fltSubstCnt n) else s2
      let s4 := if inv && decide (run = 17) then raise 0x0505 s3 (idx := n) (att := some (attAt s3 (e.at_ * 16384))) else s3
      let hr : FltRun := if pairIlv s (n / 2) then hrOuts s4 (n / 2) prev e next else ⟨s4, []⟩
      let j := s0Index s4 c e.at_
      let s5 := setFlt hr.s n { fltCh hr.s n with since := c.since + 1 }
      let r := if j % 2 = 1 then stage1 s5 n e.at_ j else ⟨s5, []⟩
      ⟨setFlt r.s n { fltCh r.s n with rd := c.rd + 1 }, hr.outs ++ r.outs⟩
    | _, _ => ⟨s, []⟩

/-! ### Starting and changing the fast path (R96, R114) -/

/-- The chains of a mask take up at the next result written. -/
def skipTo (s : State) (mask : Nat) : State :=
  (setBits 32 mask).foldl (fun st n => setFlt st n { fltCh st n with rd := (afeCh st n).cnt }) s

/-- The channels whose enable or interleaving differs between two settings (R96). -/
def changedChs (ch0 ilv0 ch1 ilv1 : Nat) : Nat :=
  maskOf 32 (fun n => bitOf ch0 n != bitOf ch1 n || bitOf ilv0 (n / 2) != bitOf ilv1 (n / 2))

/-- New enables and interleaving taken up, with the reset of the channels affected while the path runs (R96, R140). -/
def applyChCfg (s : State) (ch ilv : Nat) : State :=
  let m := changedChs s.afe.chEn s.afe.ilv ch ilv
  let s1 := { s with afe := { s.afe with chEn := ch, ilv := ilv, pendCh := none, pendIlv := none } }
  if m = 0 then s1
  else
    let s2 := skipTo s1 m
    if s.afe.running then syncReset s2 m 3 else s2

/-- The fast path starts at the next edge: at once with the enables written, and with a reset of every enabled channel when it has run before (R114). With edge_src 1 the SAMPLE_SYNC edges are in use from the start (log entry 8). -/
def startFastPath (s : State) : State :=
  let ch := regGet s R.afeChEn
  let sync := flag s R.afeCtl 3
  let s1 := applyChCfg { s with afe := { s.afe with running := false } } ch (regGet s R.afeIlv)
  let s2 := skipTo { s1 with afe := { s1.afe with running := true, stopAt := none, started := true, gridFrom := eventQ s + 1,
                                                       sync := ⟨sync, some (eventQ s), none, none, now s / secI, false, 0, false, false⟩ } } ch
  let s3 := flagSet s2 R.afeStat 14 sync
  if s.afe.started then syncReset s3 ch 4 else s3

/-- The edge source changes between SAMPLE_SYNC and the grid, with the reset of all enabled channels (R88, R140). -/
def setSyncActive (s : State) (on : Bool) : State :=
  let s1 := flagSet { s with afe := { s.afe with gridFrom := (if on then s.afe.gridFrom else eventQ s + 1),
                                                       sync := { s.afe.sync with active := on, latched := none, lost := !on, ready := false } } } R.afeStat 14 on
  syncReset s1 s1.afe.chEn 2

end Sys2Proof.Machine
end

