-- ==== Sys2Proof/Machine/AfeRows.lean ====
section
/-! DEFINITION. The meanings of the analogue front end's and the filter chain's own commands and events: SAMPLE_SYNC, conversions, snapshots, the spare, calibration, reference faults, cycle boundaries, filter resets and bank swaps. -/

namespace Sys2Proof.Machine

/-! ### SAMPLE_SYNC (R84, R86 to R88) -/

/-- Channels whose snapshot is busy at a SAMPLE_SYNC edge: the edge is deferred for them (R92). -/
def deferEdge (s : State) (e : QInst) : State :=
  (List.range 32).foldl (fun st n =>
    let c := afeCh st n
    match c.prevSnap with
    | some t => if chConverts st n && decide (t ≤ e) && decide (e < t + 640) then modCh st n (fun c => { c with aborted := some (e, t + 640) }) else st
    | none => st) s

/-- A conversion starts at an edge, held `delay` after it (R84, R87). -/
def startConv (s : State) (e delay : Nat) : State :=
  let s1 := { s with afe := { s.afe with sync := { s.afe.sync with hold := some (e + delay, e) } } }
  let s2 := if delay = 0 then s1 else
    (List.range 32).foldl (fun st n => if chConverts st n then modCh st n (fun c => { c with displaced := c.displaced ++ [(e, delay)] }) else st) s1
  deferEdge s2 e

/-- A TAI second that has ended is judged: the edges counted in a whole one against 2,073,600 within ±200 ppm, and edges without a loss to its end (R86, R88). DESIGN CHOICE (log entry 94): SYNC_RATE_ERR is raised at the first bad second of a run of them, and a second not counted from its top is not judged. -/
def syncRate (s : State) : State :=
  let y := s.afe.sync
  let sec := now s / secI
  if !flag s R.afeCtl 3 || !s.afe.running || decide (sec ≤ y.sec) then s
  else
    let good := decide (2073186 ≤ y.edges) && decide (y.edges ≤ 2074014)
    let quiet := match y.lastEdge with | some t => decide (t + 7716 < (y.sec + 1) * secQ) | none => true
    let s1 := { s with afe := { s.afe with sync := { y with
      sec := sec, whole := true, edges := 0, lost := false, ready := !y.active && y.whole && good && !y.lost && !quiet } } }
    if !y.whole then s1
    else
      let s2 := flagSet s1 R.afeStat 13 (!good)
      if !good && !flag s R.afeStat 13 then raise 0x0405 s2 else s2

/-- The tag of a SAMPLE_SYNC edge seen now: its timestamp less the calibrated delay from pin to hold (R86). -/
def syncTag (s : State) : QInst := eventQ s - s.afe.pinDelay

/-- SAMPLE_SYNC_EDGE: an edge on SAMPLE_SYNC with its tag `at_`, which is that of an edge now; another tag is no edge (R86, R87, log entry 1). -/
def execSampleSyncEdge (rising : Bool) (at_ : Nat) (s0 : State) : Host.Outcome State Fault Refusal :=
  if at_ ≠ syncTag s0 then next s0
  else
    let s := syncRate s0
    if !flag s R.afeCtl 3 || !s.afe.running || decide (rising = flag s R.afeCtl 4) then next s
    else
      let y := s.afe.sync
      let gap := match y.lastEdge with | some t => decide (t + 7716 < at_) | none => false
      let s1 := { s with afe := { s.afe with sync := { y with lastEdge := some at_, edges := y.edges + 1, lost := y.lost || gap } } }
      if !y.active then next s1
      else
        let busy := match y.hold with | some (h, _) => decide (at_ < h + 640) | none => false
        if !busy && y.latched.isNone then next (startConv s1 at_ 0)
        else if y.latched.isNone then next { s1 with afe := { s1.afe with sync := { s1.afe.sync with latched := some at_ } } }
        else next (bump ((List.range 32).foldl (fun st n => if chConverts st n then modCh st n (fun c => { c with ignored := c.ignored ++ [at_] }) else st) s1) R.afeSyncOverrun)

/-- LATCHED_CONVERSION_START: the latched conversion starts once the SARs are ready, 160 ns after the last hold (R87). -/
def execLatchedConversionStart (s : State) : Host.Outcome State Fault Refusal :=
  match s.afe.sync.latched, s.afe.sync.hold with
  | some e, some (h, _) => next (startConv { s with afe := { s.afe with sync := { s.afe.sync with latched := none } } } e (h + 640 - e))
  | _, _ => next s

/-- SYNC_LOST: no edge for 1,929 ns while SAMPLE_SYNC edges are in use (R88). -/
def execSyncLost (s : State) : Host.Outcome State Fault Refusal :=
  let y := s.afe.sync
  let due := match y.lastEdge with | some t => decide (t * 16384 + 1929 * nsI ≤ now s) | none => false
  if y.active && s.afe.running && due then next (raise 0x0403 (setSyncActive s false)) else next s

/-- SYNC_RESTORED: at the top of a second that ends a full good one, within its first conversion period, the part returns to SAMPLE_SYNC (R88). -/
def execSyncRestored (s0 : State) : Host.Outcome State Fault Refusal :=
  let s := syncRate s0
  let y := s.afe.sync
  if decide (eventQ s % secQ < 1929) && !y.active && y.ready && flag s R.afeCtl 3 && s.afe.running then next (raise 0x0404 (setSyncActive s true)) else next s

/-- SYNC_RATE_CHECK: a TAI second has ended (R86, R88). -/
def execSyncRateCheck (s : State) : Host.Outcome State Fault Refusal := next (syncRate s)

/-! ### Conversions and snapshots (R84, R92 to R94, R103) -/

/-- Whether SAR `n`'s conversion for an edge is over: it held for that edge, with its delay if it was displaced, 150 ns ago (R84, R92). -/
def convDone (s : State) (n : Nat) (at_ : QInst) : Bool :=
  let delay := (((afeCh s n).displaced.find? (fun p => p.1 = at_)).map Prod.snd).getD 0
  isEdge s n at_ && decide (at_ + delay + 600 ≤ eventQ s)

/-- CONVERSION_COMPLETE: SAR `ch`'s conversion for a grid or edge instant completes with a code (R84, R85, R103). -/
def execConversionComplete (ch : Nat) (at_ : Nat) (code : Int) (selfOk : Bool) (s : State) : Host.Outcome State Fault Refusal :=
  if decide (ch < 32) && chConverts s ch && convDone s ch at_ then next (writeResult s ch at_ code selfOk) else next s

/-- The grid edge at or before an instant, and the one after it. -/
def gridEdges (t : QInst) : QInst × QInst :=
  let sec := t / secQ
  let j0 := (t % secQ) * 2073600 / secQ
  let at_ (j : Nat) : QInst := if j < 2073600 then sec * secQ + convEdgeQ j else (sec + 1) * secQ + convEdgeQ (j - 2073600)
  let j := if at_ (j0 + 1) ≤ t then j0 + 1 else if at_ j0 ≤ t then j0 else j0 - 1
  (at_ j, at_ (j + 1))

/-- The conversion that a snapshot at `t` displaces on channel `n`: one that is running is aborted, an edge in the busy time is deferred; it holds 160 ns after the snapshot (R92). -/
def displace (s : State) (n : Nat) (t : QInst) : Option (QInst × QInst) :=
  if !chConverts s n then none
  else if syncMode s then
    match s.afe.sync.hold with
    | some (h, e) => if h ≤ t ∧ t < h + 600 then some (e, t + 640) else none
    | none => none
  else
    let (e0, e1) := gridEdges t
    if t < e0 + 600 then some (e0, t + 640) else if e1 < t + 640 then some (e1, t + 640) else none

/-- SNAPSHOT_TAKE: the first requested snapshot that is due holds its channels (R92, R94). -/
def execSnapshotTake (s : State) : Host.Outcome State Fault Refusal :=
  match s.afe.snaps.find? (fun x => decide (x.at_ * 16384 ≤ now s)) with
  | none => next s
  | some x =>
    let s0 := { s with afe := { s.afe with snaps := s.afe.snaps.erase x } }
    let asked := (setBits 32 x.mask).filter (fun n => chHasPath s n)
    let clash (n : Nat) : Bool := match (afeCh s n).prevSnap with | some p => decide (p ≤ x.at_) && decide (x.at_ < p + 1929) | none => false
    let taken := asked.filter (fun n => !clash n)
    let s1 := bumpBy s0 R.afeSnapCollide (asked.length - taken.length)
    let s2 := taken.foldl (fun st n => modCh st n (fun c => { c with prevSnap := some x.at_, aborted := (displace s n x.at_).orElse (fun _ => c.aborted) })) s1
    next { s2 with afe := { s2.afe with snapRun := s2.afe.snapRun ++ [(x, maskOf 32 (fun n => taken.contains n))] } }

/-- DISPLACED_CONVERSION: a displaced conversion holds; its result will carry RESTARTED and the delay (R92). -/
def execDisplacedConversion (ch : Nat) (s : State) : Host.Outcome State Fault Refusal :=
  match (afeCh s ch).aborted with
  | some (e, h) => next (modCh s ch (fun c => { c with aborted := none, displaced := c.displaced.filter (fun p => p.1 ≠ e) ++ [(e, h - e)] }))
  | none => next s

/-- A channel's word of a snapshot (R93). DESIGN CHOICE (log entry 94): the word of a channel not selected or not taken holds the operand's code, with VALID clear. -/
def snapWord (s : State) (x : Snap) (taken n : Nat) (code : Int) : SampleWord :=
  let c := satI 16 code
  let t := bitOf taken n
  ⟨c, BitVec.ofNat 16 (qIf (t && !invalidNow s n true) qVALID + qIf (t && (decide (c = 32767) || decide (c = -32768))) qOVERRANGE
    + qIf (t && recovering s n x.at_) qRECOVERING + qSOURCELOCAL + qMode s + qTime s x.at_), n, x.at_⟩

/-- SNAPSHOT_RESULT: the oldest snapshot held completes with its codes; the latch and the host words are written and AFE_SNAP completes (R91, R93, R94). -/
def execSnapshotResult (codes : List Int) (s : State) : Host.Outcome State Fault Refusal :=
  match s.afe.snapRun with
  | [] => next s
  | (x, taken) :: rest =>
    let ws := (List.range 32).map (fun n => snapWord s x taken n (codes.getD n 0))
    let a := attAt s (x.at_ * 16384)
    let s0 := { s with afe := { s.afe with snapRun := rest } }
    let s1 := (List.range 16).foldl (fun st k =>
      regSet st (R.afeSnapVal k) (ofSigned 16 ((ws.getD (2 * k) ⟨0, 0, 0, 0⟩).value) + 65536 * ofSigned 16 ((ws.getD (2 * k + 1) ⟨0, 0, 0, 0⟩).value))) s0
    let s2 := regSet (regSet (regSet (regSet s1 R.afeSnapSecLo a.sec) R.afeSnapSecHi (a.sec / 2 ^ 32)) R.afeSnapNs a.ns) R.afeSnapFq (a.frac * 65536 + a.q.toNat)
    let s3 := regSet (regSet s2 R.afeSnapValid taken) R.afeSnapOvr (maskOf 32 (fun n => bitOf ((ws.getD n ⟨0, 0, 0, 0⟩).q.toNat) 1))
    let s4 := if x.host = 0 then s3 else hostWrite s3 x.host (ws.map SampleWord.bytes).flatten
    match x.cid with
    | some c => next (complete s4 c (if taken = 0 then stBusy else if x.late then stLate else stOk) a)
    | none => next s4

/-! ### The spare and calibration (R97 to R100) -/

/-- The correction terms in use for channel `n` (R97, R125). -/
def setTerms (s : State) (n gain ofs skew : Nat) : State :=
  regSet (regSet (regSet s (R.fltGain n) (gain % 2 ^ 32)) (R.fltOfs n) (ofs % 2 ^ 16)) (R.fltSkew n) (skew % 2 ^ 16)

/-- A spare step ends, and the spare calibrates itself (R97). -/
def spareEnd (s : State) : State :=
  setSpare s (fun p => { p with phase := .selfCal, retried := false, steps := p.steps + 1, queued := p.queued.filter (fun n => n ≠ p.sar) })

/-- SPARE_STEP_DUE: the next step starts with its shadow phase; an AFE_CAL goes first, whether or not the spare rotates, and a disabled SAR is calibrated in place (R97, R100). The dying sequence gates it off (R544), and throttling stretches the rotation to 3,600 s (R552). -/
def execSpareStepDue (s : State) : Host.Outcome State Fault Refusal :=
  let p := s.afe.spare
  let due := elapsed s p.since ((if s.pwr.throttle then 3600 else fld s R.afeSpareCfg 19 8) * secT / 32)
  if isDying s || p.perm.isSome || decide (p.phase ≠ .idle) || (p.queued.isEmpty && !(due && flag s R.afeCtl 2)) then next s
  else
    let n := p.queued.headD p.next
    let nxt := if p.queued.isEmpty then (p.next + 1) % 32 else p.next
    if 32 ≤ n then next (setSpare s (fun p => { p with phase := .selfCal, queued := p.queued.drop 1 }))
    else next (setSpare s (fun p => { p with
      sar := n, next := nxt, since := s.dev.ticks, retried := false, phase := if chConverts s n then .shadow else .inPlace }))

/-- SPARE_PHASE_DONE: a phase ends with the mismatch found, the outcome of the SAR's self-calibration and the terms to use (R97 to R99). The spare's own calibration has no verdict (log entry 94). -/
def execSparePhaseDone (mismatch : Nat) (calOk : Bool) (gain ofs skew : Nat) (s : State) : Host.Outcome State Fault Refusal :=
  let p := s.afe.spare
  let good := decide (mismatch ≤ fld s R.afeSpareCfg 7 0)
  if isDying s then next s else
  match p.phase with
  | .idle => next s
  | .shadow =>
    if good then next (setTerms (setSpare s (fun p => { p with phase := .substitute })) p.sar gain ofs skew)
    else if p.retried then next (substPerm s p.sar 2)
    else next (setSpare s (fun p => { p with retried := true }))
  | .substitute =>
    if calOk then next (setSpare s (fun p => { p with phase := .handBack })) else next (substPerm s p.sar 0)
  | .handBack =>
    if good then next (spareEnd (setTerms s p.sar gain ofs skew)) else next (substPerm s p.sar 1)
  | .inPlace => if calOk then next (spareEnd (setTerms s p.sar gain ofs skew)) else next (substPerm s p.sar 0)
  | .selfCal => next (setSpare s (fun p => { p with phase := .idle }))

/-- The owning rule of AFE_CAL (R100). -/
def ownAfeCal (e : CmdEntry) (cid : Nat) (s : State) : CmdOut :=
  let mask := field e.params 0 8
  let kind := field e.params 8 1
  if 2 < kind ∨ 2 ^ 33 ≤ mask then .rej s stBadParam
  else if (kind = 0 ∧ s.dev.mode = .boot) ∨ (kind ≠ 0 ∧ s.dev.mode ≠ .test) then .rej s stBadMode
  else if s.afe.cal.isSome then .rej s stBusy
  else if kind = 0 ∧ flag s R.afeStat 12 then .rej s stNoResource
  else
    let s1 := flagSet { s with afe := { s.afe with cal := some ⟨kind, mask, some cid⟩ } } R.afeStat 7 true
    .later (if kind = 0 then setSpare s1 (fun p => { p with queued := setBits 33 mask }) else s1)

/-- The parameter bytes that the command lists. -/
def usedAfeCal : List (Nat × Nat) := [(0, 9)]

/-- AFE_CAL. -/
def execAfeCal (e : CmdEntry) (s : State) : Host.Outcome State Fault Refusal := next (submit 0x31 usedAfeCal ownAfeCal e s)

/-- What a foreground calibration leaves (R99, R100): new terms for the SARs of its mask that succeeded, and the spare in place of the first that failed while there is one. Which SARs fail and the terms are free values (log entry 75). -/
def calResult (s : State) (c : AfeCal) : State :=
  if c.kind ≠ 1 then s
  else
    let failed := Config.calFailed s.dev.free
    let term := Config.calTerm s.dev.free
    let s1 := (setBits 32 c.mask).foldl (fun st n => if bitOf failed n then st else setTerms st n (term n 0) (term n 1) (term n 2)) (bumpFree s)
    match (setBits 32 (Nat.land c.mask failed)).head?, s1.afe.spare.perm with
    | some n, none => substPerm s1 n 0
    | _, _ => s1

/-- AFE_CAL_DONE: the last calibration requested has finished; the pending AFE_CAL completes (R99, R100). -/
def execAfeCalDone (s : State) : Host.Outcome State Fault Refusal :=
  match s.afe.cal with
  | none => next s
  | some c =>
    if (c.kind = 0 ∧ (!s.afe.spare.queued.isEmpty ∨ (s.afe.spare.phase ≠ .idle ∧ s.afe.spare.perm.isNone))) ∨ isDying s then next s
    else
      let s1 := flagSet (calResult { s with afe := { s.afe with cal := none } } c) R.afeStat 7 false
      match c.cid with
      | some i => next (complete s1 i stOk (attNow s1))
      | none => next (match s1.pwr.selftest with
        | some t => if t.kind = 1 ∨ t.kind = 7 then selfFinish s1 (b2n (decide (t.kind = 1) && s1.afe.spare.perm.isSome)) else s1
        | none => s1)

/-- REF_FAULT: a reference buffer leaves tolerance or its supervisor trips (R83). -/
def execRefFault (group : Nat) (s : State) : Host.Outcome State Fault Refusal :=
  if 4 ≤ group ∨ bitOf s.afe.refFault group then next s
  else
    let s1 := { s with afe := { s.afe with refFault := s.afe.refFault + 2 ^ group,
                                           trks := s.afe.trks.map (fun (t, k) => (t, { k with refSeen := Nat.lor k.refSeen (2 ^ group) })) } }
    next (raise 0x0407 (fldSet s1 R.afeStat 11 8 s1.afe.refFault) (idx := group))

/-- REF_RESTORED: the output has stayed within tolerance for 1 ms (R83). -/
def execRefRestored (group : Nat) (s : State) : Host.Outcome State Fault Refusal :=
  if 4 ≤ group ∨ !bitOf s.afe.refFault group then next s
  else
    let s1 := { s with afe := { s.afe with refFault := s.afe.refFault - 2 ^ group } }
    next (raise 0x0408 (fldSet s1 R.afeStat 11 8 s1.afe.refFault) (idx := group))

/-! ### Cycle trackers (R105 to R113) -/

/-- A cycle closes at boundary `b`: its block is written, after the gap block that waited for it (R107 to R113). With an aborted integration no block is written and the gap ends at `b`. -/
def closeCycle (s : State) (t b base : Nat) (m : MetCycle) : State :=
  let k := trk s t
  match k.lastB with
  | none => modTrk s t (fun k => { k with lastB := some b, peak := 0, refSeen := s.afe.refFault, stepped := false, pos := none })
  | some a =>
    let base := base + 8 * b2n k.stepped
    let sat := maskOf 32 (fun c => m.chans.any (fun r => decide (r.ch = c) && r.sat && decide (trkOf s c = t)))
    let refs := Nat.lor k.gapRef (Nat.lor k.refSeen s.afe.refFault)
    let fresh (k : Tracker) : Tracker := { k with lastB := some b, peak := 0, refSeen := s.afe.refFault, stepped := false, pos := none }
    match k.gapFrom, k.gapTo with
    | some _, none =>
      (setBits 32 sat).foldl (fun st c => flagSet st R.afeMetSat c true)
        (modTrk s t (fun k => { fresh k with gapTo := some b, gapRef := refs, gapSat := Nat.lor k.gapSat sat }))
    | some (a0, p), some br =>
      let mate (q : Nat) : Nat × Nat := (fld s (R.afePairCfg q) 9 5, fld s (R.afePairCfg q) 4 0)
      let n := cycleBlock s t base (k.seq + 1) a b m
      let s1 := putBlock s t (gapBlock t k.seq a0 br p n k.gapRef k.gapSat mate)
      let s2 := putBlock s1 t n
      modTrk s2 t (fun k => { fresh k with gapFrom := none, gapTo := none, gapRef := 0, gapSat := 0, prev := some n, period := b - a })
    | none, _ =>
      let n := cycleBlock s t base k.seq a b m
      let s1 := putBlock s t n
      modTrk s1 t (fun k => { fresh k with prev := if bitOf base 3 then none else some n, period := if bitOf base 3 then k.period else b - a })

/-- Tracker `t` begins to free-run (R109). -/
def freeRunStart (s : State) (t : Nat) : State :=
  raise 0x040A (modTrk s t (fun k => { k with st := .freeRun, good := 0, bad := 0, lastX := none })) (idx := t)

/-- Whether a tracker's reference is below ref_min: the peak of its IR samples since the last boundary (R109, log entry 9). -/
def refLow (s : State) (t : Nat) : Bool := decide ((trk s t).peak < fld s (R.afeTrkCfg t) 7 0 * 8192)

/-- MET_BOUNDARY: a tracker's detected positive crossing, with the modulators' readout, closes a cycle (R105 to R113); with the reference below ref_min it is none, and the tracker free-runs. While it free-runs, two valid cycles in a row let the next crossing be its boundary. -/
def execMetBoundary (t : Nat) (m : MetCycle) (s : State) : Host.Outcome State Fault Refusal :=
  let k := trk s t
  if !(decide (t < 8) && flag s (R.afeTrkCfg t) 31 && flag s R.afeCtl 1) then next s
  else match k.pos with
  | none => next s
  | some b =>
    if k.st = .freeRun ∨ k.st = .relocking then
      if 2 ≤ k.good then
        let s1 := closeCycle s t b 4 m
        next (raise 0x040B (modTrk s1 t (fun k => { k with st := .tracking, good := 0, bad := 0, lastX := none })) (idx := t))
      else
        let ok := match k.lastX with | some x => periodValid (b - x) | none => false
        next (modTrk s t (fun k => { k with pos := none, lastX := some b, good := if ok then k.good + 1 else 0, st := if ok then .relocking else .freeRun }))
    else if refLow s t then next (freeRunStart (modTrk s t (fun k => { k with pos := none })) t)
    else
      let bad := match k.lastB with | some a => if periodValid (b - a) || k.stepped then 0 else k.bad + 1 | none => 0
      let s1 := modTrk (closeCycle s t b 0 m) t (fun k => { k with st := .tracking, bad := bad })
      next (if 2 ≤ bad then freeRunStart s1 t else s1)

/-- MET_NEG_CROSSING: the half-cycle frequency is compared with that of the last complete cycle; beyond step_thr the running integration is aborted (R108). -/
def execMetNegCrossing (t : Nat) (s : State) : Host.Outcome State Fault Refusal :=
  let k := trk s t
  match k.neg, k.lastB, k.prev with
  | some tn, some tp, some p =>
    let h := 2 * (tn - tp)
    let d := k.period
    let diff := if d < h then h - d else d - h
    let s1 := modTrk s t (fun k => { k with neg := none })
    if k.st = .tracking ∧ tp < tn ∧ 0 < d ∧ fld s (R.afeTrkCfg t) 19 8 * h * d < diff * 10 ^ 12 then
      next (raise 0x0409 (modTrk s1 t (fun k => { k with gapFrom := some (k.gapFrom.getD (tp, p)), gapTo := none, gapRef := Nat.lor k.gapRef k.refSeen })) (idx := t))
    else next s1
  | _, _, _ => next (modTrk s t (fun k => { k with neg := none }))

/-- TRK_FREE_RUN_BOUNDARY: a tracker whose reference is below ref_min, or that already free-runs, places a boundary 1/f_nom after the last; before its first boundary or after a step, after the instant from which it runs (R109, R112, R114, log entry 9). -/
def execTrkFreeRunBoundary (t : Nat) (m : MetCycle) (s : State) : Host.Outcome State Fault Refusal :=
  let k := trk s t
  if !(decide (t < 8) && flag s (R.afeTrkCfg t) 31 && flag s R.afeCtl 1) then next s
  else
    let b := (if k.stepped then k.startAt else k.lastB.getD k.startAt) + nominalNs s t
    let runs := decide (k.st = .freeRun) || decide (k.st = .relocking)
    if now s < b * nsI ∨ !(runs || refLow s t) then next s
    else
      let s1 := if runs then s else freeRunStart s t
      next (closeCycle s1 t b 4 m)

/-! ### Enables, taps, filter resets and bank swaps (R96, R104, R114, R138, R140) -/

/-- AFE_CFG_EFFECT: waiting enables and interleaving take effect at the top of a TAI second (R96). -/
def execAfeCfgEffect (s : State) : Host.Outcome State Fault Refusal :=
  if (s.afe.pendCh.isSome || s.afe.pendIlv.isSome) && decide (s.afe.cfgAt * secI ≤ now s) then
    next (applyChCfg s (s.afe.pendCh.getD s.afe.chEn) (s.afe.pendIlv.getD s.afe.ilv))
  else next s

/-- FAST_PATH_STOP: the fast path stops at the top of a TAI second after fast_run is cleared; the buffers keep their contents (R114). -/
def execFastPathStop (s : State) : Host.Outcome State Fault Refusal :=
  match s.afe.stopAt with
  | some t =>
    if t * secI ≤ now s then
      let s1 := (List.range 32).foldl tapUp s
      next { s1 with afe := { s1.afe with running := false, stopAt := none } }
    else next s
  | none => next s

/-- SVT_ENTRY_TIMEOUT: an entry is written 100 µs after its first word (R507). -/
def execSvtEntryTimeout (s : State) : Host.Outcome State Fault Refusal :=
  next ((List.range 4).foldl (fun st tap =>
    let t := tget ⟨0, [], 0⟩ st.afe.taps tap
    if !t.words.isEmpty && elapsed st t.since (100 * usT) then tapFlush st tap else st) s)

/-- FLT_SYNC_RESET: a write of FLT_CTLn.sync_reset; sealed in SERVICE and VIGIL (R140, R144). -/
def execFltSyncReset (ch : Nat) (s : State) : Host.Outcome State Fault Refusal :=
  if 32 ≤ ch then next s
  else if isSealed s then next (sealedWrite s (R.fltCtl ch) false)
  else next (syncReset s (2 ^ ch) 0)

/-- The bank state of S3 or S4 of a chain. -/
def FltCh.bank (c : FltCh) (s4 : Bool) : BankState := if s4 then c.b4 else c.b3
/-- A chain with the bank state of S3 or S4 replaced. -/
def FltCh.setBank (c : FltCh) (s4 : Bool) (b : BankState) : FltCh := if s4 then { c with b4 := b } else { c with b3 := b }
/-- The coefficients of a bank of S3 or S4. -/
def FltCh.coef (c : FltCh) (s4 isB : Bool) : List Int :=
  if s4 then (if isB then c.b4B else c.b4A) else (if isB then c.b3B else c.b3A)

/-- A swap request for one stage: 0b10 fades to A, 0b11 to B (R138). A fade that is scheduled and has not begun counts as running (log entry 10). -/
def swapRequest (s : State) (ch : Nat) (s4 : Bool) (code : Nat) : State :=
  if code < 2 then s
  else
    let c := fltCh s ch
    let b := c.bank s4
    let toB := decide (code = 3)
    let tap := c.coef s4 toB
    if b.actB = toB ∧ b.fade = none ∧ b.deferred = none then s
    else if tap ≠ tap.reverse then
      raise 0x0503 (flagSet s (R.fltStat ch) 14 true) (idx := ch) (items := [(1, if s4 then 4 else 3), (1, b2n toB)])
    else if b.fade.isSome then setFlt s ch (c.setBank s4 { b with deferred := some toB })
    else
      let ts := firstGrid (if s4 then 4800 else 14400) (now s + 100 * usI)
      setFlt s ch (c.setBank s4 { b with fade := some ⟨toB, 0, 0, cdivN ts 16384⟩ })

/-- FLT_SWAP_REQUEST: a write of s3_swap or s4_swap, in every mode after BOOT (R138). -/
def execFltSwapRequest (ch : Nat) (s3 s4 : Nat) (s : State) : Host.Outcome State Fault Refusal :=
  if 32 ≤ ch ∨ s.dev.mode = .boot then next s
  else next (swapRequest (swapRequest s ch false s3) ch true s4)

/-- FADE_START: a scheduled fade begins when the next output of its stage is tagged at or after T_s; its length is taken now (R138, R139). -/
def execFadeStart (ch : Nat) (s4 : Bool) (s : State) : Host.Outcome State Fault Refusal :=
  let c := fltCh s ch
  let b := c.bank s4
  match b.fade with
  | some f =>
    let period := if s4 then 833333 else 277778
    let len := if s4 then fld s (R.fltFade ch) 28 16 else fld s (R.fltFade ch) 12 0
    if f.i = 0 ∧ f.start ≤ (if s4 then c.tag4 else c.tag3) + period then next (setFlt s ch (c.setBank s4 { b with fade := some (f.begin len) })) else next s
  | none => next s

end Sys2Proof.Machine
end

