-- ==== Sys2Proof/Machine/Float.lean ====
section
/-! DEFINITION. IEEE 754 binary32 and binary64 as the cells compute them (R180): round to nearest, ties to even, subnormal inputs and results flushed to zero, no traps; and the element library's fixed routines (R216, R604). A number is its bit pattern. -/

namespace Sys2Proof.Machine

/-- A binary format: bits of the fraction and of the exponent. -/
structure Fmt where
  mw : Nat
  ew : Nat
deriving DecidableEq, Repr

/-- binary32. -/
abbrev b32 : Fmt := ⟨23, 8⟩
/-- binary64. -/
abbrev b64 : Fmt := ⟨52, 11⟩

/-- A decoded number: m times 2^e, an infinity, or not a number. -/
inductive FpVal
  | fin (m : Int) (e : Int)
  | inf (neg : Bool)
  | nan
deriving DecidableEq, Repr

/-- The exponent bias of a format. -/
def Fmt.bias (f : Fmt) : Nat := 2 ^ (f.ew - 1) - 1
/-- The bit pattern of an infinity. -/
def Fmt.infBits (f : Fmt) (neg : Bool) : Nat := b2n neg * 2 ^ (f.ew + f.mw) + (2 ^ f.ew - 1) * 2 ^ f.mw
/-- The bit pattern of the quiet NaN. -/
def Fmt.nanBits (f : Fmt) : Nat := (2 ^ f.ew - 1) * 2 ^ f.mw + 2 ^ (f.mw - 1)

/-- A bit pattern decoded; subnormals read as zero. -/
def fpDec (f : Fmt) (w : Nat) : FpVal :=
  let s := bitOf w (f.ew + f.mw)
  let e := bitsOf w (f.ew + f.mw - 1) f.mw
  let m := w % 2 ^ f.mw
  if e = 0 then .fin 0 0
  else if e = 2 ^ f.ew - 1 then (if m = 0 then .inf s else .nan)
  else
    let v : Int := (m + 2 ^ f.mw : Nat)
    .fin (if s then -v else v) ((e : Int) - f.bias - f.mw)

/-- n / d times 2^(-e), rounded to nearest even. -/
def scaleRound (n d : Nat) (e : Int) : Nat := if 0 ≤ e then rdivN n (d * 2 ^ e.toNat) else rdivN (n * 2 ^ (-e).toNat) d

/-- The rational `n / d` rounded to a format; results below the least normal number are flushed to zero. -/
def fpEnc (f : Fmt) (n : Int) (d : Nat) : Nat :=
  let a := n.natAbs
  let neg := decide (n < 0)
  if a = 0 ∨ d = 0 then 0
  else
    let e0 : Int := (Nat.log2 a : Int) - Nat.log2 d - f.mw
    let e1 := if scaleRound a d e0 < 2 ^ f.mw then e0 - 1 else e0
    let q1 := scaleRound a d e1
    let (q, e) := if 2 ^ (f.mw + 1) ≤ q1 then (q1 / 2, e1 + 1) else (q1, e1)
    let b : Int := e + f.mw + f.bias
    if b ≤ 0 then b2n neg * 2 ^ (f.ew + f.mw)
    else if (2 ^ f.ew - 1 : Nat) ≤ b then f.infBits neg
    else b2n neg * 2 ^ (f.ew + f.mw) + b.toNat * 2 ^ f.mw + (q - 2 ^ f.mw)

/-- m times 2^e as a fraction. -/
def fracOf (m e : Int) : Int × Nat := if 0 ≤ e then (m * (2 ^ e.toNat : Nat), 1) else (m, 2 ^ (-e).toNat)

/-- Negation. -/
def fneg (f : Fmt) (w : Nat) : Nat := if bitOf w (f.ew + f.mw) then w - 2 ^ (f.ew + f.mw) else w + 2 ^ (f.ew + f.mw)

/-- Addition. -/
def fadd (f : Fmt) (x y : Nat) : Nat :=
  match fpDec f x, fpDec f y with
  | .nan, _ => f.nanBits
  | _, .nan => f.nanBits
  | .inf a, .inf b => if a = b then f.infBits a else f.nanBits
  | .inf a, _ => f.infBits a
  | _, .inf b => f.infBits b
  | .fin m e, .fin m' e' =>
    let (n, d) := fracOf m e
    let (n', d') := fracOf m' e'
    fpEnc f (n * d' + n' * d) (d * d')

/-- Subtraction. -/
def fsub (f : Fmt) (x y : Nat) : Nat := fadd f x (fneg f y)

/-- Multiplication. -/
def fmul (f : Fmt) (x y : Nat) : Nat :=
  match fpDec f x, fpDec f y with
  | .nan, _ => f.nanBits
  | _, .nan => f.nanBits
  | .inf a, .inf b => f.infBits (a != b)
  | .inf a, .fin m _ => if m = 0 then f.nanBits else f.infBits (a != decide (m < 0))
  | .fin m _, .inf b => if m = 0 then f.nanBits else f.infBits (b != decide (m < 0))
  | .fin m e, .fin m' e' =>
    let (n, d) := fracOf (m * m') (e + e')
    fpEnc f n d

/-- Division. -/
def fdiv (f : Fmt) (x y : Nat) : Nat :=
  match fpDec f x, fpDec f y with
  | .nan, _ => f.nanBits
  | _, .nan => f.nanBits
  | .inf _, .inf _ => f.nanBits
  | .inf a, .fin m _ => f.infBits (a != decide (m < 0))
  | .fin _ _, .inf _ => 0
  | .fin m e, .fin m' e' =>
    if m' = 0 then (if m = 0 then f.nanBits else f.infBits (decide (m < 0) != bitOf y (f.ew + f.mw)))
    else
      let (n, d) := fracOf m e
      let (n', d') := fracOf m' e'
      fpEnc f (n * d' * (if n' < 0 then -1 else 1)) (d * n'.natAbs)

/-- x ≤ y; false when either is not a number. -/
def fle (f : Fmt) (x y : Nat) : Bool :=
  match fpDec f x, fpDec f y with
  | .nan, _ => false
  | _, .nan => false
  | .inf a, .inf b => a || !b
  | .inf a, .fin _ _ => a
  | .fin _ _, .inf b => !b
  | .fin m e, .fin m' e' =>
    let (n, d) := fracOf m e
    let (n', d') := fracOf m' e'
    decide (n * d' ≤ n' * d)

/-- x < y; false when either is not a number. -/
def flt (f : Fmt) (x y : Nat) : Bool := fle f x y && !fle f y x

/-- x held within two bounds. -/
def fclamp (f : Fmt) (lo hi x : Nat) : Nat := if flt f x lo then lo else if flt f hi x then hi else x

/-- The magnitude. -/
def fabs (f : Fmt) (x : Nat) : Nat := x % 2 ^ (f.ew + f.mw)

/-- An integer converted. -/
def fint (f : Fmt) (i : Int) : Nat := fpEnc f i 1

/-- A ratio of integers rounded to the format. -/
def frat (f : Fmt) (i : Int) (d : Nat) : Nat := fpEnc f i d

/-- The number times 2^s, rounded to an integer with ties to even; 0 for an infinity's or NaN's place is the given bound. -/
def fround (f : Fmt) (x : Nat) (s : Nat) (big : Int) : Int :=
  match fpDec f x with
  | .fin m e =>
    let (n, d) := fracOf m (e + s)
    rdivI n d
  | .inf neg => if neg then -big else big
  | .nan => 0

/-- The number times 2^s, rounded toward minus infinity, held at most `big`. -/
def ffloor (f : Fmt) (x : Nat) (s : Nat) (big : Nat) : Nat :=
  match fpDec f x with
  | .fin m e =>
    let (n, d) := fracOf m (e + s)
    capN big ((n / (d : Int)).toNat)
  | .inf neg => if neg then 0 else big
  | .nan => 0

/-! ### The library's fixed routines -/

/-- Whether a binary32 number lies within one unit in the last place of `n / d` (R604). -/
def withinUlp (n : Int) (d w : Nat) : Bool :=
  match fpDec b32 w with
  | .fin m e =>
    let (a, c) := fracOf m e
    let k : Int := (Nat.log2 n.natAbs : Int) - Nat.log2 d
    -- the exponent of the exact result
    let e2 := if (if 0 ≤ k then d * 2 ^ k.toNat ≤ n.natAbs else d ≤ n.natAbs * 2 ^ (-k).toNat) then k else k - 1
    let (u, v) := fracOf 1 (e2 - 23)
    decide ((a * d - n * c).natAbs * v ≤ u.natAbs * (c * d))
  | _ => false

/-- A library result: the correctly rounded bits of `n / d`, or a neighbour within one unit in the last place of the exact result, as the library's routine has it (R604; the routine's exact bits are not stated). -/
def ulp (n : Int) (d : Nat) (err : Nat) : Nat :=
  let base := fpEnc b32 n d
  let near := match err % 3 with | 0 => base | 1 => base + 1 | _ => base - 1
  if withinUlp n d near then near else base

/-- The square root of a binary32. -/
def fsqrt (x : Nat) : Nat :=
  match fpDec b32 x with
  | .fin m e =>
    if m ≤ 0 then (if m = 0 then 0 else b32.nanBits)
    else
      let (n, d) := fracOf m e
      let r := Nat.sqrt (n.toNat * 2 ^ 200 / d)
      ulp r (2 ^ 100) (Config.fnErr 0 x 0)
  | .inf neg => if neg then b32.nanBits else b32.infBits false
  | .nan => b32.nanBits

/-- The fixed-point scale of the exact evaluations. -/
abbrev fxS : Nat := 2 ^ 96

/-- ln 2 in the fixed-point scale. -/
def ln2Fx : Nat := 54916777467707473351141471128

/-- 2π in the fixed-point scale. -/
def tauFx : Nat := 497805226624462170461043889244

/-- The Taylor series of exp on a fixed-point argument below 1, by Horner's rule from term `n`. -/
def expFx : Nat → Int → Int → Int
  | 0, _, acc => acc
  | n + 1, x, acc => expFx n x (fxS + acc * x / ((n + 1) * fxS))

/-- e^x minus 1 as a fraction of 2^96 times a power of two: the whole value in fixed point. -/
def expm1Val (n : Int) (d : Nat) : Int × Nat :=
  let x := n * fxS / d
  let k := x / ln2Fx
  let r := x - k * ln2Fx
  let e := expFx 30 r fxS
  if 0 ≤ k then (e * (2 ^ k.toNat : Nat) - fxS, fxS) else (e - fxS * (2 ^ (-k).toNat : Nat), fxS * 2 ^ (-k).toNat)

/-- exp(x) - 1 on binary32 (R233). -/
def fexpm1 (x : Nat) : Nat :=
  match fpDec b32 x with
  | .fin m e =>
    let (n, d) := fracOf m e
    if n = 0 then 0
    else if (200 : Int) * d < n then b32.infBits false
    else if n < -(200 : Int) * d then fint b32 (-1)
    else if n.natAbs * 2 ^ 40 < d then x
    else
      let (v, w) := expm1Val n d
      ulp v w (Config.fnErr 1 x 0)
  | .inf neg => if neg then fint b32 (-1) else b32.infBits false
  | .nan => b32.nanBits

/-- exp(x) on binary32. -/
def fexp (x : Nat) : Nat :=
  match fpDec b32 x with
  | .fin m e =>
    let (n, d) := fracOf m e
    if (200 : Int) * d < n then b32.infBits false
    else if n < -(200 : Int) * d then 0
    else
      let (v, w) := expm1Val n d
      ulp (v + w) w (Config.fnErr 2 x 0)
  | .inf neg => if neg then 0 else b32.infBits false
  | .nan => b32.nanBits

/-- The series of atanh, by Horner's rule on the square of the argument: the sum of q^i / (2i + 1). -/
def atanhFx : Nat → Nat → Nat → Nat
  | 0, _, acc => acc
  | n + 1, q, acc => atanhFx n q (fxS / (2 * n + 1) + acc * q / fxS)

/-- ln(x) on binary32. -/
def fln (x : Nat) : Nat :=
  match fpDec b32 x with
  | .fin m e =>
    if m ≤ 0 then (if m = 0 then b32.infBits true else b32.nanBits)
    else
      -- the mantissa lies in [1, 2) at exponent e + 23
      let z : Nat := (m.toNat - 2 ^ 23) * fxS / (m.toNat + 2 ^ 23)
      let s : Int := (2 * z * atanhFx 60 (z * z / fxS) 0 / fxS : Nat)
      let v : Int := s + (e + 23) * (ln2Fx : Int)
      if v = 0 then 0 else ulp v fxS (Config.fnErr 3 x 0)
  | .inf neg => if neg then b32.nanBits else x
  | .nan => b32.nanBits

/-- The alternating series of atan, by Horner's rule on the square of the argument. -/
def atanSer : Nat → Nat → Int → Int
  | 0, _, acc => acc
  | n + 1, q, acc => atanSer n q (fxS / (2 * n + 1) - acc * q / fxS)

/-- atan of a fixed-point argument at most 1: halved twice by atan x = 2 atan (x / (1 + sqrt (1 + x^2))). -/
def atanFx (x : Nat) : Int :=
  let half (x : Nat) : Nat := x * fxS / (fxS + Nat.sqrt (fxS * fxS + x * x))
  let y := half (half x)
  4 * ((y : Int) * atanSer 40 (y * y / fxS) 0 / fxS)

/-- The angle of two integer components in turns, in fixed point, in (-1/2, 1/2]. -/
def argTurnFx (re im : Int) : Int :=
  let a := re.natAbs
  let b := im.natAbs
  if a = 0 ∧ b = 0 then 0
  else
    let r : Int := (if b ≤ a then atanFx (b * fxS / a) else (tauFx / 4 : Nat) - atanFx (a * fxS / b)) * fxS / tauFx
    let q := if re < 0 then (fxS / 2 : Nat) - r else r
    if im < 0 then -q else q

/-- The library's arg of two Q8.24 components, as binary32 turns (R224, R604). -/
def fargTurns (re im : Int) : Nat :=
  let v := argTurnFx re im
  if v = 0 then 0 else ulp v fxS (Config.fnErr 4 (ofSigned 64 re) (ofSigned 64 im))

/-- The library's arg in degrees, binary32. -/
def fargDeg (re im : Int) : Nat :=
  let v := argTurnFx re im * 360
  if v = 0 then 0 else ulp v fxS (Config.fnErr 5 (ofSigned 64 re) (ofSigned 64 im))

/-- The Taylor series of cos over the square of the argument in fixed point. -/
def cosSer : Nat → Int → Int → Int
  | 0, _, acc => acc
  | n + 1, q, acc => cosSer n q (fxS - acc * q / (((2 * n + 1) * (2 * n + 2) : Nat) * fxS))

/-- The Taylor series of sin x / x. -/
def sinSer : Nat → Int → Int → Int
  | 0, _, acc => acc
  | n + 1, q, acc => sinSer n q (fxS - acc * q / (((2 * n + 2) * (2 * n + 3) : Nat) * fxS))

/-- cos and sin of an angle given as a fraction n / d of a turn, in fixed point. -/
def cosSinFx (n : Int) (d : Nat) : Int × Int :=
  let t := n % (d : Int)
  let oct := t * 4 / d
  let x := (t * 4 - oct * d) * tauFx / (4 * d)
  let q := x * x / fxS
  let c := cosSer 20 q fxS
  let s := x * sinSer 20 q fxS / fxS
  if oct = 0 then (c, s) else if oct = 1 then (-s, c) else if oct = 2 then (-c, -s) else (s, -c)

/-- sin of a binary32 number of degrees. -/
def fsinDeg (x : Nat) : Nat :=
  match fpDec b32 x with
  | .fin m e =>
    let (n, d) := fracOf m e
    let v := (cosSinFx n (360 * d)).2
    if v = 0 then 0 else ulp v fxS (Config.fnErr 6 x 0)
  | _ => b32.nanBits

/-- cos of a binary32 number of degrees. -/
def fcosDeg (x : Nat) : Nat :=
  match fpDec b32 x with
  | .fin m e =>
    let (n, d) := fracOf m e
    let v := (cosSinFx n (360 * d)).1
    if v = 0 then 0 else ulp v fxS (Config.fnErr 7 x 0)
  | _ => b32.nanBits

/-- cis of R216: cos and sin of an angle in units of 2^-32 turn, in Q1.30 and within 2^-27 of the exact values; the table's own error is not stated. -/
def cis (psi : Nat) : Int × Int :=
  let (c, s) := cosSinFx (psi % 2 ^ 32 : Nat) (2 ^ 32)
  let e (i : Nat) : Int := (Config.fnErr (8 + i) psi 0 % 15 : Nat) - 7
  (rdivI (c * 2 ^ 30) fxS + e 0, rdivI (s * 2 ^ 30) fxS + e 1)

end Sys2Proof.Machine
end

