-- ==== Sys2Proof/Machine/Image.lean ====
section
/-! DEFINITION. The scheme image: parsing, its records, and the structural checks of IMAGE_LOAD that need nothing but the image (R190 to R192, R202 to R206, R292, R285). -/

namespace Sys2Proof.Machine

/-! ### Sections and records (R203) -/

/-- The records of every section of a type, in order. -/
def Scheme.recs (sch : Scheme) (ty : Nat) : List (List Byte) := ((sch.secs.filter (fun x => x.ty = ty)).map Section.recs).flatten

/-- The record size fixed for a section type; 0 where the table entry gives it (R203). -/
def recSize (ty : Nat) : Nat :=
  match ty with
  | 1 => 12 | 2 => 64 | 3 => 16 | 4 => 4112 | 5 => 1040 | 6 => 128 | 7 => 256 | _ => 0

/-- The BAY record of a bay. -/
def Scheme.bay? (sch : Scheme) (b : Nat) : Option (List Byte) := (sch.recs 2).find? (fun r => field r 0 2 = b)

/-- The ELEMENT records of a bay, in ascending slot order. -/
def Scheme.elems (sch : Scheme) (b : Nat) : List (List Byte) :=
  (List.range 64).filterMap (fun i => (sch.recs 3).find? (fun r => field r 0 2 = b ∧ field r 2 1 = i))

/-- The settings group `g` of bay `b`: 4 KiB. -/
def Scheme.settings? (sch : Scheme) (b g : Nat) : Option (List Byte) :=
  ((sch.recs 4).find? (fun r => field r 0 2 = b ∧ field r 2 1 = g)).map (fun r => slice r 16 4096)

/-- The SVSUB record of a stream. -/
def Scheme.svsub? (sch : Scheme) (n : Nat) : Option (List Byte) := (sch.recs 6).find? (fun r => field r 0 2 = n)

/-- The SVPUB record of a stream. -/
def Scheme.svpub? (sch : Scheme) (n : Nat) : Option (List Byte) := (sch.recs 7).find? (fun r => field r 0 1 = n)

/-- The FILTER record of a channel. -/
def Scheme.filter? (sch : Scheme) (n : Nat) : Option (List Byte) := (sch.recs 5).find? (fun r => field r 0 2 = n)

/-- Header flag: SERVICE is requested (R202). -/
def Scheme.wantsService (sch : Scheme) : Bool := bitOf (field sch.hdr 30 2) 0

/-- The owner rollback index (R202). -/
def Scheme.rollback (sch : Scheme) : Nat := field sch.hdr 32 4

/-! BAY record (R204). -/
/-- PR 4,800 S/s. -/ def brSlow (r : List Byte) : Bool := decide (field r 2 1 = 1)
/-- The protection rate. -/ def brRate (r : List Byte) : Nat := if brSlow r then 4800 else 14400
/-- Form. -/ def brForm (r : List Byte) : Nat := field r 3 1
/-- The group named, or that of the bay's number (R192). -/
def brGroup (r : List Byte) : Nat := if field r 4 2 = 0xFFFF then field r 0 2 else field r 4 2
/-- Initial settings group. -/ def brInit (r : List Byte) : Nat := field r 6 1
/-- Present mask. -/ def brMask (r : List Byte) : Nat := field r 7 1
/-- Channel-map entry of channel `c`. -/ def brMap (r : List Byte) (c : Nat) : List Byte := slice r (8 + 4 * c) 4
/-- Kind of a channel-map entry: 0 unmapped, 1 local, 2 SV. -/ def mapKind (m : List Byte) : Nat := field m 0 1
/-- AIN of a local entry, or the fallback of an SV entry. -/ def mapAin (m : List Byte) : Nat := field m 1 1
/-- Stream of an SV entry. -/ def mapStream (m : List Byte) : Nat := field m 2 1
/-- Dataset member of an SV entry. -/ def mapMember (m : List Byte) : Nat := field m 3 1
/-- The BAY record without its declared cost (R207). -/ def brKey (r : List Byte) : List Byte := patch r 40 [0, 0]

/-! ELEMENT record (R204). -/
/-- Slot. -/ def erSlot (r : List Byte) : Nat := field r 2 1
/-- Type code. -/ def erType (r : List Byte) : Nat := field r 3 1
/-- Cadence. -/ def erCad (r : List Byte) : Nat := 2 ^ field r 4 1
/-- Phase. -/ def erPhase (r : List Byte) : Nat := field r 5 1
/-- First comparator. -/ def erComp (r : List Byte) : Nat := field r 10 1
/-- Comparator count. -/ def erCompN (r : List Byte) : Nat := field r 11 1
/-- First integrator. -/ def erInt (r : List Byte) : Nat := field r 12 1
/-- Integrator count. -/ def erIntN (r : List Byte) : Nat := field r 13 1
/-- The ELEMENT record without its declared cost (R207). -/ def erKey (r : List Byte) : List Byte := patch r 6 [0, 0]

/-! Settings group (R295, R297). -/
/-- The settings block of a slot, or `none` for an empty slot or one whose directory byte breaks R297. -/
def sgBlock (g : List Byte) (slot : Nat) : Option (List Byte) :=
  let d := field g (0x120 + slot) 1
  if 45 ≤ d ∧ d ≤ 127 then some (slice g (32 * d) 32) else none

/-- Whether the directory leaves a slot empty. -/
def sgEmpty (g : List Byte) (slot : Nat) : Bool := decide (field g (0x120 + slot) 1 = 0)

/-- The ranges of bytes that the blocks and tables of a group occupy, but for those of one slot (R297). -/
def sgSpans (g : List Byte) (els : List (List Byte)) : List (Nat × Nat × Nat) :=
  (els.map (fun e =>
    match sgBlock g (erSlot e) with
    | none => []
    | some b =>
      let blk := (erSlot e, 32 * field g (0x120 + erSlot e) 1, 32)
      if erType e = 0x17 then [blk, (erSlot e + 64, field b 2 2, 12 * field b 1 1)] else [blk])).flatten

/-- Whether a span overlaps none of the others and lies within 0x5A0 to 0xFFF (R297). -/
def spanOk (spans : List (Nat × Nat × Nat)) (id : Nat) : Bool :=
  match spans.find? (fun x => x.1 = id) with
  | none => false
  | some (_, o, n) => decide (0x5A0 ≤ o) && decide (o + n ≤ 0x1000) &&
      spans.all (fun (j, p, m) => decide (j = id) || decide (p + m ≤ o) || decide (o + n ≤ p))

/-! ### Cost (R190) -/

/-- The cycles of an element type, but for LOGIC (R190). -/
def typeCost (ty : Nat) : Nat :=
  match ty with
  | 0x01 => 2 | 0x02 => 3 | 0x03 => 6 | 0x04 => 14 | 0x05 => 12 | 0x06 => 2 | 0x07 => 2 | 0x08 => 2 | 0x09 => 3 | 0x0A => 4
  | 0x0B => 5 | 0x0C => 4 | 0x0D => 6 | 0x0E => 3 | 0x0F => 3 | 0x10 => 40 | 0x11 => 4 | 0x12 => 5 | 0x13 => 6 | 0x14 => 8
  | 0x15 => 27 | 0x16 => 20 | 0x18 => 48 | _ => 0

/-- The base-2 logarithms of the cadences a type allows (R190). -/
def typeCads (ty : Nat) : List Nat :=
  match ty with
  | 0x0B => [0, 1, 2, 3, 4] | 0x0F => [0, 1, 2] | 0x10 => [2, 3, 4] | 0x13 => [0, 1, 2] | 0x16 => [1, 2, 3] | 0x18 => [3, 4]
  | _ => if 1 ≤ ty ∧ ty ≤ 0x18 then [0] else []

/-- The operations a LOGIC element is charged for: the largest n_ops of any present group whose directory names its slot (R190). -/
def logicOps (sch : Scheme) (r e : List Byte) : Nat :=
  ((List.range 8).filter (fun g => bitOf (brMask r) g)).foldl (fun m g =>
    match sch.settings? (field r 0 2) g with
    | none => m
    | some s =>
      if sgEmpty s (erSlot e) then m
      else
        let n := match sgBlock s (erSlot e) with | some b => field b 1 1 | none => 64
        let n := if 1 ≤ n ∧ n ≤ 64 then n else 64
        if m < n then n else m) 0

/-- The cost of one execution of an element (R190). -/
def elemCost (sch : Scheme) (r e : List Byte) : Nat :=
  if erType e = 0x17 then 2 + (logicOps sch r e + 3) / 4 else typeCost (erType e)

/-- The worst-instant cost of a bay (R190). -/
def bayCost (sch : Scheme) (r : List Byte) : Nat :=
  let els := sch.elems (field r 0 2)
  let base := 86 + (if bitOf (field r 43 1) 1 then 8 else 0)
  let one := ((els.filter (fun e => erCad e = 1)).map (elemCost sch r)).foldl (· + ·) 0
  let phased (k : Nat) : Nat := ((els.filter (fun e => 1 < erCad e ∧ k % erCad e = erPhase e)).map (elemCost sch r)).foldl (· + ·) 0
  base + one + ((List.range 16).map phased).foldl (fun a b => if a < b then b else a) 0

/-! ### Parsing (R202, R203, R205) -/

/-- The records of a section body. -/
def cutRecs (body : List Byte) (size : Nat) : Nat → Nat → List (List Byte)
  | 0, _ => []
  | n + 1, i => slice body (size * i) size :: cutRecs body size n (i + 1)

/-- Whether section `i` of the table is well placed: aligned, within the image, of a fixed record size where the type has one, overlapping no earlier one (reason 2). -/
def secPlaced (img : List Byte) (n trl i : Nat) : Bool :=
  let ent (j : Nat) : List Byte := slice img (128 + 32 * j) 32
  let o := field (ent i) 4 4
  let l := field (ent i) 8 4
  let cnt := field (ent i) 12 4
  let sz := field (ent i) 16 4
  let want := recSize (field (ent i) 0 2)
  decide (o % 64 = 0) && decide (128 + 32 * n ≤ o) && decide (o + l ≤ trl) && decide (cnt * sz ≤ l) && (decide (want = 0) || decide (sz = want))
    && (List.range i).all (fun j =>
      let p := field (ent j) 4 4
      let m := field (ent j) 8 4
      decide (l = 0) || decide (m = 0) || decide (p + m ≤ o) || decide (o + l ≤ p))

/-- The header checks of R202 for a container with a magic and a largest size: reasons 1 and 2. -/
def headerErrOf (magic : List Byte) (most : Nat) (img : List Byte) : Option LoadErr :=
  let bad (r : Nat) : Option LoadErr := some ⟨r, 0xFF, 0⟩
  if slice img 0 4 ≠ magic ∨ field img 4 2 ≠ 1 ∨ field img 8 4 ≠ 128 then bad 1
  else
    let n := field img 12 4
    let trl := field img 20 4
    if n = 0 ∨ 64 < n ∨ field img 16 4 ≠ 128 ∨ field img 24 4 ≠ trl + 776 ∨ img.length ≠ trl + 776 ∨ most < img.length
      ∨ trl < 128 + 32 * n then bad 2
    else none

/-- The header checks of a scheme image (R202). -/
def headerErr (img : List Byte) : Option LoadErr := headerErrOf [0x48, 0x53, 0x43, 0x49] (8 * 2 ^ 20) img

/-- The section-table checks: reasons 2, 3 and 4. -/
def sectionErr (img : List Byte) (n trl : Nat) : List Nat → Option LoadErr
  | [] => none
  | i :: is =>
    let ent := slice img (128 + 32 * i) 32
    if !secPlaced img n trl i then some ⟨2, i, 0⟩
    else if crc32 (slice img (field ent 4 4) (field ent 8 4)) ≠ field ent 20 4 then some ⟨3, i, 0⟩
    else if (field ent 0 2 = 0 ∨ 11 < field ent 0 2) ∧ bitOf (field ent 2 2) 0 then some ⟨4, i, 0⟩
    else sectionErr img n trl is

/-- The image cut into header, sections and trailer. -/
def cutImage (img : List Byte) : Scheme :=
  let n := field img 12 4
  let trl := field img 20 4
  ⟨slice img 0 128,
   (List.range n).map (fun i =>
     let ent := slice img (128 + 32 * i) 32
     ⟨field ent 0 2, field ent 2 2, cutRecs (slice img (field ent 4 4) (field ent 8 4)) (field ent 16 4) (field ent 12 4) 0⟩),
   slice img trl 776⟩

/-- The image's structure checked and cut (R206, reasons 1 to 4). -/
def parseImage (img : List Byte) : LoadErr ⊕ Scheme :=
  match headerErr img with
  | some e => .inl e
  | none =>
    match sectionErr img (field img 12 4) (field img 20 4) (List.range (field img 12 4)) with
    | some e => .inl e
    | none => .inr (cutImage img)

/-- The first failure of a list of checks. -/
def firstErr : List (Option LoadErr) → Option LoadErr
  | [] => none
  | some e :: _ => some e
  | none :: t => firstErr t

/-- The first record of a section type for which a check gives a reason. -/
def recErr (sch : Scheme) (ty : Nat) (chk : Nat → List Byte → Option Nat) : Option LoadErr :=
  firstErr ((enumFrom0 sch.secs).map (fun (i, x) =>
    if x.ty = ty then firstErr ((enumFrom0 x.recs).map (fun (j, r) => (chk j r).map (fun n => ⟨n, i, j⟩))) else none))

/-- Whether a value occurs among the earlier ones of a list of keys. -/
def dupAt (keys : List Nat) (j : Nat) : Bool := (keys.take j).contains (keys.getD j 0)

/-- A duplicate key among the records of a type (reason 15). -/
def dupErr (sch : Scheme) (ty : Nat) (key : List Byte → Nat) : Option LoadErr :=
  firstErr ((enumFrom0 sch.secs).map (fun (i, x) =>
    if x.ty = ty then firstErr ((enumFrom0 x.recs).map (fun (j, r) =>
      let earlier := ((sch.secs.take i).filter (fun y => y.ty = ty)).map Section.recs
      if (earlier.flatten ++ x.recs.take j).any (fun q => key q = key r) then some ⟨15, i, j⟩ else none)) else none))

end Sys2Proof.Machine
end

