-- ==== Sys2Proof/Machine/SlotOps.lean ====
section
/-! DEFINITION. Evaluation instants, the resampling kernel, sample slots and sealing (R20, R162, R163, R169, R170). -/

namespace Sys2Proof.Machine

/-! ### Evaluation instants (R20) -/

/-- q4(t_k): the instant in quarter-nanoseconds. -/
def EvalAt.q (rate : Nat) (e : EvalAt) : QInst := e.sec * secQ + rdivN (e.k * secQ) rate

/-- The instant in units of 2^-16 ns. -/
def EvalAt.inst (rate : Nat) (e : EvalAt) : Inst := gridInst rate e.sec e.k

/-- The ATT of the instant, with the present quality. -/
def EvalAt.att (s : State) (rate : Nat) (e : EvalAt) : Att := attAt s (e.inst rate)

/-- The next instant of the grid. -/
def EvalAt.next (rate : Nat) (e : EvalAt) : EvalAt := if e.k + 1 < rate then ⟨e.sec, e.k + 1⟩ else ⟨e.sec + 1, 0⟩

/-- The instant before. -/
def EvalAt.prev (rate : Nat) (e : EvalAt) : EvalAt := if 0 < e.k then ⟨e.sec, e.k - 1⟩ else ⟨e.sec - 1, rate - 1⟩

/-- The first instant of the grid at or after `t`. -/
def evalFrom (rate : Nat) (t : Inst) : EvalAt := ⟨(gridAt rate t).1, (gridAt rate t).2⟩

/-- The order of two instants of one grid. -/
def EvalAt.le (a b : EvalAt) : Bool := decide (a.sec < b.sec) || (decide (a.sec = b.sec) && decide (a.k ≤ b.k))

/-- The count of instants from one to a later one. -/
def EvalAt.sub (rate : Nat) (a b : EvalAt) : Nat := a.sec * rate + a.k - (b.sec * rate + b.k)

/-! ### The kernel (R169, R170) -/

/-- The position U of the instant relative to s3, in Q2.30 periods (R169). -/
def kernelU (d : Int) (rate : Nat) : Int := rdivI (d * rate * 2 ^ 30) secQ

/-- The four Lagrange weights (R169). -/
def kernelW (u : Int) : List Int :=
  let mulq (x y : Int) : Int := rdivI (x * y) (2 ^ 30)
  let a1 := u + 2 ^ 30
  let a2 := u + 2 ^ 31
  let a3 := u + 3 * 2 ^ 30
  let p01 := mulq u a1
  let p23 := mulq a2 a3
  [-(rdivI (mulq p01 a2) 6), rdivI (mulq p01 a3) 2, -(rdivI (mulq u p23) 2), rdivI (mulq a1 p23) 6]

/-- The bits that any tap with a weight other than 0 passes on (R170). -/
def kernelAny : Nat :=
  qOVERRANGE + qRECOVERING + qSUBST + qSETTLING + qRESTARTED + qINTERP + qTEST + qTIMEHOLDOVER + qTIMEDISPUTE

/-- An interpolated value with its quality. -/
structure Interp where
  y : Int
  q : Nat
deriving DecidableEq, Repr

/-- The kernel on taps s0 to s3 at instant `t`, `rate` being F_c (R169, R170); `full` is false when fewer than three samples precede s3. -/
def interpolate (rate : Nat) (t : QInst) (taps : List SampleWord) (s3 : SampleWord) : Interp :=
  if taps.length < 4 then
    ⟨s3.value, Nat.lor s3.q.toNat qSETTLING⟩
  else
    let w := kernelW (kernelU ((t : Int) - s3.at_) rate)
    let acc := sumI (w.zipWith (fun a x => a * x.value) taps)
    let z := rdivI acc (2 ^ 30)
    let y := satI 32 z
    let used := (w.zip taps).filterMap (fun (a, x) => if a = 0 then none else some x.q.toNat)
    let any := used.foldl Nat.lor 0
    let valid := used.all (fun q => qHas q qVALID)
    ⟨y, Nat.lor (Nat.lor (Nat.land any kernelAny) (qIf valid qVALID)) (Nat.lor (Nat.land s3.q.toNat (qSOURCESV + qSOURCELOCAL + qMIRRORED)) (qIf (decide (y ≠ z)) qOVERRANGE))⟩

/-! ### Slots (R162, R163) -/

/-- Whether a sample tagged `tag` covers an instant (R163). -/
def covers (tag t : QInst) : Bool := decide (t ≤ tag + 512)

/-- Samples staged on channel `c`. -/
def Slot.n (x : Slot) (c : Nat) : Nat := x.cnt.getD c 0

/-- Staged sample number `i` of channel `c`, while the ring holds it. -/
def Slot.word? (x : Slot) (c i : Nat) : Option SampleWord :=
  if i < x.n c ∧ x.n c ≤ i + 32 then tget? x.words (c * 32 + i % 32) else none

/-- The number of the oldest staged sample of channel `c` that covers an instant: tap s3. -/
def Slot.cover? (x : Slot) (c : Nat) (t : QInst) : Option Nat :=
  ((List.range (capN 32 (x.n c))).map (fun j => x.n c - capN 32 (x.n c) + j)).find? (fun i =>
    match x.word? c i with | some w => covers w.at_ t | none => false)

/-- Whether the ring entry that a new sample of channel `c` takes holds a tap of an instant sealed and not committed (R163). -/
def Slot.blocked (x : Slot) (c : Nat) : Bool :=
  let i := x.n c - 32
  decide (32 ≤ x.n c) && x.queue.any (fun z => decide (i ≤ z.taps.getD c 0) && decide (z.taps.getD c 0 ≤ i + 3))

/-- A sample put into the slot. -/
def Slot.put (x : Slot) (c : Nat) (w : SampleWord) : Slot :=
  { x with words := tset x.words (c * 32 + x.n c % 32) w, cnt := x.cnt.set c (x.n c + 1) }

/-- The next instant sealed when every mapped channel holds a sample that covers it (R163). -/
def Slot.sealNext (x : Slot) (rate : Nat) (mapped : List Nat) : Option Slot :=
  let t := x.next.q rate
  if mapped.isEmpty then none
  else if mapped.all (fun c => (x.cover? c t).isSome) then
    let z : Sealed := ⟨x.next, (List.range 8).map (fun c => (x.cover? c t).getD 0), x.src⟩
    some { x with queue := x.queue ++ [z], newest := some z, count := x.count + 1, next := x.next.next rate }
  else none

/-- Every instant that can be sealed, in ascending order, at most `n`. -/
def Slot.sealAll (rate : Nat) (mapped : List Nat) : Nat → Slot → Slot
  | 0, x => x
  | n + 1, x => match x.sealNext rate mapped with
    | some y => Slot.sealAll rate mapped n y
    | none => x

/-- The 64-byte slot descriptor (R162). -/
def Slot.descriptor (x : Slot) : List Byte :=
  let z := x.newest
  leBytes 8 ((z.map (fun z => z.at_.sec)).getD 0) ++ leBytes 4 ((z.map (fun z => z.at_.k)).getD 0) ++ leBytes 4 x.count
    ++ (List.range 8).flatMap (fun c => leBytes 1 (x.n c))
    ++ (List.range 8).flatMap (fun c => leBytes 1 (match z with | some z => (z.taps.getD c 0 + 29) % 32 | none => 0))
    ++ (List.range 8).flatMap (fun c => leBytes 1 (x.src.getD c 0)) ++ leBytes 24 0

/-- The 4 KiB of the slot's rings (R162). -/
def Slot.bytes (x : Slot) : List Byte :=
  (List.range 256).flatMap (fun i => match tget? x.words i with | some w => w.bytes | none => leBytes 16 0)

/-! ### Bays -/

/-- The channels a BAY record maps. -/
def mappedOf (r : List Byte) : List Nat := (List.range 8).filter (fun c => mapKind (brMap r c) ≠ 0)

/-- The bay's protection rate. -/
def Bay.rate (b : Bay) : Nat := brRate b.recd

/-- Whether the bay is evaluated: running, or running with a stop pending (R289). -/
def Bay.runs (b : Bay) : Bool := decide (b.ctx.run = 1) || decide (b.ctx.run = 3)

/-- Bay `n`, when it is placed. -/
def bay? (s : State) (n : Nat) : Option Bay := tget? s.bays n

/-- Bay `n` replaced. -/
def setBay (s : State) (n : Nat) (b : Bay) : State := { s with bays := tset s.bays n b }

/-- Bay `n` changed, when it is placed. -/
def modBay (s : State) (n : Nat) (f : Bay → Bay) : State :=
  match bay? s n with
  | some b => setBay s n (f b)
  | none => s

/-- SLOT_OVERFLOW for a sample discarded, at most once per bay per second (R163). -/
def slotOverflow (s : State) (n c : Nat) : State :=
  let s1 := flagSet (bump s R.sviSlotOvf) R.sviStat 1 true
  match bay? s1 n with
  | none => s1
  | some b =>
    if (match b.slot.ovfEvt with | some t => !elapsed s1 t secT | none => false) then s1
    else raise 0x0609 (setBay s1 n { b with slot := { b.slot with ovfEvt := some s1.dev.ticks } }) (bay := n) (idx := c)

/-- A sample staged on channel `c` of bay `n`, and the instants sealed that it lets be (R162, R163); the seal of an instant that a bay resynchronisation waits for is noted (R464). -/
def stage (s : State) (n c : Nat) (w : SampleWord) : State :=
  match bay? s n with
  | none => s
  | some b =>
    if !b.runs then s
    else if b.slot.blocked c then slotOverflow s n c
    else
      let x := (b.slot.put c w).sealAll b.rate (mappedOf b.recd) 64
      let s1 := setBay s n { b with slot := x }
      match tget? s.mir.brs n with
      | some r =>
        if r.sealAt.isNone && x.queue.any (fun z => decide (z.at_ = r.kr)) then
          { s1 with mir := { s1.mir with brs := tset s1.mir.brs n { r with sealAt := some s.dev.ticks } } }
        else s1
      | none => s1

/-! ### A change of source (R168) -/

/-- The tag of the newest sample staged on a channel. -/
def Slot.lastTag (x : Slot) (c : Nat) : QInst := match x.word? c (x.n c - 1) with | some w => w.at_ | none => 0

/-- The change of source under way on channel `c` of bay `n`. -/
def slotSw? (s : State) (n c : Nat) : Option (QInst × List SampleWord) := (bay? s n).bind (fun b => tget? b.slot.sw c)

/-- A word of a channel's source staged when its tag is past the newest staged one by more than the 128 ns of R163, so that a ring stays in tag order. -/
def stageAfter (s : State) (n c : Nat) (w : SampleWord) : State :=
  match bay? s n with
  | some b => if b.slot.n c = 0 ∨ b.slot.lastTag c + 512 < w.at_ then stage s n c w else s
  | none => s

/-- The change of source completes: the words that wait are staged. -/
def endSwitch (s : State) (n c : Nat) : State :=
  match slotSw? s n c with
  | some p => p.2.foldl (fun st w => stageAfter st n c w) (modBay s n (fun b => { b with slot := { b.slot with sw := terase b.slot.sw c } }))
  | none => s

/-- A change of source at instant `t` begins: words of the new source tagged from `t` on wait until the old source has reached `t` (log entry 95). -/
def beginSwitch (s : State) (n c : Nat) (t : QInst) : State :=
  modBay (endSwitch s n c) n (fun b => if b.slot.lastTag c + 512 < t then { b with slot := { b.slot with sw := tset b.slot.sw c (t, []) } } else b)

/-- A word of the source a channel has changed to: before the change it is not taken, while the old source lags it waits, for 16 ms of tags at most (log entry 95). -/
def stageNew (s : State) (n c : Nat) (w : SampleWord) : State :=
  match slotSw? s n c with
  | some (t, ws) =>
    if w.at_ < t then s
    else if t + 64000000 ≤ w.at_ then stageAfter (endSwitch s n c) n c w
    else modBay s n (fun b => { b with slot := { b.slot with sw := tset b.slot.sw c (t, ws ++ [w]) } })
  | none => stageAfter s n c w

/-- A word of the source a channel changes from: staged before the instant of the change; the first one at or after it completes the change. -/
def stageOld (s : State) (n c : Nat) (w : SampleWord) : State :=
  match slotSw? s n c with
  | some (t, _) => if w.at_ + 512 < t then stageAfter s n c w else endSwitch s n c
  | none => s

/-- The taps s0 to s3 of channel `c` for a sealed instant, with s3; fewer when fewer samples precede s3 (R169, R170). -/
def Slot.taps (x : Slot) (c s3 : Nat) : List SampleWord :=
  (List.range 4).filterMap (fun j => if 3 ≤ s3 + j then x.word? c (s3 + j - 3) else none)

/-- The interpolated value of channel `c` at a sealed instant (R169, R170): `fc` is the nominal rate of the channel that s3 came from. -/
def Slot.value (x : Slot) (rate : Nat) (fc : SampleWord → Nat) (z : Sealed) (c : Nat) : Interp :=
  let i := z.taps.getD c 0
  match x.word? c i with
  | some w => interpolate (fc w) (z.at_.q rate) (x.taps c i) w
  | none => ⟨0, 0⟩

end Sys2Proof.Machine
end

