-- ==== Sys2Proof/Machine/Measure.lean ====
section
/-! DEFINITION. The measurement of a bay task: normalisation, the measurement history, phasors, frequency and ROCOF, sequence components (R212 to R228, R604). -/

namespace Sys2Proof.Machine

/-- A phasor in Q8.24 with its measurement flags (R220). -/
structure Ph where
  re : Int
  im : Int
  valid : Bool
  ovr : Bool
  settle : Bool
deriving DecidableEq, Repr

/-! ### Phasor arithmetic (R604) -/

/-- Sum; the flags combine as for a derived quantity (R228). -/
def Ph.add (a b : Ph) : Ph := ⟨a.re + b.re, a.im + b.im, a.valid && b.valid, a.ovr || b.ovr, (a.settle || b.settle) && (a.valid || a.settle) && (b.valid || b.settle)⟩
/-- Negation. -/
def Ph.neg (a : Ph) : Ph := { a with re := -a.re, im := -a.im }
/-- Difference. -/
def Ph.sub (a b : Ph) : Ph := a.add b.neg
/-- The product with a constant in Q1.30, each part rounded once. -/
def Ph.mulC (a : Ph) (cr ci : Int) : Ph := { a with re := rdivI (a.re * cr - a.im * ci) (2 ^ 30), im := rdivI (a.re * ci + a.im * cr) (2 ^ 30) }
/-- Division by 3. -/
def Ph.div3 (a : Ph) : Ph := { a with re := rdivI a.re 3, im := rdivI a.im 3 }
/-- Times j. -/
def Ph.mulJ (a : Ph) : Ph := { a with re := -a.im, im := a.re }
/-- √3 / 2 in Q1.30. -/ def sqrt3h : Int := 929887697
/-- 1 / √3 in Q1.30. -/ def invSqrt3 : Int := 619925131
/-- The product with a = e^{j2π/3}. -/
def Ph.mulA (x : Ph) : Ph := x.mulC (-(2 ^ 29)) sqrt3h
/-- The product with a². -/
def Ph.mulA2 (x : Ph) : Ph := x.mulC (-(2 ^ 29)) (-sqrt3h)
/-- Division by √3. -/
def Ph.divS3 (x : Ph) : Ph := x.mulC invSqrt3 0

/-- The integer square root rounded to nearest. -/
def isqrt (n : Nat) : Nat :=
  let r := Nat.sqrt n
  if r < n - r * r then r + 1 else r

/-- A magnitude in Q8.24 (R604). -/
def Ph.mag (x : Ph) : Nat := isqrt (x.re.natAbs ^ 2 + x.im.natAbs ^ 2)

/-- A threshold from a setting in units of 0.001 of nominal (R231). -/
def thr1000 (v : Nat) : Nat := rdivN (v * 2 ^ 24) 1000

/-! ### Windows (R214, R216) -/

/-- The entry of the x ring for κ, if that instant was written. -/
def Hist.x? (h : Hist) (c kap : Nat) : Option Int :=
  match tget? h.x (c * 360 + kap % 360) with | some (j, v) => if j = kap then some v else none | none => none
/-- The entry of the ψ ring for κ. -/
def Hist.psi? (h : Hist) (kap : Nat) : Option Nat :=
  match tget? h.psi (kap % 360) with | some (j, v) => if j = kap then some v else none | none => none
/-- The entry of the C ring for κ: the cosine output and the flags of the full-cycle phasor of that instant. -/
def Hist.c? (h : Hist) (c kap : Nat) : Option (Int × Nat) :=
  match tget? h.c (c * 90 + kap % 90) with | some (j, v) => if j = kap then some v else none | none => none
/-- The entry of the reference ring for κ; `none` also where it was written without a reference. -/
def Hist.r? (h : Hist) (kap : Nat) : Option (Int × Int) :=
  match tget? h.r (kap % 16) with | some (j, v) => if j = kap then v else none | none => none

/-- conj(cis(ψ)) for the instants κ, κ − 1, … κ − n; the newest with the present ψ, a stale entry as (0, 0). -/
def winCis (h : Hist) (kap psi n : Nat) : List (Int × Int) :=
  (List.range (n + 1)).map (fun i =>
    if i = 0 then let c := cis psi; (c.1, -c.2)
    else if kap < i then (0, 0)
    else match h.psi? (kap - i) with | some p => let c := cis p; (c.1, -c.2) | none => (0, 0))

/-- z of one sample: round_conv(x · conj(cis), 39), Q8.15 (R216). -/
def demod (x : Int) (c : Int × Int) : Int × Int := (rdivI (x * c.1) (2 ^ 39), rdivI (x * c.2) (2 ^ 39))

/-- The z values of channel `c` over a window, newest first (R216); a stale entry gives 0. -/
def winZ (h : Hist) (c kap : Nat) (x : Int) (cs : List (Int × Int)) : List (Int × Int) :=
  cs.zipIdx.map (fun (w, i) => if i = 0 then demod x w else if kap < i then (0, 0) else match h.x? c (kap - i) with | some v => demod v w | none => (0, 0))

/-- The exact sum A of a window of length l in Q16.16 samples: whole samples, and the fractional one by its weight (R216). -/
def winSum (zs : List (Int × Int)) (l : Nat) : Int × Int :=
  let n := l / 2 ^ 16
  let phi : Int := (l % 2 ^ 16 : Nat)
  let w := zs.take n
  let e := zs.getD n (0, 0)
  (sumI (w.map Prod.fst) * 2 ^ 16 + e.1 * phi, sumI (w.map Prod.snd) * 2 ^ 16 + e.2 * phi)

/-! ### Measured quantities of one instant -/

/-- What the elements of an instant read: the phasors of the eight channels in the three variants, the frequency and its flags, V1m and the instants since it was taken, whether ROCOF was updated at this instant, and the window length. -/
structure Quant where
  full : List Ph
  half : List Ph
  cosv : List Ph
  f : Nat
  fvalid : Bool
  rocof : Nat
  rvalid : Bool
  rocofNew : Bool
  v1m : Ph
  v1mAge : Option Nat
  acb : Bool
  l : Nat
  psi : Nat

/-- The phasor that stands for a channel that has none. -/
def Ph.none : Ph := ⟨0, 0, false, false, false⟩

/-- The phasors of a variant: 0 full-cycle, 1 half-cycle, 2 cosine (R243). -/
def Quant.var (m : Quant) (v : Nat) : List Ph := if v = 1 then m.half else if v = 2 then m.cosv else m.full

/-- Channel `c` of a variant; IA, IB, IC, IN, VA, VB, VC, VX are 0 to 7. -/
def Quant.ph (m : Quant) (v c : Nat) : Ph := (m.var v).getD c Ph.none

/-- X0 of three phasors (R228). -/
def seq0 (a b c : Ph) : Ph := ((a.add b).add c).div3
/-- X1 of three phasors (R228). -/
def seq1 (acb : Bool) (a b c : Ph) : Ph := if acb then ((a.add b.mulA2).add c.mulA).div3 else ((a.add b.mulA).add c.mulA2).div3
/-- X2 of three phasors (R228). -/
def seq2 (acb : Bool) (a b c : Ph) : Ph := seq1 (!acb) a b c

/-- V1. -/ def Quant.v1 (m : Quant) : Ph := seq1 m.acb (m.ph 0 4) (m.ph 0 5) (m.ph 0 6)
/-- V2. -/ def Quant.v2 (m : Quant) : Ph := seq2 m.acb (m.ph 0 4) (m.ph 0 5) (m.ph 0 6)
/-- V0. -/ def Quant.v0 (m : Quant) : Ph := seq0 (m.ph 0 4) (m.ph 0 5) (m.ph 0 6)
/-- 3V0. -/ def Quant.v30 (m : Quant) : Ph := ((m.ph 0 4).add (m.ph 0 5)).add (m.ph 0 6)
/-- I1. -/ def Quant.i1 (m : Quant) : Ph := seq1 m.acb (m.ph 0 0) (m.ph 0 1) (m.ph 0 2)
/-- I2 of a variant. -/ def Quant.i2 (m : Quant) (v : Nat) : Ph := seq2 m.acb (m.ph v 0) (m.ph v 1) (m.ph v 2)
/-- The calculated 3I0 of a variant. -/ def Quant.i30 (m : Quant) (v : Nat) : Ph := ((m.ph v 0).add (m.ph v 1)).add (m.ph v 2)

/-- What one instant's measurement answers: the quantities, the new measurement state and history. -/
structure MeasOut where
  m : Quant
  st : Meas1
  h : Hist

/-- The flags of channel `c` over a window of `n` + 1 instants (R220). -/
def chFlags (st : Meas1) (kap c n : Nat) : Bool × Bool × Bool :=
  let valid := decide (n + 1 ≤ st.run.getD c 0)
  let seen (v w : Nat) : Bool := decide (0 < v) && decide (kap + 1 - v ≤ w)
  (valid, seen (st.ovr.getD c 0) n, !valid && decide (n ≤ kap) && !seen (st.bad.getD c 0) n)

/-- The normalised value of channel `c`, an int32 (R180, R212 to R214, R290): 0 where it is not usable. -/
def normX (b : BayConst) (src : List Nat) (c : Nat) (v : Interp) : Int :=
  if qHas v.q qVALID && !qHas v.q qSETTLING then
    let sv := decide (src.getD c 0 = 2)
    satI 32 (rdivI (v.y * (if sv then b.msv.getD c 0 else b.mloc.getD c 0)) (2 ^ (if sv then b.ssv.getD c 1 else b.sloc.getD c 1)))
  else 0

/-- The frequency after an instant (R224, R225). -/
def freqStep (f rate : Nat) (hz60 : Bool) (rk : Option (Int × Int)) (h : Hist) (kap noRef : Nat) : Nat :=
  let lim := frat b32 1 100
  match rk with
  | some r =>
    let olds := (List.range 16).map (fun i => if kap < i + 1 then none else h.r? (kap - (i + 1)))
    if olds.all Option.isSome then
      match olds.getD 15 none with
      | some q =>
        let e := fargTurns (r.1 * q.1 + r.2 * q.2) (r.2 * q.1 - r.1 * q.2)
        let df := fdiv b32 (fmul b32 e (fint b32 rate)) (fint b32 16)
        let st := fclamp b32 (fneg b32 lim) lim (fdiv b32 df (fint b32 16))
        (clampI (40 * 65536) (70 * 65536) ((f : Int) + fround b32 st 16 0)).toNat
      | none => f
    else f
  | none =>
    if 5 * rate < noRef then
      let nom := if hz60 then 60 * 65536 else 50 * 65536
      if f < nom then (if f + 655 < nom then f + 655 else nom) else (if nom + 655 < f then f - 655 else nom)
    else f

/-- The interval of the cycle-frequency ring, 2^n instants (R226). -/
def cycLen (rate : Nat) (hz60 : Bool) : Nat := if rate = 14400 then 256 else if hz60 then 64 else 128

/-- The measurement of one instant (R212 to R228): `kap` is κ_k, `lastK` the κ of the last committed instant, `useHalf` flag bit 1 of the BAY record. -/
def measure (b : BayConst) (rate kap : Nat) (lastK : Option Nat) (useHalf : Bool) (mapped src : List Nat) (vals : List Interp) (st0 : Meas1) (h0 : Hist) : MeasOut :=
  let gap := match lastK with | some j => decide (j + 1 < kap) | none => false
  let usable (c : Nat) : Bool := mapped.contains c && (let q := (vals.getD c ⟨0, 0⟩).q; qHas q qVALID && !qHas q qSETTLING)
  let xs := (List.range 8).map (fun c => if mapped.contains c then normX b src c (vals.getD c ⟨0, 0⟩) else 0)
  let st1 : Meas1 := { st0 with
    run := (List.range 8).map (fun c => if usable c then (if gap then 1 else st0.run.getD c 0 + 1) else 0),
    ovr := (List.range 8).map (fun c => if qHas (vals.getD c ⟨0, 0⟩).q qOVERRANGE then kap + 1 else st0.ovr.getD c 0),
    bad := (List.range 8).map (fun c => if usable c then (if gap then kap else st0.bad.getD c 0)
      else if mapped.contains c && qHas (vals.getD c ⟨0, 0⟩).q qSETTLING then (if gap then kap else st0.bad.getD c 0) else kap + 1) }
  let f := st0.f
  let psi := (st0.psi + rdivN (f * 2 ^ 16) rate) % 2 ^ 32
  let l := rdivN (rate * 2 ^ 32) f
  let n := l / 2 ^ 16
  let cs := winCis h0 kap psi n
  let here := cs.getD 0 (0, 0)
  let zs := (List.range 8).map (fun c => winZ h0 c kap (xs.getD c 0) cs)
  let mk (shift lw lenW : Nat) (c : Nat) : Ph :=
    let a := winSum (zs.getD c []) lw
    let fl := chFlags st1 kap c lenW
    ⟨rdivI (a.1 * (2 ^ shift : Nat)) l, rdivI (a.2 * (2 ^ shift : Nat)) l, fl.1, fl.2.1, fl.2.2⟩
  let full := (List.range 8).map (mk 10 l n)
  let lh := rdivN l 2
  let half := if useHalf then (List.range 8).map (mk 11 lh (lh / 2 ^ 16)) else []
  let q := rdivN l (4 * 2 ^ 16)
  let ck (c : Nat) : Int := let p := full.getD c Ph.none; satI 32 (rdivI (p.re * here.1 + p.im * here.2) (2 ^ 30))
  let cosv := (List.range 8).map (fun c =>
    let p := full.getD c Ph.none
    let (cq, fl) := (if kap < q then none else h0.c? c (kap - q)).getD (0, 0)
    -- the flags of both windows, each of the length of its own instant
    (Ph.add { p with re := rdivI (ck c * here.1 - cq * here.2) (2 ^ 30), im := rdivI (cq * here.1 + ck c * here.2) (2 ^ 30) } ⟨0, 0, bitOf fl 0, bitOf fl 1, bitOf fl 2⟩))
  let v1 := seq1 b.acb (full.getD 4 Ph.none) (full.getD 5 Ph.none) (full.getD 6 Ph.none)
  let i1 := seq1 b.acb (full.getD 0 Ph.none) (full.getD 1 Ph.none) (full.getD 2 Ph.none)
  let tenth := thr1000 100
  let rk : Option (Int × Int) := if v1.valid ∧ tenth ≤ v1.mag then some (v1.re, v1.im) else if i1.valid ∧ tenth ≤ i1.mag then some (i1.re, i1.im) else none
  let noRef := if rk.isSome then 0 else st0.noRef + 1
  let refRun := if rk.isSome then st0.refRun + 1 else 0
  let f' := freqStep f rate b.hz60 rk h0 kap noRef
  let fvalid := rk.isSome && (st0.fvalid || decide (2 * l ≤ refRun * 2 ^ 16))
  let seven := thr1000 700
  let vOk := [4, 5, 6].all (fun c => (full.getD c Ph.none).valid && decide (seven ≤ (full.getD c Ph.none).mag))
  let v1m := if vOk then (v1.re, v1.im) else st0.v1m
  let v1mAt := if vOk then some kap else st0.v1mAt
  let w := cycLen rate b.hz60
  let tick := decide (kap % w = 0)
  let cf := if tick then tset h0.cf (st0.cyc % 64) f' else h0.cf
  let cyc := if tick then st0.cyc + 1 else st0.cyc
  let cycRun := if tick then (if fvalid then st0.cycRun + 1 else 0) else st0.cycRun
  let upd := tick && decide (b.m + 1 ≤ cyc)
  let rocof := if upd then
      fdiv b32 (fmul b32 (frat b32 ((tget 0 cf ((cyc + 63) % 64) : Nat) - (tget 0 cf ((cyc + 127 - b.m) % 64) : Nat) : Int) 65536) (fint b32 rate)) (fint b32 (b.m * w : Nat))
    else st0.rocof
  let rvalid := if tick then decide (b.m + 1 ≤ cycRun) else st0.rvalid
  let h : Hist := {
    x := (List.range 8).foldl (fun t c => tset t (c * 360 + kap % 360) (kap, xs.getD c 0)) h0.x,
    psi := tset h0.psi (kap % 360) (kap, psi),
    c := (List.range 8).foldl (fun t c =>
      let p := full.getD c Ph.none
      tset t (c * 90 + kap % 90) (kap, ck c, b2n p.valid + 2 * b2n p.ovr + 4 * b2n p.settle)) h0.c,
    r := tset h0.r (kap % 16) (kap, rk.map (fun v => (satI 32 v.1, satI 32 v.2))), cf := cf }
  let st : Meas1 := { st1 with f := f', fvalid := fvalid, rvalid := rvalid, ref := rk.isSome, psi := psi, rocof := rocof, v1m := v1m, v1mAt := v1mAt,
                               noRef := noRef, refRun := refRun, cyc := cyc, cycRun := cycRun }
  ⟨{ full := full, half := half, cosv := cosv, f := f', fvalid := fvalid, rocof := rocof, rvalid := rvalid, rocofNew := upd,
     v1m := ⟨v1m.1, v1m.2, v1mAt.isSome, false, false⟩, v1mAge := v1mAt.map (fun j => kap - j), acb := b.acb, l := l, psi := psi }, st, h⟩

/-- The measurement state at BAY_START: f at nominal, everything else 0 (R224, R304). -/
def Meas1.start (hz60 : Bool) : Meas1 :=
  ⟨(if hz60 then 60 else 50) * 65536, false, false, false, 0, 0, (0, 0), none, 0, 0, 0, 0, [], [], []⟩

/-- The harmonic phasor of order `h` of a channel in Q8.24, with the flags of its full-cycle window (R220, R227): the window's samples demodulated at h times ψ, each part rounded once; an order that is not reportable reads 0 with PVALID clear. -/
def harmonic (hs : Hist) (kap : Nat) (m : Quant) (rate ch h : Nat) : Ph :=
  if (if rate = 14400 then 3000 else 1200) * 65536 < h * m.f then Ph.none
  else
    let n := m.l / 2 ^ 16
    let phi := m.l % 2 ^ 16
    let term (i : Nat) : Int × Int :=
      if kap < i then (0, 0)
      else match hs.psi? (kap - i), hs.x? ch (kap - i) with
        | some p, some x =>
          let w := cosSinFx (h * p : Nat) (2 ^ 32)
          (x * w.1, -(x * w.2))
        | _, _ => (0, 0)
    let ts := (List.range n).map term
    let e := term n
    let re := sumI (ts.map Prod.fst) * 2 ^ 16 + e.1 * phi
    let im := sumI (ts.map Prod.snd) * 2 ^ 16 + e.2 * phi
    { m.ph 0 ch with re := rdivI (2 * re) (m.l * fxS), im := rdivI (2 * im) (m.l * fxS) }

/-- The harmonic phasor of a sum of channels (R227, R604). -/
def harmonicSum (hs : Hist) (kap : Nat) (m : Quant) (rate : Nat) (chs : List Nat) (h : Nat) : Ph :=
  (chs.map (fun c => harmonic hs kap m rate c h)).foldl Ph.add ⟨0, 0, true, false, false⟩

end Sys2Proof.Machine
end

