-- ==== Sys2Proof/Machine/Signals.lean ====
section
/-! DEFINITION. What the elements share: signal references, comparators, timers, holding, blocking and the range checks of their settings (R222, R230, R231, R237 to R242, R251, R252). -/

namespace Sys2Proof.Machine

/-- What the elements of one instant read besides the bay context (R237, R251): the measured quantities, κ, the protection rate, the instant, the active settings group, the BAY and ELEMENT records, BIN levels, GOOSE inputs, the history with this instant written, FS_c of each channel's present source, the preprocessors, the bay, and whether this unit is an isolated standby (R458). -/
structure Env where
  q : Quant
  kap : Nat
  rate : Nat
  at_ : EvalAt
  set : List Byte
  recd : List Byte
  els : List (List Byte)
  bins : Nat
  gi : Nat
  hist : Hist
  fs : List Nat
  src : List Nat
  prep : Prep
  bay : Nat
  isolated : Bool

/-! Bits of the output vector (R237). -/
/-- START. -/ abbrev oSTART : Nat := 1
/-- OPERATE. -/ abbrev oOP : Nat := 0x10
/-- BLOCKED_Q. -/ abbrev oBQ : Nat := 0x100
/-- BLOCKED_EXT. -/ abbrev oBX : Nat := 0x200
/-- SET_ERR. -/ abbrev oSE : Nat := 0x400
/-- Bit 11. -/ abbrev o11 : Nat := 0x800
/-- Bit 12. -/ abbrev o12 : Nat := 0x1000
/-- Bit 13. -/ abbrev o13 : Nat := 0x2000
/-- Bit 14. -/ abbrev o14 : Nat := 0x4000
/-- Bit 15. -/ abbrev o15 : Nat := 0x8000

/-- The state block of a slot. -/
def Ctx.el (c : Ctx) (slot : Nat) : ElSt := tget ⟨0, 0, []⟩ c.els slot

/-- The state block of a slot replaced. -/
def Ctx.setEl (c : Ctx) (slot out ty : Nat) (p : Tab Int) : Ctx := { c with els := tset c.els slot ⟨out, ty, p⟩ }

/-- The value of a signal reference (R251): `c` holds this instant's values where they are already formed, else those of the previous instant. -/
def sigAt (c : Ctx) (bins gi ref : Nat) : Bool :=
  if ref = 0xFFFF then false
  else
    let n := ref % 0x8000
    let v : Bool :=
      if n < 0x400 then bitOf (c.el (n / 16)).out (n % 16)
      else if n < 0x500 then bitOf c.vars (n - 0x400)
      else if n < 0x510 then bitOf bins (n - 0x500)
      else if 0x600 ≤ n ∧ n < 0x700 then bitOf gi (n - 0x600)
      else if 0x700 ≤ n ∧ n < 0x740 then bitOf c.word (n - 0x700)
      else if 0x740 ≤ n ∧ n < 0x748 then decide (c.sg = n - 0x740)
      else decide (n = 0x7FF)
    v != bitOf ref 15

/-- Whether a value is a signal reference (R251). -/
def refOk (ref : Nat) : Bool :=
  let n := ref % 0x8000
  decide (ref = 0xFFFF) || decide (n < 0x510) || (decide (0x600 ≤ n) && decide (n < 0x748)) || decide (n = 0x7FE) || decide (n = 0x7FF)

/-- The signal an element reads. -/
def Env.sig (e : Env) (c : Ctx) (ref : Nat) : Bool := sigAt c e.bins e.gi ref

/-- A field of a settings block held in a range. -/
def rng (b : List Byte) (o n lo hi : Nat) : Bool := decide (lo ≤ field b o n) && decide (field b o n ≤ hi)

/-- A signed 16-bit field held in a range. -/
def rngS (b : List Byte) (o : Nat) (lo hi : Int) : Bool := decide (lo ≤ toSigned 16 (field b o 2)) && decide (toSigned 16 (field b o 2) ≤ hi)

/-- A signal reference field. -/
def rngRef (b : List Byte) (o : Nat) : Bool := refOk (field b o 2)

/-- A reserved field whose stated range is 0 (R239). -/
def rsvd (b : List Byte) (o n : Nat) : Bool := decide (field b o n = 0)

/-- A slot field: 0 to 63, or none. -/
def rngSlot (b : List Byte) (o : Nat) : Bool := decide (field b o 1 < 64) || decide (field b o 1 = 0xFF)

/-- A time setting in µs as instants (R244, R252). -/
def usToK (rate t : Nat) : Nat := rdivN (t * rate) (10 ^ 6)

/-! ### Timers: a private value holds κ + 1 of the start, and is absent while the timer does not run (R252) -/

/-- A timer advanced: started, kept or zeroed by its condition; and the instants since its start while it runs. -/
def timer (p : Tab Int) (key : Nat) (cond : Bool) (kap : Nat) : Tab Int × Option Nat :=
  if cond then
    match tget? p key with
    | some j => (p, some (kap + 1 - j.toNat))
    | none => (tset p key (kap + 1 : Nat), some 0)
  else (terase p key, none)

/-- Whether a running timer has reached `d` instants. -/
def ran (t : Option Nat) (d : Nat) : Bool := match t with | some n => decide (d ≤ n) | none => false

/-- Timers advanced for several conditions, under consecutive keys. -/
def timers (p : Tab Int) (key kap : Nat) : List Bool → Tab Int × List (Option Nat)
  | [] => (p, [])
  | c :: cs =>
    let a := timer p key c kap
    let r := timers a.1 (key + 1) kap cs
    (r.1, a.2 :: r.2)

/-- A private bit. -/
def pbit (p : Tab Int) (key : Nat) : Bool := decide (tget 0 p key ≠ 0)

/-- A private bit set. -/
def psetb (p : Tab Int) (key : Nat) (v : Bool) : Tab Int := if v then tset p key 1 else terase p key

/-! ### Comparators (R230) -/

/-- The comparator rule. -/
def Comp.run (x : Comp) (q : Nat) : Bool :=
  let d := rdivN (x.dr * 2 ^ 24) 100
  if x.under then
    if x.p then !decide (rdivN (x.thr * 2 ^ 24) d < q) else decide (q ≤ x.thr)
  else if x.p then !decide (q < rdivN (x.thr * d) (2 ^ 24)) else decide (x.thr ≤ q)

/-- Comparator `i` run with its threshold and hysteresis. -/
def Ctx.comp (c : Ctx) (i thr dr : Nat) (under : Bool) (slot q : Nat) : Ctx × Bool :=
  let x : Comp := { (tget ⟨0, 95, false, false, 0⟩ c.comps i) with thr := thr, dr := dr, under := under, slot := slot }
  let p := x.run q
  ({ c with comps := tset c.comps i { x with p := p } }, p)

/-- Consecutive comparators run on a list of quantities. -/
def Ctx.compRun (c : Ctx) (i thr dr : Nat) (under : Bool) (slot : Nat) : List Nat → Ctx × List Bool
  | [] => (c, [])
  | q :: qs =>
    let a := c.comp i thr dr under slot q
    let r := a.1.compRun (i + 1) thr dr under slot qs
    (r.1, a.2 :: r.2)

/-! ### Integrators (R232) -/

/-- The value of an integrator. -/
def Ctx.integOf (c : Ctx) (i : Nat) : Nat := tget 0 c.integ i

/-- An integrator set, saturating at 0 and 2^32 − 1. -/
def Ctx.setInteg (c : Ctx) (i : Nat) (v : Int) : Ctx := { c with integ := tset c.integ i (clampI 0 (2 ^ 32 - 1) v).toNat }

/-- Consecutive integrators set to 0. -/
def Ctx.zeroInteg (c : Ctx) (i n : Nat) : Ctx := (List.range n).foldl (fun x j => x.setInteg (i + j) 0) c

/-! ### Outputs -/

/-- Bits from a list of conditions, from bit `lo` up. -/
def bitsFrom (lo : Nat) : List Bool → Nat
  | [] => 0
  | b :: bs => (if b then 2 ^ lo else 0) + bitsFrom (lo + 1) bs

/-- START, OPERATE and, for three phases, their phase bits (R237). -/
def vec (st op : List Bool) : Nat :=
  bitsFrom 0 [st.any id] + bitsFrom 4 [op.any id] + (if st.length = 3 then bitsFrom 1 st + bitsFrom 5 op else 0)

/-- The output of an element that holds (R222), with R238 applied. -/
def holdOut (out : Nat) (blk : Bool) : Nat := out / 2 ^ 11 * 2 ^ 11 + (if blk then oBX else out % 16) + oBQ

/-- An element holds: outputs under R222, integrators zeroed under R238; comparators, private values and timers stay. -/
def Ctx.holdEl (c : Ctx) (slot : Nat) (blk : Bool) (intFrom intN : Nat) : Ctx :=
  let x := c.el slot
  (if blk then c.zeroInteg intFrom intN else c).setEl slot (holdOut x.out blk) x.ty x.p

/-- RECLOSE put in LOCKOUT from outside: the timer of that state starts anew at its next execution (R252, R268, R269). -/
def Ctx.freshLockout (c : Ctx) : Ctx :=
  let x := c.el c.rc.slot
  if c.rc.slot = 0xFF then c else c.setEl c.rc.slot x.out x.ty (terase x.p 4)

/-! ### Quantities -/

/-- A bound on magnitude by R242: a phase current or measured IN that carries POVR counts as at least FS_c; a derived quantity is not changed. -/
def Env.magOf (e : Env) (x : Ph) (chan : Option Nat) : Nat :=
  match chan with
  | some c => if x.ovr then (if x.mag < e.fs.getD c 0 then e.fs.getD c 0 else x.mag) else x.mag
  | none => x.mag

/-- The overcurrent quantities of R243: each phasor with its channel, or none for a calculated quantity. -/
def Env.ocQty (e : Env) (qty v : Nat) : List (Ph × Option Nat) :=
  match qty with
  | 0 => [(e.q.ph v 0, some 0), (e.q.ph v 1, some 1), (e.q.ph v 2, some 2)]
  | 1 => [(e.q.ph v 3, some 3)]
  | 2 => [(e.q.i30 v, none)]
  | _ => [(e.q.i2 v, none)]

/-- The type of the element in a slot of the bay, or none. -/
def Env.typeAt (e : Env) (slot : Nat) : Option Nat := (e.els.find? (fun r => erSlot r = slot)).map erType

/-- The settings block of a slot in the active group. -/
def Env.block (e : Env) (slot : Nat) : List Byte := (sgBlock e.set slot).getD []

/-- The phase enables of R241 for `n` phases; `none` while the DIRECTION element holds. -/
def Env.dirEn (c : Ctx) (dirSlot mode n : Nat) : Option (List Bool) :=
  if dirSlot = 0xFF ∨ mode = 0 then some (List.replicate n true)
  else
    let o := (c.el dirSlot).out
    if bitOf o 8 then none
    else
      let base := if mode = 1 then 0 else 4
      some (if n = 1 then [bitOf o base] else (List.range 3).map (fun p => bitOf o (base + 1 + p)))

/-- The pickup threshold of an overcurrent element: Is times m_clp of the COLD_LOAD element it names, while that one's active output is set (R244). -/
def Env.ocThr (e : Env) (c : Ctx) (is clp : Nat) : Nat :=
  if clp ≠ 0xFF ∧ bitOf (c.el clp).out 11 then rdivN (is * field (e.block clp) 2 2 * 2 ^ 24) 100000 else thr1000 is

end Sys2Proof.Machine
end

