-- ==== Sys2Proof/Machine/ElemOc.lean ====
section
/-! DEFINITION. The overcurrent, direction, voltage, frequency, thermal and breaker-failure elements (R232 to R249, R258 to R266). Each takes the environment, the context, its ELEMENT record, its settings block, and whether blk is 1. -/

namespace Sys2Proof.Machine

/-! ### Curves (R233, R236) -/

/-- A user curve's record in a settings group (R295). -/
def userCurve (set : List Byte) (u : Nat) : List Byte := slice set (0x180 + 264 * u) 264

/-- Whether a user curve keeps its rules (R236). -/
def userOk (u : List Byte) : Bool :=
  let n := field u 0 2
  decide (2 ≤ n) && decide (n ≤ 32) && decide (field u 2 2 = 0) &&
    (List.range n).all (fun i =>
      let m := field u (8 + 4 * i) 4
      let t := field u (136 + 4 * i) 4
      decide (1010 ≤ m) && decide (m ≤ 40000) && decide (1 ≤ t) && decide (t ≤ 600000000)
        && (decide (i = 0) || (decide (field u (4 + 4 * i) 4 < m) && decide (t ≤ field u (132 + 4 * i) 4))))

/-- u(M) of a user curve in binary32 seconds: ln u linear in ln M between points; infinite below the first point (R236). -/
def userTime (u : List Byte) (m : Nat) : Nat :=
  let n := field u 0 2
  let pm (i : Nat) : Nat := frat b32 (field u (8 + 4 * i) 4 : Nat) 1000
  let pt (i : Nat) : Nat := frat b32 (field u (136 + 4 * i) 4 : Nat) (10 ^ 6)
  if flt b32 m (pm 0) then b32.infBits false
  else if fle b32 (pm (n - 1)) m then pt (n - 1)
  else
    match (List.range (n - 1)).find? (fun i => flt b32 m (pm (i + 1))) with
    | some i =>
      let f := fdiv b32 (fmul b32 (fsub b32 (fln m) (fln (pm i))) (fsub b32 (fln (pt (i + 1))) (fln (pt i)))) (fsub b32 (fln (pm (i + 1))) (fln (pm i)))
      fexp (fadd b32 (fln (pt i)) f)
    | none => pt (n - 1)

/-- The constants of an IEC curve: k in hundredths and α in hundredths. -/
def iecConst (code : Nat) : Nat × Nat := match code with | 1 => (14, 2) | 2 => (1350, 100) | 3 => (8000, 200) | _ => (12000, 100)
/-- The constants of an IEEE curve, in units of 0.0001: A, B, p, tr. -/
def ieeeConst (code : Nat) : Nat × Nat × Nat × Nat := match code with | 5 => (515, 1140, 200, 48500) | 6 => (196100, 4910, 20000, 216000) | _ => (282000, 1217, 20000, 291000)

/-- M^e − 1 as expm1(e · ln M) (R233). -/
def powM1 (m e : Nat) : Nat := fexpm1 (fmul b32 e (fln m))

/-- t(M) in binary32 seconds (R233). -/
def curveTime (set : List Byte) (code tms tdef m : Nat) : Nat :=
  let td := frat b32 (tms : Nat) 1000
  if code = 0 then frat b32 (tdef : Nat) (10 ^ 6)
  else if code ≤ 4 then
    let k := iecConst code
    fdiv b32 (fmul b32 td (frat b32 (k.1 : Nat) 100)) (powM1 m (frat b32 (k.2 : Nat) 100))
  else if code ≤ 7 then
    let k := ieeeConst code
    fmul b32 td (fadd b32 (fdiv b32 (frat b32 (k.1 : Nat) 10000) (powM1 m (frat b32 (k.2.2.1 : Nat) 10000))) (frat b32 (k.2.1 : Nat) 10000))
  else fmul b32 td (userTime (userCurve set (code - 8)) m)

/-- The increment of an integrator for an operate time (R234); `m1` says that M holds the integrator, `first` that it starts from 0. -/
def integInc (rate t : Nat) (hold first : Bool) : Nat :=
  let inc := if hold then 0 else rdivN (ffloor b32 (fdiv b32 (fint b32 (2 ^ 47)) (fmul b32 (fint b32 rate) t)) 0 (2 ^ 48)) (2 ^ 16)
  if first then inc + rdivN inc 2 else inc

/-- An integrator stepped (R232, R234). -/
def Ctx.stepInteg (c : Ctx) (i rate t : Nat) (hold : Bool) : Ctx :=
  let g := c.integOf i
  c.setInteg i ((g + integInc rate t hold (decide (g = 0)) : Nat) : Int)

/-- An integrator reset by the element's mode (R235). -/
def Ctx.resetInteg (c : Ctx) (i rate mode trd code tms m : Nat) (set : List Byte) : Ctx :=
  let g := c.integOf i
  if mode = 1 then c.setInteg i (if trd = 0 then 0 else (g : Int) - rdivN (2 ^ 31 * 10 ^ 6) (rate * trd))
  else if mode = 2 then
    if fle b32 (fint b32 1) m then c
    else
      let tr := if code ≤ 7 then frat b32 ((ieeeConst code).2.2.2 : Nat) 10000 else frat b32 (field (userCurve set (code - 8)) 4 4 : Nat) 1000
      let t := fdiv b32 (fmul b32 (frat b32 (tms : Nat) 1000) tr) (fsub b32 (fint b32 1) (fmul b32 m m))
      c.setInteg i ((g : Int) - fround b32 (fdiv b32 (fint b32 (2 ^ 31)) (fmul b32 (fint b32 rate) t)) 0 (2 ^ 33))
  else c.setInteg i 0

/-! ### INST_OC and TIME_OC (R243 to R246) -/

/-- INST_OC (R244). -/
def elInstOc (e : Env) (c : Ctx) (r b : List Byte) (blk : Bool) : Ctx :=
  let s := erSlot r
  let x := c.el s
  let qs := e.ocQty (field b 1 1) (field b 2 1)
  match qs.all (fun q => q.1.valid), Env.dirEn c (field b 3 1) (field b 4 1) qs.length with
  | true, some en =>
    let cr := c.compRun (erComp r) (e.ocThr c (field b 8 4) (field b 6 1)) (field b 5 1) false s (qs.map (fun q => e.magOf q.1 q.2))
    let st := cr.2.zipWith (fun p q => p && q && !blk) en
    let ts := timers x.p 100 e.kap st
    let op := st.zipWith (fun a t => a && ran t (usToK e.rate (field b 12 4))) ts.2
    let ovr := qs.any (fun q => q.2.isNone && q.1.ovr)
    cr.1.setEl s (vec st op + (if blk then oBX else 0) + (if ovr then o11 else 0)) x.ty ts.1
  | _, _ => c.holdEl s blk 0 0

/-- One phase of TIME_OC: the integrator stepped, held or reset, and OP_p (R246). -/
def timeOcPhase (e : Env) (b : List Byte) (c : Ctx) (i thr mag : Nat) (st was : Bool) (t : Option Nat) : Ctx × Bool :=
  let code := field b 7 1
  let m := fdiv b32 (fint b32 mag) (fint b32 thr)
  let one := fint b32 1
  let mmax := fint b32 (field b 29 1)
  let c1 :=
    if st then
      if was then c.setInteg i (2 ^ 31)
      else c.stepInteg i e.rate (curveTime e.set code (field b 12 4) (field b 16 4) (if flt b32 mmax m then mmax else m)) (flt b32 m one)
    else c.resetInteg i e.rate (field b 28 1) (field b 24 4) code (field b 12 4) m e.set
  let op := st && decide (2 ^ 31 ≤ c1.integOf i) && ran t (usToK e.rate (field b 20 4))
  (if op then c1.setInteg i (2 ^ 31) else c1, op)

/-- The phases of TIME_OC in order. -/
def timeOcPhases (e : Env) (b : List Byte) (thr : Nat) : Ctx → Nat → List (Nat × Bool × Bool × Option Nat) → Ctx × List Bool
  | c, _, [] => (c, [])
  | c, i, (mag, st, was, t) :: xs =>
    let a := timeOcPhase e b c i thr mag st was t
    let r := timeOcPhases e b thr a.1 (i + 1) xs
    (r.1, a.2 :: r.2)

/-- TIME_OC (R246). -/
def elTimeOc (e : Env) (c : Ctx) (r b : List Byte) (blk : Bool) : Ctx :=
  let s := erSlot r
  let x := c.el s
  let qs := e.ocQty (field b 1 1) (field b 2 1)
  match qs.all (fun q => q.1.valid), Env.dirEn c (field b 3 1) (field b 4 1) qs.length with
  | true, some en =>
    let thr := e.ocThr c (field b 8 4) (field b 6 1)
    let mags := qs.map (fun q => e.magOf q.1 q.2)
    let cr := c.compRun (erComp r) thr (field b 5 1) false s mags
    let st := cr.2.zipWith (fun p q => p && q && !blk) en
    let ts := timers x.p 100 e.kap st
    let was := (List.range qs.length).map (fun p => pbit x.p (1 + p))
    let ph := timeOcPhases e b thr cr.1 (erInt r) (mags.zip (st.zip (was.zip ts.2)))
    let c1 := if blk then ph.1.zeroInteg (erInt r) qs.length else ph.1
    let p1 := (enumFrom0 ph.2).foldl (fun p a => psetb p (1 + a.1) a.2) ts.1
    let ovr := qs.any (fun q => q.2.isNone && q.1.ovr)
    c1.setEl s (vec st ph.2 + (if blk then oBX else 0) + (if ovr then o11 else 0)) x.ty p1
  | _, _ =>
    let c1 := c.holdEl s blk (erInt r) qs.length
    let y := c1.el s
    c1.setEl s y.out y.ty (if blk then (List.range 3).foldl (fun p i => psetb p (1 + i) false) y.p else y.p)

/-! ### DIRECTION (R247 to R249) -/

/-- An angle in degrees wrapped to (−180°, 180°], in binary32. -/
def fwrap (x : Nat) : Nat :=
  if fle b32 x (fint b32 (-180)) then fadd b32 x (fint b32 360) else if flt b32 (fint b32 180) x then fsub b32 x (fint b32 360) else x

/-- arg of a phasor in degrees (R604). -/
def Ph.arg (x : Ph) : Nat := fargDeg x.re x.im

/-- s · j · X / √3 (R248). -/
def polQuad (acb : Bool) (x : Ph) : Ph := x.mulC 0 (if acb then -invSqrt3 else invSqrt3)

/-- The memory voltage M_p of phase p (R248). -/
def memOf (q : Quant) (v : Ph) (p : Nat) : Ph :=
  match p with
  | 0 => v
  | 1 => if q.acb then v.mulA else v.mulA2
  | _ => if q.acb then v.mulA2 else v.mulA

/-- The operating, polarising and memory quantities of DIRECTION (R248). -/
def dirQty (e : Env) (b : List Byte) : List (Ph × Ph × Option Ph) :=
  let q := e.q
  let va := q.ph 0 4
  let vb := q.ph 0 5
  let vc := q.ph 0 6
  match field b 1 1 with
  | 0 => [(q.ph 0 0, polQuad q.acb (vb.sub vc), some (memOf q q.v1m 0)), (q.ph 0 1, polQuad q.acb (vc.sub va), some (memOf q q.v1m 1)),
          (q.ph 0 2, polQuad q.acb (va.sub vb), some (memOf q q.v1m 2))]
  | 1 => [(if field b 2 1 = 0 then q.i30 0 else q.ph 0 3, q.v30.neg, none)]
  | _ => [(q.i2 0, q.v2.neg, none)]

/-- One phase of DIRECTION (R249): FWD, REV, MEM_USED, NO_POL. -/
def dirPhase (b : List Byte) (memOk : Bool) (i v : Ph) (m : Option Ph) : Bool × Bool × Bool × Bool :=
  let vmin := thr1000 (field b 8 4)
  let own := v.valid && decide (vmin ≤ v.mag)
  let byMem := !own && memOk && m.isSome
  if i.mag < thr1000 (field b 12 4) then (false, false, byMem, false)
  else if !own && !byMem then (decide (field b 3 1 = 1), false, false, true)
  else
    let pol := if own then v else m.getD v
    let th := fadd b32 (fwrap (fsub b32 i.arg pol.arg)) (frat b32 (field b 4 2 : Nat) 10)
    let beta := frat b32 (field b 6 2 : Nat) 10
    (fle b32 (fabs b32 th) beta, fle b32 (fabs b32 (fwrap (fsub b32 th (fint b32 180)))) beta, byMem, false)

/-- DIRECTION (R249). -/
def elDirection (e : Env) (c : Ctx) (r b : List Byte) (blk : Bool) : Ctx :=
  let s := erSlot r
  let x := c.el s
  let qs := dirQty e b
  let memOk := match e.q.v1mAge with | some a => decide (a * 10 ^ 6 ≤ field b 16 4 * e.rate) | none => false
  let ok := qs.all (fun (i, v, m) => i.valid && (v.valid || (m.isSome && v.settle && memOk)))
  if !ok then c.setEl s (x.out / 2 ^ 13 * 2 ^ 13 + oBQ + (if blk then oBX else 0)) x.ty x.p
  else
    let ds := qs.map (fun (i, v, m) => dirPhase b memOk i v m)
    let fw := ds.map (fun d => d.1 && !blk)
    let rv := ds.map (fun d => d.2.1 && !blk)
    let three (l : List Bool) : List Bool := if l.length = 3 then l else List.replicate 3 (l.any id)
    let out := bitsFrom 0 [fw.any id] + bitsFrom 1 (three fw) + bitsFrom 4 [rv.any id] + bitsFrom 5 (three rv)
      + (if blk then oBX else 0) + (if ds.any (fun d => d.2.2.1) then o11 else 0) + (if ds.any (fun d => d.2.2.2) then o12 else 0)
    c.setEl s out x.ty x.p

/-! ### Voltage elements (R258 to R260) -/

/-- The voltages of R258. -/
def voltQty (q : Quant) (qty : Nat) : List Ph :=
  let va := q.ph 0 4
  let vb := q.ph 0 5
  let vc := q.ph 0 6
  match qty with
  | 0 => [va, vb, vc]
  | 1 => [(va.sub vb).divS3, (vb.sub vc).divS3, (vc.sub va).divS3]
  | 2 => [q.v1]
  | _ => [q.ph 0 7]

/-- The integrators of an inverse voltage element in order (R259). -/
def voltInts (rate tms vs : Nat) (under : Bool) : Ctx → Nat → List (Nat × Bool) → Ctx × List Bool
  | c, _, [] => (c, [])
  | c, i, (mag, st) :: xs =>
    let m := fdiv b32 (fint b32 mag) (fint b32 vs)
    let one := fint b32 1
    let d := fabs b32 (fsub b32 m one)
    let least := frat b32 5 100
    let t := fdiv b32 (frat b32 (tms : Nat) 1000) (if flt b32 d least then least else d)
    let c1 := if st then c.stepInteg i rate t (if under then flt b32 one m else flt b32 m one) else c.setInteg i 0
    let r := voltInts rate tms vs under c1 (i + 1) xs
    (r.1, decide (2 ^ 31 ≤ c1.integOf i) :: r.2)

/-- UNDERVOLT and OVERVOLT (R259). -/
def elVolt (e : Env) (c : Ctx) (r b : List Byte) (blk under : Bool) : Ctx :=
  let s := erSlot r
  let x := c.el s
  let qs := voltQty e.q (field b 1 1)
  let inv := decide (field b 3 1 = 1)
  let nInt := if inv then qs.length else 0
  if !qs.all Ph.valid then c.holdEl s blk (erInt r) nInt
  else
    let vs := thr1000 (field b 8 4)
    let mags := qs.map Ph.mag
    let cr := c.compRun (erComp r) vs (field b 4 1) under s mags
    let st := (cr.2.zip mags).map (fun (p, m) => p && !blk && !(under && decide (m < thr1000 (field b 12 4))))
    let ts := timers x.p 100 e.kap st
    let iv := if inv then voltInts e.rate (field b 20 4) vs under cr.1 (erInt r) (mags.zip st) else (cr.1, [])
    let due := if inv then iv.2 else ts.2.map (fun t => ran t (usToK e.rate (field b 16 4)))
    let op0 := st.zipWith (fun a (t : Option Nat × Bool) => a && t.2 && ran t.1 (usToK e.rate (field b 24 4))) (ts.2.zip due)
    let all := decide (field b 2 1 = 1)
    let opAll := op0.all id
    let op := if all then st.map (fun a => a && opAll) else op0
    let o := vec st op
    let o1 := if all then o / 2 * 2 + b2n (st.all id) else o
    iv.1.setEl s (o1 + (if blk then oBX else 0)) x.ty ts.1

/-- UNDERVOLT (R259). -/
def elUndervolt (e : Env) (c : Ctx) (r b : List Byte) (blk : Bool) : Ctx := elVolt e c r b blk true
/-- OVERVOLT (R259). -/
def elOvervolt (e : Env) (c : Ctx) (r b : List Byte) (blk : Bool) : Ctx := elVolt e c r b blk false

/-- NEGSEQ_OV (R260). -/
def elNegseqOv (e : Env) (c : Ctx) (r b : List Byte) (blk : Bool) : Ctx :=
  let s := erSlot r
  let x := c.el s
  let v := e.q.v2
  if !v.valid then c.holdEl s blk 0 0
  else
    let cr := c.comp (erComp r) (thr1000 (field b 8 4)) (field b 4 1) false s v.mag
    let st := cr.2 && !blk
    let t := timer x.p 100 st e.kap
    cr.1.setEl s (vec [st] [ran t.2 (usToK e.rate (field b 16 4))] + (if blk then oBX else 0)) x.ty t.1

/-! ### FREQ and ROCOF (R261, R262) -/

/-- What FREQ and ROCOF share after START is judged: LOW_V, the timer and the outputs; `none` while the element holds. -/
def freqTail (e : Env) (c : Ctx) (r b : List Byte) (blk valid : Bool) (start : Bool → Bool) : Ctx :=
  let s := erSlot r
  let x := c.el s
  let umin := field b 16 4
  if !valid || (decide (umin ≠ 0) && !e.q.v1.valid) then c.holdEl s blk 0 0
  else
    let low := decide (umin ≠ 0) && decide (e.q.v1.mag < thr1000 umin)
    let st := start (bitOf x.out 0) && !low && !blk
    let t := timer x.p 100 st e.kap
    c.setEl s (vec [st] [ran t.2 (usToK e.rate (field b 12 4))] + (if blk then oBX else 0) + (if low then o11 else 0)) x.ty t.1

/-- FREQ (R262). -/
def elFreq (e : Env) (c : Ctx) (r b : List Byte) (blk : Bool) : Ctx :=
  let f := e.q.f * 1000
  let thr := field b 4 4
  let hy := field b 8 4
  freqTail e c r b blk e.q.fvalid (fun on =>
    if field b 1 1 = 0 then (if on then !decide (f < (thr - hy) * 65536) else decide (thr * 65536 ≤ f))
    else if on then !decide ((thr + hy) * 65536 < f) else decide (f ≤ thr * 65536))

/-- ROCOF (R262). -/
def elRocof (e : Env) (c : Ctx) (r b : List Byte) (blk : Bool) : Ctx :=
  let v := match field b 1 1 with | 0 => e.q.rocof | 1 => fneg b32 e.q.rocof | _ => fabs b32 e.q.rocof
  freqTail e c r b blk e.q.rvalid (fun on =>
    if !e.q.rocofNew then on
    else if on then !flt b32 v (frat b32 (field b 4 4 * field b 8 4 : Nat) 100000)
    else fle b32 (frat b32 (field b 4 4 : Nat) 1000) v)

/-! ### THERMAL (R263, R264) -/

/-- THERMAL (R264). -/
def elThermal (e : Env) (c : Ctx) (r b : List Byte) (blk : Bool) : Ctx :=
  let s := erSlot r
  let x := c.el s
  let qs := e.ocQty 0 0
  if !qs.all (fun q => q.1.valid) then c.holdEl s blk 0 0
  else
    let mag := (qs.map (fun q => e.magOf q.1 q.2)).foldl (fun a m => if a < m then m else a) 0
    let ieq := frat b32 (mag : Nat) (2 ^ 24)
    let kib := fmul b32 (frat b32 (field b 2 2 : Nat) 1000) (frat b32 (field b 4 4 : Nat) 1000)
    let ra := fdiv b32 ieq kib
    let q := fmul b32 ra ra
    let tau := if field b 1 1 = 1 ∧ flt b32 ieq (frat b32 5 100) then field b 12 4 else field b 8 4
    let ex := fexp (fneg b32 (fdiv b32 (fint b32 (erCad r : Nat)) (fmul b32 (fint b32 e.rate) (fint b32 tau))))
    let th0 := tget 0 c.theta s
    let th := fclamp b32 0 (fint b32 10) (fadd b32 th0 (fmul b32 (fsub b32 q th0) (fsub b32 (fint b32 1) ex)))
    let alarm := fle b32 (frat b32 (field b 16 1 : Nat) 100) th
    let op := if bitOf x.out 4 then !flt b32 th (frat b32 (field b 17 1 * field b 18 1 : Nat) 10000) else fle b32 (frat b32 (field b 17 1 : Nat) 100) th
    let c1 := { c with theta := tset c.theta s th }
    c1.setEl s (if blk then oBX else vec [fle b32 kib ieq] [op] + (if alarm then o11 else 0)) x.ty x.p

/-! ### BRKFAIL (R265, R266) -/

/-- BRKFAIL (R266). -/
def elBrkfail (e : Env) (c : Ctx) (r b : List Byte) (blk : Bool) : Ctx :=
  let s := erSlot r
  let x := c.el s
  let mode := field b 1 1
  let v := field b 2 1
  let qs := e.ocQty 0 v
  let res := e.q.i30 v
  let hasN := decide (field b 20 4 ≠ 0)
  let run1 (a : Ctx × List Bool) (i : Nat) : Ctx × List Bool :=
    let q := qs.getD i (Ph.none, none)
    if q.1.valid then let y := a.1.comp (erComp r + i) (thr1000 (field b 16 4)) 95 false s (e.magOf q.1 q.2); (y.1, a.2 ++ [y.2])
    else (a.1, a.2 ++ [true])
  let ph := (List.range 3).foldl run1 (c, [])
  let rn := if hasN then (if res.valid then ph.1.comp (erComp r + 3) (thr1000 (field b 20 4)) 95 false s res.mag else (ph.1, true)) else (ph.1, false)
  let bad := qs.any (fun q => !q.1.valid) || (hasN && !res.valid)
  let cb := e.sig c (field b 12 2)
  let f := ph.2.map (fun p => let cp := p || rn.2; match mode with | 0 => cp | 1 => cb | _ => cp || cb)
  let ini := (List.range 3).map (fun i => let ref := field b (6 + 2 * i) 2; e.sig c (if ref = 0xFFFF then field b 4 2 else ref))
  let was := (List.range 3).map (fun i => bitOf x.out (1 + i))
  let st := (f.zip (ini.zip was)).map (fun (fp, ip, w) => fp && (w || ip) && !blk)
  let ts := timers x.p 100 e.kap st
  let op := ts.2.map (fun t => ran t (usToK e.rate (field b 28 4)))
  let rt := ts.2.any (fun t => ran t (usToK e.rate (field b 24 4)))
  rn.1.setEl s (vec st op + (if blk then oBX else 0) + (if rt then o11 else 0) + (if bad && decide (mode ≠ 1) then o12 else 0)) x.ty ts.1

end Sys2Proof.Machine
end

