-- ==== Sys2Proof/Machine/ElemScheme.lean ====
section
/-! DEFINITION. The distance, reclose, supervision, fault-location, power-quality and logic elements (R253 to R257, R267 to R285). -/

namespace Sys2Proof.Machine

/-! ### Complex binary32 -/

/-- A complex number in binary32. -/
structure Cf where
  re : Nat
  im : Nat
deriving DecidableEq, Repr

/-- A Q8.24 phasor in binary32. -/
def Ph.cf (x : Ph) : Cf := ⟨frat b32 x.re (2 ^ 24), frat b32 x.im (2 ^ 24)⟩
/-- Sum. -/ def Cf.add (a b : Cf) : Cf := ⟨fadd b32 a.re b.re, fadd b32 a.im b.im⟩
/-- Difference. -/ def Cf.sub (a b : Cf) : Cf := ⟨fsub b32 a.re b.re, fsub b32 a.im b.im⟩
/-- Negation. -/ def Cf.neg (a : Cf) : Cf := ⟨fneg b32 a.re, fneg b32 a.im⟩
/-- Product. -/
def Cf.mul (a b : Cf) : Cf := ⟨fsub b32 (fmul b32 a.re b.re) (fmul b32 a.im b.im), fadd b32 (fmul b32 a.re b.im) (fmul b32 a.im b.re)⟩
/-- Conjugate. -/ def Cf.conj (a : Cf) : Cf := ⟨a.re, fneg b32 a.im⟩
/-- The square of the magnitude. -/ def Cf.sq (a : Cf) : Nat := fadd b32 (fmul b32 a.re a.re) (fmul b32 a.im a.im)
/-- Quotient. -/
def Cf.div (a b : Cf) : Cf := let n := a.mul b.conj; ⟨fdiv b32 n.re b.sq, fdiv b32 n.im b.sq⟩
/-- Product with a real. -/ def Cf.scale (a : Cf) (k : Nat) : Cf := ⟨fmul b32 a.re k, fmul b32 a.im k⟩
/-- A magnitude and an angle in degrees, both binary32. -/
def polar (m a : Nat) : Cf := ⟨fmul b32 m (fcosDeg a), fmul b32 m (fsinDeg a)⟩
/-- Whether a magnitude is at least a binary32 bound. -/
def Cf.atLeast (a : Cf) (k : Nat) : Bool := fle b32 (fmul b32 k k) a.sq
/-- arg in degrees of a binary32 pair. -/
def Cf.arg (a : Cf) : Nat :=
  match fpDec b32 a.re, fpDec b32 a.im with
  | .fin m e, .fin n f =>
    let x := fracOf m e
    let y := fracOf n f
    fargDeg (x.1 * y.2) (y.1 * x.2)
  | _, _ => b32.nanBits

/-! ### Loops (R253) -/

/-- A loop: index 0 to 2 phase-earth on A, B, C; 3 to 5 AB, BC, CA. Its two phases. -/
def loopPhases (i : Nat) : Nat × Nat := if i < 3 then (i, i) else (i - 3, (i - 2) % 3)

/-- k0 from its magnitude and angle fields. -/
def k0Of (b : List Byte) (mo ao : Nat) : Cf := polar (frat b32 (field b mo 2 : Nat) 1000) (frat b32 (toSigned 16 (field b ao 2)) 10)

/-- The current of a loop in binary32, and whether its phasors are valid. -/
def loopI (e : Env) (v : Nat) (k0 : Cf) (i : Nat) : Cf × Bool :=
  let p := loopPhases i
  let ip := e.q.ph v p.1
  if i < 3 then
    let r := e.q.i30 v
    (ip.cf.add (k0.mul r.cf), ip.valid && r.valid)
  else let d := ip.sub (e.q.ph v p.2); (d.cf, d.valid)

/-- The voltage of a loop as a phasor. -/
def loopV (e : Env) (v i : Nat) : Ph :=
  let p := loopPhases i
  if i < 3 then e.q.ph v (4 + p.1) else (e.q.ph v (4 + p.1)).sub (e.q.ph v (4 + p.2))

/-- The loops that a mask enables. -/
def loopsOn (m : Nat) : List Nat := (if bitOf m 0 then [0, 1, 2] else []) ++ (if bitOf m 1 then [3, 4, 5] else [])

/-- The outputs of a distance element from its started loops (R255). -/
def distOut (e : Env) (c : Ctx) (r b : List Byte) (blk : Bool) (started : List Nat) : Ctx :=
  let s := erSlot r
  let x := c.el s
  let on := if blk then [] else started
  let st := (List.range 3).map (fun p => on.any (fun i => decide ((loopPhases i).1 = p) || decide ((loopPhases i).2 = p)))
  let p1 := (List.range 6).foldl (fun p i => psetb p (10 + i) (on.contains i)) x.p
  let ts := timers p1 100 e.kap st
  let op := ts.2.map (fun t => ran t (usToK e.rate (field b 24 4)))
  c.setEl s (vec st op + (if blk then oBX else 0) + (if on.any (fun i => decide (i < 3)) then o11 else 0) + (if on.any (fun i => decide (3 ≤ i)) then o12 else 0)) x.ty ts.1

/-- Whether the voltage phasors that the enabled loops read are valid. -/
def loopVoltsOk (e : Env) (v : Nat) (loops : List Nat) : Bool := loops.all (fun i => (loopV e v i).valid)

/-- The zone of DISTANCE_QUAD for a loop impedance (R255). -/
def quadIn (b : List Byte) (z : Cf) (pe was : Bool) : Bool :=
  let k := if was then frat b32 105 100 else fint b32 1
  let set (o : Nat) : Nat := fmul b32 (frat b32 (field b o 2 : Nat) 1000) k
  let tau := frat b32 (toSigned 16 (field b 14 2)) 10
  let tt := fdiv b32 (fsinDeg tau) (fcosDeg tau)
  let la := frat b32 (field b 12 2 : Nat) 10
  let xl := fdiv b32 z.im (fdiv b32 (fsinDeg la) (fcosDeg la))
  let a := z.arg
  fle b32 z.im (fsub b32 (set 4) (fmul b32 z.re tt)) && fle b32 z.re (fadd b32 (if pe then set 6 else set 8) xl)
    && fle b32 (fadd b32 (fneg b32 (set 10)) xl) z.re && fle b32 (fint b32 (if was then -20 else -15)) a && fle b32 a (fint b32 (if was then 120 else 115))

/-- DISTANCE_QUAD (R255). -/
def elDistanceQuad (e : Env) (c : Ctx) (r b : List Byte) (blk : Bool) : Ctx :=
  let s := erSlot r
  let x := c.el s
  let v := field b 3 1
  let loops := loopsOn (field b 1 1)
  if !loopVoltsOk e v loops then c.holdEl s blk 0 0
  else
    let k0 := k0Of b 16 18
    let started := loops.filter (fun i =>
      let il := loopI e v k0 i
      let z0 := (loopV e v i).cf.div il.1
      let z := if field b 2 1 = 0 then z0 else z0.neg
      il.2 && il.1.atLeast (frat b32 (field b 20 4 : Nat) 1000) && quadIn b z (decide (i < 3)) (pbit x.p (10 + i)))
    distOut e c r b blk started

/-- The memory or present polarising voltage of a loop for DISTANCE_MHO (R257). -/
def mhoPol (e : Env) (b : List Byte) (i : Nat) : Ph :=
  let memOk := match e.q.v1mAge with | some a => decide (a ≤ usToK e.rate (field b 20 4)) | none => false
  let v := if memOk then e.q.v1m else e.q.v1
  let p := loopPhases i
  if i < 3 then memOf e.q v p.1 else (memOf e.q v p.1).sub (memOf e.q v p.2)

/-- DISTANCE_MHO (R257). -/
def elDistanceMho (e : Env) (c : Ctx) (r b : List Byte) (blk : Bool) : Ctx :=
  let s := erSlot r
  let x := c.el s
  let loops := loopsOn (field b 1 1)
  if !loopVoltsOk e 0 loops then c.holdEl s blk 0 0
  else
    let k0 := k0Of b 12 14
    let zr0 := polar (frat b32 (field b 4 2 : Nat) 1000) (frat b32 (field b 6 2 : Nat) 10)
    let zr1 := if field b 2 1 = 0 then zr0 else zr0.neg
    let started := loops.filter (fun i =>
      let il := loopI e 0 k0 i
      let vl := (loopV e 0 i).cf
      let zr := if pbit x.p (10 + i) then zr1.scale (frat b32 105 100) else zr1
      let iz := il.1.mul zr
      let s1 := iz.sub vl
      let vp := if field b 3 1 = 0 then vl else (mhoPol e b i).cf
      let s2 := vp.add (iz.scale (frat b32 (field b 8 2 : Nat) 1000))
      il.2 && il.1.atLeast (frat b32 (field b 16 2 : Nat) 1000) && fle b32 0 (s1.mul s2.conj).re && s2.atLeast (frat b32 (field b 18 2 : Nat) 1000))
    distOut e c r b blk started

/-! ### RECLOSE (R267 to R269) -/

/-- What a RECLOSE transition reads besides the state: start edge, cb falling, cb closed, blk, sync permission, a start edge within open_wait, the instants since the running timer's start, isolated standby. -/
structure RcIn where
  edge : Bool
  fall : Bool
  cb : Bool
  blk : Bool
  sync : Bool
  recent : Bool
  el : Nat
  isolated : Bool

/-- One transition of the table of R268, if a row applies: the next state, shot count, and which edges it used. -/
def rcRow (rate : Nat) (b : List Byte) (i : RcIn) (st : RcState) (n : Nat) : Option (RcState × Nat × Bool × Bool) :=
  let d (us : Nat) : Nat := usToK rate us
  let dead := d (field b (12 + 2 * (n - 1)) 2 * 10000)
  let reclaim := d (field b 20 2 * 100000)
  match st with
  | .ready =>
    if i.edge ∧ !i.blk then some (.waitOpen, 1, true, false)
    else if i.edge then some (.lockout, n, true, false)
    else if i.fall ∧ !i.recent then some (.lockout, n, false, true) else none
  | .waitOpen =>
    if i.fall then some (.dead, n, false, true)
    else if d (field b 26 2 * 1000) ≤ i.el ∧ i.cb then some (.lockout, n, false, false) else none
  | .dead =>
    if i.blk then some (.lockout, n, false, false)
    else if dead ≤ i.el ∧ (i.sync ∨ field b 2 1 = 0) then some (if i.isolated then .lockout else .closing, n, false, false)
    else if dead + d (field b 24 2 * 100000) ≤ i.el then some (.lockout, n, false, false) else none
  | .closing =>
    if i.blk then some (.lockout, n, false, false)
    else if i.cb then some (.reclaim, n, false, false)
    else if d (field b 22 2 * 1000) ≤ i.el then some (.lockout, n, false, false) else none
  | .reclaim =>
    if i.edge ∧ n < field b 1 1 then some (.waitOpen, n + 1, true, false)
    else if i.edge then some (.lockout, n, true, false)
    else if i.fall ∧ !i.recent then some (.lockout, n, false, true)
    else if reclaim ≤ i.el then some (.ready, 0, false, false) else none
  | .lockout => if i.cb ∧ !i.edge ∧ reclaim ≤ i.el then some (.ready, 0, false, false) else none

/-- Every row that applies, in turn (R268); `t` is κ of the running timer's start. -/
def rcChain (rate : Nat) (b : List Byte) (kap : Nat) : Nat → RcIn → RcState → Nat → Nat → RcState × Nat × Nat
  | 0, _, st, n, t => (st, n, t)
  | fuel + 1, i, st, n, t =>
    match rcRow rate b { i with el := kap - t } st n with
    | some (st', n', ue, uf) => rcChain rate b kap fuel { i with edge := i.edge && !ue, fall := i.fall && !uf } st' n' kap
    | none => (st, n, t)

/-- RECLOSE (R268); private: 1 start, 2 cb_sig of the previous instant, 3 κ + 1 of the last start edge, 4 κ of the running timer's start, absent when it is to start anew. -/
def elReclose (e : Env) (c : Ctx) (r b : List Byte) (_blk : Bool) : Ctx :=
  let s := erSlot r
  let x := c.el s
  let start := e.sig c (field b 4 2)
  let cb := e.sig c (field b 6 2)
  let blk := e.sig c (field b 10 2)
  let edge := start && !pbit x.p 1
  let fall := !cb && pbit x.p 2
  let p1 := psetb (psetb x.p 1 start) 2 cb
  let p2 := if edge then tset p1 3 (e.kap + 1 : Nat) else p1
  let recent := match tget? p2 3 with | some j => decide (e.kap + 1 - j.toNat ≤ usToK e.rate (field b 26 2 * 1000)) | none => false
  let i : RcIn := ⟨edge, fall, cb, blk, e.sig c (field b 8 2), recent, 0, e.isolated⟩
  let t0 := ((tget? x.p 4).map Int.toNat).getD e.kap
  let o := rcChain e.rate b e.kap 8 i c.rc.st c.rc.shots t0
  let st := o.1
  -- in LOCKOUT the timer runs from the first instant with the breaker closed and no start edge (R252)
  let t1 := if st = .lockout ∧ (!cb || edge) then e.kap + 1 else o.2.2
  let rc : Reclose := { st := st, shots := o.2.1, slot := s, tmr := if t1 = t0 ∧ (tget? x.p 4).isSome then c.rc.tmr else if t1 = e.kap then e.at_ else e.at_.next e.rate }
  let out := bitsFrom 0 [decide (st = .waitOpen) || decide (st = .dead) || decide (st = .closing)] + bitsFrom 4 [decide (st = .closing)]
    + (if blk then oBX else 0) + bitsFrom 11 [decide (st = .lockout), decide (st = .reclaim)] + o.2.1 % 8 * 2 ^ 13
  { c with rc := rc }.setEl s out x.ty (tset p2 4 (t1 : Nat))

/-! ### COLD_LOAD, BROKEN_COND (R270, R271) -/

/-- COLD_LOAD (R270); private: 1 ARMED, 2 ACTIVE, timers 100 dead, 101 hold, 102 short. -/
def elColdLoad (e : Env) (c : Ctx) (r b : List Byte) (blk : Bool) : Ctx :=
  let s := erSlot r
  let x := c.el s
  let qs := (List.range 3).map (fun i => e.q.ph 0 i)
  let below (o : Nat) : Bool := qs.all (fun q => q.valid && decide (q.mag < thr1000 (field b o 4)))
  let dead := if field b 4 2 = 0xFFFF then below 16 else !e.sig c (field b 4 2)
  let t := timer x.p 100 dead e.kap
  let armed0 := pbit x.p 1
  let act0 := pbit x.p 2
  let begins := !act0 && armed0 && !dead
  let h := timer t.1 101 (act0 || begins) e.kap
  let sh := timer h.1 102 ((act0 || begins) && below 24) e.kap
  let ends := ran h.2 (usToK e.rate (field b 12 4)) || (decide (field b 20 4 ≠ 0) && ran sh.2 (usToK e.rate (field b 20 4)))
  let act := (act0 || begins) && !dead && !ends
  let armed := (act0 && dead) || (!act0 && dead && (armed0 || ran t.2 (usToK e.rate (field b 8 4))))
  let p1 := psetb (psetb sh.1 1 armed) 2 act
  let p2 := if act then p1 else terase (terase p1 101) 102
  c.setEl s ((if act && !blk then oSTART + o11 else 0) + (if armed then o12 else 0) + (if blk then oBX else 0)) x.ty p2

/-- BROKEN_COND (R271). -/
def elBrokenCond (e : Env) (c : Ctx) (r b : List Byte) (blk : Bool) : Ctx :=
  let s := erSlot r
  let x := c.el s
  let i1 := e.q.i1
  let i2 := e.q.i2 0
  if !i1.valid then c.holdEl s blk 0 0
  else
    let ratio := field b 2 2
    let band := decide (thr1000 (field b 4 4) ≤ i1.mag) && decide (i1.mag ≤ thr1000 (field b 8 4))
    let on := if bitOf x.out 0 then band && decide (95 * ratio * i1.mag ≤ 100000 * i2.mag) else band && decide (ratio * i1.mag ≤ 1000 * i2.mag)
    let st := on && !i1.ovr && !blk
    let t := timer x.p 100 st e.kap
    c.setEl s (vec [st] [ran t.2 (usToK e.rate (field b 12 4))] + (if blk then oBX else 0) + (if i1.ovr then o11 else 0)) x.ty t.1

/-! ### HIZ (R272, R273) -/

/-- Private values of HIZ: 1 executions of the interval, 2 to 6 the sums of a, a², h (Q8.24), |X2| (Q8.24), |I1|; 7 second of the interval, 8 interval discarded, 9 mean |I1| of the previous interval + 1, 10 b_v, 11 b_h, 12 the last 30 intervals as bits, newest in bit 0, 13 inactive intervals in a row, 14 κ of BAY_START + 1, 15 OPERATE, 16 last interval active, 17 last interval blocked. -/
def hizClear (p : Tab Int) (sec : Nat) : Tab Int :=
  tset ([1, 2, 3, 4, 5, 6, 8].foldl terase p) 7 (sec : Nat)

/-- An interval judged (R273). -/
def hizJudge (b : List Byte) (p : Tab Int) : Tab Int :=
  let n := (tget 0 p 1).toNat
  if n = 0 ∨ pbit p 8 then p
  else
    let g (k : Nat) : Nat := (tget 0 p k).toNat
    let mu := frat b32 (g 2 : Nat) (n * 2 ^ 24)
    let var := frat b32 (((n * g 3 : Nat) : Int) - (g 2 * g 2 : Nat)) (n * n * 2 ^ 48)
    let i0 := frat b32 (field b 24 4 : Nat) 1000
    let den := if flt b32 mu i0 then i0 else mu
    let v := fdiv b32 var (fmul b32 den den)
    let h := frat b32 (g 4 : Nat) (n * 2 ^ 24)
    let i1 := g 6 / n
    let step := match tget? p 9 with | some j => decide (thr1000 (field b 16 4) ≤ ((i1 : Int) + 1 - j).natAbs) | none => false
    let blocked := step || fle b32 (fmul b32 (frat b32 15 100) mu) (frat b32 (g 5 : Nat) (n * 2 ^ 24))
    let bv := (tget 0 p 10).toNat
    let bh := (tget 0 p 11).toNat
    let floorV := frat b32 (field b 8 4 : Nat) (10 ^ 6)
    let kv := fmul b32 (frat b32 (field b 6 2 : Nat) 100) bv
    let cv := fle b32 (if flt b32 kv floorV then floorV else kv) v
    let ch := fle b32 (fadd b32 bh (frat b32 (field b 12 4 : Nat) 1000)) h
    let active := !blocked && fle b32 i0 mu && (if field b 2 1 = 0 then cv || ch else cv && ch)
    let w := fsub b32 (fint b32 1) (fexp (frat b32 (-1) (10 * field b 20 2)))
    let up (x y : Nat) : Int := (fadd b32 x (fmul b32 (fsub b32 y x) w) : Nat)
    let p1 := if !active && !blocked then tset (tset p 10 (up bv v)) 11 (up bh h) else p
    let bits := (g 12 * 2 + b2n active) % 2 ^ 30
    let quiet := if active then 0 else g 13 + 1
    let nAct := ((List.range (field b 4 1)).filter (fun i => bitOf bits i)).length
    let op := if pbit p 15 then !decide (field b 5 1 ≤ quiet) else decide (field b 3 1 ≤ nAct)
    psetb (psetb (psetb (tset (tset (tset p1 9 (i1 + 1 : Nat)) 12 (bits : Nat)) 13 (quiet : Nat)) 15 op) 16 active) 17 blocked

/-- HIZ (R273). -/
def elHiz (e : Env) (c : Ctx) (r b : List Byte) (blk : Bool) : Ctx :=
  let s := erSlot r
  let x := c.el s
  let p0 := if (tget? x.p 14).isSome then x.p else tset x.p 14 (e.kap + 1 : Nat)
  let newSec := decide (tget? p0 7 ≠ some (e.at_.sec : Int))
  let p1 := if newSec then hizClear (hizJudge b p0) e.at_.sec else p0
  let qty := field b 1 1
  let chans := if qty = 0 then [0, 1, 2] else [3]
  let x1 := if qty = 0 then e.q.i30 0 else e.q.ph 0 3
  let learning := decide (e.kap + 1 - (tget 0 p1 14).toNat < 10 * field b 20 2 * e.rate)
  let tail (p : Tab Int) : Nat :=
    (if blk then oBX else (if pbit p 16 then oSTART else 0) + (if pbit p 15 && !learning then oOP else 0))
      + (if pbit p 16 then o11 else 0) + (if pbit p 17 then o12 else 0) + (if learning then o13 else 0)
  if !(x1.valid && e.q.i1.valid) then
    let p2 := tset p1 8 1
    c.setEl s (holdOut (x.out % 2 ^ 11 + tail p2 / 2 ^ 11 * 2 ^ 11) blk) x.ty p2
  else
    let hm (k : Nat) : Nat := (harmonicSum e.hist e.kap e.q e.rate chans k).mag
    let inc (p : Tab Int) (k : Nat) (v : Nat) : Tab Int := tset p k (tget 0 p k + (v : Int))
    let p2 := inc (inc (inc (inc (inc (inc p1 1 1) 2 x1.mag) 3 (x1.mag ^ 2)) 4 (hm 3 + hm 5)) 5 (hm 2)) 6 e.q.i1.mag
    c.setEl s (tail p2) x.ty p2

/-! ### CT and VT supervision (R274, R275) -/

/-- CT_SUPV (R274); private 1: OPERATE latched. -/
def elCtSupv (e : Env) (c : Ctx) (r b : List Byte) (blk : Bool) : Ctx :=
  let s := erSlot r
  let x := c.el s
  let mode := field b 1 1
  let i0 := e.q.i30 0
  let d := i0.sub (e.q.ph 0 3)
  let v0 := e.q.v30
  let ok := (decide (mode = 1) || d.valid) && (decide (mode = 0) || (i0.valid && v0.valid))
  if !ok then c.holdEl s blk 0 0
  else
    let th := thr1000 (field b 4 4)
    let m0 := decide (th ≤ d.mag)
    let m1 := decide (th ≤ i0.mag) && decide (v0.mag < thr1000 (field b 8 4))
    let st := (match mode with | 0 => m0 | 1 => m1 | _ => m0 || m1) && !blk
    let t := timer x.p 100 st e.kap
    let op := ran t.2 (usToK e.rate (field b 12 4))
    let lt := decide (field b 2 1 = 1) && (op || pbit x.p 1)
    c.setEl s (vec [st] [(op || lt) && !blk] + (if blk then oBX else 0)) x.ty (psetb t.1 1 lt)

/-- VT_SUPV (R275); private: 1 I1h + 1, 2 LATCHED, timers 100 OPERATE, 101 healthy voltages. -/
def elVtSupv (e : Env) (c : Ctx) (r b : List Byte) (blk : Bool) : Ctx :=
  let s := erSlot r
  let x := c.el s
  let vs := [4, 5, 6].map (fun i => e.q.ph 0 i)
  let cs := [0, 1, 2].map (fun i => e.q.ph 0 i)
  if !((vs ++ cs).all Ph.valid) then c.holdEl s blk 0 0
  else
    let v3 := thr1000 (field b 12 4)
    let i1 := e.q.i1.mag
    let p1 := if vs.all (fun v => decide (v3 ≤ v.mag)) then tset x.p 1 (i1 + 1 : Nat) else x.p
    let i1h : Int := match tget? p1 1 with | some j => j - 1 | none => 0
    let v2 := e.q.v2.mag
    let asym := decide (thr1000 (field b 4 4) ≤ v2) && decide ((e.q.i2 0).mag < thr1000 (field b 8 4))
    let ff3 := decide (field b 1 1 = 1) && vs.all (fun v => decide (v.mag < v3)) && cs.all (fun i => decide (thr1000 (field b 16 4) ≤ i.mag))
      && decide (((i1 : Int) - i1h).natAbs < thr1000 (field b 20 4))
    let mcb := e.sig c (field b 2 2)
    let raw := asym || ff3 || mcb
    let healthy := vs.all (fun v => decide (thr1000 700 ≤ v.mag)) && decide (v2 < thr1000 (field b 4 4))
    let h := timer p1 101 healthy e.kap
    let t := timer h.1 100 ((raw || pbit x.p 2) && !blk) e.kap
    let lt := (pbit x.p 2 || ran t.2 (usToK e.rate (field b 24 4))) && !ran h.2 (usToK e.rate 100000)
    let op := (raw || lt) && !blk
    c.setEl s ((if op then oOP else 0) + (if blk then oBX else 0) + (if lt then o11 else 0) + (if mcb then o12 else 0)) x.ty (psetb t.1 2 lt)

/-! ### SYNC_CHECK (R276, R277) -/

/-- A constant in Q1.30: `n` thousandths at an angle of `a` tenths of a degree. -/
def constAt (n : Nat) (a : Int) : Int × Int :=
  let w := cosSinFx a 3600
  (rdivI (w.1 * n * 2 ^ 30) (fxS * 1000), rdivI (w.2 * n * 2 ^ 30) (fxS * 1000))

/-- SYNC_CHECK (R277); private: 1 the previous Δθ + 1, 2 the slip, timer 100. -/
def elSyncCheck (e : Env) (c : Ctx) (r b : List Byte) (blk : Bool) : Ctx :=
  let s := erSlot r
  let x := c.el s
  let ln := field b 1 1
  let vl := if ln < 3 then e.q.ph 0 (4 + ln) else ((e.q.ph 0 (4 + (ln - 3))).sub (e.q.ph 0 (4 + (ln - 2) % 3))).divS3
  let k := constAt (field b 12 4) (toSigned 16 (field b 10 2))
  let vb := (e.q.ph 0 7).mulC k.1 k.2
  if !(vl.valid && vb.valid) then c.holdEl s blk 0 0
  else
    let dth := fwrap (fsub b32 vl.arg vb.arg)
    let slip0 := (tget 0 x.p 2).toNat
    let slip := match tget? x.p 1 with
      | some j =>
        let raw := fdiv b32 (fmul b32 (fwrap (fsub b32 dth (j - 1).toNat)) (fint b32 e.rate)) (fint b32 (erCad r * 360 : Nat))
        fadd b32 slip0 (fdiv b32 (fsub b32 raw slip0) (fint b32 8))
      | none => slip0
    let lv := thr1000 (field b 16 4)
    let dv := thr1000 (field b 20 4)
    let ll := decide (lv ≤ vl.mag)
    let bl := decide (lv ≤ vb.mag)
    let ld := decide (vl.mag < dv)
    let bd := decide (vb.mag < dv)
    let sync := ll && bl && decide (((vl.mag : Int) - vb.mag).natAbs ≤ thr1000 (field b 4 2)) && fle b32 (fabs b32 dth) (frat b32 (field b 6 2 : Nat) 10)
      && fle b32 (fabs b32 slip) (frat b32 (field b 8 2 : Nat) 1000)
    let m := field b 2 1
    let dead := (bitOf m 0 && ld && bl) || (bitOf m 1 && ll && bd) || (bitOf m 2 && ld && bd)
    let st := (sync || dead) && !blk
    let t := timer x.p 100 st e.kap
    let op := ran t.2 (usToK e.rate (field b 24 4))
    c.setEl s (vec [st] [op] + (if blk then oBX else 0) + (if ll then o11 else 0) + (if bl then o12 else 0) + (if op && dead then o13 else 0)) x.ty
      (tset (tset t.1 1 (dth + 1 : Nat)) 2 (slip : Nat))

/-! ### INCR_DIR and TW_LOC (R278 to R280) -/

/-- An IR output by its number. -/
def IrRing.at? (x : IrRing) (i : Nat) : Option SampleWord := if i < x.n ∧ x.n ≤ i + 41472 then tget? x.w (i % 41472) else none

/-- The numbers of the IR outputs tagged after one instant and at or before another, ascending. -/
def IrRing.between (x : IrRing) (a b : QInst) : List Nat :=
  ((List.range (capN 1024 x.n)).map (fun j => x.n - capN 1024 x.n + j)).filter (fun i => match x.at? i with | some w => decide (a < w.at_) && decide (w.at_ ≤ b) | none => false)

/-- A normalised IR value in binary64, per unit; `none` where it is not usable. -/
def irNorm (k : BayConst) (ch : Nat) (x : IrRing) (i : Nat) : Option Nat :=
  match x.at? i with
  | some w => if qHas w.q.toNat qVALID && !qHas w.q.toNat qSETTLING then some (frat b64 (rdivI (w.value * k.mloc.getD ch 0) (2 ^ k.sloc.getD ch 1)) (2 ^ 24)) else none
  | none => none

/-- The sums of a phase: dsum, esum, wsum (R279); `none` without a full history of usable outputs. -/
def incrSums (e : Env) (k : BayConst) (th ph : Nat) : Option (Nat × Nat × Nat × Nat) :=
  let ain (c : Nat) : Nat := mapAin (brMap e.recd c)
  let ri := tget ⟨0, []⟩ e.prep.ir (ain ph)
  let rv := tget ⟨0, []⟩ e.prep.ir (ain (4 + ph))
  let fn := if k.hz60 then 60 else 50
  let n := if k.hz60 then 17280 else 20736
  let w := cosSinFx th 3600
  let co := frat b64 w.1 fxS
  let si := frat b64 w.2 fxS
  let g := fdiv b64 (fint b64 1036800) (fmul b64 (frat b64 (tauFx : Nat) fxS) (fint b64 fn))
  let a := (e.at_.prev e.rate).q e.rate
  let z := e.at_.q e.rate
  let js := ri.between a z
  let jv := rv.between a z
  let d (r : IrRing) (c j : Nat) : Option Nat := if j < n then none else match irNorm k c r j, irNorm k c r (j - n) with | some p, some q => some (fsub b64 p q) | _, _ => none
  let one (acc : Option (Nat × Nat × Nat × Nat)) (jj : Nat × Nat) : Option (Nat × Nat × Nat × Nat) :=
    match acc, d ri ph jj.1, d ri ph (jj.1 - 1), d rv (4 + ph) jj.2 with
    | some (ds, es, ws, m), some di, some dp, some dv =>
      let du := fadd b64 (fmul b64 co di) (fmul b64 (fmul b64 si (fsub b64 di dp)) g)
      some (fadd b64 ds (fmul b64 dv du), fadd b64 es (fmul b64 du du), fadd b64 ws (fmul b64 dv dv), m + 1)
    | _, _, _, _ => none
  if js.isEmpty ∨ js.length ≠ jv.length then none else (js.zip jv).foldl one (some (0, 0, 0, 0))

/-- The decision of a phase: 1 forward, 2 reverse, 0 none (R279). -/
def incrDecide (b : List Byte) (x : Nat × Nat × Nat × Nat) : Nat :=
  let (ds, es, ws, n) := x
  let sq (v d : Nat) : Nat := let k := frat b64 (v : Nat) d; fmul b64 k k
  let big (sum v : Nat) : Bool := fle b64 (fmul b64 (sq v 1000) (fint b64 n)) sum
  let strong := fle b64 (fmul b64 (sq (field b 12 2) 1000) (fmul b64 es ws)) (fmul b64 ds ds)
  if big es (field b 4 4) && big ws (field b 8 4) && strong then (if flt b64 ds 0 then 1 else 2) else 0

/-- INCR_DIR (R279); private 1 to 3: the decision held on a phase, 100 to 102: κ + 1 at which it was made. -/
def elIncrDir (e : Env) (c : Ctx) (r b : List Byte) (blk : Bool) : Ctx :=
  let s := erSlot r
  let x := c.el s
  let sums := (List.range 3).map (fun p => incrSums e c.const (field b 2 2) p)
  if sums.any Option.isNone then c.setEl s (x.out / 2 ^ 11 * 2 ^ 11 + oBQ + (if blk then oBX else 0)) x.ty x.p
  else
    let hold := usToK e.rate (field b 16 4)
    let one (p : Tab Int) (i : Nat) : Tab Int :=
      let d := match sums.getD i none with | some v => incrDecide b v | none => 0
      let live := match tget? p (100 + i) with | some j => decide (e.kap + 1 - j.toNat < hold) | none => false
      let cur := if live then (tget 0 p (1 + i)).toNat else 0
      let p0 := if live then p else terase (terase p (1 + i)) (100 + i)
      if d ≠ 0 ∧ (cur = 0 ∨ cur = d) then tset (tset p0 (1 + i) (d : Nat)) (100 + i) (e.kap + 1 : Nat) else p0
    let p1 := (List.range 3).foldl one x.p
    let is (v : Nat) : List Bool := (List.range 3).map (fun i => decide (tget 0 p1 (1 + i) = (v : Int)) && !blk)
    c.setEl s (bitsFrom 0 [(is 1).any id] + bitsFrom 1 (is 1) + bitsFrom 4 [(is 2).any id] + bitsFrom 5 (is 2) + (if blk then oBX else 0)) x.ty p1

/-- The earliest of the wavefronts that pass a test (R280). -/
def firstFront (fr : List Front) (ok : Front → Bool) : Option Front :=
  (fr.filter ok).foldl (fun a f => match a with | some g => if f.t < g.t then some f else a | none => some f) none

/-- TW_LOC (R280); private: 1 start of the previous instant, 2 searching, 3 t1, 4 mode β of t1, 5 polarity of t1, 6 location valid, 7 the location in binary32 metres, 8 no location. AGREE compares the two locations at each execution while both are valid. It holds until the preprocessor has 10 ms of history (R278). -/
def elTwLoc (e : Env) (c : Ctx) (r b : List Byte) (blk : Bool) : Ctx :=
  let s := erSlot r
  let x := c.el s
  let start := e.sig c (field b 2 2)
  let edge := start && !pbit x.p 1
  let here := e.at_.q e.rate
  let tw := tget ⟨[], none, none, [], []⟩ e.prep.tw e.bay
  let fr := tw.fronts
  let pre := field b 16 4 * 4000
  let p0 := psetb x.p 1 start
  let p1 :=
    if edge then
      let q := [3, 4, 5, 6, 7, 8].foldl terase p0
      match firstFront fr (fun f => decide (here ≤ f.t + pre) && decide (f.t ≤ here)) with
      | some f => psetb (psetb (tset (tset q 3 (f.t : Nat)) 2 1) 4 f.beta) 5 f.pos
      | none => tset (terase q 2) 8 1
    else p0
  let v := field b 4 4
  let len := field b 8 4
  let span := 2 * len * 1000 * 4000 / v
  let p2 :=
    if pbit p1 2 then
      let t1 := (tget 0 p1 3).toNat
      match firstFront fr (fun f => decide (t1 < f.t) && decide (f.t ≤ t1 + span) && decide (f.beta = pbit p1 4) && decide (f.pos = pbit p1 5)) with
      | some f => tset (tset (terase p1 2) 6 1) 7 ((frat b32 (v * (f.t - t1) : Nat) 8000000 : Nat) : Int)
      | none => if t1 + span < here then tset (terase p1 2) 8 1 else p1
    else p1
  let imp := field b 20 1
  let il := c.el imp
  let agree := pbit p2 6 && decide (imp < 64) && decide (il.ty = 0x16) && bitOf il.out 11
    && fle b32 (fabs b32 (fsub b32 (tget 0 p2 7).toNat (tget 0 il.p 7).toNat)) (frat b32 (len : Nat) 10)
  let full := match tw.first with | some t => decide (t + 40000000 ≤ here) | none => false
  if !full then c.holdEl s blk 0 0
  else c.setEl s ((if blk then oBX else if pbit p2 2 then oSTART else 0) + (if pbit p2 6 then o11 else 0) + (if pbit p2 8 then o12 else 0) + (if agree then o13 else 0)) x.ty p2

/-! ### IMP_LOC (R281) -/

/-- A snapshot of IA to IC kept at private keys from `k`. -/
def snapAt (p : Tab Int) (k i : Nat) : Ph := ⟨tget 0 p (k + 2 * i), tget 0 p (k + 2 * i + 1), true, false, false⟩

/-- m of one execution (R281); the pre-fault currents stand at key `k`. -/
def impM (e : Env) (b : List Byte) (p : Tab Int) (k : Nat) : Nat :=
  let ip (i : Nat) : Ph := e.q.ph 0 i
  let dmag (i : Nat) : Nat := ((ip i).sub (snapAt p k i)).mag
  let top := (List.range 3).foldl (fun a i => if a < dmag i then dmag i else a) 0
  let half := (List.range 3).filter (fun i => decide (top ≤ 2 * dmag i))
  let least := (List.range 3).foldl (fun a i => if dmag i < dmag a then i else a) 0
  let loop := match decide (thr1000 100 ≤ (e.q.i30 0).mag), half with
    | true, [i] => i
    | _, _ => match least with | 2 => 3 | 0 => 4 | _ => 5
  let k0 := k0Of b 8 10
  let il := (loopI e 0 k0 loop).1
  let vl := (loopV e 0 loop).cf
  let q := loopPhases loop
  let ds := if loop < 3 then (e.q.i30 0).cf else il.sub ((snapAt p k q.1).sub (snapAt p k q.2)).cf
  let z1 := polar (frat b32 (field b 4 2 : Nat) 1000) (frat b32 (field b 6 2 : Nat) 10)
  fdiv b32 (vl.mul ds.conj).im ((z1.mul il).mul ds.conj).im

/-- IMP_LOC (R281); private: 1 start of the previous execution, 2 κ of the last snapshot + 1, 3 which snapshot is newer, 20 and 30 the snapshots, 4 searching, 5 executions done, 6 the sum of m, 7 the location, 8 LOC_VALID, 9 OUT_OF_RANGE, 10 the snapshot in use, timer 100 from the start edge. -/
def elImpLoc (e : Env) (c : Ctx) (r b : List Byte) (blk : Bool) : Ctx :=
  let s := erSlot r
  let x := c.el s
  let start := e.sig c (field b 2 2)
  let edge := start && !pbit x.p 1
  let valid := (List.range 7).all (fun i => decide (i = 3) || (e.q.ph 0 i).valid)
  let p0 := psetb x.p 1 start
  let cyc := e.rate / (if c.const.hz60 then 60 else 50)
  let due := match tget? p0 2 with | some j => decide (cyc ≤ e.kap + 1 - j.toNat) | none => true
  let p1 :=
    if !start && due && (List.range 3).all (fun i => (e.q.ph 0 i).valid) then
      let upTo := if pbit p0 3 then 20 else 30
      let q := (List.range 3).foldl (fun q i => tset (tset q (upTo + 2 * i) (e.q.ph 0 i).re) (upTo + 2 * i + 1) (e.q.ph 0 i).im) p0
      psetb (tset q 2 (e.kap + 1 : Nat)) 3 (!pbit p0 3)
    else p0
  -- with the newer snapshot at 30 when bit 3 is set, the older stands at 20
  let p2 := if edge then tset (tset ([5, 6, 7, 8, 9, 100].foldl terase p1) 4 1) 10 (if pbit p1 3 then 20 else 30) else p1
  let t := timer p2 100 (pbit p2 4) e.kap
  if !valid && !(pbit t.1 4 && ran t.2 (usToK e.rate (field b 16 4))) then c.holdEl s blk 0 0 else
  let p3 :=
    if pbit t.1 4 && ran t.2 (usToK e.rate (field b 16 4)) then
      if !valid then terase (terase t.1 4) 100
      else
        let m := fadd b32 (tget 0 t.1 6).toNat (impM e b t.1 (tget 0 t.1 10).toNat)
        let n := (tget 0 t.1 5).toNat + 1
        let q := tset (tset t.1 5 (n : Nat)) 6 (m : Nat)
        if n < field b 1 1 then q
        else
          let mean := fdiv b32 m (fint b32 n)
          let ok := fle b32 0 mean && fle b32 mean (frat b32 12 10)
          psetb (psetb (tset (terase (terase q 4) 100) 7 (fmul b32 mean (fint b32 (field b 12 4 : Nat)) : Nat)) 8 ok) 9 (!ok)
    else t.1
  c.setEl s ((if blk then oBX else if pbit p3 4 then oSTART else 0) + (if valid then 0 else oBQ) + (if pbit p3 8 then o11 else 0) + (if pbit p3 9 then o12 else 0)) x.ty p3

/-! ### PQ_MON (R282) -/

/-- THD of a channel (R282). -/
def thdOf (e : Env) (ch : Nat) : Nat :=
  let x1 := e.q.ph 0 ch
  if x1.mag < thr1000 100 then 0
  else
    let ss := (List.range 24).foldl (fun a i => let h := frat b32 ((harmonic e.hist e.kap e.q e.rate ch (i + 2)).mag : Nat) (2 ^ 24); fadd b32 a (fmul b32 h h)) 0
    fdiv b32 (fsqrt ss) (frat b32 (x1.mag : Nat) (2 ^ 24))

/-- PQ_MON (R282); private: 1 the next pair, 10 to 12 THD of VA to VC, 13 to 15 of IA to IC, 20 to 22 phases in swell, 23 to 25 in sag, timers 100 and 101 for the voltage and current THD. -/
def elPqMon (e : Env) (c : Ctx) (r b : List Byte) (blk : Bool) : Ctx :=
  let s := erSlot r
  let x := c.el s
  let ok := (List.range 7).all (fun i => decide (i = 3) || (e.q.ph 0 i).valid)
  if !ok then c.holdEl s blk 0 0
  else
    let vm (p : Nat) : Nat := (e.q.ph 0 (4 + p)).mag
    let hy := field b 6 2
    let sag := (List.range 3).map (fun p => if pbit x.p (23 + p) then !decide (thr1000 (field b 2 2 + hy) < vm p) else decide (vm p < thr1000 (field b 2 2)))
    let swell := (List.range 3).map (fun p => if pbit x.p (20 + p) then !decide (vm p < thr1000 (field b 4 2 - hy)) else decide (thr1000 (field b 4 2) < vm p))
    let i := (tget 0 x.p 1).toNat
    let p1 := tset (tset (tset x.p 1 (((i + 1) % 3 : Nat) : Int)) (10 + i) (thdOf e (4 + i) : Nat)) (13 + i) (thdOf e i : Nat)
    let p2 := (enumFrom0 (swell ++ sag)).foldl (fun p a => psetb p (20 + a.1) a.2) p1
    let above (k o : Nat) : Bool := (List.range 3).any (fun j => flt b32 (frat b32 (field b o 2 : Nat) 1000) (tget 0 p2 (k + j)).toNat)
    let tv := timer p2 100 (above 10 8) e.kap
    let ti := timer tv.1 101 (above 13 10) e.kap
    let d := usToK e.rate (field b 16 4)
    let unb := decide (0 < e.q.v1.mag) && decide (field b 12 2 * e.q.v1.mag ≤ 1000 * e.q.v2.mag)
    c.setEl s ((if blk then oBX else bitsFrom 0 [sag.any id] + bitsFrom 1 sag) + bitsFrom 11 [sag.any id, swell.any id, ran tv.2 d, ran ti.2 d, unb]) x.ty ti.1

/-! ### LOGIC (R283 to R285) -/

/-- An operation of a LOGIC element from its record and state: the output, or none for NOP, and the new state (R284). -/
def logicOp (e : Env) (op : Nat) (a b c : Bool) (d st : Nat) (cnt : Nat) : Option Bool × Nat :=
  let since (n : Nat) : Nat := e.kap - n
  match op with
  | 0x01 => (some (a && b && c), st)
  | 0x02 => (some (a || b || c), st)
  | 0x03 => (some (a != (b != c)), st)
  | 0x04 => (some ((a && b) || (a && c) || (b && c)), st)
  | 0x05 => let v := a || (decide (st = 1) && !b); (some v, b2n v)
  | 0x06 => let v := (a || decide (st = 1)) && !b; (some v, b2n v)
  | 0x07 => if a then (let s1 := if st = 0 then e.kap + 1 else st; (some (decide (d ≤ since (s1 - 1))), s1)) else (some false, 0)
  | 0x08 =>
    if a then (some true, 1)
    else if st = 0 then (some false, 0)
    else let s1 := if st = 1 then e.kap + 2 else st; if since (s1 - 2) < d then (some true, s1) else (some false, 0)
  | 0x09 =>
    let was := decide (st % 2 = 1)
    let run := st / 2
    let live := decide (run ≠ 0) && decide (since (run - 1) < d)
    if live then (some true, run * 2 + b2n a)
    else if a && !was then (some (decide (0 < d)), (e.kap + 1) * 2 + b2n a)
    else (some false, b2n a)
  | 0x0A => (some (a && decide (st = 0)), b2n a)
  | 0x0B => (some (!a && decide (st = 1)), b2n a)
  | 0x0C =>
    let n0 := st / 2
    let n := if b then 0 else if a && decide (st % 2 = 0) then capN 65535 (n0 + 1) else n0
    (some (decide (cnt ≤ n)), n * 2 + b2n a)
  | _ => (none, st)

/-- An input of an operation: an input of 0xFFFF counts as 1 for AND and MAJ, as 0 otherwise. -/
def logicIn (e : Env) (c : Ctx) (op ref : Nat) : Bool :=
  if ref = 0xFFFF then decide (op = 0x01) || decide (op = 0x04) else e.sig c ref

/-- A logic variable written. -/
def Ctx.setVar (c : Ctx) (v : Nat) (x : Bool) : Ctx :=
  { c with vars := if bitOf c.vars v = x then c.vars else if x then c.vars + 2 ^ v else c.vars - 2 ^ v }

/-- The operations of a table run in order, from operation `j` of the bay. -/
def logicRun (e : Env) (tab : List Byte) : Nat → Nat → Nat → Ctx → Ctx
  | 0, _, _, c => c
  | n + 1, i, j, c =>
    let r := slice tab (12 * i) 12
    let op := field r 0 1
    let st := tget 0 c.logic j
    let o := logicOp e op (logicIn e c op (field r 2 2)) (logicIn e c op (field r 4 2)) (logicIn e c op (field r 6 2)) (usToK e.rate (field r 8 4)) st (field r 8 4)
    let c1 := { c with logic := if o.2 = 0 then terase c.logic j else tset c.logic j o.2 }
    let c2 := match o.1 with | some v => c1.setVar (field r 1 1) v | none => c1
    logicRun e tab n (i + 1) (j + 1) c2

/-- The operation table of a LOGIC block. -/
def logicTable (set b : List Byte) : List Byte := slice set (field b 2 2) (12 * field b 1 1)

/-- The operations of the LOGIC elements of lower slots: the number of this element's first operation (R292). -/
def logicBase (e : Env) (slot : Nat) : Nat :=
  (e.els.filter (fun r => erType r = 0x17 ∧ erSlot r < slot)).foldl (fun n r => n + field (e.block (erSlot r)) 1 1) 0

/-- LOGIC (R283). -/
def elLogic (e : Env) (c : Ctx) (r b : List Byte) (blk : Bool) : Ctx :=
  let s := erSlot r
  let tab := logicTable e.set b
  if blk then
    let c1 := (List.range (field b 1 1)).foldl (fun x i => if field tab (12 * i) 1 = 0 then x else x.setVar (field tab (12 * i + 1) 1) false) c
    c1.setEl s oBX 0x17 []
  else (logicRun e tab (field b 1 1) 0 (logicBase e s) c).setEl s 0 0x17 []

end Sys2Proof.Machine
end

