-- ==== Sys2Proof/Machine/ElemSet.lean ====
section
/-! DEFINITION. The settings checks of every element type (R239, R297), the BAY_START state of an element, and the settings-group switch (R201, R243 to R284, R296). -/

namespace Sys2Proof.Machine

/-- Whether channels are mapped by the BAY record. -/
def mapsAll (recd : List Byte) (cs : List Nat) : Bool := cs.all (fun c => decide (mapKind (brMap recd c) ≠ 0))

/-- The type of the element in a slot. -/
def typeIn (els : List (List Byte)) (slot : Nat) : Option Nat := (els.find? (fun r => erSlot r = slot)).map erType

/-- The fields of INST_OC and TIME_OC that are alike (R243, R245). -/
def ocOk (recd : List Byte) (els : List (List Byte)) (b : List Byte) : Bool :=
  rng b 1 1 0 3 && rng b 2 1 0 2 && rngSlot b 3 && rng b 4 1 0 2 && rng b 5 1 95 99 && rngSlot b 6
    && (decide (field b 3 1 = 0xFF) || decide (typeIn els (field b 3 1) = some 0x03))
    && (decide (field b 6 1 = 0xFF) || decide (typeIn els (field b 6 1) = some 0x0E))
    && mapsAll recd (if field b 1 1 = 1 then [3] else [0, 1, 2])

/-- TIME_OC's own fields (R245). -/
def timeOk (set b : List Byte) : Bool :=
  let code := field b 7 1
  rng b 7 1 0 11 && rng b 8 4 50 4000
    && (if code = 0 then rng b 16 4 10000 600000000 else if 5 ≤ code ∧ code ≤ 7 then rng b 12 4 100 15000 else rng b 12 4 10 1500)
    && rng b 20 4 0 1000000 && rng b 24 4 0 60000000 && rng b 28 1 0 2 && rng b 29 1 2 40 && rngRef b 30
    && (decide (code < 8) || userOk (userCurve set (code - 8)))
    && (decide (field b 28 1 ≠ 2) || (decide (5 ≤ code) && (decide (code ≤ 7) || decide (field (userCurve set (code - 8)) 4 4 ≠ 0))))

/-- The operations of a LOGIC element (R283, R284). -/
def logicOk (set b : List Byte) : Bool :=
  let t := logicTable set b
  rng b 1 1 1 64 && decide (field b 2 2 % 4 = 0) && rngRef b 4 &&
    (List.range (field b 1 1)).all (fun i =>
      let r := slice t (12 * i) 12
      rng r 0 1 0 0x0C && rngRef r 2 && rngRef r 4 && rngRef r 6 && (decide (field r 0 1 ≠ 0x0C) || rng r 8 4 1 65535))

/-- The settings of an element against their ranges (R243 to R284), with the reserved bytes whose range a table states as 0. -/
def elRanges (recd : List Byte) (els : List (List Byte)) (set : List Byte) (ty : Nat) (b : List Byte) : Bool :=
  rng b 0 1 0 1 &&
  match ty with
  | 0x01 => rsvd b 7 1 && rsvd b 18 14 && ocOk recd els b && rng b 8 4 50 40000 && rng b 12 4 0 60000000 && rngRef b 16
  | 0x02 => ocOk recd els b && timeOk set b
  | 0x03 => rsvd b 22 10 && rng b 1 1 0 2 && rng b 2 1 0 1 && rng b 3 1 0 1 && rng b 4 2 0 900 && rng b 6 2 600 900 && rng b 8 4 5 200 && rng b 12 4 20 1000
      && rng b 16 4 0 500000 && rngRef b 20
  | 0x04 => rsvd b 30 2 && rng b 1 1 1 3 && rng b 2 1 0 1 && rng b 3 1 0 2 && rng b 4 2 10 60000 && rng b 6 2 10 60000 && rng b 8 2 10 60000 && rng b 10 2 10 60000
      && rng b 12 2 450 890 && rngS b 14 (-150) 150 && rng b 16 2 0 4000 && rngS b 18 (-1800) 1800 && rng b 20 4 50 2000 && rng b 24 4 0 10000000 && rngRef b 28
  | 0x05 => rsvd b 10 2 && rsvd b 30 2 && rng b 1 1 1 3 && rng b 2 1 0 1 && rng b 3 1 0 1 && rng b 4 2 10 60000 && rng b 6 2 450 890 && rng b 8 2 0 250 && rng b 12 2 0 4000
      && rngS b 14 (-1800) 1800 && rng b 16 2 50 2000 && rng b 18 2 5 200 && rng b 20 4 0 500000 && rng b 24 4 0 10000000 && rngRef b 28
  | 0x06 => rsvd b 5 3 && rsvd b 30 2 && rng b 1 1 0 3 && rng b 2 1 0 1 && rng b 3 1 0 1 && rng b 4 1 95 99 && rng b 8 4 50 1200 && rng b 12 4 0 500 && rng b 16 4 0 600000000
      && rng b 20 4 10 10000 && rng b 24 4 0 1000000 && rngRef b 28
  | 0x07 => rsvd b 5 3 && rsvd b 30 2 && rng b 1 1 0 3 && rng b 2 1 0 1 && rng b 3 1 0 1 && rng b 4 1 95 99 && rng b 8 4 500 2000 && rng b 12 4 0 500 && rng b 16 4 0 600000000
      && rng b 20 4 10 10000 && rng b 24 4 0 1000000 && rngRef b 28
  | 0x08 => rng b 4 1 95 99 && rng b 8 4 20 1000 && rng b 16 4 0 600000000 && rngRef b 28
  | 0x09 => rsvd b 2 2 && rsvd b 22 10 && rng b 1 1 0 1 && rng b 4 4 40000 70000 && rng b 8 4 10 500 && rng b 12 4 0 60000000 && rng b 16 4 0 1000 && rngRef b 20
      && (decide (field b 16 4 = 0) || mapsAll recd [4, 5, 6])
  | 0x0A => rsvd b 2 2 && rsvd b 22 10 && rng b 1 1 0 2 && rng b 4 4 50 20000 && rng b 8 4 90 99 && rng b 12 4 0 60000000 && rng b 16 4 0 1000 && rngRef b 20
      && (decide (field b 16 4 = 0) || mapsAll recd [4, 5, 6])
  | 0x0B => rsvd b 22 10 && rng b 1 1 0 1 && rng b 2 2 1000 1500 && rng b 4 4 100 4000 && rng b 8 4 1 60000 && rng b 12 4 1 60000 && rng b 16 1 50 150 && rng b 17 1 80 150
      && rng b 18 1 50 99 && rng b 19 1 0 150 && rngRef b 20
  | 0x0C => rsvd b 3 1 && rng b 1 1 0 2 && rng b 2 1 0 1 && rngRef b 4 && rngRef b 6 && rngRef b 8 && rngRef b 10 && rngRef b 12 && rngRef b 14 && rng b 16 4 20 2000
      && rng b 20 4 0 2000 && rng b 24 4 0 1000000 && rng b 28 4 20000 1000000
  | 0x0D => rsvd b 3 1 && rsvd b 28 4 && rng b 1 1 1 4 && rng b 2 1 0 1 && rngRef b 4 && rngRef b 6 && decide (field b 6 2 ≠ 0xFFFF) && rngRef b 8 && rngRef b 10
      && rng b 12 2 10 60000 && rng b 14 2 10 60000 && rng b 16 2 10 60000 && rng b 18 2 10 60000 && rng b 20 2 10 6000 && rng b 22 2 20 2000
      && rng b 24 2 0 6000 && rng b 26 2 20 10000
  | 0x0E => rng b 1 1 0 1 && rng b 2 2 100 500 && rngRef b 4 && rngRef b 6 && rng b 8 4 1000000 3600000000 && rng b 12 4 100000 3600000000
      && rng b 16 4 20 500 && rng b 20 4 0 600000000 && rng b 24 4 100 4000
  | 0x0F => rng b 2 2 100 1000 && rng b 4 4 50 1000 && rng b 8 4 500 4000 && rng b 12 4 0 600000000 && rngRef b 16
  | 0x10 => rsvd b 28 4 && rng b 1 1 0 1 && rng b 2 1 0 1 && rng b 3 1 1 20 && rng b 4 1 (field b 3 1) 30 && rng b 5 1 1 60 && rng b 6 2 150 2000 && rng b 8 4 1 100000
      && rng b 12 4 2 500 && rng b 16 4 10 2000 && rng b 20 2 6 360 && rngRef b 22 && rng b 24 4 5 200
  | 0x11 => rng b 1 1 0 2 && rng b 2 1 0 1 && rng b 4 4 50 2000 && rng b 8 4 10 500 && rng b 12 4 0 60000000 && rngRef b 16
      && (decide (field b 1 1 = 1) || mapsAll recd [3]) && (decide (field b 1 1 = 0) || mapsAll recd [4, 5, 6])
  | 0x12 => rsvd b 30 2 && rng b 1 1 0 1 && rngRef b 2 && rng b 4 4 20 500 && rng b 8 4 20 500 && rng b 12 4 100 700 && rng b 16 4 20 1000 && rng b 20 4 20 1000
      && rng b 24 4 0 60000000 && rngRef b 28
  | 0x13 => rsvd b 3 1 && rsvd b 30 2 && rng b 1 1 0 5 && rng b 2 1 0 7 && rng b 4 2 10 500 && rng b 6 2 10 600 && rng b 8 2 10 1000 && rngS b 10 (-1800) 1800 && rng b 12 4 500 2000
      && rng b 16 4 500 1200 && rng b 20 4 50 500 && rng b 24 4 0 10000000 && rngRef b 28
  | 0x14 => rng b 2 2 450 900 && rng b 4 4 20 2000 && rng b 8 4 5 500 && rng b 12 2 100 900 && rngRef b 14 && rng b 16 4 1000 100000
  | 0x15 => rngRef b 2 && rng b 4 4 150000 300000 && rng b 8 4 100 200000 && rng b 12 4 5 2000 && rng b 16 4 0 2000 && rngSlot b 20 && rngRef b 22
  | 0x16 => rng b 1 1 1 8 && rngRef b 2 && rng b 4 2 10 60000 && rng b 6 2 450 890 && rng b 8 2 0 4000 && rngS b 10 (-1800) 1800 && rng b 12 4 100 200000
      && rng b 16 4 10000 100000 && rngRef b 20
  | 0x17 => rsvd b 6 26 && logicOk set b
  | 0x18 => rng b 2 2 500 950 && rng b 4 2 1050 1500 && rng b 6 2 5 50 && rng b 8 2 10 300 && rng b 10 2 10 500 && rng b 12 2 5 100 && rngRef b 14
      && rng b 16 4 0 10000000
  | _ => false

/-- How an element stands in a settings group. -/
inductive ElMode
  | empty | wrong | off | on
deriving DecidableEq, Repr

/-- The standing of an element in a settings group: an empty slot, a settings error (R239, R297), disabled, or enabled. -/
def elMode (recd : List Byte) (els : List (List Byte)) (set r : List Byte) : ElMode :=
  let s := erSlot r
  if sgEmpty set s then .empty
  else
    match sgBlock set s with
    | none => .wrong
    | some b =>
      let spans := sgSpans set els
      if spanOk spans s && (decide (erType r ≠ 0x17) || spanOk spans (s + 64)) && elRanges recd els set (erType r) b then
        (if field b 0 1 = 1 then .on else .off)
      else .wrong

/-- Where an element type keeps blk. -/
def blkAt (ty : Nat) : Nat :=
  match ty with
  | 0x01 => 16 | 0x02 => 30 | 0x03 => 20 | 0x09 => 20 | 0x0A => 20 | 0x0B => 20 | 0x0C => 14 | 0x0D => 10 | 0x0E => 6 | 0x0F => 16 | 0x10 => 22
  | 0x11 => 16 | 0x14 => 14 | 0x15 => 22 | 0x16 => 20 | 0x17 => 4 | 0x18 => 14 | _ => 28

/-- One execution of an enabled element. -/
def execEl (e : Env) (c : Ctx) (r b : List Byte) : Ctx :=
  let blk := e.sig c (field b (blkAt (erType r)) 2)
  match erType r with
  | 0x01 => elInstOc e c r b blk
  | 0x02 => elTimeOc e c r b blk
  | 0x03 => elDirection e c r b blk
  | 0x04 => elDistanceQuad e c r b blk
  | 0x05 => elDistanceMho e c r b blk
  | 0x06 => elUndervolt e c r b blk
  | 0x07 => elOvervolt e c r b blk
  | 0x08 => elNegseqOv e c r b blk
  | 0x09 => elFreq e c r b blk
  | 0x0A => elRocof e c r b blk
  | 0x0B => elThermal e c r b blk
  | 0x0C => elBrkfail e c r b blk
  | 0x0D => elReclose e c r b blk
  | 0x0E => elColdLoad e c r b blk
  | 0x0F => elBrokenCond e c r b blk
  | 0x10 => elHiz e c r b blk
  | 0x11 => elCtSupv e c r b blk
  | 0x12 => elVtSupv e c r b blk
  | 0x13 => elSyncCheck e c r b blk
  | 0x14 => elIncrDir e c r b blk
  | 0x15 => elTwLoc e c r b blk
  | 0x16 => elImpLoc e c r b blk
  | 0x17 => elLogic e c r b blk
  | _ => elPqMon e c r b blk

/-- Everything of an element's slot returned to zero, its comparators and integrators too. -/
def clearEl (c : Ctx) (r : List Byte) : Ctx :=
  let c1 := (List.range (erCompN r)).foldl (fun x i => { x with comps := tmod ⟨0, 95, false, false, erSlot r⟩ x.comps (erComp r + i) (fun k => { k with p := false }) }) c
  (c1.zeroInteg (erInt r) (erIntN r)).setEl (erSlot r) 0 (erType r) []

/-- An element's BAY_START state but for thermal memory (R268, R270). -/
def startEl (c : Ctx) (bins gi : Nat) (at_ : EvalAt) (set r : List Byte) : Ctx :=
  let c1 := clearEl c r
  let b := (sgBlock set (erSlot r)).getD []
  match erType r with
  | 0x0D =>
    let cb := sigAt c1 bins gi (field b 6 2)
    { c1 with rc := ⟨if cb then .ready else .lockout, 0, erSlot r, at_⟩ }.setEl (erSlot r) 0 0x0D (psetb [] 2 cb)
  | 0x0E => c1.setEl (erSlot r) 0 0x0E (psetb [] 1 (decide (field b 1 1 = 1)))
  | _ => c1

/-- An element at BAY_START (R264, R304); its check against R239 shows from its first instant on. -/
def beginEl (bins gi : Nat) (at_ : EvalAt) (set : List Byte) (c : Ctx) (r : List Byte) : Ctx :=
  let c1 := startEl c bins gi at_ set r
  if erType r = 0x0B then match sgBlock set (erSlot r) with
    | some b => { c1 with theta := tset c1.theta (erSlot r) (frat b32 (field b 19 1 : Nat) 100) }
    | none => c1 else c1

/-- An element at a settings-group switch from `old` to `new` (R201, R239). -/
def switchEl (recd : List Byte) (els : List (List Byte)) (bins gi : Nat) (at_ : EvalAt) (old new : List Byte) (c : Ctx) (r : List Byte) : Ctx :=
  let s := erSlot r
  let x := c.el s
  let wasOn := decide (elMode recd els old r = .on)
  match elMode recd els new r with
  | .wrong => c.setEl s ((if bitOf x.out 8 then oBQ else 0) + oSE) x.ty x.p
  | .on =>
    if wasOn ∨ bitOf x.out 10 ∧ field ((sgBlock old s).getD []) 0 1 = 1 then c.setEl s (if bitOf x.out 10 then x.out - oSE else x.out) x.ty x.p
    else startEl c bins gi at_ new r
  | _ => startEl c bins gi at_ new r

/-- What an element meets before it executes at an instant: a change of settings from `old` (R201), or at the bay's first instant its check against R239. -/
def meetEl (e : Env) (old : Option (List Byte)) (first : Bool) (c : Ctx) (r : List Byte) : Ctx :=
  let c1 := match old with | some o => switchEl e.recd e.els e.bins e.gi e.at_ o e.set c r | none => c
  if first && decide (elMode e.recd e.els e.set r = .wrong) then c1.setEl (erSlot r) oSE (erType r) (c1.el (erSlot r)).p else c1

/-- The elements of an instant in ascending slot order (R188): each meets a change of settings in its own turn, so that a reader in a lower slot still sees its previous outputs (R251); those whose cadence and phase fall on k then execute (R190). -/
def runEls (e : Env) (old : Option (List Byte)) (first : Bool) : List (List Byte) → Ctx → Ctx
  | [], c => c
  | r :: rs, c =>
    let c0 := meetEl e old first c r
    let c1 := if e.at_.k % erCad r = erPhase r ∧ elMode e.recd e.els e.set r = .on then execEl e c0 r (e.block (erSlot r)) else c0
    runEls e old first rs c1

/-- The variables that some running operation writes; every other variable reads 0 (R285). -/
def writtenVars (recd : List Byte) (els : List (List Byte)) (set : List Byte) : List Nat :=
  (els.filter (fun r => erType r = 0x17 ∧ elMode recd els set r = .on)).flatMap (fun r =>
    let b := (sgBlock set (erSlot r)).getD []
    let t := logicTable set b
    (List.range (field b 1 1)).filterMap (fun i => if field t (12 * i) 1 = 0 then none else some (field t (12 * i + 1) 1)))

/-! ### The constants of a group (R295, R296) -/

/-- Whether the constants of a settings group keep their ranges. -/
def constOk (set : List Byte) : Bool :=
  decide (field set 0 2 = 1) && rng set 2 1 0 1 && rng set 3 1 0 1 && rng set 4 1 2 63 && decide (1 ≤ field set 8 4) && decide (1 ≤ field set 12 4)
    && (List.range 8).all (fun c => rng set (0x20 + 16 * c + 8) 1 1 62 && rng set (0x20 + 16 * c + 9) 1 1 62 && decide (0 < field set (0x20 + 16 * c + 12) 4))

/-- The constants of a settings group. -/
def constOf (set : List Byte) : BayConst :=
  let f (o n : Nat) : List Nat := (List.range 8).map (fun c => field set (0x20 + 16 * c + o) n)
  { hz60 := decide (field set 2 1 = 1), acb := decide (field set 3 1 = 1), m := field set 4 1, inom := field set 8 4, vnom := field set 12 4,
    mloc := (f 0 4).map (toSigned 32), msv := (f 4 4).map (toSigned 32), sloc := f 8 1, ssv := f 9 1, fs := f 12 4 }

/-- The bay context as BAY_START builds it (R304). -/
def startCtx (recd : List Byte) (els : List (List Byte)) (set : List Byte) (bins gi : Nat) (at_ : EvalAt) : Ctx :=
  let k := constOf set
  let c0 : Ctx :=
    { run := 1, sg := brInit recd, const := k, last := none, start := at_, count := 0, word := 0, pub := 0, vars := 0, bins := 0, comps := [], integ := [],
      logic := [], theta := [], rc := ⟨.ready, 0, 0xFF, ⟨0, 0⟩⟩, meas := Meas1.start k.hz60, hist := ⟨[], [], [], [], []⟩,
      tgt := ⟨0, 0, Att.zero, Att.zero, 0⟩, cnt := ⟨0, 0, 0, 0, 0, 0⟩, els := [] }
  els.foldl (fun c r => beginEl bins gi at_ set c r) c0

/-- The target record and the latched CT_SUPV outputs reset (R302). -/
def resetTargets (els : List (List Byte)) (c : Ctx) : Ctx :=
  (els.filter (fun r => erType r = 0x11)).foldl (fun x r =>
    let y := x.el (erSlot r)
    x.setEl (erSlot r) (if bitOf y.out 4 then y.out - oOP else y.out) y.ty (terase (terase y.p 1) 100)) { c with tgt := ⟨0, 0, Att.zero, Att.zero, 0⟩ }

end Sys2Proof.Machine
end

