-- ==== Sys2Proof/Machine/TaskRun.lean ====
section
/-! DEFINITION. One bay task: normalisation and measurement, the elements, the output map, targets and counters (R188, R212 to R228, R293, R298 to R301). -/

namespace Sys2Proof.Machine

/-- What a task is given: the bay, the sealed instant, its ATT, the interpolated values, BIN levels, GOOSE inputs, a settings-group switch, the active group's settings before a new image (R207) and a target reset due at this instant, the TEST, DEBUG and UNSUPERVISED bits, SAFE, the isolated standby, the preprocessors. -/
structure TaskIn where
  bay : Nat
  z : Sealed
  att : Att
  vals : List Interp
  bins : Nat
  gi : Nat
  switch : Option Nat
  was : Option (List Byte)
  reset : Bool
  test : Bool
  debug : Bool
  unsup : Bool
  safe : Bool
  isolated : Bool
  prep : Prep

/-- The word published for a committed word (R300). -/
def pubWord (safe : Bool) (w : Nat) : Nat :=
  if safe then w / 2 ^ 15 % 2 ^ 39 * 2 ^ 15 + bitsOf w 12 6 * 2 ^ 6 + 2 ^ 54 + w / 2 ^ 55 * 2 ^ 55 else w

/-- Bits 48 to 63 of the bay output word (R298). -/
def partBits (test debug unsup qinv qsub serr : Bool) (sg : Nat) : Nat :=
  bitsFrom 49 [test || debug, qinv, qsub, unsup, debug] + bitsFrom 55 [serr] + sg % 8 * 2 ^ 56

/-- The output map (R299). -/
def mapBits (e : Env) (c : Ctx) : Nat :=
  bitsFrom 0 ((List.range 48).map (fun b => e.sig c (field e.set (0xA0 + 2 * b) 2)))

/-- Targets latched by an instant (R301). -/
def latchTargets (t : Target) (l slots : Nat) (att : Att) : Target :=
  if l = 0 then t
  else
    { bits := Nat.lor t.bits l, slots := Nat.lor t.slots slots, count := (t.count + 1) % 2 ^ 32,
      first := if t.bits = 0 then att else t.first, last := if Nat.lor t.bits l = t.bits then t.last else att }

/-- The counters after an instant (R293). -/
def countWord (k : BayCnt) (old new : Nat) : BayCnt :=
  let any (w : Nat) : Bool := decide (w % 16 ≠ 0)
  let rise (p : Nat → Bool) (n : Nat) : Nat := (n + b2n (p new && !p old)) % 2 ^ 32
  { k with trip := rise any k.trip, close := rise (fun w => bitOf w 4) k.close, reclose := rise (fun w => bitOf w 5) k.reclose,
           bf := rise (fun w => bitOf w 14) k.bf, qinv := (k.qinv + b2n (bitOf new 50)) % 2 ^ 32 }

/-- What a task leaves for its commit: the context, the settings and measured quantities of the instant, whether a target latched first. -/
structure TaskOut where
  ctx : Ctx
  q : Quant
  latched : Bool

/-- The settings group active in a context. -/
def Bay.setOf (b : Bay) (g : Nat) : List Byte := tget [] b.groups g

/-- The bay task of an instant. -/
def runTask (b : Bay) (i : TaskIn) : TaskOut :=
  let c0 := b.ctx
  let rate := b.rate
  let at_ := i.z.at_
  let kap := at_.sub rate c0.start
  let g := i.switch.getD c0.sg
  let old := if i.was.isSome then i.was else if g = c0.sg then none else some (b.setOf c0.sg)
  let cA := { c0 with sg := g }
  let c1 := if i.reset then resetTargets b.els cA else cA
  let mapped := mappedOf b.recd
  let m := measure c1.const rate kap (c0.last.map (fun j => j.sub rate c0.start)) (bitOf (field b.recd 43 1) 1) mapped i.z.src i.vals c1.meas c1.hist
  let set := b.setOf c1.sg
  let e : Env :=
    { q := m.m, kap := kap, rate := rate, at_ := at_, set := set, recd := b.recd, els := b.els, bins := i.bins, gi := i.gi, hist := m.h,
      fs := (List.range 8).map (fun c => if i.z.src.getD c 0 = 2 then 40 * 2 ^ 24 else c1.const.fs.getD c 0), src := i.z.src, prep := i.prep,
      bay := i.bay, isolated := i.isolated }
  let vs := writtenVars b.recd b.els set
  let c2 : Ctx := { c1 with meas := m.st, hist := m.h, bins := i.bins, vars := maskOf 256 (fun v => vs.contains v && bitOf c1.vars v) }
  let c3 := runEls e old c0.last.isNone b.els c2
  let q (c : Nat) : Nat := (i.vals.getD c ⟨0, 0⟩).q
  let qinv := mapped.any (fun c => !qHas (q c) qVALID || qHas (q c) qSETTLING)
  let qsub := mapped.any (fun c => qHas (q c) qSUBST || qHas (q c) qINTERP)
  let serr := b.els.any (fun r => bitOf (c3.el (erSlot r)).out 10)
  let w := mapBits e c3 + partBits i.test i.debug i.unsup qinv qsub serr c3.sg
  let slots := maskOf 64 (fun s => b.els.any (fun r => erSlot r = s) && bitOf (c3.el s).out 4)
  let l := Nat.land (w % 2 ^ 48) (field set 0x100 8)
  let c4 : Ctx :=
    { c3 with word := w, pub := pubWord i.safe w, last := some at_, count := (c3.count + 1) % 2 ^ 32,
              tgt := latchTargets c3.tgt l slots i.att, cnt := countWord c3.cnt c0.word w }
  ⟨c4, m.m, decide (l ≠ 0) && decide (c3.tgt.bits = 0)⟩

/-- The stop word of a bay (R305). -/
def stopWord (w : Nat) : Nat := w / 2 ^ 49 % 2 ^ 10 * 2 ^ 49 + (if bitOf w 50 then 0 else 2 ^ 50)

end Sys2Proof.Machine
end

