-- ==== Sys2Proof/Machine/BelOps.lean ====
section
/-! DEFINITION. Belfry: egress queues, source addresses and redundancy, Belfry frames, GOOSE publication and the values of GOOSE inputs (R391 to R401, R403 to R412). -/

namespace Sys2Proof.Machine

/-! ### Ports and egress (R391, R392) -/

/-- A port whose link is down and whose queues are empty. -/
def Port.down : Port := ⟨false, 0, [], [[], [], [], []], 0, 0, false, false, none⟩

/-- Port `n`. -/
def port (s : State) (n : Nat) : Port := tget Port.down s.bel.ports n

/-- Port `n` changed. -/
def modPort (s : State) (n : Nat) (f : Port → Port) : State :=
  { s with bel := { s.bel with ports := tset s.bel.ports n (f (port s n)) } }

/-- Bits per second of a speed code (R416). -/
def speedBps (c : Nat) : Nat :=
  match c with | 1 => 10 ^ 8 | 2 => 10 ^ 9 | 3 => 25 * 10 ^ 8 | 4 => 5 * 10 ^ 9 | 5 => 10 ^ 10 | _ => 10 ^ 8

/-- Ticks that a frame occupies its line: with FCS, preamble and gap. -/
def frameTicks (speed : Nat) (bytes : List Byte) : Nat := cdivN ((bytes.length + 24) * 8 * secT) (speedBps speed)

/-- The frame a port serves next, bell queue first, then queues 3 to 0, with the port after it is taken (R391). -/
def Port.pop (p : Port) : Option (NetFrame × Port) :=
  match p.bell with
  | f :: fs => some (f, { p with bell := fs })
  | [] =>
    ([3, 2, 1, 0].filterMap (fun i => match p.qs.getD i [] with | f :: fs => some (f, { p with qs := p.qs.set i fs }) | [] => none)).head?

/-- What the switch reads in a frame: addresses, VLAN tag, HSR sequence number, EtherType, and where the tag ends. -/
structure FrameHead where
  dst : Nat
  src : Nat
  tci : Option Nat
  hsr : Option Nat
  etype : Nat
  body : Nat

/-- The head of a frame. -/
def frameHead (f : List Byte) : FrameHead :=
  let tagged := decide (fieldBE f 12 2 = 0x8100)
  let o := if tagged then 16 else 12
  let ring := decide (fieldBE f o 2 = 0x892F)
  { dst := fieldBE f 0 6, src := fieldBE f 6 6, tci := if tagged then some (fieldBE f 14 2) else none,
    hsr := if ring then some (fieldBE f (o + 4) 2) else none, etype := fieldBE f (if ring then o + 6 else o) 2, body := (if ring then o + 8 else o + 2) }

/-- A port that is not transmitting starts its next frame (R391). -/
def drainPort (s : State) (n : Nat) : State :=
  let p := port s n
  if p.up && decide (p.busy ≤ s.dev.ticks) then
    match p.pop with
    | some (f, p') =>
      let s1 := modPort s n (fun _ => { p' with busy := s.dev.ticks + frameTicks p.speed f.bytes })
      bump { s1 with bel := { s1.bel with sent := (n, f.bytes) :: s1.bel.sent } } (R.belPTxOk n)
    | none => s
  else s

/-- A frame dropped from or before a bell queue (R392). -/
def bellDrop (s : State) (n : Nat) : State :=
  let s1 := flagSet (bump s (R.belPTxDrop n)) R.belStat 1 true
  if (match (port s1 n).ovfEvt with | some t => !elapsed s1 t secT | none => false) then s1
  else raise 0x0B08 (modPort s1 n (fun p => { p with ovfEvt := some s1.dev.ticks })) (idx := n)

/-- The list without its first element that holds a property. -/
def dropFirst {α : Type} (p : α → Bool) : List α → List α
  | [] => []
  | a :: t => if p a then t else a :: dropFirst p t

/-- A frame put into the bell queue of port `n` (R392). -/
def bellPut (s : State) (n : Nat) (f : NetFrame) : State :=
  let b := (port s n).bell
  if b.length < 256 then modPort s n (fun p => { p with bell := p.bell ++ [f] })
  else if b.any (fun x => x.belfry && x.rep) then
    bellDrop (modPort s n (fun p => { p with bell := dropFirst (fun x => x.belfry && x.rep) p.bell ++ [f] })) n
  else bellDrop s n

/-- A frame given to port `n`; a port whose link is down sends nothing, and P4 and P5 are gated off by the dying sequence (R544). -/
def egress (s : State) (n : Nat) (bell : Bool) (q : Nat) (f : NetFrame) : State :=
  if (port s n).up && !(isDying s && decide (4 ≤ n)) then
    drainPort (if bell then bellPut s n f else modPort s n (fun p => { p with qs := p.qs.set q (p.qs.getD q [] ++ [f]) })) n
  else s

/-- The queue of a PCP (R391, R416). -/
def pcpQueue (s : State) (pcp : Nat) : Nat := fld s R.belSwPrio (2 * pcp + 1) (2 * pcp)

/-! ### Lanes of the mirror link (R451) -/

/-- The order in which a lane sends waiting frames of a type: EVENT, HEARTBEAT, SAMPLES, then SNAPSHOT and BAYSTATE (R451). -/
def linkRank (ty : Nat) : Nat := match ty with | 3 => 0 | 1 => 1 | 2 => 2 | _ => 3

/-- Ticks that a link frame occupies its lane of 6.25 Gb/s with 64b/66b coding (R451). -/
def linkTicks (f : List Byte) : Nat := cdivN (f.length * 1056) 1000

/-- A frame put behind the waiting frames of its rank (R451). -/
def Lane.put (ty : Nat) (f : List Byte) (x : Lane) : Lane :=
  { x with wait := x.wait.takeWhile (fun p => decide (linkRank p.1 ≤ linkRank ty)) ++ (ty, f) :: x.wait.dropWhile (fun p => decide (linkRank p.1 ≤ linkRank ty)) }

/-- Lane `l`: 0 A, 1 B. -/
def lane (s : State) (l : Nat) : Lane := if l = 0 then s.mir.laneA else s.mir.laneB

/-- Lane `l` replaced. -/
def Mir.setLane (m : Mir) (l : Nat) (x : Lane) : Mir := if l = 0 then { m with laneA := x } else { m with laneB := x }

/-- A lane whose frame has left starts the next that waits (R451). -/
def drainLane (s : State) (l : Nat) : State :=
  let x := lane s l
  match x.wait with
  | f :: fs =>
    if x.busy ≤ s.dev.ticks then
      let m := s.mir.setLane l { x with busy := s.dev.ticks + linkTicks f.2, wait := fs }
      { s with mir := { m with sent := (l, f.2) :: m.sent } }
    else s
  | [] => s

/-! ### Frames of the part (R393, R394, R396) -/

/-- The mode of a port's pair: 0 independent, 1 PRP, 2 HSR; ports 4 and 5 belong to none. -/
def pairMode (s : State) (n : Nat) : Nat := if n < 2 then fld s R.belPairMode 1 0 else if n < 4 then fld s R.belPairMode 3 2 else 0

/-- The unit MAC. -/
def unitMac (s : State) : Nat := fld s R.belUnitMacHi 15 0 * 2 ^ 32 + regGet s R.belUnitMacLo
/-- The pair MAC. -/
def pairMac (s : State) : Nat := fld s R.belPairMacHi 15 0 * 2 ^ 32 + regGet s R.belPairMacLo
/-- The destination of Belfry frames. -/
def bfDmac (s : State) : Nat := fld s R.belBfDmacHi 15 0 * 2 ^ 32 + regGet s R.belBfDmacLo

/-- Bytes filled up with zeros to a length. -/
def padTo (n : Nat) (bs : List Byte) : List Byte := bs ++ List.replicate (n - bs.length) 0

/-- A frame of the part as wire bytes without FCS: `red` is 0 without redundancy, 1 with a PRP trailer, 2 with an HSR tag; `lan` is 0 for the first port of the pair. -/
def wireFrame (dst src : Nat) (tci : Option Nat) (etype : Nat) (payload : List Byte) (red lan seq : Nat) : List Byte :=
  let tag := match tci with | some t => beBytes 2 0x8100 ++ beBytes 2 t | none => []
  let head := beBytes 6 dst ++ beBytes 6 src ++ tag
  if red = 2 then padTo 60 (head ++ beBytes 2 0x892F ++ beBytes 2 (lan * 2 ^ 12 + payload.length + 6) ++ beBytes 2 seq ++ beBytes 2 etype ++ payload)
  else
    let f := padTo 60 (head ++ beBytes 2 etype ++ payload)
    if red = 1 then f ++ beBytes 2 seq ++ beBytes 2 ((10 + lan) * 2 ^ 12 + (f.length - head.length - 2 + 6)) ++ beBytes 2 0x88FB else f

/-- A frame the part originates, described before it is put on ports. -/
structure OwnFrame where
  ports : Nat
  bell : Bool
  belfry : Bool
  rep : Bool
  pairMac : Bool
  pcp : Nat
  tci : Option Nat
  dst : Nat
  etype : Nat
  payload : List Byte

/-- The ports a frame goes out on: both of a redundant pair when it goes out on either (R393, R394). -/
def spread (s : State) (ports : Nat) : List Nat :=
  (List.range 6).filter (fun n => bitOf ports n || (decide (pairMode s n ≠ 0) && bitOf ports (if n % 2 = 0 then n + 1 else n - 1)))

/-- A frame of the part sent on its ports with its source MAC and its redundancy (R393, R394, R396). -/
def sendOwn (s : State) (o : OwnFrame) : State :=
  let usePair := o.pairMac && flag s R.belCtl 2
  let src (n : Nat) : Nat := if usePair && decide (pairMode s n ≠ 2) then pairMac s else unitMac s
  let red (n : Nat) : Nat := let m := pairMode s n; if m = 1 ∧ usePair then 0 else m
  let ns := spread s o.ports
  let macs := (ns.filter (fun n => red n ≠ 0)).map src
  let seqOf (m : Nat) : Nat := tget 0 s.bel.seqs m
  let s1 := { s with bel := { s.bel with seqs := macs.eraseDups.foldl (fun t m => tset t m ((seqOf m + 1) % 65536)) s.bel.seqs } }
  ns.foldl (fun st n =>
    egress st n o.bell (pcpQueue st o.pcp) ⟨wireFrame o.dst (src n) o.tci o.etype o.payload (red n) (n % 2) (seqOf (src n)), o.belfry, o.rep⟩) s1

/-! ### Links and redundant pairs (R385, R393, R395) -/

/-- A port changed, and its bit of BEL_STAT.link and BEL_Pn_STAT after it (R416). -/
def showPort (s : State) (n : Nat) : State :=
  let p := port s n
  regSet (flagSet s R.belStat (24 + n) p.up) (R.belPStat n) (2 ^ 31 * b2n p.up + 2 ^ 28 * p.speed)

/-- Whether a port has received a frame within the last 100 ms (R395). -/
def heard (s : State) (n : Nat) : Bool := (port s n).got && !elapsed s (port s n).lastRx (100 * msT)

/-- Whether a port of a redundant pair is at fault: its link is down, or it has received no frame for 100 ms while the other port has (R395). -/
def lanBad (s : State) (n : Nat) : Bool :=
  !(port s n).up || (elapsed s (port s n).lastRx (100 * msT) && heard s (if n % 2 = 0 then n + 1 else n - 1))

/-- A port of a pair found at fault (R395). -/
def lanFault (s : State) (n : Nat) : State :=
  if lanBad s n && !(port s n).fault then
    raise 0x0B03 (flagSet (modPort s n (fun p => { p with fault := true })) R.belStat (2 + n / 2) true) (idx := n / 2) (items := [(1, n)])
  else s

/-- The supervision of a pair, 0 for P0/P1 and 1 for P2/P3 (R395). -/
def lanCheck (s : State) (pair : Nat) : State :=
  let a := 2 * pair
  if 1 < pair ∨ pairMode s a = 0 then s
  else
    let s1 := lanFault (lanFault s a) (a + 1)
    if flag s1 R.belStat (2 + pair) && (port s1 a).up && (port s1 (a + 1)).up && heard s1 a && heard s1 (a + 1) then
      let clear (p : Port) : Port := { p with fault := false }
      raise 0x0B04 (flagSet (modPort (modPort s1 a clear) (a + 1) clear) R.belStat (2 + pair) false) (idx := pair)
    else s1

/-- The link of a port goes down: LINK_DOWN; what its queues hold is lost (R385). -/
def linkFall (s : State) (n : Nat) : State :=
  let down (p : Port) : Port := { p with up := false, speed := 0, got := false, bell := [], qs := [[], [], [], []] }
  lanCheck (raise 0x0B02 (showPort (modPort s n down) n) (idx := n)) (n / 2)

/-! ### Belfry frames (R397 to R401) -/

/-- The PAIR record, when the part is paired (R449). -/
def pairRec (s : State) : Option (List Byte) := s.scheme.bind (fun c => (c.recs 11).head?)

/-- The role byte of a beacon. -/
def roleByte (s : State) : Nat := match pairRec s with | some r => field r 4 1 | none => 0xFF

/-- The 48 bytes of a Belfry payload from its bytes 8 to 43. -/
def belPayload (s : State) (ty : Nat) (body : List Byte) : List Byte :=
  let b := leBytes 1 1 ++ leBytes 1 ty ++ leBytes 2 48 ++ leBytes 4 (regGet s R.belPairId) ++ slice body 0 36
  b ++ leBytes 4 (crc32 b)

/-- A Belfry frame sent under a configuration register; none while BEL_BF_DMAC is 0 (R397). -/
def sendBelfry (s : State) (cfg ports ty : Nat) (bell rep usePair : Bool) (body : List Byte) : State :=
  if bfDmac s = 0 then s
  else
    let w := regGet s cfg
    let pcp := bitsOf w 14 12
    sendOwn s { ports := ports, bell := bell, belfry := true, rep := rep, pairMac := usePair, pcp := pcp,
                tci := if bitOf w 15 then some (pcp * 2 ^ 13 + bitsOf w 11 0) else none, dst := bfDmac s, etype := fld s R.belEtype 15 0,
                payload := belPayload s ty body }

/-- The ports of a configuration register. -/
def cfgPorts (s : State) (cfg : Nat) : Nat := fld s cfg 29 24

/-- The quality field of a TRIP frame: lock and traceable only (R397). -/
def tripQ (q : Half) : Half := BitVec.ofNat 16 (bitsOf q.toNat 2 0 + bitsOf q.toNat 5 5 * 32)

/-- A TRIP frame queued with the bay's next ordinal (R397 to R399). -/
def sendTrip (s : State) (bay : Nat) (rep : Bool) (att : Att) (word : Nat) : State :=
  let ord := tget 0 s.bel.ord bay
  let body := leBytes 2 bay ++ leBytes 1 (b2n (bitOf word 49) + 2 * b2n rep) ++ leBytes 1 0
    ++ leBytes 8 (ord % 2 ^ 48 + fld s R.belEpoch 15 0 * 2 ^ 48) ++ ({ att with q := tripQ att.q } : Att).bytes ++ leBytes 8 word
  if bfDmac s = 0 then s
  else sendBelfry { s with bel := { s.bel with ord := tset s.bel.ord bay (ord + 1) } } R.belBfCfg (cfgPorts s R.belBfCfg) 1 true rep true body

/-- The epoch set; a change restarts every ordinal (R399, R457). -/
def setEpoch (s : State) (e : Nat) : State :=
  if fld s R.belEpoch 15 0 = e then s
  else
    let s1 := fldSet s R.belEpoch 15 0 e
    { s1 with bel := { s1.bel with ord := [] } }

/-- Whether a mode holds authority: COMMISSION, SERVICE or TEST (R25, R360). -/
def authority (m : Mode) : Bool := decide (m = .commission) || decide (m = .service) || decide (m = .test)

/-- Whether the unit holds authority. -/
def holdsAuthority (s : State) : Bool := authority s.dev.mode

/-- A BEACON frame (R400). -/
def sendBeacon (s : State) : State :=
  if bfDmac s = 0 then s
  else
    let flags := b2n s.pwr.degraded + 2 * b2n s.mir.iso + 4 * b2n (holdsAuthority s)
    let body := leBytes 4 s.otp.unitId ++ leBytes 1 (roleByte s) ++ leBytes 1 s.dev.mode.code ++ leBytes 2 flags ++ leBytes 4 s.bel.bcn ++ (attNow s).bytes
    let s1 := sendBelfry s R.belBcnCfg (cfgPorts s R.belBcnCfg) 2 false false false body
    { s1 with bel := { s1.bel with bcn := (s1.bel.bcn + 1) % 2 ^ 32 } }

/-- An XTRIG frame for a cross-trigger handed over by Cupola (R361, R401). -/
def sendXtrig (s : State) (bay xgroup num : Nat) (test : Bool) (t0 : Att) : State :=
  if !flag s R.cupCtl 2 || decide (bfDmac s = 0) then s
  else
    let body := leBytes 4 s.otp.unitId ++ leBytes 2 bay ++ leBytes 1 xgroup ++ leBytes 1 (b2n test) ++ leBytes 4 num ++ t0.bytes
    bump (sendBelfry s R.belXtCfg (cfgPorts s R.belXtCfg) 3 false false false body) R.belXtTx

/-- The GASP frame of the dying sequence, in the bell queue (R401, R544). -/
def sendGasp (s : State) (cause : Nat) (at_ : Att) : State :=
  let body := leBytes 4 s.otp.unitId ++ leBytes 1 s.dev.mode.code ++ leBytes 1 cause ++ leBytes 6 0 ++ at_.bytes
  sendBelfry s R.belBfCfg (Nat.lor (cfgPorts s R.belBfCfg) (cfgPorts s R.belBcnCfg)) 4 true false false body

/-- TRIP frames of a decision (R314): `old` and `word` are the published words of the previous and of this instant. -/
def tripFrames (s : State) (bay old word : Nat) (att : Att) : State :=
  let trips (w : Nat) : Bool := decide (w % 16 ≠ 0) || bitOf w 14
  let n := if trips word then (if trips old then tget 0 s.bel.rep bay + 1 else 0) else 0
  let s1 := { s with bel := { s.bel with rep := tset s.bel.rep bay n } }
  if flag s1 R.belCtl 0 && flag s1 (R.bayBelEn (bay / 32)) (bay % 32) && decide (s1.dev.mode ≠ .safe) then
    if word % 65536 ≠ old % 65536 then sendTrip s1 bay false att word
    else if trips word ∧ n % fld s1 R.bayBelCfg 7 0 = 0 then sendTrip s1 bay true att word
    else s1
  else s1

/-! ### GOOSE publication (R403 to R408) -/

/-- The records of the GOOSE section of one kind (R413). -/
def gooseRecs (s : State) (kind : Nat) : List (List Byte) :=
  match s.scheme with | some c => (c.recs 8).filter (fun r => field r 0 1 = kind) | none => []

/-- The publication records in ascending block order. -/
def pubRecs (s : State) : List (List Byte) :=
  let rs := gooseRecs s 0
  (List.range 256).filterMap (fun n => rs.find? (fun r => field r 2 2 = n))

/-- A block's publication state. -/
def goPub (s : State) (n : Nat) : GoPub := tget ⟨0, 0, [], [], 0, 0, 0, [], false, true⟩ s.bel.pubs n

/-- A length octet string of BER: lengths up to 65,535. -/
def berLen (n : Nat) : List Byte :=
  if n < 128 then beBytes 1 n else if n < 256 then beBytes 1 0x81 ++ beBytes 1 n else beBytes 1 0x82 ++ beBytes 2 n

/-- A tag with its length and contents. -/
def ber (tag : Nat) (body : List Byte) : List Byte := beBytes 1 tag ++ berLen body.length ++ body

/-- The octets of an unsigned integer: as few as hold it with a sign bit of 0. -/
def berUint (v : Nat) : List Byte :=
  if v < 2 ^ 7 then beBytes 1 v else if v < 2 ^ 15 then beBytes 2 v else if v < 2 ^ 23 then beBytes 3 v else if v < 2 ^ 31 then beBytes 4 v else beBytes 5 v

/-- The 13-bit Quality of a published word (R405). -/
def gooseQuality (w : Nat) : List Byte :=
  let inv := bitOf w 50 || bitOf w 54
  let que := !inv && (bitOf w 51 || bitOf w 52)
  let hi := (if inv then 0x40 else if que then 0xC0 else 0) 
  let lo := (if bitOf w 51 then 0x20 else 0) + (if bitOf w 49 then 0x10 else 0)
  beBytes 1 3 ++ beBytes 1 hi ++ beBytes 1 lo

/-- The Data of one member (R404); UtcTime is given. -/
def memberData (m : List Byte) (word bins : Nat) (utc : List Byte) (dying : Bool) : List Byte :=
  let arg := field m 1 1
  match field m 0 1 with
  | 0 => ber 0x83 (beBytes 1 (b2n (bitOf word arg)))
  | 1 => ber 0x83 (beBytes 1 (b2n (bitOf bins arg)))
  | 2 => ber 0x84 (beBytes 1 6 ++ beBytes 1 (128 * b2n (bitOf word arg) + 64 * b2n (bitOf word (field m 2 2))))
  | 3 => ber 0x84 (gooseQuality word)
  | 4 => ber 0x91 utc
  | 5 => ber 0x86 (berUint (bitsOf word 58 56))
  | _ => ber 0x83 (beBytes 1 (b2n dying))

/-- The members of a publication record. -/
def pubMembers (r : List Byte) : List (List Byte) := (List.range (field r 6 1)).map (fun m => slice r (224 + 4 * m) 4)

/-- The encoding of the dataset; without its UtcTime members when `times` is false (R406). -/
def datasetEnc (r : List Byte) (word bins : Nat) (utc : List Byte) (times dying : Bool) : List Byte :=
  ((pubMembers r).filter (fun m => times || decide (field m 0 1 ≠ 4))).flatMap (fun m => memberData m word bins utc dying)

/-- tai_utc in seconds, signed (R64). -/
def taiUtc (s : State) : Int := toSigned 16 (fld s R.almUtcOffset 15 0)

/-- The UtcTime of a state change at an ATT (R408). -/
def utcTime (s : State) (t : Att) : List Byte :=
  let f := rdivN (t.ns * 2 ^ 24) (10 ^ 9)
  let sec := (t.sec : Int) - taiUtc s + (f / 2 ^ 24 : Nat)
  let lock := bitsOf t.q.toNat 2 0
  let tq := 128 * b2n s.alm.utcValid + 64 * b2n (decide (lock = 0))
    + 32 * b2n (!(decide (lock = 2) || (decide (lock = 3) && bitOf t.q.toNat 5))) + fld s R.belCtl 15 11
  beBytes 4 (ofSigned 32 sec) ++ beBytes 3 (f % 2 ^ 24) ++ beBytes 1 tq

/-- The goosePdu of a frame (R403, R406, R407). -/
def goosePdu (r : List Byte) (p : GoPub) (tal : Nat) (test : Bool) : List Byte :=
  ber 0x61 (ber 0x80 (slice r 32 (field r 28 1)) ++ ber 0x81 (berUint tal) ++ ber 0x82 (slice r 96 (field r 29 1)) ++ ber 0x83 (slice r 160 (field r 30 1))
    ++ ber 0x84 p.utc ++ ber 0x85 (berUint p.st) ++ ber 0x86 (berUint p.sq) ++ ber 0x87 (beBytes 1 (b2n test)) ++ ber 0x88 (berUint (field r 20 4))
    ++ ber 0x89 (beBytes 1 0) ++ ber 0x8A (berUint (field r 6 1)) ++ ber 0xAB p.full)

/-- A GOOSE frame of a block sent (R391, R396, R406). -/
def sendGoose (s : State) (r : List Byte) (p : GoPub) (tal : Nat) (bell : Bool) : State :=
  let pdu := goosePdu r p tal p.test
  let pcp := field r 18 1
  bump (sendOwn s { ports := field r 7 1, bell := bell, belfry := false, rep := false, pairMac := bitOf (field r 19 1) 0, pcp := pcp,
                    tci := if field r 16 2 = 0xFFFF then none else some (pcp * 2 ^ 13 + field r 16 2), dst := fieldBE r 8 6, etype := 0x88B8,
                    payload := beBytes 2 (field r 14 2) ++ beBytes 2 (pdu.length + 8) ++ beBytes 4 0 ++ pdu }) R.belGpSent

/-- A 32-bit GOOSE number after the next (R406): 0xFFFF_FFFF is followed by 1. -/
def goNext (n : Nat) : Nat := if 2 ^ 32 - 1 ≤ n then 1 else n + 1

/-- A block's state changed. -/
def setPub (s : State) (n : Nat) (p : GoPub) : State := { s with bel := { s.bel with pubs := tset s.bel.pubs n p } }

/-- The state change of a block at an instant (R406 to R408). -/
def stateChange (s : State) (r : List Byte) (word bins : Nat) (att : Att) (dying : Bool) : State :=
  let n := field r 2 2
  let p := goPub s n
  let tmin := field r 24 2
  let utc := utcTime s att
  let p1 : GoPub :=
    { st := goNext p.st, sq := 0, enc := datasetEnc r word bins [] false dying, full := datasetEnc r word bins utc true dying, tc := att.inst, sum := tmin,
      gap := tmin, utc := utc, test := bitOf word 49, first := false }
  sendGoose (setPub s n p1) r p1 (2 * tmin) true

/-- The gap that follows a gap (R407). -/
def nextGap (r : List Byte) (g : Nat) : Nat := if 2 * g < field r 26 2 then 2 * g else field r 26 2

/-- The schedule moved past an instant: retransmissions passed over are not sent one by one. -/
def advanceSum (r : List Byte) (age : Nat) : Nat → Nat × Nat → Nat × Nat
  | 0, (sum, gap) => (sum + ((age - sum) / gap + 1) * gap, gap)
  | n + 1, (sum, gap) => let g := nextGap r gap; if sum + g ≤ age then advanceSum r age n (sum + g, g) else (sum + g, g)

/-- The retransmission of a block sent at an instant, when it is due, with the test field of the word then published (R406, R407). -/
def retransmit (s : State) (r : List Byte) (test : Bool) (at_ : Inst) : State :=
  let n := field r 2 2
  let p := goPub s n
  if p.first || p.full.isEmpty || decide (at_ < p.tc + p.sum * msI) then s
  else
    let (sum, gap) := advanceSum r ((at_ - p.tc) / msI) 20 (p.sum, p.gap)
    let p1 := { p with sq := goNext p.sq, sum := sum, gap := gap, test := test }
    sendGoose (setPub s n p1) r p1 (2 * gap) false

/-- The GOOSE frames of a decision of a bay (R406, R407): a state change, or else the retransmission due. -/
def gooseFrames (s : State) (bay word bins : Nat) (att : Att) : State :=
  if flag s R.belCtl 0 then
    ((pubRecs s).filter (fun r => field r 4 2 = bay)).foldl (fun st r =>
      let p := goPub st (field r 2 2)
      if p.first || decide (datasetEnc r word bins [] false false ≠ p.enc) then stateChange st r word bins att false
      else retransmit st r (bitOf word 49) att.inst) s
  else s

/-! ### GOOSE inputs (R411, R412) -/

/-- The subscription records in ascending number. -/
def subRecs (s : State) : List (List Byte) :=
  let rs := gooseRecs s 1
  (List.range 512).filterMap (fun n => rs.find? (fun r => field r 2 2 = n))

/-- A subscription's state. -/
def goSub (s : State) (n : Nat) : GoSub := tget ⟨[], false, 0, 0, 0, 0, 0, none, []⟩ s.bel.subs n

/-- The newest accepted frame at an instant (R411). -/
def GoSub.at? (u : GoSub) (q : QInst) : Option GoFrame := u.frames.find? (fun f => f.arr ≤ q)

/-- Whether a frame is still alive at an instant (R411). -/
def GoFrame.alive (f : GoFrame) (q : QInst) : Bool := decide (q ≤ f.arr + f.tal * 4000000)

/-- Whether a subscription is valid at an instant (R411). -/
def GoSub.validAt (u : GoSub) (q : QInst) : Bool := match u.at? q with | some f => f.alive q | none => false

/-- Whether the quality member that a map names is good; one that it does not name counts as good (R412). -/
def mapGood (m : List Byte) (f : GoFrame) : Bool :=
  let q := field m 3 1
  decide (q = 0xFF) || (match f.vals.getD q .other with | .bits (a :: b :: _) => !a && !b | _ => false)

/-- The value a map reads from a frame (R412). -/
def mapValue (m : List Byte) (f : GoFrame) : Bool :=
  match f.vals.getD (field m 0 1) .other, field m 1 1 with
  | .bool b, 0 => b
  | .dbpos n, 1 => decide (n = 2)
  | .bits bs, 1 => decide (bs = [true, false])
  | .bits bs, 2 => bs.getD (field m 2 1) false
  | _, _ => false

/-- A GI of a map at an instant: the value, or the default or held value when the quality is not good or the subscription is LOST (R412). -/
def mapGi (r m : List Byte) (j : Nat) (u : GoSub) (q : QInst) : Bool :=
  let dflt := decide (field m 6 1 ≠ 0)
  let cand := u.frames.filter (fun f => f.arr ≤ q)
  match cand with
  | f :: _ =>
    if f.alive q && mapGood m f then mapValue m f
    else if bitOf (field r 19 1) 1 then
      match cand.find? (fun g => mapGood m g) with | some g => mapValue m g | none => tget dflt u.held j
    else dflt
  | [] => if bitOf (field r 19 1) 1 then tget dflt u.held j else dflt

/-- GI0 to GI255 at an instant (R411, R412); none while subscription does not run. -/
def giAt (s : State) (q : QInst) : Nat :=
  if flag s R.belCtl 1 then
    (subRecs s).foldl (fun w r =>
      let u := goSub s (field r 2 2)
      let ms := ((List.range 32).map (fun j => (j, slice r (160 + 8 * j) 8))).filter (fun m => decide (field m.2 0 1 ≠ 0xFF))
      let w1 := ms.foldl (fun x p => let m := p.2; if mapGi r m p.1 u q && decide (field m 4 2 < 256) then Nat.lor x (2 ^ field m 4 2) else x) w
      if field r 28 2 < 256 ∧ u.validAt q then Nat.lor w1 (2 ^ field r 28 2) else w1) 0
  else 0

end Sys2Proof.Machine
end

