-- ==== Sys2Proof/Machine/CupOps.lean ====
section
/-! DEFINITION. Cupola: the record line taken apart, boundaries, rings, triggers, records and statistics (R341 to R366, R376 to R378). -/

namespace Sys2Proof.Machine

/-! ### Instants and numbers -/

/-- The mode in force at an instant: a transition is adopted from its effect instant on, SAFE entered on a condition at once (R30, R31). -/
def modeAt (s : State) (t : Inst) : Mode :=
  if t < s.dev.since ∧ (s.dev.mode ≠ .safe ∨ s.pwr.safeCause = 1) then s.dev.prev else s.dev.mode

/-- Nanoseconds in a second. -/
abbrev nsSec : Nat := 1000000000

/-- q1 of an instant: ns of TAI, convergently rounded (R348). -/
def EvalAt.ns (rate : Nat) (e : EvalAt) : Nat := e.sec * nsSec + rdivN (e.k * nsSec) rate

/-- The first instant at or after a time in ns. -/
def evalAtOrAfter (rate t : Nat) : EvalAt :=
  let k := cdivN (t % nsSec * rate) nsSec
  if k < rate then ⟨t / nsSec, k⟩ else ⟨t / nsSec + 1, 0⟩

/-- The last instant at or before a time in ns. -/
def evalAtOrBefore (rate t : Nat) : EvalAt := ⟨t / nsSec, t % nsSec * rate / nsSec⟩

/-- The square root of a binary64 number, rounded to nearest even. -/
def fsqrt64 (x : Nat) : Nat :=
  match fpDec b64 x with
  | .fin m e =>
    if m ≤ 0 then (if m = 0 then 0 else b64.nanBits)
    else
      let (n, d) := fracOf m e
      let a := n.toNat * 2 ^ 400 / d
      let r := Nat.sqrt a
      fpEnc b64 (2 * r + b2n (decide (r * r < a)) : Nat) (2 ^ 201)
  | .inf neg => if neg then b64.nanBits else b64.infBits false
  | .nan => b64.nanBits

/-- The half-cycle RMS of a channel over entries, in binary64 units of nominal RMS (R348). -/
def rms64 (es : List PrEnt) (c : Nat) : Nat :=
  let ss := es.foldl (fun a e => a + (e.x.getD c 0).natAbs ^ 2) 0
  fdiv b64 (fmul b64 (fsqrt64 (fdiv b64 (fint b64 (ss : Nat)) (fint b64 (es.length : Nat)))) (fsqrt64 (fint b64 2))) (fint b64 (2 ^ 24))

/-- Whether a sample's quality is usable (R14). -/
def qUsable (q : Nat) : Bool := qHas q qVALID && !qHas q qSETTLING

/-! ### Bays and the RECORD record (R346) -/

/-- The state of a recorded bay before its start. -/
def CupBay.blank (recd : List Byte) : CupBay :=
  { recd := recd, lines := [], ring := [], wr := 0, held := 0xFFFF, queue := [], armed := true, opened := 0, autoAt := 0, forced := [], acts := [], xtrigs := [],
    dropEvt := none, ev := [], harm := [], pm := [], clrAtt := Att.zero, lastAtt := Att.zero, sag := none, swell := none, prev := none }

/-- The Cupola state of a bay, when it is recorded. -/
def cupBay? (s : State) (n : Nat) : Option CupBay := tget? s.cup.bays n

/-- The Cupola state of a bay replaced. -/
def setCup (s : State) (n : Nat) (b : CupBay) : State := { s with cup := { s.cup with bays := tset s.cup.bays n b } }

/-- The Cupola state of a bay changed, when it is recorded. -/
def modCup (s : State) (n : Nat) (f : CupBay → CupBay) : State :=
  match cupBay? s n with
  | some b => setCup s n (f b)
  | none => s

/-- A trigger entry. -/
def trigRec (recd : List Byte) (i : Nat) : List Byte := slice recd (128 + 16 * i) 16
/-- The type of a trigger. -/
def trigTy (recd : List Byte) (i : Nat) : Nat := if i < 16 then field (trigRec recd i) 0 1 else 0

/-- A record replaced by number. -/
def modRec (s : State) (num : Nat) (f : CupRec → CupRec) : State :=
  { s with cup := { s.cup with recs := s.cup.recs.map (fun r => if r.num = num then f r else r) } }

/-- A record by number. -/
def rec? (s : State) (num : Nat) : Option CupRec := s.cup.recs.find? (fun r => r.num = num)

/-- Whether a state is OPEN, SEALING or TAIL. -/
def RecSt.live (x : RecSt) : Bool := decide (x = .open_) || decide (x = .sealing) || decide (x = .tail)
/-- The code of a record state (R355). -/
def RecSt.code : RecSt → Nat
  | .open_ => 1 | .sealing => 2 | .tail => 3 | .complete => 4 | .lost => 5

/-- The summary registers of Cupola brought up to date (R381, R382). -/
def cupStat (s : State) : State :=
  let s1 := regSet s R.cupIdxUsed s.cup.recs.length
  let s2 := regSet s1 R.cupAreaUsed (s.cup.recs.foldl (fun a r => a + r.units) 0)
  let s3 := fldSet s2 R.cupStat 31 23 (capN 511 (s.cup.recs.filter (fun r => r.st.live)).length)
  let s4 := regSet s3 R.cupFlashPend s.cup.flash.length
  flagSet s4 R.cupStat 4 (!s.cup.flash.isEmpty)

/-- The status register of a bay brought up to date (R382). -/
def cupBayStat (s : State) (n : Nat) : State :=
  match cupBay? s n with
  | none => s
  | some b =>
    let rs := s.cup.recs.filter (fun r => r.bay = n)
    let raw := if rs.any (fun r => r.st = .sealing) then 2 else if rs.any (fun r => r.st = .open_) then 1 else 0
    let mode := fld s (R.cupBayCtl n) 3 2
    let armed := decide (mode = 0) || decide (mode = 2) || (decide (mode = 1) && b.armed)
    regSet s (R.cupBayStat n) (b2n armed * 2 ^ 31 + raw * 2 ^ 29 + b2n (rs.any (fun r => r.st = .tail)) * 2 ^ 28 + capN 8 b.queue.length * 2 ^ 24 + b.opened % 65536)

/-- A trigger dropped: counted, with TRIG_DROPPED at most once per bay per second; a REC_FORCE that waits for it fails (R357, R373). -/
def dropTrig (s : State) (n : Nat) (fs : List Fire) : State :=
  let s0 := fs.foldl (fun st f => match f.cid with | some c => complete st c stNoResource Att.zero | none => st) s
  let s1 := bump s0 R.cupTrigDrop
  match cupBay? s1 n with
  | none => s1
  | some b =>
    if (match b.dropEvt with | some t => !elapsed s1 t secT | none => false) then s1
    else raise 0x0A05 (setCup s1 n { b with dropEvt := some s1.dev.ticks }) (bay := n) (items := [(1, (fs.head?.map Fire.idx).getD 0)])

/-! ### Storage (R364) -/

/-- The units of 64 KiB reserved for a record: header, triggers and summary; raw sections for pre_ms + post_max_ms; IR and HR windows; RMS section. -/
def unitsFor (recd : List Byte) (rate irCh hrCh : Nat) : Nat :=
  let ms := field recd 6 2 + field recd 12 4
  let inst := ms * rate / 1000 + 1
  let cyc := ms * 70 / 1000 + 1
  let ir := if bitOf (field recd 3 1) 0 then irCh * (field recd 18 1 + field recd 19 1) * 8296 else 0
  let hr := if bitOf (field recd 3 1) 1 then hrCh * (field recd 20 1 + field recd 21 1) * 33184 else 0
  let post := cdivN (field recd 12 4) 1000
  let rms := (field recd 6 2 / 1000 + 1 + (if post < field recd 16 2 then field recd 16 2 else post)) * 140 * 40
  cdivN (1024 + 32 * 32 + 256 + inst * 64 + cyc * 200 + ir + hr + rms) 65536

/-- The units that a sealed record keeps. -/
def unitsOf (r : CupRec) (recd : List Byte) : Nat :=
  let n := r.raw.length
  let cyc := (r.raw.filter (fun e => e.cyc)).length
  let words (t : Tab (List SampleWord)) : Nat := (t.foldl (fun a x => a + x.2.length) 0) * 8
  let post := cdivN (field recd 12 4) 1000
  let rms := (field recd 6 2 / 1000 + 1 + (if post < field recd 16 2 then field recd 16 2 else post)) * 140 * 40
  cdivN (1024 + 32 * 32 + 256 + n * 64 + cyc * 200 + words r.ir + words r.hr + rms) 65536

/-- The units of the record area. -/
def areaUnits (s : State) : Nat := fld s R.cupAreaCfg 7 0 * 1024

/-- A record freed: its units and its index entry (R364, R375); its flash copy is due to be marked (R366). -/
def freeRec (s : State) (num : Nat) : State :=
  let s1 := { s with cup := { s.cup with recs := s.cup.recs.filter (fun r => r.num ≠ num),
                                         flash := s.cup.flash.filter (fun f => f.1 ≠ num) ++ [(num, true, s.dev.ticks)] } }
  cupStat (flagSet s1 R.cupStat 2 false)

/-- COMPLETE and LOST records freed in ascending number until `need` units and an index entry are free, passing over any that a REC_FETCH reads (R364). -/
def overwriteFor (need : Nat) : List CupRec → State → State
  | [], s => s
  | r :: rs, s =>
    if regGet s R.cupAreaUsed + need ≤ areaUnits s ∧ regGet s R.cupIdxUsed < 1024 then s
    else if (r.st = .complete ∨ r.st = .lost) ∧ ¬ s.cup.fetches.any (fun f => f.num = r.num) then
      overwriteFor need rs (raise 0x0A04 (bump (freeRec s r.num) R.cupOverwritten) (bay := r.bay) (items := [(4, r.num)]))
    else overwriteFor need rs s

/-- Room made for a record: the state, and whether the reservation succeeds, with area_full, idx_full and AREA_FULL (R364). -/
def makeRoom (s : State) (need : Nat) : State × Bool :=
  let s0 := cupStat s
  let s1 := if flag s0 R.cupCtl 1 then overwriteFor need s0.cup.recs s0 else s0
  let idx := decide (1024 ≤ regGet s1 R.cupIdxUsed)
  let area := decide (areaUnits s1 < regGet s1 R.cupAreaUsed + need)
  if idx || area then
    let fresh := (idx && !flag s1 R.cupStat 2) || (area && !flag s1 R.cupStat 3)
    let s2 := flagSet (if idx then flagSet s1 R.cupStat 2 true else s1) R.cupStat 3 (area || flag s1 R.cupStat 3)
    (if fresh then raise 0x0A06 s2 else s2, false)
  else (flagSet s1 R.cupStat 3 false, true)

/-! ### Refinement of T0 (R350) -/

/-- The refined crossing between two values at two tags, in ns of TAI. -/
def crossing (l : Nat) (va vb : Nat) (ta tb : QInst) : Nat :=
  let base := ta / secQ
  let d := fdiv b64 (fmul b64 (fint b64 ((tb - ta : Nat) : Int)) (fint b64 ((l - va : Nat) : Int))) (fint b64 ((vb - va : Nat) : Int))
  let x := fdiv b64 (fadd b64 (fint b64 (ta % secQ : Nat)) d) (fint b64 4)
  base * nsSec + (fround b64 x 0 0).toNat

/-- The crossing of the first consecutive pair that crosses a level; `none` when there is no such pair or a value of it is not usable. -/
def firstCross (l : Nat) : List (QInst × Nat × Bool) → Option Nat
  | a :: b :: t =>
    if a.2.1 < l ∧ l ≤ b.2.1 then (if a.2.2 && b.2.2 then some (crossing l a.2.1 b.2.1 a.1 b.1) else none)
    else firstCross l (b :: t)
  | _ => none

/-- The level of a LEVEL_INST trigger (R348). -/
def trigLevel (recd : List Byte) (i : Nat) : Nat := rdivN (field (trigRec recd i) 8 4 * 2 ^ 24) 1000

/-- The refined T0 of a LEVEL_INST trigger at an instant, from the IR outputs of a local channel or from the two newest instants of an SV channel; `none` leaves it coarse (R350). -/
def refineT0 (s : State) (n i : Nat) (at_ : EvalAt) : Option Nat :=
  match cupBay? s n, bay? s n with
  | some cb, some b =>
    let c := field (trigRec cb.recd i) 1 1
    let l := trigLevel cb.recd i
    let es := cb.ring.dropWhile (fun e => decide (e.at_ ≠ at_))
    match es with
    | e :: rest =>
      if qHas (e.q.getD c 0) qSOURCELOCAL then
        let ir := tget ⟨0, []⟩ s.prep.ir (mapAin (brMap b.recd c))
        let t := at_.q b.rate
        let ws := (ir.between (t - cdivN (2 * secQ) b.rate) t).filterMap ir.at?
        firstCross l (ws.map (fun w =>
          (w.at_, (rdivI (w.value * b.ctx.const.mloc.getD c 0) (2 ^ b.ctx.const.sloc.getD c 1)).natAbs, qUsable w.q.toNat)))
      else
        match rest with
        | p :: _ => firstCross l [(p.at_.q b.rate, (p.x.getD c 0).natAbs, qUsable (p.q.getD c 0)), (at_.q b.rate, (e.x.getD c 0).natAbs, qUsable (e.q.getD c 0))]
        | [] => none
    | [] => none
  | _, _ => none

/-- The trigger table's refined field for a trigger: its crossing minus q1 of the detection instant. -/
def refinedField (s : State) (n i rate : Nat) (at_ : EvalAt) (recd : List Byte) : Option Int :=
  if trigTy recd i = 2 then (refineT0 s n i at_).map (fun t => (t : Int) - at_.ns rate) else none

/-- A trigger-table entry of a fire. -/
def trigEntry (s : State) (n rate : Nat) (recd : List Byte) (role : Nat) (d : Detect) (f : Fire) : TrigEnt :=
  ⟨f.idx, trigTy recd f.idx, role, d.att, refinedField s n f.idx rate d.at_ recd, f.unit, f.num⟩

/-! ### Records (R353 to R360) -/

/-- Bits of the record header's flags (R367). -/
abbrev fSHORTPRE : Nat := 0x001
/-- OVERLAP. -/ abbrev fOVERLAP : Nat := 0x002
/-- TIME_STEP. -/ abbrev fTIMESTEP : Nat := 0x004
/-- BAY_STOPPED. -/ abbrev fBAYSTOPPED : Nat := 0x008
/-- MASTER. -/ abbrev fMASTER : Nat := 0x010
/-- TEST. -/ abbrev fTEST : Nat := 0x020
/-- T0_COARSE. -/ abbrev fCOARSE : Nat := 0x040
/-- POST_CAPPED. -/ abbrev fCAPPED : Nat := 0x080
/-- TAIL_CUT. -/ abbrev fTAILCUT : Nat := 0x100
/-- XTRIG_ONLY. -/ abbrev fXTRIG : Nat := 0x200
/-- LOST. -/ abbrev fLOST : Nat := 0x400
/-- TRIG_TABLE_FULL. -/ abbrev fFULL : Nat := 0x800

/-- The nominal instant of the S0 sample that an IR or HR word represents, in quarter-nanoseconds / `rate` (R354, R371): the grid instant at its tag less the channel's skew (in 1/256 ns), or that time itself where no grid instant lies there, as in SAMPLE_SYNC. -/
def nomInst (rate : Nat) (skew : Int) (w : SampleWord) : Nat :=
  let u : Int := ((w.at_ : Int) - rdivI skew 64) * rate
  let g : Int := rdivI u secQ * secQ
  if (u - g).natAbs ≤ 2 * rate then g.toNat else u.toNat

/-- Whether the nominal instant of a word lies at or after `pre` ms before T0, and at or before `post` ms after it (R354). -/
def inWindow (rate : Nat) (skew : Int) (t0 pre post : Nat) (w : SampleWord) : Bool :=
  decide ((t0 - pre * 1000000) * 4 * rate ≤ nomInst rate skew w) && decide (nomInst rate skew w ≤ (t0 + post * 1000000) * 4 * rate)

/-- The skew of an input as FLT_SKEW holds it, in 1/256 ns. -/
def skewOf (s : State) (a : Nat) : Int := toSigned 16 (fld s (R.fltSkew a) 15 0)

/-- The words of a ring of `size` entries that pass a test, newest first (R354). -/
def winWords (x : IrRing) (size : Nat) (ok : SampleWord → Bool) : List SampleWord :=
  ((List.range (capN size x.n)).filterMap (fun j => let i := x.n - 1 - j; if i < x.n then tget? x.w (i % size) else none)).filter ok

/-- Local channels of a bay with their inputs: channel and AIN. -/
def localChans (recd : List Byte) : List (Nat × Nat) :=
  (List.range 8).filterMap (fun c => if mapKind (brMap recd c) = 1 then some (c, mapAin (brMap recd c)) else none)

/-- Local channels whose input is the first of an interleaved pair in effect: channel and pair. -/
def hrChans (s : State) (recd : List Byte) : List (Nat × Nat) :=
  (localChans recd).filterMap (fun (c, a) => if bitOf s.afe.ilv (a / 2) then some (c, a / 2) else none)

/-- The channel table of R367 at T0: map entry, In or Vn, m_loc, s_loc, source, FLT_SKEW. -/
def chanTable (s : State) (b : Bay) : List Byte :=
  (List.range 8).flatMap (fun c =>
    let m := brMap b.recd c
    let k := b.ctx.const
    slice m 0 4 ++ leBytes 4 (if c < 4 then k.inom else k.vnom) ++ leBytes 4 (ofSigned 32 (k.mloc.getD c 0)) ++ leBytes 1 (k.sloc.getD c 0)
      ++ leBytes 1 ((b.slot.newest.map (fun z => z.src.getD c 0)).getD 0) ++ leBytes 2 (if mapKind m = 0 ∨ 32 ≤ mapAin m then 0 else fld s (R.fltSkew (mapAin m)) 15 0)
      ++ leBytes 16 0)

/-- The windows of a record taken from the rings once its T0 is final (R354). -/
def takeWindows (s : State) (r : CupRec) (recd brec : List Byte) : CupRec :=
  let ir := if bitOf (field recd 3 1) 0 then
      (localChans brec).filterMap (fun (c, a) => if bitOf s.afe.chEn a then some (c, winWords (tget ⟨0, []⟩ s.prep.ir a) 41472 (inWindow 1036800 (skewOf s a) r.t0 (field recd 18 1) (field recd 19 1))) else none)
    else []
  let hr := if bitOf (field recd 3 1) 1 then
      (hrChans s brec).map (fun (c, p) => (c, winWords (tget ⟨0, []⟩ s.cup.hr p) 82944 (inWindow 4147200 0 r.t0 (field recd 20 1) (field recd 21 1))))
    else []
  { r with ir := ir, hr := hr }

/-- The T0 of a record fixed: the mode at T0 with MASTER, windows before and after it, n_pre, OVERLAP with the bay's previous record, and the raw entries from the ring (R353, R354, R358, R360). -/
def fixT0 (s : State) (n : Nat) (r0 : CupRec) (t0 : Nat) (coarse : Bool) : CupRec :=
  match cupBay? s n, bay? s n with
  | some cb, some b =>
    let rate := r0.rate
    let pre := field cb.recd 6 2 * 1000000
    let first := evalAtOrAfter rate (t0 - pre)
    let at0 := evalAtOrAfter rate t0
    let last0 := evalAtOrBefore rate (t0 + field cb.recd 8 4 * 1000000)
    let last := if r0.last.le last0 then last0 else r0.last
    let ext := evalAtOrBefore rate (t0 + field cb.recd 16 2 * nsSec)
    let raw := (cb.ring.takeWhile (fun e => first.le e.at_)).filter (fun e => e.at_.le last)
    let short := match raw.getLast? with | some e => decide (e.at_ ≠ first) && !(cb.ring.any (fun x => !first.le x.at_)) | none => true
    let from_ := match raw.getLast? with | some e => e.at_ | none => r0.det
    let ovr := match cb.prev with
      | some (num, lo, hi) => if from_.le hi then some (num, (raw.filter (fun e => lo.le e.at_ && e.at_.le hi)).length) else none
      | none => none
    let mode := modeAt s (t0 * 65536)
    let nPre := (raw.filter (fun e => !at0.le e.at_)).length
    takeWindows s { r0 with t0 := t0, final := true, raw := raw, nPre := nPre, nPreReq := at0.sub rate first, last := last,
                              rmsEnd := if last.le ext then ext else last, ovr := ovr, mode := mode.code,
                              flags := r0.flags + (if short then fSHORTPRE else 0) + (if ovr.isSome then fOVERLAP else 0) + (if coarse then fCOARSE else 0)
                                + (if authority mode then fMASTER else 0) }
      cb.recd b.recd
  | _, _ => r0

/-- The ATT of T0: its ns with fraction 0 and a quality (R365, R367). -/
def CupRec.t0Att (r : CupRec) : Att := ⟨r.t0 / nsSec, r.t0 % nsSec, 0, r.t0q⟩

/-- A record whose T0 is final announced: REC_OPENED, the cross-trigger, and REC_FORCE commands that wait (R361, R373, R383). -/
def announceRec (s : State) (num : Nat) : State :=
  match rec? s num with
  | none => s
  | some r =>
    let s1 := raise 0x0A01 s (bay := r.bay) (items := [(4, r.num), (1, r.t0i)]) (att := some r.t0Att)
    let s2 := match r.xgroup with
      | some g => if r.flags / fMASTER % 2 = 1 then sendXtrig s1 r.bay g r.num (decide (r.flags / fTEST % 2 = 1)) r.t0Att else s1
      | none => s1
    r.cids.foldl (fun st c => complete st c stOk r.t0Att (leBytes 4 r.num)) (modRec s2 num (fun x => { x with cids := [] }))

/-- A record opened on a detection instant (R353, R354, R364). -/
def openRec (s : State) (n : Nat) (d : Detect) : State :=
  match cupBay? s n, bay? s n, d.fires with
  | some cb, some b, f0 :: _ =>
    let rate := b.rate
    let need := unitsFor cb.recd rate (localChans b.recd).length (hrChans s b.recd).length
    let (s1, ok) := makeRoom s need
    if !ok then dropTrig s1 n d.fires
    else
      let num := regGet s1 R.cupRecNext
      let level := decide (trigTy cb.recd f0.idx = 2)
      let xg := d.fires.find? (fun f => decide (f.idx < 16) && decide (trigTy cb.recd f.idx ≠ 6) && bitOf (field (trigRec cb.recd f.idx) 2 1) 0)
      let flags := (if bitOf d.word 49 then fTEST else 0)
        + (if d.fires.all (fun f => decide (trigTy cb.recd f.idx = 6)) then fXTRIG else 0)
      let r0 : CupRec :=
        { num := num, bay := n, st := .open_, t0i := f0.idx, t0 := f0.t0, t0q := d.att.q, final := false, flags := flags, fired := d.fires.length,
          trigs := (d.fires.map (fun f => let t := trigEntry s1 n rate cb.recd 0 d f; if level then { t with refined := none } else t)).take 32, det := d.at_, detAtt := d.att,
          nPre := 0, nPreReq := 0, last := evalAtOrBefore rate (f0.t0 + field cb.recd 8 4 * 1000000), rmsEnd := ⟨0, 0⟩, raw := [], tailE := [], ir := [],
          hr := [], mode := s1.dev.mode.code, era := s1.alm.era, taiUtc := taiUtc s1, hz60 := b.ctx.const.hz60, sg := b.ctx.sg, rate := rate,
          chans := chanTable s1 b, leap := 0, ovr := none, summary := [], units := need, cids := d.fires.filterMap Fire.cid, sealAt := none,
          xgroup := xg.map (fun f => field (trigRec cb.recd f.idx) 3 1), entry := [] }
      let r1 := if level then r0 else fixT0 s1 n r0 f0.t0 false
      let mode := fld s1 (R.cupBayCtl n) 3 2
      let s2 := { s1 with cup := { s1.cup with recs := s1.cup.recs ++ [r1] } }
      let s3 := regSet s2 R.cupRecNext (num + 1)
      let s4 := modCup s3 n (fun x => { x with opened := x.opened + 1, autoAt := d.at_.inst rate, armed := x.armed && decide (mode ≠ 1) })
      let s5 := if level then s4 else announceRec s4 num
      cupBayStat (cupStat s5) n
  | _, _, _ => s

/-- A trigger added to a live record: a retrigger (role 1) or a queued one (role 2) extends the post window up to the cap (R356, R357). -/
def extendRec (s : State) (n num role : Nat) (d : Detect) : State :=
  match cupBay? s n, rec? s num, d.fires with
  | some cb, some r, f0 :: _ =>
    let tr (f : Fire) : Nat := if trigTy cb.recd f.idx = 2 then (refineT0 s n f.idx d.at_).getD f.t0 else f.t0
    let latest := d.fires.foldl (fun a f => if a < tr f then tr f else a) (tr f0)
    let cap := r.t0 + field cb.recd 12 4 * 1000000
    let want := latest + field cb.recd 8 4 * 1000000
    let upTo := evalAtOrBefore r.rate (if want < cap then want else cap)
    let last := if r.last.le upTo then upTo else r.last
    let es := d.fires.map (trigEntry s n r.rate cb.recd role d)
    let full := decide (32 < r.trigs.length + es.length)
    let capped := decide (cap < want)
    let s1 := modRec s num (fun x => { x with
      last := last, rmsEnd := if x.rmsEnd.le last then last else x.rmsEnd, fired := x.fired + es.length, trigs := (x.trigs ++ es).take 32,
      flags := Nat.lor x.flags ((if full then fFULL else 0) + (if capped then fCAPPED else 0)) })
    d.fires.foldl (fun st f => match f.cid with
      | some c => if r.final then complete st c stOk r.t0Att (leBytes 4 num) else modRec st num (fun x => { x with cids := x.cids ++ [c] })
      | none => st) s1
  | _, _, _ => s

/-- The record of a bay that is OPEN or SEALING. -/
def rawRec (s : State) (n : Nat) : Option CupRec := s.cup.recs.find? (fun r => decide (r.bay = n) && (decide (r.st = .open_) || decide (r.st = .sealing)))

/-- A detection instant acted on: a retrigger, a queued trigger, or a record opened (R353, R356, R357). -/
def fireAt (s : State) (n : Nat) (d : Detect) : State :=
  if d.fires.isEmpty then s
  else
    match rawRec s n with
    | some r =>
      if d.at_.le r.last ∧ r.st = .open_ then extendRec s n r.num 1 d
      else
        match cupBay? s n with
        | some cb =>
          if cb.queue.length < 8 then cupBayStat (setCup s n { cb with queue := cb.queue ++ [d] }) n
          else dropTrig s n d.fires
        | none => s
    | none => openRec s n d

/-! ### The record line (R341 to R344) -/

/-- The phasor section of a line, when it carries one. -/
def linePh (bs : List Byte) : Option PhSec :=
  if bitOf (field bs 0x38 2) 0 then
    some ⟨(List.range 28).map (fun i => toSigned 32 (field bs (0x40 + 4 * i) 4)), field bs 0xB0 4, field bs 0xB4 2, field bs 0xB6 2⟩
  else none

/-- The PR-ring entry of a line after the newest entry of the ring (R343, R344). -/
def lineEnt (l : Line) (prev : Option PrEnt) : PrEnt :=
  let psi := field l.bytes 0x34 4
  let cyc := match prev with | some p => decide (psi < p.psi) | none => false
  let half := match prev with | some p => cyc || (decide (p.psi < 2 ^ 31) && decide (2 ^ 31 ≤ psi)) | none => false
  { at_ := l.at_, x := (List.range 8).map (fun c => toSigned 32 (field l.bytes (4 * c) 4)), q := (List.range 8).map (fun c => field l.bytes (0x20 + 2 * c) 2),
    word := l.word, bins := field l.bytes 0x30 2, tv := field l.bytes 0x32 2, psi := psi, ph := if cyc then linePh l.bytes else none, half := half, cyc := cyc }

/-- The entries of the half-cycle (or cycle) that the newest entry ends, when the ring holds the boundary before it. -/
def spanOf (isB : PrEnt → Bool) : List PrEnt → Option (List PrEnt)
  | [] => none
  | e :: rest => if isB e ∧ rest.any isB then some (e :: rest.takeWhile (fun x => !isB x)) else none

/-- The conditions of triggers 0 to 15 at the newest entry: `none` where a trigger is not evaluated (R348, R349). -/
def trigCond (recd : List Byte) (rate : Nat) (ring : List PrEnt) (i : Nat) : Option Bool :=
  match ring with
  | [] => none
  | e :: rest =>
    let t := trigRec recd i
    let c := field t 1 1
    let thr := field t 8 4
    match field t 0 1 with
    | 1 => some (bitOf e.tv i)
    | 2 => some (qUsable (e.q.getD c 0) && decide (trigLevel recd i ≤ (e.x.getD c 0).natAbs))
    | 3 => (spanOf PrEnt.half ring).map (fun es => es.all (fun x => qUsable (x.q.getD c 0)) && fle b64 (frat b64 (thr : Nat) 1000) (rms64 es c))
    | 4 => (spanOf PrEnt.half ring).map (fun es => es.all (fun x => qUsable (x.q.getD c 0)) && fle b64 (rms64 es c) (frat b64 (thr : Nat) 1000))
    | 5 => match rest with
      | p :: _ => some (qUsable (e.q.getD c 0) && qUsable (p.q.getD c 0) && decide (thr * 2 ^ 24 ≤ (e.x.getD c 0 - p.x.getD c 0).natAbs * rate))
      | [] => some false
    | _ => none

/-! ### Statistics (R376 to R378) -/

/-- A count of a saturating table. -/
def bumpTab (t : Tab Nat) (k most : Nat) : Tab Nat := tset t k (capN most (tget 0 t k + 1))

/-- The duration bin of an event in ns (R376). -/
def durBin (ns : Nat) : Nat :=
  let ms := [20, 50, 100, 200, 500, 1000, 2000, 5000, 10000, 20000, 60000]
  (ms.filter (fun m => decide (m * 1000000 ≤ ns))).length

/-- The amplitude bin of an r in binary64 (R376). -/
def ampBin (r : Nat) : Nat := ffloor b64 (fdiv b64 (fmul b64 r (fint b64 100)) (fint b64 10)) 0 15

/-- An event's extreme value updated with the half-cycles that end at this instant. -/
def extreme (low : Bool) (ring : List PrEnt) (x : PqEvent) : PqEvent :=
  match spanOf PrEnt.half ring with
  | none => x
  | some es =>
    let rs := [4, 5, 6].map (rms64 es)
    { x with ext := rs.foldl (fun a r => match a with | none => some r | some m => some (if low then (if flt b64 r m then r else m) else if flt b64 m r then r else m)) x.ext }

/-- A sag or swell followed at an instant: the event under way, and the event that ended with its end. -/
def followPq (low on : Bool) (ns : Nat) (ring : List PrEnt) (x : Option PqEvent) : Option PqEvent × Option (PqEvent × Nat) :=
  match x, on with
  | none, true => (some (extreme low ring ⟨ns, none⟩), none)
  | some e, true => (some (extreme low ring e), none)
  | some e, false => (none, some (extreme low ring e, ns))
  | none, false => (none, none)

/-- The harmonic bin of 100 × |X_h| / |X_1| (R377). -/
def harmBin (xh x1 : Nat) : Nat :=
  let edges := [1, 2, 5, 10, 20, 50, 100, 200, 500]
  (edges.filter (fun e => decide (e * x1 ≤ 1000 * xh))).length

/-- The harmonic histogram after a line (R377); `f` decides which orders are reportable. -/
def harmLine (rate f : Nat) (bs : List Byte) (h : Tab Nat) : Tab Nat :=
  (List.range (field bs 0xC2 1)).foldl (fun t e =>
    let ch := field bs (0xC4 + e) 1
    let x (o : Nat) : Nat := field bs (0xC8 + 100 * e + 4 * (o - 1)) 4
    if x 1 < thr1000 100 then t
    else (List.range 24).foldl (fun u j =>
      let o := j + 2
      if (if rate = 14400 then 3000 else 1200) * 65536 < o * f then u
      else bumpTab u ((ch * 24 + o - 2) * 10 + harmBin (x o) (x 1)) (2 ^ 32 - 1)) t) h

/-- The persistence maps after an entry (R378). -/
def pmLine (recd : List Byte) (e : PrEnt) (t : Tab Nat) : Tab Nat :=
  let pe := field recd 23 1
  (List.range 8).foldl (fun u c =>
    if qUsable (e.q.getD c 0) then
      let a := (clampI 0 63 ((e.x.getD c 0 + (2 ^ (24 + pe) : Nat)) / (2 ^ (19 + pe) : Nat))).toNat
      bumpTab u (c * 4096 + a * 64 + e.psi / 2 ^ 26) 65535
    else u) t

/-- The three statistics after a line (R376 to R378). -/
def statsLine (s : State) (n rate : Nat) (l : Line) (ring : List PrEnt) (cb : CupBay) : CupBay × Bool :=
  if isDying s then (cb, false) else
  let fl := field cb.recd 3 1
  let ns := l.at_.ns rate
  let hasPq := bitOf (field l.bytes 0x38 2) 1
  let out := if hasPq then field l.bytes 0xC0 2 else 0
  let a := followPq true (hasPq && bitOf out 11) ns ring cb.sag
  let b := followPq false (hasPq && bitOf out 12) ns ring cb.swell
  let free := (Config.freeWord s.dev.free).toNat % 16
  let used := [a.2, b.2].any (fun x => match x with | some (e, _) => e.ext.isNone | none => false)
  let put (t : Tab Nat) (x : Option (PqEvent × Nat)) : Tab Nat :=
    match x with
    | some (e, z) => bumpTab t ((match e.ext with | some r => ampBin r | none => free) * 12 + durBin (z - e.start)) (2 ^ 32 - 1)
    | none => t
  let f := ((bay? s n).map (fun x => x.ctx.meas.f)).getD 0
  ({ cb with sag := a.1, swell := b.1, ev := if bitOf fl 2 then put (put cb.ev a.2) b.2 else cb.ev,
             harm := if bitOf fl 3 ∧ hasPq then harmLine rate f l.bytes cb.harm else cb.harm,
             pm := if bitOf fl 4 ∧ l.count % field cb.recd 22 1 = 0 then (match ring.head? with | some e => pmLine cb.recd e cb.pm | none => cb.pm) else cb.pm,
             lastAtt := l.att }, used)

/-! ### Taking a line (R341, R344, R349, R352) -/

/-- The length of a bay's PR ring in entries (R344). -/
def ringLen (recd : List Byte) (rate : Nat) : Nat := field recd 4 2 * rate / 1000

/-- An entry added to the records whose raw window or tail holds its instant (R354, R355). -/
def appendEnt (e : PrEnt) (n : Nat) (r : CupRec) : CupRec :=
  if r.bay ≠ n ∨ !r.st.live ∨ !r.final then r
  else if e.at_.le r.last ∧ r.st = .open_ then { r with raw := e :: r.raw }
  else if e.at_.le r.rmsEnd then { r with tailE := e :: r.tailE }
  else r

/-- The triggers that fire at a line: indices 0 to 15 by their rising conditions and cross-triggers, then 16 and 17 (R349, R351, R352). -/
def firesAt (cb : CupBay) (rate mode : Nat) (l : Line) (ring : List PrEnt) : List Fire × Nat :=
  let ns := l.at_.ns rate
  let inst := l.at_.inst rate
  let conds := (List.range 16).map (trigCond cb.recd rate ring)
  let rises := (List.range 16).filter (fun i => decide (conds.getD i none = some true) && !bitOf cb.held i)
  let held := maskOf 16 (fun i => match conds.getD i none with | some v => v | none => bitOf cb.held i)
  let xs := (cb.xtrigs.filter (fun p => decide (p.1 ≤ inst))).map Prod.snd
  let low := (List.range 16).filterMap (fun i => if rises.contains i then some (⟨i, ns, 0, 0, none⟩ : Fire) else xs.find? (fun f => f.idx = i))
  let evald := if mode = 3 then [] else low
  let forced := (cb.forced.filter (fun p => decide (p.1 ≤ inst))).map (fun p => (⟨16, ns, 0, 0, some p.2⟩ : Fire))
  let acts := (cb.acts.filter (fun p => decide (p.1 ≤ inst))).map (fun p => (⟨17, rdivN p.2 65536, 0, 0, none⟩ : Fire))
  (evald ++ forced ++ acts, if mode = 3 then cb.held else held)

/-! ### Clearing and cutting (R345, R359) -/

/-- The PR ring of a bay cleared: no trigger fires on the first instant after it (R345, R349). -/
def clearRing (s : State) (n : Nat) : State := modCup s n (fun b => { b with ring := [], wr := 0, held := 0xFFFF, sag := none, swell := none })

/-- A record whose T0 waits for its refinement gets it; its other LEVEL_INST entries show their own crossings (R350, R353). -/
def refineRec (s : State) (n : Nat) : State :=
  match s.cup.recs.find? (fun r => r.bay = n ∧ r.final = false), cupBay? s n with
  | some r, some cb =>
    let t := refineT0 s n r.t0i r.det
    let r1 := fixT0 s n r (t.getD r.t0) t.isNone
    let trigs := r1.trigs.map (fun x => if x.role = 0 then { x with refined := refinedField s n x.idx r.rate r.det cb.recd } else x)
    cupStat (announceRec (modRec s r.num (fun _ => { r1 with trigs := trigs })) r.num)
  | _, _ => s

/-- The live records of a bay cut at its newest instant: the OPEN one is sealed, tails end, queued triggers are dropped (R359); `why` is TIME_STEP or BAY_STOPPED. A T0 that waits for its refinement is refined first. -/
def cutCup (s0 : State) (n why : Nat) : State :=
  let s := refineRec s0 n
  let newest := (cupBay? s n).bind (fun b => b.ring.head?)
  let s1 := { s with cup := { s.cup with recs := s.cup.recs.map (fun r =>
      if r.bay ≠ n ∨ !r.st.live then r
      else
        let e := match newest with | some e => e.at_ | none => r.det
        let f := if r.st = .open_ then why else if r.rmsEnd.le e then 0 else fTAILCUT
        { r with flags := Nat.lor r.flags f, last := if r.st = .open_ then (if r.last.le e then r.last else e) else r.last, rmsEnd := e,
                 st := if r.st = .open_ then .sealing else r.st, sealAt := some s.dev.ticks }) } }
  match cupBay? s1 n with
  | some b => b.queue.foldl (fun st d => dropTrig st n d.fires) (setCup s1 n { b with queue := [] })
  | none => s1

/-- The REC_FORCE commands of a bay that wait for an instant that will not come: ABORTED (R373, R493). -/
def abortForced (s : State) (n : Nat) : State :=
  match cupBay? s n with
  | some b => b.forced.foldl (fun st p => complete st p.2 stAborted Att.zero) (setCup s n { b with forced := [] })
  | none => s

/-- What a stop of its bay means to Cupola: records cut, the ring cleared, forced triggers given up (R345, R359). -/
def cupStopped (s : State) (n : Nat) : State := cupBayStat (cupStat (clearRing (abortForced (cutCup s n fBAYSTOPPED) n) n)) n

/-- A record line taken: ring, records, statistics and triggers (R341 to R353). -/
def takeLine (s : State) (n : Nat) (l : Line) : State :=
  match cupBay? s n, bay? s n with
  | some cb0, some b =>
    let rate := b.rate
    let e := lineEnt l cb0.ring.head?
    let ring := (e :: cb0.ring).take (ringLen cb0.recd rate)
    let (cb1, usedFree) := statsLine s n rate l ring cb0
    let mode := fld s (R.cupBayCtl n) 3 2
    let (fs, held) := firesAt cb1 rate mode l ring
    let inst := l.at_.inst rate
    let cb2 := { cb1 with ring := ring, wr := cb0.wr + 1, held := held, xtrigs := cb1.xtrigs.filter (fun p => decide (inst < p.1)),
                          forced := cb1.forced.filter (fun p => decide (inst < p.1)), acts := cb1.acts.filter (fun p => decide (inst < p.1)) }
    let s1 := setCup (if usedFree then bumpFree s else s) n cb2
    let s2 := { s1 with cup := { s1.cup with recs := s1.cup.recs.map (appendEnt e n) } }
    let off := mode = 1 ∧ !cb2.armed
    let live := fs.filter (fun f => decide (¬ off) || decide (16 ≤ f.idx))
    let s3 := bumpBy s2 R.cupTrigDisarmed (fs.length - live.length)
    if l.stop then cupStopped s2 n else fireAt s3 n ⟨l.at_, l.att, l.word, live⟩
  | _, _ => s

/-- The oldest waiting line of a bay taken, while Cupola runs (R341, R382). -/
def recordLine (s : State) (n : Nat) : State :=
  match cupBay? s n with
  | none => s
  | some cb =>
    match cb.lines with
    | [] => s
    | l :: ls =>
      let s1 := setCup s n { cb with lines := ls }
      if flag s R.cupCtl 0 then takeLine s1 n l else if l.stop then cupStopped s1 n else s1

/-- Every waiting line of a bay taken. -/
def drainLines (s : State) (n : Nat) : State := (((cupBay? s n).map CupBay.lines).getD []).foldl (fun st _ => recordLine st n) s

/-- The line of a stop word (R341): every x 0 with VALID clear; BIN0 to BIN15 and ψ as at the last task. -/
def stopLine (b : Bay) (at_ : EvalAt) (att : Att) (w : Nat) : Line :=
  ⟨at_, att, leBytes 48 0 ++ leBytes 2 b.ctx.bins ++ leBytes 2 0 ++ leBytes 4 b.ctx.meas.psi ++ leBytes 8 0, w, b.ctx.count, true⟩

/-- Statistics and rings of a bay at BAY_START, after the lines of its earlier run (R345, R349, the section on statistics). -/
def startCup (s : State) (n : Nat) (at_ : Inst) : State :=
  modCup (drainLines s n) n (fun b => { CupBay.blank b.recd with armed := b.armed, autoAt := at_, clrAtt := attAt s at_, lastAtt := Att.zero, prev := b.prev })

end Sys2Proof.Machine
end

