-- ==== Sys2Proof/Machine/CupOut.lean ====
section
/-! DEFINITION. What a record is turned into: its native layout, its summary, its index entry, its COMTRADE files, and the statistics snapshot (R343, R365 to R372, R379). -/

namespace Sys2Proof.Machine

/-! ### Text -/

/-- The bytes of an ASCII text. -/
def txt (s : String) : List Byte := s.toList.map (fun c => BitVec.ofNat 8 c.toNat)

/-- A natural number in decimal. -/
def dec (n : Nat) : List Byte := (Nat.toDigits 10 n).map (fun c => BitVec.ofNat 8 c.toNat)

/-- A natural number in decimal with at least `w` digits. -/
def decW (w n : Nat) : List Byte := let d := dec n; List.replicate (w - d.length) 0x30 ++ d

/-- An integer in decimal. -/
def decI (i : Int) : List Byte := if i < 0 then txt "-" ++ dec i.natAbs else dec i.natAbs

/-- A number in upper-case hexadecimal with `w` digits. -/
def hexW (w n : Nat) : List Byte :=
  ((List.range w).map (fun i => let d := n / 16 ^ (w - 1 - i) % 16; BitVec.ofNat 8 (if d < 10 then 48 + d else 55 + d)))

/-- Fields joined by commas and ended with CRLF. -/
def csv : List (List Byte) → List Byte
  | [] => [0x0D, 0x0A]
  | [a] => a ++ [0x0D, 0x0A]
  | a :: b :: t => a ++ [0x2C] ++ csv (b :: t)

/-- An ASCII field up to its first NUL. -/
def trimNul (bs : List Byte) : List Byte := bs.takeWhile (fun b => b ≠ 0)

/-! ### Sections (R367) -/

/-- The entries of a record in ascending order, the raw window first. -/
def CupRec.all (r : CupRec) : List PrEnt := (r.tailE ++ r.raw).reverse

/-- The raw window in ascending order. -/
def CupRec.rawUp (r : CupRec) : List PrEnt := r.raw.reverse

/-- The first instant of a record. -/
def CupRec.first (r : CupRec) : EvalAt := match r.raw.getLast? with | some e => e.at_ | none => r.det

/-- Complete half-cycles or cycles: the entries after one boundary up to and including the next. -/
def spansOf (isB : PrEnt → Bool) : List PrEnt → Bool → List PrEnt → List (List PrEnt)
  | [], _, _ => []
  | e :: t, seen, acc =>
    if isB e then (if seen then [acc ++ [e]] else []) ++ spansOf isB t true []
    else spansOf isB t seen (if seen then acc ++ [e] else [])

/-- A binary64 number as binary32. -/
def toB32 (x : Nat) : Nat :=
  match fpDec b64 x with
  | .fin m e => let (n, d) := fracOf m e; fpEnc b32 n d
  | .inf neg => b32.infBits neg
  | .nan => b32.nanBits

/-- Bytes 32 to 39 of an RMS entry: boundary instant, n, flags. -/
def spanTail (r : CupRec) (es : List PrEnt) : List Byte :=
  let at_ := match es.getLast? with | some e => e.at_ | none => r.first
  let bad := es.any (fun e => e.q.any (fun q => !qUsable q))
  let ovr := es.any (fun e => e.q.any (fun q => qHas q qOVERRANGE))
  leBytes 4 (at_.sub r.rate r.first) ++ leBytes 2 es.length ++ leBytes 2 (b2n bad + 2 * b2n ovr)

/-- Section 1: TRIGGERS. -/
def secTrig (r : CupRec) : List Byte :=
  r.trigs.flatMap (fun t => leBytes 1 t.idx ++ leBytes 1 t.ty ++ leBytes 1 t.role ++ leBytes 1 0 ++ t.det.bytes
    ++ leBytes 4 (match t.refined with | some d => ofSigned 32 d | none => 0x80000000) ++ leBytes 4 t.unit ++ leBytes 4 t.num)

/-- Section 3: RMS. -/
def secRms (r : CupRec) : List (List Byte) :=
  (spansOf PrEnt.half r.all false []).map (fun es => (List.range 8).flatMap (fun c => leBytes 4 (toB32 (rms64 es c))) ++ spanTail r es)

/-- Section 4: MINMAX. -/
def secMinmax (r : CupRec) : List (List Byte) :=
  (spansOf PrEnt.cyc r.rawUp false []).map (fun es =>
    (List.range 8).flatMap (fun c =>
      let xs := es.map (fun e => e.x.getD c 0)
      leBytes 4 (ofSigned 32 (minI (xs.headD 0) xs)) ++ leBytes 4 (ofSigned 32 (maxI (xs.headD 0) xs))) ++ spanTail r es)

/-- Section 5: PHASOR. -/
def secPhasor (r : CupRec) : List (List Byte) :=
  r.rawUp.filterMap (fun e => if e.cyc then e.ph.map (fun p =>
    p.v.flatMap (fun x => leBytes 4 (ofSigned 32 x)) ++ leBytes 4 p.f ++ leBytes 4 (e.at_.sub r.rate r.first) ++ leBytes 2 p.pv ++ leBytes 2 p.po ++ leBytes 4 0) else none)

/-- An entry's PR-ring bytes 0 to 47 (R344). -/
def PrEnt.head (e : PrEnt) : List Byte := e.x.flatMap (fun v => leBytes 4 (ofSigned 32 v)) ++ e.q.flatMap (fun v => leBytes 2 v)
/-- An entry's PR-ring bytes 48 to 63 (R344). -/
def PrEnt.digital (e : PrEnt) : List Byte := leBytes 8 e.word ++ leBytes 2 e.bins ++ leBytes 2 e.tv ++ leBytes 4 e.psi

/-- An IR or HR entry (R344): the S1 output, or the high-rate sample, with its quality. -/
def irEntry (w : SampleWord) : List Byte := leBytes 4 (ofSigned 32 (w.value / 256)) ++ leBytes 2 w.q.toNat ++ leBytes 2 0

/-- Sections 8 and 9: one block per captured channel. -/
def secWords (t : Tab (List SampleWord)) : List Byte := t.flatMap (fun p => p.2.reverse.flatMap irEntry)

/-- The skew that IR tags of a channel of a record carry, in 1/256 ns; HR tags carry none (R129, R133). -/
def CupRec.skew (r : CupRec) (hr : Bool) (c : Nat) : Int := if hr then 0 else toSigned 16 (field r.chans (32 * c + 14) 2)

/-- The nominal rate of IR or HR samples. -/
def wordRateOf (hr : Bool) : Nat := if hr then 4147200 else 1036800

/-- The first sample of IR or HR blocks by its nominal instant: low 32 bits of its seconds, then quarter-nanoseconds; and the count per channel. -/
def firstWord (r : CupRec) (hr : Bool) (t : Tab (List SampleWord)) : List Byte × Nat :=
  match t with
  | (c, ws) :: _ => match ws.getLast? with
    | some w => let q := rdivN (nomInst (wordRateOf hr) (r.skew hr c) w) (wordRateOf hr); (leBytes 4 (q / secQ) ++ leBytes 4 (q % secQ), ws.length)
    | none => (leBytes 8 0, 0)
  | [] => (leBytes 8 0, 0)

/-- The sections of a record: type, entry size, entry count, bytes. -/
def CupRec.sections (r : CupRec) : List (Nat × Nat × Nat × List Byte) :=
  let n := r.raw.length
  let rms := secRms r
  let mm := secMinmax r
  let ph := secPhasor r
  [(1, 32, r.trigs.length, secTrig r), (2, 256, if r.summary.isEmpty then 0 else 1, r.summary), (3, 40, rms.length, rms.flatten),
   (4, 72, mm.length, mm.flatten), (5, 128, ph.length, ph.flatten), (6, 16, n, r.rawUp.flatMap PrEnt.digital), (7, 48, n, r.rawUp.flatMap PrEnt.head),
   (8, 8, r.ir.foldl (fun a x => a + x.2.length) 0, secWords r.ir), (9, 8, r.hr.foldl (fun a x => a + x.2.length) 0, secWords r.hr)]

/-- The section table: offsets run on from the header. -/
def secTable : List (Nat × Nat × Nat × List Byte) → Nat → List Byte
  | [], _ => []
  | (ty, sz, n, bs) :: t, o => leBytes 2 ty ++ leBytes 2 sz ++ leBytes 4 o ++ leBytes 4 n ++ leBytes 4 (crc32 bs) ++ secTable t (o + bs.length)

/-- The number of instants from the first at or after T0 to the last post instant. -/
def CupRec.nPost (r : CupRec) : Nat := r.raw.length - r.nPre

/-- The record header (R367). -/
def recHeader (s : State) (r : CupRec) : List Byte :=
  let ir := firstWord r false r.ir
  let hr := firstWord r true r.hr
  let head := [0x43, 0x52, 0x45, 0x43] ++ leBytes 2 1 ++ leBytes 2 r.bay ++ leBytes 4 r.num ++ leBytes 4 s.otp.unitId ++ r.t0Att.bytes
    ++ (attOf (r.first.inst r.rate) r.t0q).bytes ++ r.detAtt.bytes ++ leBytes 4 r.flags ++ leBytes 1 (b2n (decide (r.rate = 4800))) ++ leBytes 1 r.mode
    ++ leBytes 1 r.t0i ++ leBytes 1 (capN 255 r.fired) ++ leBytes 4 r.nPre ++ leBytes 4 r.nPreReq ++ leBytes 4 r.nPost
    ++ (match r.ovr with | some (n, k) => leBytes 4 n ++ leBytes 4 k | none => leBytes 4 0xFFFFFFFF ++ leBytes 4 0)
    ++ leBytes 4 r.era ++ leBytes 4 (ofSigned 32 r.taiUtc) ++ leBytes 1 (b2n r.hz60) ++ leBytes 1 r.sg ++ leBytes 2 0
    ++ ir.1 ++ leBytes 4 ir.2 ++ hr.1 ++ leBytes 4 hr.2 ++ slice r.chans 0 256 ++ secTable r.sections 1024
  slice head 0 1024

/-- A native record (R367). -/
def nativeRec (s : State) (r : CupRec) : List Byte := recHeader s r ++ r.sections.flatMap (fun x => x.2.2.2)

/-! ### Primary values and the summary (R343, R368) -/

/-- N of a channel from the record's channel table: In in mA or Vn in mV. -/
def CupRec.nOf (r : CupRec) (c : Nat) : Nat := field r.chans (32 * c + 4) 4

/-- p(x): the primary value in binary64 (R343). -/
def CupRec.prim (r : CupRec) (c : Nat) (x : Int) : Nat :=
  fdiv b64 (fmul b64 (fmul b64 (fint b64 x) (fsqrt64 (fint b64 2))) (fint b64 (r.nOf c : Nat))) (fint b64 (1000 * 2 ^ 24))

/-- p_r(r): the primary RMS in binary64 (R343). -/
def CupRec.primRms (r : CupRec) (c x : Nat) : Nat := fdiv b64 (fmul b64 x (fint b64 (r.nOf c : Nat))) (fint b64 1000)

/-- The greater of two binary64 numbers. -/
def fmax64 (a b : Nat) : Nat := if flt b64 a b then b else a

/-- The half-cycles that end within the last whole cycle before T0 (R368). -/
def preFault (r : CupRec) : List (List PrEnt) :=
  let before := r.rawUp.filter (fun e => decide (e.at_.ns r.rate < r.t0))
  match (spansOf PrEnt.cyc before false []).getLast? with
  | none => []
  | some cyc => (spansOf PrEnt.half before false []).filter (fun h => match h.getLast? with | some e => cyc.contains e | none => false)

/-- The location of a bay for its summary: in m, and its source (R368). -/
def faultLoc (b : Bay) : Nat × Nat :=
  let find (ty : Nat) : Option Nat :=
    ((List.range 64).find? (fun i => b.els.any (fun e => decide (erSlot e = i) && decide (erType e = ty)) && bitOf (b.ctx.el i).out 11)).map (fun i =>
      (fround b32 (tget 0 (b.ctx.el i).p 7).toNat 0 (2 ^ 32)).toNat)
  match find 0x16 with
  | some m => (m, 1)
  | none => match find 0x15 with
    | some m => (m, 2)
    | none => (0xFFFFFFFF, 0)

/-- The pre-fault active power in binary64 W (R368). -/
def prePower (r : CupRec) : Nat :=
  if [0, 1, 2, 4, 5, 6].any (fun c => decide (field r.chans (32 * c) 1 = 0)) then 0
  else
    match ((r.rawUp.filter (fun e => e.cyc && decide (e.at_.ns r.rate < r.t0))).filterMap PrEnt.ph).getLast? with
    | none => 0
    | some p =>
      let re (c : Nat) : Nat := r.prim c (p.v.getD (2 * c) 0)
      let im (c : Nat) : Nat := r.prim c (p.v.getD (2 * c + 1) 0)
      let one (k : Nat) : Nat := fadd b64 (fmul b64 (re (4 + k)) (re k)) (fmul b64 (im (4 + k)) (im k))
      fdiv b64 (fadd b64 (fadd b64 (one 0) (one 1)) (one 2)) (fint b64 2)

/-- The DX-5 summary block (R368). -/
def summaryOf (s : State) (r : CupRec) : List Byte :=
  let up := r.rawUp
  let halves := spansOf PrEnt.half up false []
  let peak (c : Nat) : Nat := (halves.map (fun h => r.primRms c (rms64 h c))).foldl fmax64 0
  let pre := preFault r
  let mean (c : Nat) : Nat :=
    if pre.isEmpty then 0
    else fdiv b64 ((pre.map (fun h => r.primRms c (rms64 h c))).foldl (fadd b64) 0) (fint b64 (pre.length : Nat))
  let after := up.filter (fun e => r.det.le e.at_ && decide (e.at_ ≠ r.det))
  let clear := after.find? (fun e => !bitOf e.word 8)
  let picked := up.any (fun e => r.det.le e.at_ && bitOf e.word 8)
  let us (e : PrEnt) : Nat := rdivN (e.at_.ns r.rate - r.t0) 1000
  let dur := if picked then (match clear with | some e => us e | none => 0xFFFFFFFF) else 0
  let span := up.filter (fun e => decide (r.t0 ≤ e.at_.ns r.rate) && (match clear with | some z => !z.at_.le e.at_ | none => true))
  let i2t (c : Nat) : Nat := fdiv b64 ((span.map (fun e => let p := r.prim c (e.x.getD c 0); fmul b64 p p)).foldl (fadd b64) 0) (fint b64 (r.rate : Nat))
  let seen (es : List PrEnt) (bits : List Nat) : Nat := bitsFrom 0 (bits.map (fun i => es.any (fun e => bitOf e.word i)))
  let trip := match up.find? (fun e => decide (r.t0 ≤ e.at_.ns r.rate) && decide (e.word % 16 ≠ 0)) with | some e => us e | none => 0xFFFFFFFF
  let loc := match bay? s r.bay with | some b => faultLoc b | none => (0xFFFFFFFF, 0)
  slice (leBytes 2 0x0105 ++ leBytes 2 r.bay ++ leBytes 4 r.num ++ r.t0Att.bytes ++ (List.range 8).flatMap (fun c => leBytes 4 (toB32 (peak c)))
    ++ (List.range 8).flatMap (fun c => leBytes 4 (toB32 (mean c))) ++ leBytes 4 dur ++ (List.range 4).flatMap (fun c => leBytes 4 (toB32 (i2t c)))
    ++ leBytes 1 (seen span [9, 10, 11, 12]) ++ leBytes 1 (seen up [0, 1, 2, 3, 14]) ++ leBytes 2 0 ++ leBytes 4 trip ++ leBytes 4 (toB32 (prePower r))
    ++ leBytes 4 loc.1 ++ leBytes 1 loc.2) 0 256

/-- An index entry (R365). -/
def indexEntry (s : State) (r : CupRec) : List Byte :=
  if r.st = .lost then patch (slice r.entry 0 64) 6 [5]
  else
    leBytes 4 r.num ++ leBytes 2 r.bay ++ leBytes 1 r.st.code ++ leBytes 1 r.t0i ++ r.t0Att.bytes ++ leBytes 4 r.flags ++ leBytes 4 r.units ++ leBytes 4 r.fired
      ++ leBytes 4 r.nPre ++ leBytes 4 r.nPost ++ leBytes 4 s.otp.unitId ++ leBytes 16 0

/-! ### COMTRADE (R369 to R372) -/

/-- The civil date of a day counted from 1970-01-01: year, month, day. -/
def civil (z0 : Nat) : Nat × Nat × Nat :=
  let z := z0 + 719468
  let era := z / 146097
  let doe := z % 146097
  let yoe := (doe - doe / 1460 + doe / 36524 - doe / 146096) / 365
  let doy := doe - (365 * yoe + yoe / 4 - yoe / 100)
  let mp := (5 * doy + 2) / 153
  let d := doy - (153 * mp + 2) / 5 + 1
  let m := if mp < 10 then mp + 3 else mp - 9
  (yoe + era * 400 + (if m ≤ 2 then 1 else 0), m, d)

/-- Date and time of a UTC count of µs since 1970. -/
def stamp (us : Nat) : List (List Byte) :=
  let sec := us / 1000000
  let (y, m, d) := civil (sec / 86400)
  let t := sec % 86400
  [decW 2 d ++ txt "/" ++ decW 2 m ++ txt "/" ++ decW 4 y,
   decW 2 (t / 3600) ++ txt ":" ++ decW 2 (t / 60 % 60) ++ txt ":" ++ decW 2 (t % 60) ++ txt "." ++ decW 6 (us % 1000000)]

/-- A TAI time as µs of UTC: seconds, and a fraction of a second. -/
def utcUs (r : CupRec) (sec num den : Nat) : Nat := (((sec : Int) - r.taiUtc) * 1000000 + (rdivN (num * 1000000) den : Nat)).toNat

/-- The names of the eight channels. -/
def chanNames : List String := ["IA", "IB", "IC", "IN", "VA", "VB", "VC", "VX"]
/-- The phase letters of the eight channels. -/
def chanPhases : List String := ["A", "B", "C", "N", "A", "B", "C", "X"]
/-- The names of the bits of the bay output word (R298). -/
def wordNames : List String :=
  ["TRIP_A", "TRIP_B", "TRIP_C", "TRIP_3P", "CLOSE", "RECLOSE", "BLOCK", "ALARM", "PICKUP", "PICKUP_A", "PICKUP_B", "PICKUP_C", "PICKUP_N",
   "BF_RETRIP", "BF_TRIP", "LOCKOUT"]
/-- The names of bits 48 to 63. -/
def highNames : List String :=
  ["W48", "TEST", "Q_INVALID", "Q_SUBST", "UNSUPERVISED", "DEBUG", "SAFE_FORCED", "SET_ERR", "GROUP0", "GROUP1", "GROUP2", "W59", "W60", "W61", "W62", "W63"]

/-- The name of a channel of a record. -/
def chanName (recd : List Byte) (c : Nat) : List Byte :=
  let n := trimNul (slice recd (384 + 16 * c) 16)
  if n.isEmpty then txt (chanNames.getD c "") else n

/-- The mapped channels of a record, from its channel table. -/
def CupRec.mapped (r : CupRec) : List Nat := (List.range 8).filter (fun c => decide (field r.chans (32 * c) 1 ≠ 0))

/-- A set of a record: analogue channels, rate, samples as their instant in units of 1/`den` s, values in binary64 and digital bits. -/
structure CmSet where
  chs : List Nat
  rate : Nat
  den : Nat
  scale : Nat
  rows : List (Nat × List Nat × Nat)

/-- The PR set (R371). -/
def prSet (r : CupRec) : CmSet :=
  let chs := r.mapped
  { chs := chs, rate := r.rate, den := r.rate, scale := 10,
    rows := r.rawUp.map (fun e => (e.at_.sec * r.rate + e.at_.k, chs.map (fun c => r.prim c (e.x.getD c 0)),
      e.word + e.bins * 2 ^ 64 + maskOf 8 (fun c => qUsable (e.q.getD c 0)) * 2 ^ 80)) }

/-- An IR or HR set (R371). -/
def wordSet (r : CupRec) (hr : Bool) (t : Tab (List SampleWord)) : CmSet :=
  let rate := wordRateOf hr
  let chs := t.map Prod.fst
  let cols := t.map (fun p => p.2.reverse)
  let n := (cols.headD []).length
  let val (c : Nat) (w : SampleWord) : Nat :=
    r.prim c (rdivI (w.value * toSigned 32 (field r.chans (32 * c + 8) 4)) (2 ^ field r.chans (32 * c + 12) 1))
  { chs := chs, rate := rate, den := rate * secQ, scale := 1,
    rows := (List.range n).filterMap (fun i =>
      match (cols.headD [])[i]? with
      | some w0 => some (nomInst rate (r.skew hr (chs.headD 0)) w0, (chs.zip cols).map (fun (c, ws) => match ws[i]? with | some w => val c w | none => 0), 0)
      | none => none) }

/-- The sets a record holds, of those a mask asks for: number, set. -/
def recSets (r : CupRec) (mask : Nat) : List (Nat × CmSet) :=
  (if bitOf mask 0 && !r.raw.isEmpty then [(0, prSet r)] else []) ++ (if bitOf mask 1 && !r.ir.isEmpty then [(1, wordSet r false r.ir)] else [])
    ++ (if bitOf mask 2 && !r.hr.isEmpty then [(2, wordSet r true r.hr)] else [])

/-- The time-quality code of the .cfg (R370). -/
def tmqCode (r : CupRec) : List Byte :=
  let lock := bitsOf r.t0q.toNat 2 0
  let err := bitsOf r.t0q.toNat 13 6
  if lock = 2 then txt "0"
  else if lock = 0 ∨ lock = 1 ∨ err = 0xFF then txt "F"
  else match (List.range 11).find? (fun c => decide (2 ^ err ≤ 10 ^ c)) with
    | some c => hexW 1 (c + 1)
    | none => txt "F"

/-- "BAY" and the bay number. -/
def bayText (r : CupRec) : List Byte := txt "BAY" ++ dec r.bay

/-- The ordering code. -/
def partText (s : State) : List Byte := if s.dev.part7264 then txt "DX-7264-E1" else txt "DX-7296-E1"

/-- A value in binary64 as the .dat gives it, in binary32 (R370, R371). -/
def asDat (x : Nat) : Nat :=
  match fpDec b32 (toB32 x) with
  | .fin m e => let (n, d) := fracOf m e; fpEnc b64 n d
  | .inf neg => b64.infBits neg
  | .nan => b64.nanBits

/-- The .cfg of a set (R370). -/
def cfgFile (s : State) (recd : List Byte) (r : CupRec) (x : CmSet) (set : Nat) : List Byte :=
  let st := trimNul (slice recd 96 32)
  let dev := (if s.dev.part7264 then txt "DX7264-" else txt "DX7296-") ++ hexW 5 s.otp.unitId
  let nd := if set = 0 then 88 else 0
  let ratio (c o : Nat) : List Byte := let v := field recd (32 + 8 * c + o) 4; Config.realText (if v = 0 then fint b64 1 else frat b64 (v : Nat) 1000)
  let col (i : Nat) : List Nat := x.rows.map (fun y => asDat (y.2.1.getD i 0))
  let lo (i : Nat) : Nat := (col i).foldl (fun a v => if flt b64 v a then v else a) ((col i).headD 0)
  let hi (i : Nat) : Nat := (col i).foldl fmax64 ((col i).headD 0)
  let skew (c : Nat) : List Byte := if set = 1 then Config.realText (frat b64 (toSigned 16 (field r.chans (32 * c + 14) 2)) 256000) else txt "0"
  let analog := (enumFrom0 x.chs).flatMap (fun (i, c) =>
    csv [dec (i + 1), chanName recd c, txt (chanPhases.getD c ""), bayText r, if c < 4 then txt "A" else txt "V", txt "1", txt "0", skew c,
         Config.realText (lo i), Config.realText (hi i), ratio c 0, ratio c 4, txt "P"])
  let names := wordNames.map txt ++ (List.range 32).map (fun i => txt "USER" ++ dec i) ++ highNames.map txt ++ (List.range 16).map (fun i => txt "BIN" ++ dec i)
    ++ (List.range 8).map (fun c => txt "Q_" ++ chanName recd c)
  let digital := if set = 0 then (enumFrom0 names).flatMap (fun (i, n) => csv [dec (i + 1), n, [], bayText r, txt "0"]) else []
  let i0 := (x.rows.head?.map Prod.fst).getD 0
  csv [if st.isEmpty then bayText r else st, dev, txt "2013"]
    ++ csv [dec (x.chs.length + nd), dec x.chs.length ++ txt "A", dec nd ++ txt "D"] ++ analog ++ digital
    ++ csv [if r.hz60 then txt "60" else txt "50"] ++ csv [txt "1"] ++ csv [dec x.rate, dec x.rows.length]
    ++ csv (stamp (utcUs r (i0 / x.den) (i0 % x.den) x.den)) ++ csv (stamp (utcUs r (r.t0 / nsSec) (r.t0 % nsSec) nsSec))
    ++ csv [txt "BINARY32"] ++ csv [if set = 0 then txt "0.01" else txt "0.001"] ++ csv [txt "0", txt "0"] ++ csv [tmqCode r, dec r.leap]

/-- The .dat of a set (R371). -/
def datFile (x : CmSet) (set : Nat) : List Byte :=
  let i0 := (x.rows.head?.map Prod.fst).getD 0
  (enumFrom0 x.rows).flatMap (fun (i, idx, vs, dg) =>
    leBytes 4 (i + 1) ++ leBytes 4 (rdivN ((idx - i0) * (nsSec / x.scale)) x.den) ++ vs.flatMap (fun v => leBytes 4 (toB32 v))
      ++ (if set = 0 then leBytes 12 dg else []))

/-- The .hdr, the same in every set (R372). -/
def hdrFile (s : State) (r : CupRec) : List Byte :=
  let kv (k : String) (v : List Byte) : List Byte := txt k ++ txt "=" ++ v ++ [0x0D, 0x0A]
  let att (a : Att) : List Byte := dec a.sec ++ txt "," ++ dec a.ns ++ txt "," ++ dec a.frac
  kv "UNIT" (hexW 5 s.otp.unitId) ++ kv "RECORD" (dec r.num) ++ kv "BAY" (dec r.bay) ++ kv "PART" (partText s)
    ++ kv "T0" (att r.t0Att ++ txt "," ++ hexW 4 r.t0q.toNat) ++ kv "FIRST" (att (attOf (r.first.inst r.rate) r.t0q))
    ++ kv "ERA" (dec r.era) ++ kv "TAI_UTC" (decI r.taiUtc) ++ kv "PR" (dec (b2n (decide (r.rate = 4800))))
    ++ kv "N_PRE" (dec r.nPre) ++ kv "N_PRE_REQ" (dec r.nPreReq) ++ kv "N_POST" (dec r.nPost)
    ++ kv "FLAGS" (hexW 8 r.flags) ++ kv "MODE" (dec r.mode) ++ kv "MASTER" (dec (r.flags / fMASTER % 2))
    ++ kv "OVERLAP" (match r.ovr with | some (n, k) => dec n ++ txt "," ++ dec k | none => txt "NONE")
    ++ r.trigs.flatMap (fun t => kv "TRIG" (dec t.idx ++ txt "," ++ dec t.ty ++ txt "," ++ dec t.role ++ txt "," ++ att t.det))

/-- A file of the stream with its header and padding (R369). -/
def cmFile (s : State) (r : CupRec) (set kind : Nat) (body : List Byte) : List Byte :=
  let name := txt "DX" ++ hexW 5 s.otp.unitId ++ txt "_" ++ hexW 8 r.num ++ txt "_" ++ txt (["PR", "IR", "HR"].getD set "") ++ txt "."
    ++ txt (["", "cfg", "dat", "hdr"].getD kind "")
  let head := [0x43, 0x46, 0x49, 0x4C] ++ leBytes 4 body.length ++ leBytes 1 kind ++ leBytes 1 set ++ leBytes 2 0 ++ leBytes 4 (crc32 body) ++ slice name 0 48
  head ++ body ++ List.replicate ((64 - body.length % 64) % 64) 0

/-- The files of the COMTRADE stream (R369): set, kind, the file as written. -/
def cmFiles (s : State) (r : CupRec) (mask : Nat) : List (Nat × Nat × List Byte) :=
  let recd := match cupBay? s r.bay with | some b => b.recd | none => []
  (recSets r mask).flatMap (fun (n, x) =>
    [(n, 1, cmFile s r n 1 (cfgFile s recd r x n)), (n, 2, cmFile s r n 2 (datFile x n)), (n, 3, cmFile s r n 3 (hdrFile s r))])

/-! ### The output of a fetch (R374) and of HIST_SNAPSHOT (R379) -/

/-- The whole output of a fetch. -/
def fetchOut (s : State) (num kind sets : Nat) : List Byte :=
  if kind = 3 then (s.cup.recs.filter (fun r => decide (num = 0xFFFFFFFF) || decide (r.num = num))).flatMap (indexEntry s)
  else
    match rec? s num with
    | none => []
    | some r => match kind with
      | 0 => nativeRec s r
      | 1 => (cmFiles s r sets).flatMap (fun x => x.2.2)
      | _ => r.summary

/-- The snapshot of a bay's statistics: header and the masked parts it keeps (R379). -/
def histOut (n mask : Nat) (cb : CupBay) : List Byte :=
  let fl := field cb.recd 3 1
  let keep := maskOf 3 (fun i => bitOf mask i && bitOf fl (2 + i))
  let ev := if bitOf keep 0 then (List.range 192).flatMap (fun i => leBytes 4 (tget 0 cb.ev i)) else []
  let ha := if bitOf keep 1 then (List.range 1440).flatMap (fun i => leBytes 4 (tget 0 cb.harm i)) else []
  let pm := if bitOf keep 2 then (List.range 32768).flatMap (fun i => leBytes 2 (tget 0 cb.pm i)) else []
  let body := ev ++ ha ++ pm
  slice (leBytes 2 n ++ leBytes 1 keep ++ leBytes 1 0 ++ leBytes 4 (64 + body.length) ++ cb.clrAtt.bytes ++ cb.lastAtt.bytes) 0 64 ++ body

end Sys2Proof.Machine
end

