-- ==== Sys2Proof/Machine/CfgOps.lean ====
section
/-! DEFINITION. Groups, spares, migration, rotation and memory health (R183 to R199, R418, R437, R438). -/

namespace Sys2Proof.Machine

/-! ### Groups -/

/-- Group `g`. -/
def grp (s : State) (g : Nat) : Grp := tget Grp.blank s.cfg.grps g

/-- Group `g` replaced. -/
def setGrp (s : State) (g : Nat) (x : Grp) : State := { s with cfg := { s.cfg with grps := tset s.cfg.grps g x } }

/-- Group `g` changed. -/
def modGrp (s : State) (g : Nat) (f : Grp → Grp) : State := setGrp s g (f (grp s g))

/-- The bay that a group hosts. -/
def hostOf (s : State) (g : Nat) : Option Nat := (s.bays.find? (fun p => decide (p.2.grp = g))).map Prod.fst

/-- The positions of a configured form: 0 TMR, 1 DMR, 2 simplex (R418). -/
def formMask (form : Nat) : Nat := match form with | 0 => 7 | 1 => 3 | _ => 1

/-- The global cell of a position (R10, R418). -/
def cellOf (g p : Nat) : Nat := 3 * g + p

/-- Whether the cell of a position is marked in CFG_CELL_FAIL (R199). -/
def posFailed (s : State) (g p : Nat) : Bool := s.cfg.cellFail.contains (cellOf g p)

/-- The positions of a group that are copies: those of its form and those joined, but for positions that are lost, out for a structural fault, resynchronising or failed (R418, R432, R433, R199). -/
def copyMask (s : State) (g : Nat) : Nat :=
  match (hostOf s g).bind (bay? s) with
  | some b =>
    let x := grp s g
    maskOf 3 (fun p => (bitOf (formMask b.form) p || bitOf x.extra p) && !bitOf x.lost p && !bitOf x.fixed p && !bitOf x.resync p && !bitOf x.again p
      && !posFailed s g p)
  | none => 0

/-- The copies in ascending position (R419). -/
def copiesOf (s : State) (g : Nat) : List Nat := setBits 3 (copyMask s g)

/-- The form that a number of copies makes: 0 TMR, 1 DMR, 2 simplex. -/
def formOf (n : Nat) : Nat := if 3 ≤ n then 0 else if n = 2 then 1 else 2

/-- The memory health of a cluster. -/
def clu (s : State) (c : Nat) : Clu := tget ⟨[], false, []⟩ s.cfg.clus c

/-- The memory health of a cluster changed. -/
def modClu (s : State) (c : Nat) (f : Clu → Clu) : State := { s with cfg := { s.cfg with clus := tset s.cfg.clus c (f (clu s c)) } }

/-- Whether the rotation test of R198 runs on a group. -/
def underTest (s : State) (g : Nat) : Bool := match s.cfg.rot with | some r => r.testing && decide (r.grp = g) | none => false

/-- Whether a group takes part in the rotation at all: not quarantined, not withdrawn, with three working cells (R197). -/
def inRotation (s : State) (g : Nat) : Bool :=
  decide (g < nGroups s) && !(clu s (g / 4)).quar && !(grp s g).withdrawn && !(grp s g).broken && (List.range 3).all (fun p => !posFailed s g p)

/-- Whether a group is spare (R193, R437, R442): in the rotation, hosting no bay, no cell attached for debug, no test after a fault migration due. -/
def isSpare (s : State) (g : Nat) : Bool :=
  inRotation s g && (hostOf s g).isNone && (grp s g).dbg.isNone && !(grp s g).faultTest

/-- The spare groups in ascending number. -/
def spares (s : State) : List Nat := (List.range (nGroups s)).filter (fun g => isSpare s g)

/-- CFG_SPAREi, CFG_STAT.spares and spares_low brought up to date; SPARES_LOW and its degraded cause on entry (R193). -/
def showSpares (s : State) : State :=
  if s.dev.mode = .boot then s
  else
    let l := spares s
    let s1 := (List.range 5).foldl (fun st i => regSet st (R.cfgSpare i) (maskOf 32 (fun j => l.contains (32 * i + j)))) s
    let low := decide (l.length < 2)
    let was := flag s1 R.cfgStat 23
    let s2 := flagSet (fldSet s1 R.cfgStat 31 24 l.length) R.cfgStat 23 low
    setCause (if low && !was then raise 0x0704 s2 (items := [(1, l.length)]) else s2) 0 low

/-- CFG_BAY_GRPn of a bay, CFG_MIG_STAT untouched (R210). -/
def showBay (s : State) (n : Nat) : State :=
  match bay? s n with
  | some b =>
    let mig := s.cfg.migs.any (fun m => decide (m.bay = n) && decide (m.step ≠ .waiting))
    regSet s (R.cfgBayGrp n) (b2n b.runs * 2 ^ 31 + b.form * 2 ^ 29 + b2n mig * 2 ^ 28 + b.ctx.sg % 8 * 2 ^ 16 + b.grp)
  | none => regSet s (R.cfgBayGrp n) 0xFF

/-- BAY_STAT.running and targets, and BAY_TGTi (R318). -/
def showRunning (s : State) : State :=
  let s1 := fldSet s R.bayStat 31 24 (s.bays.filter (fun p => p.2.runs)).length
  let tg := (s.bays.filter (fun p => decide (p.2.ctx.tgt.bits ≠ 0))).map Prod.fst
  let s2 := (List.range 4).foldl (fun st i => regSet st (R.bayTgt i) (maskOf 32 (fun j => tg.contains (32 * i + j)))) s1
  fldSet s2 R.bayStat 23 16 tg.length

/-- LKS_UNSUPi, LKS_DEBUGi and the counts of LKS_STAT (R447). -/
def showLks (s : State) : State :=
  let gs := List.range (nGroups s)
  let un := gs.filter (fun g => (grp s g).unsup)
  let db := gs.filter (fun g => (grp s g).debug)
  let red := s.bays.filter (fun p => decide (formOf (copiesOf s p.2.grp).length ≠ p.2.form) && decide ((copiesOf s p.2.grp).length < (setBits 3 (formMask p.2.form)).length))
  let s1 := (List.range 5).foldl (fun st i =>
    regSet (regSet st (R.lksUnsup i) (maskOf 32 (fun j => un.contains (32 * i + j)))) (R.lksDebug i) (maskOf 32 (fun j => db.contains (32 * i + j)))) s
  fldSet (fldSet s1 R.lksStat 31 24 un.length) R.lksStat 23 16 red.length

/-! ### Migration (R194 to R196, R437, R438) -/

/-- The coding of a migration's cause in CFG_MIG_STAT. -/
def MigCause.code : MigCause → Nat
  | .command => 0 | .rotation => 1 | .fault => 2 | .quarantine => 3

/-- The migration in step 1 to 4. -/
def migRun? (s : State) : Option Mig := s.cfg.migs.find? (fun m => decide (m.step ≠ .waiting))

/-- The migration of a bay. -/
def migOf? (s : State) (n : Nat) : Option Mig := s.cfg.migs.find? (fun m => decide (m.bay = n))

/-- The migration of a bay changed. -/
def modMig (s : State) (n : Nat) (f : Mig → Mig) : State :=
  { s with cfg := { s.cfg with migs := s.cfg.migs.map (fun m => if m.bay = n then f m else m) } }

/-- CFG_MIG_STAT of a migration in a state, and CFG_STAT.mig_busy. -/
def showMig (s : State) (m : Mig) (src st : Nat) : State :=
  flagSet (regSet s R.cfgMigStat (st * 2 ^ 30 + m.cause.code * 2 ^ 28 + m.bay * 2 ^ 20 + src * 2 ^ 12 + (m.dst.getD 0) * 16)) R.cfgStat 21 (decide (st = 1) || decide (st = 2))

/-- LKS_STAT.no_spare stands while a fault migration waits for a spare (R438). -/
def showNoSpare (s : State) : State :=
  flagSet s R.lksStat 3 (s.cfg.migs.any (fun m => decide (m.cause = .fault) && decide (m.step = .waiting) && m.told))

/-- The order in which waiting migrations start (R195). -/
def Mig.rank (m : Mig) : Nat := match m.cause with | .fault => m.bay | .quarantine => m.bay | .command => 1000 | .rotation => 1001

/-- The waiting migration that starts first. -/
def firstMig (s : State) : Option Mig :=
  (s.cfg.migs.filter (fun m => decide (m.step = .waiting))).foldl (fun b m => match b with | none => some m | some x => if m.rank < x.rank then some m else b) none

/-- Whether a group is the destination of a running migration. -/
def isDest (s : State) (g : Nat) : Bool := s.cfg.migs.any (fun m => decide (m.step ≠ .waiting) && decide (m.dst = some g))

/-- The rotation test of a group stopped; the group's test is scheduled again (R195). -/
def stopTest (s : State) (g : Nat) : State :=
  if underTest s g then
    { flagSet (fldSet s R.cfgRotStat 31 24 0xFF) R.cfgStat 20 false with cfg := { s.cfg with rot := none, rotAgain := s.cfg.rotAgain.or (some g) } }
  else s

/-- The spare group whose last logic self-test is oldest, of those not under test (R195). -/
def oldestSpare (s : State) : Option Nat :=
  let age (g : Nat) : Nat := match (grp s g).tested with | some t => t + 1 | none => 0
  ((spares s).filter (fun g => !underTest s g)).foldl (fun b g => match b with | none => some g | some x => if age g < age x then some g else b) none

/-- The destination that a migration takes now (R195, R196). -/
def destOf (s : State) (m : Mig) : Option Nat :=
  let free := (spares s).filter (fun g => !underTest s g)
  match m.cause with
  | .fault => free.head?.or (spares s).head?
  | .quarantine => free.head?.or (spares s).head?
  | .command => (match m.dst with | some d => if free.contains d then some d else none | none => free.head?)
  | .rotation => oldestSpare s

/-- The migration of a bay ended: a fault or quarantine migration that waited for its end takes its place while its cause persists; a fault is left behind with the group, a quarantine unless the bay's new group is in one too (R186, R207). -/
def endMig (s : State) (n : Nat) (moved : Bool) : State :=
  let still (m : Mig) : Bool :=
    decide (m.bay = n) && (!moved || (decide (m.cause = .quarantine) && ((bay? s n).map (fun b => (clu s (b.grp / 4)).quar)).getD false))
  { s with cfg := { s.cfg with
      migs := s.cfg.migs.filter (fun x => decide (x.bay ≠ n)) ++ (s.cfg.after.filter still).take 1, after := s.cfg.after.filter (fun m => decide (m.bay ≠ n)) } }

/-- A migration dropped: a waiting command completes with ABORTED (R195, R207). -/
def dropMig (s : State) (m : Mig) : State :=
  let s1 := endMig s m.bay false
  let s2 := if m.step = .waiting then s1 else showMig s1 m (((bay? s m.bay).map Bay.grp).getD 0xFF) 0
  let s3 := match m.cid with | some c => complete s2 c stAborted Att.zero | none => s2
  showNoSpare (showBay (if m.cause = .rotation then { s3 with cfg := { s3.cfg with rot := none } } else s3) m.bay)

/-- Every migration of a bay dropped (R195, R207). -/
def cancelMigs (s : State) (n : Nat) : State :=
  let s1 := { s with cfg := { s.cfg with after := s.cfg.after.filter (fun m => decide (m.bay ≠ n)) } }
  match migOf? s1 n with | some m => dropMig s1 m | none => s1

/-- The next migration started when none runs (R195). A fault migration without a spare group stays, with FAULT_NO_SPARE (R438). -/
def startMig (s : State) : State :=
  if (migRun? s).isSome || decide (s.dev.mode = .boot) || isDying s then s
  else
    match firstMig s with
    | none => s
    | some m =>
      match bay? s m.bay with
      | none => dropMig s m
      | some b =>
        match destOf s m with
        | some d =>
          let s1 := stopTest s d
          let s2 := modMig { s1 with cfg := { s1.cfg with preAt := s1.dev.ticks } } m.bay (fun x => { x with step := .precopy, dst := some d })
          showNoSpare (showBay (showMig s2 { m with dst := some d } b.grp 1) m.bay)
        | none =>
          match m.cause with
          | .fault =>
            if m.told then s
            else showNoSpare (raise 0x0808 (modMig s m.bay (fun x => { x with told := true })) (bay := m.bay) (idx := b.grp) (items := [(1, m.why)]))
          | .command => if (m.dst.map (fun d => isSpare s d)).getD !(spares s).isEmpty then s
            else match m.cid with
              | some c => complete (endMig s m.bay false) c stNoResource Att.zero
              | none => s
          | _ => s

/-- A migration asked for, unless the bay has one pending already. A fault or quarantine takes the place of a rotation or command that still waits, and follows one that runs. -/
def askMig (s : State) (m : Mig) : State :=
  match migOf? s m.bay with
  | some x =>
    if x.step = .waiting ∧ (m.cause = .fault ∨ m.cause = .quarantine) ∧ (x.cause = .command ∨ x.cause = .rotation) then
      let s1 := dropMig s x
      { s1 with cfg := { s1.cfg with migs := s1.cfg.migs ++ [m] } }
    else if (m.cause = .fault ∨ m.cause = .quarantine) ∧ m.cause ≠ x.cause ∧ s.cfg.after.all (fun y => decide (y.bay ≠ m.bay)) then
      { s with cfg := { s.cfg with after := s.cfg.after ++ [m] } }
    else s
  | none => { s with cfg := { s.cfg with migs := s.cfg.migs ++ [m] } }

/-- Whether the bay is at a boundary (R194 step 2): stopped, or no sealed instant waits, no task runs, and no mapped channel holds a sample covering the next instant. -/
def atBoundary (s : State) (n : Nat) (b : Bay) : Bool :=
  !b.runs || (b.slot.queue.isEmpty && (tget? s.cfg.tasks n).isNone &&
    (mappedOf b.recd).all (fun c => (b.slot.cover? c (b.slot.next.q b.rate)).isNone))

/-- A migration that waits for a boundary takes it: staging is held and the copy begins (R194 step 3). -/
def takeBoundary (s : State) (n : Nat) : State :=
  match migOf? s n, bay? s n with
  | some m, some b =>
    if m.step = .boundary ∧ atBoundary s n b then showMig (modMig s n (fun x => { x with step := .copy })) m b.grp 2 else s
  | _, _ => s

/-- The state of a group that a bay has left (R418, R437, R443, R444): what was reduced does not travel; an attached cell stays; a resynchronisation goes on. -/
def Grp.vacate (x : Grp) (fault : Bool) (now : Ticks) : Grp :=
  let v := if fault then now :: x.vacated.filter (fun t => decide (now < t + 24 * 3600 * secT)) else x.vacated
  { x with lost := (match x.dbg with | some p => 2 ^ p | none => 0), extra := 0, again := 0, fresh := 0, fixed := 0, obs := none, obsDiff := false, debug := x.dbg.isSome,
           unsup := false, form := none, vacated := v, withdrawn := x.withdrawn || decide (2 ≤ v.length), faultTest := x.faultTest || fault }

/-- A bay leaves a group: a split or join pending there completes with ABORTED (R440), and what was reduced stays behind. -/
def leaveGroup (s : State) (g : Nat) (fault : Bool) : State :=
  let s0 := match (grp s g).form with | some f => complete s f.cid stAborted Att.zero | none => s
  modGrp s0 g (fun x => x.vacate fault s.dev.ticks)

/-- Steps 3 and 4 end (R194): staging points to the destination. -/
def redirect (s : State) (m : Mig) (b : Bay) : State :=
  let src := b.grp
  let d := m.dst.getD src
  let fault := decide (m.cause = .fault)
  let s1 := setBay (leaveGroup s src fault) m.bay { b with grp := d }
  let s2 := endMig s1 m.bay true
  let due := if b.runs then (match b.slot.queue.head? with | some z => z.at_.att s b.rate | none => b.slot.next.att s b.rate) else attNow s
  let s3 := raise 0x0701 s2 (bay := m.bay) (idx := src) (items := [(2, d), (1, m.cause.code)]) (att := some due)
  let s4 := if b.slot.queue.isEmpty then s3 else raise 0x0702 (bump s3 R.cfgMigLate) (bay := m.bay) (att := some due)
  let s5 := match m.cid with | some c => complete s4 c stOk due (leBytes 2 d) | none => s4
  let s6 := match m.cause with
    | .rotation =>
      { flagSet (fldSet s5 R.cfgRotStat 31 24 src) R.cfgStat 20 true with cfg := { s5.cfg with rot := s5.cfg.rot.map (fun r => { r with testing := true }) } }
    | _ => s5
  showSpares (showNoSpare (showLks (showBay (showMig s6 m src 3) m.bay)))

/-! ### Rotation (R197 to R199, R431) -/

/-- One step counted as passed over. -/
def rotSkip (s : State) : State := bumpFld s R.cfgRotStat 15 8

/-- Whether a resynchronisation is pending on a group (R444). -/
def resyncPend (s : State) (g : Nat) : Bool := decide ((grp s g).resync ≠ 0) || decide ((grp s g).again ≠ 0)

/-- A group that the rotation passes over without a test: a detached or observing position, a migration of its bay pending, the destination of a running migration, or a group that neither hosts a bay nor is spare (R198, R441). -/
def rotPasses (s : State) (g : Nat) : Bool :=
  match hostOf s g with
  | some n => decide ((grp s g).lost ≠ 0) || (migOf? s n).isSome
  | none => !isSpare s g || isDest s g

/-- The group of the next regular step from `g` on, with the groups passed over for a pending resynchronisation counted (R197, R441, R444). -/
def rotPick : Nat → State → Nat → State × Option Nat
  | 0, s, _ => (s, none)
  | n + 1, s, g =>
    let nx := (g + 1) % nGroups s
    if !inRotation s g then rotPick n s nx
    else if resyncPend s g then rotPick n (rotSkip s) nx
    else if rotPasses s g then rotPick n s nx
    else (s, some g)

/-- A step started on a group: its bay migrates first, or the self-test begins (R198). Passed over when the group hosts a bay and no group is spare. -/
def rotStart (s : State) (o : RotOrigin) (g : Nat) : State :=
  match hostOf s g with
  | some n =>
    if (oldestSpare s).isNone then rotSkip s
    else
      let s1 := { s with cfg := { s.cfg with rot := some ⟨g, o, false⟩, migs := s.cfg.migs ++ [⟨n, .rotation, none, .waiting, none, 0, false⟩] } }
      startMig s1
  | none => { flagSet (fldSet s R.cfgRotStat 31 24 g) R.cfgStat 20 true with cfg := { s.cfg with rot := some ⟨g, o, true⟩ } }

/-- A regular step or one of rot_now: the next group in order (R197). -/
def rotNextStep (s : State) (o : RotOrigin) : State :=
  match rotPick (nGroups s) s (fld s R.cfgRotStat 23 16) with
  | (s1, some g) => rotStart (fldSet s1 R.cfgRotStat 23 16 ((g + 1) % nGroups s)) o g
  | (s1, none) => s1

/-- An extra step on a group, which waits for a spare group and for a pending resynchronisation (R431, R444); `s1` is `s` with the step taken. -/
def rotExtra (s s1 : State) (g : Nat) : State :=
  if !inRotation s g then s1
  else if resyncPend s g || (match hostOf s g with | some n => (migOf? s n).isSome | none => !isSpare s g || isDest s g) || (oldestSpare s).isNone then s
  else rotStart s1 .latent g

/-- A waiting step started when none runs: one of rot_now, then a regular one, then an extra one after a LATENT mismatch, then a test that a migration stopped (R195, R197, R431). -/
def tryRot (s : State) : State :=
  if s.cfg.rot.isSome || s.pwr.throttle || isDying s then s
  else if s.cfg.rotNow then rotNextStep { s with cfg := { s.cfg with rotNow := false } } .now
  else if s.cfg.rotReg then rotNextStep { s with cfg := { s.cfg with rotReg := false } } .regular
  else
    match s.cfg.rotLat with
    | some g => rotExtra s { s with cfg := { s.cfg with rotLat := none } } g
    | none =>
      match s.cfg.rotAgain with
      | some g => rotExtra s { s with cfg := { s.cfg with rotAgain := none } } g
      | none => s

/-- Migrations and rotation steps that can start do. -/
def cfgKick (s : State) : State := tryRot (startMig s)

/-- A cell that failed its logic self-test (R199). -/
def failCell (s : State) (cell : Nat) : State :=
  if s.cfg.cellFail.contains cell then s
  else
    let s1 := { flagSet s (R.cfgCellFail (cell / 32)) (cell % 32) true with cfg := { s.cfg with cellFail := s.cfg.cellFail ++ [cell] } }
    raise 0x0703 s1 (idx := cell) (items := [(2, cell / 3)])

/-- The logic self-test of a group ends (R198, R199, R437): failed cells are marked; after a fault migration the comparators and delay paths are judged too. -/
def testDone (s : State) (g failMask : Nat) (pathsOk : Bool) : State :=
  let x := grp s g
  let s1 := (setBits 3 failMask).foldl (fun st p => failCell st (cellOf g p)) s
  let s2 := modGrp s1 g (fun y => { y with tested := some s.dev.ticks, broken := y.broken || (x.faultTest && !pathsOk), faultTest := false })
  let s3 := if underTest s2 g then
      { flagSet (fldSet s2 R.cfgRotStat 31 24 0xFF) R.cfgStat 20 false with cfg := { s2.cfg with rot := none } }
    else s2
  let s4 := if underTest s2 g then fldSet s3 R.cfgRotStat 7 0 ((fld s3 R.cfgRotStat 7 0 + 1) % 256) else s3
  cfgKick (showSpares s4)

/-! ### Memory health (R183 to R186) -/

/-- The word of CFG_CLU_STATc: the uncorrectable errors of the last 24 h, the bank with the most corrections this hour (R210). -/
def cluStatWord (s : State) (c : Nat) : Nat :=
  let x := clu s c
  let w := (List.range 20).foldl (fun b i => if tget 0 x.ce b < tget 0 x.ce i then i else b) 0
  let ue := (x.ue.filter (fun t => decide (s.dev.ticks < t + 24 * 3600 * secT))).length
  b2n x.quar * 2 ^ 31 + capN 15 ue * 2 ^ 27 + w * 2 ^ 22 + capN 65535 (tget 0 x.ce w)

/-- CFG_CLU_STATc brought up to date. -/
def showClu (s : State) (c : Nat) : State := regSet s (R.cfgCluStat c) (cluStatWord s c)

/-- A corrected error counted for a bank (R183, R184). -/
def correctedError (s : State) (c bank : Nat) : State :=
  let s1 := showClu (modClu s c (fun x => { x with ce := tmod 0 x.ce bank (· + 1) })) c
  if fld s1 R.cfgEccCfg 7 0 < tget 0 (clu s1 c).ce bank then
    let s2 := { s1 with cfg := { s1.cfg with ceOver := true } }
    if flag s2 R.cfgStat 22 then s2
    else setCause (raise 0x0705 (flagSet s2 R.cfgStat 22 true) (idx := c) (items := [(1, bank)])) 3 true
  else s1

/-- The bays of a cluster's groups. -/
def baysOf (s : State) (c : Nat) : List Nat := (s.bays.filter (fun p => decide (p.2.grp / 4 = c))).map Prod.fst

/-- An uncorrectable error counted; more than ue_quar within 24 h quarantine the cluster and its bays migrate (R185, R186). -/
def countUe (s : State) (c : Nat) : State :=
  let day := 24 * 3600 * secT
  let s1 := modClu s c (fun x => { x with ue := s.dev.ticks :: x.ue.filter (fun t => decide (s.dev.ticks < t + day)) })
  let s2 := if fld s1 R.cfgEccCfg 11 8 < (clu s1 c).ue.length ∧ !(clu s1 c).quar then
      let s3 := raise 0x0707 (modClu s1 c (fun x => { x with quar := true })) (idx := c)
      (baysOf s3 c).foldl (fun st n => askMig st ⟨n, .quarantine, none, .waiting, none, 0, false⟩) s3
    else s1
  cfgKick (showSpares (showClu s2 c))

end Sys2Proof.Machine
end

