-- ==== Sys2Proof/Machine/BayBytes.lean ====
section
/-! DEFINITION. The bytes of a bay region: context, settings, sample slot and measurement history, as BAY_STATE_READ, the data port and the mirror link show them (R162, R182, R214, R287 to R294). -/

namespace Sys2Proof.Machine

/-- An integer in 32 bits. -/
def le32I (i : Int) : List Byte := leBytes 4 (ofSigned 32 i)

/-- Private bytes of the element library from offset `o` on. -/
def privBytes (block : Nat) (p : Tab Int) (o n : Nat) : List Byte := (List.range n).map (fun i => Config.libByte block p (o + i))

/-- The operations of a bay's LOGIC elements in its active group. -/
def logicCount (b : Bay) : Nat :=
  (b.els.filter (fun r => erType r = 0x17)).foldl (fun a r => a + field ((sgBlock (b.setOf b.ctx.sg) (erSlot r)).getD []) 1 1) 0

/-- The settings group of a pending switch of a bay, and its effect instant. -/
def pendSwitch (s : State) (n : Nat) : Option (Nat × EvalAt) :=
  ((tget [] s.cfg.reqs n).reverse.filterMap (fun r => match r.kind with | .switch g => some (g, r.at_) | _ => none)).head?

/-- The header of a bay context (R289). -/
def ctxHeader (s : State) (n : Nat) (b : Bay) : List Byte :=
  let c := b.ctx
  let last := c.last.getD ⟨0, 0⟩
  leBytes 2 n ++ leBytes 1 (field b.recd 2 1) ++ leBytes 1 b.form ++ leBytes 1 c.run ++ leBytes 1 c.sg ++ leBytes 1 (field b.recd 7 1)
    ++ leBytes 1 (match pendSwitch s n with | some p => p.1 | none => 0xFF) ++ leBytes 1 (b2n c.const.hz60) ++ leBytes 1 (b2n c.const.acb) ++ leBytes 1 c.const.m
    ++ leBytes 1 (bitsOf (field b.recd 43 1) 1 1) ++ leBytes 4 c.const.inom ++ leBytes 4 c.const.vnom ++ leBytes 8 last.sec ++ leBytes 4 last.k
    ++ leBytes 8 c.start.sec ++ leBytes 4 c.start.k ++ leBytes 4 c.count ++ slice b.recd 40 2 ++ leBytes 1 b.els.length ++ leBytes 1 (logicCount b) ++ leBytes 12 0

/-- A channel entry (R290). -/
def ctxChan (b : Bay) (c : Nat) : List Byte :=
  let k := b.ctx.const
  brMap b.recd c ++ le32I (k.mloc.getD c 0) ++ le32I (k.msv.getD c 0) ++ leBytes 1 (k.sloc.getD c 0) ++ leBytes 1 (k.ssv.getD c 0) ++ leBytes 2 0
    ++ leBytes 4 (k.fs.getD c 0) ++ leBytes 12 0

/-- The code of a reclose state (R292). -/
def RcState.code : RcState → Nat
  | .ready => 0 | .waitOpen => 1 | .dead => 2 | .closing => 3 | .reclaim => 4 | .lockout => 5

/-- The reclose state (R292). -/
def rcBytes (c : Ctx) : List Byte :=
  leBytes 1 c.rc.st.code ++ leBytes 1 c.rc.shots ++ leBytes 1 c.rc.slot ++ leBytes 1 0 ++ leBytes 4 c.rc.tmr.k ++ leBytes 8 c.rc.tmr.sec
    ++ privBytes 0x100 (c.el c.rc.slot).p 16 48

/-- The measurement state (R292). -/
def measBytes (m : Meas1) : List Byte :=
  leBytes 4 m.f ++ leBytes 4 (b2n m.fvalid + 2 * b2n m.rvalid + 4 * b2n m.ref) ++ leBytes 4 m.psi ++ leBytes 4 m.rocof ++ le32I m.v1m.1 ++ le32I m.v1m.2
    ++ privBytes 0x101 ((enumFrom0 m.run).map (fun p => (p.1, (p.2 : Int)))) 24 488

/-- The target record and the counters (R293). -/
def tgtBytes (c : Ctx) : List Byte :=
  leBytes 8 c.tgt.bits ++ leBytes 8 c.tgt.slots ++ c.tgt.first.bytes ++ c.tgt.last.bytes ++ leBytes 4 c.tgt.count ++ leBytes 76 0
    ++ leBytes 4 c.cnt.trip ++ leBytes 4 c.cnt.close ++ leBytes 4 c.cnt.reclose ++ leBytes 4 c.cnt.bf ++ leBytes 4 c.cnt.qinv ++ leBytes 4 c.cnt.aborted ++ leBytes 104 0

/-- An element state block (R281, R282, R291): TW_LOC and IMP_LOC place their location, and TW_LOC its t1. -/
def elBytes (s : State) (x : ElSt) : List Byte :=
  let loc := leBytes 4 (tget 0 x.p 7).toNat
  let body :=
    if x.ty = 0x16 then privBytes x.ty x.p 3 1 ++ loc ++ privBytes x.ty x.p 8 56
    else if x.ty = 0x15 then privBytes x.ty x.p 3 1 ++ loc ++ (attAt s ((tget 0 x.p 3).toNat * 16384)).bytes ++ privBytes x.ty x.p 24 40
    else privBytes x.ty x.p 3 61
  leBytes 2 x.out ++ leBytes 1 x.ty ++ body

/-- The bay context, 8 KiB (R288). -/
def ctxBytes (s : State) (n : Nat) (b : Bay) : List Byte :=
  let c := b.ctx
  ctxHeader s n b ++ (List.range 8).flatMap (ctxChan b) ++ leBytes 8 c.word ++ leBytes 8 c.pub ++ leBytes 32 c.vars ++ leBytes 2 c.bins ++ leBytes 14 0
    ++ (List.range 64).flatMap (fun i =>
        let x := tget ⟨0, 0, false, false, 0⟩ c.comps i
        leBytes 4 x.thr ++ leBytes 1 x.dr ++ leBytes 1 (b2n x.under) ++ leBytes 1 (b2n x.p) ++ leBytes 1 x.slot)
    ++ (List.range 64).flatMap (fun i => leBytes 4 (tget 0 c.integ i))
    ++ (List.range 256).flatMap (fun j => privBytes 0x102 [(0, (tget 0 c.logic j : Nat))] (4 * j) 4)
    ++ (List.range 64).flatMap (fun i => leBytes 4 (tget 0 c.theta i))
    ++ rcBytes c ++ measBytes c.meas ++ tgtBytes c
    ++ (match (cupBay? s n) with
        | some _ => leBytes 8 (Config.recConfigAddr n 0) ++ leBytes 8 (Config.recConfigAddr n 1) ++ leBytes 8 (0x1000000000 + n * 0x800000) ++ leBytes 40 0
        | none => leBytes 64 0)
    ++ leBytes 0x300 0 ++ (List.range 64).flatMap (fun i => elBytes s (c.el i))

/-- The measurement history, 16 KiB (R214). -/
def histBytes (h : Hist) : List Byte :=
  let x := (List.range 2880).flatMap (fun i => le32I (match tget? h.x i with | some p => p.2 | none => 0))
  let p := (List.range 360).flatMap (fun i => leBytes 4 (match tget? h.psi i with | some p => p.2 | none => 0))
  let c := (List.range 720).flatMap (fun i => le32I (match tget? h.c i with | some p => p.2.1 | none => 0))
  let r := (List.range 16).flatMap (fun i => match tget? h.r i with | some (_, some v) => le32I v.1 ++ le32I v.2 | _ => leBytes 8 0)
  x ++ p ++ c ++ r ++ (List.range 64).flatMap (fun i => leBytes 4 (tget 0 h.cf i)) ++ leBytes 160 0

/-- The parts of BAY_STATE_READ in bit order (R307). -/
def stateParts (s : State) (n mask : Nat) (b : Bay) : List Byte :=
  (if bitOf mask 0 then ctxBytes s n b else []) ++ (if bitOf mask 1 then slice (b.setOf b.ctx.sg) 0 4096 else [])
    ++ (if bitOf mask 2 then histBytes b.ctx.hist else []) ++ (if bitOf mask 3 then b.slot.bytes else [])

/-- A region of 64 KiB as the data port reads it: context, settings groups, sample slot, history and task scratch; the destination of a migration holds the settings groups once they are copied (R182, R187, R194). -/
def regionByte (s : State) (g o : Nat) : Byte :=
  match (hostOf s g).bind (fun n => (bay? s n).map (fun b => (n, b))) with
  | none =>
    match (s.cfg.migs.find? (fun m => decide (m.dst = some g) && (decide (m.step = .boundary) || decide (m.step = .copy)))).bind (fun m => bay? s m.bay) with
    | some b => if 0x2000 ≤ o ∧ o < 0xA000 then (tget [] b.groups ((o - 0x2000) / 0x1000)).getD (o % 0x1000) 0 else 0
    | none => 0
  | some (n, b) =>
    if o < 0x2000 then (ctxBytes s n b).getD o 0
    else if o < 0xA000 then (tget [] b.groups ((o - 0x2000) / 0x1000)).getD (o % 0x1000) 0
    else if o < 0xB000 then b.slot.bytes.getD (o - 0xA000) 0
    else if o < 0xF000 then (histBytes b.ctx.hist).getD (o - 0xB000) 0
    else BitVec.ofNat 8 (tget 0 b.work ((o - 0xF000) / 8) / 256 ^ (o % 8) % 256)

end Sys2Proof.Machine
end

