-- ==== Sys2Proof/Machine/MirBase.lean ====
section
/-! DEFINITION. Sending on the mirror link, the status of the pair, and the entries that snapshots and shadows hold (R449 to R462). -/

namespace Sys2Proof.Machine

/-- Whether the part is paired (R449). -/
def paired (s : State) : Bool := (pairRec s).isSome

/-- Whether this unit is unit B. -/
def isUnitB (s : State) : Bool := match pairRec s with | some r => decide (field r 4 1 = 1) | none => false

/-- Whether the link is up: a lane is (R452). -/
def linkUp (s : State) : Bool := s.mir.laneA.up || s.mir.laneB.up

/-- Whether R450 finds an error: pair_err or digest_mis. -/
def pairBad (s : State) : Bool := flag s R.mirStat 26 || flag s R.mirStat 25

/-- Whether the unit is an isolated standby (R458, R468, R469). -/
def isolatedStandby (s : State) : Bool := decide (s.dev.mode = .vigil) && s.mir.iso

/-- Whether the unit is the active of a pair. -/
def isActive (s : State) : Bool := paired s && decide (s.dev.mode = .service)

/-- MIR_STAT's and MIR_SYNCEDi's live fields brought up to date (R479). -/
def mirShow (s : State) : State :=
  if !paired s then s
  else
    let m := s.mir
    let seen (t : Option Ticks) : Bool := match t with | some x => decide (s.dev.ticks ≤ x + 3 * msT) | none => false
    let run := m.synced.filter (fun n => match bay? s n with | some b => b.runs | none => false)
    let s1 := fldSet s R.mirStat 31 29 m.pstate
    let s2 := flagSet (flagSet (flagSet s1 R.mirStat 28 (holdsAuthority s)) R.mirStat 27 (seen m.lastHb || seen m.lastBcn)) R.mirStat 21 m.inUse
    let s3 := flagSet (flagSet (flagSet s2 R.mirStat 20 m.hand.isSome) R.mirStat 19 m.laneB.up) R.mirStat 18 m.laneA.up
    let s4 := fldSet s3 R.mirStat 7 0 run.length
    (List.range 4).foldl (fun st i => regSet st (R.mirSynced i) (maskOf 32 (fun j => m.synced.contains (32 * i + j)))) s4

/-- The mirror-link state changed, and its registers with it. -/
def setMir (s : State) (f : Mir → Mir) : State := mirShow { s with mir := f s.mir }

/-- A link frame: header, payload, CRC (R451). -/
def linkFrame (ty seq part count : Nat) (payload : List Byte) : List Byte :=
  let b := leBytes 1 ty ++ leBytes 1 0 ++ leBytes 2 payload.length ++ leBytes 4 seq ++ leBytes 2 part ++ leBytes 2 count ++ leBytes 4 0 ++ payload
  b ++ leBytes 4 (crc32 b)

/-- A link frame handed to its lanes (R451): HEARTBEAT, SAMPLES and EVENT on both lanes, SNAPSHOT and BAYSTATE on lane B or, while it is down, on lane A. A lane that MIR_CTL disables sends nothing; while R450 finds an error only HEARTBEAT is sent (R450). -/
def linkSend (s : State) (ty part count : Nat) (payload : List Byte) : State :=
  if !paired s || (pairBad s && decide (ty ≠ 1)) then s
  else
    let seq := tget 0 s.mir.txSeq ty
    let lanes := (if ty ≤ 3 then [0, 1] else if s.mir.laneB.up then [1] else [0]).filter (fun l => flag s R.mirCtl l)
    let f := linkFrame ty seq part count payload
    lanes.foldl (fun st l => drainLane { st with mir := st.mir.setLane l ((lane st l).put ty f) } l)
      { s with mir := { s.mir with txSeq := tset s.mir.txSeq ty ((seq + 1) % 2 ^ 32) } }

/-- One EVENT entry sent as a frame (R459). -/
def linkEvent (s : State) (kind bay : Nat) (e : EvalAt) (arg : List Byte) : State :=
  linkSend s 3 0 0 (leBytes 1 kind ++ leBytes 1 0 ++ leBytes 2 bay ++ leBytes 4 e.k ++ leBytes 8 e.sec ++ slice arg 0 16)

/-- A request forwarded to the standby (R459). -/
def forward (s : State) (kind bay : Nat) (e : EvalAt) (arg : Nat) : State := if isActive s then linkEvent s kind bay e (leBytes 1 arg) else s

/-! ### Snapshot entries (R460, R462) -/

/-- s_num of an instant, when it is a snapshot instant. -/
def snapNum (rate : Nat) (e : EvalAt) : Option Nat := if e.k % (rate / 100) = 0 then some (100 * e.sec + e.k / (rate / 100)) else none

/-- THERMAL elements of a bay in slot order. -/
def thermals (b : Bay) : List Nat := (List.range 64).filter (fun s => b.els.any (fun r => erSlot r = s ∧ erType r = 0x0B))

/-- The sequence of a bay's last TRIP frame (R397). -/
def tripSeq (s : State) (n : Nat) : Nat := (tget 0 s.bel.ord n - 1) % 2 ^ 48 + fld s R.belEpoch 15 0 * 2 ^ 48

/-- A bay entry (R460). -/
def bayEntry (s : State) (n : Nat) (b : Bay) : List Byte :=
  let p := pendSwitch s n
  let th := thermals b
  leBytes 2 n ++ leBytes 1 b.ctx.run ++ leBytes 1 b.ctx.sg ++ leBytes 1 (match p with | some x => x.1 | none => 0xFF) ++ leBytes 1 th.length ++ leBytes 2 0
    ++ leBytes 4 (match p with | some x => x.2.k | none => 0) ++ leBytes 4 0 ++ leBytes 8 (tripSeq s n) ++ rcBytes b.ctx ++ leBytes 8 0
    ++ th.flatMap (fun i => leBytes 1 i ++ leBytes 3 0 ++ leBytes 4 (tget 0 b.ctx.theta i))

/-- A publication entry (R460). -/
def pubEntry (s : State) (n : Nat) : List Byte :=
  let p := goPub s n
  let rate := match (pubRecs s).find? (fun r => field r 2 2 = n) with
    | some r => (match bay? s (field r 4 2) with | some b => b.rate | none => 14400)
    | none => 14400
  let e := gridAt rate p.tc
  leBytes 1 n ++ leBytes 1 (b2n !p.first) ++ leBytes 2 0 ++ leBytes 4 p.st ++ leBytes 4 p.sq ++ leBytes 4 (if p.first then 0 else e.2) ++ leBytes 8 (if p.first then 0 else e.1)

/-- The values of a bay and of its publications recorded when it has committed a snapshot instant; the last four snapshot instants are kept (R460, R462). -/
def recordShadow (s : State) (n : Nat) (e : EvalAt) : State :=
  match bay? s n with
  | none => s
  | some b =>
    match paired s, snapNum b.rate e with
    | true, some num =>
      let old := s.mir.shadow.find? (fun x => x.num = num)
      let x := old.getD ⟨num, [], [], []⟩
      let blocks := ((pubRecs s).filter (fun r => field r 4 2 = n)).map (fun r => field r 2 2)
      let x1 : Shadow :=
        { x with bays := tset x.bays n (bayEntry s n b), pubs := blocks.foldl (fun t k => tset t k (pubEntry s k)) x.pubs,
                 src := blocks.foldl (fun t k => tset t k n) x.src }
      { s with mir := { s.mir with shadow := ((x1 :: s.mir.shadow.filter (fun y => y.num ≠ num)).take 4) } }
    | _, _ => s

/-- The publication state of a bay for BAYSTATE: the ordinal and its blocks' entries (R464). -/
def bayPubs (s : State) (n : Nat) : List (Nat × GoPub) :=
  (((pubRecs s).filter (fun r => field r 4 2 = n)).map (fun r => field r 2 2)).map (fun k => (k, goPub s k))

/-- A payload cut into parts of at most 2,048 bytes. -/
def cutParts : Nat → List Byte → List (List Byte)
  | 0, _ => []
  | _ + 1, [] => []
  | n + 1, b :: bs => (b :: bs).take 2048 :: cutParts n ((b :: bs).drop 2048)

/-- Parts sent as frames of a type. -/
def sendParts (s : State) (ty : Nat) (bs : List Byte) : State :=
  let ps := cutParts 64 bs
  (enumFrom0 ps).foldl (fun st p => linkSend st ty p.1 ps.length p.2) s

/-- The active sends a bay's state once the instant before k_r is committed (R464 step 2). Where that instant left no commit there is no copy, and the bay is tried again later. -/
def sendBayState (s : State) (n : Nat) (b : Bay) (next : EvalAt) : State :=
  match tget? s.mir.brs n with
  | some r =>
    if isActive s && decide (r.kr = next) then
      let pubs := (bayPubs s n).flatMap (fun p => pubEntry s p.1)
      let s1 := sendParts s 5 (ctxBytes s n b ++ histBytes b.ctx.hist ++ leBytes 8 (tget 0 s.bel.ord n) ++ pubs)
      setMir (bump s1 R.mirBayResync) (fun m => { m with brs := terase m.brs n, synced := if m.synced.contains n then m.synced else m.synced ++ [n] })
    else if isActive s && r.kr.le next then setMir s (fun m => { m with brs := terase m.brs n, retry := tset m.retry n s.dev.ticks })
    else s
  | none => s

end Sys2Proof.Machine
end

