-- ==== Sys2Proof/Machine/SviOps.lean ====
section
/-! DEFINITION. Operations of sampled-value ingest: matching, tags, quality on entry, supervision, dispatch to the slots, deadlines and fallback (R148 to R168). -/

namespace Sys2Proof.Machine

/-! ### Streams and their configuration -/

/-- The state code of R165. -/
def SvState.code : SvState → Nat
  | .ok => 0 | .hold => 1 | .invalid => 2 | .resync => 3

/-- A stream that is not subscribed (R165: INVALID). -/
def SvStream.empty : SvStream :=
  ⟨.invalid, false, 0, none, none, [], [], [], 0, 0, none, 0, [], 0, none, none, none⟩

/-- Stream `n`. -/
def strm (s : State) (n : Nat) : SvStream := tget SvStream.empty s.svi.streams n

/-- The SVSUB record of stream `n` in the scheme in force. -/
def svRec (s : State) (n : Nat) : List Byte := ((s.scheme.bind (fun x => x.svsub? n)).getD [])

/-- The rate of a stream. -/
def svRate (s : State) (n : Nat) : Nat := if field (svRec s n) 2 1 = 1 then 4800 else 14400

/-- The delay compensation D, in quarter-nanoseconds (R153, R204). -/
def svDelay (s : State) (n : Nat) : Int := toSigned 32 (field (svRec s n) 24 4)

/-- Field `hi` to `lo` of SVI_STRn_CFG. -/
def svCfg (s : State) (n hi lo : Nat) : Nat := fld s (0x2300 + 4 * n) hi lo

/-- lat_max in quarter-nanoseconds. -/
def latMax (s : State) (n : Nat) : Int := (svCfg s n 28 22 * 400000 : Nat)

/-- lat_ref in quarter-nanoseconds: the largest of the last 256 latencies, capped at lat_max (R164). -/
def latRef (s : State) (n : Nat) : Int := clampI 0 (latMax s n) (maxI 0 (strm s n).lat)

/-- SVI_STRn_STAT for a stream (R177). -/
def svStatWord (s : State) (n : Nat) (x : SvStream) (fallback : Bool) : Nat :=
  x.st.code * 2 ^ 30 + b2n x.en * 2 ^ 29 + b2n fallback * 2 ^ 28 + capN 31 x.sane * 2 ^ 16 + capN 0xFFFF ((latRef s n).toNat / 4000)

/-- Whether any bay channel mapped to stream `n` runs on its fallback (R168). -/
def fallbackInUse (s : State) (n : Nat) : Bool :=
  s.bays.any (fun (_, b) => b.runs && (List.range 8).any (fun c =>
    decide (mapKind (brMap b.recd c) = 2) && decide (mapStream (brMap b.recd c) = n) && decide (b.slot.src.getD c 0 = 3)))

/-- SVI_STRn_STAT and the counts of SVI_STAT written from the streams' states (R177). -/
def svShow (s : State) (n : Nat) : State :=
  let s1 := regSet s (0x2100 + 4 * n) (svStatWord s n (strm s n) (fallbackInUse s n))
  let en := s1.svi.streams.filter (fun p => p.2.en)
  let s2 := fldSet s1 R.sviStat 31 24 (en.filter (fun p => p.2.st = .ok)).length
  fldSet s2 R.sviStat 23 16 (en.filter (fun p => p.2.st = .invalid ∨ p.2.st = .resync)).length

/-- Stream `n` replaced, and its status registers with it. -/
def setStrm (s : State) (n : Nat) (x : SvStream) : State :=
  svShow { s with svi := { s.svi with streams := tset s.svi.streams n x } } n

/-- Counter `i` of stream `n`: 0 ACCEPT, 1 STALE, 2 CONFREV, 3 UNSYNC, 4 TAGERR, 5 LATE, 6 INTERP, 7 SUBST, 8 OVF, 9 DUP (R176). -/
def svCount (s : State) (n i : Nat) : State :=
  { s with svi := { s.svi with cnts := tmod 0 s.svi.cnts (n * 16 + i) (fun v => capN (2 ^ 32 - 1) (v + 1)) } }

/-- Whether an event limited to one per second may be raised. -/
def mayRaise (s : State) (last : Option Ticks) : Bool :=
  match last with | some t => elapsed s t secT | none => true

/-- The tag of instant `i` of a stream: q4(S + smpCnt × 10^9 / F − D) (R153). -/
def svTag (rate : Nat) (d : Int) (i : Nat) : QInst :=
  (((i / rate * secQ + rdivN (i % rate * secQ) rate : Nat) : Int) - d).toNat

/-- The first instant of a stream tagged at or after `t`. -/
def svFrom (rate : Nat) (d : Int) (t : QInst) : Nat :=
  let u := ((t : Int) + d).toNat
  let i := u / secQ * rate + (u % secQ) * rate / secQ
  if t ≤ svTag rate d i then i else if t ≤ svTag rate d (i + 1) then i + 1 else i + 2

/-- Now in quarter-nanoseconds: an arrival is timestamped to 0.25 ns (R153). -/
def nowQ (s : State) : QInst := eventQ s

/-! ### Quality on entry (R156, R157) -/

/-- The sample quality of a received member; the bit places of the IEC 61850 quality are that standard's (log entry 11). -/
def entryQ (s : State) (q : Nat) (qAccept sim : Bool) (tag : QInst) : Nat :=
  let validity := q % 4
  let bad := bitOf q 4 || bitOf q 5 || bitOf q 6 || bitOf q 7 || bitOf q 8 || bitOf q 9 || bitOf q 12
  let test := bitOf q 11 || sim
  let valid := (decide (validity = 0) || (decide (validity = 3) && qAccept)) && !bad && !(test && isSealed s)
  qIf valid qVALID + qIf (bitOf q 2 || bitOf q 3) qOVERRANGE + qIf (bitOf q 10) qSUBST + qIf test qTEST + qSOURCESV + qTime s tag

/-! ### Fallback (R168) -/

/-- The bay channels mapped to stream `n`: bay, channel, dataset member, fallback AIN or 0xFF. -/
def svTargets (s : State) (n : Nat) : List (Nat × Nat × Nat × Nat) :=
  s.bays.flatMap (fun (b, x) => (List.range 8).filterMap (fun c =>
    let m := brMap x.recd c
    if mapKind m = 2 ∧ mapStream m = n then some (b, c, mapMember m, mapAin m) else none))

/-- The source of channel `c` of bay `b`. -/
def chSrc (s : State) (b c : Nat) : Nat := ((bay? s b).map (fun x => x.slot.src.getD c 0)).getD 0

/-- The source of channel `c` of bay `b` set. -/
def setSrc (s : State) (b c v : Nat) : State :=
  modBay s b (fun x => { x with slot := { x.slot with src := x.slot.src.set c v } })

/-- Every running bay channel of stream `n` with a fallback changes to it from the first instant at or after now (R168). -/
def fallbackOn (s : State) (n : Nat) : State :=
  (svTargets s n).foldl (fun st (b, c, _, f) =>
    if f ≠ 0xFF ∧ chSrc st b c = 2 ∧ ((bay? st b).map Bay.runs).getD false then raise 0x0607 (beginSwitch (setSrc st b c 3) b c (nowQ s)) (bay := b) (idx := c) else st) s

/-- A stream enters a state, with its event and the ATT of the first instant affected (R165, R168). -/
def svEnter (s : State) (n : Nat) (st : SvState) (tag : QInst) : State :=
  let x := strm s n
  if x.st = st then s
  else
    let s1 := setStrm s n { x with st := st }
    let code := match st with | .hold => 0x0601 | .invalid => 0x0602 | .resync => 0x0603 | .ok => 0x0604
    let s2 := raise code s1 (idx := n) (att := some (attAt s1 (tag * 16384)))
    if st = .invalid then svShow (fallbackOn s2 n) n else s2

/-! ### Writing to the slots (R155, R160, R161) -/

/-- A sample of stream `n` written to every bay channel it maps to; a channel on its fallback returns when the stream is OK and the sample carries no SETTLING (R168). -/
def svWrite (s : State) (n : Nat) (tag : QInst) (vals : List (Int × Nat)) : State :=
  let ok := decide ((strm s n).st = .ok)
  let s1 := (svTargets s n).foldl (fun st (b, c, m, _) =>
    let (v, q) := vals.getD m (0, 0)
    let w : SampleWord := ⟨v, BitVec.ofNat 16 q, 0x100 + n, tag⟩
    if chSrc st b c = 3 then
      if ok && !qHas q qSETTLING && ((bay? st b).map Bay.runs).getD false then
        stageNew (raise 0x0608 (beginSwitch (setSrc st b c 2) b c tag) (bay := b) (idx := c)) b c w
      else stageOld st b c w
    else stageNew st b c w) s
  svShow s1 n

/-- Members of stream `n` that are mapped only to stopped bays (R160). -/
def svStopped (s : State) (n count : Nat) : Nat :=
  let t := svTargets s n
  ((List.range count).filter (fun m =>
    let u := t.filter (fun x => x.2.2.1 = m)
    !u.isEmpty && u.all (fun x => !((bay? s x.1).map Bay.runs).getD false))).length

/-- The samples staged on the bay channels of stream `n`, counted over all of them. -/
def svPuts (s : State) (n : Nat) : Nat :=
  ((svTargets s n).map (fun (b, c, _) => ((bay? s b).map (fun x => x.slot.n c)).getD 0)).foldl (· + ·) 0

/-- Instant `i` of stream `n` written: the newest consumed instant moves to it when a bay slot took a sample (R155). -/
def svConsume (s : State) (n i : Nat) (vals : List (Int × Nat)) : State :=
  let x := strm s n
  let tag := svTag (svRate s n) (svDelay s n) i
  let set := vals.map (fun (v, q) => (v, if 0 < x.settle then Nat.lor q qSETTLING else q))
  let s1 := svWrite s n tag set
  let y := strm s1 n
  setStrm s1 n { y with exp := Nat.max y.exp (i + 1), wrote := some i, newest := if svPuts s n < svPuts s1 n then some tag else y.newest, last := set, settle := y.settle - 1, staged := y.staged.filter (fun z => z.idx ≠ i) }

/-- The values of a received sample, with VALID clear in INVALID and RESYNC (R165). -/
def svGated (st : SvState) (vals : List (Int × Nat)) : List (Int × Nat) :=
  if st = .ok ∨ st = .hold then vals else vals.map (fun (v, q) => (v, qClear q qVALID))

/-- A received sample written. -/
def svReceived (s : State) (n : Nat) (z : SvSample) : State :=
  let x := strm s n
  let s1 := svConsume s n z.idx (svGated x.st z.vals)
  let y := strm s1 n
  setStrm (bumpBy s1 R.sviDropStopped (svStopped s1 n z.vals.length)) n { y with miss := 0, got := (z.idx :: y.got).take (svRate s n) }

/-- The earliest staged sample of a stream. -/
def SvStream.first? (x : SvStream) : Option SvSample :=
  x.staged.foldl (fun a z => match a with | some y => if z.idx < y.idx then some z else some y | none => some z) none

/-- Samples dispatched while every instant before the earliest staged one is written or filled (R158). -/
def svDispatch : Nat → State → Nat → State
  | 0, s, _ => s
  | k + 1, s, n =>
    let x := strm s n
    match x.first? with
    | some z => if z.idx ≤ x.exp then svDispatch k (svReceived s n z) n else s
    | none => s

/-- Whether the deadline of instant `i` has passed: tag + lat_ref + hold × P (R164). -/
def deadlinePassed (s : State) (n i : Nat) : Bool :=
  let rate := svRate s n
  let t : Int := (svTag rate (svDelay s n) i : Int) + latRef s n
  decide ((t * rate + ((svCfg s n 5 2 * secQ : Nat) : Int)) * 16384 ≤ ((now s * rate : Nat) : Int))

/-- The linear interpolation of a gap's instant between its neighbours: INTERP, the AND of VALID, the OR of the other bits (R159). -/
def svLerp (x : SvStream) (z : SvSample) (i : Nat) : List (Int × Nat) :=
  let i0 := x.wrote.getD (x.exp - 1)
  z.vals.zipIdx.map (fun ((v1, q1), m) =>
    let (v0, q0) := x.last.getD m (0, 0)
    let v := rdivI (v0 * ((z.idx : Int) - i) + v1 * ((i : Int) - i0)) (z.idx - i0)
    (v, Nat.lor (qIf (qHas q0 qVALID && qHas q1 qVALID) qVALID) (Nat.lor (Nat.lor (qClear q0 qVALID) (qClear q1 qVALID)) qINTERP)))

/-- The instants of a gap filled, in order, while their deadlines have not passed (R159). -/
def svFill (z : SvSample) (x0 : SvStream) : Nat → State → Nat → State
  | 0, s, _ => s
  | k + 1, s, n =>
    let x := strm s n
    if x.exp < z.idx ∧ !deadlinePassed s n x.exp then
      svFill z x0 k (svConsume (svCount s n 6) n x.exp (svLerp x0 z x.exp)) n
    else s

/-- What is written for a missing instant: the last values with SUBST, and VALID kept or cleared (R165). -/
def svMissing (x : SvStream) (count : Nat) (keep : Bool) : List (Int × Nat) :=
  if x.last.isEmpty then List.replicate count (0, qSUBST + qSOURCESV)
  else x.last.map (fun (v, q) => (v, Nat.lor (qIf (keep && qHas q qVALID) qVALID) (Nat.lor (qClear q (qVALID + qSETTLING)) qSUBST)))

/-- The deadline of the next instant passes with no sample staged (R165, R166). -/
def svMiss (s : State) (n : Nat) : State :=
  let x := strm s n
  let cnt := field (svRec s n) 3 1
  let tag := svTag (svRate s n) (svDelay s n) x.exp
  let miss := x.miss + 1
  let holdMax := svCfg s n 10 6
  let s1 := match x.st with
    | .ok => if holdMax < miss then svEnter s n .invalid tag else svEnter s n .hold tag
    | .hold => if holdMax < miss then svEnter s n .invalid tag else s
    | .invalid => s
    | .resync => setStrm s n { x with sane := 0 }
  let keep := decide ((strm s1 n).st = .hold)
  let s2 := svConsume (svCount s1 n 7) n x.exp (svMissing x cnt keep)
  let y := strm s2 n
  svDispatch 512 (setStrm s2 n { y with miss := miss }) n

/-! ### Frames (R148 to R154, R166) -/

/-- The stream that a frame matches (R149, R204): destination MAC, APPID and svID, the source MAC where the image gives one, on a port of its mask, and enabled. -/
def svMatch (s : State) (f : SvFrame) : Option Nat :=
  ((s.scheme.map (fun x => x.recs 6)).getD []).findSome? (fun r =>
    let src := fieldBE r 10 6
    let len := field r 28 1
    if fieldBE r 4 6 = f.dst ∧ (src = 0 ∨ src = f.src) ∧ field r 16 2 = f.appid ∧ slice r 32 len = f.svId ∧ f.svId.length = len
      ∧ bitOf (field r 29 1) f.port ∧ (strm s (field r 0 2)).en then some (field r 0 2) else none)

/-- The discard table looked up and the key entered (R151): whether the frame is a duplicate. -/
def ddLookup (s : State) (pair1 : Bool) (src seq : Nat) : State × Bool :=
  let t := if pair1 then s.svi.dd23 else s.svi.dd01
  if t.any (fun e => e.src = src ∧ e.seq = seq) then (bump s (if pair1 then R.sviDdP23 else R.sviDdP01), true)
  else
    let full := decide (2048 ≤ t.length)
    let t1 := (if full then t.drop 1 else t) ++ [⟨src, seq, s.dev.ticks⟩]
    let s1 := { s with svi := if pair1 then { s.svi with dd23 := t1 } else { s.svi with dd01 := t1 } }
    (if full then bump s1 R.sviDdEvict else s1, false)

/-- The TAI second of a frame: a − τ of its newest ASDU lies in [−0.5 s, 0.5 s) (R153). Global index of the newest ASDU. -/
def svSecond (s : State) (n cnt : Nat) (a : QInst) : Nat :=
  let rate := svRate s n
  let d := svDelay s n
  let base : Int := (a : Int) + d - (rdivN (cnt * secQ) rate : Nat) + 2000000000
  (base / (secQ : Nat)).toNat * rate + cnt

/-- The latency of a frame: arrival less the tag of its newest ASDU (R153). -/
def svLatency (s : State) (n i : Nat) (a : QInst) : Int := (a : Int) - svTag (svRate s n) (svDelay s n) i

/-- The samples of a frame with their global indexes: an ASDU whose smpCnt exceeds the newest one's belongs to the previous second (R153). -/
def svSamples (s : State) (n newest : Nat) (a : QInst) (fr : Nat) (f : SvFrame) : List SvSample :=
  let rate := svRate s n
  let cN := newest % rate
  f.asdus.map (fun u =>
    let i := newest - cN + u.smpCnt - (if cN < u.smpCnt then rate else 0)
    let tag := svTag rate (svDelay s n) i
    ⟨i, tag, a, fr, u.vals.map (fun (v, q) => (v, entryQ s q (decide (svCfg s n 31 31 = 1)) f.sim tag))⟩)

/-- The counter of a sample that is not staged: 9 for a duplicate, 1 for a stale one (R152, R155). -/
def svRefused (x : SvStream) (z : SvSample) : Option Nat :=
  if x.got.contains z.idx || x.staged.any (fun y => y.idx = z.idx) then some 9
  else if (match x.newest with | some t => decide (z.tag ≤ t) | none => false) then some 1
  else none

/-- A sample entered in the staging buffer unless it is a duplicate or stale; received in INVALID or RESYNC, with VALID clear (R152, R155, R165). -/
def svStage (s : State) (n : Nat) (z : SvSample) : State :=
  let x := strm s n
  match svRefused x z with
  | some c => svCount s n c
  | none => setStrm s n { x with staged := x.staged ++ [{ z with vals := svGated x.st z.vals }] }

/-- Whether a frame follows the previous one: its first smpCnt follows the last, and the latencies differ by at most P (R166). -/
def svContiguous (s : State) (n first : Nat) (lat : Int) : Bool :=
  match (strm s n).prev with
  | some (l, p) => decide (first = l + 1) && decide ((lat - p).natAbs * svRate s n ≤ secQ)
  | none => false

/-- The state transitions that a frame makes before its samples are staged (R154, R166, R167). In RESYNC every frame that is not sane or not contiguous restarts the count, also one that follows the last needed (DEDUCED, log entry 95). -/
def svFrameState (s : State) (n first : Nat) (tag : QInst) (lat : Int) (sane fresh : Bool) : State :=
  let x := strm s n
  let readmit := svCfg s n 15 11
  match x.st with
  | .ok => s
  | .hold => if sane && fresh then setStrm (svEnter s n .ok tag) n { strm (svEnter s n .ok tag) n with miss := 0 } else s
  | .invalid =>
    if sane && fresh then
      let s1 := svEnter s n .resync tag
      setStrm s1 n { strm s1 n with sane := 1 }
    else s
  | .resync =>
    if !sane then setStrm s n { x with sane := 0 }
    else if !svContiguous s n first lat then setStrm s n { x with sane := 1 }
    else if readmit ≤ x.sane then
      let s1 := svEnter s n .ok tag
      setStrm s1 n { strm s1 n with settle := svRate s n / 40, sane := 0, miss := 0, lat := x.lat.take readmit }
    else setStrm s n { x with sane := x.sane + 1 }

end Sys2Proof.Machine
end

