-- ==== Sys2Proof/Machine/BayOps.lean ====
section
/-! DEFINITION. The bay at work: its tasks, record lines, commits and hand-offs, direct trip outputs, starting, stopping, switches and resets (R188, R200, R201, R207, R296 to R315, R341, R342, R420). -/

namespace Sys2Proof.Machine

/-! ### What a task reads -/

/-- The state of a binary input. -/
def bin (s : State) (i : Nat) : Bin := tget ⟨false, [], 0, 0, none, 0⟩ s.cfg.bins i

/-- The level of a binary input at an instant: that of the latest acceptance at or before it (R309). -/
def Bin.at_ (b : Bin) (q : QInst) : Bool := match b.acc.find? (fun p => p.1 ≤ q) with | some p => p.2 | none => false

/-- BIN0 to BIN15 at an instant: own levels, or on a standby with mirrored levels those carried by SAMPLES (R309, R454). -/
def binLevels (s : State) (rate : Nat) (e : EvalAt) : Nat :=
  let own := maskOf 16 (fun i => (bin s i).at_ (e.q rate))
  if s.mir.binsMir then
    match s.mir.binsAt.find? (fun p => decide (p.1 = ⟨e.sec, e.k * (14400 / rate)⟩)) with | some p => p.2 | none => own
  else own

/-- The nominal rate of the channel that a word came from: its stream's for an SV word, the bay's for a local output (R169). -/
def wordRate (s : State) (b : Bay) (w : SampleWord) : Nat := if 0x100 ≤ w.ch then svRate s (w.ch - 0x100) else b.rate

/-- The interpolated values of the eight channels; an unmapped one is 0 with VALID clear. -/
def slotVals (s : State) (b : Bay) (z : Sealed) : List Interp :=
  (List.range 8).map (fun c => if (mappedOf b.recd).contains c then b.slot.value b.rate (wordRate s b) z c else ⟨0, 0⟩)

/-- What the task of an instant is given. -/
def taskIn (s : State) (n : Nat) (b : Bay) (z : Sealed) (switch : Option Nat) (was : Option (List Byte)) (reset : Bool) : TaskIn :=
  let m := modeAt s (z.at_.inst b.rate)
  let g := grp s b.grp
  { bay := n, z := z, att := z.at_.att s b.rate, vals := slotVals s b z, bins := binLevels s b.rate z.at_, gi := giAt s (z.at_.q b.rate), switch := switch, was := was,
    reset := reset, test := decide (m = .commission) || decide (m = .test), debug := g.debug, unsup := g.unsup, safe := decide (s.dev.mode = .safe),
    isolated := isolatedStandby s, prep := s.prep }

/-! ### The record line (R341, R342) -/

/-- The phasors of a line in the order of R342. -/
def linePhasors (m : Quant) : List Ph :=
  (List.range 8).map (m.ph 0) ++ [m.v0, m.v1, m.v2, seq0 (m.ph 0 0) (m.ph 0 1) (m.ph 0 2), m.i1, m.i2 0]

/-- The magnitude of an order in Q8.24, the first being the full-cycle phasor's. -/
def harmWord (e : Env) (ch h : Nat) : List Byte := leBytes 4 (if h = 1 then e.q.ph 0 ch else harmonic e.hist e.kap e.q e.rate ch h).mag

/-- The record line of a task: `c0` is the context before the task, `i` what it was given, `o` what it answers. -/
def lineBytes (b : Bay) (cupRec : Option (List Byte)) (c0 : Ctx) (i : TaskIn) (o : TaskOut) : List Byte :=
  let c := o.ctx
  let at_ := i.z.at_
  let rate := b.rate
  let mapped := mappedOf b.recd
  let unsup (ch : Nat) (q : Nat) : Nat := if i.unsup && mapped.contains ch then Nat.lor q qUNSUPERVISED else q
  let xOf (ch : Nat) : Int :=
    let v := i.vals.getD ch ⟨0, 0⟩
    let sv := decide (i.z.src.getD ch 0 = 2)
    if mapped.contains ch then
      satI 32 (rdivI (v.y * (if sv then c.const.msv.getD ch 0 else c.const.mloc.getD ch 0)) (2 ^ (if sv then c.const.ssv.getD ch 1 else c.const.sloc.getD ch 1)))
    else 0
  let cs : Ctx := { c with word := c0.word }
  let tv := match cupRec with
    | some r => maskOf 16 (fun t => decide (trigTy r t = 1) && sigAt cs i.bins i.gi (field (trigRec r t) 4 2))
    | none => 0
  let cyc := c0.last.isSome && decide (c.meas.psi < c0.meas.psi)
  let pq := (List.range 64).filterMap (fun s => b.els.find? (fun r => erSlot r = s ∧ erType r = 0x18))
  let ph := linePhasors o.q
  let head := (List.range 8).flatMap (fun ch => le32I (xOf ch)) ++ (List.range 8).flatMap (fun ch => leBytes 2 (unsup ch (i.vals.getD ch ⟨0, 0⟩).q))
    ++ leBytes 2 i.bins ++ leBytes 2 tv ++ leBytes 4 c.meas.psi ++ leBytes 2 (b2n cyc + 2 * b2n !pq.isEmpty) ++ leBytes 6 0
  let phs := if cyc then
      ph.flatMap (fun p => le32I p.re ++ le32I p.im) ++ leBytes 4 c.meas.f ++ leBytes 2 (maskOf 14 (fun j => (ph.getD j Ph.none).valid))
        ++ leBytes 2 (maskOf 14 (fun j => (ph.getD j Ph.none).ovr)) ++ leBytes 8 0
    else leBytes 128 0
  match pq with
  | [] => if cyc then head ++ phs else head
  | r :: _ =>
    let set := b.setOf c.sg
    let ok := (List.range 7).all (fun j => decide (j = 3) || (o.q.ph 0 j).valid)
    let ran := decide (at_.k % erCad r = erPhase r) && decide (elMode b.recd b.els set r = .on) && ok
    let pair := ((tget 0 (c.el (erSlot r)).p 1).toNat + 2) % 3
    let e : Env :=
      { q := o.q, kap := at_.sub rate c.start, rate := rate, at_ := at_, set := set, recd := b.recd, els := b.els, bins := i.bins, gi := i.gi, hist := c.hist,
        fs := [], src := i.z.src, prep := i.prep, bay := i.bay, isolated := i.isolated }
    let entry (ch : Nat) : List Byte := (List.range 25).flatMap (fun h => harmWord e ch (h + 1))
    head ++ phs ++ leBytes 2 (c.el (erSlot r)).out ++ leBytes 1 (if ran then 2 else 0) ++ leBytes 1 0
      ++ (if ran then leBytes 1 (2 * pair) ++ leBytes 1 (2 * pair + 1) ++ leBytes 2 0 ++ entry (4 + pair) ++ entry pair else leBytes 4 0)

/-! ### Direct trip outputs (R311, R312) -/

/-- The state of a direct trip output. -/
def dto (s : State) (i : Nat) : Dto := tget ⟨false, none, false, 0⟩ s.cfg.dtos i

/-- The mapped bit of an output (R311). -/
def dtoMapped (s : State) (i : Nat) : Bool :=
  let w := regGet s (R.bayDtoCfg i)
  bitOf w 31 && (match bay? s (bitsOf w 29 23) with | some b => b.runs && bitOf b.ctx.pub (bitsOf w 22 17) | none => false)

/-- Whether an output is held inactive whatever the demand (R312). -/
def dtoHeld (s : State) (i : Nat) : Bool :=
  match s.dev.mode with
  | .boot => true
  | .safe => true
  | .commission => !s.dev.dtoActive
  | .test => !s.dev.dtoActive
  | .vigil => let b := fld s (R.bayDtoCfg i) 22 17; flag s (R.bayDtoCfg i) 31 && (decide (b = 4) || decide (b = 5))
  | .service => false

/-- An output follows its demand: active while it is demanded, inactive again at the later of the fall and min_w × 100 µs after its active edge, and inactive at once where it is held (R311, R312). -/
def dtoStep (s : State) (i : Nat) : State :=
  let x := dto s i
  let pulse := match x.pulse with | some t => if s.dev.ticks < t then some t else none | none => none
  let demand := dtoMapped s i || pulse.isSome
  let wide := elapsed s x.since (fld s (R.bayDtoCfg i) 13 0 * 100 * usT)
  let active := if dtoHeld s i then false else demand || (x.active && !wide)
  let x1 : Dto := { demand := demand, pulse := pulse, active := active, since := if active && !x.active then s.dev.ticks else x.since }
  { s with cfg := { s.cfg with dtos := tset s.cfg.dtos i x1 } }

/-- BAY_DTO_STAT.held and active brought up to date (R318). -/
def dtoShow (s : State) : State :=
  fldSet (fldSet s R.bayDtoStat 23 16 (maskOf 8 (fun i => dtoHeld s i))) R.bayDtoStat 7 0 (maskOf 8 (fun i => (dto s i).active))

/-- Every output follows its demand; nothing changes once the dying sequence holds the pins (R544). -/
def dtoAll (s : State) : State :=
  let frozen : Bool := match s.pwr.dying with | some d => decide (d.phase ≠ .hold) | none => false
  if frozen then s else dtoShow ((List.range 8).foldl dtoStep s)

/-! ### Requests with an instant (R200 to R207, R302, R306) -/

/-- The requests of a bay. -/
def reqsOf (s : State) (n : Nat) : List BayReq := tget [] s.cfg.reqs n

/-- The requests of a bay replaced. -/
def setReqs (s : State) (n : Nat) (l : List BayReq) : State :=
  { s with cfg := { s.cfg with reqs := if l.isEmpty then terase s.cfg.reqs n else tset s.cfg.reqs n l } }

/-- A request added; a scheduled one stands before the commands (R73). -/
def addReq (s : State) (n : Nat) (r : BayReq) : State :=
  let l := reqsOf s n
  setReqs s n (if r.cmd then l ++ [r] else l.filter (fun x => !x.cmd) ++ [r] ++ l.filter (fun x => x.cmd))

/-- The instant of a pending stop. -/
def stopAt? (s : State) (n : Nat) : Option EvalAt := ((reqsOf s n).find? (fun r => decide (r.kind = .stop))).map BayReq.at_

/-- A settings-group switch in effect: GROUP_SWITCHED unless the group is active already (R200). -/
def switchOne (s : State) (n : Nat) (b : Bay) (cur : Nat) (r : BayReq) : State × Nat × BayReq :=
  match r.kind with
  | .switch g =>
    let s1 := if g = cur then s else raise 0x0709 s (bay := n) (items := [(1, cur), (1, g)]) (att := some (r.at_.att s b.rate))
    (s1, g, { r with kind := .switched g })
  | .switched g => (s, g, r)
  | _ => (s, cur, r)

/-- The switches of a bay whose instant has come take effect; the task of the instant applies them (R200, R201). -/
def switchesDue (s : State) (n : Nat) (upTo : EvalAt) : State :=
  match bay? s n with
  | none => s
  | some b =>
    let a := (reqsOf s n).foldl (fun (acc : State × Nat × List BayReq) r =>
      if r.at_.le upTo then let x := switchOne acc.1 n b acc.2.1 r; (x.1, x.2.1, acc.2.2 ++ [x.2.2]) else (acc.1, acc.2.1, acc.2.2 ++ [r])) (s, b.ctx.sg, [])
    setReqs a.1 n a.2.2

/-- A target reset in effect: on a stopped bay at once, on a running one by the task of the instant (R302, R306). -/
def resetsDue (s : State) (n : Nat) (upTo : EvalAt) : State :=
  match bay? s n with
  | none => s
  | some b =>
    let due := (reqsOf s n).filter (fun r => decide (r.kind = .reset) && r.at_.le upTo)
    if due.isEmpty then s
    else
      let at_ := (due.head?.map BayReq.at_).getD upTo
      let s1 := raise 0x0905 s (bay := n) (att := some (at_.att s b.rate))
      if b.runs then
        setReqs s1 n ((reqsOf s n).map (fun r => if r.kind = .reset ∧ r.at_.le upTo then { r with kind := .cleared } else r))
      else
        showRunning (setBay (setReqs s1 n ((reqsOf s n).filter (fun r => !(decide (r.kind = .reset) && r.at_.le upTo)))) n { b with ctx := resetTargets b.els b.ctx })

/-! ### Starting and stopping (R296, R303 to R306) -/

/-- The source of each channel at a start: local, SV, or the fallback while the stream is neither OK nor HOLD (R162, R168). -/
def initSrc (s : State) (recd : List Byte) : List Nat :=
  (List.range 8).map (fun c =>
    let m := brMap recd c
    match mapKind m with
    | 1 => 1
    | 2 => let st := (strm s (mapStream m)).st; if mapAin m ≠ 0xFF ∧ (st = .invalid ∨ st = .resync) then 3 else 2
    | _ => 0)

/-- An empty sample slot whose next instant is `at_`. -/
def Slot.fresh (src : List Nat) (at_ : EvalAt) : Slot := ⟨List.replicate 8 0, [], [], none, 0, at_, src, none, []⟩

/-- The settings groups of a bay in an image. -/
def groupsOf (sch : Scheme) (n : Nat) : Tab (List Byte) :=
  (List.range 8).foldl (fun t i => match sch.settings? n i with | some r => tset t i r | none => t) ([] : Tab (List Byte))

/-- The bay that an image describes, stopped: records, settings groups and form, on a group (R192, R204). -/
def bayFrom (s : State) (sch : Scheme) (n : Nat) (recd : List Byte) (g : Nat) : Bay :=
  let els := sch.elems n
  let groups := groupsOf sch n
  let c := startCtx recd els (tget [] groups (brInit recd)) 0 0 ⟨0, 0⟩
  { recd := recd, els := els, groups := groups, ctx := { c with run := 0 }, slot := Slot.fresh (initSrc s recd) ⟨0, 0⟩, grp := g, form := field recd 3 1, work := [] }

/-- Belfry at a BAY_START: the ordinal and the repetitions begin anew, and each block of the bay makes a state change at its first instant (R314, R399, R406). -/
def bayStartBel (s : State) (n : Nat) : Bel :=
  { s.bel with rep := terase s.bel.rep n, ord := terase s.bel.ord n,
               pubs := ((pubRecs s).filter (fun r => field r 4 2 = n)).foldl (fun t r => tset t (field r 2 2) { goPub s (field r 2 2) with first := true }) s.bel.pubs }

/-- BAY_START at its instant (R296, R304); constants out of range leave the bay stopped. -/
def startBay (s : State) (n : Nat) (at_ : EvalAt) : State :=
  match bay? s n with
  | none => s
  | some b =>
    let set := b.setOf (brInit b.recd)
    let att := at_.att s b.rate
    if !constOk set then raise 0x0903 (setBay s n { b with ctx := { b.ctx with run := 0 } }) (bay := n) (att := some att)
    else
      let c := startCtx b.recd b.els set (binLevels s b.rate at_) (giAt s (at_.q b.rate)) at_
      let s1 := setBay s n { b with ctx := c, slot := Slot.fresh (initSrc s b.recd) at_ }
      let s2 := { s1 with cfg := { s1.cfg with tasks := terase s1.cfg.tasks n }, bel := bayStartBel s1 n,
                          mir := { s1.mir with synced := s1.mir.synced.filter (fun x => decide (x ≠ n)) } }
      let s3 := raise 0x0901 s2 (bay := n) (att := some att)
      cupBayStat (mirShow (dtoAll (showRunning (showBay (startCup s3 n (at_.inst b.rate)) n)))) n

/-- BAY_OUTn of a published word (R318). -/
def showOut (s : State) (n w : Nat) : State := regSet (regSet s (R.bayOutLo n) (w % 2 ^ 32)) (R.bayOutHi n) (w / 2 ^ 32)

/-- A published word handed to Belfry: TRIP frames before GOOSE (R300, R314, R315). -/
def handOff (s : State) (n old pub bins : Nat) (att : Att) : State :=
  gooseFrames (tripFrames (showOut s n pub) n old pub att) n pub bins att

/-- A line queued for Cupola, for a recorded bay. -/
def queueLine (s : State) (n : Nat) (l : Line) : State := modCup s n (fun b => { b with lines := b.lines ++ [l] })

/-- The bay stops: the stop word is handed over, the slot is emptied, the context stays (R305, R306, R195). -/
def stopBay (s : State) (n : Nat) (at_ : EvalAt) : State :=
  match bay? s n with
  | none => s
  | some b =>
    let att := at_.att s b.rate
    let w := stopWord b.ctx.word
    let pub := pubWord (decide (modeAt s (at_.inst b.rate) = .safe)) w
    let s1 := setBay s n { b with ctx := { b.ctx with run := 0 }, slot := Slot.fresh b.slot.src b.slot.next }
    let s2 := setReqs { s1 with cfg := { s1.cfg with tasks := terase s1.cfg.tasks n } } n
      ((reqsOf s n).filter (fun r => match r.kind with | .switch _ => false | .switched _ => false | .stop => false | .cleared => false | .reloaded _ => false | _ => true))
    let s3 := match migOf? s2 n with | some m => if m.step = .copy then s2 else cancelMigs s2 n | none => s2
    let s4 := handOff s3 n b.ctx.pub pub b.ctx.bins att
    let s5 := queueLine s4 n (stopLine b at_ att w)
    let s6 := raise 0x0902 s5 (bay := n) (att := some att)
    cfgKick (showLks (mirShow (dtoAll (showRunning (showBay (resetsDue s6 n at_) n)))))

/-! ### The tasks (R188, R420) -/

/-- The records and groups of a new image adopted by a bay kept live; its next task applies them in the manner of R201. The new constants are copied, and stop the bay when they break their ranges (R207, R296). -/
def applyReload (s : State) (n : Nat) (at_ : EvalAt) : State :=
  match (reqsOf s n).find? (fun r => (match r.kind with | .reload _ _ _ => true | _ => false) && r.at_.le at_), bay? s n with
  | some q, some b =>
    let rest := (reqsOf s n).filter (fun r => decide (r ≠ q))
    match q.kind with
    | .reload recd els groups =>
      let s1 := setReqs s n (rest ++ [{ q with kind := .reloaded ((rest.findSome? (fun r => match r.kind with | .reloaded o => some o | _ => none)).getD (b.setOf b.ctx.sg)) }])
      let ini := tget [] groups (brInit recd)
      let b1 := { b with recd := recd, els := els, groups := groups, form := field recd 3 1 }
      if constOk ini then
        setBay s1 n { b1 with ctx := { b.ctx with const := constOf ini } }
      else raise 0x0903 (stopBay (setBay (setReqs s n rest) n b1) n at_) (bay := n) (att := some (at_.att s b.rate))
    | _ => s
  | _, _ => s

/-- The task record of a bay task (R420): `sg` is the group active at the instant, `first` says that it is the first task after BAY_START. -/
def taskRecord (i : TaskIn) (sg mode : Nat) (first reex : Bool) : List Byte :=
  i.att.bytes ++ leBytes 4 i.z.at_.k ++ leBytes 1 0
    ++ leBytes 1 (b2n first + 2 * b2n reex + 4 * b2n i.switch.isSome + 8 * b2n i.debug + 16 * b2n i.unsup) ++ leBytes 1 sg ++ leBytes 1 mode
    ++ (List.range 8).flatMap (fun c => leBytes 1 ((i.z.taps.getD c 0 + 29) % 32)) ++ (List.range 8).flatMap (fun c => leBytes 1 (i.z.src.getD c 0))
    ++ leBytes 2 i.bins ++ leBytes 6 0 ++ leBytes 32 i.gi ++ leBytes 48 0

/-- The task of a sealed instant: its record and its result, from the committed state; `reex` says that it runs again. -/
def makeTask (s : State) (n : Nat) (b : Bay) (z : Sealed) (reex : Bool) : Task :=
  let due := (reqsOf s n).filter (fun r => r.at_.le z.at_)
  let sw := (due.filterMap (fun r => match r.kind with | .switched g => some g | _ => none)).getLast?
  let was := due.findSome? (fun r => match r.kind with | .reloaded o => some o | _ => none)
  let i := taskIn s n b z sw was (due.any (fun r => decide (r.kind = .cleared)))
  let o := runTask b i
  { at_ := z.at_, record := taskRecord i (sw.getD b.ctx.sg) (modeAt s (z.at_.inst b.rate)).code b.ctx.last.isNone reex, ctx := o.ctx, line := lineBytes b ((cupBay? s n).map CupBay.recd) b.ctx i o, latched := o.latched, copies := copiesOf s b.grp, reex := reex,
    early := false }

/-- Whether the task of a bay's oldest sealed instant may start: the bay runs, the previous task has committed, the instant lies before a pending stop, no migration copies the bay, and the BIN sample of the instant has been taken (R188, R194, R305, R309). A standby holds the doorbell of k_r until the state has arrived (R464). -/
def taskReady (s : State) (n : Nat) (b : Bay) : Option Sealed :=
  match b.slot.queue.head? with
  | some z =>
    let stopped := match stopAt? s n with | some a => a.le z.at_ | none => false
    let copying := match migOf? s n with | some m => decide (m.step = .copy) | none => false
    let held := decide (s.dev.mode = .vigil) && (match tget? s.mir.brs n with | some r => decide (r.kr = z.at_) | none => false)
    let known := decide (z.at_.inst b.rate ≤ now s)
    if b.runs && (tget? s.cfg.tasks n).isNone && !stopped && !copying && !held && known then some z else none
  | none => none

/-- A cell with its registers cleared and its pickup bank and integrators empty, as every task starts (R181); the instruction buffer stays. -/
def Cell.clear (c : Cell) : Cell := ⟨List.replicate 31 0, List.replicate 16 0, [], [], c.ibuf⟩

/-- A cell that nothing has run on since entry to BOOT. -/
def Cell.blank : Cell := Cell.clear ⟨[], [], [], [], 0⟩

/-- The cells of some positions of a group changed. -/
def modCells (s : State) (g : Nat) (ps : List Nat) (f : Nat → Cell → Cell) : State :=
  { s with cfg := { s.cfg with cells := ps.zipIdx.foldl (fun t (p, j) => tset t (cellOf g p) (f j (tget Cell.blank t (cellOf g p)))) s.cfg.cells } }

/-- The doorbell of a bay starts its task on every copy, each from cleared registers (R181, R188, R420). -/
def startTask (s : State) (n : Nat) : State :=
  match bay? s n with
  | none => s
  | some b0 =>
    match taskReady s n b0 with
    | none => s
    | some z =>
      let s1 := resetsDue (switchesDue (applyReload s n z.at_) n z.at_) n z.at_
      match bay? s1 n with
      | some b =>
        if b.runs then
          let t := makeTask s1 n b z false
          modCells { s1 with cfg := { s1.cfg with tasks := tset s1.cfg.tasks n t } } b.grp t.copies (fun _ c => c.clear)
        else s1
      | none => s1

/-- The task of a bay dropped without a commit, and its instant with it (R189, R427, R430). -/
def dropTask (s : State) (n : Nat) : State :=
  let s1 := { s with cfg := { s.cfg with tasks := terase s.cfg.tasks n } }
  modBay s1 n (fun b => { b with slot := { b.slot with queue := b.slot.queue.drop 1 } })

/-- BAY_STATE_READs of a bay taken at a boundary (R307): `bell` says that a doorbell fires during the copy, which fails the attempt; the eighth failure completes with BUSY. -/
def takeReads (s : State) (n : Nat) (bell : Bool) : State :=
  match bay? s n with
  | none => s
  | some b =>
    if atBoundary s n b then
      let rs := tget [] s.cfg.reads n
      let s0 := { s with cfg := { s.cfg with reads := terase s.cfg.reads n } }
      rs.foldl (fun st r =>
        if bell then
          if r.left ≤ 1 then complete st r.cid stBusy Att.zero
          else { st with cfg := { st.cfg with reads := tset st.cfg.reads n (tget [] st.cfg.reads n ++ [{ r with left := r.left - 1 }]) } }
        else
          let att := match b.ctx.last with | some e => e.att st b.rate | none => Att.zero
          complete (hostWrite st r.host (stateParts st n r.mask b)) r.cid stOk att) s0
    else s

/-- What follows the end of a bay's task at its boundary: a migration that waits, state reads, migrations and steps that can start (R194, R307, R438). -/
def taskBoundary (s : State) (n : Nat) (bell : Bool) : State := cfgKick (takeReads (takeBoundary s n) n bell)

/-- A task committed: context, targets, line, publication, outputs, and what waits for the commit (R293, R299 to R301, R311, R314, R315, R341, R427, R462, R464). -/
def commitTask (s : State) (n : Nat) (t : Task) : State :=
  match bay? s n with
  | none => s
  | some b =>
    let att := t.at_.att s b.rate
    let pub := pubWord (decide (modeAt s (t.at_.inst b.rate) = .safe)) t.ctx.word
    let c : Ctx := { t.ctx with run := b.ctx.run, pub := pub, cnt := { t.ctx.cnt with aborted := b.ctx.cnt.aborted } }
    let s1 := setBay (dropTask s n) n { b with ctx := c, slot := { b.slot with queue := b.slot.queue.drop 1 } }
    let s2 := setReqs s1 n ((reqsOf s1 n).filter (fun r => !(r.at_.le t.at_ && (match r.kind with | .switched _ => true | .reloaded _ => true | .cleared => true | _ => false))))
    let s3 := if t.latched then raise 0x0904 s2 (bay := n) (items := [(8, c.tgt.bits)]) (att := some att) else s2
    let s4 := queueLine s3 n ⟨t.at_, att, t.line, t.ctx.word, c.count, false⟩
    let s5 := dtoAll (handOff s4 n b.ctx.pub pub c.bins att)
    let s6 := recordShadow (showRunning (showBay s5 n)) n t.at_
    sendBayState s6 n { b with ctx := c } (t.at_.next b.rate)

end Sys2Proof.Machine
end

