-- ==== Sys2Proof/Machine/LksOps.lean ====
section
/-! DEFINITION. Lockstep: the verdicts of a window, re-execution, resynchronisation, injection tests, comparator faults, unresolved instants, split, join and debug attach (R422 to R444). -/

namespace Sys2Proof.Machine

/-! ### Signatures (R422 to R424) -/

/-- A copy that stored nothing. -/
def CopyRun.blank : CopyRun := ⟨[], [], Cell.blank⟩

/-- A word shifted into the MISR with the feedback polynomial x^64 + x^4 + x^3 + x + 1 (R423): one step of the register, then the word added (DEDUCED, log entry 96). -/
def misrShift (m w : Nat) : Nat :=
  Nat.xor (Nat.xor (m * 2 % 2 ^ 64) (if bitOf m 63 then 0x1B else 0)) (w % 2 ^ 64)

/-- 64-bit data with the bytes outside a mask taken from another word. -/
def maskBytes (mask data old : Nat) : Nat := leVal ((List.range 8).map (fun i => BitVec.ofNat 8 ((if bitOf mask i then data else old) / 256 ^ i % 256)))

/-- The store signature of a sequence of stores (R423). -/
def storeSig (l : List Store) : Nat :=
  l.foldl (fun m x => misrShift (misrShift m (maskBytes x.mask x.data 0)) (x.mask % 256 * 2 ^ 32 + x.off % 2 ^ 32)) (2 ^ 64 - 1)

/-- `n` words of `w` bits in one number, the first lowest. -/
def packWords (w n : Nat) (f : Nat → Nat) : Nat := ((List.range n).reverse).foldl (fun a i => a * 2 ^ w + f i % 2 ^ w) 0

/-- The state of a cell that its fold signature compresses, 7,200 bits (R424): g1 to g31, v0 to v15, the pickup-bank state vector, the curve integrators. -/
def Cell.folded (c : Cell) : Nat :=
  packWords 32 31 (fun i => c.g.getD i 0) + 2 ^ 992 * packWords 256 16 (fun i => c.v.getD i 0)
    + 2 ^ 5088 * maskOf 64 (fun i => (tget ⟨0, 0, false, false, 0⟩ c.bank i).p) + 2 ^ 5152 * packWords 32 64 (fun i => tget 0 c.integ i)

/-- The column of the compression for a bit: never 0, so that no single bit is lost (R424). -/
def foldColumn (i : Nat) : BitVec 64 := if Config.foldColumn i = 0 then 1 else Config.foldColumn i

/-- The linear compression of the lowest `n` bits of a word (R424). -/
def foldSig : Nat → Nat → BitVec 64
  | 0, _ => 0
  | n + 1, w => foldSig n w ^^^ (if w.testBit n then foldColumn n else 0)

/-- Whether the fold signatures of two cells agree: they do when the states are equal (R424). -/
def foldSame (a b : Cell) : Bool := decide (a.folded = b.folded) || decide (foldSig 7200 a.folded = foldSig 7200 b.folded)

/-- What a true comparator reads in a window (R422, R434): the store signatures, fold signatures by the lowest copy with the same one, whether any load addresses differ. -/
def trueVerdict (runs : List CopyRun) : Verdict :=
  let cell (j : Nat) : Cell := (runs.getD j CopyRun.blank).cell
  { store := runs.map (fun r => storeSig r.stores), fold := (List.range runs.length).map (fun j => ((List.range j).find? (fun i => foldSame (cell i) (cell j))).getD j),
    loadDiv := runs.any (fun r => decide (r.loads ≠ (runs.getD 0 CopyRun.blank).loads)) }

/-! ### Verdicts (R428, R434) -/

/-- The pairs of copies that agree, in the order (0,1), (0,2), (1,2). -/
def pairsOf (n : Nat) (l : List Nat) : List Bool :=
  (if 2 ≤ n then [decide (l.getD 0 0 = l.getD 1 0)] else []) ++ (if 3 ≤ n then [decide (l.getD 0 0 = l.getD 2 0), decide (l.getD 1 0 = l.getD 2 0)] else [])

/-- What a comparator's verdict says: agreeing pairs of store and fold signatures, and a load divergence. -/
def verdictSays (n : Nat) (v : Verdict) : List Bool × List Bool × Bool := (pairsOf n v.store, pairsOf n v.fold, v.loadDiv && decide (2 ≤ n))

/-- The outcome of a window: a commit with the odd copy, if any, and a LATENT mismatch with its odd copy, if one is singled out; or a run again. -/
inductive WinOut
  | commit (odd : Option Nat) (latent : Option (Option Nat))
  | again
deriving DecidableEq, Repr

/-- The odd copy of three by their agreeing pairs; `none` when all agree or all differ. -/
def oddOf : List Bool → Option Nat
  | [true, false, false] => some 2
  | [false, true, false] => some 1
  | [false, false, true] => some 0
  | _ => none

/-- Whether all pairs agree. -/
def allAgree (l : List Bool) : Bool := l.all id

/-- The fold verdict of copies whose stores agree (R428, R431): of two copies that agree in their stores only their own folds are judged. -/
def latentOf (n : Nat) (odd : Option Nat) (fold : List Nat) : Option (Option Nat) :=
  match n, odd with
  | 3, none => if allAgree (pairsOf 3 fold) then none else some (oddOf (pairsOf 3 fold))
  | 3, some j =>
    let keep := [0, 1, 2].filter (fun i => decide (i ≠ j))
    if fold.getD (keep.getD 0 0) 0 = fold.getD (keep.getD 1 0) 0 then none else some none
  | 2, _ => if allAgree (pairsOf 2 fold) then none else some none
  | _, _ => none

/-- The table of outcomes (R428). -/
def judge (n : Nat) (v : Verdict) : WinOut :=
  let st := pairsOf n v.store
  if n ≤ 1 then .commit none none
  else if v.loadDiv then .again
  else if allAgree st then .commit none (latentOf n none v.fold)
  else
    match oddOf st with
    | some j => .commit (some j) (latentOf n (some j) v.fold)
    | none => .again

/-- The lowest copy that a verdict places in a majority or in agreement (R428, R436). -/
def laneOf (n : Nat) (v : Verdict) : Option Nat :=
  if n ≤ 1 ∨ allAgree (pairsOf n v.store) then some 0 else (oddOf (pairsOf n v.store)).map (fun j => if j = 0 then 1 else 0)

/-- Whether X and Y give different verdicts (R436). -/
def differs (n : Nat) (x y : Verdict) : Bool := decide (verdictSays n x ≠ verdictSays n y)

/-- The copy whose lane a window commits, if any: `fault` says that a comparator fault exists (R428, R436). -/
def laneChosen (n : Nat) (x y : Verdict) (fault : Bool) : Option Nat :=
  if fault then
    match laneOf n x, laneOf n y with
    | some i, some j => some (Nat.min i j)
    | a, b => a.or b
  else match judge n x with | .commit _ _ => laneOf n x | .again => none

/-! ### The commit buffer (R425 to R427) -/

/-- What the copies of a window did. -/
def copyRuns (k : Nat) (w : WindowEnd) : List CopyRun := (List.range k).map (fun j => w.runs.getD j CopyRun.blank)

/-- The commit buffer filled: the k-th store of copy j is lane j of entry k, of at most 512 entries; the cells hold what the copies left in them (R179, R425). -/
def fillBuffer (s : State) (g : Nat) (copies : List Nat) (runs : List CopyRun) : State :=
  let n := capN 512 ((runs.map (fun r => r.stores.length)).foldl Nat.max 0)
  let s1 := modCells s g copies (fun j _ => (runs.getD j CopyRun.blank).cell)
  { s1 with cfg := { s1.cfg with bufs := tset s1.cfg.bufs g ((List.range n).map (fun e => runs.map (fun r => r.stores[e]?))) } }

/-- The stores of lane `j` in a group's commit buffer, in store order. -/
def laneStores (s : State) (g j : Nat) : List Store := (tget [] s.cfg.bufs g).filterMap (fun e => (e.getD j none))

/-- The buffer freed after a commit (R426). -/
def freeBuffer (s : State) (g : Nat) : State := { s with cfg := { s.cfg with bufs := terase s.cfg.bufs g } }

/-- The first store of a lane outside the group's bay region and the emission window (R427). -/
def strayStore (g : Nat) (l : List Store) : Option Nat :=
  (l.map Store.off).find? (fun o => !(decide (o / 0x10000 = g % 4) || (decide (0xFF000 ≤ o) && decide (o < 0x100000))))

/-- A lane committed to the task scratch in store order (R427). What it stores to the context, the history and the emission window is the task's result (log entry 96). -/
def writeLane (s : State) (n g : Nat) (l : List Store) : State :=
  let put (t : Tab Nat) (x : Store) : Tab Nat :=
    let o := x.off - g % 4 * 0x10000
    if 0xF000 ≤ o ∧ o < 0x10000 ∧ x.off / 0x10000 = g % 4 then tset t ((o - 0xF000) / 8) (maskBytes x.mask x.data (tget 0 t ((o - 0xF000) / 8))) else t
  modBay s n (fun b => { b with work := l.foldl put b.work })

/-! ### Faults of a group -/

/-- Whether an event of a group limited to one per second may be raised (R448). -/
def lksMay (s : State) (last : Option Ticks) : Bool := match last with | some t => elapsed s t secT | none => true

/-- The ATT of an instant of a bay. -/
def attOfBay (s : State) (n : Nat) (e : EvalAt) : Att := match bay? s n with | some b => e.att s b.rate | none => attNow s

/-- A fault migration asked for the bay of a group (R437). -/
def faultMig (s : State) (n why : Nat) : State := askMig s ⟨n, .fault, none, .waiting, none, why, false⟩

/-- An instant left unresolved (R430). -/
def unresolved (s : State) (g n : Nat) (e : EvalAt) : State :=
  let s1 := raise 0x0803 (bump s R.lksUnresolvedCnt) (bay := n) (idx := g) (att := some (attOfBay s n e))
  faultMig (dropTask s1 n) n 0

/-- A resynchronisation of a position fails (R433): it is left out for one task; twice within 1 s is a structural fault. -/
def resyncFail (s : State) (g p : Nat) (att : Att) : State :=
  let s1 := raise 0x0806 (bump s R.lksResyncFailCnt) (idx := g) (items := [(2, cellOf g p)]) (att := some att)
  let twice := match tget? (grp s g).failAt p with | some t => decide (s.dev.ticks ≤ t + secT) | none => false
  let s2 := modGrp s1 g (fun x => { x with failAt := tset x.failAt p s.dev.ticks, resync := maskOf 3 (fun i => bitOf x.resync i && decide (i ≠ p)),
                                             fresh := maskOf 3 (fun i => bitOf x.fresh i && decide (i ≠ p)) })
  if twice then
    let s3 := modGrp s2 g (fun x => { x with fixed := Nat.lor x.fixed (2 ^ p), again := maskOf 3 (fun i => bitOf x.again i && decide (i ≠ p)) })
    let s4 := raise 0x0807 s3 (idx := g) (items := [(1, p)]) (att := some att)
    match hostOf s4 g with | some n => faultMig s4 n 1 | none => s4
  else modGrp s2 g (fun x => { x with again := Nat.lor x.again (2 ^ p) })

/-- An odd copy taken out for its resynchronisation (R432); in its first window after rejoining its resynchronisation has failed (R433). -/
def resyncStart (s : State) (g p : Nat) (att : Att) : State :=
  if bitOf (grp s g).fresh p then resyncFail s g p att else modGrp s g (fun x => { x with resync := Nat.lor x.resync (2 ^ p) })

/-- Positions left out for one task begin their second resynchronisation at the boundary after it (R433); positions that ran their first window are no longer fresh. -/
def endWindowMarks (s : State) (g again copies : Nat) : State :=
  modGrp s g (fun x => { x with resync := Nat.lor x.resync (Nat.land x.again again), again := maskOf 3 (fun i => bitOf x.again i && !bitOf again i),
                                fresh := maskOf 3 (fun i => bitOf x.fresh i && !bitOf copies i) })

/-- A saturating 16-bit count. -/
def cap16 (n : Nat) : Nat := capN 65535 n

/-- A LATENT mismatch counted and reported (R431); `test` is false where R436 applies too (R444). -/
def latentMark (s : State) (g : Nat) (copies : List Nat) (odd : Option Nat) (att : Att) (test : Bool) : State :=
  let mask := match odd with | some j => 2 ^ copies.getD j 0 | none => 7
  let s1 := modGrp (bump s R.lksLatentCnt) g (fun x => { x with latent := cap16 (x.latent + 1) })
  let s2 := raise 0x0804 s1 (idx := g) (items := [(1, mask)]) (att := some att)
  let s3 := match odd with | some j => resyncStart s2 g (copies.getD j 0) att | none => s2
  if test then { s3 with cfg := { s3.cfg with rotLat := s3.cfg.rotLat.or (some g) } } else s3

/-- A window committed by majority: counted, LKS_MISMATCH, the odd copy resynchronised (R428). -/
def mismatch (s : State) (g : Nat) (copies : List Nat) (j : Nat) (att : Att) : State :=
  let p := copies.getD j 0
  let s1 := modGrp (bump s R.lksMismatchCnt) g (fun x => { x with mism := cap16 (x.mism + 1) })
  let s2 := if lksMay s1 (grp s1 g).mismEvt then
      raise 0x0801 (modGrp s1 g (fun x => { x with mismEvt := some s.dev.ticks })) (idx := g) (items := [(2, cellOf g p)]) (att := some att)
    else s1
  resyncStart s2 g p att

/-- The window runs again on every copy, with bit 1 of the task record flags set (R429). -/
def reexec (s : State) (g n : Nat) (t : Task) (att : Att) : State :=
  let s1 := modGrp (bump s R.lksReexecCnt) g (fun x => { x with mism := cap16 (x.mism + 1) })
  let s2 := if lksMay s1 (grp s1 g).reexEvt then
      raise 0x0802 (modGrp s1 g (fun x => { x with reexEvt := some s.dev.ticks })) (idx := g) (att := some att)
    else s1
  modCells { s2 with cfg := { s2.cfg with tasks := tset s2.cfg.tasks n { t with reex := true, record := t.record.set 21 (t.record.getD 21 0 ||| 2) } } } g t.copies (fun _ c => c.clear)

/-- A comparator fault (R436): the group is UNSUPERVISED from here on and its bay migrates. -/
def cmpFault (s : State) (g n : Nat) (att : Att) : State :=
  let s1 := modGrp (bump s R.lksCmpFaultCnt) g (fun x => { x with unsup := true })
  faultMig (raise 0x0805 s1 (idx := g) (att := some att)) n 2

/-- Whether a SELFTEST's sweep of a group has injection tests left; it is suspended while throttled (R552, R555). -/
def sweeps (s : State) (g : Nat) : Bool :=
  match s.pwr.selftest with
  | some t => decide (t.kind = 2) && decide (0 < tget 0 t.left g) && !s.pwr.throttle
  | none => false

/-- A window counted, and whether an injection test falls in it (R435), in its turn or for a sweep (R555). -/
def countWindow (s : State) (g copies : Nat) : State × Bool :=
  let x := grp s g
  let n := x.windows + 1
  let due := decide (n % 1024 = 0) || x.moved
  let on := flag s R.lksCtl 0
  (setGrp s g { x with windows := n, moved := x.moved && on }, ((due && on) || sweeps s g) && decide (2 ≤ copies))

/-- One test of a sweep done (R555). -/
def sweepOne (s : State) (g : Nat) (bad : Bool) : State :=
  if sweeps s g then
    { s with pwr := { s.pwr with selftest := s.pwr.selftest.map (fun t => { t with left := tset t.left g (tget 0 t.left g - 1), faults := t.faults + b2n bad }) } }
  else s

/-- Full agreement of a verdict. -/
def verdictAgrees (n : Nat) (v : Verdict) : Bool := !v.loadDiv && allAgree (pairsOf n v.store) && allAgree (pairsOf n v.fold)

/-- An injection test run, or moved to the next window when the real verdict is not full agreement (R435); whether it fails. -/
def injection (s : State) (g n : Nat) (due : Bool) (x y : Verdict) (ok : Bool) : State × Bool :=
  if !due then (s, false)
  else if verdictAgrees n x && verdictAgrees n y then
    (modGrp (sweepOne (bump s R.lksInjCnt) g (!ok)) g (fun z => { z with inj := z.inj + 1, moved := false }), !ok)
  else (modGrp s g (fun z => { z with moved := z.moved || !sweeps s g }), false)

/-- An agreed store outside the bay region and the emission window reported (R427). -/
def strayMark (s : State) (g n off : Nat) (att : Att) : State :=
  raise 0x080D (flagSet (bump s R.lksUnresolvedCnt) R.lksStat 2 true) (bay := n) (idx := g) (items := [(4, off)]) (att := some att)

/-- An agreed store outside the bay region and the emission window (R427): the task is aborted. -/
def storeRange (s : State) (g n off : Nat) (att : Att) : State :=
  let s2 := strayMark s g n off att
  modBay (dropTask s2 n) n (fun b => { b with ctx := { b.ctx with cnt := { b.ctx.cnt with aborted := (b.ctx.cnt.aborted + 1) % 2 ^ 32 } } })

/-- The observing cell's store signature latched for the selected group, and its difference from the committed lane's noted for an unsplit window (R441); its stores reach no buffer. -/
def observe (s : State) (g : Nat) (o : Option CopyRun) (lane : Option (List Store)) (whole : Bool) : State :=
  match o, (grp s g).obs with
  | some r, some p =>
    let sig := storeSig r.stores
    let diff := match lane with | some l => decide (storeSig l ≠ sig) | none => false
    let s1 := modGrp (modCells s g [p] (fun _ _ => r.cell)) g (fun x => { x with obsDiff := x.obsDiff || (diff && whole) })
    if fld s R.lksSel 7 0 = g then regSet (regSet s1 R.lksObsSigLo (sig % 2 ^ 32)) R.lksObsSigHi (sig / 2 ^ 32 % 2 ^ 32) else s1
  | _, _ => s

/-- The window of a bay's task closes and is judged (R427 to R436, R444). -/
def closeWindow (s : State) (n : Nat) (w : WindowEnd) : State :=
  match tget? s.cfg.tasks n, bay? s n with
  | some t, some b =>
    let g := b.grp
    let k := t.copies.length
    let att := t.at_.att s b.rate
    let runs := copyRuns k w
    let x := w.xBad.getD (trueVerdict runs)
    let y := w.yBad.getD (trueVerdict runs)
    let (s1, due) := countWindow (fillBuffer s g t.copies runs) g k
    let (s2, injBad) := injection s1 g k due x y w.injOk
    let fault := differs k x y || injBad
    let lane := (laneChosen k x y fault).map (laneStores s2 g)
    let s3 := observe s2 g w.obs lane !t.early
    let left := (grp s g).again
    let done (st : State) : State := taskBoundary (showLks (endWindowMarks st g left (t.copies.foldl (fun a p => a + 2 ^ p) 0))) n w.bell
    let judged (st : State) : State :=
      if fault then
        let latent := match judge k x, judge k y with | .commit _ (some l), _ => some l | _, .commit _ (some l) => some l | _, _ => none
        cmpFault (match latent with | some l => latentMark st g t.copies l att false | none => st) g n att
      else
        match judge k x with
        | .again => st
        | .commit odd latent =>
          let st1 := match odd with | some j => mismatch st g t.copies j att | none => st
          match latent with | some l => latentMark st1 g t.copies l att true | none => st1
    match lane with
    | some l =>
      match strayStore g l with
      | some off => done (if fault then cmpFault (storeRange s3 g n off att) g n att else storeRange s3 g n off att)
      | none => done (judged (freeBuffer (commitTask (writeLane s3 n g l) n t) g))
    | none => if fault || t.reex || t.early then done (judged (unresolved s3 g n t.at_)) else reexec s3 g n t att
  | _, _ => s

/-- A window closes early (R426): of a bay task, or of a setup task when the bay runs none. A commit lets the task go on as a new window. -/
def closeEarly (s : State) (n : Nat) (w : WindowEnd) : State :=
  match bay? s n with
  | none => s
  | some b =>
    let g := b.grp
    let task := tget? s.cfg.tasks n
    let copies := match task with | some t => t.copies | none => copiesOf s g
    let k := copies.length
    let at_ := match task with | some t => t.at_ | none => b.slot.next
    let att := at_.att s b.rate
    let runs := copyRuns k w
    let x := { w.xBad.getD (trueVerdict runs) with fold := [] }
    let y := { w.yBad.getD (trueVerdict runs) with fold := [] }
    let (s1, due) := countWindow (bump (fillBuffer s g copies runs) R.lksEarlyCnt) g k
    let (s2, injBad) := injection s1 g k due x y w.injOk
    let fault := differs k x y || injBad
    let went (st : State) : State := match task with | some t => { st with cfg := { st.cfg with tasks := tset st.cfg.tasks n { t with early := true } } } | none => st
    let judged (st : State) : State :=
      if fault then cmpFault st g n att else match judge k x with | .commit (some j) _ => mismatch st g copies j att | _ => st
    match (laneChosen k x y fault).map (laneStores s2 g), task with
    | some l, _ =>
      match strayStore g l with
      | some off => if task.isSome then taskBoundary (storeRange s2 g n off att) n w.bell else strayMark s2 g n off att
      | none => judged (freeBuffer (went (writeLane s2 n g l)) g)
    | none, some t => if fault || t.reex || t.early then taskBoundary (judged (unresolved s2 g n t.at_)) n w.bell else reexec s2 g n t att
    | none, none => if fault then judged s2 else modGrp (bump s2 R.lksReexecCnt) g (fun z => { z with mism := cap16 (z.mism + 1) })

/-! ### Split, join and debug attach (R439 to R443) -/

/-- Whether a task runs on a group. -/
def groupBusy (s : State) (g : Nat) : Bool := match hostOf s g with | some n => (tget? s.cfg.tasks n).isSome | none => false

/-- The first instant that runs in a group's new form. -/
def nextInstant (s : State) (g : Nat) : Att :=
  match (hostOf s g).bind (bay? s) with
  | some b => (match b.slot.queue.head? with | some z => z.at_ | none => b.slot.next).att s b.rate
  | none => attNow s

/-- A position rejoins its group (R440, R443). -/
def joinPos (s : State) (g p : Nat) : State :=
  let conf := match (hostOf s g).bind (bay? s) with | some b => formMask b.form | none => 7
  modGrp s g (fun x => { x with lost := maskOf 3 (fun i => bitOf x.lost i && decide (i ≠ p)), extra := if bitOf conf p then x.extra else Nat.lor x.extra (2 ^ p),
                                obs := if x.obs = some p then none else x.obs, debug := x.debug && x.dbg.isSome && decide (x.dbg ≠ some p) })

/-- A position leaves its group. -/
def splitPos (s : State) (g p : Nat) (obs : Bool) : State :=
  modGrp s g (fun x => { x with lost := if bitOf x.extra p then x.lost else Nat.lor x.lost (2 ^ p), extra := maskOf 3 (fun i => bitOf x.extra i && decide (i ≠ p)),
                                obs := if obs then some p else x.obs, obsDiff := if obs then false else x.obsDiff })

/-- A split or join takes effect at a task boundary; `ok` is the check sequence of a join (R439, R440). -/
def formChange (s : State) (g : Nat) (ok : Bool) : State :=
  match (grp s g).form, (hostOf s g).bind (bay? s) with
  | some f, some _ =>
    if now s < f.at_ ∨ groupBusy s g then s
    else
      let att := nextInstant s g
      let s1 := modGrp s g (fun x => { x with form := none })
      if f.join then
        if ok then complete (raise 0x080A (showLks (joinPos s1 g f.pos)) (idx := g) (items := [(1, f.pos)]) (att := some att)) f.cid stOk att
        else complete (bump s1 R.lksResyncFailCnt) f.cid stInternal Att.zero
      else complete (raise 0x0809 (showLks (splitPos s1 g f.pos f.obs)) (idx := g) (items := [(1, f.pos)]) (att := some att)) f.cid stOk att
  | _, _ => s

/-- LKS_DBG_STAT and dbg_active brought up to date (R447). -/
def showDbg (s : State) : State :=
  let c := s.cfg.dbgCell
  flagSet (regSet s R.lksDbgStat (b2n c.isSome * 2 ^ 31 + b2n s.cfg.dbgReq.isSome * 2 ^ 30 + (match c, s.cfg.dbgReq with | some x, _ => x | none, some r => r.2 | none, none => 0)))
    R.lksStat 4 c.isSome

/-- A debug attach or detach takes effect at the boundary of the cell's group (R442, R443); `ok` is the check sequence of a cell that rejoins. -/
def dbgEffect (s : State) (ok : Bool) : State :=
  match s.cfg.dbgReq with
  | none => s
  | some (attach, cell) =>
    let g := cell / 3
    let p := cell % 3
    if groupBusy s g || (attach && (grp s g).form.isSome) then s
    else
      let s1 := { s with cfg := { s.cfg with dbgReq := none } }
      let hosted := (hostOf s g).isSome
      if attach then
        let s2 := modGrp { s1 with cfg := { s1.cfg with dbgCell := some cell, dbgLog := [] } } g (fun x => { x with dbg := some p, lost := if hosted then Nat.lor x.lost (2 ^ p) else x.lost, debug := hosted })
        let s3 := modGrp s2 g (fun x => { x with unsup := x.unsup || (hosted && decide ((copiesOf s2 g).length ≤ 1)) })
        appendLog (showSpares (showDbg (showLks (raise 0x080B s3 (idx := g) (items := [(2, cell)]) (att := some (nextInstant s g)))))) 6 0 1 cell
      else
        let s2 := modGrp { s1 with cfg := { s1.cfg with dbgCell := none } } g (fun x => { x with dbg := none })
        let s3 := if hosted then (if ok then modGrp (joinPos s2 g p) g (fun x => { x with debug := false }) else bump s2 R.lksResyncFailCnt)
          else modGrp s2 g (fun x => { x with debug := false, lost := maskOf 3 (fun i => bitOf x.lost i && decide (i ≠ p)) })
        appendLog (cfgKick (showSpares (showDbg (showLks (raise 0x080C s3 (idx := g) (items := [(2, cell)]) (att := some (nextInstant s g))))))) 6 0 0 cell

end Sys2Proof.Machine
end

