-- ==== Sys2Proof/Machine/MetOps.lean ====
section
/-! DEFINITION. Feeder energy accounting: METER records, accumulation, intervals, the loss model, judging, the alarm and the bypass signature (R320 to R338). -/

namespace Sys2Proof.Machine

/-! ### The METER record (R330) -/

/-- Whether the source is the bay's sealed instants. -/ def mrSv (r : List Byte) : Bool := decide (field r 2 1 = 1)
/-- Pair of phase `p`. -/ def mrPair (r : List Byte) (p : Nat) : Nat := field r (4 + p) 1
/-- IN metering channel, or 0xFF. -/ def mrIn (r : List Byte) : Nat := field r 7 1
/-- m_e. -/ def mrMe (r : List Byte) : Int := toSigned 32 (field r 8 4)
/-- s_e. -/ def mrSe (r : List Byte) : Nat := field r 12 1
/-- s_q. -/ def mrSq (r : List Byte) : Nat := field r 13 1
/-- m_q of a current. -/ def mrMq (r : List Byte) (c : Nat) : Nat := field r (16 + 4 * c) 4

/-- A metered bay. -/
def metBay? (s : State) (n : Nat) : Option MetBay := tget? s.met.bays n

/-- A metered bay replaced. -/
def setMet (s : State) (n : Nat) (b : MetBay) : State := { s with met := { s.met with bays := tset s.met.bays n b } }

/-- A metered bay changed. -/
def modMet (s : State) (n : Nat) (f : MetBay → MetBay) : State := match metBay? s n with | some b => setMet s n (f b) | none => s

/-- An interval that begins at an instant in ns, with nothing in it. -/
def MetOpen.at_ (t : Nat) : MetOpen := ⟨t, 0, 0, 0, 0, 0, 0, [0, 0, 0, 0], 0, 0⟩

/-- Whether metering runs: MET_CTL.en, in every mode after BOOT (R328). -/
def metRuns? (s : State) : Bool := flag s R.metCtl 0 && decide (s.dev.mode ≠ .boot) && !isDying s

/-! ### Boundaries (R323) -/

/-- The interval length in seconds. -/
def metLen (s : State) : Nat := 60 * (match fld s R.metCtl 7 5 with | 0 => 1 | 1 => 5 | 2 => 10 | 3 => 15 | 4 => 30 | _ => 60)

/-- The first boundary after an instant in ns: TAI, or TAI − tai_utc, a whole multiple of the length. -/
def metBoundary (s : State) (t : Nat) : Nat :=
  let len := metLen s
  let o := if flag s R.metCtl 4 then (taiUtc s % (len : Int)).toNat else 0
  let sec := t / 10 ^ 9
  (sec + (len - (sec + len - o) % len)) * 10 ^ 9

/-! ### Accumulation (R321, R322, R324, R325) -/

/-- What a block or an instant adds: its span in ns, the flags it hands on, whether the span counts as covered, the sum of v·i, the squares of IA, IB, IC and IN, instants sealed and usable. -/
structure MetAdd where
  dur : Nat
  flags : Nat
  ok : Bool
  svi : Int
  sq : List Int
  sealed : Nat
  usable : Nat

/-- An addition scaled by the METER record (R321): energy by its sign, squared currents. -/
def MetOpen.add (o : MetOpen) (r : List Byte) (a : MetAdd) : MetOpen :=
  let p := rdivI (a.svi * mrMe r) (2 ^ mrSe r)
  let q (c : Nat) : Nat := (rdivI (a.sq.getD c 0 * (mrMq r c : Int)) (2 ^ mrSq r)).toNat
  { o with flags := Nat.lor o.flags a.flags, covNs := if a.ok then o.covNs + a.dur else o.covNs, sealed := o.sealed + a.sealed, usable := o.usable + a.usable,
           eImp := if 0 ≤ p then (o.eImp + p.toNat) % 2 ^ 64 else o.eImp, eExp := if p < 0 then (o.eExp + p.natAbs) % 2 ^ 64 else o.eExp,
           q := (List.range 4).map (fun c => (o.q.getD c 0 + q c) % 2 ^ 64) }

/-- The part of an addition before a time `d` ns into it; each sum is split with round_div (R324). -/
def MetAdd.cut (a : MetAdd) (d : Nat) : MetAdd :=
  { a with dur := d, svi := rdivI (a.svi * (d : Int)) a.dur, sq := a.sq.map (fun x => rdivI (x * (d : Int)) a.dur) }

/-- What is left of an addition after a first part, so that nothing is lost. -/
def MetAdd.rest (a b : MetAdd) : MetAdd :=
  { a with dur := a.dur - b.dur, svi := a.svi - b.svi, sq := (List.range 4).map (fun c => a.sq.getD c 0 - b.sq.getD c 0), sealed := a.sealed - b.sealed, usable := a.usable - b.usable }

/-- The open interval put among those that wait to be written, and a new one from its end on. -/
def MetBay.shut (b : MetBay) (end_ : Nat) : MetBay := { b with done := b.done ++ [(b.open_, end_)], open_ := MetOpen.at_ end_ }

/-- The lifetime totals take what an interval gained (R337). -/
def MetBay.gain (b : MetBay) (o : MetOpen) : MetBay :=
  { b with open_ := o, lifeImp := b.lifeImp + (o.eImp + 2 ^ 64 - b.open_.eImp) % 2 ^ 64, lifeExp := b.lifeExp + (o.eExp + 2 ^ 64 - b.open_.eExp) % 2 ^ 64 }

/-- An addition that starts at `t` ns, split at every boundary it spans (R324). -/
def metAdd (s : State) : Nat → MetBay → Nat → MetAdd → MetBay
  | 0, b, _, a => b.gain (b.open_.add b.recd a)
  | n + 1, b, t, a =>
    let e := metBoundary s b.open_.start
    if e ≤ t then metAdd s n (b.shut e) t a
    else if t + a.dur < e then b.gain (b.open_.add b.recd a)
    else
      let x := a.cut (e - t)
      let b1 := (b.gain (b.open_.add b.recd x)).shut e
      let y := a.rest x
      if y.dur = 0 then b1 else metAdd s n b1 e y

/-- The number of boundaries that an addition may meet, as fuel. -/
def metFuel (s : State) (b : MetBay) (t : Nat) : Nat := t / 10 ^ 9 / metLen s - b.open_.start / 10 ^ 9 / metLen s + 4

/-! ### The bypass signature (R336) -/

/-- Whether a unit qualifies and whether it lies outside the band: from the summed squares of IA, IB, IC and IN in 2^-20 A²·s and the duration in ns. Square roots are taken to 2^-20 of their unit. -/
def sigUnit (r : List Byte) (q : List Nat) (dur : Nat) : Bool × Bool :=
  let x (c : Nat) : Nat := q.getD c 0
  let g (i j : Nat) : Nat := Nat.sqrt (x i * x j * 2 ^ 40)
  let e2 : Nat := (x 0 + x 1 + x 2) * 2 ^ 20 - (g 0 1 + g 1 2 + g 2 0)
  let min := field r 60 2
  let ok := decide (0 < e2) && decide (min * min * 2 ^ 40 * dur ≤ e2 * 100 * 10 ^ 9)
  let n2 := x 3 * 2 ^ 20 * 10 ^ 6
  (ok, ok && (decide (n2 < field r 56 2 * field r 56 2 * e2) || decide (field r 58 2 * field r 58 2 * e2 < n2)))

/-- A signature unit counted in the open interval. -/
def MetBay.sign (b : MetBay) (q : List Nat) (dur : Nat) : MetBay :=
  if bitOf (field b.recd 3 1) 0 && decide (0 < dur) then
    let u := sigUnit b.recd q dur
    { b with open_ := { b.open_ with sqn := b.open_.sqn + b2n u.1, sout := b.open_.sout + b2n u.2 } }
  else b

/-- The squared currents of a scaled addition. -/
def scaledQ (r : List Byte) (sq : List Int) : List Nat := (List.range 4).map (fun c => (rdivI (sq.getD c 0 * (mrMq r c : Int)) (2 ^ mrSq r)).toNat)

/-! ### Local bays (R321) -/

/-- The flags that an interval takes from a block: SATURATED, GAP, FREE_RUN and REF_FAULT (R325, R329). -/
def metFlags (f : Nat) : Nat := 16 * b2n (bitOf f 0) + 32 * b2n (bitOf f 1) + 64 * b2n (bitOf f 2) + 128 * b2n (bitOf f 4)

/-- The tracker of a local metered bay: that of the current channel of its phase-A pair. -/
def metTrk (s : State) (r : List Byte) : Nat := trkOf s (fld s (R.afePairCfg (mrPair r 0)) 4 0)

/-- What a cycle block adds to a bay; a block with TIME_STEP has no span (R112). -/
def blockAdd (s : State) (r : List Byte) (k : CycleBlock) : MetAdd :=
  let svi (p : Nat) : Int := match k.pairs.find? (fun x => x.pair = mrPair r p) with | some x => x.svi | none => 0
  let sxx (c : Nat) : Int := match k.chans.find? (fun x => x.ch = c) with | some x => x.sxx | none => 0
  let iCh (p : Nat) : Nat := fld s (R.afePairCfg (mrPair r p)) 4 0
  { dur := k.durNs, flags := metFlags k.flags, ok := !(bitOf k.flags 1 || bitOf k.flags 3 || bitOf k.flags 4),
    svi := svi 0 + svi 1 + svi 2, sq := [sxx (iCh 0), sxx (iCh 1), sxx (iCh 2), if mrIn r = 0xFF then 0 else sxx (mrIn r)], sealed := 0, usable := 0 }

/-- A local metered bay takes a block. -/
def metBlock (s : State) (n : Nat) (k : CycleBlock) : State :=
  match metBay? s n with
  | some b =>
    if mrSv b.recd ∨ metTrk s b.recd ≠ k.trk then s
    else
      let a := blockAdd s b.recd k
      let t := if bitOf k.flags 3 then b.open_.start else k.startNs
      let b1 := b.sign (scaledQ b.recd a.sq) (if mrIn b.recd = 0xFF then 0 else a.dur)
      setMet s n (metAdd s (metFuel s b1 (t + a.dur)) b1 t a)
  | none => s

/-! ### SV bays (R322) -/

/-- The seven tap values of an instant: IA, IB, IC, IN, VA, VB, VC, or none when one of them is not usable. An unmapped neutral counts 0; an unmapped phase leaves the instant uncovered. -/
def svTaps (b : Bay) (z : Sealed) : Option (List Int) :=
  let one (c : Nat) : Option Int :=
    if (mappedOf b.recd).contains c then
      match b.slot.word? c (z.taps.getD c 0) with
      | some w => if qHas w.q.toNat qVALID && !qHas w.q.toNat qSETTLING then some w.value else none
      | none => none
    else if c = 3 then some 0 else none
  (List.range 7).mapM one

/-- A signature second of an SV bay ends: its instants are one unit. -/
def svSecondEnd (b : MetBay) (hasIn : Bool) (rate : Nat) : MetBay :=
  let (_, cnt, q) := b.sec
  if hasIn then b.sign q (rdivN (cnt * 10 ^ 9) rate) else b

/-- A sealed instant of an SV metered bay (R322, R336). -/
def metInstant (s : State) (n : Nat) : State :=
  match metBay? s n, bay? s n with
  | some m, some b =>
    match b.slot.queue.head? with
    | none => s
    | some z =>
      if !mrSv m.recd || !metRuns? s then s
      else
        let vs := svTaps b z
        let v (c : Nat) : Int := (vs.getD []).getD c 0
        let a : MetAdd := { dur := 0, flags := 0, ok := false, svi := v 0 * v 4 + v 1 * v 5 + v 2 * v 6, sq := (List.range 4).map (fun c => v c * v c), sealed := 1,
                            usable := b2n vs.isSome }
        let hasIn := (mappedOf b.recd).contains 3
        let m1 := if m.sec.1 = z.at_.sec then m else { svSecondEnd m hasIn b.rate with sec := (z.at_.sec, 0, [0, 0, 0, 0]) }
        let (sec, cnt, q) := m1.sec
        let m2 := if vs.isSome then { m1 with sec := (sec, cnt + 1, (List.range 4).map (fun c => q.getD c 0 + (scaledQ m.recd a.sq).getD c 0)) } else m1
        let t := z.at_.inst b.rate / nsI
        setMet s n (metAdd s (metFuel s m2 t) m2 t a)
  | _, _ => s

/-! ### Judging (R333 to R335) -/

/-- The technical-loss estimate, the residual and r of a record (R333). -/
def metLoss (r : List Byte) (x : MetRec) : MetRec :=
  let q (c : Nat) : Nat := x.q.getD c 0
  let lt : Nat := rdivN (field r 44 2 * (field r 32 4 * (q 0 + q 1 + q 2) + field r 36 4 * q 3)) (10 ^ 6) + field r 40 4 * x.dur * 2 ^ 20
  let nt : Int := (x.eImp : Int) - x.eExp - x.eds - lt
  { x with lt := lt, nt := nt, r := if x.eImp = 0 then 0 else rdivI (nt * 10 ^ 6) x.eImp }

/-- A flag of an interval record. -/
def MetRec.has (x : MetRec) (i : Nat) : Bool := bitOf x.flags i

/-- A record judged (R333, R334). -/
def metJudge (s : State) (r : List Byte) (x0 : MetRec) : MetRec :=
  let x := metLoss r x0
  let partial_ := decide (x.rcv < x.exp)
  let cov := decide ((1000 - fld s R.metJudgeCfg 23 16) * 65536 ≤ x.cov * 1000)
  let judged := !x.has 0 && cov && (!partial_ || bitOf (field r 3 1) 1)
  let active := judged && decide ((field r 46 2 : Int) * 100 ≤ x.r) && decide ((field r 52 4 : Int) * 3600 * 2 ^ 20 ≤ x.nt)
  let keep := maskOf 16 (fun i => x.has i && !([10, 11, 12] : List Nat).contains i)
  { x with flags := keep + 2 ^ 10 * b2n partial_ + 2 ^ 11 * b2n judged + 2 ^ 12 * b2n active }

/-- The mean of a list, rounded; 0 of none. -/
def meanI (l : List Int) : Int := if l.isEmpty then 0 else rdivI (sumI l) l.length

/-- MET_NT_ALARMi, MET_BYPASSi and the counts of MET_STAT brought up to date. -/
def showMet (s : State) : State :=
  let al := (s.met.bays.filter (fun p => p.2.alarm)).map Prod.fst
  let by_ := (s.met.bays.filter (fun p => p.2.bypass)).map Prod.fst
  let s1 := (List.range 4).foldl (fun st i =>
    regSet (regSet st (R.metNtAlarm i) (maskOf 32 (fun j => al.contains (32 * i + j)))) (R.metBypass i) (maskOf 32 (fun j => by_.contains (32 * i + j)))) s
  fldSet (fldSet s1 R.metStat 31 24 al.length) R.metStat 23 16 by_.length

/-- A record put among others, newest start first. -/
def insertRec (x : MetRec) : List MetRec → List MetRec
  | [] => [x]
  | y :: l => if y.start ≤ x.start then x :: y :: l else y :: insertRec x l

/-- The judged intervals of a bay, newest start first. -/
def MetBay.judged (b : MetBay) : List MetRec := ((b.held.map MetHeld.rec_).filter (fun x => x.has 11)).foldr insertRec []

/-- The alarm and the step condition of a bay evaluated over its judged intervals (R335). -/
def metAlarm (s : State) (n : Nat) : State :=
  match metBay? s n with
  | none => s
  | some b =>
    let js := b.judged
    let r := b.recd
    let act := ((js.take (field r 49 1)).filter (fun x => x.has 12)).length
    let quiet := decide (field r 50 1 ≤ js.length) && (js.take (field r 50 1)).all (fun x => !x.has 12)
    let alarm := decide (field r 48 1 ≤ act) || (b.alarm && !quiet)
    let rest := (js.drop 4).take 92
    let rs := meanI ((js.take 4).map MetRec.r)
    let rl := meanI (rest.map MetRec.r)
    let step := decide (16 ≤ rest.length) && decide ((field r 51 1 : Int) * 1000 ≤ rs - rl)
    let s1 := showMet (setMet s n { b with alarm := alarm, step := step })
    let s2 := if alarm && !b.alarm then raise 0x0F02 s1 (bay := n) else if b.alarm && !alarm then raise 0x0F03 s1 (bay := n) else s1
    if step && !b.step then raise 0x0F04 s2 (bay := n) (items := [(4, ofSigned 32 rs), (4, ofSigned 32 rl)]) else s2

/-- r_short and r_long written into the record of a post. -/
def metShort (b : MetBay) (start : Nat) : MetBay :=
  let js := b.judged
  let rs := meanI ((js.take 4).map MetRec.r)
  let rl := meanI (((js.drop 4).take 92).map MetRec.r)
  { b with held := b.held.map (fun h => if h.rec_.start = start then { h with rec_ := { h.rec_ with rShort := rs, rLong := rl } } else h) }

/-! ### Closing (R324 to R327, R336) -/

/-- Whether an interval carries BYPASS (R336). -/
def MetOpen.bypass (o : MetOpen) (r : List Byte) : Bool := decide (100 ≤ o.sqn) && decide (field r 62 1 * o.sqn ≤ o.sout * 100)

/-- The record of an interval at its end (R325, R329). -/
def metRecord (s : State) (n : Nat) (r : List Byte) (o : MetOpen) (end_ : Nat) : MetRec :=
  let ns := end_ - o.start
  let cov := if mrSv r then (if o.sealed = 0 then 0 else rdivN (o.usable * 65536) o.sealed) else if ns = 0 then 0 else capN 65536 (rdivN (o.covNs * 65536) ns)
  let test := decide (s.dev.mode = .commission) || decide (s.dev.mode = .test)
  { bay := n, flags := Nat.lor o.flags (b2n test + 256 * b2n (mrSv r) + 2 ^ 13 * b2n (o.bypass r)), cov := cov, start := o.start / 10 ^ 9, dur := rdivN ns (10 ^ 9),
    eImp := o.eImp, eExp := o.eExp, q := o.q, eds := 0, lt := 0, nt := 0, r := 0, exp := 0, rcv := 0, sqn := o.sqn, sout := o.sout, rShort := 0, rLong := 0 }

/-- A closed interval written: the newest 96 are held, INTERVAL_CLOSED, the BYPASS bit, and BYPASS_SIGN when the interval before did not carry BYPASS (R324, R329, R336). -/
def metWrite (s : State) (n : Nat) (x : MetRec) (end_ : Nat) : State :=
  match metBay? s n with
  | none => s
  | some b =>
    let by_ := if x.has 13 then true else if 100 ≤ x.sqn then false else b.bypass
    let b1 := { b with held := (⟨x, s.dev.ticks, false⟩ :: b.held).take 96, lastClose := end_ / 10 ^ 9, bypass := by_ }
    let s1 := raise 0x0F01 (showMet (setMet s n b1)) (bay := n) (items := [(8, x.start), (2, x.flags)])
    let before := match b.held.head? with | some h => h.rec_.has 13 | none => false
    if x.has 13 && !before then raise 0x0F05 s1 (bay := n) else s1

/-- Every interval that waits written in order. -/
def metClose (s : State) (n : Nat) : State :=
  match metBay? s n with
  | none => s
  | some b => b.done.foldl (fun st p => metWrite st n (metRecord st n b.recd p.1 p.2) p.2) (setMet s n { b with done := [] })

/-- An Almanac step closes the open interval of a bay at the step (R326); `t` and `u` are the old and the new time in ns. -/
def metStep (s : State) (t u : Nat) : State :=
  if !metRuns? s then { s with met := { s.met with bays := s.met.bays.map (fun p => (p.1, { p.2 with open_ := { p.2.open_ with start := u } })) } }
  else
    (s.met.bays.map Prod.fst).foldl (fun st n =>
      metClose (modMet st n (fun b => { ({ b with open_ := { b.open_ with flags := Nat.lor b.open_.flags 2 } } : MetBay).shut t with open_ := MetOpen.at_ u })) n) s

/-! ### Bytes (R329, R338) -/

/-- The 128 bytes of an interval record. -/
def MetRec.bytes (x : MetRec) : List Byte :=
  leBytes 2 x.bay ++ leBytes 2 x.flags ++ leBytes 4 x.cov ++ leBytes 8 x.start ++ leBytes 4 x.dur ++ leBytes 4 0 ++ leBytes 8 x.eImp ++ leBytes 8 x.eExp
    ++ (List.range 4).flatMap (fun c => leBytes 8 (x.q.getD c 0)) ++ leBytes 8 x.eds ++ leBytes 8 (ofSigned 64 x.lt) ++ leBytes 8 (ofSigned 64 x.nt)
    ++ leBytes 4 (ofSigned 32 x.r) ++ leBytes 4 x.exp ++ leBytes 4 x.rcv ++ leBytes 4 x.sqn ++ leBytes 4 x.sout ++ leBytes 4 (ofSigned 32 x.rShort)
    ++ leBytes 4 (ofSigned 32 x.rLong) ++ leBytes 4 0

/-- The open interval in the layout of a record, up to now. -/
def metOpenBytes (s : State) (n : Nat) (b : MetBay) : List Byte := (metRecord s n b.recd b.open_ (now s / nsI)).bytes

/-- The lifetime totals (R338). -/
def metLifeBytes (b : MetBay) : List Byte := leBytes 8 (b.lifeImp / 2 ^ 20) ++ leBytes 8 (b.lifeExp / 2 ^ 20) ++ leBytes 8 b.lastClose ++ leBytes 40 0

/-! ### The outage (R327, R545) -/

/-- The boundaries between two instants in ns, at most `n` of them. -/
def metBounds (s : State) : Nat → Nat → Nat → List Nat
  | 0, _, _ => []
  | n + 1, t, u => let e := metBoundary s t; if e ≤ u then e :: metBounds s n e u else []

/-- A bay's interval that was open at the power failure closed at its boundary, or now when that has not come, and an empty record for each later boundary (R327); the instants that the outage kept from being sealed count as not usable; the next interval begins at the last of these. -/
def metRestore (s : State) (n : Nat) (o : MetOpen) (lifeImp lifeExp : Nat) : State :=
  match metBay? s n with
  | none => s
  | some b =>
    let nw := now s / nsI
    let bs := metBounds s (metFuel s { b with open_ := o } nw) o.start nw
    let e := bs.headD (if o.start < nw then nw else o.start)
    let s1 := setMet s n { b with lifeImp := lifeImp, lifeExp := lifeExp }
    let rate := match bay? s n with | some y => y.rate | none => 14400
    let o1 := { o with flags := Nat.lor o.flags 4, sealed := rdivN ((e - o.start) * rate) (10 ^ 9) }
    let s2 := metWrite s1 n (metRecord s1 n b.recd o1 e) e
    let s3 := (bs.zip (bs.drop 1)).foldl (fun st p => metWrite st n { metRecord st n b.recd { MetOpen.at_ p.1 with flags := 8 } p.2 with cov := 0 } p.2) s2
    modMet s3 n (fun x => { x with open_ := MetOpen.at_ (if bs.isEmpty then nw else bs.getLastD nw) })

end Sys2Proof.Machine
end

