-- ==== Sys2Proof/Machine/Modes.lean ====
section
/-! DEFINITION. Operating modes: transitions, SAFE, the resolution of SERVICE, the rebuild after TEST, entry to BOOT, and samples of the part staged into the slots (R25 to R36, R470, R535, R549, R572, R605). -/

namespace Sys2Proof.Machine

/-! ### Local samples into the slots (R162, R168, R455) -/

/-- The bay channels that take the outputs of an input at a rate: local ones, SV ones on their fallback, and SV ones that change back from it. -/
def localTargets (s : State) (ch : Nat) (s4 : Bool) : List (Nat × Nat) :=
  s.bays.flatMap (fun (n, b) => (List.range 8).filterMap (fun c =>
    let m := brMap b.recd c
    let own := mapKind m = 1 ∧ mapAin m = ch
    let back := mapKind m = 2 ∧ mapAin m = ch ∧ (b.slot.src.getD c 0 = 3 ∨ (tget? b.slot.sw c).isSome)
    if brSlow b.recd = s4 ∧ (own ∨ back) then some (n, c) else none))

/-- The instant of a grid nearest to a tag, counted from the PTP epoch. -/
def nearInst (rate : Nat) (t : QInst) : Nat := rdivN (t * rate) secQ

/-- A word of an input staged on every bay channel that takes it and holds none for its instant or a later one. -/
def stageLocal (s : State) (ch : Nat) (s4 : Bool) (w : SampleWord) : State :=
  (localTargets s ch s4).foldl (fun st p =>
    match bay? st p.1 with
    | some b => if nearInst b.rate (b.slot.lastTag p.2) < nearInst b.rate w.at_ then (if chSrc st p.1 p.2 = 2 then stageOld st p.1 p.2 w else stageNew st p.1 p.2 w) else st
    | none => st) s

/-- The standby changes to its own samples and BIN levels (R455): own outputs held aside are staged from the first that no mirrored word came for. -/
def useOwn (s : State) : State :=
  let s1 := setMir s (fun m => { m with inUse := false, binsMir := false, since := none, aside := [] })
  s.mir.aside.foldl (fun st p => p.2.reverse.foldl (fun x w => stageLocal x (p.1 / 2) (p.1 % 2 = 1) w.1) st) s1

/-! ### Debug grants (R535) -/

/-- A grant ends: DEBUG_LOCKED with its cause (0 its time, 1 a transition, 2 DEBUG_UNLOCK), and an attached cell is detached under R443. -/
def endGrant (s : State) (cause : Nat) : State :=
  match s.sec.grant with
  | none => s
  | some _ =>
    let req := match s.cfg.dbgCell with | some c => some (false, c) | none => none
    let s1 := { s with sec := { s.sec with grant := none }, cfg := { s.cfg with dbgReq := req } }
    raise 0x0E06 (showDbg s1) (items := [(1, cause)])

/-- Leaving TEST ends an attach, and one that still waits for its boundary (R443). -/
def leaveTest (s : State) : State :=
  if s.dev.mode = .test then showDbg { s with cfg := { s.cfg with dbgReq := s.cfg.dbgCell.map (fun c => (false, c)) } } else s

/-! ### Transitions (R27, R30, R33, R34, R508, R572) -/

/-- A mode entered at an instant: MODE_CHANGED, the MODE log entry, dto_en cleared in COMMISSION and TEST, HEALTH.degraded on entry to SERVICE or VIGIL, a debug grant ended, the pins. -/
def enterMode (s0 : State) (m : Mode) (at_ : Inst) : State :=
  let s := leaveTest s0
  let old := s.dev.mode
  let clr := decide (m = .commission) || decide (m = .test)
  let d : Dev := { s.dev with mode := m, prev := old, since := at_, pend := none, dtoEn := s.dev.dtoEn && !clr, dtoActive := s.dev.dtoActive && !clr,
                              dtoAt := if clr then none else s.dev.dtoAt }
  let s1 := appendLog (raise 0x0101 { s with dev := d } (items := [(1, old.code), (1, m.code)]) (att := some (attAt s at_))) 3 0 (old.code * 256 + m.code) 0
  let s2 := if (m = .service ∨ m = .vigil) ∧ s1.pwr.causes ≠ 0 ∧ !s1.pwr.degraded then raise 0x0203 { s1 with pwr := { s1.pwr with degraded := true } } else s1
  let s3 := if m = .service ∨ m = .vigil ∨ m = .safe then endGrant s2 1 else s2
  let s4 := if paired s3 ∧ m = .service ∧ (old = .boot ∨ old = .commission) then setEpoch s3 ((at_ / secI) % 2 ^ 15) else s3
  mirShow (dtoAll s4)

/-! ### The pair's state across transitions (R464, R473 to R475) -/

/-- A partner report within the last 3 ms, by heartbeat or beacon. -/
def partnerFresh (s : State) : Bool :=
  let seen (t : Option Ticks) : Bool := match t with | some x => decide (s.dev.ticks ≤ x + 3 * msT) | none => false
  seen s.mir.lastHb || seen s.mir.lastBcn

/-- The mode that a request for SERVICE resolves to (R470). -/
def resolveService (s : State) : Mode :=
  match paired s && partnerFresh s, s.mir.partner with
  | true, some p => if p.mode = 2 ∨ (isUnitB s ∧ bitOf p.flags 1) then .vigil else .service
  | _, _ => .service

/-- A resynchronisation ends without success: the bays under way are dropped and MIR_SYNC completes with ABORTED. -/
def stopResync (s : State) : State :=
  let cids := (match s.mir.full with | some f => f.cid.toList | none => []) ++ s.mir.one.flatMap Prod.snd
  let s1 := setMir s (fun m => { m with full := none, one := [], brs := [], retry := [] })
  cids.foldl (fun st c => complete st c stAborted Att.zero) s1

/-- A waiting MIR_ROLE ends with a status. -/
def endRole (s : State) (status : Nat) (att : Att) : State :=
  match s.mir.role with
  | some r =>
    let s1 := { s with mir := { s.mir with role := none } }
    (match r.cid with | some c => complete s1 c status att | none => s1)
  | none => s

/-- What the pair logic lets go of when the unit leaves SERVICE and VIGIL, or enters VIGIL anew: resynchronisation, a hand-over, a takeover, mirrored samples. -/
def pairLetGo (s : State) : State :=
  if !paired s then s
  else
    let s1 := endRole (stopResync s) stAborted Att.zero
    useOwn (setMir s1 (fun m => { m with takeover := none, hand := none, contention := none, synced := [], syncSince := none, iso := false, matched := false, irOut := [] }))

/-- A transition to SERVICE, VIGIL or out of them, with the pair state it begins in (R457, R470). -/
def changeMode (s : State) (m : Mode) (at_ : Inst) : State :=
  let s1 := enterMode (pairLetGo s) m at_
  if paired s1 then setMir (flagSet s1 R.mirStat 23 false) (fun x => { x with pstate := if m = .vigil then 2 else 1, syncSince := some s1.dev.ticks }) else s1

/-! ### SAFE (R31, R549) -/

/-- SAFE entered on a condition, at once: a pending MODE_SET completes with ABORTED; nothing changes in BOOT, and in SAFE only the last cause. -/
def enterSafe (s : State) (cause : Nat) : State :=
  let keep := { s with pwr := { s.pwr with safeCause := cause } }
  match s.dev.mode with
  | .boot => s
  | .safe => keep
  | _ =>
    let s1 := match s.dev.pend with | some p => complete keep p.cid stAborted Att.zero | none => keep
    raise 0x0102 (changeMode s1 .safe (now s)) (items := [(1, cause)])

/-- Whether a SAFE cause persists (R549). -/
def safePersists (s : State) : Bool :=
  s.pwr.temps.any (fun p => decide (145 * 16 ≤ p.2)) || s.pwr.railFault.any (fun p => decide (s.dev.ticks < p.2 + secT))
    || (match s.pwr.pllLost with | some t => decide (s.dev.ticks < t + secT) | none => false) || !s.pwr.d2dOk

/-- A SAFE condition that stands when a mode other than SAFE is entered enters SAFE then (R31, R549). -/
def safeAgain (s : State) : State :=
  if s.dev.mode = .safe then s else if s.pwr.temps.any (fun p => decide (155 * 16 ≤ p.2)) then enterSafe s 2 else if !s.pwr.d2dOk then enterSafe s 5 else s

/-! ### The rebuild of a bay (R207, R605) -/

/-- A bay rebuilt from an image on a group: started at its first evaluation instant when it runs. Cupola treats a restarted bay as after a stop, with the stop word's line last (R359), and its statistics begin anew; no BAY_STOPPED is raised. DESIGN CHOICE (log entry 91): requests that wait on the bay (start, stop, settings switch, target reset) are dropped. -/
def rebuildBay (s : State) (sch : Scheme) (n g : Nat) (run : Bool) (at_ : Inst) : State :=
  match sch.bay? n with
  | none => s
  | some r =>
    let s1 := match run, bay? s n with
      | true, some b =>
        let e := evalFrom b.rate at_
        drainLines (if b.runs then queueLine s n (stopLine b e (e.att s b.rate) (stopWord b.ctx.word)) else s) n
      | _, _ => s
    let s2 := setReqs { s1 with cfg := { s1.cfg with tasks := terase s1.cfg.tasks n } } n []
    let b := bayFrom s2 sch n r g
    let s3 := showOut (setBay s2 n b) n 0
    if run then startBay s3 n (evalFrom (brRate r) at_) else showBay s3 n

/-- The transition from TEST to COMMISSION (R605): every bay rebuilt on the group that R192 names. -/
def rebuildAll (s : State) (at_ : Inst) : State :=
  match s.scheme with
  | none => s
  | some sch =>
    let s1 := (s.cfg.migs.filter (fun m => m.cause = .command ∨ m.cause = .rotation)).foldl dropMig s
    let moved := s1.bays.filter (fun p => decide (p.2.grp ≠ brGroup p.2.recd))
    let s2 := moved.foldl (fun st p => leaveGroup st p.2.grp false) s1
    let s3 := s2.bays.foldl (fun st p => rebuildBay st sch p.1 (brGroup p.2.recd) p.2.runs at_) s2
    cfgKick (showLks (showSpares (showRunning (dtoAll s3))))

/-- The effect of an accepted MODE_SET (R30, R605); SERVICE is resolved as on leaving BOOT (R27). -/
def modeEffect (s : State) (p : ModeChange) : State :=
  let s1 := { s with dev := { s.dev with pend := none } }
  let s2 := if p.target = .safe then
      raise 0x0102 (changeMode { s1 with pwr := { s1.pwr with safeCause := 1 } } .safe p.at_) (items := [(1, 1)])
    else
      let old := s.dev.mode
      let s3 := changeMode s1 (if p.target = .service then resolveService s1 else p.target) p.at_
      if old = .test ∧ p.target = .commission then rebuildAll s3 p.at_ else s3
  safeAgain (complete s2 p.cid stOk (attAt s2 p.at_))

/-! ### Entry to BOOT (R27, R565) -/

/-- Entry to BOOT: everything but OTP, flash, the ordering code, the pins, host memory and the queue takes its reset value. MODE_CHANGED is raised where another mode was left (R27, R33); the host island's rings are gone, so it is held. -/
def enterBoot (s : State) : State :=
  let d : Dev := { Dev.reset with part7264 := s.dev.part7264, ticks := s.dev.ticks, free := s.dev.free }
  let h := Hif.reset s.otp.unitId s.dev.ticks
  let r : State := { State.reset with
    dev := d, otp := s.otp, flash := s.flash, hostMem := s.hostMem, pending := s.pending,
    hif := { h with perst := s.hif.perst, linkUp := !s.hif.perst },
    pwr := { Pwr.reset with resetLow := s.pwr.resetLow, failLow := s.pwr.failLow, temps := s.pwr.temps },
    sec := { Sec.reset with bootTick := s.dev.ticks } }
  if s.dev.mode = .boot then r else raise 0x0101 r (items := [(1, s.dev.mode.code), (1, 0)])

end Sys2Proof.Machine
end

