-- ==== Sys2Proof/Machine/PrepOps.lean ====
section
/-! DEFINITION. What reads the incremental-rate and interleaved outputs: the IR and HR rings, the windows of live records, and the wavefront preprocessor (R129, R278 to R280, R344, R354). -/

namespace Sys2Proof.Machine

/-- A word put into a ring of `size` entries. -/
def IrRing.put (x : IrRing) (size : Nat) (w : SampleWord) : IrRing := ⟨x.n + 1, tset x.w (x.n % size) w⟩

/-- A filter output as a sample word: IR and HR values stand in the upper 24 bits (R13, R130). -/
def FltOut.word (o : FltOut) (ch : Nat) : SampleWord := ⟨if o.stage ≤ 1 then o.v * 256 else o.v, BitVec.ofNat 16 o.q, ch, o.tag⟩

/-- A word that lies in the window of a live record is kept in it (R354). -/
def windowWord (s : State) (hr : Bool) (chansOf : List Byte → List (Nat × Nat)) (key : Nat) (w : SampleWord) : State :=
  let one (r : CupRec) : CupRec :=
    match cupBay? s r.bay, bay? s r.bay with
    | some cb, some b =>
      if r.final && r.st.live && bitOf (field cb.recd 3 1) (if hr then 1 else 0)
          && (if hr then inWindow 4147200 0 r.t0 (field cb.recd 20 1) (field cb.recd 21 1) w
              else inWindow 1036800 (skewOf s key) r.t0 (field cb.recd 18 1) (field cb.recd 19 1) w) then
        ((chansOf b.recd).filter (fun p => p.2 = key)).foldl (fun x p =>
          if hr then { x with hr := tset x.hr p.1 (w :: tget [] x.hr p.1) } else { x with ir := tset x.ir p.1 (w :: tget [] x.ir p.1) }) r
      else r
    | _, _ => r
  { s with cup := { s.cup with recs := s.cup.recs.map one } }

/-- An IR output taken by the preprocessors and the records (R279, R344). -/
def irPush (s : State) (ch : Nat) (w : SampleWord) : State :=
  windowWord { s with prep := { s.prep with ir := tset s.prep.ir ch ((tget ⟨0, []⟩ s.prep.ir ch).put 41472 w) } } false localChans ch w

/-! ### Wavefronts (R280) -/

/-- The wavefront at the middle of three differences of a mode, when its magnitude is a local maximum at or above the threshold: `k` is 3 for α (three times the mode) and 1 for √3 times β, whose square carries the 3. -/
def frontAt (beta : Bool) (thr : Nat) (d0 d1 d2 : Int) (tag : QInst) : Option Front :=
  let y0 := d0.natAbs
  let y1 := d1.natAbs
  let y2 := d2.natAbs
  let lim := thr * 2 ^ 24
  let big := if beta then decide (3 * lim ^ 2 ≤ (1000 * y1) ^ 2) else decide (3 * lim ≤ 1000 * y1)
  if big ∧ y0 < y1 ∧ y2 ≤ y1 then
    let den := 2 * (2 * y1 - y0 - y2) * 4147200
    some ⟨beta, ((tag : Int) + rdivI (((y2 : Int) - y0) * 4000000000) den).toNat, decide (0 < d1)⟩
  else none

/-- The modes of one merged instant taken by a bay's preprocessor. -/
def TwPrep.modesAt (x : TwPrep) (thr : Nat) (t : QInst) (a3 b : Int) : TwPrep :=
  match x.modes with
  | none => { x with modes := some (t, a3, b), first := some t, diffs := [] }
  | some (_, pa, pb) =>
    let d := (t, a3 - pa, b - pb)
    let new := match x.diffs with
      | (t1, da1, db1) :: (_, da0, db0) :: _ => (frontAt false thr da0 da1 d.2.1 t1).toList ++ (frontAt true thr db0 db1 d.2.2 t1).toList
      | _ => []
    let fs := (new ++ x.fronts).filter (fun f => decide (t ≤ f.t + 40000000))
    { x with modes := some (t, a3, b), diffs := (d :: x.diffs).take 2, fronts := fs.take 64 }

/-- A merged sample of phase `p` taken by a bay's preprocessor; the modes are formed once the three currents hold a sample of one tag. -/
def TwPrep.take (x : TwPrep) (thr p : Nat) (t : QInst) (v : Int) (ok : Bool) : TwPrep :=
  let x1 := { x with cur := tset x.cur p (((t, v, ok) :: tget [] x.cur p).take 64) }
  match (List.range 3).map (fun i => (tget [] x1.cur i).find? (fun e => e.1 = t)) with
  | [some a, some b, some c] =>
    if a.2.2 && b.2.2 && c.2.2 then x1.modesAt thr t (2 * a.2.1 - b.2.1 - c.2.1) (b.2.1 - c.2.1) else { x1 with modes := none, first := none, diffs := [] }
  | _ => x1

/-- The TW_LOC settings block of a bay in its active group, when it has one. -/
def twBlock? (b : Bay) : Option (List Byte) :=
  (b.els.find? (fun r => erType r = 0x15)).bind (fun r => sgBlock (b.setOf b.ctx.sg) (erSlot r))

/-- A merged sample of a pair taken by the HR ring, the records and the wavefront preprocessors (R129, R280, R344). -/
def hrPush (s : State) (pair : Nat) (w : SampleWord) : State :=
  let s1 := windowWord { s with cup := { s.cup with hr := tset s.cup.hr pair ((tget ⟨0, []⟩ s.cup.hr pair).put 82944 w) } } true (hrChans s) pair w
  s1.bays.foldl (fun st p =>
    match twBlock? p.2 with
    | none => st
    | some blk =>
      let k := p.2.ctx.const
      let ps := (hrChans st p.2.recd).filter (fun c => decide (c.2 = pair) && decide (c.1 < 3))
      ps.foldl (fun y c =>
        let x := rdivI (w.value * k.mloc.getD c.1 0) (2 ^ k.sloc.getD c.1 1)
        let ok := qHas w.q.toNat qVALID && !qHas w.q.toNat qSETTLING
        { y with prep := { y.prep with tw := tset y.prep.tw p.1 ((tget ⟨[], none, none, [], []⟩ y.prep.tw p.1).take (field blk 12 4) c.1 w.at_ x ok) } }) st) s1

end Sys2Proof.Machine
end

