-- ==== Sys2Proof/Machine/BayReq.lean ====
section
/-! DEFINITION. Requests for a bay with an effect instant, as commands, scheduled actions and the mirror link make them (R200, R302 to R306, R459). -/

namespace Sys2Proof.Machine

/-- The run state of a bay changed (R289). -/
def setRun (s : State) (n v : Nat) : State := modBay s n (fun b => { b with ctx := { b.ctx with run := v } })

/-- Whether a request of a kind is pending. -/
def pendReq (s : State) (n : Nat) (p : BayReqKind → Bool) : Bool := (reqsOf s n).any (fun r => p r.kind)

/-- A start or stop. -/
def BayReqKind.isRun : BayReqKind → Bool
  | .start => true | .stop => true | _ => false

/-- A switch that waits. -/
def BayReqKind.isSwitch : BayReqKind → Bool
  | .switch _ => true | _ => false

/-- A target reset that waits. -/
def BayReqKind.isReset : BayReqKind → Bool
  | .reset => true | _ => false

/-- A request placed, with the run state that a pending start or stop shows. -/
def putReq (s : State) (n : Nat) (k : BayReqKind) (at_ : EvalAt) (cmd : Bool) : State :=
  let s1 := addReq s n ⟨k, at_, cmd⟩
  match k with
  | .start => setRun s1 n 2
  | .stop => setRun s1 n 3
  | _ => s1

/-- A request placed when it finds the bay in a state that it changes (R459). -/
def putReqIf (s : State) (n : Nat) (k : BayReqKind) (at_ : EvalAt) (cmd : Bool) : State :=
  match bay? s n with
  | none => s
  | some b =>
    let ok := match k with
      | .start => decide (b.ctx.run = 0)
      | .stop => decide (b.ctx.run = 1)
      | .switch g => b.runs && bitOf (brMask b.recd) g
      | _ => true
    if ok then putReq s n k at_ cmd else s

/-- The first evaluation instant of a bay at least 100 µs from now (R200, R302, R303). -/
def bayEffect (s : State) (b : Bay) : EvalAt := evalFrom b.rate (now s + 100 * usI)

/-- The instants at or before now of a bay's grid have come. -/
def instCome (s : State) (b : Bay) (e : EvalAt) : Bool := decide (e.inst b.rate ≤ now s)

end Sys2Proof.Machine
end

