-- ==== Sys2Proof/Machine/MirOps.lean ====
section
/-! DEFINITION. The pair at work: lanes, heartbeats, mirrored samples, snapshots, resynchronisation, takeover, hand-over and contention (R449 to R476). -/

namespace Sys2Proof.Machine

/-! ### The pair's state -/

/-- The pair state changed: the tick is noted, and revert ready ends when SYNCED does (R472). -/
def setPstate (s : State) (v : Nat) : State :=
  if s.mir.pstate = v then s
  else setMir (if v = 3 then s else flagSet s R.mirStat 23 false) (fun m => { m with pstate := v, syncSince := some s.dev.ticks })

/-- A flag byte of the PAIR record: bit 0 mirrors samples, bit 1 BIN levels (R449). -/
def pairFlag (s : State) (i : Nat) : Bool := match pairRec s with | some r => bitOf (field r 5 1) i | none => false

/-- The scheme digest (R450): SHA-256 of the BAY, ELEMENT, SETTINGS, FILTER, SVSUB, GOOSE and RECORD sections in table order. -/
def schemeDigest (s : State) : List Byte :=
  match s.scheme with
  | some c => sha256 ((c.secs.filter (fun x => [2, 3, 4, 5, 6, 8, 9].contains x.ty)).flatMap (fun x => x.recs.flatten))
  | none => List.replicate 32 0

/-- A hand-over ends without a move (R473, R476): the proposer sends HANDOVER_CANCEL, and a MIR_ROLE that waits completes with ABORTED (R474). -/
def cancelHand (s : State) : State :=
  match s.mir.hand with
  | none => s
  | some h =>
    let e := gridAt 14400 h.kh
    let s1 := setMir s (fun m => { m with hand := none })
    let s2 := if h.mine then linkEvent s1 8 0xFFFF ⟨e.1, e.2⟩ [] else s1
    endRole (raise 0x0C0C s2) stAborted Att.zero

/-- A standby becomes ISOLATED (R457, R468). -/
def isolate (s : State) : State :=
  let s1 := setPstate (setMir (cancelHand (stopResync s)) (fun m => { m with iso := true, synced := [], matched := false })) 4
  raise 0x0C02 (useOwn (setEpoch s1 (s1.mir.epochSeen % 2 ^ 15 + 2 ^ 15)))

/-- The pair state follows the link and R450 (R463, R468, R469): a standby is ISOLATED while the link is down or R450 finds an error and no takeover is pending; the active shows pair state 4 as well. -/
def linkCheck (s : State) : State :=
  let ok := linkUp s && !pairBad s
  match s.dev.mode with
  | .vigil => if !ok && s.mir.takeover.isNone && decide (s.mir.pstate ≠ 4) then isolate s else if ok && decide (s.mir.pstate = 4) then setPstate s 2 else s
  | .service => if !ok && (decide (s.mir.pstate = 2) || decide (s.mir.pstate = 3)) then setPstate (cancelHand (stopResync s)) 4 else s
  | _ => s

/-! ### Lanes (R451, R452) -/

/-- Lane `l` changed. -/
def modLane (s : State) (l : Nat) (f : Lane → Lane) : State :=
  setMir s (fun m => m.setLane l (f (lane s l)))

/-- The degraded cause "a mirror lane down" (R452, R556). -/
def laneCause (s : State) : State := setCause s 2 (paired s && !(s.mir.laneA.up && s.mir.laneB.up))

/-- A lane goes down (R452). -/
def laneDown (s : State) (l : Nat) : State :=
  if (lane s l).up then
    linkCheck (laneCause (raise 0x0C03 (modLane s l (fun x => { x with up := false, good := 0 })) (idx := l)))
  else modLane s l (fun x => { x with good := 0 })

/-- A valid heartbeat on a lane: the tenth in a row brings it up (R452). -/
def laneBeat (s : State) (l : Nat) : State :=
  let x := lane s l
  let good := capN 10 (x.good + 1)
  let s1 := modLane s l (fun y => { y with good := good, lastHb := s.dev.ticks })
  if !x.up && decide (10 ≤ good) then linkCheck (laneCause (raise 0x0C04 (modLane s1 l (fun y => { y with up := true })) (idx := l)))
  else s1

/-- A frame error on a lane, counted; the run of valid heartbeats ends (R451, R452). -/
def laneErr (s : State) (l : Nat) : State :=
  let s1 := bump s (if l = 0 then R.mirLaneAErr else R.mirLaneBErr)
  if (lane s1 l).up then s1 else modLane s1 l (fun x => { x with good := 0 })

/-- A link frame received, and whether its contents are to be used: a bad CRC is counted, the second copy of a type and sequence is dropped, and while R450 finds an error only HEARTBEAT is carried (R450, R451). -/
def linkRx (s : State) (h : LinkHead) (ty : Nat) : State × Bool :=
  if !paired s || !flag s R.mirCtl h.lane || decide (1 < h.lane) then (s, false)
  else if !h.crcOk then (laneErr s h.lane, false)
  else
    let s1 := if ty = 1 then laneBeat s h.lane else s
    let seen := tget [] s1.mir.rxSeq ty
    if seen.contains h.seq || (pairBad s1 && decide (ty ≠ 1)) then (s1, false)
    else ({ s1 with mir := { s1.mir with rxSeq := tset s1.mir.rxSeq ty ((h.seq :: seen).take 64) } }, true)

/-! ### Takeover and contention: detection (R465, R471) -/

/-- The s_num of a snapshot that is current now: one committed within the last 100 ms (R466). -/
def currentSnap (s : State) : Option Nat :=
  match s.mir.snap with
  | some (n, _, t) => if s.dev.ticks ≤ t + 100 * msT then some n else none
  | none => none

/-- A takeover condition detected on a standby (R465, R476): cause 0 loss, 1 the partner's mode, 2 both in VIGIL, 3 GASP. -/
def detectTakeover (s : State) (cause : Nat) : State :=
  if s.dev.mode = .vigil ∧ s.mir.takeover.isNone then
    setMir (cancelHand s) (fun m => { m with takeover := some ⟨cause, effectInst s, currentSnap s⟩ })
  else s

/-- What a report of the partner's mode brings about (R465, R471): a report sent before this unit's own last transition brings nothing. -/
def partnerMode (s : State) (mode : Nat) (authority : Bool) (sentAt : Inst) : State :=
  if sentAt < s.dev.since then s
  else
    match s.dev.mode with
    | .vigil => if mode = 0 ∨ mode = 1 ∨ mode = 4 ∨ mode = 5 then detectTakeover s 1 else if mode = 3 ∧ !isUnitB s then detectTakeover s 2 else s
    | .service =>
      if mode = 2 ∧ authority ∧ isUnitB s ∧ s.mir.contention.isNone then setMir (cancelHand s) (fun m => { m with contention := some (effectInst s) }) else s
    | _ => s

/-- MIR_PARTNER of a report. -/
def showPartner (s : State) (unit role mode : Nat) : State := regSet s R.mirPartner (mode % 8 * 2 ^ 29 + role % 4 * 2 ^ 27 + unit % 2 ^ 20)

/-- SYNCED is lost: no bay is synced, and the standby is SYNCING (R455, R476). -/
def loseSync (s : State) : State := if s.mir.pstate = 3 then setPstate (setMir s (fun m => { m with synced := [] })) 2 else s

/-- Whether the partner's era, where a snapshot has told it, is the own one (R453, R476). -/
def erasMatch (s : State) : Bool := match s.mir.era with | some e => decide (e = s.alm.era) | none => true

/-! ### Heartbeats (R450, R453, R470) -/

/-- Flags of a heartbeat (R453). -/
def hbFlags (s : State) : Nat :=
  let pend := match s.dev.pend with | some p => decide (p.target = Mode.service) | none => false
  b2n (holdsAuthority s) + 2 * b2n pend + 4 * b2n (flag s R.mirStat 23) + 8 * b2n s.mir.hand.isSome + 16 * b2n s.pwr.degraded

/-- A HEARTBEAT sent on both lanes (R453). -/
def sendHeartbeat (s : State) : State :=
  let snum := if isActive s then s.mir.sentNum else (match s.mir.snap with | some x => x.1 | none => 0)
  let pend := match s.dev.pend with | some p => if p.target = Mode.service then attAt s p.at_ else Att.zero | none => Att.zero
  linkSend s 1 0 0 (leBytes 4 (regGet s R.belPairId) ++ leBytes 4 (s.otp.unitId % 2 ^ 20) ++ leBytes 1 (roleByte s) ++ leBytes 1 s.dev.mode.code ++ leBytes 1 s.mir.pstate
    ++ leBytes 1 (hbFlags s) ++ (attNow s).bytes ++ leBytes 8 snum ++ leBytes 4 s.sec.libVer ++ schemeDigest s ++ pend.bytes)

/-- The time offset of a heartbeat supervised (R453): `ofs` in units of 2^-16 ns. -/
def superviseOfs (s : State) (ofs : Int) : State :=
  let bad := decide (usI < ofs.natAbs)
  let m := s.mir
  let nb := if bad then capN 10 (m.ofsBad + 1) else 0
  let ng := if bad then 0 else capN 10 (m.ofsGood + 1)
  let eras := erasMatch s
  let s1 := setMir (regSet s R.mirOffset (ofSigned 32 (satI 32 (rdivI ofs nsI)))) (fun x => { x with ofsBad := nb, ofsGood := ng })
  let skew := flag s R.mirStat 24
  if !skew && (decide (10 ≤ nb) || !eras) then raise 0x0C0B (flagSet s1 R.mirStat 24 true)
  else if skew && decide (10 ≤ ng) && eras then flagSet s1 R.mirStat 24 false
  else s1

/-- The partner's configuration compared (R450). -/
def compareConfig (s : State) (b : Heartbeat) : State :=
  match pairRec s with
  | none => s
  | some r =>
    let bad := decide (b.pairId ≠ regGet s R.belPairId) || decide (b.role = field r 4 1) || decide (b.unit ≠ field r 8 4 % 2 ^ 20)
    let mis := decide (b.digest ≠ schemeDigest s) || decide (b.lib ≠ s.sec.libVer)
    let new := (bad && !flag s R.mirStat 26) || (mis && !flag s R.mirStat 25)
    let s1 := flagSet (flagSet s R.mirStat 26 bad) R.mirStat 25 mis
    linkCheck (if new then raise 0x0C0A s1 else s1)

/-- Unit B's pending entry to SERVICE becomes one to VIGIL when it sees unit A's (R470). -/
def yieldEntry (s : State) (flags : Nat) : State :=
  match s.dev.pend with
  | some p => if isUnitB s ∧ p.target = Mode.service ∧ bitOf flags 1 ∧ now s < p.at_ then { s with dev := { s.dev with pend := some { p with target := Mode.vigil } } } else s
  | none => s

/-- The active's pair state follows its partner's report (R463, R468). A full resynchronisation that has just ended here shows SYNCED until the partner has had 10 ms to report it. -/
def followPartner (s : State) (mode pst : Nat) : State :=
  if isActive s && linkUp s && !pairBad s then
    if mode ≠ 3 then setPstate (if s.mir.pstate = 1 then s else stopResync s) 1
    else if pst = 3 then (if s.mir.full.isSome then s else setPstate s 3)
    else if decide (s.mir.pstate = 3) && !elapsed s (s.mir.syncSince.getD 0) (10 * msT) then s
    else setPstate s 2
  else s

/-- A heartbeat of the partner taken (R450, R453, R465, R470, R471). -/
def takeHeartbeat (s : State) (b : Heartbeat) : State :=
  let p : Partner := ⟨b.unit, b.role, b.mode, b.pstate, b.flags, b.snum, b.lib, b.digest, b.pairId, b.effAt⟩
  let s1 := showPartner (setMir s (fun m => { m with partner := some p, lastHb := some s.dev.ticks })) b.unit b.role b.mode
  let s2 := compareConfig (superviseOfs s1 ((now s : Int) - b.sendAt - b.delay)) b
  partnerMode (followPartner (yieldEntry s2 b.flags) b.mode b.pstate) b.mode (bitOf b.flags 0) b.sendAt

/-- A beacon of the partner taken (R402, R465, R471): unit, role, mode and flags as in R397. -/
def takeBeacon (s : State) (unit role mode flags : Nat) (sentAt : Inst) : State :=
  if !paired s then s
  else
    let p : Partner := match s.mir.partner with
      | some x => { x with unit := unit, role := role, mode := mode }
      | none => ⟨unit, role, mode, 0, b2n (bitOf flags 2), 0, 0, [], regGet s R.belPairId, 0⟩
    partnerMode (showPartner (setMir s (fun m => { m with partner := some p, lastBcn := some s.dev.ticks })) unit role mode) mode (bitOf flags 2) sentAt

/-! ### Mirrored samples (R454, R455) -/

/-- A SAMPLES frame sent (R454). -/
def sendSamples (s : State) (ch : Nat) (e : EvalAt) (pr s4 : Option SampleWord) : State :=
  let irs := if ch < 32 then ((tget [] s.mir.irOut ch).take 72).reverse else []
  let w (x : Option SampleWord) : List Byte := match x with | some y => y.bytes | none => leBytes 16 0
  let entry (y : SampleWord) : List Byte := leBytes 3 (ofSigned 24 (y.value / 256)) ++ leBytes 1 (y.q.toNat % 256) ++ leBytes 4 (y.at_ % secQ)
  linkSend { s with mir := { s.mir with irOut := terase s.mir.irOut ch } } 2 0 0
    (leBytes 2 ch ++ leBytes 1 (b2n s4.isSome + 2 * b2n (decide (ch < 32) && pairIlv s (ch / 2))) ++ leBytes 1 irs.length ++ leBytes 4 e.k ++ leBytes 8 e.sec
      ++ leBytes 2 (binLevels s 14400 e) ++ leBytes 14 0 ++ w pr ++ w s4 ++ irs.flatMap entry)

/-- The instant of the 14,400 S/s grid that an output represents. -/
def instOf (t : QInst) : EvalAt := let i := nearInst 14400 t; ⟨i / 14400, i % 14400⟩

/-- An own PR or S4 output of a standby that uses mirrored samples, held aside. -/
def putAside (s : State) (ch : Nat) (s4 : Bool) (w : SampleWord) : State :=
  let k := ch * 2 + b2n s4
  { s with mir := { s.mir with aside := tset s.mir.aside k (((w, s.dev.ticks) :: tget [] s.mir.aside k).take 16) } }

/-- One output of the filter chain taken to what reads it (R129, R133, R162, R454, R455). -/
def takeOut (ch : Nat) (s : State) (o : FltOut) : State :=
  let w := o.word ch
  let standby := decide (s.dev.mode = .vigil) && s.mir.inUse && pairFlag s 0
  if o.stage = 0 then hrPush s (ch / 2) w
  else if o.stage = 1 then
    let s1 := trkSample s ch o.v o.tag
    let s2 := if standby then s1 else irPush s1 ch w
    if isActive s2 && pairFlag s2 0 then { s2 with mir := { s2.mir with irOut := tset s2.mir.irOut ch ((w :: tget [] s2.mir.irOut ch).take 72) } } else s2
  else
    let s4 := decide (o.stage = 4)
    let k := ch * 2 + b2n s4
    let s1 := { s with svi := { s.svi with outs := tset s.svi.outs k ((w :: tget [] s.svi.outs k).take 16) } }
    if standby then putAside s1 ch s4 w else stageLocal s1 ch s4 w

/-- The outputs of one S0 sample taken, and on an active the SAMPLES frame of the instant they complete (R454). -/
def takeOuts (s : State) (ch : Nat) (outs : List FltOut) : State :=
  let s1 := outs.foldl (takeOut ch) s
  if isActive s1 && pairFlag s1 0 then
    match outs.find? (fun o => o.stage = 3) with
    | some o => sendSamples s1 ch (instOf o.tag) (some (o.word ch)) ((outs.find? (fun x => x.stage = 4)).map (fun x => x.word ch))
    | none => s1
  else s1

/-- Mirrored samples come into use on a standby that is SYNCING and sees the link up (R455, R463 step 1). -/
def useMirrored (s : State) : State :=
  if s.mir.inUse then s
  else if s.mir.pstate = 2 ∧ linkUp s ∧ !pairBad s then
    setMir s (fun m => { m with inUse := true, binsMir := pairFlag s 1, since := some s.dev.ticks })
  else s

/-- The largest latency of a second noted, and shown when the second is over (R479): the time by which a mirrored word comes after the own output of its instant. -/
def noteLatency (s : State) (ch : Nat) (tag : QInst) : State :=
  let own := (tget [] s.mir.aside (2 * ch)).find? (fun p => decide (nearInst 14400 p.1.at_ = nearInst 14400 tag))
  let ns := match own with | some p => capN 65535 ((s.dev.ticks - p.2) * 5 / 4) | none => 0
  if s.mir.latSec.1 = s.alm.sec then { s with mir := { s.mir with latSec := (s.alm.sec, if s.mir.latSec.2 < ns then ns else s.mir.latSec.2) } }
  else { regSet s R.mirLat s.mir.latSec.2 with mir := { s.mir with latSec := (s.alm.sec, ns) } }

/-- The quality of a mirrored word: as sent, with MIRRORED set. -/
def mirQ (q : Nat) : Half := BitVec.ofNat 16 (Nat.lor q qMIRRORED)

/-- The contents of a SAMPLES frame staged on the standby (R454). -/
def takeSamples (s0 : State) (x : MirSamples) : State :=
  let s := useMirrored s0
  if !s.mir.inUse then s
  else
    let e : EvalAt := ⟨x.sec, x.k⟩
    let s1 := if pairFlag s 1 then
        { s with mir := { s.mir with binsAt := ((e, x.bins % 65536) :: s.mir.binsAt.filter (fun p => decide (p.1 ≠ e))).take 64 } }
      else s
    if 32 ≤ x.ch then s1
    else
      let tq := match x.pr with | some p => Nat.land p.2.1 (qTIMEHOLDOVER + qTIMEDISPUTE) | none => 0
      let s2 := x.ir.foldl (fun st i =>
        irPush st x.ch ⟨toSigned 24 (ofSigned 24 i.1) * 256, BitVec.ofNat 16 (i.2.1 % 256 + tq + qSOURCELOCAL + qMIRRORED), x.ch, i.2.2⟩) s1
      let put (st : State) (s4 : Bool) (w : Option (Int × Nat × Nat)) : State := match w with
        | some p => stageLocal st x.ch s4 ⟨p.1, mirQ p.2.1, x.ch, p.2.2⟩
        | none => st
      let s3 := match x.pr with | some p => noteLatency s2 x.ch p.2.2 | none => s2
      put (put s3 false x.pr) true x.s4

/-- An own output whose mirrored word has missed its deadline (R455). -/
def overdue (s : State) : Option SampleWord :=
  let wait := fld s R.mirCfg 24 17 * usT
  let late (k : Nat) (p : SampleWord × Ticks) : Bool :=
    elapsed s p.2 wait && (localTargets s (k / 2) (k % 2 = 1)).any (fun t => match bay? s t.1 with
      | some b => b.runs && decide (nearInst b.rate (b.slot.lastTag t.2) < nearInst b.rate p.1.at_)
      | none => false)
  (s.mir.aside.filterMap (fun k => k.2.reverse.find? (late k.1))).head?.map Prod.fst

/-- The standby falls back to its own samples from an instant on (R455). -/
def mirrorFallback (s : State) (w : SampleWord) : State :=
  let s1 := raise 0x0C05 (bump (stopResync s) R.mirFallbackCnt) (att := some ((instOf w.at_).att s 14400))
  useOwn (loseSync s1)

/-! ### Bay resynchronisation (R463, R464) -/

/-- The active starts a bay resynchronisation (R464 step 1). -/
def startBayRs (s : State) (n : Nat) : State :=
  match bay? s n with
  | some b =>
    if b.runs then
      let kr := evalFrom b.rate (now s + msI)
      setMir (linkEvent s 9 n kr []) (fun m => { m with brs := tset m.brs n ⟨kr, [], 0, none, none⟩, retry := terase m.retry n })
    else s
  | none => s

/-- The running bays in ascending number. -/
def runningBays (s : State) : List Nat := (s.bays.filter (fun p => p.2.runs)).map Prod.fst

/-- Whether a bay counts as synced: not when it has local channels that are not mirrored (R456). -/
def mayCount (s : State) (n : Nat) : Bool :=
  pairFlag s 0 || (match bay? s n with | some b => (List.range 8).all (fun c => decide (mapKind (brMap b.recd c) ≠ 1)) | none => false)

/-- The full resynchronisation completes: SYNCED, PAIR_SYNCED, and MIR_SYNC with the ATT of the last k_r (R463, R475). -/
def endFull (s : State) : State :=
  match s.mir.full with
  | none => s
  | some f =>
    if f.todo.isEmpty ∧ s.mir.brs.isEmpty then
      let s1 := raise 0x0C01 (setPstate (setMir s (fun m => { m with full := none, iso := false })) 3)
      match f.cid with | some c => complete s1 c stOk f.last | none => s1
    else s

/-- A bay has passed its resynchronisation with k_r at an ATT: MIR_SYNC of the bay completes, a full resynchronisation goes on. -/
def bayPassed (s : State) (n : Nat) (att : Att) : State :=
  let s1 := (tget [] s.mir.one n).foldl (fun st c => complete st c stOk att) { s with mir := { s.mir with one := terase s.mir.one n } }
  let s2 := setMir s1 (fun m => { m with full := m.full.map (fun f => { f with todo := f.todo.filter (fun x => decide (x ≠ n)), last := att }),
                                          synced := if m.synced.contains n ∨ !mayCount s1 n then m.synced else m.synced ++ [n] })
  endFull s2

/-- A bay that stops leaves the resynchronisation: MIR_SYNC of it completes with ABORTED. -/
def bayLeft (s : State) (n : Nat) : State :=
  if !paired s then s
  else
    let s1 := (tget [] s.mir.one n).foldl (fun st c => complete st c stAborted Att.zero) { s with mir := { s.mir with one := terase s.mir.one n } }
    endFull (setMir s1 (fun m => { m with full := m.full.map (fun f => { f with todo := f.todo.filter (fun x => decide (x ≠ n)) }), brs := terase m.brs n,
                                          retry := terase m.retry n }))

/-- The copy of a bay adopted once it is whole and every instant before k_r has run (R464 step 3). -/
def tryAdopt (s : State) (n : Nat) : State :=
  match tget? s.mir.brs n, bay? s n with
  | some r, some b =>
    match r.copy with
    | some c =>
      let first := match b.slot.queue.head? with | some z => z.at_ | none => b.slot.next
      if s.dev.mode = .vigil ∧ (tget? s.cfg.tasks n).isNone ∧ first = r.kr then
        let s1 := setBay s n { b with ctx := c.ctx }
        let s2 := { s1 with bel := { s1.bel with ord := tset s1.bel.ord n c.ord, pubs := c.pubs.foldl (fun t p => tset t p.1 p.2) s1.bel.pubs } }
        let s3 := bump (setMir s2 (fun m => { m with brs := terase m.brs n })) R.mirBayResync
        bayPassed (showRunning (showBay s3 n)) n (r.kr.att s b.rate)
      else s
    | none => s
  | _, _ => s

/-- What the pair logic does when a window of a bay has closed: `s0` is the state before it. The active that has sent a copy goes on; the standby adopts a copy that waited; an instant that is not quiet ends the quiet of a hand-over (R464, R473). -/
def mirAfter (s0 s : State) (n : Nat) : State :=
  if !paired s then s
  else
    let s1 := match tget? s0.mir.brs n, tget? s.mir.brs n, bay? s n with
      | some r, none, some b => if isActive s && (tget? s.mir.retry n).isNone then bayPassed s n (r.kr.att s b.rate) else s
      | _, _, _ => tryAdopt s n
    match s1.mir.hand, bay? s1 n with
    | some h, some b =>
      if h.mine && (bitOf b.ctx.word 8 || !(decide (b.ctx.rc.st = .ready) || decide (b.ctx.rc.st = .lockout))) then
        setMir s1 (fun m => { m with hand := some { h with quiet := false } })
      else s1
    | _, _ => s1

/-- A full resynchronisation starts on the active (R463 steps 2 and 3). -/
def startFull (s : State) (cid : Option Nat) : State :=
  let s1 := linkEvent s 10 0xFFFF ⟨0, 0⟩ (leBytes 2 (fld s R.belEpoch 15 0))
  endFull (setMir s1 (fun m => { m with full := some ⟨runningBays s1, cid, attNow s1, now s1 / msI⟩, synced := [] }))

/-! ### Hand-over (R472, R473) -/

/-- Whether a bay is quiet at its last committed instant (R472). -/
def quietBay (b : Bay) : Bool := !b.runs || (!bitOf b.ctx.word 8 && (decide (b.ctx.rc.st = .ready) || decide (b.ctx.rc.st = .lockout)))

/-- Whether now is a quiet instant (R472). -/
def quietNow (s : State) : Bool :=
  s.bays.all (fun p => quietBay p.2) && s.cfg.reqs.all (fun p => p.2.isEmpty) && s.sec.apply.isNone && s.mir.brs.isEmpty && s.mir.full.isNone && s.mir.one.isEmpty

/-- A hand-over proposed with k_h (R473 step 1). -/
def propose (s : State) (cause : Nat) (force : Bool) : State :=
  let kh := firstGrid 14400 (now s + msI)
  let e := gridAt 14400 kh
  setMir (linkEvent s 5 0xFFFF ⟨e.1, e.2⟩ []) (fun m => { m with hand := some ⟨true, kh, false, false, true, force, s.dev.ticks, cause⟩ })

/-- A hand-over at k_h after a commit: the unit that sent it enters VIGIL, the unit that received it SERVICE (R473 step 4, R474). -/
def handEffect (s : State) (h : HandOver) : State :=
  let clear (x : State) : State := setMir (flagSet x R.mirStat 23 false) (fun m => { m with hand := none, syncSince := some s.dev.ticks })
  let s1 := if h.mine then
      let a := clear (enterMode s .vigil h.kh)
      setMir a (fun m => { m with inUse := pairFlag a 0, binsMir := pairFlag a 0 && pairFlag a 1, since := some s.dev.ticks, irOut := [] })
    else useOwn (clear (enterMode s .service h.kh))
  let s2 := if h.cause = 1 then flagSet s1 R.mirStat 22 true else s1
  endRole (raise 0x0C07 (bump s2 R.mirRoleCnt) (items := [(1, h.cause)]) (att2 := attAt s2 h.kh)) stOk (attAt s2 h.kh)

/-! ### Snapshots (R460 to R462) -/

/-- The snapshot of a shadow as bytes with its CRC (R460). -/
def snapBytes (s : State) (x : Shadow) : List Byte :=
  let bays := (runningBays s).map (fun n => match tget? x.bays n with | some b => b | none => [])
  let pubs := (pubRecs s).map (fun r => let k := field r 2 2; match tget? x.pubs k with | some b => b | none => pubEntry s k)
  let body := bays.flatten ++ pubs.flatten
  let head := [0x53, 0x4E, 0x41, 0x50] ++ leBytes 2 1 ++ leBytes 2 bays.length ++ leBytes 8 x.num ++ (attAt s (x.num * 10 * msI)).bytes
    ++ leBytes 4 (regGet s R.belPairId) ++ leBytes 4 (s.otp.unitId % 2 ^ 20) ++ leBytes 1 s.dev.mode.code ++ leBytes 1 0 ++ leBytes 2 (fld s R.belEpoch 15 0)
    ++ leBytes 2 pubs.length ++ leBytes 2 0 ++ leBytes 4 s.alm.era ++ leBytes 4 (68 + body.length) ++ leBytes 8 0
  let all := head ++ body
  all ++ leBytes 4 (crc32 all)

/-- The newest snapshot instant that every running bay has committed and that has not been sent. -/
def snapDue (s : State) : Option Shadow :=
  let run := runningBays s
  if run.isEmpty then
    let n := now s / (10 * msI)
    if s.mir.sentNum ≠ n then some ⟨n, [], [], []⟩ else none
  else s.mir.shadow.find? (fun x => run.all (fun n => (tget? x.bays n).isSome))

/-- The bay entries of a snapshot from an offset on, with the offset after them. -/
def snapBays (bs : List Byte) : Nat → Nat → List (List Byte) × Nat
  | 0, o => ([], o)
  | n + 1, o =>
    let l := 96 + 8 * field bs (o + 5) 1
    let r := snapBays bs n (o + l)
    (slice bs o l :: r.1, r.2)

/-- The bay entries and the publication entries of a snapshot. -/
def snapParts (bs : List Byte) : List (List Byte) × List (List Byte) :=
  let b := snapBays bs (field bs 6 2) 64
  (b.1, (List.range (field bs 44 2)).map (fun i => slice bs (b.2 + 24 * i) 24))

/-- A snapshot discarded (R461): reasons 1 not complete in time, 2 CRC, 3 pair ID, 4 era, 5 s_num. -/
def discardSnap (s : State) (num reason : Nat) : State :=
  raise 0x0C08 (bump (setMir s (fun m => { m with rx := [], rxCount := 0, rxSince := none })) R.mirSnapDiscard) (items := [(8, num), (1, reason)])

/-- A bay found to differ from the snapshot (R462). -/
def diverged (s : State) (n : Nat) : State :=
  raise 0x0C09 (setMir s (fun m => { m with retry := tset m.retry n s.dev.ticks, synced := m.synced.filter (fun x => decide (x ≠ n)), matched := false })) (bay := n)

/-- A committed snapshot compared with the shadow of its instant (R456, R462). -/
def compareSnap (s : State) (num : Nat) (bs : List Byte) : State :=
  match s.mir.shadow.find? (fun x => x.num = num) with
  | none => s
  | some x =>
    let p := snapParts bs
    let badPub := p.2.filterMap (fun e => match tget? x.pubs (field e 0 1) with | some own => if own = e then none else tget? x.src (field e 0 1) | none => none)
    let badBay := p.1.filterMap (fun e => match tget? x.bays (field e 0 2) with | some own => if own = e then none else some (field e 0 2) | none => none)
    ((badBay ++ badPub).eraseDups.filter (fun n => mayCount s n)).foldl diverged (setMir s (fun m => { m with matched := true }))

/-- A whole snapshot checked, and committed or discarded (R461, R462). -/
def commitSnap (s : State) (bs : List Byte) : State :=
  let num := field bs 8 8
  let l := bs.length - 4
  let era := field bs 48 4
  let last := match s.mir.snap with | some x => x.1 | none => 0
  if bs.length < 68 ∨ crc32 (bs.take l) ≠ field bs l 4 ∨ slice bs 0 4 ≠ [0x53, 0x4E, 0x41, 0x50] then discardSnap s num 2
  else if field bs 32 4 ≠ regGet s R.belPairId then discardSnap s num 3
  else
    let s1 := setMir s (fun m => { m with era := some era })
    if era ≠ s.alm.era then loseSync (discardSnap s1 num 4)
    else if num ≤ last then discardSnap s1 num 5
    else
      let s2 := setMir s1 (fun m => { m with snap := some (num, bs, s.dev.ticks), rx := [], rxCount := 0, rxSince := none, epochSeen := field bs 42 2 })
      compareSnap (regSet (regSet s2 R.mirSnapLo (num % 2 ^ 32)) R.mirSnapHi (num / 2 ^ 32)) num bs

/-- A snapshot part received (R461): a part of another snapshot discards the one under way. -/
def takeSnapPart (s : State) (part count : Nat) (data : List Byte) : State :=
  let m := s.mir
  let clash := m.rxSince.isSome && (decide (count ≠ m.rxCount) || (tget? m.rx part).isSome)
  let s1 := if clash then discardSnap s m.rxNum 1 else s
  let s2 := setMir s1 (fun x => { x with rx := tset x.rx part data, rxCount := count, rxSince := some (x.rxSince.getD s.dev.ticks),
                                          rxNum := if part = 0 then field data 8 8 else if x.rxSince.isNone then 0 else x.rxNum })
  if count ≤ s2.mir.rx.length then commitSnap s2 (s2.mir.rx.flatMap Prod.snd) else s2

/-! ### Takeover (R466) -/

/-- stNum a step on, with the wrap of R406. -/
def stStep (n step : Nat) : Nat := if 2 ^ 32 - 1 < n + step then n + step - (2 ^ 32 - 1) else n + step

/-- The settings group of a snapshot's bay entry at an instant: the active group, or the pending one when its instant has passed (R460, R466). -/
def snapGroup (rate num : Nat) (e : List Byte) (at_ : Inst) : Nat :=
  let k := field e 8 4
  let sec := num / 100
  let here := num % 100 * (rate / 100)
  if field e 4 1 ≠ 0xFF ∧ gridInst rate (if k < here then sec + 1 else sec) k ≤ at_ then field e 4 1 else field e 3 1

/-- The authority items of a context reconciled with a snapshot's bay entry (R466). -/
def reconcile (e : List Byte) (c : Ctx) : Ctx :=
  let shots := field e 25 1
  let lock := decide (field e 24 1 = 5) || decide (c.rc.st = .lockout)
  let th := (List.range (field e 5 1)).foldl (fun t i =>
    let v := field e (100 + 8 * i) 4
    let sl := field e (96 + 8 * i) 1
    if tget 0 t sl < v then tset t sl v else t) c.theta
  let c1 := { c with theta := th, rc := { c.rc with shots := if c.rc.shots < shots then shots else c.rc.shots, st := if lock then .lockout else c.rc.st } }
  if lock ∧ c.rc.st ≠ .lockout then c1.freshLockout else c1

/-- Every RECLOSE not in READY goes to LOCKOUT (R466). -/
def lockAll (c : Ctx) : Ctx :=
  if c.rc.st = .ready ∨ c.rc.st = .lockout then c else { c with rc := { c.rc with st := .lockout } }.freshLockout

/-- A bay's contexts, committed and of a running task, changed. -/
def modCtx (s : State) (n : Nat) (f : Ctx → Ctx) : State :=
  let s1 := modBay s n (fun b => { b with ctx := f b.ctx })
  match tget? s1.cfg.tasks n with
  | some t => { s1 with cfg := { s1.cfg with tasks := tset s1.cfg.tasks n { t with ctx := f t.ctx } } }
  | none => s1

/-- One bay reconciled at a takeover's instant (R459, R466): forwarded requests after the instant are dropped. -/
def takeBay (snap : Option (Nat × List (List Byte))) (at_ : Inst) (s : State) (p : Nat × Bay) : State :=
  let n := p.1
  let b := p.2
  let keep := (reqsOf s n).filter (fun r => decide (r.at_.inst b.rate ≤ at_) || !r.cmd)
  let s1 := setReqs s n keep
  let drop := (reqsOf s n).filter (fun r => r.cmd && decide (at_ < r.at_.inst b.rate))
  let s2 := if drop.any (fun r => decide (r.kind = .start)) then setRun s1 n 0 else if drop.any (fun r => decide (r.kind = .stop)) then setRun s1 n 1 else s1
  match snap with
  | none => modCtx s2 n lockAll
  | some (num, es) =>
    match es.find? (fun e => field e 0 2 = n) with
    | none => s2
    | some e =>
      let s3 := modCtx s2 n (reconcile e)
      let g := snapGroup b.rate num e at_
      let cur := ((reqsOf s3 n).filterMap (fun r => match r.kind with | .switch x => some x | .switched x => some x | _ => none)).getLast?.getD b.ctx.sg
      if g = cur ∨ !b.runs then s3 else addReq s3 n ⟨.switch g, evalFrom b.rate at_, true⟩

/-- The takeover at its instant (R457, R459, R466, R476). -/
def takeoverEffect (s : State) (t : Takeover) : State :=
  let old := fld s R.belEpoch 15 0
  let new := (old % 2 ^ 15 + 1) % 2 ^ 15
  let cur := match t.snap, s.mir.snap with | some n, some x => if x.1 = n then some (n, x.2.1) else none | _, _ => none
  let parts := cur.map (fun x => (x.1, snapParts x.2))
  let s0 := match s.dev.pend with
    | some p => if p.at_ = t.at_ then complete { s with dev := { s.dev with pend := none } } p.cid stAborted Att.zero else s
    | none => s
  let s1 := cancelHand (stopResync s0)
  let s2 := s1.bays.foldl (takeBay (parts.map (fun x => (x.1, x.2.1))) t.at_) s1
  let pubs := match s.mir.snap with | some x => (snapParts x.2.1).2 | none => []
  let s3 := (pubRecs s2).foldl (fun st r =>
    let k := field r 2 2
    let p := goPub st k
    let sn := match pubs.find? (fun e => field e 0 1 = k) with | some e => field e 4 4 | none => 0
    setPub st k { p with st := stStep (if p.st < sn then sn else p.st) (if cur.isSome then 4096 else 2 ^ 24), first := true, tc := t.at_, sum := 0 }) s2
  let s4 := useOwn (setMir (setEpoch s3 new) (fun m => { m with takeover := none, iso := false, synced := [] }))
  let s5 := setPstate (enterMode (endRole s4 stAborted Att.zero) .service t.at_) 1
  raise 0x0C06 (bump s5 R.mirTakeoverCnt) (items := [(1, t.cause), (2, old), (2, new), (8, (cur.map Prod.fst).getD 0)]) (att := some (attAt s5 t.at_))

/-! ### Events of the link (R459, R463, R464, R473, R474) -/

/-- A HANDOVER message or another entry without a bay, or BAY_RESYNC (R459). -/
def takeEvent (s : State) (e : MirEvent) : State :=
  let at_ : EvalAt := ⟨e.sec, e.k⟩
  let kh := gridInst 14400 e.sec e.k
  let standby := decide (s.dev.mode = .vigil)
  let here (k : BayReqKind) : State :=
    match bay? s e.bay, s.mir.takeover with
    | some b, t =>
      let after := match t with | some x => decide (x.at_ < at_.inst b.rate) | none => false
      if standby && !s.mir.iso && !after then putReqIf s e.bay k at_ true else s
    | none, _ => s
  match e.kind with
  | 1 => here (.switch (e.arg % 8))
  | 2 => here .start
  | 3 => here .stop
  | 4 => here .reset
  | 5 =>
    if standby && decide (s.mir.pstate = 3) && s.mir.matched && s.mir.hand.isNone && s.mir.takeover.isNone then
      let cause := if flag s R.mirStat 23 ∧ !isUnitB s ∧ s.mir.role.isNone then 0 else 1
      setMir (linkEvent s 6 0xFFFF at_ []) (fun m => { m with hand := some ⟨false, kh, true, false, true, false, s.dev.ticks, cause⟩ })
    else s
  | 6 =>
    match s.mir.hand with
    | some h =>
      if h.mine && decide (h.kh = kh) && !h.accepted then
        if (h.force || (h.quiet && quietNow s)) && decide (now s + 200 * usI ≤ h.kh) then
          setMir (linkEvent s 7 0xFFFF at_ []) (fun m => { m with hand := some { h with accepted := true, committed := true } })
        else cancelHand s
      else s
    | none => s
  | 7 =>
    match s.mir.hand with
    | some h => if !h.mine && decide (h.kh = kh) then setMir s (fun m => { m with hand := some { h with committed := true } }) else s
    | none => s
  | 8 => (match s.mir.hand with | some h => if h.mine then s else cancelHand s | none => if standby && s.mir.takeover.isNone then raise 0x0C0C s else s)
  | 9 =>
    if standby then
      match bay? s e.bay with
      | some b => if b.runs then setMir s (fun m => { m with brs := tset m.brs e.bay ⟨at_, [], 0, none, none⟩, retry := terase m.retry e.bay }) else s
      | none => s
    else if isActive s then
      if e.bay = 0xFFFF then (if s.mir.full.isNone then startFull s none else s)
      else if (tget? s.mir.brs e.bay).isNone then startBayRs s e.bay else s
    else s
  | 10 =>
    if standby && erasMatch s then
      let s1 := setEpoch s (e.arg % 65536)
      endFull (setMir s1 (fun m => { m with epochSeen := e.arg % 65536, synced := [], full := some ⟨runningBays s1, m.full.bind FullRs.cid, attNow s1, now s1 / msI⟩ }))
    else s
  | 11 =>
    if isActive s && s.mir.role.isNone && s.mir.hand.isNone then
      let f := bitOf e.arg 0
      let s1 := { s with mir := { s.mir with role := some ⟨1, f, s.dev.ticks + 10 * secT, none⟩ } }
      if f then propose s1 1 true else s1
    else s
  | _ => s

end Sys2Proof.Machine
end

