-- ==== Sys2Proof/Machine/SviPubRows.lean ====
section
/-! DEFINITION. Republication of local channels as sampled values (R172 to R175). -/

namespace Sys2Proof.Machine

/-- The published stream `n`. -/
def svPub (s : State) (n : Nat) : SvPub := tget ⟨false, 0⟩ s.svi.pubs n

/-- The rate of a published stream (R204). -/
def pubRate (r : List Byte) : Nat := if field r 1 1 = 1 then 4800 else 14400

/-- A published stream starts at the first sample instant at or after an instant (R172). -/
def pubStart (s : State) (n : Nat) (at_ : Inst) : State :=
  match s.scheme.bind (fun c => c.svpub? n) with
  | some r => let g := gridAt (pubRate r) at_; { s with svi := { s.svi with pubs := tset s.svi.pubs n ⟨true, g.1 * pubRate r + g.2⟩ } }
  | none => s

/-- A published stream stops. -/
def pubStop (s : State) (n : Nat) : State := { s with svi := { s.svi with pubs := terase s.svi.pubs n } }

/-- The value of a channel at an instant of a published stream: the kernel of R169 on its S3 or S4 outputs; `none` until a sample covers the instant (R173). -/
def pubValue (s : State) (ch rate : Nat) (t : QInst) : Option Interp :=
  let ws := (tget [] s.svi.outs (2 * ch + b2n (decide (rate = 4800)))).reverse
  match ws.find? (fun w => covers w.at_ t) with
  | none => none
  | some w => some (interpolate rate t (lastN 4 (ws.takeWhile (fun x => decide (x.at_ ≤ w.at_)))) w)

/-- The published quality of a sample's (R174), at the bit places of log entry 11. -/
def pubQuality (s : State) (q : Nat) : Nat :=
  let inv := !qHas q qVALID || qHas q qSETTLING
  let inacc := qHas q qRECOVERING || qHas q qRESTARTED || qHas q qINTERP
  (if inv then 1 else if inacc then 3 else 0) + 4 * b2n (qHas q qOVERRANGE) + 2 ^ 9 * b2n inacc + 2 ^ 10 * b2n (qHas q qSUBST)
    + 2 ^ 11 * b2n (qHas q qTEST || decide (s.dev.mode = .commission) || decide (s.dev.mode = .test))

/-- smpSynch of a lock state (R173). -/
def pubSynch (s : State) : Nat :=
  match s.alm.lock with
  | .locked => 2
  | .holdover => if s.alm.traceable then 2 else 1
  | .disputed => 1
  | _ => 0

/-- One ASDU (R173); `none` until every channel has its value. -/
def pubAsdu (s : State) (r : List Byte) (j : Nat) : Option (List Byte) :=
  let rate := pubRate r
  let t := (EvalAt.mk (j / rate) (j % rate)).q rate
  let vs := (List.range (field r 3 1)).map (fun m => (pubValue s (field r (88 + m) 1) rate t).map (fun v =>
    beBytes 4 (ofSigned 32 (rdivI (v.y * field r (112 + 4 * m) 4) (2 ^ 31))) ++ beBytes 4 (pubQuality s v.q)))
  if vs.all Option.isSome then
    some (ber 0x30 (ber 0x80 (slice r 24 (field r 20 1)) ++ ber 0x82 (beBytes 2 (j % rate)) ++ ber 0x83 (beBytes 4 (field r 16 4))
      ++ ber 0x85 (beBytes 1 (pubSynch s)) ++ ber 0x87 (vs.flatMap (fun v => v.getD []))))
  else none

/-- The frame of a published stream sent once the samples of its last ASDU exist (R173 to R175). -/
def pubFrame (s : State) (n : Nat) (r : List Byte) : State :=
  let p := svPub s n
  let k := field r 2 1
  let as := (List.range k).map (fun i => pubAsdu s r (p.next + i))
  if as.all Option.isSome then
    let pdu := ber 0x60 (ber 0x80 (beBytes 1 k) ++ ber 0xA2 (as.flatMap (fun a => a.getD [])))
    let pcp := field r 11 1
    sendOwn { s with svi := { s.svi with pubs := tset s.svi.pubs n { p with next := p.next + k } } }
      { ports := field r 10 1, bell := false, belfry := false, rep := false, pairMac := false, pcp := pcp,
        tci := if field r 12 2 = 0xFFFF then none else some (pcp * 2 ^ 13 + field r 12 2), dst := fieldBE r 4 6, etype := 0x88BA,
        payload := beBytes 2 (field r 14 2) ++ beBytes 2 (pdu.length + 8) ++ beBytes 4 0 ++ pdu }
  else s

/-- SV_PUBLISH_FRAME: the next frame of a published stream (R172 to R175). -/
def execSvPublishFrame (n : Nat) (s : State) : Host.Outcome State Fault Refusal :=
  match s.scheme.bind (fun c => c.svpub? n) with
  | some r => if decide (n < 8) && (svPub s n).run && flag s R.sviPubCtl n && decide (s.dev.mode ≠ .boot) && !isDying s then next (pubFrame s n r) else next s
  | none => next s

end Sys2Proof.Machine
end

