-- ==== Sys2Proof/Machine/SviRows.lean ====
section
/-! DEFINITION. The meanings of sampled-value ingest: a received frame, the reorder wait, the deadline, forgetting a duplicate-discard entry (R148 to R168). -/

namespace Sys2Proof.Machine

/-- The mode of the pair that a process-bus port belongs to: 0 independent, 1 PRP, 2 HSR (R393). -/
def pairModeOf (s : State) (port : Nat) : Nat := if port < 2 then fld s R.belPairMode 1 0 else fld s R.belPairMode 3 2

/-- A frame of stream `n` that passed R148 to R150 is tagged, judged and staged (R153 to R158, R166). A frame none of whose samples is staged changes neither the state nor lat_ref and is not counted as accepted (R164, R176). -/
def svAccept (s : State) (n : Nat) (f : SvFrame) : State :=
  let rate := svRate s n
  let a := nowQ s
  let i := svSecond s n ((f.asdus.getLast?.map SvAsdu.smpCnt).getD 0) a
  let lat := svLatency s n i a
  let late := decide (latMax s n < lat)
  if lat < 0 then
    let s0 := svCount s n 4
    let s1 := if (strm s0 n).st = .resync then setStrm s0 n { strm s0 n with sane := 0, prev := some (i, lat) } else s0
    if mayRaise s1 (strm s1 n).tagEvt then raise 0x060A (setStrm s1 n { strm s1 n with tagEvt := some s1.dev.ticks }) (idx := n) else s1
  else
    let s1 := if late then
        let s2 := svCount s n 5
        if mayRaise s2 (strm s2 n).lateEvt then raise 0x0606 (setStrm s2 n { strm s2 n with lateEvt := some s2.dev.ticks }) (idx := n) else s2
      else s
    let x := strm s1 n
    let used := (x.staged.map SvSample.frame).eraseDups.length
    let zs := svSamples s1 n i a x.frames f
    if zs.all (fun z => (svRefused x z).isSome) then zs.foldl (fun st z => svStage st n z) s1
    else if 64 ≤ used then svCount (zs.foldl (fun st z => match svRefused x z with | some c => svCount st n c | none => st) s1) n 8
    else
      let first := (zs.head?.map SvSample.idx).getD i
      let tag := svTag rate (svDelay s1 n) i
      let fresh := match x.newest with | some t => decide (t < tag) | none => true
      let s3 := svFrameState s1 n first ((zs.head?.map SvSample.tag).getD tag) lat (!late) fresh
      let y := strm s3 n
      let s4 := setStrm (svCount s3 n 0) n { y with lat := (clampI 0 (latMax s3 n) lat :: y.lat).take 256, frames := y.frames + 1, prev := some (i, lat) }
      svDispatch 512 (zs.foldl (fun st z => svStage st n z) s4) n

/-- SV_FRAME_RX: a sampled-value frame whose FCS passed on a process-bus port (R148 to R166). -/
def execSvFrameRx (f : SvFrame) (s : State) : Host.Outcome State Fault Refusal :=
  if !flag s R.sviCtl 0 || decide (3 < f.port) then next s
  else if (if pairModeOf s f.port = 0 then 1522 else 1528) < f.len then next (bump s (R.belPRxLen f.port))
  else
    let (s1, dup) := match f.red with
      | some q => if pairModeOf s f.port = 0 then (s, false) else ddLookup s (decide (2 ≤ f.port)) f.src q
      | none => (s, false)
    if dup then next s1
    else match (if 0x4000 ≤ f.appid ∧ f.appid ≤ 0x7FFF then svMatch s1 f else none) with
    | none => next (bump s1 R.sviUnmatched)
    | some n =>
      let r := svRec s1 n
      let rate := svRate s1 n
      if f.confRev ≠ field r 20 4 then
        let s2 := svCount s1 n 2
        next (if mayRaise s2 (strm s2 n).confEvt then raise 0x0605 (setStrm s2 n { strm s2 n with confEvt := some s2.dev.ticks }) (idx := n) else s2)
      else if f.synch < svCfg s1 n 30 29 then next (svCount s1 n 3)
      else if f.asdus.isEmpty || decide (8 < f.asdus.length) || f.asdus.any (fun u => decide (rate ≤ u.smpCnt) || decide (u.vals.length ≠ field r 3 1))
          || f.smpRate.any (fun v => decide (v ≠ rate)) || f.smpMod.any (fun v => decide (v ≠ 1)) then next (svCount s1 n 4)
      else next (svAccept s1 n f)

/-- SV_REORDER_EXPIRY: the reorder wait before a stream's earliest staged sample runs out; the gap is filled where a neighbour exists (R159). In INVALID and RESYNC the missing instants wait for their deadlines (R165). -/
def execSvReorderExpiry (n : Nat) (s : State) : Host.Outcome State Fault Refusal :=
  let x := strm s n
  match x.first? with
  | some z =>
    let due := decide ((z.arr + svCfg s n 21 16 * 40000) * 16384 ≤ now s)
    if x.en && x.wrote.isSome && due && decide (x.exp < z.idx) && (decide (x.st = .ok) || decide (x.st = .hold)) then
      next (svDispatch 512 (svFill z x (z.idx - x.exp) s n) n)
    else next s
  | none => next s

/-- SV_DEADLINE_EXPIRY: the deadline of a stream's next instant passes with no sample staged (R164 to R166). -/
def execSvDeadlineExpiry (n : Nat) (s : State) : Host.Outcome State Fault Refusal :=
  let x := strm s n
  if x.en && decide (n < 128) && flag s R.sviCtl 0 && deadlinePassed s n x.exp && !x.staged.any (fun z => z.idx = x.exp) then next (svMiss s n) else next s

/-- DD_ENTRY_FORGET: duplicate-discard entries are forgotten dd_forget × 10 ms after their first frame (R151). -/
def execDdEntryForget (s : State) : Host.Outcome State Fault Refusal :=
  let keep (e : DdEntry) : Bool := !elapsed s e.since (fld s R.sviCtl 15 8 * 10 * msT)
  next { s with svi := { s.svi with dd01 := s.svi.dd01.filter keep, dd23 := s.svi.dd23.filter keep } }

end Sys2Proof.Machine
end

