-- ==== Sys2Proof/Machine/TimeOps.lean ====
section
/-! DEFINITION. The Almanac: error estimate, lock states, servo, dispute, sources, steps, and the clock's tick (R37 to R67). -/

namespace Sys2Proof.Machine

/-! ### The error estimate (R55, R56) -/

/-- An offset in units of 2^-16 ns as ns. -/
def ofsNs (o : Int) : Int := rdivI o 65536

/-- The holdover rate error y in ppb (R55). -/
def yPpb (s : State) : Nat :=
  let y := fld s R.almHoldCfg 14 0
  if y ≠ 0 then y else if flag s R.almHoldCfg 15 then 5 else 100

/-- The current error estimate in units of 2^-16 ns (R55, R56); 0 where none exists. -/
def errEst (s : State) : Nat :=
  let a := s.alm
  let drift (t0 : Inst) : Nat := cdivN ((now s - t0) * yPpb s) (10 ^ 9)
  match a.lock with
  | .locked => a.devEst * 65536 + (match a.source, a.gm with | .ptp, some g => (g.inaccuracy.getD 0) * 65536 | _, _ => 0)
  | .holdover => a.holdE0 + drift a.holdAt
  | .disputed => a.holdE0 + drift a.dispAt + cdivN a.slewed.natAbs (2 ^ 32)
  | _ => 0

/-- The smallest n with 2^n ns at least an estimate (R56). -/
def classOf (est : Nat) : Nat := ((List.range 64).find? (fun n => decide (est ≤ 2 ^ n * 65536))).getD 64

/-- err_class brought up to date: 0xFF in free-run and acquiring (R56). -/
def refreshErr (s : State) : State :=
  let c := match s.alm.lock with | .freeRun => 0xFF | .acquiring => 0xFF | _ => classOf (errEst s)
  { s with alm := { s.alm with errClass := c } }

/-! ### Rates (R37, R54, R59) -/

/-- An increment kept within 1.25 ns ± 300 ppm (R37). -/
def clampInc (i : Int) : Nat :=
  let d : Int := (incNominal * 300 / 10 ^ 6 : Nat)
  (clampI ((incNominal : Int) - d) ((incNominal : Int) + d) i).toNat

/-- The slew limit as a change of the increment. -/
def slewMax (s : State) : Nat := incNominal * fld s R.almServoCfg 31 24 / 10 ^ 6

/-- The dispute threshold in units of 2^-16 ns. -/
def dispThr (s : State) : Nat := fld s R.almServoCfg 15 0 * 100 * nsI

/-- The increment while what is left to slew is slewed at the slew limit (R58, R59). -/
def slewInc (s : State) (left : Int) : Nat :=
  clampInc ((s.alm.incBase : Int) + clampI (-(slewMax s : Int)) (slewMax s) left)

/-- The increment changed, with the instant from which it is held (R55). -/
def setInc (s : State) (i : Nat) : State :=
  if i = s.alm.inc then s else { s with alm := { s.alm with inc := i, rateHist := ((now s, i) :: s.alm.rateHist).take 1024 } }

/-- One tick of the 800 MHz clock: the counter advances, a slew proceeds, err_class follows, and ports and lanes whose frame has left take the next (R37, R56, R58, R392, R451). -/
def fullTick (s : State) : State :=
  let d : Int := if s.alm.slewing then (s.alm.inc : Int) - s.alm.incBase else 0
  let s1 := tick s
  let s2 := if s.alm.slewing then
      let left := s1.alm.slewLeft - d
      setInc { s1 with alm := { s1.alm with slewed := s1.alm.slewed + d, slewLeft := left } } (slewInc s1 left)
    else s1
  (List.range 2).foldl drainLane ((List.range 6).foldl drainPort (refreshErr s2))

/-- What passes when no command waits: one of the five phases of the interpolator, and with the last of them a tick (R37, R38, log entry 1). -/
def clockTick (s : State) : State :=
  if s.dev.phase < 4 then { s with dev := { s.dev with phase := s.dev.phase + 1 } } else fullTick s

/-! ### Steps (R44) -/

/-- The time counter loaded with an instant. -/
def Alm.load (a : Alm) (t : Inst) : Alm := { a with sec := t / secI, ns := t / nsI % 10 ^ 9, frac := t % nsI * 2 ^ 32 }

/-- An instant that was at most about a grid period and 100 µs ahead before a step, after it: kept when it is still at most that far ahead, else the step itself. -/
def keepNear (new : Inst) (t : Inst) : Inst := if t ≤ new + msI then t else new

/-- The execution base of a slot (R70, R71). -/
def Sched.base (x : Sched) : Inst := if x.at_ < x.earliest then x.earliest else x.at_

/-- An action's slot freed. -/
def freeSlot (s : State) (n : Nat) : State := { s with alm := { s.alm with slots := terase s.alm.slots n } }

/-- SCHED_SKIPPED with the slot, the action and the reason; the slot is freed (R74). -/
def skipSlot (s : State) (n : Nat) (x : Sched) (reason : Nat) : State :=
  raise 0x030A (freeSlot s n) (bay := x.bay) (idx := n) (items := [(1, x.action), (1, reason)])

/-- The deferred completions of a slot end with a status and no ATT (R72, R91). -/
def endSlot (s : State) (x : Sched) (status : Nat) : State :=
  let s1 := match x.late with | some c => complete s c status Att.zero | none => s
  match x.own with | some (c, _) => complete s1 c status Att.zero | none => s1

/-- The late limit in units of 2^-16 ns. -/
def lateLimit (s : State) : Nat := fld s R.almSchedCfg 15 0 * msI

/-- Step 7 of R44 for one slot: the late rule for an action whose ATT the step has passed, or the advance of a repeating one (R71, R75). DESIGN CHOICE (log entry 91): an ATT equal to the new time counts as passed. -/
def stepSlot (new : Inst) (s : State) (n : Nat) : State :=
  match tget? s.alm.slots n with
  | none => s
  | some x =>
    if new < x.at_ then s
    else if x.rep then
      let p := x.period * secI
      let k := (new - x.at_) / p + 1
      let s1 := { s with alm := { s.alm with slots := tset s.alm.slots n { x with at_ := x.at_ + k * p, earliest := 0 } } }
      bumpBy s1 R.almSchedSkips k
    else
      let l := new + 10 * usI - x.at_
      if l ≤ lateLimit s then { s with alm := { s.alm with slots := tset s.alm.slots n { x with earliest := new + 10 * usI } } }
      else endSlot (skipSlot s n x 6) x stPast

/-- Steps 2 to 6 of R44 for one bay: an empty slot that resumes at the first evaluation instant, its rings cleared and its records cut; requests and triggers that wait keep near. `t` is the old time. -/
def stepBay (t new : Inst) (s : State) (n : Nat) : State :=
  match bay? s n with
  | none => s
  | some b =>
    let first := evalFrom b.rate new
    let near (e : EvalAt) : EvalAt := if e.inst b.rate ≤ new + msI then e else first
    let s1 := setBay s n { b with slot := Slot.fresh b.slot.src first }
    let s2 := setReqs s1 n ((reqsOf s1 n).map (fun r => { r with at_ := near r.at_ }))
    let keep (x : Inst) : Inst := if x ≤ new + msI then x else new
    cupBayStat (modCup (clearRing (cutCup s2 n fTIMESTEP) n) n (fun c => { c with
      autoAt := new - (t - c.autoAt), forced := c.forced.map (fun p => (keep p.1, p.2)), acts := c.acts.map (fun p => (keep p.1, p.2)),
      xtrigs := c.xtrigs.map (fun p => (keep p.1, p.2)) })) n

/-- What a step does to a stream (R44, R155): its staging buffer is emptied, its newest consumed instant cleared, and its instants go on from the first one due after the step. -/
def SvStream.stepped (x : SvStream) (first : Nat) : SvStream := { x with staged := [], wrote := none, newest := none, got := [], exp := first }

/-- The converters, trackers and streams at a step (R44, R86, R89, R112). A gap that waits for its next cycle is not interpolated (R112; DEDUCED, log entry 103). -/
def stepSignals (new : Inst) (s : State) : State :=
  let q := cdivN new 16384
  let sec := cdivN new secI
  let a := s.afe
  let s1 := { s with afe := { a with
    minTag := q, chans := a.chans.map (fun p => (p.1, { p.2 with aborted := none, displaced := [], ignored := [], prevSnap := none, lastAt := none })), gridFrom := q,
    sync := { a.sync with lastEdge := some q, hold := none, latched := none, edges := 0, sec := new / secI, whole := decide (new % secI = 0) },
    stopAt := a.stopAt.map (fun t => if sec < t then sec else t), cfgAt := if sec < a.cfgAt then sec else a.cfgAt,
    snaps := a.snaps.map (fun x => { x with at_ := if x.at_ ≤ q + 4000000 then x.at_ else q }),
    trks := a.trks.map (fun p => (p.1, { p.2 with
      stepped := true, startAt := new / nsI, st := if p.2.st = .off then .off else .tracking, good := 0, bad := 0, lastX := none, gapFrom := none, gapTo := none,
      gapRef := 0, gapSat := 0, ir := none, upAt := none, downAt := none, pos := none, neg := none, armed := false })) } }
  let s2 := syncReset s1 s1.afe.chEn 1
  let pub (p : Nat × SvPub) : Nat × SvPub :=
    match s.scheme.bind (fun c => c.svpub? p.1) with
    | some r => let g := gridAt (pubRate r) new; (p.1, { p.2 with next := g.1 * pubRate r + g.2 })
    | none => p
  { s2 with
    svi := { s2.svi with streams := s2.svi.streams.map (fun p => (p.1, p.2.stepped (svFrom (svRate s p.1) (svDelay s p.1) q))), pubs := s2.svi.pubs.map pub, outs := [] },
    cfg := { s2.cfg with bins := s2.cfg.bins.map (fun p => (p.1, { p.2 with acc := [(0, p.2.level)], since := 0, frozen := p.2.frozen.map (fun _ => new / secI) })) } }

/-- What waits for an instant on other grids keeps near (R30, R207, R465 to R473, R572). -/
def stepWaits (new : Inst) (s : State) : State :=
  { s with
    dev := { s.dev with pend := s.dev.pend.map (fun p => { p with at_ := keepNear new p.at_ }), dtoAt := s.dev.dtoAt.map (keepNear new), since := keepNear new s.dev.since },
    sec := { s.sec with apply := s.sec.apply.map (fun p => { p with at_ := keepNear new p.at_ }) },
    mir := { s.mir with takeover := s.mir.takeover.map (fun t => { t with at_ := keepNear new t.at_ }), contention := s.mir.contention.map (keepNear new),
                        hbAt := keepNear new s.mir.hbAt, hand := s.mir.hand.map (fun h => { h with kh := keepNear new h.kh }), shadow := [], binsAt := [], aside := [], irOut := [] } }

/-- A step of the time counter (R44): `new` is the new time. Cupola takes the lines that wait, and every ring is cleared (R345). Tags begin anew, and the lock state in force holds from the step on. DESIGN CHOICE (log entry 91): a step that changes the lock state is made after the change, so the old ATT of the event carries the quality of the new state. -/
def almanacStep (sOld : State) (new : Inst) (cause : StepCause) : State :=
  let old := attNow sOld
  let t := now sOld
  let s := (sOld.bays.map Prod.fst).foldl drainLines sOld
  let a := s.alm
  let s1 := { s with alm := { a.load new with lockHist := [(new, a.lock)], holdAt := new - (t - a.holdAt), dispAt := new - (t - a.dispAt), run := [], rateHist := a.rateHist.map (fun p => (new - (t - p.1), p.2)),
                                                  ppsSec := cdivN new secI - 1 } }
  let s2 := stepWaits new (stepSignals new s1)
  let s3 := (s2.bays.map Prod.fst).foldl (stepBay t new) s2
  let s4 := cupStat (metStep { s3 with prep := ⟨[], []⟩, cup := { s3.cup with hr := [] } } (t / nsI) (new / nsI))
  let s5 := (s4.alm.slots.map Prod.fst).foldl (stepSlot new) s4
  let code := match cause with | .restep => 2 | .preset => 1 | .firstLock => 0
  let s6 := match cause with
    | .restep => raise 0x0304 s5 (items := [(4, s5.alm.era)]) (att := some (attAt s5 new)) (att2 := old)
    | _ => raise 0x0302 s5 (items := [(1, code)]) (att := some (attAt s5 new)) (att2 := old)
  appendLog s6 7 0 code 0

/-! ### Lock states (R53 to R61) -/

/-- Whether the source in use is traceable (R56). -/
def srcTraceable (s : State) : Bool := match s.alm.source, s.alm.gm with | .ptp, some g => g.traceable | _, _ => false

/-- traceable while locked follows the source in use (R56). -/
def reTrace (s : State) : State :=
  if s.alm.lock = .locked then { s with alm := { s.alm with traceable := srcTraceable s } } else s

/-- A lock state entered: LOCK_CHANGED; traceable follows R56; leaving the disputed state ends a slew and aborts a re-step that waits (R53, R54, R61). -/
def lockTo (s : State) (l : Lock) : State :=
  let a := s.alm
  let leave := decide (a.lock = .disputed) && decide (l ≠ .disputed)
  let tr := match l with
    | .locked => srcTraceable s
    | .holdover => a.traceable && decide (a.lock = .locked)
    | _ => false
  let a1 : Alm := { a with
    lock := l, lockHist := ((now s, l) :: a.lockHist).take 16, traceable := tr, firstLock := a.firstLock || decide (l = .locked),
    stepRefused := a.stepRefused && decide (l ≠ .locked), slewing := a.slewing && !leave,
    restepReady := a.restepReady && !leave, restep := if leave then none else a.restep, run := [] }
  let s1 := refreshErr (setInc { s with alm := a1 } (if leave then a.incBase else a.inc))
  let s2 := match a.restep with | some (c, _) => if leave then complete s1 c stAborted Att.zero else s1 | none => s1
  raise 0x0301 s2 (items := [(1, a.lock.code), (1, l.code), (8, ofSigned 64 (ofsNs a.lastOfs))])

/-- The increments held since `from_`, each weighted by how long: a history newest first, the end of its newest piece, and what was held before its oldest. -/
def rateSum (from_ : Inst) : List (Inst × Nat) → Inst → Nat → Nat
  | [], end_, r0 => r0 * (end_ - from_)
  | (t, r) :: rest, end_, _ => if t ≤ from_ then r * (end_ - from_) else r * (end_ - t) + rateSum from_ rest t r

/-- The mean increment of the last 60 s, kept within the bounds of INC (R37, R55). -/
def meanInc (s : State) : Nat :=
  let d := if now s < 60 * secI then now s else 60 * secI
  if d = 0 then s.alm.inc else clampInc (rdivN (rateSum (now s - d) s.alm.rateHist (now s) s.alm.inc) d)

/-- Every source is lost: holdover (R53, R55, R56). -/
def toHoldover (s : State) : State :=
  let e := errEst s
  let s1 := lockTo { s with alm := { s.alm with holdE0 := e, holdAt := now s } } .holdover
  setInc s1 (meanInc s1)

/-- The disputed state entered with an offset and the estimate at entry (R56, R58, R60). -/
def toDisputed (s : State) (ofs : Int) (e0 : Nat) : State :=
  let t := now s
  let a := s.alm
  let s1 := lockTo { s with alm := { a with
    lastOfs := ofs, dispAt := t, holdE0 := e0, holdUntil := t + fld s R.almServoCfg 23 16 * secI, slewed := 0, slewing := false, incBase := a.inc, slewLeft := 0,
    cand := ofs, candRef := ofs, candSince := t, restepReady := false } } .disputed
  raise 0x0303 s1 (items := [(8, ofSigned 64 (ofsNs ofs))])

/-- The spread and slope of a run about its least-squares line (R53): the spread in units of 2^-16 ns times a positive scale, the scale, and the slope as numerator and denominator. -/
def lineFit (run : List Meas) : Int × Int × Int × Int :=
  let t0 := (run.getLast?.map Meas.at_).getD 0
  let ts : List Int := run.map (fun m => (m.at_ : Int) - t0)
  let os := run.map Meas.ofs
  let n : Int := run.length
  let st := sumI ts
  let so := sumI os
  let d := n * sumI (ts.map (fun x => x * x)) - st * st
  let b := n * sumI (ts.zipWith (· * ·) os) - st * so
  let rs := ts.zipWith (fun t o => n * d * o - d * so - b * (n * t - st)) os
  (maxI (rs.headD 0) rs - minI (rs.headD 0) rs, n * d, b, d)

/-- The board oscillator judged against the source while locked (R67); the degraded cause follows (R556). -/
def checkOsc (s : State) : State :=
  let dev := ((s.alm.inc : Int) - incNominal).natAbs
  let bad := decide (incNominal * fld s R.almHoldCfg 31 24 < dev * 10 ^ 6)
  if bad = s.alm.oscFail then s
  else
    let s1 := { s with alm := { s.alm with oscFail := bad } }
    setCause (if bad then raise 0x0308 s1 else s1) 6 bad

/-- The servo on a measurement while locked: the increment changes by no more than the slew limit and stays within 300 ppm (R37, R54); how it chooses within that, and the offset deviation it reports, are free values. -/
def servo (s : State) (ofs : Int) : State :=
  let a := s.alm
  let run := (⟨now s, ofs⟩ :: a.run).take 8
  let want : Int := Config.servoInc ofs a.inc
  let inc := clampInc (clampI ((a.inc : Int) - slewMax s) ((a.inc : Int) + slewMax s) want)
  let s1 := setInc { s with alm := { a with run := run, devEst := Config.offsetDeviation (run.map Meas.ofs) } } inc
  refreshErr (checkOsc s1)

/-- The first lock of a spread that is small enough (R53, R54): a step forward, or the refusal of one backward. DESIGN CHOICE (log entry 91): STEP_REFUSED carries the refused offset in value B. -/
def firstLock (s : State) (ofs : Int) (b d : Int) : State :=
  if ofs < 0 then
    let s1 := raise 0x030B { s with alm := { s.alm with stepRefused := true } } (items := [(8, ofSigned 64 (ofsNs ofs))])
    toDisputed s1 ofs ofs.natAbs
  else
    let s1 := if s.alm.preset.isSome then flagSet { s with alm := { s.alm with preset := none } } R.almStat 6 true else s
    let inc := clampInc ((s.alm.inc : Int) + rdivI (s.alm.inc * b) d.toNat)
    let s2 := lockTo (setInc { s1 with alm := { s1.alm with secKnown := true, devEst := Config.offsetDeviation (s.alm.run.map Meas.ofs) } } inc) .locked
    almanacStep s2 (now s + ofs.toNat) .firstLock

/-- A measurement while acquiring: eight in a row with a spread of at most 200 ns lock (R53). DESIGN CHOICE (log entry 91): an edge beyond any threshold (R62) empties the run. -/
def acquire (s : State) (ofs : Int) (beyond : Bool) : State :=
  let run := if beyond then [] else (⟨now s, ofs⟩ :: s.alm.run).take 8
  let s1 := { s with alm := { s.alm with run := run } }
  if run.length = 8 then
    let (w, k, b, d) := lineFit run
    if 0 < d ∧ w ≤ 200 * nsI * k then firstLock s1 ofs b d else s1
  else s1

/-- A measurement in the disputed state (R53, R58, R60). -/
def disputeMeas (s : State) (ofs : Int) (beyond : Bool) : State :=
  let a := s.alm
  let cand := ofs + rdivI a.slewed (2 ^ 32)
  let out := decide (usI < (cand - a.candRef).natAbs)
  let near := !beyond && decide (ofs.natAbs ≤ dispThr s)
  let run := if near then (⟨now s, ofs⟩ :: a.run).take 8 else []
  let a1 : Alm := { a with
    cand := cand, candRef := if out then cand else a.candRef, candSince := if out then now s else a.candSince, restepReady := a.restepReady && !out, run := run,
    slewLeft := ofs * 2 ^ 32 }
  let s1 := { s with alm := a1 }
  if run.length = 8 then
    lockTo { s1 with alm := { s1.alm with devEst := Config.offsetDeviation (run.map Meas.ofs) } } .locked
  else if a.slewing then refreshErr (setInc s1 (slewInc s1 (ofs * 2 ^ 32)))
  else s1

/-- A measurement of the source in use: source minus Almanac in units of 2^-16 ns; `beyond` counts it as beyond any threshold (R53, R62). -/
def almMeasure (s : State) (ofs : Int) (beyond : Bool) : State :=
  let e := errEst s
  let s0 := { s with alm := { s.alm with lastOfs := ofs } }
  let far := beyond || decide (dispThr s < ofs.natAbs)
  match s.alm.lock with
  | .freeRun => s0
  | .acquiring => acquire s0 ofs beyond
  | .locked => if far then toDisputed s0 ofs e else servo s0 ofs
  | .holdover => if far then toDisputed s0 ofs e else servo (lockTo s0 .locked) ofs
  | .disputed => disputeMeas s0 ofs beyond

/-! ### Sources (R45, R46) -/

/-- The priority of a source in ALM_SRC_CFG; 0 disables it. -/
def srcPri (s : State) : Source → Nat
  | .ptp => fld s R.almSrcCfg 5 4
  | .pps => fld s R.almSrcCfg 3 2
  | .irig => fld s R.almSrcCfg 1 0
  | .internal => 0

/-- Whether a source can be steered to: one that gives phase only needs seconds from elsewhere (R45, R63). -/
def srcUsable (s : State) (x : Source) : Bool :=
  s.alm.usable.contains x && decide (srcPri s x ≠ 0)
    && (match x with | .pps => s.alm.secKnown | .irig => s.alm.secKnown || s.alm.irigWhole | _ => true)

/-- The usable source of highest priority; equal priorities in the order PTP, PPS, IRIG-B (R45). -/
def bestSource (s : State) : Source :=
  [Source.ptp, .pps, .irig].foldl (fun b x =>
    if srcUsable s x && (decide (b = .internal) || decide (srcPri s x < srcPri s b)) then x else b) .internal

/-- The source chosen anew, with what its change or loss does to the lock state (R45, R53). -/
def chooseSource (s : State) : State :=
  let x := bestSource s
  let old := s.alm.source
  if x = old then s
  else
    let s1 := { s with alm := { s.alm with source := x, run := [] } }
    let gm := (s.alm.gm.map Grandmaster.id).getD 0
    if x = .internal then
      match s.alm.lock with
      | .acquiring => lockTo s1 .freeRun
      | .locked => toHoldover { s1 with alm := { s1.alm with source := old } } |> fun t => { t with alm := { t.alm with source := .internal } }
      | .disputed => toHoldover { s1 with alm := { s1.alm with source := old } } |> fun t => { t with alm := { t.alm with source := .internal } }
      | _ => s1
    else
      let s2 := if old = .internal then s1
        else raise 0x0305 s1 (items := [(1, x.code)] ++ (if x = .ptp then [(8, gm)] else []))
      if s.alm.lock = .freeRun then lockTo s2 .acquiring else refreshErr (reTrace s2)

/-- A source becomes usable or stops being so. -/
def setUsable (s : State) (x : Source) (v : Bool) : State :=
  let l := s.alm.usable.filter (fun y => decide (y ≠ x))
  chooseSource { s with alm := { s.alm with usable := if v then l ++ [x] else l } }

end Sys2Proof.Machine
end

