-- ==== Sys2Proof/Machine/AlmRows.lean ====
section
/-! DEFINITION. The meanings of the Almanac's commands and events but for PTP messages and TIME_RESTEP: steps, presets, PPS, IRIG-B, source loss, dispute, leap seconds, PPS_OUT, scheduled actions, snapshots on command (R41 to R77, R90, R91). -/

namespace Sys2Proof.Machine

/-! ### Presets, snapshots of the time, steps (R41, R44, R61, R80) -/

/-- A write of ALM_CTL.preset (R41). -/
def almPreset (s : State) : State :=
  let sec := regGet s R.almPresetSecLo + regGet s R.almPresetSecHi * 2 ^ 32
  if (s.alm.lock = .freeRun ∨ s.alm.lock = .acquiring) ∧ s.alm.sec < sec then { s with alm := { s.alm with preset := some (sec, now s / secI + 1) } }
  else flagSet s R.almStat 6 true

/-- A write of ALM_CTL.snap: ALM_NOW_* latch the current ATT (R80). -/
def almSnap (s : State) : State :=
  let a := attNow s
  regSet (regSet (regSet (regSet s R.almNowSecLo a.sec) R.almNowSecHi (a.sec / 2 ^ 32)) R.almNowNs a.ns) R.almNowFq (a.frac * 65536 + a.q.toNat)

/-- ALM_PRESET: a write of ALM_CTL.preset (R41). -/
def execAlmPreset (s : State) : Host.Outcome State Fault Refusal := next (almPreset s)

/-- ALM_SNAP: a write of ALM_CTL.snap (R80). -/
def execAlmSnap (s : State) : Host.Outcome State Fault Refusal := next (almSnap s)

/-- A preset applied as a step to its second; seconds are known from then on (R41, R45). A preset to the second that has just begun finds the counter a part of a tick past it and keeps that, so that no tag goes back (R39). -/
def presetStep (s : State) (sec : Nat) : State :=
  let new := if now s ≤ sec * secI then sec * secI else now s
  chooseSource (almanacStep { s with alm := { s.alm with preset := none, secKnown := true } } new .preset)

/-- An accepted preset whose top of a second has come (R41). -/
def landPreset (s : State) : State :=
  match s.alm.preset with
  | some (sec, due) =>
    if now s < due * secI then s
    else if s.alm.lock = .freeRun ∨ s.alm.lock = .acquiring then presetStep s sec
    else flagSet { s with alm := { s.alm with preset := none } } R.almStat 6 true
  | none => s

/-- A re-step applied: the era rises, the lock state goes to 2 (R39, R53, R61). -/
def restepApply (s : State) (new : Inst) : State :=
  almanacStep (lockTo { s with alm := { s.alm with era := s.alm.era + 1, restep := none } } .locked) new .restep

/-- The candidate time now: the source's time as the last measurement gave it, less what has been slewed since (R58, R61). -/
def candTime (s : State) : Int := (now s : Int) + s.alm.cand - rdivI s.alm.slewed (2 ^ 32)

/-- An accepted re-step whose top of a second of candidate time has come (R61); its completion reports the new time. -/
def landRestep (s : State) : State :=
  match s.alm.restep with
  | some (cid, at_) =>
    if (at_ : Int) ≤ candTime s ∧ s.alm.lock = .disputed then
      let s1 := restepApply s at_
      complete s1 cid stOk (attAt s1 at_)
    else s
  | none => s

/-- ALMANAC_STEP: the time counter is stepped by a first lock (R54), or by a preset or a re-step that was accepted, to that time, once its instant has come (R41, R44, R61). -/
def execAlmanacStep (sec ns : Nat) (cause : StepCause) (s : State) : Host.Outcome State Fault Refusal :=
  let new : Inst := sec * secI + ns % 10 ^ 9 * nsI
  match cause with
  | .firstLock =>
    let ofs := (new : Int) - now s
    if s.alm.lock = .acquiring then next (firstLock { s with alm := { s.alm with lastOfs := ofs } } ofs 0 1) else next s
  | .preset => if s.alm.preset.map Prod.fst = some sec ∧ ns = 0 then next (landPreset s) else next s
  | .restep => if s.alm.restep.map Prod.snd = some new then next (landRestep s) else next s

/-- PRESET_LANDING: the accepted preset reaches its top of a second (R41). -/
def execPresetLanding (s : State) : Host.Outcome State Fault Refusal := next (landPreset s)

/-- RESTEP_LANDING: the candidate time reaches the top of a second at which the re-step lands (R61). -/
def execRestepLanding (s : State) : Host.Outcome State Fault Refusal := next (landRestep s)

/-! ### PPS, IRIG-B, loss of a source (R46, R62 to R64) -/

/-- PPS_IN_EDGE: a rising edge on PPS_IN, now (R62). -/
def execPpsInEdge (s : State) : Host.Outcome State Fault Refusal :=
  let x : Int := (eventInst s : Int) - toSigned 32 (regGet s R.almPpsInDelay) * nsI
  let ofs := rdivI x secI * secI - x
  let s1 := setUsable { s with alm := { s.alm with ppsLast := s.dev.ticks } } .pps true
  next (if s1.alm.source = .pps then almMeasure s1 ofs (decide (100 * msI < ofs.natAbs)) else s1)

/-- A change of what the sources announce (R65): a leap second announced by PTP, else by IRIG-B, or none any more. DESIGN CHOICE (log entry 92): PTP is taken before IRIG-B, and an announcement that outlasts its leap second is no new one. -/
def leapNote (s : State) (ptp irig : Option Bool) : State :=
  let a := s.alm
  let old := a.ptpLeap.orElse (fun _ => a.irigLeap)
  let new := ptp.orElse (fun _ => irig)
  let s1 := { s with alm := { a with ptpLeap := ptp, irigLeap := irig } }
  match old, new with
  | none, some del =>
    let utc : Int := (now s / secI : Nat) - toSigned 16 (fld s R.almUtcOffset 15 0)
    raise 0x0306 { s1 with alm := { s1.alm with leapPending := true, leapDir := del, leapDay := (utc / 86400).toNat } }
  | some _, some del => { s1 with alm := { s1.alm with leapDir := a.leapPending && del } }
  | _, none => { s1 with alm := { s1.alm with leapPending := false, leapDir := false } }

/-- IRIGB_FRAME: a frame received; its on-time mark is a phase reference, and with valid extensions and a known TAI − UTC a full one (R46, R63, R64). -/
def execIrigbFrame (f : IrigFrame) (s : State) : Host.Outcome State Fault Refusal :=
  if !f.good then
    let s1 := { s with alm := { s.alm with irigBad := s.alm.irigBad + 1, irigLast := s.dev.ticks } }
    next (if 2 ≤ s1.alm.irigBad then setUsable s1 .irig false else s1)
  else
    let whole := f.ext && s.alm.utcValid
    let tai : Int := (f.irigSec : Int) - f.zoneSec + toSigned 16 (fld s R.almUtcOffset 15 0)
    let here : Int := rdivI ((now s : Int) + f.ofs) secI
    let ofs := if whole then (tai - here) * secI + f.ofs else f.ofs
    let s0 := { s with alm := { s.alm with
      irigBad := 0, irigLast := s.dev.ticks, irigWhole := whole, irigTq := if f.ext then f.quality else s.alm.irigTq, secKnown := s.alm.secKnown || whole } }
    let s1 := setUsable s0 .irig true
    let s2 := if f.ext then leapNote s1 s1.alm.ptpLeap (if f.leapPending then some f.leapDir else none) else s1
    next (if s2.alm.source = .irig then almMeasure s2 ofs (!whole && decide (100 * msI < f.ofs.natAbs)) else s2)

/-- Whether the first list comes before the second in lexicographic order. -/
def lexLess : List Nat → List Nat → Bool
  | a :: as, b :: bs => decide (a < b) || (decide (a = b) && lexLess as bs)
  | _, _ => false

/-- The order of the IEEE 1588-2008 data set comparison (R47): different grandmasters by their attributes in turn and at last by identity; one grandmaster by steps removed, then the sender's identity, then the receiving port. -/
def Grandmaster.better (x y : Grandmaster) : Bool :=
  let gm (g : Grandmaster) : List Nat := [g.prio1, g.clockClass, g.accuracy, g.variance, g.prio2, g.id]
  let path (g : Grandmaster) : List Nat := [g.steps, g.sender, g.port]
  if x.id = y.id then lexLess (path x) (path y) else lexLess (gm x) (gm y)

/-- The ticks of an interval of `2 ^ log` seconds. -/
def logTicks (log : Int) : Ticks := if 0 ≤ log then secT * 2 ^ log.toNat else secT / 2 ^ log.natAbs

/-- An announce timeout of three intervals has not passed (R46). -/
def Grandmaster.fresh (g : Grandmaster) (ticks : Ticks) : Bool := decide (ticks ≤ g.last + 3 * logTicks g.ivl)

/-- The best grandmaster of those heard is selected; PTP is usable while there is one (R45, R47). -/
def selectMaster (s : State) : State :=
  let l := s.alm.foreign.filter (fun g => g.fresh s.dev.ticks && g.ptpScale)
  let best := l.foldl (fun b g => match b with | none => some g | some x => if g.better x then some g else b) (none : Option Grandmaster)
  let same := decide (best.map Grandmaster.id = s.alm.gm.map Grandmaster.id)
  let s1 := { s with alm := { s.alm with
    foreign := s.alm.foreign.filter (fun g => g.fresh s.dev.ticks), gm := best, selPort := (best.map Grandmaster.port).getD 15, run := if same then s.alm.run else [], syncAt := if same then s.alm.syncAt else s.dev.ticks,
    syncIvl := if same then s.alm.syncIvl else 0, syncLost := same && s.alm.syncLost } }
  refreshErr (reTrace (setUsable s1 .ptp (best.isSome && !s1.alm.syncLost)))

/-- The IRIG-B frames missing or malformed in a row: one a second, missing half a second after its time (R46, log entry 93). -/
def irigMissed (s : State) : Nat := s.alm.irigBad + (s.dev.ticks - s.alm.irigLast - secT / 2) / secT

/-- SOURCE_LOST: a source has delivered nothing within its limit (R46): 0 PTP, by Announce or by Sync, 1 PPS, 2 IRIG-B. -/
def execSourceLost (src : Nat) (s : State) : Host.Outcome State Fault Refusal :=
  match src with
  | 0 => next (selectMaster (if elapsed s s.alm.syncAt (3 * logTicks s.alm.syncIvl) then { s with alm := { s.alm with syncLost := true } } else s))
  | 1 => next (if elapsed s s.alm.ppsLast (3 * secT / 2) then setUsable s .pps false else s)
  | 2 => next (if 2 ≤ irigMissed s then setUsable s .irig false else s)
  | _ => next s

/-! ### The dispute, traceability, leap seconds, PPS_OUT (R56, R58, R60, R65, R66) -/

/-- DISPUTE_HOLD_EXPIRY: the dispute hold runs out and the slew toward the source begins (R58). -/
def execDisputeHoldExpiry (s : State) : Host.Outcome State Fault Refusal :=
  let a := s.alm
  if a.lock = .disputed ∧ !a.slewing ∧ a.holdUntil ≤ now s then
    let left := a.lastOfs * 2 ^ 32
    next (setInc { s with alm := { a with slewing := true, slewLeft := left } } (slewInc s left))
  else next s

/-- RESTEP_READY: the candidate time has persisted for confirm_s (R60). -/
def execRestepReady (s : State) : Host.Outcome State Fault Refusal :=
  let a := s.alm
  if a.lock = .disputed ∧ !a.restepReady ∧ a.candSince + fld s R.almRestepCfg 11 0 * secI ≤ now s then next { s with alm := { a with restepReady := true } } else next s

/-- HOLDOVER_TRACE_LOSS: err_class exceeds trace_class in holdover (R56). -/
def execHoldoverTraceLoss (s : State) : Host.Outcome State Fault Refusal :=
  let s1 := refreshErr s
  if s1.alm.lock = .holdover ∧ s1.alm.traceable ∧ fld s1 R.almHoldCfg 23 16 < s1.alm.errClass then next { s1 with alm := { s1.alm with traceable := false } } else next s1

/-- LEAP_APPLY: the UTC day of an announced leap second ends (R65). -/
def execLeapApply (s : State) : Host.Outcome State Fault Refusal :=
  let a := s.alm
  let d : Int := if a.leapDir then -1 else 1
  let off := toSigned 16 (fld s R.almUtcOffset 15 0)
  if a.leapPending ∧ ((a.leapDay : Int) + 1) * 86400 + off + d ≤ (now s / secI : Nat) then
    let sec := (((a.leapDay : Int) + 1) * 86400 + off + d).toNat
    next (raise 0x0307 (fldSet { s with alm := { a with leapPending := false, leapDir := false, leapAt := some (sec, a.leapDir) } } R.almUtcOffset 15 0 (ofSigned 16 (off + d))))
  else next s

/-- PPS_OUT_PULSE: PPS_OUT rises at the top of a second, within the 5 ns of R68, while it is enabled and its gate is open, and falls after out_width_ms (R66). -/
def execPpsOutPulse (s : State) : Host.Outcome State Fault Refusal :=
  let a := s.alm
  let sec := now s / secI
  match a.ppsOut with
  | some t => if elapsed s t (fld s R.almPpsCfg 11 2 * msT) then next { s with alm := { a with ppsOut := none } } else next s
  | none =>
    let gate := !flag s R.almPpsCfg 1 || decide (a.lock = .locked) || (decide (a.lock = .holdover) && a.traceable)
    if a.ppsSec < sec ∧ now s % secI ≤ 5 * nsI ∧ flag s R.almPpsCfg 0 ∧ gate ∧ s.dev.mode ≠ .boot then next { s with alm := { a with ppsOut := some s.dev.ticks, ppsSec := sec } } else next s

/-! ### Scheduled actions (R69 to R76) -/

/-- The BAY record of a bay in the committed image. -/
def imageBay? (s : State) (n : Nat) : Option (List Byte) := s.scheme.bind (fun c => c.bay? n)

/-- The first instant at or after `t` at which an action executes (R70). -/
def Sched.instant (s : State) (x : Sched) : Inst :=
  let t := x.base
  match x.action with
  | 4 => (match s.scheme.bind (fun c => c.svpub? x.arg) with | some r => firstGrid (pubRate r) t | none => t)
  | 5 => if x.at_ < x.earliest then cdivN t 16384 * 16384 else rdivN t 16384 * 16384
  | 6 => if x.at_ < x.earliest then cdivN t 81920 * 81920 else rdivN t 81920 * 81920
  | 7 => t
  | _ => (match imageBay? s x.bay with | some r => firstGrid (brRate r) t | none => t)

/-- Where a slot number of SCHED_ADD points: a free slot, if there is one (R69). -/
def slotFor (s : State) (n : Nat) : Option Nat :=
  if n = 0xFFFF then (List.range 64).find? (fun i => (tget? s.alm.slots i).isNone)
  else if (tget? s.alm.slots n).isNone then some n else none

/-- An action judged for lateness at acceptance: 0 held, 1 late, 2 rejected (R71). -/
def lateness (s : State) (at_ : Inst) : Nat :=
  let l : Int := (now s : Int) + 10 * usI - at_
  if l ≤ 0 then 0 else if l ≤ lateLimit s then 1 else 2

/-- An action put into slot `n` as its lateness says: held, late, or refused (R71, R72). -/
def schedPut (s : State) (cid n : Nat) (x : Sched) : Nat → CmdOut
  | 0 => .ok { s with alm := { s.alm with slots := tset s.alm.slots n x } } Att.zero (leBytes 2 n)
  | 1 => .later { s with alm := { s.alm with slots := tset s.alm.slots n { x with late := some cid, earliest := now s + 10 * usI } } }
  | _ => .rej s stPast

/-- The ATT of a scheduled action in the parameters of SCHED_ADD and AFE_SNAP: seconds at 8, ns at 16, fraction at 20 (R69, R90). -/
def schedAtt (p : List Byte) : Inst := (field p 8 8 * 10 ^ 9 + field p 16 4) * nsI + field p 20 2

/-- Whether SCHED_ADD's parameters break a rule of R69 or R70: slot, action, flags, time, period, argument or bay. -/
def schedBad (s : State) (p : List Byte) : Bool :=
  let slot := field p 0 2
  let act := field p 2 1
  let bay := field p 4 2
  let arg := field p 6 2
  let arg2 := field p 24 4
  let period := field p 28 4
  let badArg := match act with
    | 1 => decide (7 < arg) | 4 => decide (7 < arg) | 6 => decide (7 < arg) || decide (1000000 < arg2)
    | 5 => decide (arg2 = 0) || (setBits 32 arg2).any (fun n => !chHasPath s n) | _ => false
  let badBay := match act with
    | 7 => decide (nBays s ≤ bay)
    | 4 => decide (bay ≠ 0xFFFF ∧ nBays s ≤ bay) | 5 => decide (bay ≠ 0xFFFF ∧ nBays s ≤ bay) | 6 => decide (bay ≠ 0xFFFF ∧ nBays s ≤ bay)
    | _ => decide (nBays s ≤ bay) || (imageBay? s bay).isNone
  let badTime := decide (999999999 < field p 16 4) || (bitOf (field p 3 1) 0 && (decide (period = 0) || decide (86400 < period)))
  decide (63 < slot ∧ slot ≠ 0xFFFF) || decide (act = 0) || decide (7 < act) || decide (1 < field p 3 1) || badTime || badArg || badBay

/-- The action that SCHED_ADD's parameters give (R69). -/
def schedOf (p : List Byte) : Sched := ⟨field p 2 1, bitOf (field p 3 1) 0, field p 4 2, field p 6 2, schedAtt p, field p 24 4, field p 28 4, none, 0, none⟩

/-- The owning rule of SCHED_ADD (R69 to R72). -/
def schedAddOwn (e : CmdEntry) (cid : Nat) (s : State) : CmdOut :=
  if schedBad s e.params then .rej s stBadParam
  else
    match slotFor s (field e.params 0 2) with
    | none => .rej s stNoResource
    | some n => schedPut s cid n (schedOf e.params) (lateness s (schedAtt e.params))

/-- The parameter bytes that the command lists. -/
def usedSchedAdd : List (Nat × Nat) := [(0, 22), (24, 8)]

/-- SCHED_ADD. -/
def execSchedAdd (e : CmdEntry) (s : State) : Host.Outcome State Fault Refusal := next (submit 0x21 usedSchedAdd schedAddOwn e s)

/-- The owning rule of SCHED_CANCEL (R72, R76, R91). -/
def schedCancelOwn (e : CmdEntry) (_cid : Nat) (s : State) : CmdOut :=
  let n := field e.params 0 2
  if 63 < n then .rej s stBadParam
  else
    match tget? s.alm.slots n with
    | none => .rej s stBadParam
    | some x => if x.instant s < now s + 10 * usI then .rej s stBusy else .ok (endSlot (freeSlot s n) x stAborted)

/-- The parameter bytes that the command lists. -/
def usedSchedCancel : List (Nat × Nat) := [(0, 2)]

/-- SCHED_CANCEL. -/
def execSchedCancel (e : CmdEntry) (s : State) : Host.Outcome State Fault Refusal := next (submit 0x22 usedSchedCancel schedCancelOwn e s)

/-- The owning rule of AFE_SNAP (R90 to R92). DESIGN CHOICE (log entry 91): where no slot is free, a timed snapshot that is also too late completes with NO_RESOURCE. -/
def afeSnapOwn (e : CmdEntry) (cid : Nat) (s : State) : CmdOut :=
  let p := e.params
  let mask := field p 0 4
  let ns := field p 16 4
  let host := field p 24 8
  let timed := bitOf (field p 4 1) 0
  if mask = 0 ∨ 1 < field p 4 1 ∨ host % 64 ≠ 0 ∨ (setBits 32 mask).any (fun n => !chHasPath s n) then .rej s stBadParam
  else if timed then
    let at_ := schedAtt p
    let late := lateness s at_
    if 999999999 < ns then .rej s stBadParam
    else
      match slotFor s 0xFFFF with
      | none => .rej s stNoResource
      | some n =>
        if late = 2 then .rej s stPast
        else .later { s with alm := { s.alm with
          slots := tset s.alm.slots n ⟨5, false, 0xFFFF, 0, at_, mask, 0, none, if late = 1 then now s + 10 * usI else 0, some (cid, host)⟩ } }
  else if field p 8 8 ≠ 0 ∨ ns ≠ 0 ∨ field p 20 2 ≠ 0 then .rej s stBadParam
  else .later { s with afe := { s.afe with snaps := s.afe.snaps ++ [⟨mask, cdivN (now s + 10 * usI) 16384, host, some cid, false⟩] } }

/-- The parameter bytes that the command lists. -/
def usedAfeSnap : List (Nat × Nat) := [(0, 5), (8, 14), (24, 8)]

/-- AFE_SNAP. -/
def execAfeSnap (e : CmdEntry) (s : State) : Host.Outcome State Fault Refusal := next (submit 0x30 usedAfeSnap afeSnapOwn e s)

/-- Why an action is not executed at its instant; the lowest code of those that apply (R74). -/
def skipReason (s : State) (x : Sched) (t : Inst) : Option Nat :=
  let m := modeAt s t
  let has (l : List Nat) : Bool := l.contains x.action
  let runs := match bay? s x.bay with
    | some b => b.runs && (match stopAt? s x.bay with | some e => !e.le (evalFrom b.rate t) | none => true)
    | none => false
  if decide (m = .vigil) && has [1, 2, 3, 6] then some 1
  else if decide (m = .safe) && has [1, 6] then some 2
  else if (decide (m = .commission) || decide (m = .test)) && has [6] && !s.dev.dtoEn then some 3
  else if has [1, 3] && !runs then some 4
  else if has [1, 2, 3] && (imageBay? s x.bay).isNone then some 5
  else none

/-- The effect of an action at its execution instant (R70); the active forwards those that name a bay (R459). -/
def actionEffect (s : State) (x : Sched) (t : Inst) : State :=
  let rate := match imageBay? s x.bay with | some r => brRate r | none => 14400
  let at_ := evalFrom rate t
  match x.action with
  | 1 => (match bay? s x.bay with
      | some b => if bitOf (brMask b.recd) x.arg then forward (putReqIf s x.bay (.switch x.arg) at_ false) 1 x.bay at_ x.arg else s
      | none => s)
  | 2 => (match bay? s x.bay with | some b => if b.ctx.run = 0 then forward (putReq s x.bay .start at_ false) 2 x.bay at_ 0 else s | none => s)
  | 3 => (match bay? s x.bay with | some b => if b.ctx.run = 1 then forward (putReq s x.bay .stop at_ false) 3 x.bay at_ 0 else s | none => s)
  | 4 => if (s.scheme.bind (fun c => c.svpub? x.arg)).isSome then flagSet (pubStart s x.arg t) R.sviPubCtl x.arg true else s
  | 5 => { s with afe := { s.afe with snaps := s.afe.snaps ++ [⟨x.arg2, t / 16384, (x.own.map Prod.snd).getD 0, x.own.map Prod.fst, decide (x.at_ < x.earliest)⟩] } }
  | 6 =>
    let w := if x.arg2 = 0 then fld s (R.bayDtoCfg x.arg) 13 0 * 100 else x.arg2
    let end_ := s.dev.ticks + w * usT
    let run := match (dto s x.arg).pulse with | some e => if end_ < e then e else end_ | none => end_
    dtoAll { s with cfg := { s.cfg with dtos := tset s.cfg.dtos x.arg { dto s x.arg with pulse := some run } } }
  | 7 => modCup s x.bay (fun b => { b with acts := b.acts ++ [(t, x.at_)] })
  | _ => s

/-- An action executed or skipped at its instant, and its slot freed or advanced (R72 to R75, R91). -/
def schedRun (s : State) (n : Nat) (x : Sched) : State :=
  let t := x.instant s
  match skipReason s x t with
  | some r => endSlot (skipSlot s n x r) x stAborted
  | none =>
    let s0 := freeSlot s n
    let s1 := if x.rep then { s0 with alm := { s0.alm with slots := tset s0.alm.slots n { x with at_ := x.at_ + x.period * secI, earliest := 0, late := none } } } else s0
    let s2 := actionEffect s1 x t
    match x.late, x.own with
    | some c, _ => complete s2 c stLate (attAt s2 t) (leBytes 2 n)
    | none, some _ => s2
    | none, none => raise 0x0309 s2 (bay := x.bay) (idx := n) (items := [(1, x.action)]) (att := some (attAt s2 t))

/-- SCHED_EXECUTE: the scheduled action whose instant came first is executed or skipped; equal instants in slot order (R70 to R75). -/
def execSchedExecute (s : State) : Host.Outcome State Fault Refusal :=
  let due := s.alm.slots.filter (fun p => decide (p.2.instant s ≤ now s))
  let first := due.foldl (fun b p => match b with | none => some p | some q => if p.2.instant s < q.2.instant s then some p else b) (none : Option (Nat × Sched))
  match first with
  | some (n, x) => next (schedRun s n x)
  | none => next s

end Sys2Proof.Machine
end

