-- ==== Sys2Proof/Machine/MirRows.lean ====
section
/-! DEFINITION. The commands and events of the pair (R449 to R476), and the filter outputs that are mirrored (R133, R454). -/

namespace Sys2Proof.Machine

/-- FILTER_OUTPUT: the next S0 sample of a channel passes the chain, and every output formed goes to what reads it (R125 to R139, R454). Channel 0xFFFF is the frame that an active with no enabled channel sends for an instant of the 14,400 S/s grid. -/
def execFilterOutput (ch : Nat) (s : State) : Host.Outcome State Fault Refusal :=
  if ch < 32 then
    let r := fltAdvance s ch
    next (takeOuts r.s ch r.outs)
  else if ch = 0xFFFF ∧ isActive s ∧ pairFlag s 0 ∧ (s.afe.chEn = 0 ∨ !s.afe.running) then
    next (sendSamples s 0xFFFF (evalAtOrBefore 14400 (now s / nsI)) none none)
  else next s

/-- HEARTBEAT_SEND: every 100 µs of Almanac time a HEARTBEAT goes out on both lanes (R453); the pair state follows the link (R468). -/
def execHeartbeatSend (s : State) : Host.Outcome State Fault Refusal :=
  if paired s && decide (s.mir.hbAt ≤ now s) then
    let due := (now s / (100 * usI) + 1) * (100 * usI)
    next (sendHeartbeat (linkCheck { s with mir := { s.mir with hbAt := due } }))
  else next s

/-- HEARTBEAT_RX: a heartbeat counts for its lane, and its first copy for the pair (R450 to R453, R465, R470, R471). -/
def execHeartbeatRx (h : LinkHead) (b : Heartbeat) (s : State) : Host.Outcome State Fault Refusal :=
  let r := linkRx s h 1
  next (if r.2 then takeHeartbeat r.1 b else r.1)

/-- SAMPLES_RX: the standby stages mirrored words, IR entries and BIN levels (R454). -/
def execSamplesRx (h : LinkHead) (m : MirSamples) (s : State) : Host.Outcome State Fault Refusal :=
  let r := linkRx s h 2
  next (if r.2 && decide (r.1.dev.mode = .vigil) && pairFlag r.1 0 then takeSamples r.1 m else r.1)

/-- MIRROR_DEADLINE: a mirrored word has not been staged mir_wait_us after the own output of its instant (R455). -/
def execMirrorDeadline (s : State) : Host.Outcome State Fault Refusal :=
  if s.dev.mode = .vigil ∧ s.mir.inUse then
    match overdue s with
    | some w => next (mirrorFallback s w)
    | none => next s
  else next s

/-- EVENT_RX: the entries of an EVENT frame in order (R459, R463, R464, R473, R474). -/
def execEventRx (h : LinkHead) (es : List MirEvent) (s : State) : Host.Outcome State Fault Refusal :=
  let r := linkRx s h 3
  next (if r.2 then (es.take 16).foldl takeEvent r.1 else r.1)

/-- SNAPSHOT_SEND: every running bay has committed a snapshot instant; the active sends the snapshot (R460). -/
def execSnapshotSend (s : State) : Host.Outcome State Fault Refusal :=
  if isActive s && linkUp s && !pairBad s then
    match snapDue s with
    | some x => next (setMir (sendParts s 4 (snapBytes s x)) (fun m => { m with sentNum := x.num, shadow := m.shadow.filter (fun y => decide (x.num < y.num)) }))
    | none => next s
  else next s

/-- SNAPSHOT_PART_RX: a part reaches a standby that is not ISOLATED (R461, R462, R468). -/
def execSnapshotPartRx (h : LinkHead) (part count : Nat) (data : List Byte) (s : State) : Host.Outcome State Fault Refusal :=
  let r := linkRx s h 4
  next (if r.2 && decide (r.1.dev.mode = .vigil) && !r.1.mir.iso then takeSnapPart r.1 part count data else r.1)

/-- SNAPSHOT_TIMEOUT: a snapshot not complete 1 ms after its first part is discarded (R461). -/
def execSnapshotTimeout (s : State) : Host.Outcome State Fault Refusal :=
  match s.mir.rxSince with
  | some t => if elapsed s t msT then next (discardSnap s s.mir.rxNum 1) else next s
  | none => next s

/-- LANE_DOWN_TIMEOUT: a lane has delivered no valid heartbeat for 1 ms (R452). -/
def execLaneDownTimeout (l : Nat) (s : State) : Host.Outcome State Fault Refusal :=
  if paired s && decide (l < 2) && (lane s l).up && elapsed s (lane s l).lastHb msT then next (laneDown s l) else next s

/-- MIR_FRAME_TIMEOUT: a frame not complete 20 µs after its first byte is discarded and counted (R451). -/
def execMirFrameTimeout (l : Nat) (s : State) : Host.Outcome State Fault Refusal :=
  if paired s && decide (l < 2) && flag s R.mirCtl l then next (laneErr s l) else next s

/-- FULL_RESYNC_START: the active starts a full resynchronisation of a standby that is SYNCING, 10 ms after mirrored samples began (R463). -/
def execFullResyncStart (s : State) : Host.Outcome State Fault Refusal :=
  let vigil := match s.mir.partner with | some p => decide (p.mode = 3) && decide (p.pstate = 2) | none => false
  if isActive s && linkUp s && !pairBad s && pairFlag s 0 && s.mir.full.isNone && decide (s.mir.pstate = 2) && vigil
      && elapsed s (s.mir.syncSince.getD 0) (10 * msT) then next (startFull s none)
  else next s

/-- BAY_RESYNC_STEP: at each whole millisecond the next bay of a full resynchronisation begins (R463, R464). -/
def execBayResyncStep (s : State) : Host.Outcome State Fault Refusal :=
  match s.mir.full with
  | some f =>
    if isActive s && decide (now s / msI ≠ f.ms) then
      let left := f.todo.filter (fun n => (match bay? s n with | some b => b.runs | none => false))
      match left.filter (fun n => (tget? s.mir.brs n).isNone) with
      | n :: _ => next (startBayRs (setMir s (fun m => { m with full := some { f with ms := now s / msI } })) n)
      | [] => next (endFull (setMir s (fun m => { m with full := some { f with todo := left } })))
    else next s
  | none => next s

/-- BAYSTATE_RX: a part of a bay's state reaches the standby; the whole copy is adopted before k_r runs (R464). -/
def execBaystateRx (h : LinkHead) (bay part count : Nat) (copy : BayCopy) (s : State) : Host.Outcome State Fault Refusal :=
  let r := linkRx s h 5
  match tget? r.1.mir.brs bay with
  | some x =>
    if r.2 && decide (r.1.dev.mode = .vigil) then
      let ps := if x.parts.contains part then x.parts else part :: x.parts
      let y := { x with parts := ps, count := count, copy := if count ≤ ps.length then some copy else x.copy }
      next (tryAdopt (setMir r.1 (fun m => { m with brs := tset m.brs bay y })) bay)
    else next r.1
  | none => next r.1

/-- BAY_RESYNC_TIMEOUT: the copy is not complete 200 µs after the standby's seal of k_r, which then runs on own state (R464). -/
def execBayResyncTimeout (bay : Nat) (s : State) : Host.Outcome State Fault Refusal :=
  match tget? s.mir.brs bay with
  | some x =>
    match x.sealAt with
    | some t =>
      if decide (s.dev.mode = .vigil) && x.copy.isNone && elapsed s t (200 * usT) then
        next (setMir s (fun m => { m with brs := terase m.brs bay, retry := tset m.retry bay s.dev.ticks, synced := m.synced.filter (fun n => decide (n ≠ bay)) }))
      else next s
    | none => next s
  | none => next s

/-- BAY_RESYNC_RETRY: at least 10 ms after a failed or divergence-scheduled resynchronisation of a bay, the standby asks for it and the active starts it (R462, R464). -/
def execBayResyncRetry (bay : Nat) (s : State) : Host.Outcome State Fault Refusal :=
  let waited := match tget? s.mir.retry bay with | some t => elapsed s t (10 * msT) | none => decide (s.dev.mode = .service)
  if paired s && linkUp s && !pairBad s && waited && (tget? s.mir.brs bay).isNone then
    if isActive s then next (if s.mir.pstate = 2 ∨ s.mir.pstate = 3 then startBayRs s bay else s)
    else if s.dev.mode = .vigil then next (linkEvent { s with mir := { s.mir with retry := tset s.mir.retry bay s.dev.ticks } } 9 bay ⟨0, 0⟩ [])
    else next s
  else next s

/-- PARTNER_LOSS: no heartbeat and no beacon of the partner for more than 3 ms (R465); an active is alone. -/
def execPartnerLoss (s : State) : Host.Outcome State Fault Refusal :=
  let old (t : Option Ticks) : Bool := match t with | some x => decide (x + 3 * msT < s.dev.ticks) | none => true
  if paired s && old s.mir.lastHb && old s.mir.lastBcn && decide (s.dev.since + 3 * msI < now s) then
    match s.dev.mode with
    | .vigil => next (detectTakeover s 0)
    | .service => next (if s.mir.pstate = 1 then s else setPstate (cancelHand (stopResync s)) 1)
    | _ => next s
  else next s

/-- TAKEOVER_EFFECT: the takeover at its instant (R466). -/
def execTakeoverEffect (s : State) : Host.Outcome State Fault Refusal :=
  match s.mir.takeover with
  | some t => if decide (s.dev.mode = .vigil) && decide (t.at_ ≤ now s) then next (takeoverEffect s t) else next s
  | none => next s

/-- REVERT_HOLDOFF_EXPIRY: unit A in VIGIL has been SYNCED for holdoff_s and is revert ready (R472). -/
def execRevertHoldoffExpiry (s : State) : Host.Outcome State Fault Refusal :=
  if paired s && decide (s.dev.mode = .vigil) && !isUnitB s && flag s R.mirCfg 31 && !flag s R.mirStat 22 && decide (s.mir.pstate = 3)
      && elapsed s (s.mir.syncSince.getD 0) (fld s R.mirCfg 16 0 * secT) then next (flagSet s R.mirStat 23 true)
  else next s

/-- QUIET_INSTANT: the active finds a quiet instant while a revertive return or a MIR_ROLE waits, and proposes a hand-over (R472 to R474). -/
def execQuietInstant (s : State) : Host.Outcome State Fault Refusal :=
  let role := match s.mir.role with | some r => decide (r.target = 1) | none => false
  let revert := isUnitB s && (match s.mir.partner with | some p => decide (p.mode = 3) && bitOf p.flags 2 | none => false)
  if isActive s && s.mir.hand.isNone && s.mir.contention.isNone && decide (s.mir.pstate = 3) && linkUp s && !pairBad s && quietNow s && (role || revert) then
    next (propose s (b2n role) false)
  else next s

/-- HANDOVER_TIMEOUT: no acceptance within 200 µs, or no commit by k_h − 200 µs; on the standby, k_h passes without a commit (R473). -/
def execHandoverTimeout (s : State) : Host.Outcome State Fault Refusal :=
  match s.mir.hand with
  | some h =>
    if h.committed then next s
    else if h.mine then (if (!h.accepted && elapsed s h.since (200 * usT)) || decide (h.kh < now s + 200 * usI) then next (cancelHand s) else next s)
    else if h.kh ≤ now s then next (cancelHand s)
    else next s
  | none => next s

/-- HANDOVER_EFFECT: the units swap roles at k_h (R473). -/
def execHandoverEffect (s : State) : Host.Outcome State Fault Refusal :=
  match s.mir.hand with
  | some h =>
    if h.committed && decide (h.kh ≤ now s) && decide (s.dev.mode = if h.mine then Mode.service else Mode.vigil) then next (handEffect s h) else next s
  | none => next s

/-- CONTENTION_EFFECT: unit B in contention enters VIGIL (R471). -/
def execContentionEffect (s : State) : Host.Outcome State Fault Refusal :=
  match s.mir.contention with
  | some t =>
    if decide (s.dev.mode = .service) && decide (t ≤ now s) then
      let s1 := changeMode s .vigil t
      next (raise 0x0C07 (bump s1 R.mirRoleCnt) (items := [(1, 2)]) (att2 := attAt s1 t))
    else next s
  | none => next s

/-- MIR_ROLE's own rule (R474). -/
def ownMirRole (e : CmdEntry) (cid : Nat) (s : State) : CmdOut :=
  let tgt := field e.params 0 1
  let force := bitOf (field e.params 1 1) 0
  let active := decide (s.dev.mode = .service)
  if !(active || decide (s.dev.mode = .vigil)) then .rej s stBadMode
  else if 2 < tgt ∨ 1 < field e.params 1 1 then .rej s stBadParam
  else if tgt = 2 then .ok (flagSet s R.mirStat 22 false)
  else if decide (tgt = 0) = active then .ok s
  else if !paired s || decide (s.mir.pstate ≠ 3) then .rej s stNoResource
  else if s.mir.takeover.isSome || s.mir.hand.isSome || s.mir.role.isSome || s.mir.full.isSome || !s.mir.brs.isEmpty || !s.mir.one.isEmpty then .rej s stBusy
  else
    let s1 := { s with mir := { s.mir with role := some ⟨tgt, force, s.dev.ticks + 10 * secT, some cid⟩ } }
    if active then .later (if force then propose s1 1 true else s1)
    else .later (linkEvent s1 11 0xFFFF ⟨0, 0⟩ (leBytes 1 (b2n force)))

/-- The parameter bytes that the command lists. -/
def usedMirRole : List (Nat × Nat) := [(0, 2)]

/-- MIR_ROLE: a role move between the units, or the end of the revert suspension (R474). -/
def execMirRole (e : CmdEntry) (s : State) : Host.Outcome State Fault Refusal := next (submit 0x70 usedMirRole ownMirRole e s)

/-- MIR_ROLE_QUIET_TIMEOUT: no quiet instant within 10 s of a MIR_ROLE (R474). -/
def execMirRoleQuietTimeout (s : State) : Host.Outcome State Fault Refusal :=
  match s.mir.role with
  | some r => if s.mir.hand.isNone && decide (r.until_ ≤ s.dev.ticks) then next (endRole s stAborted Att.zero) else next s
  | none => next s

/-- MIR_SYNC's own rule (R475). -/
def ownMirSync (e : CmdEntry) (cid : Nat) (s : State) : CmdOut :=
  let n := field e.params 0 2
  let active := decide (s.dev.mode = .service)
  let runs := match bay? s n with | some b => b.runs | none => false
  if !(active || decide (s.dev.mode = .vigil)) then .rej s stBadMode
  else if n ≠ 0xFFFF ∧ !runs then .rej s stBadParam
  else if !paired s || !linkUp s || pairBad s then .rej s stNoResource
  else if s.mir.full.isSome then .rej s stBusy
  else if n = 0xFFFF then
    if active then .later (startFull s (some cid))
    else .later (linkEvent (setMir s (fun m => { m with full := some ⟨runningBays s, some cid, attNow s, now s / msI⟩ })) 9 0xFFFF ⟨0, 0⟩ [])
  else
    let s1 := { s with mir := { s.mir with one := tset s.mir.one n (tget [] s.mir.one n ++ [cid]) } }
    if active then .later (if (tget? s1.mir.brs n).isNone then startBayRs s1 n else s1) else .later (linkEvent s1 9 n ⟨0, 0⟩ [])

/-- The parameter bytes that the command lists. -/
def usedMirSync : List (Nat × Nat) := [(0, 2)]

/-- MIR_SYNC: a bay resynchronisation or a full one (R475). -/
def execMirSync (e : CmdEntry) (s : State) : Host.Outcome State Fault Refusal := next (submit 0x71 usedMirSync ownMirSync e s)

end Sys2Proof.Machine
end

