-- ==== Sys2Proof/Machine/RegWrite.lean ====
section
/-! DEFINITION. Writes of SETUP registers and of REGSET records: access codes, ranges, the seal, the checks of the owning rules, and what a written value acts on (R6, R7, R78, R96, R104, R111, R114, R117, R144, R176, R209, R317, R339, R381, R415, R446, R478, R515, R560 to R568, R573, R578). -/

namespace Sys2Proof.Machine

/-! ### Windows and stored words -/

/-- The entry selected in the multicast table (R389, R416). -/
def mcEntry (s : State) : Nat × Nat × Nat := tget (0, 0, 0) s.bel.mc (fld s R.belMcIdx 7 0)

/-- The word of the writable fields of a register: that of the selected entry for the VLAN and multicast windows. -/
def shownWord (s : State) (a : Nat) : Nat :=
  if a = R.belVlanCfg then tget 0 s.bel.vlan (fld s R.belVlanIdx 5 0)
  else if a = R.belMcMacLo then (mcEntry s).1
  else if a = R.belMcMacHi then (mcEntry s).2.1
  else if a = R.belMcPorts then (mcEntry s).2.2
  else regGet s a

/-- A word stored in a register, or in the selected table entry. -/
def storeWord (s : State) (a w : Nat) : State :=
  let m := mcEntry s
  let put (e : Nat × Nat × Nat) : State := { s with bel := { s.bel with mc := tset s.bel.mc (fld s R.belMcIdx 7 0) e } }
  if a = R.belVlanCfg then { s with bel := { s.bel with vlan := tset s.bel.vlan (fld s R.belVlanIdx 5 0) w } }
  else if a = R.belMcMacLo then put (w, m.2.1, m.2.2)
  else if a = R.belMcMacHi then put (m.1, w, m.2.2)
  else if a = R.belMcPorts then put (m.1, m.2.1, w)
  else regSet s a w

/-- Whether a field holds what is written to it. -/
def Fld.holds (f : Fld) : Bool := decide (f.acc = .rw) || decide (f.acc = .rws)

/-- The word a write leaves: RW and RWS fields take the value, W1C bits are cleared where 1 is written, W1S and WO fields read 0; with `shut` the sealed RWS fields keep theirs (R7, R561, R567). -/
def writtenWord (flds : List Fld) (shut : Bool) (old v : Nat) : Nat :=
  flds.foldl (fun w f =>
    match f.acc with
    | .ro => w
    | .rw => f.put w (f.get v)
    | .rws => if shut then w else f.put w (f.get v)
    | .w1c => f.put w (f.get old - Nat.land (f.get old) (f.get v))
    | .w1s => f.put w 0
    | .wo => f.put w 0) old

/-- Whether a write would change an RWS field. -/
def changesRws (flds : List Fld) (old v : Nat) : Bool := flds.any (fun f => decide (f.acc = .rws) && decide (f.get old ≠ f.get v))

/-- Whether every field that the write sets lies in its stated range. DESIGN CHOICE (log entry 91): the value written to a sealed RWS field is discarded before its range is looked at, so it raises SEALED and no cfg_rej. -/
def inRanges (flds : List Fld) (shut : Bool) (v : Nat) : Bool :=
  flds.all (fun f => !f.holds || (shut && decide (f.acc = .rws)) || f.admits (f.get v))

/-- The cfg_rej bit of the block that owns a register (R3, R564). -/
def cfgRej (s : State) (a : Nat) : State :=
  if a < 0x0400 then s
  else if a < 0x0800 then flagSet s R.pwrStat 1 true
  else if a < 0x1000 then flagSet s R.almStat 7 true
  else if a < 0x1800 then flagSet s R.afeStat 15 true
  else if a < 0x2000 then flagSet s (R.fltStat ((a - 0x1800) / 0x40)) 4 true
  else if a < 0x2800 then flagSet s R.sviStat 0 true
  else if a < 0x3000 then flagSet s R.cfgStat 18 true
  else if a < 0x3800 then flagSet s R.lksStat 0 true
  else if a < 0x4000 then flagSet s R.bayStat 0 true
  else if a < 0x4800 then flagSet s R.cupStat 0 true
  else if a < 0x5000 then flagSet s R.belStat 0 true
  else if a < 0x5800 then flagSet s R.mirStat 17 true
  else if a < 0x6000 then flagSet s R.hifStat 0 true
  else if a < 0x6800 then flagSet s R.secStat 7 true
  else if a < 0x7000 then flagSet s R.dpcStat 1 true
  else flagSet s R.metStat 0 true

/-! ### The checks of the owning rules -/

/-- Whether the fast path of an input is mapped to a running bay, as a local channel or as a fallback. -/
def usedByBay (s : State) (ch : Nat) : Bool :=
  s.bays.any (fun (_, b) => b.runs && (List.range 8).any (fun c => let m := brMap b.recd c
    (decide (mapKind m = 1) || decide (mapKind m = 2)) && decide (mapAin m = ch)))

/-- Whether the S4 output of an input is used by a running bay at 4,800 S/s (R122). -/
def usedSlow (s : State) (ch : Nat) : Bool :=
  s.bays.any (fun (_, b) => b.runs && brSlow b.recd && (List.range 8).any (fun c => let m := brMap b.recd c
    (decide (mapKind m = 1) || decide (mapKind m = 2)) && decide (mapAin m = ch)))

/-- Whether an input feeds a running published stream, of 4,800 S/s only when `slow` (R173). -/
def usedByPub (s : State) (ch : Nat) (slow : Bool) : Bool :=
  s.svi.pubs.any (fun (n, p) => p.run && (match s.scheme.bind (fun c => c.svpub? n) with
    | some r => (!slow || decide (pubRate r = 4800)) && (List.range (field r 3 1)).any (fun m => decide (field r (88 + m) 1 = ch))
    | none => false))

/-- Whether an input is tapped by an enabled tap. -/
def usedByTap (s : State) (ch : Nat) : Bool := (List.range 4).any (fun t => flag s (R.afeTapCfg t) 31 && decide (fld s (R.afeTapCfg t) 20 16 = ch))

/-- Whether the two channels of every enabled pair are assigned to one tracker (R111). -/
def pairsOk (s : State) : Bool :=
  (List.range 16).all (fun p => !flag s (R.afePairCfg p) 31 || decide (trkOf s (fld s (R.afePairCfg p) 9 5) = trkOf s (fld s (R.afePairCfg p) 4 0)))

/-- The EtherTypes BEL_ETYPE accepts (R415). -/
def etypeOk (v : Nat) : Bool := decide (0x0600 ≤ v) && !([0x8100, 0x88B8, 0x88BA, 0x88F7, 0x88FB, 0x892F].contains v)

/-- The largest area_64m that the trained DRAM admits; no check before training (R578). -/
def areaMax (s : State) : Nat := match fld s R.devCap2 31 28 with | 0 => 96 | 1 => 42 | _ => 96

/-- Whether the owning rule refuses the word `w` for a register. A host write is also held to the use of the fast path by running bays, streams and taps; for the REGSET records of an image that use is checked against the image itself (R96, R114, R206). -/
def ruleRefuses (host : Bool) (s : State) (a w : Nat) : Bool :=
  let old := shownWord s a
  if a = R.almPpsInDelay then decide (10 ^ 6 < (toSigned 32 w).natAbs)
  else if a = R.afeCtl then
    host && bitOf old 0 && !bitOf w 0 && (List.range 32).any (fun c => bitOf s.afe.chEn c && (usedByBay s c || usedByPub s c false || usedByTap s c))
  else if a = R.afeChEn then host && (List.range 32).any (fun c => bitOf old c && !bitOf w c && usedByBay s c)
  else if a = R.afeIlv then host && (List.range 16).any (fun k => !bitOf old k && bitOf w k && usedByBay s (2 * k + 1))
  else if 0x1030 ≤ a ∧ a ≤ 0x103C then host && bitOf w 31 && decide ((tget? s.hif.rings (w % 128)).map HostRing.kind ≠ some .svt)
  else if 0x1080 ≤ a ∧ a ≤ 0x10CC then !pairsOk (storeWord s a w)
  else if a = R.lksCtl then !bitOf w 0 && !(host && decide (s.dev.mode = .test))
  else if a = R.lksSel then decide (nGroups s ≤ w % 256)
  else if a = R.lksDbgCtl then decide (nCells s ≤ w % 512)
  else if 0x3810 ≤ a ∧ a ≤ 0x382C then decide (nBays s ≤ bitsOf w 29 23)
  else if a = R.bayBelEn 2 ∨ a = R.bayBelEn 3 then s.dev.part7264 && decide (w ≠ 0)
  else if 0x4200 ≤ a ∧ a ≤ 0x42FC then s.dev.part7264
  else if a = R.cupAreaCfg then decide (areaMax s < w % 256) || (decide (w ≠ old) && s.cup.recs.any (fun r => decide (r.st ≠ .lost)))
  else if a = R.belCtl then decide (24 < bitsOf w 15 11) && decide (bitsOf w 15 11 ≠ 31)
  else if a = R.belEtype then !etypeOk (w % 2 ^ 16)
  else if 0x5808 ≤ a ∧ a ≤ 0x5818 then
    s.hif.rings.any (fun p => decide (p.1 = 0)) ||
    (if a = R.hifAdminCfg then decide (127 < bitsOf w 23 16) && decide (bitsOf w 23 16 ≠ 0xFF)
     else if a = R.hifAdminCmdLo ∨ a = R.hifAdminCplLo then decide (w % 4096 ≠ 0) else false)
  else if a = R.secOtpProgAddr then decide (w % 4 ≠ 0) || decide (2 ^ 14 ≤ w)
  else false

/-! ### What a written value acts on -/

/-- New enables and interleaving: taken up at the next top of a second while it runs, at once otherwise (R96). -/
def chCfg (s : State) : State :=
  let ch := regGet s R.afeChEn
  let ilv := regGet s R.afeIlv
  if s.afe.running then { s with afe := { s.afe with pendCh := some ch, pendIlv := some ilv, cfgAt := now s / secI + 1 } } else applyChCfg s ch ilv

/-- A tracker's start: no boundary and no crossing yet (R109, R114). -/
def Tracker.start (k : Tracker) (ns : Nat) : Tracker := { k with lastB := none, pos := none, neg := none, upAt := none, downAt := none, peak := 0, startAt := ns }

/-- AFE_CTL written: `old` is the word before (R84, R114). DESIGN CHOICE (log entry 8): edge_src set while the path runs does not switch at once; SAMPLE_SYNC comes into use as after a loss (R88). A REGSET record starts and stops nothing by itself: the image's application does. -/
def afeCtlAct (host : Bool) (s : State) (old w : Nat) : State :=
  let s1 := if bitOf old 3 && !bitOf w 3 && s.afe.sync.active then setSyncActive s false else s
  let s2 := if !bitOf old 1 && bitOf w 1 then (List.range 8).foldl (fun st t => modTrk st t (fun k => k.start (now s / nsI))) s1 else s1
  if !host then s2
  else if !bitOf old 0 && bitOf w 0 then (if s2.afe.running then { s2 with afe := { s2.afe with stopAt := none } } else startFastPath s2)
  else if bitOf old 0 && !bitOf w 0 then { s2 with afe := { s2.afe with stopAt := some (now s2 / secI + 1) } }
  else s2

/-- A tracker switched off or given another reference starts anew; its ring of blocks stays (R106). -/
def trkAct (s : State) (t old w : Nat) : State :=
  if (bitOf old 31 && !bitOf w 31) || decide (bitsOf old 24 20 ≠ bitsOf w 24 20) then
    modTrk s t (fun k => { Tracker.empty with seq := k.seq, ring := k.ring, wr := k.wr, rd := k.rd, startAt := now s / nsI })
  else if !bitOf old 31 && bitOf w 31 then modTrk s t (fun k => k.start (now s / nsI))
  else s

/-- Published streams start and stop with their bits (R172). -/
def pubAct (s : State) (old w : Nat) : State :=
  (List.range 8).foldl (fun st p =>
    if !bitOf old p && bitOf w p then pubStart st p (now st) else if bitOf old p && !bitOf w p then pubStop st p else st) s

/-- Metering switched on: the open intervals begin now. -/
def metCtlAct (s : State) (old w : Nat) : State :=
  if !bitOf old 0 && bitOf w 0 then
    s.met.bays.foldl (fun st p => modMet st p.1 (fun b => { b with open_ := MetOpen.at_ (now st / nsI) })) s
  else s

/-- A rotation step asked for through rot_now; it waits behind a running one (R197). -/
def rotNowAct (s : State) : State := cfgKick { s with cfg := { s.cfg with rotNow := true } }

/-- What a register does when a write has stored `w` over `old`; `v` is the value written. -/
def regAct (host : Bool) (s : State) (a old w v : Nat) : State :=
  if a = R.almCtl then
    let s1 := if bitOf v 0 then almSnap s else s
    if bitOf v 1 then almPreset s1 else s1
  else if a = R.almSrcCfg then chooseSource s
  else if a = R.almPtpCfg then if old = w then s else selectMaster { s with alm := { s.alm with foreign := [] } }
  else if a = R.almUtcOffset then if host && isSealed s then s else { s with alm := { s.alm with utcValid := true, srcPtp := false } }
  else if a = R.afeCtl then afeCtlAct host s old w
  else if a = R.afeChEn ∨ a = R.afeIlv then if old = w then s else chCfg s
  else if 0x1030 ≤ a ∧ a ≤ 0x103C then { s with afe := { s.afe with taps := tset s.afe.taps ((a - 0x1030) / 4) ⟨0, [], 0⟩ } }
  else if 0x1040 ≤ a ∧ a ≤ 0x105C then trkAct s ((a - 0x1040) / 4) old w
  else if a = R.sviPubCtl then pubAct s old w
  else if a = R.cfgCtl then
    let s1 := if !bitOf old 0 && bitOf w 0 then { s with cfg := { s.cfg with rotDue := s.dev.ticks } } else s
    if bitOf v 1 then rotNowAct s1 else s1
  else if a = R.cfgRotCfg then if old = w then s else { s with cfg := { s.cfg with rotDue := s.dev.ticks } }
  else if a = R.lksCtl then flagSet s R.lksStat 1 (!bitOf w 0)
  else if a = R.lksGrpStat then if bitOf v 22 then modGrp s (fld s R.lksSel 7 0) (fun x => { x with obsDiff := false }) else s
  else if 0x3810 ≤ a ∧ a ≤ 0x382C then dtoAll s
  else if 0x4100 ≤ a ∧ a ≤ 0x42FC then
    let n := (a - 0x4100) / 4
    cupBayStat (if bitOf v 0 then modCup s n (fun b => { b with armed := true }) else s) n
  else if 0x4900 ≤ a ∧ a ≤ 0x4A40 ∧ a % 0x40 = 0 then
    if bitsOf old 31 28 ≠ bitsOf w 31 28 ∧ (port s ((a - 0x4900) / 0x40)).up then linkFall s ((a - 0x4900) / 0x40) else s
  else if a = R.mirCtl then
    let off (st : State) (l : Nat) : State := if bitOf w l then st else modLane (laneDown st l) l (fun x => { x with wait := [] })
    off (off s 0) 1
  else if a = R.mirCfg then (if bitOf w 31 then s else flagSet s R.mirStat 23 false)
  else if a = R.metCtl then metCtlAct s old w
  else s

/-! ### The write -/

/-- FLT_CTLn written (R144): in SERVICE and VIGIL only the swaps act; clearing s4_en is refused while a running bay or published stream at 4,800 S/s uses the output, and the other fields act. -/
def fltCtlWrite (host : Bool) (s : State) (n v : Nat) : State × Bool :=
  let a := R.fltCtl n
  let old := regGet s a
  let shut := host && isSealed s
  let touched := decide (bitOf old 7 ≠ bitOf v 7) || bitOf v 8
  let bad := host && !shut && bitOf old 7 && !bitOf v 7 && (usedSlow s n || usedByPub s n true)
  let s1 := if shut then (if touched then sealedWrite s a false else s)
    else if bad then cfgRej s a
    else flagSet s a 7 (bitOf v 7)
  let s2 := if !shut && bitOf v 8 then syncReset s1 (2 ^ n) 0 else s1
  let s3 := if s2.dev.mode = .boot then s2 else swapRequest (swapRequest s2 n false (bitsOf v 3 2)) n true (bitsOf v 5 4)
  (s3, !bad)

/-- Whether a write of a DEV register is ignored (R572, R573). -/
def devIgnores (s : State) (a w : Nat) : Bool :=
  decide (a = R.devBridgeSel) && (decide (43 < w % 64) || (decide (nClusters s ≤ w % 64) && decide (w % 64 < 36)))

/-- A write of a register: by the host (`host`), or by a REGSET record with the effect of a write made in COMMISSION (R204, R568). Answers whether it was accepted. The registers whose writes have rules of their own beside this one are written by their own operations. -/
def regWrite (host : Bool) (s : State) (a v : Nat) : State × Bool :=
  match regAt a with
  | none => (s, false)
  | some d =>
    if 0x1800 ≤ a ∧ a < 0x2000 ∧ a % 0x40 = 0 then fltCtlWrite host s ((a - 0x1800) / 0x40) v
    else
      let old := shownWord s a
      let shut := host && isSealed s && changesRws d.flds old v
      let s0 := if shut then sealedWrite s a false else s
      let w := writtenWord d.flds shut old v
      if !inRanges d.flds shut v || ruleRefuses host s a w then (cfgRej s0 a, false)
      else if devIgnores s a w then (s0, true)
      else
        let s1 := if 0x1030 ≤ a ∧ a ≤ 0x103C then tapFlush s0 ((a - 0x1030) / 4) else s0
        (regAct host (storeWord s1 a w) a old w (if shut then v - Nat.land v (d.flds.foldl (fun m f => if f.acc = .rws then f.put m (2 ^ 32 - 1) else m) 0) else v), true)

/-- The word that a REGSET record writes: the masked bits of its value over what the register's RW and RWS fields hold (R204). -/
def regsetWord (s : State) (a mask v : Nat) : Nat :=
  match regAt a with
  | none => 0
  | some d =>
    let rw := Nat.land (shownWord s a) (d.flds.foldl (fun m f => if f.holds then f.put m (2 ^ 32 - 1) else m) 0)
    rw - Nat.land rw mask + Nat.land v mask

end Sys2Proof.Machine
end

