-- ==== Sys2Proof/Machine/ImageCheck.lean ====
section
/-! DEFINITION. The checks of IMAGE_LOAD on a scheme image, in the order structure (ascending reasons), REGSET run on a copy, then the checks that need the AFE and filter settings it leaves (R96, R122, R190 to R192, R206, R278, R285, R292, R297, R321, R330, R346, R347, R413, R449, R578). -/

namespace Sys2Proof.Machine

/-- A reason given where a condition holds. -/
def because (c : Bool) (r : Nat) : Option Nat := if c then some r else none

/-- The first of several reasons. -/
def firstOf : List (Option Nat) → Option Nat
  | [] => none
  | some r :: _ => some r
  | none :: t => firstOf t

/-! ### Fields of the records (reason 13) -/

/-- BAY record (R204). -/
def bayBad (r : List Byte) : Bool :=
  !(rng r 2 1 0 1 && rng r 3 1 0 2 && rng r 6 1 0 7 && rng r 42 1 0 64 && (List.range 8).all (fun c =>
    let m := brMap r c
    match mapKind m with
    | 0 => true
    | 1 => rng m 1 1 0 31 && rng m 2 1 0xFF 0xFF && rng m 3 1 0xFF 0xFF
    | 2 => (rng m 1 1 0 31 || decide (mapAin m = 0xFF)) && rng m 3 1 0 23
    | _ => false))

/-- SVSUB record (R153, R204), with the value of SVI_STRn_CFG. -/
def svsubBad (r : List Byte) : Bool :=
  !(rng r 2 1 0 1 && rng r 3 1 1 24 && decide ((toSigned 32 (field r 24 4)).natAbs ≤ 4 * 10 ^ 6) && rng r 28 1 1 64 && rng r 29 1 0 15
    && (rng r 18 2 0 4094 || decide (field r 18 2 = 0xFFFF))
    && (match regAt (R.sviStrCfg 0) with | some d => inRanges d.flds false (field r 96 4) | none => true))

/-- SVPUB record (R204). -/
def svpubBad (r : List Byte) : Bool :=
  !(rng r 1 1 0 1 && rng r 2 1 1 8 && rng r 3 1 1 24 && rng r 10 1 0 15 && rng r 11 1 0 7 && (rng r 12 2 0 4094 || decide (field r 12 2 = 0xFFFF))
    && rng r 20 1 1 64 && (List.range (field r 3 1)).all (fun m => rng r (88 + m) 1 0 31))

/-- GOOSE publication record (R403, R404, R413). -/
def pubBad (r : List Byte) : Bool :=
  !(rng r 2 2 0 255 && rng r 6 1 1 64 && rng r 7 1 0 63 && bitOf (field r 8 1) 0 && rng r 14 2 0 0x3FFF && (rng r 16 2 0 4094 || decide (field r 16 2 = 0xFFFF))
    && rng r 18 1 0 7 && rng r 24 2 1 1000 && rng r 26 2 (field r 24 2) 60000 && rng r 28 1 1 64 && rng r 29 1 1 64 && rng r 30 1 1 64
    && (List.range (field r 6 1)).all (fun m =>
      let x := slice r (224 + 4 * m) 4
      match field x 0 1 with
      | 0 => rng x 1 1 0 63
      | 1 => rng x 1 1 0 15
      | 2 => rng x 1 1 0 63 && rng x 2 2 0 63
      | k => decide (k ≤ 6)))

/-- GOOSE subscription record (R409, R412, R413). -/
def subBad (r : List Byte) : Bool :=
  !(rng r 2 2 0 511 && rng r 18 1 0 63 && rng r 24 1 1 64 && rng r 25 1 0 64 && rng r 26 1 1 64 && (rng r 28 2 0 255 || decide (field r 28 2 = 0xFFFF))
    && (List.range 32).all (fun j =>
      let m := slice r (160 + 8 * j) 8
      decide (field m 0 1 = 0xFF) || (rng m 0 1 0 63 && rng m 1 1 0 2 && (rng m 3 1 0 63 || decide (field m 3 1 = 0xFF)) && rng m 4 2 0 255)))

/-- The GIs that a subscription record drives. -/
def subGis (r : List Byte) : List Nat :=
  (if field r 28 2 = 0xFFFF then [] else [field r 28 2])
    ++ (List.range 32).filterMap (fun j => let m := slice r (160 + 8 * j) 8; if field m 0 1 = 0xFF then none else some (field m 4 2))

/-- RECORD record (R346, R347). -/
def recordBad (sch : Scheme) (r : List Byte) : Bool :=
  let bay := (sch.bay? (field r 0 2)).getD []
  !(rng r 2 1 0 3 && rng r 4 2 250 8000 && decide (field r 6 2 + 10 ≤ field r 4 2) && rng r 8 4 10 10000 && rng r 12 4 (field r 8 4) 10000 && rng r 16 2 0 60
    && rng r 18 1 0 30 && rng r 19 1 0 40 && rng r 20 1 0 15 && rng r 21 1 0 20 && rng r 22 1 1 255 && rng r 23 1 0 5 && rng r 24 4 1 86400 && rng r 28 4 0 0
    && (List.range 16).all (fun i =>
      let t := slice r (128 + 16 * i) 16
      let onCh := rng t 1 1 0 7 && decide (mapKind (brMap bay (field t 1 1)) ≠ 0)
      rng t 3 1 0 15 &&
      match field t 0 1 with
      | 0 => true
      | 1 => rngRef t 4
      | 5 => onCh && rng t 8 4 10 1000000
      | 6 => true
      | k => decide (k ≤ 4) && onCh && rng t 8 4 10 100000))

/-- METER record (R330). -/
def meterBad (r : List Byte) : Bool :=
  !(rng r 2 1 0 1 && (decide (field r 2 1 = 1) || (rng r 4 1 0 15 && rng r 5 1 0 15 && rng r 6 1 0 15)) && (rng r 7 1 0 31 || decide (field r 7 1 = 0xFF))
    && rng r 12 1 1 62 && rng r 13 1 1 62 && rng r 32 4 0 (10 ^ 8) && rng r 36 4 0 (10 ^ 8) && rng r 40 4 0 (10 ^ 7) && rng r 44 2 100 1000 && rng r 46 2 10 5000
    && rng r 48 1 1 16 && rng r 49 1 (field r 48 1) 16 && rng r 50 1 1 16 && rng r 51 1 5 255 && rng r 52 4 0 (10 ^ 7) && rng r 56 2 500 1000
    && rng r 58 2 1000 2000 && rng r 60 2 10 10000 && rng r 62 1 1 100 && rng r 14 2 0 0 && rng r 63 1 0 0)

/-- PAIR record (R449). -/
def pairRecBad (r : List Byte) : Bool := !(decide (field r 0 4 ≠ 0) && rng r 4 1 0 1)

/-- A bay named by a record: beyond the ordering code gives reason 9, without a BAY record reason 13 (R206). -/
def bayNamed (s : State) (sch : Scheme) (r : List Byte) (o : Nat) : Option Nat :=
  if nBays s ≤ field r o 2 then some 9 else because (sch.bay? (field r o 2)).isNone 13

/-! ### The structural checks -/

/-- Whether two LOGIC operations of a settings group write one variable (R285). -/
def twoWrite (els : List (List Byte)) (set : List Byte) : Bool :=
  let outs := (els.filter (fun r => erType r = 0x17)).flatMap (fun r =>
    match sgBlock set (erSlot r) with
    | none => []
    | some b =>
      let t := logicTable set b
      (List.range (field b 1 1)).filterMap (fun i => if field t (12 * i) 1 = 0 then none else some (field t (12 * i + 1) 1)))
  (List.range outs.length).any (fun j => dupAt outs j)

/-- The restrictions of R190, R278 and R292 that need only the image: type, cadence, local inputs, one RECLOSE and 256 LOGIC operations a bay, 16 bays with INCR_DIR and 8 with TW_LOC. -/
def elemBad (sch : Scheme) (r : List Byte) : Bool :=
  let bay := (sch.bay? (field r 0 2)).getD []
  let els := sch.elems (field r 0 2)
  let isLocal (cs : List Nat) : Bool := cs.all (fun c => decide (mapKind (brMap bay c) = 1))
  let holding (ty : Nat) : Nat := ((sch.recs 2).filter (fun b => (sch.elems (field b 0 2)).any (fun e => erType e = ty))).length
  !(typeCads (erType r)).contains (field r 4 1)
    || (decide (erType r = 0x14) && (!isLocal [0, 1, 2, 4, 5, 6] || decide (16 < holding 0x14)))
    || (decide (erType r = 0x15) && (!isLocal [0, 1, 2] || decide (8 < holding 0x15)))
    || (decide (erType r = 0x0D) && decide (1 < (els.filter (fun e => erType e = 0x0D)).length))
    || (decide (erType r = 0x17) && decide (256 < ((els.filter (fun e => erType e = 0x17)).map (fun e => logicOps sch bay e)).foldl (· + ·) 0))

/-- The element records of a bay stand where its BAY record says (R204). -/
def elemPlaced (sch : Scheme) (r : List Byte) : Bool :=
  let n := field r 42 1
  let i := field r 44 4
  let all := sch.recs 3
  decide ((all.filter (fun e => field e 0 2 = field r 0 2)).length = n) && (List.range n).all (fun j => decide (field (all.getD (i + j) []) 0 2 = field r 0 2) && decide (i + j < all.length))

/-- Reason 5: the target part and the unit. -/
def partFit (s : State) (h : List Byte) : Option LoadErr :=
  let part := field h 28 2
  let unit := field h 40 4
  if (part ≠ 0x7264 ∧ (part ≠ 0x7296 ∨ s.dev.part7264)) ∨ (unit ≠ 0xFFFFFFFF ∧ unit % 2 ^ 20 ≠ s.otp.unitId) then some ⟨5, 0xFF, 0⟩ else none

/-- Reasons 5 and 6: the target part and the unit, and the library of a scheme image. -/
def headerFit (s : State) (h : List Byte) : Option LoadErr :=
  (partFit s h).or (if s.sec.libVer < field h 36 4 then some ⟨6, 0xFF, 0⟩ else none)

/-- The structural checks that follow the parse, in ascending order of their reasons (R206). -/
def structErr (s : State) (sch : Scheme) : Option LoadErr :=
  let els (b : List Byte) : List (List Byte) := sch.elems (field b 0 2)
  firstErr [
    headerFit s sch.hdr,
    recErr sch 2 (fun _ r => because (decide (300 < bayCost sch r)) 7),
    recErr sch 3 (fun _ r => match sch.bay? (field r 0 2) with | some b => because (decide (field r 6 2 ≠ elemCost sch b r)) 8 | none => none),
    recErr sch 2 (fun _ r => because (decide (field r 40 2 ≠ bayCost sch r)) 8),
    recErr sch 2 (fun _ r => because (decide (nBays s ≤ field r 0 2) || decide (nGroups s ≤ brGroup r)
      || (List.range 8).any (fun c => decide (mapKind (brMap r c) = 2) && decide (127 < mapStream (brMap r c)))
      || (sch.recs 2).any (fun q => decide (field q 0 2 ≠ field r 0 2) && decide (brGroup q = brGroup r))) 9),
    recErr sch 6 (fun _ r => because (decide (127 < field r 0 2)) 9),
    recErr sch 7 (fun _ r => because (decide (7 < field r 0 1)) 9),
    recErr sch 2 (fun _ r => because ((List.range 8).any (fun c =>
      let m := brMap r c
      decide (mapKind m = 2) && !brSlow r && (match sch.svsub? (mapStream m) with | some v => decide (field v 2 1 = 1) | none => false))) 10),
    recErr sch 3 (fun _ r => because (elemBad sch r) 12),
    recErr sch 2 (fun _ r => because (bayBad r || !elemPlaced sch r) 13),
    recErr sch 3 (fun _ r => firstOf [bayNamed s sch r 0, because (decide (63 < erSlot r)) 13]),
    recErr sch 4 (fun _ r => firstOf [bayNamed s sch r 0, because (decide (7 < field r 2 1)) 13]),
    recErr sch 5 (fun _ r => because (decide (31 < field r 0 2)) 13),
    recErr sch 6 (fun _ r => because (svsubBad r) 13),
    recErr sch 7 (fun _ r => because (svpubBad r) 13),
    recErr sch 8 (fun _ r => if field r 0 1 = 0 then firstOf [bayNamed s sch r 4, because (pubBad r) 13] else because (decide (field r 0 1 ≠ 1) || subBad r) 13),
    recErr sch 9 (fun _ r => firstOf [bayNamed s sch r 0, because (recordBad sch r) 13]),
    recErr sch 10 (fun _ r => firstOf [bayNamed s sch r 0, because (meterBad r) 13]),
    recErr sch 11 (fun _ r => because (pairRecBad r) 13),
    recErr sch 3 (fun _ r => because (decide (erCad r ≤ erPhase r)) 14),
    recErr sch 2 (fun _ r => because (decide (64 < (els r).length) || decide (64 < ((els r).map erCompN).foldl (· + ·) 0) || decide (64 < ((els r).map erIntN).foldl (· + ·) 0)) 14),
    dupErr sch 2 (fun r => field r 0 2),
    dupErr sch 3 (fun r => field r 0 2 * 256 + field r 2 1),
    dupErr sch 4 (fun r => field r 0 2 * 256 + field r 2 1),
    dupErr sch 5 (fun r => field r 0 2),
    dupErr sch 6 (fun r => field r 0 2),
    dupErr sch 7 (fun r => field r 0 1),
    dupErr sch 8 (fun r => field r 0 1 * 65536 + field r 2 2),
    dupErr sch 9 (fun r => field r 0 2),
    dupErr sch 10 (fun r => field r 0 2),
    dupErr sch 11 (fun _ => 0),
    recErr sch 8 (fun _ r => because (decide (field r 0 1 = 1) && ((List.range (subGis r).length).any (fun j => dupAt (subGis r) j)
      || (sch.recs 8).any (fun q => decide (field q 0 1 = 1) && decide (field q 2 2 ≠ field r 2 2) && (subGis q).any (fun g => (subGis r).contains g)))) 15),
    recErr sch 4 (fun _ r => because (twoWrite (sch.elems (field r 0 2)) (slice r 16 4096)) 15),
    recErr sch 2 (fun _ r => because (!bitOf (brMask r) (brInit r) || (List.range 8).any (fun g => bitOf (brMask r) g && (sch.settings? (field r 0 2) g).isNone)) 16),
    recErr sch 4 (fun _ r => match sch.bay? (field r 0 2) with | some b => because (!bitOf (brMask b) (field r 2 1)) 16 | none => none)]

/-! ### The REGSET run (R204, R206, R449) -/

/-- Whether a REGSET record may write an address: a register of the blocks ALM, AFE, FLT, SVI, BAY, CUP, BEL, MIR, MET or PWR, or one of five others (R204). -/
def regsetMay (a : Nat) : Bool :=
  (regAt a).isSome &&
    ((decide (0x0400 ≤ a) && decide (a < 0x2800)) || (decide (0x3800 ≤ a) && decide (a < 0x5800)) || (decide (0x7000 ≤ a) && decide (a < 0x7800))
      || [R.cfgRotCfg, R.cfgEccCfg, R.cfgCtl, R.lksCtl, R.lksCfg].contains a)

/-- A REGSET record applied; whether it is permitted and accepted. -/
def regsetOne (s : State) (pair : Option (List Byte)) (r : List Byte) : State × Bool :=
  let a := field r 0 4
  let w := regsetWord s a (field r 8 4) (field r 4 4)
  if !regsetMay a then (s, false)
  else if decide (a = R.belPairId) && (match pair with | some p => decide (w ≠ field p 0 4) | none => false) then (s, false)
  else regWrite false s a w

/-- The REGSET records run in order, with the first that fails. -/
def regsetRun (pair : Option (List Byte)) (s : State) : List (Nat × Nat × List Byte) → State × Option LoadErr
  | [] => (s, none)
  | (i, j, r) :: t =>
    match regsetOne s pair r with
    | (s1, true) => regsetRun pair s1 t
    | (s1, false) => (s1, some ⟨13, i, j⟩)

/-- The REGSET records of an image with their section and record indexes. -/
def regsetRecs (sch : Scheme) : List (Nat × Nat × List Byte) :=
  (enumFrom0 sch.secs).flatMap (fun (i, x) => if x.ty = 1 then (enumFrom0 x.recs).map (fun (j, r) => (i, j, r)) else [])

/-! ### Against the AFE and filter settings (R96, R122, R190, R321, R397) -/

/-- Whether the image's own settings set s4_en of an input (R122): the last record that writes the bit. -/
def setsS4 (sch : Scheme) (ch : Nat) : Bool :=
  ((regsetRecs sch).filterMap (fun p => let r := p.2.2
    if field r 0 4 = R.fltCtl ch ∧ bitOf (field r 8 4) 7 then some (bitOf (field r 4 4) 7) else none)).getLast?.getD false

/-- Whether the fast path of an input is there under the settings: enabled and not interleaved away, with its S4 output set by the image where the rate is 4,800 S/s. -/
def pathThere (sch : Scheme) (s : State) (ch : Nat) (slow : Bool) : Bool :=
  flag s R.afeChEn ch && !(decide (ch % 2 = 1) && flag s R.afeIlv (ch / 2)) && (!slow || setsS4 sch ch)

/-- The channels of a METER record's pairs and neutral (R321). -/
def meterChans (s : State) (r : List Byte) : List Nat :=
  (List.range 3).flatMap (fun i => let p := field r (4 + i) 1; [fld s (R.afePairCfg p) 9 5, fld s (R.afePairCfg p) 4 0])
    ++ (if field r 7 1 = 0xFF then [] else [field r 7 1])

/-- The checks after the REGSET run, on the state it leaves. -/
def settingsErr (s : State) (sch : Scheme) : Option LoadErr :=
  firstErr [
    recErr sch 2 (fun _ r => because ((List.range 8).any (fun c =>
      let m := brMap r c
      match mapKind m with
      | 1 => !pathThere sch s (mapAin m) (brSlow r)
      | 2 => (decide (mapAin m ≠ 0xFF) && !pathThere sch s (mapAin m) (brSlow r))
          || (match sch.svsub? (mapStream m) with | some v => decide (field v 3 1 ≤ mapMember m) | none => true)
      | _ => false)) 11),
    recErr sch 7 (fun _ r => because ((List.range (field r 3 1)).any (fun m => !pathThere sch s (field r (88 + m) 1) (decide (field r 1 1 = 1)))) 11),
    recErr sch 10 (fun _ r => because (decide (field r 2 1 = 0) && (meterChans s r).any (fun c => decide (trkOf s c ≠ trkOf s ((meterChans s r).headD 0)))) 11),
    recErr sch 3 (fun _ r => because (decide (erType r = 0x15) && (match sch.bay? (field r 0 2) with
      | some b => (List.range 3).any (fun c => !flag s R.afeIlv (mapAin (brMap b c) / 2))
      | none => false)) 12),
    recErr sch 11 (fun _ _ => because (decide (regGet s R.belBfDmacLo = 0) && decide (regGet s R.belBfDmacHi = 0)) 13)]

/-- Every check of R206 on an image after its signature: the first failure, or the image as the part holds it. -/
def checkImage (s : State) (img : List Byte) : LoadErr ⊕ Scheme :=
  match parseImage img with
  | .inl e => .inl e
  | .inr sch =>
    match structErr s sch with
    | some e => .inl e
    | none =>
      match regsetRun (sch.recs 11).head? s (regsetRecs sch) with
      | (_, some e) => .inl e
      | (s1, none) => match settingsErr s1 sch with | some e => .inl e | none => .inr sch

/-- A failed load recorded in CFG_LOAD_ERR and CFG_STAT, with IMAGE_REJECTED (R206). -/
def loadRejected (s : State) (e : LoadErr) : State :=
  let v := e.reason * 2 ^ 24 + e.sec % 256 * 2 ^ 16 + e.idx % 65536
  raise 0x070B (flagSet (regSet s R.cfgLoadErr v) R.cfgStat 19 true) (items := [(4, v)])

end Sys2Proof.Machine
end

