-- ==== Sys2Proof/Machine/ImageApply.lean ====
section
/-! DEFINITION. The application of a committed scheme image (R168, R172, R192, R207, R304, R337, R346, R403, R449, R517, R568). -/

namespace Sys2Proof.Machine

/-! ### Settings (R204, R207 steps 1 and 2) -/

/-- The REGSET records applied in order, as one step: what they set acts once the rest of the image is in place. -/
def applyRegset (s : State) (sch : Scheme) : State :=
  let s1 := (regsetRecs sch).foldl (fun st p => (regsetOne st (sch.recs 11).head? p.2.2).1) s
  { s1 with cfg := { s1.cfg with dtos := s.cfg.dtos }, svi := { s1.svi with pubs := s.svi.pubs } }

/-- The fast path follows AFE_CTL.fast_run as the image left it (R114): `was` is the bit before. -/
def applyFastRun (s : State) (was : Bool) : State :=
  let w := flag s R.afeCtl 0
  if w && !was then startFastPath s
  else if was && !w then { s with afe := { s.afe with stopAt := some (now s / secI + 1) } }
  else s

/-- Coefficients of a FILTER record: 32-bit words from an offset of the coefficient memory (R136). -/
def coeffs (r : List Byte) (o n : Nat) : List Int := (List.range n).map (fun i => toSigned 32 (field r (16 + o + 4 * i) 4))

/-- A FILTER record loaded into the coefficient memory of its channel (R136, R204). -/
def loadFilter (s : State) (r : List Byte) : State :=
  let n := field r 0 2
  setFlt s n { fltCh s n with b3A := coeffs r 0 64, b3B := coeffs r 0x100 64, b4A := coeffs r 0x200 37, b4B := coeffs r 0x300 37 }

/-- The subscribed streams of a new image: each enters INVALID, its instants counted from the first one due from `at_` on, with STREAM_INVALID for one that was in another state (R166, R168). -/
def loadStreams (s : State) (sch : Scheme) (at_ : Inst) : State :=
  (List.range 128).foldl (fun st n =>
    let x := strm st n
    let rec_ := sch.svsub? n
    if rec_.isNone && !x.en then st
    else
      let s1 := match rec_ with | some r => regSet st (R.sviStrCfg n) (field r 96 4) | none => st
      let s2 := setStrm s1 n { SvStream.empty with en := rec_.isSome, exp := svFrom (svRate s n) (svDelay s n) (cdivN at_ 16384), newest := x.newest, frames := x.frames, confEvt := x.confEvt, lateEvt := x.lateEvt, tagEvt := x.tagEvt }
      if x.en && decide (x.st ≠ .invalid) then raise 0x0602 s2 (idx := n) (att := some (attAt s2 at_)) else s2) s

/-- The published streams of a new image: one whose bit is set and whose record is new starts at its first sample instant from `at_` on; an unchanged one goes on (R172). `old` is the image before. -/
def loadPubs (s : State) (old : Option Scheme) (sch : Scheme) (at_ : Inst) : State :=
  (List.range 8).foldl (fun st n =>
    if !flag st R.sviPubCtl n || (sch.svpub? n).isNone then pubStop st n
    else if (svPub st n).run && decide (old.bind (fun c => c.svpub? n) = sch.svpub? n) then st
    else pubStart st n at_) s

/-- The record of a GOOSE publication (0) or subscription (1) in an image. -/
def gooseRec? (sch : Option Scheme) (kind n : Nat) : Option (List Byte) :=
  sch.bind (fun c => (c.recs 8).find? (fun r => decide (field r 0 1 = kind) && decide (field r 2 2 = n)))

/-- GOOSE blocks whose records a new image changes start anew with the next stNum; subscriptions whose records it changes hold no frame (R403 to R409). -/
def loadGoose (s : State) (old : Option Scheme) : State :=
  let pubs := s.bel.pubs.map (fun (n, p) =>
    if gooseRec? old 0 n = gooseRec? s.scheme 0 n then (n, p) else (n, { p with enc := [], full := [], sq := 0, sum := 0, gap := 0, first := true }))
  let subs := s.bel.subs.map (fun (n, u) =>
    if gooseRec? old 1 n = gooseRec? s.scheme 1 n then (n, u) else (n, { u with frames := [], valid := false, held := [] }))
  { s with bel := { s.bel with pubs := pubs, subs := subs } }

/-- The recorded bays of a new image: CUP_BAYn_CTL.mode is loaded, a bay no longer recorded lets go of its records and ring (R345, R346). -/
def loadRecords (s : State) (sch : Scheme) : State :=
  let gone := (s.cup.bays.map Prod.fst).filter (fun n => !(sch.recs 9).any (fun r => decide (field r 0 2 = n)))
  let s1 := gone.foldl (fun st n => let t := cupStopped (drainLines st n) n; { t with cup := { t.cup with bays := terase t.cup.bays n } }) s
  (sch.recs 9).foldl (fun st r =>
    let n := field r 0 2
    let t := fldSet st (R.cupBayCtl n) 3 2 (field r 2 1)
    match cupBay? t n with
    | some b => cupBayStat (setCup t n { b with recd := r }) n
    | none => cupBayStat (setCup t n (CupBay.blank r)) n) s1

/-- The metered bays of a new image: a bay that had no METER record starts an interval now with lifetime totals of zero; the others go on under their new record (R320, R337). -/
def loadMeters (s : State) (sch : Scheme) : State :=
  let ns := (sch.recs 10).map (fun r => field r 0 2)
  let s1 := { s with met := { s.met with bays := s.met.bays.filter (fun p => ns.contains p.1) } }
  showMet ((sch.recs 10).foldl (fun st r =>
    let n := field r 0 2
    match metBay? st n with
    | some b => setMet st n { b with recd := r }
    | none => setMet st n ⟨r, MetOpen.at_ (now st / nsI), [], [], 0, 0, 0, false, false, false, (0, 0, [])⟩) s1)

/-- The pair configuration of a new image (R449): a part that becomes paired starts SYNCING, one that becomes unpaired lets its pair state go. `was` says whether it was paired. -/
def loadPair (s : State) (was : Bool) : State :=
  match pairRec s with
  | some r =>
    let s1 := regSet s R.belPairId (field r 0 4)
    let s2 := if was then s1
      else setMir s1 (fun m => { Mir.reset with laneA := m.laneA, laneB := m.laneB, lastHb := m.lastHb, lastBcn := m.lastBcn, partner := m.partner, pstate := 1, syncSince := some s.dev.ticks })
    laneCause s2
  | none => laneCause (if was then { s with mir := { Mir.reset with laneA := s.mir.laneA, laneB := s.mir.laneB } } else s)

/-! ### The bays (R168, R207) -/

/-- Whether a bay keeps its live state under a new image (R207). -/
def staysLive (b : Bay) (sch : Scheme) (r : List Byte) : Bool :=
  let n := field r 0 2
  let k := constOf ((sch.settings? n (brInit r)).getD [])
  decide (brKey b.recd = brKey r) && decide (b.els.map erKey = (sch.elems n).map erKey) && decide (k.hz60 = b.ctx.const.hz60) && decide (k.acb = b.ctx.const.acb)
    && decide (k.m = b.ctx.const.m)

/-- The SV channels of a bay that run on their fallback from the effect instant on (R168): FALLBACK_ON unless a kept bay ran on that fallback already. -/
def fallBack (s : State) (n : Nat) (was : List Nat) : State :=
  match bay? s n with
  | none => s
  | some b =>
    (List.range 8).foldl (fun st c =>
      let m := brMap b.recd c
      if mapKind m = 2 ∧ mapAin m ≠ 0xFF ∧ b.runs then
        if was.getD c 0 = 3 then st else raise 0x0607 (setSrc st n c 3) (bay := n) (idx := c)
      else st) s

/-- A kept bay: running, its groups are replaced at its first evaluation instant from `at_` on; stopped, at once (R207). -/
def keepBay (s : State) (sch : Scheme) (n : Nat) (b : Bay) (r : List Byte) (at_ : Inst) : State :=
  let els := sch.elems n
  let groups := groupsOf sch n
  let ini := tget [] groups (brInit r)
  if b.runs then fallBack (addReq s n ⟨.reload r els groups, evalFrom b.rate at_, true⟩) n b.slot.src
  else
    let c := if constOk ini then { b.ctx with const := constOf ini } else b.ctx
    setBay s n { b with recd := r, els := els, groups := groups, ctx := c, slot := { b.slot with src := initSrc s r } }

/-- A bay that the new image restarts on group `g`: a rotation or command migration is cancelled already; a fault or quarantine migration ends when it is placed elsewhere (R207). -/
def restartBay (s : State) (sch : Scheme) (n : Nat) (r : List Byte) (at_ : Inst) : State :=
  let g := brGroup r
  let s1 := match bay? s n with
    | some b =>
      if b.grp = g then s
      else
        let fault := (s.cfg.migs ++ s.cfg.after).any (fun m => decide (m.bay = n) && decide (m.cause = .fault))
        leaveGroup (cancelMigs s n) b.grp fault
    | none => s
  let was := ((bay? s n).map Bay.runs).getD false
  fallBack (rebuildBay s1 sch n g (was || bitOf (field r 43 1) 0) at_) n []

/-- A bay that the new image no longer holds: it is placed on no group, and a BAY_STATE_READ of it completes with ABORTED. -/
def removeBay (s : State) (n : Nat) : State :=
  match bay? s n with
  | none => s
  | some b =>
    let s2 := leaveGroup (cancelMigs s n) b.grp false
    let s3 := (tget [] s2.cfg.reads n).foldl (fun st q => complete st q.cid stAborted Att.zero) s2
    let s4 := setReqs { s3 with cfg := { s3.cfg with reads := terase s3.cfg.reads n, tasks := terase s3.cfg.tasks n } } n []
    let s5 := cupStopped (drainLines s4 n) n
    showBay (showOut { s5 with bays := terase s5.bays n, mir := { s5.mir with synced := s5.mir.synced.filter (fun x => decide (x ≠ n)) } } n 0) n

/-- Whether a new image restarts the bay of a BAY record. -/
def restarts (s : State) (sch : Scheme) (r : List Byte) : Bool :=
  match bay? s (field r 0 2) with | some b => !staysLive b sch r | none => true

/-- The bays of a new image (R207 step 3), with the count of those restarted. -/
def loadBays (s : State) (sch : Scheme) (at_ : Inst) : State × Nat :=
  let rs := sch.recs 2
  let s1 := (s.cfg.migs.filter (fun m => decide (m.cause = .command) || decide (m.cause = .rotation))).foldl dropMig s
  let gone := (s1.bays.map Prod.fst).filter (fun n => (sch.bay? n).isNone)
  let s2 := gone.foldl removeBay s1
  let again := rs.filter (restarts s2 sch)
  let s3 := (rs.filter (fun r => !restarts s2 sch r)).foldl (fun st r =>
    match bay? st (field r 0 2) with | some b => keepBay st sch (field r 0 2) b r at_ | none => st) s2
  (again.foldl (fun st r => restartBay st sch (field r 0 2) r at_) s3, again.length)

/-- A precopy under way begins anew at the commit of an image (R194). -/
def restartPrecopy (s : State) : State :=
  if s.cfg.migs.any (fun m => decide (m.step = .precopy)) then { s with cfg := { s.cfg with preAt := s.dev.ticks } } else s

/-- A committed scheme image applied at its effect instant (R207): `img` is the image, `slot` its flash slot, `key` its owner slot. -/
def applyScheme (s : State) (img : List Byte) (at_ : Inst) : State :=
  let sch := cutImage img
  let was := paired s
  let s0 := if was && (sch.recs 11).isEmpty then pairLetGo s else s
  let s1 := { applyRegset s0 sch with scheme := some sch }
  let s2 := (sch.recs 5).foldl loadFilter (applyFastRun s1 (flag s R.afeCtl 0))
  let s3 := loadPubs (loadStreams s2 sch at_) s.scheme sch at_
  let s4 := loadPair (loadMeters (loadRecords (loadGoose s3 s.scheme) sch) sch) was
  let (s5, count) := loadBays (restartPrecopy s4) sch at_
  let h := sch.hdr
  let s6 := regSet s5 R.cfgImgVer (field h 4 2 % 256 * 2 ^ 24 + field h 6 2 % 256 * 2 ^ 16 + sch.rollback % 128)
  let s7 := { s6 with sec := { s6.sec with schKey := field sch.trailer 0 4 % 4, meas3 := sha256 img } }
  let s8 := raise 0x070A s7 (items := [(2, count)]) (att := some (attAt s7 at_))
  mirShow (cupStat (cfgKick (showLks (showSpares (showRunning (dtoAll s8))))))

end Sys2Proof.Machine
end

