-- ==== Sys2Proof/Machine/SecOps.lean ====
section
/-! DEFINITION. The security island's operations: verification, authority tokens, and the restore from flash on leaving BOOT (R327, R366, R518, R525 to R528, R531, R532, R546). -/

namespace Sys2Proof.Machine

/-! ### Flash slots and OTP (R525, R530) -/

/-- The image in a flash slot: kind 0 stage-1, 1 library, 2 scheme; `b` is true for slot B. -/
def Flash.slot (f : Flash) (kind : Nat) (b : Bool) : Option (List Byte) :=
  match kind, b with
  | 0, false => f.s1A
  | 0, true => f.s1B
  | 1, false => f.libA
  | 1, true => f.libB
  | _, false => f.schA
  | _, true => f.schB

/-- A flash slot written, or emptied. -/
def Flash.setSlot (f : Flash) (kind : Nat) (b : Bool) (v : Option (List Byte)) : Flash :=
  match kind, b with
  | 0, false => { f with s1A := v }
  | 0, true => { f with s1B := v }
  | 1, false => { f with libA := v }
  | 1, true => { f with libB := v }
  | _, false => { f with schA := v }
  | _, true => { f with schB := v }

/-- The slot that the boot control block selects; true for slot B. -/
def Flash.sel (f : Flash) (kind : Nat) : Bool := match kind with | 0 => f.s1Sel | 1 => f.libSel | _ => f.schSel

/-- The boot control block selects a slot. -/
def Flash.setSel (f : Flash) (kind : Nat) (b : Bool) : Flash :=
  match kind with | 0 => { f with s1Sel := b } | 1 => { f with libSel := b } | _ => { f with schSel := b }

/-- Whether an image of a kind is pending. -/
def Sec.pends (x : Sec) (kind : Nat) : Bool := match kind with | 0 => x.s1Pend | 1 => x.libPend | _ => x.schPend

/-- An image of a kind made pending or not. -/
def Sec.setPend (x : Sec) (kind : Nat) (v : Bool) : Sec :=
  match kind with | 0 => { x with s1Pend := v } | 1 => { x with libPend := v } | _ => { x with schPend := v }

/-- Key slot `i` of a class: the 32 bytes of its hash. -/
def Otp.key (o : Otp) (owner : Bool) (i : Nat) : List Byte := tget (List.replicate 32 0) (if owner then o.own else o.vend) i

/-- Whether a field of OTP is blank. -/
def isBlank (bs : List Byte) : Bool := bs.all (fun b => decide (b = 0))

/-- Whether a slot is programmed. -/
def Otp.programmed (o : Otp) (owner : Bool) (i : Nat) : Bool := !isBlank (o.key owner i)

/-- Whether a slot is revoked. -/
def Otp.isRevoked (o : Otp) (owner : Bool) (i : Nat) : Bool := bitOf o.revoked (if owner then 8 + i else i)

/-- A mask of the programmed slots of a class, and of the revoked ones. -/
def Otp.progMask (o : Otp) (owner : Bool) : Nat := maskOf 4 (fun i => o.programmed owner i)
/-- A mask of the revoked slots of a class. -/
def Otp.revMask (o : Otp) (owner : Bool) : Nat := maskOf 4 (fun i => o.isRevoked owner i)

/-- The rollback counter of a class: its blown fuses (R525). -/
def Otp.counter (o : Otp) (owner : Bool) : Nat := if owner then o.ownFuses else o.vendFuses

/-! ### Verification (R518) -/

/-- The key check of R518 step 2: `pk` is the public exponent (4 bytes) and the modulus. -/
def keyGood (o : Otp) (owner : Bool) (slot : Nat) (pk : List Byte) : Bool :=
  decide (slot ≤ 3) && o.programmed owner slot && !o.isRevoked owner slot && decide (field pk 0 4 = 65537) && decide (sha256 pk = o.key owner slot)

/-- The trailer of an image. -/
def trailerOf (img : List Byte) : List Byte := slice img (field img 20 4) 776

/-- The key slot that an image names. -/
def imgKey (img : List Byte) : Nat := field (trailerOf img) 0 4

/-- The rollback index of an image. -/
def imgRoll (img : List Byte) : Nat := field img 32 4

/-- Where the verification of an image fails. -/
inductive VerErr
  | shape (e : LoadErr)
  | key
  | roll
deriving DecidableEq, Repr

/-- The largest image of a kind (R517). -/
def imgMost (kind : Nat) : Nat := match kind with | 0 => 512 * 1024 | 1 => 2 * 2 ^ 20 | _ => 8 * 2 ^ 20

/-- Step 1: the container header (R202, R524). -/
def imgHeaderErr (kind : Nat) (img : List Byte) : Option LoadErr :=
  match kind with
  | 0 => headerErrOf [0x48, 0x46, 0x57, 0x31] (imgMost 0) img
  | 1 => headerErrOf [0x48, 0x4C, 0x49, 0x42] (imgMost 1) img
  | _ => headerErr img

/-- The verification of an image in the order of R518: header, key, signature, rollback, fit, and the checks of R206 for a scheme image. -/
def verifyErr (s : State) (kind : Nat) (img : List Byte) : Option VerErr :=
  let owner := decide (kind = 2)
  let t := trailerOf img
  match imgHeaderErr kind img with
  | some e => some (.shape e)
  | none =>
    if !keyGood s.otp owner (field t 0 4) (slice t 4 388) || !rsaVerify (slice t 8 384) (slice img 0 (field img 20 4)) (slice t 392 384) then some .key
    else if imgRoll img < s.otp.counter owner then some .roll
    else if owner then (match checkImage s img with | .inl e => some (.shape e) | .inr _ => none)
    else (partFit s img).map VerErr.shape

/-- IMAGE_VERIFIED of an image (R518). -/
def imageVerified (s : State) (kind : Nat) (img : List Byte) : State := raise 0x0E01 s (idx := imgKey img) (items := [(1, kind), (4, imgRoll img)])

/-- An authentication failure counted and raised with the kind or the opcode (R519, R532, R540). -/
def authFailed (s : State) (what : Nat) : State := raise 0x0E02 (bump s R.secAuthFailCnt) (items := [(1, what)])

/-! ### Authority tokens (R531, R532) -/

/-- The TAI seconds that a token's window may hold: the Almanac's, and the candidate's while time is disputed (R532). -/
def tokenSecs (s : State) : List Nat :=
  now s / secI :: (if s.alm.lock = .disputed then [(candTime s).toNat / secI] else [])

/-- Whether a token is valid for a command (R532): `pair` admits a token for both units of the pair. -/
def tokenValid (s : State) (t : List Byte) (op arg : Nat) : Bool :=
  let owner := decide (field t 41 1 = 0)
  let unit := field t 8 4
  let here := if unit = 0xFFFFFFFF then decide (op ≠ 0x13) && paired s && decide (field t 12 4 = regGet s R.belPairId) else decide (unit % 2 ^ 20 = s.otp.unitId)
  let timed := decide (s.alm.lock = .freeRun) || decide (s.alm.lock = .acquiring)
    || (tokenSecs s).any (fun x => decide (field t 24 8 ≤ x) && decide (x ≤ field t 32 8))
  decide (field t 0 4 = 0x4B4F5448) && decide (field t 4 2 = 1) && decide (field t 41 1 ≤ 1) && (owner || decide (op = 0x13)) && keyGood s.otp owner (field t 40 1) (slice t 64 388)
    && rsaVerify (slice t 68 384) (slice t 0 452) (slice t 452 384) && decide (field t 6 1 = op) && decide (field t 7 1 = arg) && here
    && decide (s.flash.serial < field t 16 8) && timed

/-- A token failure: counted, raised, and the sixteenth within an hour locks tokens out for 10 min; a refusal during the lock does not extend it (R532). -/
def tokenFail (s : State) (op : Nat) : State :=
  let s1 := authFailed s op
  if tokenLocked s then s1
  else
    let fs := s.dev.ticks :: s.sec.failTimes.filter (fun t => decide (s.dev.ticks < t + 3600 * secT))
    if 16 ≤ fs.length then { s1 with sec := { s1.sec with failTimes := [], lockUntil := some (s.dev.ticks + 600 * secT) } }
    else { s1 with sec := { s1.sec with failTimes := fs } }

/-- The token of a command taken: on success its serial is written to flash, TOKEN_ACCEPTED is raised and logged, before the command takes effect (R532). `more` is a condition of the command on the token's bytes. -/
def takeToken (s : State) (e : CmdEntry) (op arg : Nat) (more : List Byte → Bool) : State × Option (List Byte) :=
  let t := hostRead s e.token 896
  if e.token = 0 ∨ e.token % 64 ≠ 0 ∨ tokenLocked s ∨ !tokenValid s t op arg ∨ !more t then (tokenFail s op, none)
  else
    let ser := field t 16 8
    (appendLog (raise 0x0E07 { s with flash := { s.flash with serial := ser } } (items := [(1, op), (8, ser)])) 5 0 op 0, some t)

/-- Whether a command that needs a token in SERVICE and VIGIL may go on (R29, R60, R529). -/
def needToken (s : State) (e : CmdEntry) (op arg : Nat) : State × Bool :=
  if isSealed s then (let r := takeToken s e op arg (fun _ => true); (r.1, r.2.isSome)) else (s, true)

/-- A command refused after its token was judged: what the token's judgement did stays. -/
def CmdOut.rejAfter (s : State) (status : Nat) : CmdOut := ⟨s, some status, Att.zero, []⟩

/-! ### The restore from flash (R327, R366, R546) -/

/-- The newest block of the dying-sequence area that verifies and is not consumed: its bank and contents. -/
def newestBlock (f : Flash) : Option (Bool × DyingHeader × List DyingEntry) :=
  match f.bank0, f.bank1 with
  | .block h es, .block k fs =>
    if !h.consumed && (k.consumed || decide (k.seq < h.seq)) then some (false, h, es) else if !k.consumed then some (true, k, fs) else none
  | .block h es, _ => if h.consumed then none else some (false, h, es)
  | _, .block k fs => if k.consumed then none else some (true, k, fs)
  | _, _ => none

/-- The energies of an open interval as the dying block holds them; the layout inside bytes 16 to 79 is the model's. -/
def MetOpen.energyBytes (o : MetOpen) : List Byte := leBytes 8 o.eImp ++ leBytes 8 o.eExp ++ o.q.flatMap (fun v => leBytes 12 v)

/-- A restored interval: its coverage so far covers the part of it that lay before the power failure. -/
def DyingEntry.interval (x : DyingEntry) (td : Nat) : MetOpen :=
  { MetOpen.at_ x.start with
    flags := x.flags, covNs := rdivN (x.coverage * (td - x.start)) 65536, eImp := field x.energies 0 8, eExp := field x.energies 8 8,
    q := (List.range 4).map (fun c => field x.energies (16 + 12 * c) 12) }

/-- A restored record: LOST, holding no area, its index entry and summary kept (R366). -/
def FlashRec.lost (x : FlashRec) (ticks : Ticks) : CupRec :=
  let en := slice x.entry 0 64
  let fl := Nat.lor (field en 24 4) 0x400
  let t0 : Att := ⟨field en 8 8, field en 16 4, field en 20 2, BitVec.ofNat 16 (field en 22 2)⟩
  { num := x.num, bay := field en 4 2, st := .lost, t0i := field en 7 1, t0 := t0.sec * 10 ^ 9 + t0.ns, t0q := t0.q, final := true, flags := fl, fired := field en 32 4,
    trigs := [], det := ⟨0, 0⟩, detAtt := Att.zero, nPre := field en 36 4, nPreReq := field en 36 4, last := ⟨0, 0⟩, rmsEnd := ⟨0, 0⟩, raw := [], tailE := [], ir := [], hr := [],
    mode := 0, era := 0, taiUtc := 0, hz60 := false, sg := 0, rate := 14400, chans := [], leap := 0, ovr := none, summary := x.summary, units := 0, cids := [],
    sealAt := some ticks, xgroup := none, entry := patch (patch (patch en 6 [5]) 24 (leBytes 4 fl)) 28 (leBytes 4 0) }

/-- The record index restored from flash, in ascending number, at most as many as the index holds (R366). -/
def restoreRecs (s : State) : State :=
  let rs := (s.flash.recs.filter (fun x => !x.freed)).map (fun x => x.lost s.dev.ticks)
  let tab : Tab CupRec := rs.foldl (fun t r => tset t r.num r) []
  let top := rs.foldl (fun m r => if m < r.num then r.num else m) 0
  let s1 := { s with cup := { s.cup with recs := tab.map Prod.snd } }
  raise 0x0A07 (cupStat (if rs.isEmpty then s1 else regSet s1 R.cupRecNext (top + 1))) (items := [(2, rs.length)])

/-- A restore of the record index that failed (R366). -/
def restoreRecsFail (s : State) : State := raise 0x0A08 (flagSet (regSet s R.cupRecNext 1) R.cupStat 5 true)

/-- A restore of the energy accumulators that failed (R327). -/
def restoreMetFail (s : State) : State := raise 0x0F07 (flagSet s R.metStat 1 true)

/-- The restore on the first entry to COMMISSION, SERVICE or VIGIL (R327, R366, R546). -/
def restoreFlash (s : State) : State :=
  match newestBlock s.flash with
  | none => restoreMetFail (restoreRecsFail s)
  | some (b, h, es) =>
    let f := if b then { s.flash with bank1 := .block { h with consumed := true } es, bank0 := .erased } else { s.flash with bank0 := .block { h with consumed := true } es, bank1 := .erased }
    let s1 := regSet { s with flash := f } R.pwrDyingLast (capN 65535 h.energy * 65536 + capN 65535 h.durUs)
    let s2 := raise 0x0202 s1 (items := [(2, h.durUs), (2, h.energy), (1, h.cause)])
    let s3 := if s2.flash.recsOk then restoreRecs s2 else restoreRecsFail s2
    es.foldl (fun st x => metRestore st x.bay (x.interval (h.at_.sec * 10 ^ 9 + h.at_.ns)) (field x.lifetime 0 8 * 2 ^ 20) (field x.lifetime 8 8 * 2 ^ 20)) s3

end Sys2Proof.Machine
end

