-- ==== Sys2Proof/Machine/BootRows.lean ====
section
/-! DEFINITION. The boot chain and the entry to the requested mode (R27, R28, R517 to R524, R533, R578). -/

namespace Sys2Proof.Machine

/-- Whether the part runs: power good, not in reset or shutdown, PWR_FAIL_N high or the dying sequence not yet at its halt (R541 to R550, R589). -/
def partRuns (s : State) : Bool :=
  s.pwr.powerGood && !s.pwr.resetLow && !s.pwr.shutdown && (match s.pwr.dying with | some d => decide (d.phase ≠ .halted) | none => true)

/-- The chain halts with a cause of R520 (R28). -/
def haltChain (s : State) (cause : Nat) : State :=
  raise 0x0103 { s with sec := { s.sec with halted := true, cause := cause }, dev := { s.dev with bootErr := true } }

/-- The identity key pair generated when its region of OTP is blank (R533). -/
def makeIdentity (s : State) : State :=
  if isBlank s.otp.idPriv then
    let priv := (List.range 1536).map (Config.randomByte s.dev.free)
    bumpFree { s with otp := { s.otp with idPriv := priv, idPub := slice (Config.rsaModulus priv) 0 384 } }
  else s

/-- The image of a vendor stage that is to run: the selected slot, or the other one once the selected one has failed (R519). `.inl` gives the failure of the selected slot. -/
def pickVendor (s : State) (kind : Nat) : VerErr ⊕ (Bool × Bool × List Byte) :=
  let b := s.flash.sel kind
  let judge (x : Bool) : VerErr ⊕ List Byte :=
    match s.flash.slot kind x with
    | none => .inl .key
    | some img => (match verifyErr s kind img with | some e => .inl e | none => .inr img)
  match judge b with
  | .inr img => .inr (b, false, img)
  | .inl e => (match judge (!b) with | .inr img => .inr (!b, true, img) | .inl _ => .inl e)

/-- A vendor stage verified: what it leaves, or the halt. `keyCause` is the cause of R520 for its key or signature; the next one is its rollback. -/
def vendorStage (s : State) (kind keyCause : Nat) (run : Bool → List Byte → State → State) : State :=
  match pickVendor s kind with
  | .inl .roll => haltChain s (keyCause + 1)
  | .inl _ => haltChain s keyCause
  | .inr (b, fell, img) =>
    let s1 := if fell then authFailed { s with sec := { s.sec with fallback := true } } kind else s
    imageVerified (run b img s1) kind img

/-- The calibration of every SAR in BOOT (R114): its terms are the unit's own and free. -/
def bootCal (s : State) : State :=
  (List.range 32).foldl (fun st n => setTerms st n (Config.bootTerm n 0) (Config.bootTerm n 1) (Config.bootTerm n 2)) s

/-- Stage 0 verifies stage-1 (R517, R533): OTP sense and flash come first, beside the calibration of the front end (R114). -/
def bootStage1 (s0 : State) (otpOk flashOk : Bool) : State :=
  let s := bootCal s0
  if !otpOk then haltChain s 1
  else if !flashOk || !s.flash.bcbOk then haltChain s 2
  else
    vendorStage (makeIdentity s) 0 3 (fun b img t =>
      { t with sec := { t.sec with stage := 1, s1Slot := b, s1Key := imgKey img % 4, meas1 := sha256 img } })

/-- Stage-1 verifies the library (R517, R524). -/
def bootLibrary (s : State) : State :=
  vendorStage s 1 5 (fun b img t =>
    let v := field img 36 4
    regSet { t with sec := { t.sec with stage := 2, libSlot := b, libKey := imgKey img % 4, meas2 := sha256 img, libVer := v } } R.cfgLibVer v)

/-- The scheme image in the selected slot is verified, once DRAM is trained (R517, R519, R520). -/
def bootScheme (s : State) : State :=
  if !s.sec.dramDone then s
  else
    match s.flash.slot 2 s.flash.schSel with
    | none => haltChain s 8
    | some img =>
      match verifyErr s 2 img with
      | some .key => haltChain s 9
      | some .roll => haltChain s 10
      | some (.shape e) => haltChain (loadRejected s e) 11
      | none => imageVerified { s with sec := { s.sec with stage := 3, schSlot := s.flash.schSel } } 2 img

/-- The scheme image is applied, the flash copies are restored, and the requested mode is entered (R27, R366, R399, R400, R470, R517, R546). -/
def bootEnter (s : State) : State :=
  match s.flash.slot 2 s.sec.schSlot with
  | none => s
  | some img =>
    let at_ := firstGrid 14400 (now s)
    let s1 := applyScheme { s with sec := { s.sec with stage := 4, chainDone := true }, dev := { s.dev with bootErr := false } } img at_
    let s2 := restoreFlash s1
    let s3 := changeMode s2 (if (cutImage img).wantsService then resolveService s2 else .commission) at_
    let s4 := if paired s3 then s3 else setEpoch s3 (at_ / secI % 2 ^ 16)
    safeAgain (cfgKick (showSpares { s4 with bel := { s4.bel with bcn := 0, bcnAt := now s / msI, supAt := s.dev.ticks } }))

/-- BOOT_STAGE_VERIFIED (R517): the stage under way ends. `otpOk` and `flashOk` say whether OTP sense and flash answered. -/
def execBootStageVerified (otpOk flashOk : Bool) (s : State) : Host.Outcome State Fault Refusal :=
  next (
    if s.dev.mode ≠ .boot ∨ s.sec.halted ∨ s.sec.chainDone ∨ !partRuns s ∨ s.pwr.failLow then s
    else
      match s.sec.stage with
      | 0 => bootStage1 s otpOk flashOk
      | 1 => bootLibrary s
      | 2 => bootScheme s
      | _ => bootEnter s)

/-- DRAM_TRAINING_DONE (R517, R578): DEV_CAP2 is set and the record area checked; training that fails halts the chain. It runs from the end of stage 0. -/
def execDramTrainingDone (good eightGib : Bool) (s : State) : Host.Outcome State Fault Refusal :=
  next (
    if s.dev.mode ≠ .boot ∨ s.sec.halted ∨ s.sec.dramDone ∨ s.sec.stage = 0 ∨ !partRuns s ∨ s.pwr.failLow then s
    else if !good then haltChain s 7
    else
      let most := if eightGib then 96 else 42
      let s1 := fldSet (fldSet { s with sec := { s.sec with dramDone := true } } R.devCap2 31 28 (if eightGib then 2 else 1)) R.devCap2 27 20 most
      if most < fld s1 R.cupAreaCfg 7 0 then fldSet s1 R.cupAreaCfg 7 0 most else s1)

end Sys2Proof.Machine
end

