-- ==== Sys2Proof/Machine/DataPort.lean ====
section
/-! DEFINITION. The internal address space and the data port (R137, R182, R187, R511 to R513, R516, R525, R574 to R578). -/

namespace Sys2Proof.Machine

/-! ### What the regions read (R574 to R576) -/

/-- A byte of cluster SRAM: bay regions, library tables, instruction SRAM (R182). -/
def clusterByte (s : State) (c o : Nat) : Byte :=
  if o < 0x40000 then regionByte s (4 * c + o / 0x10000) (o % 0x10000)
  else if o < 0x60000 then Config.libByte 0x200 [(0, (s.sec.libVer : Int))] (o - 0x40000)
  else if o < 0x80000 then 0
  else Config.libByte 0x201 [(0, (s.sec.libVer : Int))] (o - 0x80000)

/-- A byte of the AFE island SRAM: circular buffers, cycle-block rings (R103, R113). -/
def afeByte (s : State) (o : Nat) : Byte :=
  if o < 0x100000 then
    match tget? (afeCh s (o / 0x8000)).buf (o % 0x8000 / 8) with
    | some e => e.bytes.getD (o % 8) 0
    | none => 0
  else
    let p := o - 0x100000
    match tget? (trk s (p / 0x20000)).ring (p % 0x20000 / 0x800) with
    | some b => b.bytes.getD (p % 0x800) 0
    | none => 0

/-- A word of the coefficient memory (R136). -/
def coefWord (s : State) (o : Nat) : Nat :=
  let c := fltCh s (o / 0x400)
  let p := o % 0x400
  let pick (l : List Int) (b : Nat) : Nat := ofSigned 32 (l.getD ((p - b) / 4) 0)
  if p < 0x100 then pick c.b3A 0 else if p < 0x200 then pick c.b3B 0x100
  else if p < 0x300 then pick c.b4A 0x200 else pick c.b4B 0x300

/-- The OTP as the data port shows it: the private region reads 0 (R525). -/
def otpByte (s : State) (o : Nat) : Byte :=
  let f := s.otp
  let at_ (b v n : Nat) : Byte := (leBytes n v).getD (o - b) 0
  let fuses (b n : Nat) : Byte := at_ b (2 ^ n - 1) 16
  if o < 0x10 then at_ 0 f.uid 16
  else if o < 0x14 then at_ 0x10 f.unitField 4
  else if 0x20 ≤ o ∧ o < 0xA0 then (f.key false ((o - 0x20) / 32)).getD ((o - 0x20) % 32) 0
  else if 0xA0 ≤ o ∧ o < 0x120 then (f.key true ((o - 0xA0) / 32)).getD ((o - 0xA0) % 32) 0
  else if 0x120 ≤ o ∧ o < 0x124 then at_ 0x120 f.revoked 4
  else if 0x130 ≤ o ∧ o < 0x140 then fuses 0x130 f.vendFuses
  else if 0x140 ≤ o ∧ o < 0x150 then fuses 0x140 f.ownFuses
  else if 0x200 ≤ o ∧ o < 0x800 then f.trim.getD (o - 0x200) 0
  else if 0xE00 ≤ o ∧ o < 0xF80 then f.idPub.getD (o - 0xE00) 0
  else 0

/-- The 64 bytes of a PR ring entry (R344). -/
def PrEnt.bytes (e : PrEnt) : List Byte := e.head ++ e.digital

/-- A byte of a bay's PR ring: entry j since the last clear at 64 × (j mod N) (R576). -/
def prByte (s : State) (b o : Nat) : Byte :=
  match cupBay? s b, bay? s b with
  | some c, some x =>
    let n := ringLen c.recd x.rate
    let i := o / 64
    if c.wr = 0 ∨ n ≤ i then 0
    else
      match c.ring[(c.wr - 1 + n - i) % n]? with
      | some e => e.bytes.getD (o % 64) 0
      | none => 0
  | _, _ => 0

/-- A byte of an IR or HR ring (R344, R576). -/
def irByte (r : Option IrRing) (o : Nat) : Byte :=
  match r.bind (fun x => tget? x.w (o / 8)) with
  | some w => (irEntry w).getD (o % 8) 0
  | none => 0

/-- A byte of a bay's statistics (R376 to R378, R576). -/
def statByte (s : State) (b o : Nat) : Byte :=
  match cupBay? s b with
  | none => 0
  | some c =>
    if o < 0x300 then (leBytes 4 (tget 0 c.ev (o / 4))).getD (o % 4) 0
    else if 0x400 ≤ o ∧ o < 0x400 + 5760 then (leBytes 4 (tget 0 c.harm ((o - 0x400) / 4))).getD (o % 4) 0
    else if 0x10000 ≤ o then (leBytes 2 (tget 0 c.pm ((o - 0x10000) / 2))).getD (o % 2) 0
    else 0

/-- A byte of a bay's MET area: the open interval, then the closed ones from the oldest held (R329, R576). -/
def metByte (s : State) (b o : Nat) : Byte :=
  match tget? s.met.bays b with
  | none => 0
  | some m =>
    if o < 0x80 then (metOpenBytes s b m).getD o 0
    else
      match m.held.reverse[(o - 0x80) / 128]? with
      | some h => h.rec_.bytes.getD ((o - 0x80) % 128) 0
      | none => 0

/-- The end of the DRAM window, as an offset (R575). -/
def dramEnd (s : State) : Nat := match fld s R.devCap2 31 28 with | 1 => 0xF0000000 | 2 => 0x1E0000000 | _ => 0

/-- Whether a row of the DRAM map names an offset (R575). -/
def dramNamed (s : State) (o : Nat) : Bool :=
  decide (o < dramEnd s) &&
    (decide (o < nBays s * 0x800000) || (decide (0x40000000 ≤ o) && decide (o < 0x42000000))
      || (decide (0x42000000 ≤ o) && decide (o < 0x42000000 + nBays s * 0x20000)) || (decide (0x43000000 ≤ o) && decide (o < 0x43000000 + nBays s * 0x4000))
      || (decide (0x44000000 ≤ o) && decide (o < 0x44A00000)) || (decide (0x48000000 ≤ o) && decide (o < 0x48000000 + areaUnits s * 0x10000)))

/-- A byte of DRAM by offset in the window: what the part keeps there, under what data-port writes have left. The record area's bytes are free: the spec gives records no place in it. -/
def dramByte (s : State) (o : Nat) : Byte :=
  match tget? s.hif.dram o with
  | some b => b
  | none =>
  if o < 0x40000000 then prByte s (o / 0x800000) (o % 0x800000)
  else if o < 0x41000000 then irByte (tget? s.prep.ir ((o - 0x40000000) / 0x80000)) (o % 0x80000)
  else if o < 0x42000000 then irByte (tget? s.cup.hr ((o - 0x41000000) / 0x100000)) (o % 0x100000)
  else if o < 0x43000000 then statByte s ((o - 0x42000000) / 0x20000) (o % 0x20000)
  else if o < 0x44000000 then metByte s ((o - 0x43000000) / 0x4000) (o % 0x4000)
  else if o < 0x44800000 then ((s.flash.slot 2 s.sec.schSlot).getD []).getD (o - 0x44000000) 0
  else if o < 0x44A00000 then ((s.flash.slot 1 s.sec.libSlot).getD []).getD (o - 0x44800000) 0
  else Config.randomByte s.dev.free o

/-- The regions of the internal address space (R574). -/
inductive Region
  | cluster (c o : Nat)
  | descr (b o : Nat)
  | afe (o : Nat)
  | coef (o : Nat)
  | otp (o : Nat)
  | dram (o : Nat)
  | none_
deriving DecidableEq, Repr

/-- The region of an internal address. -/
def regionOf (s : State) (a : Nat) : Region :=
  if a < nClusters s * 0x100000 then (if a % 0x100000 < 0xA0000 then .cluster (a / 0x100000) (a % 0x100000) else .none_)
  else if 0x100800000 ≤ a ∧ a < 0x100800000 + nBays s * 64 then .descr ((a - 0x100800000) / 64) (a % 64)
  else if 0x200000000 ≤ a ∧ a < 0x200200000 then .afe (a - 0x200000000)
  else if 0x200200000 ≤ a ∧ a < 0x200208000 then .coef (a - 0x200200000)
  else if 0x300000000 ≤ a ∧ a < 0x300004000 then .otp (a - 0x300000000)
  else if 0x1000000000 ≤ a then
    (if dramEnd s = 0 ∨ dramNamed s (a - 0x1000000000) then .dram (a - 0x1000000000) else .none_)
  else .none_

/-- The 32-bit word at an internal address; an undecoded address reads 0 (R513, R574). -/
def intWord (s : State) (a : Nat) : Nat :=
  let four (f : Nat → Byte) (o : Nat) : Nat := leVal ((List.range 4).map (fun i => f (o + i)))
  match regionOf s a with
  | .cluster c o => four (clusterByte s c) o
  | .descr b o => four (fun i => match bay? s b with | some x => x.slot.descriptor.getD i 0 | none => 0) o
  | .afe o => four (afeByte s) o
  | .coef o => coefWord s o
  | .otp o => four (otpByte s) o
  | .dram o => four (dramByte s) o
  | .none_ => 0

/-! ### The address (R511, R516) -/

/-- The address in DPC_ADDR_LO and DPC_ADDR_HI. -/
def dpcAddr (s : State) : Nat := fld s R.dpcAddrHi 7 0 * 2 ^ 32 + regGet s R.dpcAddrLo

/-- The address advanced by an access of `n` bytes; it wraps at 2^40 (R511). -/
def dpcAdvance (s : State) (n : Nat) : State :=
  let a := (dpcAddr s + n) % 2 ^ 40
  regSet (regSet s R.dpcAddrLo (a % 2 ^ 32)) R.dpcAddrHi (a / 2 ^ 32)

/-- The addresses of the words that an access of `n` bytes reaches. -/
def dpcWords (s : State) (n : Nat) : List Nat := (List.range (n / 4)).map (fun i => (dpcAddr s + 4 * i) % 2 ^ 40)

/-- A request that the port takes: whole words with every end byte enabled, at most 256 B (R511). -/
def dpcTakes (len : Nat) (enabled : Bool) : Bool := enabled && decide (0 < len) && decide (len ≤ 256) && decide (len % 4 = 0)

/-- An underrun: zeros, DPC_STAT.underrun, the count, the event at most once per second; the address stays (R512). -/
def dpcUnderrun (s : State) (len : Nat) : State :=
  let s1 := bump (flagSet { s with hif := { s.hif with dportData := List.replicate (len / 4) 0 } } R.dpcStat 0 true) R.dpcUnderrunCnt
  if (match s.hif.dpEvt with | some t => elapsed s t secT | none => true) then
    raise 0x0D05 { s1 with hif := { s1.hif with dpEvt := some s.dev.ticks } } (items := [(8, dpcAddr s)])
  else s1

/-- A read of the data port (R511 to R513): DRAM before its training completes as an underrun (R574). -/
def dportRead (s : State) (len : Nat) (enabled : Bool) : State :=
  if !dpcTakes len enabled then bump s R.hifBadAccess
  else
    let ws := dpcWords s len
    let dark (a : Nat) : Bool := match regionOf s a with | .dram _ => decide (dramEnd s = 0) | _ => false
    if ws.any dark then dpcUnderrun s len
    else bumpFree (dpcAdvance { s with hif := { s.hif with dportData := ws.map (fun a => BitVec.ofNat 32 (intWord s a)) } } len)

/-! ### Writes (R137, R187, R513) -/

/-- What the words of a write have met: a refusal, an undecoded address, the first address that the seal refused. -/
structure WrNote where
  rej : Bool
  err : Bool
  seal_ : Option Nat
deriving DecidableEq, Repr

/-- Whether a stage's bank may not be written: it is active, or its stage fades or has a deferred swap (R137). -/
def bankBusy (b : BankState) (isB : Bool) : Bool := decide (b.actB = isB) || b.fade.isSome || b.deferred.isSome

/-- A coefficient written (R136, R137). -/
def coefPut (s : State) (o w : Nat) : State :=
  let n := o / 0x400
  let p := o % 0x400
  let c := fltCh s n
  let put (l : List Int) (b len : Nat) : List Int := if (p - b) / 4 < len then l.set ((p - b) / 4) (toSigned 32 w) else l
  setFlt s n (if p < 0x100 then { c with b3A := put c.b3A 0 64 } else if p < 0x200 then { c with b3B := put c.b3B 0x100 64 }
    else if p < 0x300 then { c with b4A := put c.b4A 0x200 37 } else { c with b4B := put c.b4B 0x300 37 })

/-- A word written to the statistics of a bay. -/
def statPut (s : State) (b o w : Nat) : State :=
  modCup s b (fun c =>
    if o < 0x300 then { c with ev := tset c.ev (o / 4) w }
    else if 0x400 ≤ o ∧ o < 0x400 + 5760 then { c with harm := tset c.harm ((o - 0x400) / 4) w }
    else if 0x10000 ≤ o then { c with pm := tset (tset c.pm ((o - 0x10000) / 2) (w % 65536)) ((o - 0x10000) / 2 + 1) (w / 65536) }
    else c)

/-- One word written at an internal address of a region (R574, R137, R187, R513). -/
def intPutIn (s : State) (x : WrNote) (a w : Nat) : Region → State × WrNote
  | .cluster _ o => (if o < 0x60000 ∨ 0x80000 ≤ o then flagSet s R.cfgStat 17 true else s, { x with rej := true })
  | .descr _ _ => (s, { x with rej := true })
  | .afe _ => (s, { x with rej := true })
  | .otp _ => (s, { x with rej := true })
  | .none_ => (s, { x with err := true })
  | .coef o =>
    let n := o / 0x400
    let c := fltCh s n
    let p := o % 0x400
    if isSealed s then (s, { x with rej := true, seal_ := x.seal_.orElse (fun _ => some a) })
    else if bankBusy (if p < 0x200 then c.b3 else c.b4) (decide (p / 0x100 % 2 = 1)) then (flagSet s (R.fltStat n) 15 true, { x with rej := true })
    else (coefPut s o w, x)
  | .dram o =>
    if s.dev.mode ≠ .test then (s, { x with rej := true })
    else if 0x42000000 ≤ o ∧ o < 0x43000000 then (statPut s ((o - 0x42000000) / 0x20000) (o % 0x20000) w, x)
    else ({ s with hif := { s.hif with dram := (enumFrom0 (leBytes 4 w)).foldl (fun t p => tset t (o + p.1) p.2) s.hif.dram } }, x)

/-- One word written at an internal address. -/
def intPut (s : State) (x : WrNote) (a w : Nat) : State × WrNote := intPutIn s x a w (regionOf s a)

/-- A write of the data port (R511, R513); the address advances whatever becomes of the words. -/
def dportWrite (s : State) (data : List Byte) (enabled : Bool) : State :=
  if !dpcTakes data.length enabled then bump s R.hifBadAccess
  else
    let r := (enumFrom0 (dpcWords s data.length)).foldl (fun (acc : State × WrNote) p => intPut acc.1 acc.2 p.2 (field data (4 * p.1) 4)) (s, ⟨false, false, none⟩)
    let s1 := if r.2.rej then bump (flagSet r.1 R.dpcStat 2 true) R.dpcWrRejCnt else r.1
    let s2 := if r.2.err then flagSet s1 R.dpcStat 1 true else s1
    let s3 := match r.2.seal_ with | some a => sealedWrite s2 a true | none => s2
    dpcAdvance s3 data.length

/-- A write of the data port's address (R516). -/
def dpcAddrPut (s : State) (hi : Bool) (v : Nat) : State :=
  if hi then regSet s R.dpcAddrHi (v % 256)
  else if v % 4 ≠ 0 then flagSet s R.dpcStat 1 true else regSet s R.dpcAddrLo v

end Sys2Proof.Machine
end

