-- ==== Sys2Proof/Machine/HifRows.lean ====
section
/-! DEFINITION. The host interface: rings, doorbells, MSI-X, link and resets, the data port, the audit log's checkpoints (R32, R481 to R516, R565). -/

namespace Sys2Proof.Machine

/-- Whether a host access reaches the windows: the part runs and the link is up (R482, R541). -/
def hostReach (s : State) : Bool := partRuns s && s.hif.linkUp && !s.hif.perst

/-! ### NOP and IDENTIFY (R492, R500) -/

/-- The parameter bytes that NOP lists: none. -/
def usedNop : List (Nat × Nat) := []

/-- NOP completes with OK in every mode (R500). -/
def nopOwn (_e : CmdEntry) (_cid : Nat) (s : State) : CmdOut := .ok s

/-- NOP (R500). -/
def execNop (e : CmdEntry) (s : State) : Host.Outcome State Fault Refusal := next (submit 0x01 usedNop nopOwn e s)

/-- The parameter bytes that IDENTIFY lists: none. -/
def usedIdentify : List (Nat × Nat) := []

/-- The part number (R481, R492). -/
def partNum (s : State) : Nat := if s.dev.part7264 then 0x7264 else 0x7296

/-- IDENTIFY's result fields (R492). -/
def identifyOwn (_e : CmdEntry) (_cid : Nat) (s : State) : CmdOut :=
  .ok s Att.zero (leBytes 2 (partNum s) ++ leBytes 1 0xA1 ++ leBytes 1 s.dev.mode.code ++ leBytes 4 s.otp.unitId ++ leBytes 4 s.sec.libVer
    ++ leBytes 2 (nBays s) ++ leBytes 2 (nCells s))

/-- IDENTIFY (R492). -/
def execIdentify (e : CmdEntry) (s : State) : Host.Outcome State Fault Refusal := next (submit 0x02 usedIdentify identifyOwn e s)

/-! ### Rings created and destroyed (R494 to R496) -/

/-- The ring type of a code (R484). -/
def RingKind.ofCode : Nat → Option RingKind
  | 0 => some .cmd | 1 => some .cpl | 2 => some .evt | 3 => some .record | 4 => some .svt | 5 => some .log
  | _ => none

/-- A new ring: doorbell and part index 0, first pass with phase 1 (R495). -/
def HostRing.new (kind : RingKind) (n base vec count time dflt mask : Nat) : HostRing :=
  { kind := kind, n := n, base := base, vec := vec, modCount := count, modTime := time, dflt := dflt, mask := mask, host := 0, part := 0, phase := true,
    used := 0, reserved := 0, halted := false, unsig := 0, since := 0, dropped := 0 }

/-- A ring in place: the first EVT ring takes the held events, and HOST_RESET after a reset; a LOG ring is filled from the hold (R501, R504, R510). -/
def ringReady (s : State) (i : Nat) (r : HostRing) : State :=
  let s1 := { s with hif := { s.hif with rings := tset s.hif.rings i r, doorbells := tset s.hif.doorbells i 0 } }
  match r.kind with
  | .evt =>
    let s2 := redeliver { s1 with hif := { s1.hif with gone := s1.hif.gone - Nat.land s1.hif.gone r.mask } }
    if s2.hif.hostResetDue then raise 0x0D06 { s2 with hif := { s2.hif with hostResetDue := false } } else s2
  | .log => logRoom s1
  | _ => s1

/-- The parameter bytes of RING_CREATE (R495). -/
def usedRingCreate : List (Nat × Nat) := [(0, 17), (18, 2)]

/-- The ring that RING_CREATE describes, when every field is in its range (R495). -/
def ringOf (s : State) (p : List Byte) : Option HostRing :=
  let n := field p 2 1
  let vec := field p 3 1
  let count := field p 4 2
  let time := field p 6 2
  let base := field p 8 8
  let dflt := field p 16 1
  match RingKind.ofCode (field p 1 1) with
  | none => none
  | some k =>
    let isCpl := decide ((tget? s.hif.rings dflt).map HostRing.kind = some .cpl)
    let okN := decide (4 ≤ n) && decide (n ≤ 14) && (decide (vec < 128) || decide (vec = 0xFF))
    let okM := decide (1 ≤ count) && decide (count ≤ 4096) && decide (time ≤ 10000) && decide (base % 4096 = 0)
    if okN && okM && !(decide (k = .log) && (logRing s).isSome) && !(decide (k = .cmd) && !isCpl) then
      some (HostRing.new k n base vec count time dflt (field p 18 2 - field p 18 2 % 2))
    else none

/-- The owning rule of RING_CREATE (R495): accepted in every mode. -/
def ringCreateOwn (e : CmdEntry) (_cid : Nat) (s : State) : CmdOut :=
  let i := field e.params 0 1
  if i < 2 ∨ 127 < i ∨ (tget? s.hif.rings i).isSome then .rej s stBadParam
  else
    match ringOf s e.params with
    | none => .rej s stBadParam
    | some r => .ok (ringReady s i r) Att.zero (leBytes 1 i)

/-- RING_CREATE (R495). -/
def execRingCreate (e : CmdEntry) (s : State) : Host.Outcome State Fault Refusal := next (submit 0x04 usedRingCreate ringCreateOwn e s)

/-- The parameter bytes of RING_DESTROY (R496). -/
def usedRingDestroy : List (Nat × Nat) := [(0, 1)]

/-- Whether a ring is in use (R496); `cid` is the destroying command. -/
def ringBusy (s : State) (cid i : Nat) (r : HostRing) : Bool :=
  match r.kind with
  | .cmd => s.hif.inflight.any (fun f => decide (f.ring = i) && decide (f.cid ≠ cid)) || s.hif.waiting.any (fun w => decide (w.2.ring = i))
  | .cpl => s.hif.rings.any (fun p => decide (p.2.kind = .cmd) && decide (p.2.dflt = i)) || decide (r.reserved ≠ 0)
  | .record => s.cup.fetches.any (fun f => f.ring = i)
  | .svt => (List.range 4).any (fun t => flag s (R.afeTapCfg t) 31 && decide (fld s (R.afeTapCfg t) 6 0 = i))
  | _ => false

/-- The owning rule of RING_DESTROY (R496). -/
def ringDestroyOwn (e : CmdEntry) (cid : Nat) (s : State) : CmdOut :=
  let i := field e.params 0 1
  let mine : Bool := match s.hif.inflight.find? (fun f => f.cid = cid) with | some f => decide (f.ring = i) || decide (f.cpl = i) | none => false
  match tget? s.hif.rings i with
  | none => .rej s stBadParam
  | some r =>
    if decide (i < 2) || decide (127 < i) || mine then .rej s stBadParam
    else if ringBusy s cid i r then .rej s stBusy
    else .ok { s with hif := { s.hif with rings := terase s.hif.rings i, gone := if r.kind = .evt then Nat.lor s.hif.gone r.mask else s.hif.gone } }

/-- RING_DESTROY (R496). -/
def execRingDestroy (e : CmdEntry) (s : State) : Host.Outcome State Fault Refusal := next (submit 0x05 usedRingDestroy ringDestroyOwn e s)

/-! ### Rings 0 and 1, and the resets of the host island (R32, R482, R494, R565) -/

/-- HIF_CTL.admin_en written with 1 (R494): rings 0 and 1 are created from the admin registers. -/
def adminEnable (s : State) : State :=
  if (tget? s.hif.rings 0).isSome then s
  else
    let base (lo hi : Nat) : Nat := regGet s hi * 2 ^ 32 + regGet s lo
    let cmd := HostRing.new .cmd (fld s R.hifAdminCfg 11 8) (base R.hifAdminCmdLo R.hifAdminCmdHi) 0xFF 1 0 1 0
    let cpl := HostRing.new .cpl (fld s R.hifAdminCfg 7 4) (base R.hifAdminCplLo R.hifAdminCplHi) (fld s R.hifAdminCfg 23 16) 1 0 0 0
    flagSet (ringReady (ringReady s 0 cmd) 1 cpl) R.hifCtl 0 true

/-- ADMIN_EN (R494). -/
def execAdminEn (s : State) : Host.Outcome State Fault Refusal := next (if hostReach s then adminEnable s else s)

/-- The ring state of the host island at its reset values, with the registers of R565; accepted commands keep their effects and lose their completions (R482). -/
def resetHost (s : State) : State :=
  let h := { s.hif with rings := [], inflight := [], waiting := [], lastServed := 127, doorbells := [], gone := 0, hostResetDue := true }
  let s1 := { s with hif := h }
  let back (st : State) (a : Nat) : State := regSet st a (resetWordAt a)
  let s2 := [R.hifCtl, R.hifAdminCfg, R.hifAdminCmdLo, R.hifAdminCmdHi, R.hifAdminCplLo, R.hifAdminCplHi, R.hifRingSel, R.dpcAddrLo, R.dpcAddrHi].foldl back s1
  flagSet s2 R.hifStat 1 true

/-- ADMIN_RESET (R494, R565). -/
def execAdminReset (s : State) : Host.Outcome State Fault Refusal := next (if hostReach s then resetHost s else s)

/-- PCIE_FLR (R32, R565). -/
def execPcieFlr (s : State) : Host.Outcome State Fault Refusal := next (if hostReach s then resetHost s else s)

/-- PERST_ASSERT (R482): PERST# or the loss of the link; the ring state is reset once the link is up again. -/
def execPerstAssert (linkDown : Bool) (s : State) : Host.Outcome State Fault Refusal :=
  next { s with hif := { s.hif with perst := s.hif.perst || !linkDown, linkUp := false } }

/-- PCIE_LINK_UP (R482). -/
def execPcieLinkUp (s : State) : Host.Outcome State Fault Refusal :=
  next (if s.hif.linkUp then s else if partRuns s then resetHost { s with hif := { s.hif with linkUp := true, perst := false, power := .d0 } }
    else { s with hif := { s.hif with linkUp := true, perst := false, power := .d0 } })

/-- Every vector that is pending and not masked sends (R497). -/
def sendPending (s : State) : State :=
  (setBits 128 s.hif.msixPending).foldl (fun st v =>
    if linkOk st && !bitOf st.hif.msixMasked v then
      { st with hif := { st.hif with msixPending := st.hif.msixPending - 2 ^ v, msixSent := tmod 0 st.hif.msixSent v (· + 1) } }
    else st) s

/-- PCIE_POWER_STATE_CHANGE (R482): back in D0, what was held goes out. -/
def execPciePowerStateChange (d3hot : Bool) (s : State) : Host.Outcome State Fault Refusal :=
  let s1 := { s with hif := { s.hif with power := if d3hot then .d3hot else .d0 } }
  next (if d3hot || !hostReach s then s1 else logRoom (redeliver (sendPending s1)))

/-! ### Doorbells (R485) -/

/-- A doorbell that is ignored (R485). -/
def badDoorbell (s : State) (ring value : Nat) : State :=
  raise 0x0D02 (flagSet (bump s R.hifBadDb) R.hifStat 2 true) (idx := ring) (items := [(4, value % 2 ^ 32)])

/-- Whether a doorbell's index is taken (R485): below 2^n, and a head releases only entries written. -/
def doorbellOk (r : HostRing) (idx : Nat) : Bool :=
  decide (idx < r.size) && (decide (r.kind = .cmd) || decide ((idx + r.size - r.host) % r.size ≤ r.used))

/-- A doorbell written: the tail of a CMD ring, or the head of another (R485). Released slots let held log entries in. -/
def doorbell (s : State) (ring value : Nat) : State :=
  if 127 < ring then bump s R.hifBadAccess
  else
    let idx := value % 65536
    let s0 := { s with hif := { s.hif with doorbells := tset s.hif.doorbells ring (value % 2 ^ 32) } }
    match tget? s0.hif.rings ring with
    | none => badDoorbell s0 ring value
    | some r =>
      if !doorbellOk r idx then badDoorbell s0 ring value
      else if r.kind = .cmd then modRing s0 ring (fun x => { x with host := idx })
      else
        let s1 := modRing s0 ring (fun x => { x with host := idx, used := x.used - (idx + x.size - x.host) % x.size })
        if r.kind = .log then logRoom s1 else s1

/-- CMD_DOORBELL (R485). -/
def execCmdDoorbell (ring value : Nat) (s : State) : Host.Outcome State Fault Refusal := next (if hostReach s then doorbell s ring value else s)

/-! ### Interrupts (R497) -/

/-- MSIX_MODERATION_EXPIRY (R497): the oldest unsignalled entry of a ring has waited for its moderation time. -/
def execMsixModerationExpiry (ring : Nat) (s : State) : Host.Outcome State Fault Refusal := next (askVector s ring)

/-- MSIX_VECTOR_UNMASK (R497): a vector with its PBA bit set sends. -/
def execMsixVectorUnmask (vec : Nat) (s : State) : Host.Outcome State Fault Refusal :=
  next (if vec < 128 ∧ hostReach s ∧ bitOf s.hif.msixMasked vec then sendPending { s with hif := { s.hif with msixMasked := s.hif.msixMasked - 2 ^ vec } } else s)

/-! ### The data port (R511 to R513, R516) -/

/-- DPORT_READ (R511). -/
def execDportRead (len : Nat) (enabled : Bool) (s : State) : Host.Outcome State Fault Refusal := next (if hostReach s then dportRead s len enabled else s)

/-- DPORT_WRITE (R511, R513). -/
def execDportWrite (data : List Byte) (enabled : Bool) (s : State) : Host.Outcome State Fault Refusal :=
  next (if hostReach s then dportWrite s data enabled else s)

/-- DPORT_UNDERRUN (R512). -/
def execDportUnderrun (len : Nat) (s : State) : Host.Outcome State Fault Refusal :=
  next (if hostReach s ∧ dpcTakes len true then dpcUnderrun s len else s)

/-- DPC_ADDR_WRITE (R511, R516). -/
def execDpcAddrWrite (hi : Bool) (value : Nat) (s : State) : Host.Outcome State Fault Refusal := next (if hostReach s then dpcAddrPut s hi value else s)

/-! ### The audit log (R509) -/

/-- LOG_CHECKPOINT (R509): 10 s after a chained entry not yet covered. -/
def execLogCheckpoint (s : State) : Host.Outcome State Fault Refusal :=
  next (match s.hif.logSince with
    | some t => if elapsed s t (10 * secT) then logCheckpoint s else s
    | none => s)

/-! ### DMA errors (R481, R505) -/

/-- A read of host memory that failed (R481, R504). -/
def dmaError (s : State) (ring addr : Nat) : State :=
  raise 0x0D03 (flagSet (bump s R.hifDmaErr) R.hifStat 3 true) (idx := ring) (items := [(8, addr)])

/-- A read of command entries that failed halts the ring (R505). -/
def haltRing (s : State) (ring : Nat) : State :=
  match tget? s.hif.rings ring with
  | some r =>
    if r.kind = .cmd ∧ r.part ≠ r.host ∧ !r.halted then modRing (dmaError s ring (r.base + 64 * r.part)) ring (fun x => { x with halted := true }) else s
  | none => s

/-- The owning rule of a command whose token or parameter read failed (R491). -/
def dmaFailOwn (addr : Nat) (e : CmdEntry) (_cid : Nat) (s : State) : CmdOut := .rejAfter (dmaError s e.ring addr) stBadParam

/-- DMA_COMPLETION_TIMEOUT (R481, R491, R505): a read request of the part gets no completion. -/
def execDmaCompletionTimeout (r : DmaRead) (s : State) : Host.Outcome State Fault Refusal :=
  next (if !linkOk s || !partRuns s then s
    else match r with
      | .entry ring => haltRing s ring
      | .param op e addr => submit op [(0, 48)] (dmaFailOwn addr) e s)

end Sys2Proof.Machine
end

