-- ==== Sys2Proof/Machine/BayRows.lean ====
section
/-! DEFINITION. The bays: their commands, their tasks and windows, requests taking effect, binary inputs and direct trip outputs (R188, R189, R200, R201, R302 to R313, R426 to R428, R572). -/

namespace Sys2Proof.Machine

/-! ### Commands (R200, R302 to R307) -/

/-- The parameter bytes of BAY_START and BAY_STOP. -/
def usedBayRun : List (Nat × Nat) := [(0, 2)]

/-- What BAY_START and BAY_STOP check before their own state (R303). -/
def bayRunCheck (s : State) (n : Nat) : Option Nat :=
  if s.dev.mode = .boot ∨ s.dev.mode = .vigil then some stBadMode
  else if nBays s ≤ n ∨ (bay? s n).isNone then some stBadParam
  else if pendReq s n BayReqKind.isRun then some stBusy
  else none

/-- The owning rule of BAY_START (R296, R303). -/
def bayStartOwn (e : CmdEntry) (_cid : Nat) (s : State) : CmdOut :=
  let n := field e.params 0 2
  match bayRunCheck s n, bay? s n with
  | some st, _ => .rej s st
  | none, none => .rej s stBadParam
  | none, some b =>
    if b.runs then .ok s
    else if !constOk (b.setOf (brInit b.recd)) then .rejAfter (raise 0x0903 s (bay := n)) stBadParam
    else
      let at_ := bayEffect s b
      .ok (forward (putReq s n .start at_ true) 2 n at_ 0) (at_.att s b.rate)

/-- BAY_START (R303). -/
def execBayStart (e : CmdEntry) (s : State) : Host.Outcome State Fault Refusal := next (submit 0x40 usedBayRun bayStartOwn e s)

/-- The owning rule of BAY_STOP (R303). -/
def bayStopOwn (e : CmdEntry) (_cid : Nat) (s : State) : CmdOut :=
  let n := field e.params 0 2
  match bayRunCheck s n, bay? s n with
  | some st, _ => .rej s st
  | none, none => .rej s stBadParam
  | none, some b =>
    if !b.runs then .ok s
    else
      let at_ := bayEffect s b
      .ok (forward (putReq s n .stop at_ true) 3 n at_ 0) (at_.att s b.rate)

/-- BAY_STOP (R303). -/
def execBayStop (e : CmdEntry) (s : State) : Host.Outcome State Fault Refusal := next (submit 0x41 usedBayRun bayStopOwn e s)

/-- The parameter bytes of GROUP_SELECT. -/
def usedGroupSelect : List (Nat × Nat) := [(0, 3)]

/-- The owning rule of GROUP_SELECT (R200, R306). -/
def groupSelectOwn (e : CmdEntry) (_cid : Nat) (s : State) : CmdOut :=
  let n := field e.params 0 2
  let g := field e.params 2 1
  if s.dev.mode = .boot ∨ s.dev.mode = .vigil ∨ s.dev.mode = .safe then .rej s stBadMode
  else
    match bay? s n with
    | none => .rej s stBadParam
    | some b =>
      if !b.runs || decide (7 < g) || !bitOf (brMask b.recd) g then .rej s stBadParam
      else if (reqsOf s n).any (fun r => r.cmd && r.kind.isSwitch) then .rej s stBusy
      else
        let at_ := bayEffect s b
        let stopped : Bool := match stopAt? s n with | some x => x.le at_ | none => false
        if g = b.ctx.sg then .ok s (at_.att s b.rate)
        else if stopped then .rej s stAborted
        else .ok (forward (putReq s n (.switch g) at_ true) 1 n at_ g) (at_.att s b.rate)

/-- GROUP_SELECT (R200). -/
def execGroupSelect (e : CmdEntry) (s : State) : Host.Outcome State Fault Refusal := next (submit 0x42 usedGroupSelect groupSelectOwn e s)

/-- The parameter bytes of BAY_STATE_READ. -/
def usedBayStateRead : List (Nat × Nat) := [(0, 3), (8, 8)]

/-- The owning rule of BAY_STATE_READ (R307). A stopped bay is at a boundary at once. -/
def bayStateReadOwn (e : CmdEntry) (cid : Nat) (s : State) : CmdOut :=
  let n := field e.params 0 2
  let mask := field e.params 2 1
  let host := field e.params 8 8
  if s.dev.mode = .boot then .rej s stBadMode
  else if mask % 16 = 0 ∨ host = 0 ∨ host % 64 ≠ 0 ∨ nBays s ≤ n ∨ (bay? s n).isNone then .rej s stBadParam
  else
    let s1 := { s with cfg := { s.cfg with reads := tset s.cfg.reads n (tget [] s.cfg.reads n ++ [⟨mask % 16, host, 8, cid⟩]) } }
    .later (match bay? s1 n with | some b => if b.runs then s1 else takeReads s1 n false | none => s1)

/-- BAY_STATE_READ (R307). -/
def execBayStateRead (e : CmdEntry) (s : State) : Host.Outcome State Fault Refusal := next (submit 0x43 usedBayStateRead bayStateReadOwn e s)

/-- The parameter bytes of TARGET_RESET. -/
def usedTargetReset : List (Nat × Nat) := [(0, 2)]

/-- A target reset asked for: on a running bay at its instant, on a stopped one at once, on a bay without a context with nothing latched (R302); and its ATT. -/
def askReset (s : State) (n : Nat) : State × Inst :=
  match bay? s n with
  | none => (raise 0x0905 s (bay := n), now s)
  | some b =>
    if b.runs then
      let at_ := bayEffect s b
      (forward (putReq s n .reset at_ true) 4 n at_ 0, at_.inst b.rate)
    else
      let at_ := evalFrom b.rate (now s)
      (forward (resetsDue (putReq s n .reset at_ true) n at_) 4 n at_ 0, now s)

/-- The owning rule of TARGET_RESET (R302); for every bay the latest effect instant is reported. -/
def targetResetOwn (e : CmdEntry) (_cid : Nat) (s : State) : CmdOut :=
  let n := field e.params 0 2
  let todo := if n = 0xFFFF then s.bays.map Prod.fst else [n]
  if s.dev.mode = .boot ∨ s.dev.mode = .vigil then .rej s stBadMode
  else if n ≠ 0xFFFF ∧ nBays s ≤ n then .rej s stBadParam
  else if todo.any (fun i => pendReq s i BayReqKind.isReset) then .rej s stBusy
  else
    let r := todo.foldl (fun (acc : State × Inst) i => let x := askReset acc.1 i; (x.1, if acc.2 < x.2 then x.2 else acc.2)) (s, now s)
    .ok r.1 (attAt s r.2)

/-- TARGET_RESET (R302). -/
def execTargetReset (e : CmdEntry) (s : State) : Host.Outcome State Fault Refusal := next (submit 0x44 usedTargetReset targetResetOwn e s)

/-! ### Tasks and windows (R183, R188, R189, R426, R428) -/

/-- The first evaluation after power good shows in SEC_BOOT_TIME (R522). -/
def firstTask (s : State) : State :=
  match s.sec.firstEval with
  | some _ => s
  | none =>
    let us := capN (2 ^ 32 - 1) ((s.dev.ticks - s.sec.bootTick) / usT)
    regSet { s with sec := { s.sec with firstEval := some us } } R.secBootTime us

/-- BAY_TASK_START (R188, R420): the doorbell of a bay's oldest sealed instant; `ce` are the banks in which its reads found corrected errors (R183). -/
def execBayTaskStart (bay : Nat) (ce : List Nat) (s : State) : Host.Outcome State Fault Refusal :=
  if !partRuns s then next s
  else
    let s1 := tryAdopt s bay
    match bay? s1 bay with
    | none => next s1
    | some b =>
      if (taskReady s1 bay b).isNone then next s1
      else
        let s2 := (ce.filter (fun k => decide (k < 20))).foldl (fun st k => correctedError st (b.grp / 4) k) (metInstant s1 bay)
        next (firstTask (startTask s2 bay))

/-- TASK_WATCHDOG (R189): the task is aborted and nothing is committed. -/
def execTaskWatchdog (bay : Nat) (s : State) : Host.Outcome State Fault Refusal :=
  match tget? s.cfg.tasks bay, bay? s bay with
  | some t, some b =>
    let s1 := modBay (dropTask s bay) bay (fun x => { x with ctx := { x.ctx with cnt := { x.ctx.cnt with aborted := (x.ctx.cnt.aborted + 1) % 2 ^ 32 } } })
    let s2 := raise 0x0708 (bump s1 R.cfgTaskOverrun) (bay := bay) (att := some (t.at_.att s b.rate))
    next (mirAfter s (taskBoundary s2 bay false) bay)
  | _, _ => next s

/-- A sweep of SELFTEST kind 2 with no test left ends (R555). -/
def sweepEnd (s : State) : State :=
  match s.pwr.selftest with
  | some t => if t.kind = 2 ∧ t.left.all (fun p => decide (p.2 = 0)) then selfFinish s 0 else s
  | none => s

/-- EARLY_WINDOW_CLOSE (R426): while a bay's task or one of its setup tasks runs. -/
def execEarlyWindowClose (bay : Nat) (w : WindowEnd) (s : State) : Host.Outcome State Fault Refusal :=
  next (if partRuns s then mirAfter s (sweepEnd (closeEarly s bay w)) bay else s)

/-- WINDOW_CLOSE (R428). -/
def execWindowClose (bay : Nat) (w : WindowEnd) (s : State) : Host.Outcome State Fault Refusal :=
  next (if (tget? s.cfg.tasks bay).isSome then mirAfter s (sweepEnd (closeWindow s bay w)) bay else s)

/-! ### Requests taking effect (R201, R302, R304, R305) -/

/-- The pending request of a kind. -/
def pendAt (s : State) (n : Nat) (p : BayReqKind → Bool) : Option BayReq := (reqsOf s n).find? (fun r => p r.kind)

/-- BAY_START_EFFECT (R304). -/
def execBayStartEffect (bay : Nat) (s : State) : Host.Outcome State Fault Refusal :=
  match bay? s bay, pendAt s bay (fun k => decide (k = .start)) with
  | some b, some r =>
    if instCome s b r.at_ then
      next (startBay (setReqs s bay ((reqsOf s bay).filter (fun x => decide (x.kind ≠ .start)))) bay r.at_)
    else next s
  | _, _ => next s

/-- BAY_STOP_EFFECT (R305, R306): after the task of the last instant before it. -/
def execBayStopEffect (bay : Nat) (s : State) : Host.Outcome State Fault Refusal :=
  match bay? s bay, pendAt s bay (fun k => decide (k = .stop)) with
  | some b, some r =>
    let waits : Bool := (tget? s.cfg.tasks bay).isSome || b.slot.queue.any (fun z => !r.at_.le z.at_)
    if instCome s b r.at_ && !waits then
      next (bayLeft (stopBay s bay r.at_) bay)
    else next s
  | _, _ => next s

/-- GROUP_SWITCH_EFFECT (R201): the switches whose instant has come. -/
def execGroupSwitchEffect (bay : Nat) (s : State) : Host.Outcome State Fault Refusal :=
  match bay? s bay with
  | some b =>
    let due := (reqsOf s bay).filter (fun r => r.kind.isSwitch && instCome s b r.at_)
    next (match due.getLast? with | some r => switchesDue s bay r.at_ | none => s)
  | none => next s

/-- TARGET_RESET_EFFECT (R302). -/
def execTargetResetEffect (bay : Nat) (s : State) : Host.Outcome State Fault Refusal :=
  match bay? s bay with
  | some b =>
    let due := (reqsOf s bay).filter (fun r => r.kind.isReset && instCome s b r.at_)
    next (match due.getLast? with | some r => resetsDue s bay r.at_ | none => s)
  | none => next s

/-! ### Binary inputs (R308 to R310) -/

/-- Samples of a level before it is accepted (R308). -/
def debounceN (s : State) : Nat :=
  let n := rdivN (fld s R.bayBinCfg 31 16 * 129600) (10 ^ 6)
  if n < 1 then 1 else n

/-- The instant of sample `m` of the BIN sub-grid counted from the top of a second, past the second's end too. -/
def binTag (sec m : Nat) : QInst := (sec + m / 129600) * 4000000000 + convEdgeQ (16 * (m % 129600))

/-- BAY_BIN_STAT of an input. -/
def showBin (s : State) (i : Nat) : State :=
  flagSet (flagSet s R.bayBinStat i (bin s i).level) R.bayBinStat (16 + i) (bin s i).frozen.isSome

/-- A level accepted: the change counted, BIN_CHANGED for an enabled input, and the freeze of an input that chatters (R308, R310). -/
def acceptBin (s : State) (i : Nat) (level : Bool) (first accAt : QInst) : State :=
  let b := bin s i
  let sec := accAt / 4000000000
  let chg := if b.sec = sec then b.chg + 1 else 1
  let most := fld s R.bayBinCfg 15 8
  let ovr := decide (0 < most) && decide (most < chg)
  let b1 : Bin := { level := level, acc := ((accAt, level) :: b.acc).take 512, chg := chg, sec := sec, frozen := if ovr then some sec else none, since := b.since }
  let s1 := showBin { s with cfg := { s.cfg with bins := tset s.cfg.bins i b1 } } i
  let s2 := if flag s1 R.bayBinEvtEn i then raise 0x0907 s1 (idx := i) (items := [(1, b2n level)]) (att := some (attAt s1 (first * 16384))) else s1
  if ovr then raise 0x0908 (flagSet s2 R.bayStat 2 true) (idx := i) else s2

/-- BIN_ACCEPT (R308): the level first shown by sample `m` of a second has held for N samples. -/
def execBinAccept (input : Nat) (level : Bool) (sec m : Nat) (s : State) : Host.Outcome State Fault Refusal :=
  let first := binTag sec m
  let accAt := binTag sec (m + debounceN s - 1)
  let b := bin s input
  let newer : Bool := match b.acc.head? with | some p => decide (p.1 < accAt) | none => true
  if decide (input < 16) && decide (m < 129600) && decide (b.level ≠ level) && b.frozen.isNone && newer && decide (accAt * 16384 ≤ now s) && decide (s.afe.minTag ≤ first) && decide (b.since < first)
      && partRuns s && decide (s.dev.mode ≠ .boot) then
    next (acceptBin s input level first accAt)
  else next s

/-- BIN_CHATTER_RELEASE (R310): the end of a whole TAI second in which the raw level changed at most chatter_max times. -/
def execBinChatterRelease (input changes : Nat) (s : State) : Host.Outcome State Fault Refusal :=
  let b := bin s input
  match b.frozen with
  | some f =>
    if f + 2 ≤ now s / secI ∧ changes ≤ fld s R.bayBinCfg 15 8 then next (showBin { s with cfg := { s.cfg with bins := tset s.cfg.bins input { b with frozen := none, since := now s / 16384 } } } input)
    else next s
  | none => next s

/-! ### Direct trip outputs (R311 to R313, R572) -/

/-- DTO_DEMAND_FALL (R311): the demand has fallen, or the minimum width has run out after its fall. -/
def execDtoDemandFall (pin : Nat) (s : State) : Host.Outcome State Fault Refusal := next (if pin < 8 then dtoAll s else s)

/-- DTO_FAULT (R313). -/
def execDtoFault (pin : Nat) (s : State) : Host.Outcome State Fault Refusal :=
  next (if pin < 8 ∧ partRuns s then raise 0x0906 (flagSet (flagSet s R.bayDtoStat (8 + pin) true) R.bayStat 1 true) (idx := pin) else s)

/-- MODE_CTL.dto_en written (R572): ignored outside COMMISSION and TEST; a clear acts at once, a set at its instant. -/
def dtoEnPut (s : State) (v : Bool) : State :=
  if (s.dev.mode = .commission ∨ s.dev.mode = .test) ∧ s.dev.dtoEn ≠ v then
    if v then { s with dev := { s.dev with dtoEn := true, dtoAt := some (effectInst s) } }
    else dtoAll { s with dev := { s.dev with dtoEn := false, dtoActive := false, dtoAt := none } }
  else s

/-- DTO_EN_WRITE (R572). -/
def execDtoEnWrite (value : Bool) (s : State) : Host.Outcome State Fault Refusal := next (if hostReach s then dtoEnPut s value else s)

/-- DTO_EN_EFFECT (R572). -/
def execDtoEnEffect (s : State) : Host.Outcome State Fault Refusal :=
  match s.dev.dtoAt with
  | some t => next (if s.dev.dtoEn ∧ t ≤ now s then dtoAll { s with dev := { s.dev with dtoActive := true, dtoAt := none } } else s)
  | none => next s

end Sys2Proof.Machine
end

