-- ==== Sys2Proof/Machine/BelRows.lean ====
section
/-! DEFINITION. Belfry: frames received and forwarded by the switch, links and redundant pairs, received Belfry and GOOSE frames, what goes out by itself, and BEL_TEST_PUBLISH (R384 to R413, R499). -/

namespace Sys2Proof.Machine

/-! ### Links and redundant pairs (R384, R385, R395) -/

/-- LAN_FAULT_TIMEOUT (R395). -/
def execLanFaultTimeout (pair : Nat) (s : State) : Host.Outcome State Fault Refusal := next (if s.dev.mode = .boot then s else lanCheck s pair)

/-- The speeds that an interface mode allows (R384). -/
def speedOk (mode speed : Nat) : Bool :=
  match mode with
  | 1 => decide (speed = 5)
  | 2 => decide (1 ≤ speed) && decide (speed ≤ 5)
  | 3 => decide (speed = 1) || decide (speed = 2)
  | 4 => decide (speed = 2)
  | _ => false

/-- The link of a port comes up at a speed: LINK_UP (R385). -/
def linkRise (s : State) (n speed : Nat) : State :=
  let s1 := raise 0x0B01 (showPort (modPort s n (fun p => { p with up := true, speed := speed, lastRx := s.dev.ticks, got := false })) n) (idx := n)
    (items := [(1, speed)])
  lanCheck (drainPort s1 n) (n / 2)

/-- LINK_STATE_CHANGE: the link of an enabled port goes up at a speed of its interface, or goes down (R384 to R386). -/
def execLinkStateChange (n : Nat) (up : Bool) (speed : Nat) (s : State) : Host.Outcome State Fault Refusal :=
  let p := port s n
  next (
    if 5 < n ∨ s.dev.mode = .boot then s
    else if up then
      if speedOk (fld s (R.belPCfg n) 31 28) speed && (!p.up || decide (p.speed ≠ speed)) && !(isDying s && decide (4 ≤ n)) then linkRise s n speed else s
    else if p.up then linkFall s n
    else s)

/-! ### A received frame (R385, R387 to R390, R394) -/

/-- The VLAN and priority of a frame: those of its tag, or of its port for an untagged or priority-tagged one (R390). -/
def frameVlan (s : State) (n : Nat) (h : FrameHead) : Nat × Nat :=
  match h.tci with
  | some t => if t % 4096 = 0 then (fld s (R.belPCfg n) 23 12, fld s (R.belPCfg n) 26 24) else (t % 4096, t / 8192)
  | none => (fld s (R.belPCfg n) 23 12, fld s (R.belPCfg n) 26 24)

/-- The VLAN table's word of a VID (R390). -/
def vlanEntry (s : State) (vid : Nat) : Option Nat := ((s.bel.vlan.map Prod.snd).filter (fun w => bitOf w 31)).find? (fun w => decide (bitsOf w 11 0 = vid))

/-- Whether an address is a group address. -/
def isGroup (mac : Nat) : Bool := bitOf mac 40

/-- The port mask of a static multicast entry (R389). -/
def mcPorts (s : State) (mac vid : Nat) : Option Nat :=
  ((s.bel.mc.map Prod.snd).find? (fun e => bitOf e.2.1 31 && decide (bitsOf e.2.1 27 16 = vid) && decide (e.2.1 % 65536 * 2 ^ 32 + e.1 = mac))).map (fun e => e.2.2 % 128)

/-- The ports that the address tables give a frame, as a mask (R389). -/
def tablePorts (s : State) (h : FrameHead) (vid members : Nat) : Nat :=
  let flooded := (List.range 6).foldl (fun m n => if flag s (R.belPCfg n) 27 then m + 2 ^ n else m) 0
  if isGroup h.dst then Nat.land members (match mcPorts s h.dst vid with | some m => m | none => flooded)
  else
    match s.bel.uni.find? (fun e => decide (e.mac = h.dst) && decide (e.vid = vid) && !elapsed s e.since (fld s R.belSwCfg 31 16 * secT)) with
    | some e => Nat.land members (2 ^ e.port)
    | none => members

/-- Whether the kind of a frame may pass from port `n` to port `e` (R387, R393); Sync, Follow_Up and Delay_Req go by rows of their own, for their residence time. -/
def kindPasses (s : State) (n e : Nat) (f : List Byte) (h : FrameHead) : Bool :=
  if h.etype = 0x88BA then decide (n < 4) && (decide (e < 4) || flag s R.belSwCfg 2)
  else if h.etype = 0x88F7 then
    let ty := fieldBE f h.body 1 % 16
    !(decide (ty ≤ 3) || decide (ty = 8) || decide (ty = 10))
  else if h.etype = 0x88FB then decide (pairMode s n = 1) && decide (pairMode s e = 1) && decide (n % 2 = e % 2)
  else true

/-- Whether a frame on a ring port is kept from the other ring port (R394); PTP messages go by R387. -/
def ringStops (s : State) (n : Nat) (f : List Byte) (h : FrameHead) : Bool :=
  let t := if n < 2 then s.svi.dd01 else s.svi.dd23
  decide (h.dst = unitMac s) || decide (h.src = unitMac s) || h.hsr.any (fun q => t.any (fun e => decide (e.src = h.src) && decide (e.seq = q)))
    || (decide (h.etype = 0x88F7) && !kindPasses s n n f h)

/-- The ports that a frame of a VLAN with these members is forwarded to (R387, R389, R394): on a ring the other ring port, else by the tables; never its ingress port, and never from outside into a ring. -/
def dests (s : State) (n : Nat) (f : List Byte) (h : FrameHead) (vid members : Nat) : List Nat :=
  if pairMode s n = 2 then (if ringStops s n f h then [] else [if n % 2 = 0 then n + 1 else n - 1])
  else
    let m := tablePorts s h vid members
    (List.range 6).filter (fun e => decide (e ≠ n) && bitOf m e && decide (pairMode s e ≠ 2) && kindPasses s n e f h)

/-- A frame as it leaves a port: untagged where the VLAN says so, else with its VLAN tag (R390); on a ring as it came. -/
def retag (f : List Byte) (h : FrameHead) (ring untag : Bool) (vid pcp : Nat) : List Byte :=
  if ring then f
  else
    let dei := match h.tci with | some t => t / 4096 % 2 | none => 0
    let rest := if h.tci.isSome then f.drop 16 else f.drop 12
    padTo 60 (f.take 12 ++ (if untag then [] else beBytes 2 0x8100 ++ beBytes 2 (pcp * 8192 + dei * 4096 + vid)) ++ rest)

/-- Whether the switch starts sending a frame before it is complete (R388): cut-through is on, the egress port is idle and no faster. -/
def cutsThrough (s : State) (n e : Nat) : Bool :=
  let p := port s e
  flag s R.belSwCfg 0 && p.up && decide (p.busy ≤ s.dev.ticks) && p.bell.isEmpty && p.qs.all List.isEmpty && decide (speedBps p.speed ≤ speedBps (port s n).speed)

/-- A source address learned or refreshed; a full table learns no new one (R389). -/
def learnMac (s : State) (n : Nat) (h : FrameHead) (vid : Nat) : State :=
  let others := s.bel.uni.filter (fun e => !(decide (e.mac = h.src) && decide (e.vid = vid)))
  if flag s R.belSwCfg 1 && !isGroup h.src && decide (others.length < 4096) then
    { s with bel := { s.bel with uni := others ++ [⟨h.src, vid, n, s.dev.ticks⟩] } }
  else s

/-- A frame whose FCS failed: counted; each copy whose transmission has started ends with an inverted FCS and is counted on its port (R385, R388). -/
def badFcs (s : State) (n : Nat) (f : List Byte) : State :=
  let h := frameHead f
  let v := frameVlan s n h
  let es := match vlanEntry s v.1 with | some w => if bitOf w (18 + n) then dests s n f h v.1 (bitsOf w 24 18) else [] | none => []
  es.foldl (fun st e =>
    if cutsThrough st n e then
      bump (modPort st e (fun p => { p with busy := st.dev.ticks + frameTicks p.speed f })) (R.belPTxStomp e)
    else st) (bump s (R.belPRxFcs n))

/-- A good frame: learned and forwarded under its VLAN and the tables, or dropped (R389, R390). -/
def switchFrame (s : State) (n : Nat) (f : List Byte) : State :=
  let h := frameHead f
  let v := frameVlan s n h
  match vlanEntry s v.1 with
  | none => bump s (R.belPRxDrop n)
  | some w =>
    if !bitOf w (18 + n) then bump s (R.belPRxDrop n)
    else
      let es := dests s n f h v.1 (bitsOf w 24 18)
      es.foldl (fun st e => egress st e false (pcpQueue st v.2) ⟨retag f h (decide (pairMode s n = 2)) (bitOf w (25 + e)) v.1 v.2, false, false⟩) (learnMac s n h v.1)

/-- ETH_FRAME_RX: a frame received on a port, its bytes without FCS (R385, R387 to R390, R394, R395). What the engine port takes of it are rows of their own. -/
def execEthFrameRx (n : Nat) (frame : List Byte) (fcsOk : Bool) (s : State) : Host.Outcome State Fault Refusal :=
  let len := frame.length + 4
  next (
    if 5 < n ∨ s.dev.mode = .boot ∨ !(port s n).up ∨ (4 ≤ n ∧ isDying s) then s
    else if len < 64 ∨ (if pairMode s n = 0 then 1522 else 1528) < len then bump s (R.belPRxLen n)
    else if !fcsOk then badFcs s n frame
    else
      let s1 := modPort (bump s (R.belPRxOk n)) n (fun p => { p with lastRx := s.dev.ticks, got := true })
      switchFrame (lanCheck s1 (n / 2)) n frame)

/-- MAC_AGE_OUT: learned addresses not seen for age_s seconds are forgotten (R389). -/
def execMacAgeOut (s : State) : Host.Outcome State Fault Refusal :=
  next { s with bel := { s.bel with uni := s.bel.uni.filter (fun e => !elapsed s e.since (fld s R.belSwCfg 31 16 * secT)) } }

/-! ### Belfry frames received (R362, R402, R465) -/

/-- The instant of an ATT in bytes. -/
def attInst (bs : List Byte) (o : Nat) : Inst := (field bs o 8 * 10 ^ 9 + field bs (o + 8) 4) * 65536 + field bs (o + 12) 2

/-- A cross-trigger of Cupola (R362): each recorded bay that accepts its group fires its XTRIG entries at its first evaluation instant after arrival. -/
def takeXtrig (s : State) (unit num group : Nat) (test : Bool) (t0 : Inst) : State :=
  let mate := match pairRec s with | some r => decide (field r 8 4 % 2 ^ 20 = unit) | none => false
  let live := decide (s.dev.mode = .service) || decide (s.dev.mode = .vigil)
  if !flag s R.cupCtl 3 then s
  else if decide (unit = s.otp.unitId % 2 ^ 20) || mate || decide (t0 + 100 * msI < now s) || decide (now s + msI < t0) || (test && live) then bump s R.cupXtrigIgn
  else
    let put (p : Nat × CupBay) : Nat × CupBay :=
      let b := p.2
      let is := (List.range 16).filter (fun i => decide (trigTy b.recd i = 6) && bitOf (field (trigRec b.recd i) 4 2) group)
      (p.1, { b with xtrigs := b.xtrigs ++ is.map (fun i => (now s, ⟨i, rdivN t0 65536, unit, num, none⟩)) })
    bump { s with cup := { s.cup with bays := s.cup.bays.map put } } R.cupXtrigRx

/-- Whether a payload is a Belfry payload with a valid CRC (R397, R402). -/
def belCrcOk (p : List Byte) : Bool := decide (48 ≤ p.length) && decide (crc32 (slice p 0 44) = field p 44 4)

/-- BELFRY_FRAME_RX: a frame with the Belfry EtherType reaches the engine port (R402). A frame with a wrong CRC brings nothing. -/
def execBelfryFrameRx (payload : List Byte) (s : State) : Host.Outcome State Fault Refusal :=
  let p := payload
  let unit := field p 8 4 % 2 ^ 20
  let mate := decide (field p 4 4 = regGet s R.belPairId) && decide (unit ≠ s.otp.unitId % 2 ^ 20)
  let sound := decide (field p 0 1 = 1) && decide (field p 2 2 = 48)
  next (
    if s.dev.mode = .boot ∨ !belCrcOk p then s
    else if sound ∧ field p 1 1 = 2 ∧ mate then takeBeacon (bump s R.belBcnRx) unit (field p 12 1) (field p 13 1) (field p 14 2) (attInst p 20)
    else if sound ∧ field p 1 1 = 4 ∧ mate then let s1 := bump s R.belBcnRx; if paired s1 then detectTakeover s1 3 else s1
    else if sound ∧ field p 1 1 = 3 then takeXtrig s unit (field p 16 4) (field p 14 1) (bitOf (field p 15 1) 0) (attInst p 20)
    else bump s R.belRxIgn)

/-! ### GOOSE subscription (R409 to R412) -/

/-- A subscription's state changed. -/
def setSub (s : State) (n : Nat) (u : GoSub) : State := { s with bel := { s.bel with subs := tset s.bel.subs n u } }

/-- A saturating count. -/
def satInc (n : Nat) : Nat := capN (2 ^ 32 - 1) (n + 1)

/-- A subscription becomes LOST: counted, with GOOSE_LOST (R411). -/
def subLost (s : State) (n : Nat) : State :=
  let u := goSub s n
  if u.valid && !u.validAt (nowQ s) then raise 0x0B05 (setSub s n { u with valid := false, tal := satInc u.tal }) (idx := n) else s

/-- GOOSE_TAL_EXPIRY (R411). -/
def execGooseTalExpiry (n : Nat) (s : State) : Host.Outcome State Fault Refusal := next (if s.dev.mode = .boot then s else subLost s n)

/-- Whether a frame matches a subscription record (R409). -/
def subMatch (r : List Byte) (f : GooseFrame) : Bool :=
  let src := fieldBE r 10 6
  decide (f.dst = fieldBE r 4 6) && decide (f.appid = field r 16 2) && decide (f.gocbRef = slice r 32 (field r 24 1)) && (decide (src = 0) || decide (src = f.src))
    && (!bitOf (field r 19 1) 0 || decide (f.goId = some (slice r 96 (field r 25 1)))) && bitOf (field r 18 1) f.port

/-- Whether a matching frame is rejected for another reason than its confRev (R409). -/
def subRejects (s : State) (r : List Byte) (f : GooseFrame) : Bool :=
  decide (f.entries ≠ field r 26 1) || f.ndsCom || !f.wellFormed || decide (f.vals.length ≠ f.entries)
    || ((f.test || f.sim) && (decide (s.dev.mode = .service) || decide (s.dev.mode = .vigil)))

/-- The last values of good quality, by map entry, kept of frames that leave the list (R412). -/
def keepHeld (r : List Byte) (held : Tab Bool) (f : GoFrame) : Tab Bool :=
  (List.range 32).foldl (fun t j =>
    let m := slice r (160 + 8 * j) 8
    if field m 0 1 ≠ 0xFF ∧ mapGood m f then tset t j (mapValue m f) else t) held

/-- A frame accepted: the last 8 are kept, and a LOST subscription is valid again (R410, R411). -/
def subAccept (s : State) (n : Nat) (r : List Byte) (f : GooseFrame) : State :=
  let u := goSub s n
  let all := (⟨f.st, f.sq, nowQ s, f.tal, f.vals⟩ : GoFrame) :: u.frames
  let u1 := { u with frames := all.take 8, accept := satInc u.accept, held := (all.drop 8).reverse.foldl (keepHeld r) u.held }
  if !u.valid && u1.validAt (nowQ s) then raise 0x0B06 (setSub s n { u1 with valid := true }) (idx := n) else setSub s n u1

/-- A matching frame handled: rejected, accepted, a duplicate or stale (R409, R410). -/
def subFrame (s : State) (r : List Byte) (f : GooseFrame) : State :=
  let n := field r 2 2
  let s0 := subLost s n
  let u := goSub s0 n
  if f.confRev ≠ field r 20 4 then
    let s1 := setSub s0 n { u with rej := satInc u.rej }
    if (match u.confEvt with | some t => elapsed s t secT | none => true) then
      raise 0x0B07 (setSub s1 n { goSub s1 n with confEvt := some s.dev.ticks }) (idx := n)
    else s1
  else if subRejects s0 r f then setSub s0 n { u with rej := satInc u.rej }
  else
    match u.frames with
    | [] => subAccept s0 n r f
    | l :: _ =>
      let d := (f.st + 2 ^ 32 - l.st % 2 ^ 32) % 2 ^ 32
      if !u.valid || (decide (1 ≤ d) && decide (d < 2 ^ 31)) || (decide (d = 0) && decide (l.sq < f.sq)) then subAccept s0 n r f
      else if d = 0 then setSub s0 n { u with dup := satInc u.dup }
      else setSub s0 n { u with stale := satInc u.stale }

/-- GOOSE_FRAME_RX: a GOOSE frame reaches the subscriber; on a redundant pair it first passes the duplicate-discard table (R393, R409 to R411). -/
def execGooseFrameRx (f : GooseFrame) (s : State) : Host.Outcome State Fault Refusal :=
  if s.dev.mode = .boot ∨ 5 < f.port then next s
  else
    let (s1, dup) := match f.red with
      | some q => if pairMode s f.port = 0 then (s, false) else ddLookup s (decide (2 ≤ f.port)) f.src q
      | none => (s, false)
    next (if dup || !flag s R.belCtl 1 then s1 else ((subRecs s1).filter (fun r => subMatch r f)).foldl (fun st r => subFrame st r f) s1)

/-! ### What goes out by itself (R393, R400, R407) -/

/-- The part sends by itself: it runs, outside BOOT and before the dying sequence holds its outputs (R26, R544). -/
def sends (s : State) : Bool :=
  decide (s.dev.mode ≠ .boot) && partRuns s && (match s.pwr.dying with | some d => decide (d.phase = .hold) | none => true)

/-- BEACON_SEND: one beacon at each whole millisecond of TAI (R400). -/
def execBeaconSend (s : State) : Host.Outcome State Fault Refusal :=
  let k := now s / msI
  next (if sends s && decide (k ≠ s.bel.bcnAt) then sendBeacon { s with bel := { s.bel with bcnAt := k } } else s)

/-- GOOSE_RETRANSMIT: the retransmission of a block of a stopped bay, at the scheduled instant on the bay's grid plus 2 µs (R407), and after a takeover its state change at the first instant of ownership (R466). Those of a running bay go with its decisions. -/
def execGooseRetransmit (n : Nat) (s : State) : Host.Outcome State Fault Refusal :=
  match (pubRecs s).find? (fun r => field r 2 2 = n) with
  | none => next s
  | some r =>
    match bay? s (field r 4 2) with
    | none => next s
    | some b =>
      let p := goPub s n
      let due := firstGrid b.rate (p.tc + p.sum * msI)
      next (if sends s && flag s R.belCtl 0 && !b.runs && !p.full.isEmpty && decide (due + 2 * usI ≤ now s) then
          (if p.first then stateChange s r b.ctx.pub b.ctx.bins (attAt s due) false else retransmit s r p.test due)
        else s)

/-- The payload of a PRP supervision frame: version 1, sequence number, the part's MAC as a duplicate-discard node (R393). -/
def prpSupervision (s : State) (seq : Nat) : List Byte := beBytes 2 1 ++ beBytes 2 seq ++ beBytes 1 20 ++ beBytes 1 6 ++ beBytes 6 (unitMac s) ++ beBytes 2 0

/-- PRP_SUPERVISION_SEND: every 2 s on each pair in PRP mode (R393). -/
def execPrpSupervisionSend (s : State) : Host.Outcome State Fault Refusal :=
  let pairs := [0, 1].filter (fun p => decide (pairMode s (2 * p) = 1))
  if sends s && !pairs.isEmpty && elapsed s s.bel.supAt (2 * secT) then
    let q := s.bel.supSeq
    let s1 := { s with bel := { s.bel with supAt := s.dev.ticks, supSeq := (q + 1) % 65536 } }
    next (pairs.foldl (fun st p =>
      sendOwn st { ports := 3 * 4 ^ p, bell := false, belfry := false, rep := false, pairMac := false, pcp := 0, tci := none, dst := 0x01154E000100, etype := 0x88FB,
                   payload := prpSupervision st q }) s1)
  else next s

/-! ### BEL_TEST_PUBLISH (R499) -/

/-- The parameter bytes of BEL_TEST_PUBLISH. -/
def usedBelTestPublish : List (Nat × Nat) := [(0, 2), (8, 8)]

/-- The owning rule of BEL_TEST_PUBLISH (R499). -/
def belTestPublishOwn (e : CmdEntry) (_cid : Nat) (s : State) : CmdOut :=
  let n := field e.params 0 2
  let w := Nat.lor (field e.params 8 8) (2 ^ 49)
  if s.dev.mode ≠ .commission ∧ s.dev.mode ≠ .test then .rej s stBadMode
  else
    match (pubRecs s).find? (fun r => field r 2 2 = n) with
    | none => .rej s stBadParam
    | some r =>
      let bins := match bay? s (field r 4 2) with | some b => b.ctx.bins | none => 0
      .ok (stateChange s r w bins (attNow s) false) (attNow s)

/-- BEL_TEST_PUBLISH (R499). -/
def execBelTestPublish (e : CmdEntry) (s : State) : Host.Outcome State Fault Refusal := next (submit 0x90 usedBelTestPublish belTestPublishOwn e s)

end Sys2Proof.Machine
end

