-- ==== Sys2Proof/Machine/LksRows.lean ====
section
/-! DEFINITION. Split, join, debug attach and resynchronisation (R432, R433, R439 to R444). -/

namespace Sys2Proof.Machine

/-- The positions that make the form of a group, those that are being resynchronised among them. -/
def memberMask (s : State) (g : Nat) : Nat :=
  match (hostOf s g).bind (bay? s) with
  | some b =>
    let x := grp s g
    maskOf 3 (fun p => (bitOf (formMask b.form) p || bitOf x.extra p) && !bitOf x.lost p && !bitOf x.fixed p && !posFailed s g p)
  | none => 0

/-- Whether a group has something pending that a split or a join waits for (R439). -/
def formBusy (s : State) (g : Nat) : Bool :=
  resyncPend s g || (grp s g).form.isSome || (match hostOf s g with | some n => (migOf? s n).isSome | none => false)

/-- A split or join accepted: it waits for the first task boundary at least 100 µs from now. -/
def putForm (s : State) (g : Nat) (join : Bool) (p : Nat) (obs : Bool) (cid : Nat) : CmdOut :=
  .later (modGrp s g (fun x => { x with form := some ⟨join, p, obs, now s + 100 * usI, cid⟩ }))

/-- The parameter bytes of CELL_SPLIT. -/
def usedCellSplit : List (Nat × Nat) := [(0, 4)]

/-- The owning rule of CELL_SPLIT (R439). -/
def cellSplitOwn (e : CmdEntry) (cid : Nat) (s : State) : CmdOut :=
  let g := field e.params 0 2
  let fl := field e.params 3 1
  let ms := setBits 3 (memberMask s g)
  let p := if field e.params 2 1 = 0xFF then ms.getLastD 0 else field e.params 2 1
  if s.dev.mode = .boot ∨ s.dev.mode = .safe ∨ (isSealed s ∧ g < nGroups s ∧ ms.length = 2) then .rej s stBadMode
  else if 1 < fl ∨ nGroups s ≤ g ∨ (hostOf s g).isNone ∨ ms.length ≤ 1 ∨ !ms.contains p then .rej s stBadParam
  else if formBusy s g then .rej s stBusy
  else putForm s g false p (bitOf fl 0) cid

/-- CELL_SPLIT (R439). -/
def execCellSplit (e : CmdEntry) (s : State) : Host.Outcome State Fault Refusal := next (submit 0x50 usedCellSplit cellSplitOwn e s)

/-- The parameter bytes of CELL_JOIN. -/
def usedCellJoin : List (Nat × Nat) := [(0, 3)]

/-- The owning rule of CELL_JOIN (R439): a position that is no copy, is not out for a structural fault, is not attached for debug and has a working cell. -/
def cellJoinOwn (e : CmdEntry) (cid : Nat) (s : State) : CmdOut :=
  let g := field e.params 0 2
  let p := field e.params 2 1
  let x := grp s g
  let may := !bitOf (memberMask s g) p && !bitOf x.fixed p && decide (x.dbg ≠ some p) && !posFailed s g p
  if s.dev.mode = .boot ∨ s.dev.mode = .safe then .rej s stBadMode
  else if nGroups s ≤ g ∨ (hostOf s g).isNone ∨ 2 < p ∨ !may then .rej s stBadParam
  else if formBusy s g then .rej s stBusy
  else putForm s g true p false cid

/-- CELL_JOIN (R439). -/
def execCellJoin (e : CmdEntry) (s : State) : Host.Outcome State Fault Refusal := next (submit 0x51 usedCellJoin cellJoinOwn e s)

/-- CELL_FORM_CHANGE (R439, R440): the task boundary of a split or join; `ok` is the check sequence of a join. -/
def execCellFormChange (grp : Nat) (ok : Bool) (s : State) : Host.Outcome State Fault Refusal := next (formChange s grp ok)

/-- RESYNC_CHECK_DONE (R432, R433): the check sequence of a position ends; the cell rejoins, or the resynchronisation has failed. -/
def execResyncCheckDone (group pos : Nat) (ok : Bool) (s : State) : Host.Outcome State Fault Refusal :=
  if decide (pos < 3) && bitOf (grp s group).resync pos && partRuns s then
    let hosted := (hostOf s group).isSome
    let s1 := if ok then
        modGrp s group (fun x => { x with resync := maskOf 3 (fun i => bitOf x.resync i && decide (i ≠ pos)), fresh := if hosted then Nat.lor x.fresh (2 ^ pos) else x.fresh })
      else resyncFail s group pos (nextInstant s group)
    next (cfgKick (showLks s1))
  else next s

/-! ### Debug attach (R442, R443) -/

/-- Whether a host write of LKS_DBG_CTL is accepted: in TEST under a grant with scope bit 0 (R442). -/
def dbgMay (s : State) : Bool := decide (s.dev.mode = .test) && (match s.sec.grant with | some g => bitOf g.scope 0 | none => false)

/-- LKS_DBG_CTL.attach written: one cell at a time (R442). -/
def dbgAttach (s : State) (cell : Nat) : State :=
  if cell < nCells s ∧ dbgMay s ∧ s.cfg.dbgCell.isNone ∧ s.cfg.dbgReq.isNone then
    showDbg { fldSet s R.lksDbgCtl 8 0 cell with cfg := { s.cfg with dbgReq := some (true, cell) } }
  else flagSet s R.lksStat 0 true

/-- LKS_DBG_ATTACH (R442). -/
def execLksDbgAttach (cell : Nat) (s : State) : Host.Outcome State Fault Refusal := next (if hostReach s then dbgAttach s cell else s)

/-- LKS_DBG_CTL.detach written (R442, R443): an attached cell is to rejoin, an attach that still waits is dropped. -/
def dbgDetach (s : State) : State :=
  if !dbgMay s then flagSet s R.lksStat 0 true else showDbg { s with cfg := { s.cfg with dbgReq := s.cfg.dbgCell.map (fun c => (false, c)) } }

/-- LKS_DBG_DETACH (R443). -/
def execLksDbgDetach (s : State) : Host.Outcome State Fault Refusal := next (if hostReach s then dbgDetach s else s)

/-- DEBUG_ATTACH_EFFECT (R442, R443): the task boundary of the cell's group; `ok` is the check sequence of a cell that rejoins. -/
def execDebugAttachEffect (ok : Bool) (s : State) : Host.Outcome State Fault Refusal := next (dbgEffect s ok)

end Sys2Proof.Machine
end

