-- ==== Sys2Proof/Machine/CfgRows.lean ====
section
/-! DEFINITION. Migration, rotation, self-tests, cluster memory and the bridges (R18, R183 to R186, R194 to R199, R215, R555). -/

namespace Sys2Proof.Machine

/-! ### Migration (R194 to R196) -/

/-- The parameter bytes of CELL_MIGRATE. -/
def usedCellMigrate : List (Nat × Nat) := [(0, 4)]

/-- The owning rule of CELL_MIGRATE (R196). -/
def cellMigrateOwn (e : CmdEntry) (cid : Nat) (s : State) : CmdOut :=
  let n := field e.params 0 2
  let d := field e.params 2 2
  if s.dev.mode = .boot then .rej s stBadMode
  else if nBays s ≤ n ∨ (bay? s n).isNone ∨ (d ≠ 0xFFFF ∧ !isSpare s d) then .rej s stBadParam
  else if (spares s).isEmpty then .rej s stNoResource
  else if (migOf? s n).isSome then .rej s stBusy
  else .later (cfgKick (askMig s ⟨n, .command, if d = 0xFFFF then none else some d, .waiting, some cid, 0, false⟩))

/-- CELL_MIGRATE (R196). -/
def execCellMigrate (e : CmdEntry) (s : State) : Host.Outcome State Fault Refusal := next (submit 0x52 usedCellMigrate cellMigrateOwn e s)

/-- MIGRATION_PRECOPY_DONE (R194): the groups are copied, which takes some time from its last beginning; a running bay then waits for its next commit, a stopped one has its boundary at once. A destination lost meanwhile is chosen anew. -/
def execMigrationPrecopyDone (s : State) : Host.Outcome State Fault Refusal :=
  match migRun? s with
  | some m =>
    let src := ((bay? s m.bay).map Bay.grp).getD 0xFF
    let stopped : Bool := match bay? s m.bay with | some b => !b.runs | none => false
    if m.step = .precopy ∧ s.cfg.preAt < s.dev.ticks then
      if (m.dst.map (fun d => isSpare s d)).getD false then
        let s1 := showMig (modMig s m.bay (fun x => { x with step := .boundary })) m src 2
        next (if stopped then takeBoundary s1 m.bay else s1)
      else
        next (cfgKick (showBay (showMig (modMig s m.bay (fun x => { x with step := .waiting, dst := if m.cause = .command then m.dst else none })) m src 0) m.bay))
    else if m.step = .boundary then next (if stopped then takeBoundary s m.bay else s)
    else next s
  | none => next s

/-- MIGRATION_REDIRECT (R194 steps 3 and 4). -/
def execMigrationRedirect (s : State) : Host.Outcome State Fault Refusal :=
  match migRun? s with
  | some m => next (match bay? s m.bay with | some b => if m.step = .copy then cfgKick (redirect s m b) else s | none => s)
  | none => next s

/-! ### Rotation and logic self-tests (R197 to R199, R437) -/

/-- ROTATION_STEP_DUE (R197): the interval has run out since the last due time. -/
def execRotationStepDue (s : State) : Host.Outcome State Fault Refusal :=
  let period := 3600 * fld s R.cfgRotCfg 15 0 * secT / nGroups s
  next (if flag s R.cfgCtl 0 ∧ s.dev.mode ≠ .boot ∧ elapsed s s.cfg.rotDue period ∧ !isDying s then
      cfgKick { s with cfg := { s.cfg with rotDue := s.cfg.rotDue + period, rotReg := true } }
    else s)

/-- ROT_NOW (R197): CFG_CTL.rot_now written. -/
def execRotNow (s : State) : Host.Outcome State Fault Refusal := next (if hostReach s ∧ s.dev.mode ≠ .boot then rotNowAct s else s)

/-- LOGIC_SELFTEST_DONE (R198, R199, R437): the test of a group ends with its failed positions, and whether its comparators and delay paths passed. -/
def execLogicSelftestDone (group failMask : Nat) (pathsOk : Bool) (s : State) : Host.Outcome State Fault Refusal :=
  if underTest s group || ((grp s group).faultTest && (hostOf s group).isNone) then
    let mine : Bool := underTest s group && (match s.cfg.rot with | some r => decide (r.origin = .now) | none => false)
    let s1 := match s.pwr.selftest with
      | some t => if mine ∧ t.kind = 0 then selfFinish s (setBits 3 failMask).length else s
      | none => s
    next (testDone s1 group failMask pathsOk)
  else next s

/-! ### SELFTEST (R555) -/

/-- The parameter bytes of SELFTEST. -/
def usedSelftest : List (Nat × Nat) := [(0, 1), (2, 2)]

/-- Whether a target lies in the range of its kind: a SAR, a group or a cluster, or 0xFFFF for all. -/
def targetOk (s : State) (kind t : Nat) : Bool :=
  decide (t = 0xFFFF) ||
    (match kind with
    | 1 => decide (t ≤ 32)
    | 2 => decide (t < nGroups s)
    | 4 => decide (t < nClusters s)
    | _ => true)

/-- The injection tests of a sweep: 64 for each copy of each group named that has copies to compare. -/
def sweepLeft (s : State) (t : Nat) : Tab Nat :=
  (List.range (nGroups s)).filterMap (fun g =>
    let k := (copiesOf s g).length
    if (t = 0xFFFF ∨ t = g) ∧ 2 ≤ k then some (g, 64 * k) else none)

/-- A SELFTEST begun. -/
def selfBegin (s : State) (kind target cid : Nat) : State :=
  let s1 := { s with pwr := { s.pwr with selftest := some ⟨kind, target, cid, if kind = 2 then sweepLeft s target else [], 0⟩ } }
  let cal (k mask : Nat) : State := flagSet { s1 with afe := { s1.afe with cal := some ⟨k, mask, none⟩ } } R.afeStat 7 true
  match kind with
  | 0 => rotNowAct s1
  | 1 =>
    let mask := if target = 0xFFFF then 2 ^ 33 - 1 else 2 ^ target
    setSpare (cal 0 mask) (fun p => { p with queued := setBits 33 mask })
  | 2 => sweepEnd s1
  | 7 => cal 2 15
  | _ => s1

/-- The owning rule of SELFTEST (R555); kinds 1 and 7 meet what AFE_CAL meets (R100). -/
def selftestOwn (e : CmdEntry) (cid : Nat) (s : State) : CmdOut :=
  let kind := field e.params 0 1
  let target := field e.params 2 2
  let cals := decide (kind = 1) || decide (kind = 7)
  if s.dev.mode = .boot ∨ (4 ≤ kind ∧ kind ≤ 7 ∧ s.dev.mode ≠ .test) then .rej s stBadMode
  else if 7 < kind ∨ !targetOk s kind target then .rej s stBadParam
  else if (kind = 0 ∧ (spares s).isEmpty) ∨ (kind = 1 ∧ flag s R.afeStat 12) then .rej s stNoResource
  else if s.pwr.selftest.isSome ∨ (cals ∧ s.afe.cal.isSome) then .rej s stBusy
  else .later (selfBegin s kind target cid)

/-- SELFTEST (R555). -/
def execSelftest (e : CmdEntry) (s : State) : Host.Outcome State Fault Refusal := next (submit 0x53 usedSelftest selftestOwn e s)

/-- Free bytes: what a memory test leaves (R555). -/
def freeBytes (k o n : Nat) : List Byte := (List.range n).map (fun i => Config.randomByte k (o + i))

/-- A free number of `n` bytes. -/
def freeNum (k o n : Nat) : Nat := leVal (freeBytes k o n)

/-- The region of a bay after a memory test of its cluster: context, settings groups and slot hold free values. -/
def scrambled (k : Nat) (b : Bay) : Bay :=
  let c := b.ctx
  let tab (o n w : Nat) : Tab Nat := (List.range n).map (fun i => (i, freeNum k (o + w * i) w))
  let ints (o : Nat) : List Int := (List.range 8).map (fun i => toSigned 32 (freeNum k (o + 4 * i) 4))
  let nats (o w : Nat) : List Nat := (List.range 8).map (fun i => freeNum k (o + w * i) w)
  let cst : BayConst :=
    { hz60 := bitOf (freeNum k 8 1) 0, acb := bitOf (freeNum k 9 1) 0, m := freeNum k 10 1, inom := freeNum k 12 4, vnom := freeNum k 16 4,
      mloc := ints 0x40, msv := ints 0x60, sloc := nats 0x80 1, ssv := nats 0x88 1, fs := nats 0x90 4 }
  let ctx : Ctx :=
    { c with run := freeNum k 4 1 % 4, sg := freeNum k 5 1 % 8, const := cst, count := freeNum k 44 4, word := freeNum k 0x140 8, pub := freeNum k 0x148 8,
             vars := freeNum k 0x150 32, bins := freeNum k 0x170 2, integ := tab 0x380 64 4, logic := tab 0x480 256 4, theta := tab 0x880 64 4,
             comps := (List.range 64).map (fun i => (i, ⟨freeNum k (0x180 + 8 * i) 4, freeNum k (0x184 + 8 * i) 1, bitOf (freeNum k (0x185 + 8 * i) 1) 0,
               bitOf (freeNum k (0x186 + 8 * i) 1) 0, freeNum k (0x187 + 8 * i) 1⟩)),
             rc := { c.rc with shots := freeNum k 0x981 1, slot := freeNum k 0x982 1, tmr := ⟨freeNum k 0x988 8, freeNum k 0x984 4⟩ },
             meas := { c.meas with f := freeNum k 0x9C0 4, psi := freeNum k 0x9C8 4, rocof := freeNum k 0x9CC 4 }, hist := ⟨[], [], [], [], []⟩,
             tgt := { c.tgt with bits := freeNum k 0xBC0 8, slots := freeNum k 0xBC8 8, count := freeNum k 0xBF0 4 },
             cnt := ⟨freeNum k 0xC40 4, freeNum k 0xC44 4, freeNum k 0xC48 4, freeNum k 0xC4C 4, freeNum k 0xC50 4, freeNum k 0xC54 4⟩,
             els := (List.range 64).map (fun i => (i, ⟨freeNum k (0x1000 + 64 * i) 2, freeNum k (0x1002 + 64 * i) 1, []⟩)) }
  let word (p : Nat × SampleWord) : Nat × SampleWord :=
    (p.1, { p.2 with value := toSigned 32 (freeNum k (0xA000 + 16 * p.1) 4), q := BitVec.ofNat 16 (freeNum k (0xA004 + 16 * p.1) 2) })
  { b with ctx := ctx, groups := (List.range 8).map (fun g => (g, freeBytes k (0x2000 + 0x1000 * g) 0x1000)), slot := { b.slot with words := b.slot.words.map word } }

/-- A memory BIST overwrites the SRAM of a cluster, or of all (R555). -/
def bistCluster (s : State) (t : Nat) : State :=
  let hit (b : Bay) : Bool := decide (t = 0xFFFF) || decide (b.grp / 4 = t)
  s.bays.foldl (fun st p => if hit p.2 then bumpFree (setBay st p.1 (scrambled st.dev.free p.2)) else st) s

/-- A DRAM march test loses records, rings and statistics (R555); commands that wait for a record end. -/
def marchLoss (s : State) : State :=
  let cids := s.cup.recs.flatMap CupRec.cids ++ s.cup.bays.flatMap (fun p => p.2.queue.flatMap (fun d => d.fires.filterMap Fire.cid))
  let s1 := cids.foldl (fun st c => complete st c stAborted Att.zero) s
  let blank (b : CupBay) : CupBay :=
    { b with ring := [], wr := 0, held := 0xFFFF, queue := [], ev := [], harm := [], pm := [], clrAtt := attNow s, lastAtt := Att.zero, sag := none, swell := none }
  let s2 := { s1 with cup := { s1.cup with recs := [], flash := [], hr := [], bays := s1.cup.bays.map (fun (p : Nat × CupBay) => (p.1, blank p.2)) },
                      prep := { s1.prep with ir := [] }, hif := { s1.hif with dram := [] } }
  s2.cup.bays.foldl (fun (st : State) (p : Nat × CupBay) => cupBayStat st p.1) (cupStat s2)

/-- Whether the action of a SELFTEST of kind 0, 1, 2 or 7 has ended. -/
def selfEnded (s : State) (t : SelfTest) : Bool :=
  match t.kind with
  | 0 => !s.cfg.rotNow && (match s.cfg.rot with | some r => decide (r.origin ≠ .now) | none => true)
  | 2 => t.left.all (fun p => decide (p.2 = 0) || decide ((copiesOf s p.1).length < 2))
  | _ => s.afe.cal.isNone

/-- SELFTEST_DONE (R555): kinds 3 to 6 end with the faults found, kind 5 with the cells that failed; a test of another kind ends when its action has ended without a result. -/
def execSelftestDone (faults : Nat) (cells : List Nat) (s : State) : Host.Outcome State Fault Refusal :=
  match s.pwr.selftest with
  | none => next s
  | some t =>
    match t.kind with
    | 3 => next (selfFinish s faults)
    | 4 => next (selfFinish (bistCluster s t.target) faults)
    | 5 =>
      let bad := cells.filter (fun c => decide (c < nCells s))
      next (selfFinish (cfgKick (showSpares (bad.foldl failCell s))) bad.length)
    | 6 => next (selfFinish (marchLoss s) faults)
    | _ => next (if selfEnded s t then selfFinish s 0 else s)

/-! ### Cluster memory (R183 to R186, R215) -/

/-- SCRUB_CORRECTED (R183); the scrubber is gated off while the part dies (R544). -/
def execScrubCorrected (cluster bank : Nat) (s : State) : Host.Outcome State Fault Refusal :=
  next (if cluster < nClusters s ∧ bank < 20 ∧ s.dev.mode ≠ .boot ∧ !isDying s then correctedError s cluster bank else s)

/-- ECC_HOUR_END (R184): the counts begin anew, and an hour within the threshold clears the condition. -/
def execEccHourEnd (s : State) : Host.Outcome State Fault Refusal :=
  let s1 := { s with cfg := { s.cfg with clus := s.cfg.clus.map (fun p => (p.1, { p.2 with ce := [] })), ceOver := false } }
  let s2 := (s.cfg.clus.map Prod.fst).foldl showClu s1
  next (if s.cfg.ceOver then s2 else if flag s2 R.cfgStat 22 then setCause (flagSet s2 R.cfgStat 22 false) 3 false else s2)

/-- The elements of a bay that keep a thermal memory in one of two slots, at their alarm level (R185, R264). -/
def thermalAlarm (b : Bay) (c : Ctx) (s0 : Nat) : Ctx :=
  (b.els.filter (fun r => decide (erType r = 0x0B) && (decide (erSlot r = s0) || decide (erSlot r = s0 + 1)))).foldl (fun x r =>
    match sgBlock (b.setOf c.sg) (erSlot r) with
    | some blk => { x with theta := tset x.theta (erSlot r) (frat b32 (field blk 16 1 : Nat) 100) }
    | none => x) c

/-- The constants of a bay as the stored image holds them. -/
def imageConst (s : State) (b : Bay) : BayConst :=
  match s.scheme.bind (fun x => x.settings? (field b.recd 0 2) (brInit b.recd)) with
  | some r => constOf r
  | none => b.ctx.const

/-- A 64-bit word of a settings group restored from the stored image (R185). -/
def restoreWord (s : State) (b : Bay) (o : Nat) : Bay :=
  let g := (o - 0x2000) / 0x1000
  let i := o % 0x1000 / 8 * 8
  match s.scheme.bind (fun x => x.settings? (field b.recd 0 2) g), tget? b.groups g with
  | some r, some l => { b with groups := tset b.groups g (l.take i ++ slice r i 8 ++ l.drop (i + 8)) }
  | _, _ => b

/-- The repair of a 64-bit word at an offset of a bay's context (R185, R288): the context, and the action: 1 restored, 2 returned to its BAY_START state, 3 thermal alarm, 4 lockout, 0 none. -/
def repairCtx (s : State) (b : Bay) (o : Nat) : Ctx × Nat :=
  let c := b.ctx
  let at_ := b.slot.next
  if o < 0x140 then ({ c with const := imageConst s b }, 1)
  else if o < 0x148 then ({ c with word := 0 }, 2)
  else if o < 0x150 then ({ c with pub := 0 }, 2)
  else if o < 0x170 then ({ c with vars := 0 }, 2)
  else if o < 0x178 then ({ c with bins := 0 }, 2)
  else if o < 0x180 then (c, 0)
  else if o < 0x380 then ({ c with comps := tmod ⟨0, 95, false, false, 0⟩ c.comps ((o - 0x180) / 8) (fun x => { x with p := false }) }, 2)
  else if o < 0x480 then ({ c with integ := terase (terase c.integ ((o - 0x380) / 8 * 2)) ((o - 0x380) / 8 * 2 + 1) }, 2)
  else if o < 0x880 then ({ c with logic := [] }, 2)
  else if o < 0x980 then (thermalAlarm b c ((o - 0x880) / 8 * 2), 3)
  else if o < 0x9C0 then ({ c with rc := { c.rc with st := .lockout, tmr := at_ } }.freshLockout, 4)
  else if o < 0xBC0 then ({ c with meas := Meas1.start c.const.hz60 }, 2)
  else if o < 0xC40 then ({ c with tgt := ⟨0, 0, Att.zero, Att.zero, 0⟩ }, 2)
  else if o < 0xCC0 then ({ c with cnt := ⟨0, 0, 0, 0, 0, 0⟩ }, 2)
  else if o < 0xD00 then (c, 1)
  else if o < 0x1000 then (c, 0)
  else
    match b.els.find? (fun r => decide (erSlot r = (o - 0x1000) / 64)) with
    | some r => (startEl c (binLevels s b.rate at_) (giAt s (at_.q b.rate)) at_ (b.setOf c.sg) r, 2)
    | none => (c, 0)

/-- The repair of a word of a bay region (R185); of a history that the re-run of a task meets every entry becomes unusable and every phasor restarts (R215). Action 5 is a slot word treated as VALID clear. -/
def repairBay (s : State) (b : Bay) (o : Nat) (met : Bool) : Bay × Nat :=
  if o < 0x2000 then let r := repairCtx s b o; ({ b with ctx := r.1 }, r.2)
  else if o < 0xA000 then (restoreWord s b o, 1)
  else if o < 0xB000 then
    let i := (o - 0xA000) / 16
    match tget? b.slot.words i with
    | some w => ({ b with slot := { b.slot with words := tset b.slot.words i { w with q := BitVec.ofNat 16 (qClear w.q.toNat qVALID) } } }, 5)
    | none => (b, 5)
  else if met ∧ o < 0xF000 then
    let c := b.ctx
    let k := match c.last with | some e => e.sub b.rate c.start + 1 | none => 0
    ({ b with ctx := { c with hist := { c.hist with x := [], c := [], r := [] }, meas := { c.meas with run := [], bad := List.replicate 8 k } } }, 0)
  else (b, 0)

/-- A task that met the error runs again once after the repair (R185, R444). -/
def rerunTask (s : State) (n : Nat) : State :=
  match tget? s.cfg.tasks n, bay? s n with
  | some _, some b =>
    match b.slot.queue.head? with
    | some z => { s with cfg := { s.cfg with tasks := tset s.cfg.tasks n (makeTask s n b z true) } }
    | none => s
  | _, _ => s

/-- ECC_UNCORRECTABLE (R185, R186, R215): found by the task of a bay (`met`) or by the scrubber. -/
def execEccUncorrectable (cluster offset : Nat) (met : Option Nat) (s : State) : Host.Outcome State Fault Refusal :=
  if nClusters s ≤ cluster ∨ 0xA0000 ≤ offset ∨ s.dev.mode = .boot ∨ (met.isNone ∧ isDying s) then next s
  else
    let host := if offset < 0x40000 then hostOf s (4 * cluster + offset / 0x10000) else none
    let (s1, act) := match host, host.bind (bay? s) with
      | some n, some b => let r := repairBay s b (offset % 0x10000) (decide (met = some n)); (setBay s n r.1, r.2)
      | _, _ => (s, if 0x40000 ≤ offset ∧ (offset < 0x60000 ∨ 0x80000 ≤ offset) then 1 else 0)
    let s2 := raise 0x0706 (bump s1 R.cfgEccUe) (idx := cluster) (items := [(4, offset), (1, act)])
    let s3 := match met with | some n => rerunTask s2 n | none => s2
    next (countUe s3 cluster)

/-! ### Bridges (R18) -/

/-- The quality of a sample that a bridge lost: VALID clear, with the source of its channel (R14, R15, R18). -/
def lostQ (s : State) (n c : Nat) : Half :=
  match bay? s n with
  | some b => BitVec.ofNat 16 (if b.slot.src.getD c 0 = 2 then qSOURCESV else qSOURCELOCAL + qIf s.mir.inUse qMIRRORED)
  | none => 0

/-- BRIDGE_UNCORRECTABLE (R18): the word is discarded; one that held a sample leaves its slot entry with VALID clear. The crossings of the island that corrected an error since the last such row are counted with it (log entry 63). -/
def execBridgeUncorrectable (island : Nat) (sample : Crossing) (s : State) : Host.Outcome State Fault Refusal :=
  if 44 ≤ island ∨ (nClusters s ≤ island ∧ island < 36) ∨ !partRuns s then next s
  else
    let s1 := { s with dev := { s.dev with
      bridgeUe := tset s.dev.bridgeUe island (capN 65535 (tget 0 s.dev.bridgeUe island + 1)),
      bridgeCe := tset s.dev.bridgeCe island (capN 65535 (tget 0 s.dev.bridgeCe island + sample.corrected)) } }
    let s2 := raise 0x0104 s1 (items := [(1, island)])
    next (match sample.lost with
      | some (n, c, tag) => stage s2 n (c % 8) ⟨0, lostQ s2 n (c % 8), c % 8, tag⟩
      | none => s2)

end Sys2Proof.Machine
end

