-- ==== Sys2Proof/Machine/CupRows.lean ====
section
/-! DEFINITION. The commands and events of Cupola (R350 to R357, R366, R373 to R375, R379). -/

namespace Sys2Proof.Machine

/-- Whether a host address is usable: not 0 and 64-byte aligned. -/
def addrOk (a : Nat) : Bool := decide (a ≠ 0) && decide (a % 64 = 0)

/-- The owning rule of REC_FORCE (R373). -/
def recForceOwn (e : CmdEntry) (cid : Nat) (s : State) : CmdOut :=
  let n := field e.params 0 2
  if s.dev.mode = .boot then .rej s stBadMode
  else
    match bay? s n, cupBay? s n with
    | some b, some _ =>
      if b.runs ∧ n < nBays s then .later (modCup s n (fun x => { x with forced := x.forced ++ [(now s + 10 * usI, cid)] })) else .rej s stBadParam
    | _, _ => .rej s stBadParam

/-- The parameter bytes that the command lists. -/
def usedRecForce : List (Nat × Nat) := [(0, 2)]

/-- REC_FORCE (R373): index 16 waits for the bay's first instant at least 10 µs after acceptance. -/
def execRecForce (e : CmdEntry) (s : State) : Host.Outcome State Fault Refusal := next (submit 0x60 usedRecForce recForceOwn e s)

/-- The owning rule of REC_FETCH (R374). -/
def recFetchOwn (e : CmdEntry) (cid : Nat) (s : State) : CmdOut :=
  let num := field e.params 0 4
  let kind := field e.params 4 1
  let sets := field e.params 5 1
  let ring := field e.params 6 1
  let host := field e.params 8 8
  let ofs := field e.params 16 8
  let max := field e.params 24 4
  let all := decide (num = 0xFFFFFFFF) && decide (kind = 3)
  let ringOk := decide (ring = 0xFF) || decide ((tget? s.hif.rings ring).map HostRing.kind = some .record)
  if s.dev.mode = .boot then .rej s stBadMode
  else if 3 < kind ∨ !addrOk host ∨ ofs % 64 ≠ 0 ∨ max % 64 ≠ 0 ∨ max < 64 ∨ !ringOk ∨ (kind = 1 ∧ (sets = 0 ∨ 7 < sets)) then .rej s stBadParam
  else if all then .later { s with cup := { s.cup with fetches := s.cup.fetches ++ [⟨num, kind, sets, ring, host, ofs, max, cid⟩] } }
  else
    match rec? s num with
    | none => .rej s stBadParam
    | some r =>
      if r.st = .lost ∧ kind ≤ 1 then .rej s stBadParam
      else if r.st.live ∧ kind ≤ 2 then .rej s stBusy
      else .later { s with cup := { s.cup with fetches := s.cup.fetches ++ [⟨num, kind, sets, ring, host, ofs, max, cid⟩] } }

/-- The parameter bytes that the command lists. -/
def usedRecFetch : List (Nat × Nat) := [(0, 7), (8, 8), (16, 12)]

/-- REC_FETCH (R374): completes when its output is written. -/
def execRecFetch (e : CmdEntry) (s : State) : Host.Outcome State Fault Refusal :=
  next (submit 0x61 usedRecFetch recFetchOwn e s)

/-- The items a fetch announces: offset, set, file, length without header and padding, CRC-32, whole length (R506). -/
def fetchItems (s : State) (f : RecFetch) : List (Nat × Nat × Nat × Nat × Nat × Nat) :=
  if f.kind = 1 then
    match rec? s f.num with
    | none => []
    | some r => ((cmFiles s r f.sets).foldl (fun (acc : List (Nat × Nat × Nat × Nat × Nat × Nat) × Nat) x =>
        (acc.1 ++ [(acc.2, x.1, x.2.1, field x.2.2 4 4, field x.2.2 12 4, x.2.2.length)], acc.2 + x.2.2.length)) ([], 0)).1
  else
    let out := fetchOut s f.num f.kind f.sets
    [(0, 0xFF, 0, out.length, crc32 out, out.length)]

/-- A REC entry (R506). -/
def recEntry (f : RecFetch) (tag : Nat) (last : Bool) (x : Nat × Nat × Nat × Nat × Nat × Nat) : List Byte :=
  let (o, set, file, len, crc, whole) := x
  leBytes 4 f.num ++ leBytes 1 f.kind ++ leBytes 1 set ++ leBytes 1 file ++ leBytes 1 (b2n last + 2 * b2n (decide (f.ofs + f.max < o + whole))) ++ leBytes 8 o
    ++ leBytes 8 (if o < f.ofs then 0 else f.host + (o - f.ofs)) ++ leBytes 4 len ++ leBytes 4 crc ++ leBytes 2 tag ++ leBytes 29 0

/-- REC_FETCH_DONE (R374, R506): the oldest fetch writes its output, announces its items and completes; it waits while its ring has no room. -/
def recFetchDone (s : State) : State :=
  match s.cup.fetches with
  | [] => s
  | f :: fs =>
    let out := fetchOut s f.num f.kind f.sets
    let part := (out.drop f.ofs).take f.max
    let items := (fetchItems s f).filter (fun x => decide (x.1 < f.ofs + f.max) && decide (f.ofs < x.1 + x.2.2.2.2.2))
    let tag := ((s.hif.inflight.find? (fun x => x.cid = f.cid)).map InFlight.tag).getD 0
    let room := match tget? s.hif.rings f.ring with | some r => decide (r.used + r.reserved + items.length ≤ r.size) | none => true
    if !room then s
    else
      let s1 := hostWrite { s with cup := { s.cup with fetches := fs } } f.host part
      let s2 := if f.ring = 0xFF then s1
        else (enumFrom0 items).foldl (fun st (i, x) => ringPut st f.ring (recEntry f tag (decide (i + 1 = items.length)) x)) s1
      complete s2 f.cid stOk Att.zero (leBytes 8 out.length ++ leBytes 8 part.length)

/-- REC_FETCH_DONE (R374). -/
def execRecFetchDone (s : State) : Host.Outcome State Fault Refusal := next (if isDying s then s else recFetchDone s)

/-- The owning rule of REC_RELEASE (R375). -/
def recReleaseOwn (e : CmdEntry) (_cid : Nat) (s : State) : CmdOut :=
  let num := field e.params 0 4
  let busy (r : CupRec) : Bool := r.st.live || s.cup.fetches.any (fun f => f.num = r.num)
  if s.dev.mode = .boot then .rej s stBadMode
  else if num = 0xFFFFFFFF then
    let rs := s.cup.recs.filter (fun r => !r.st.live)
    if rs.any busy then .rej s stBusy else .ok (rs.foldl (fun st r => freeRec st r.num) s)
  else
    match rec? s num with
    | none => .rej s stBadParam
    | some r => if busy r then .rej s stBusy else .ok (freeRec s num)

/-- The parameter bytes that the command lists. -/
def usedRecRelease : List (Nat × Nat) := [(0, 4)]

/-- REC_RELEASE (R375). -/
def execRecRelease (e : CmdEntry) (s : State) : Host.Outcome State Fault Refusal := next (submit 0x62 usedRecRelease recReleaseOwn e s)

/-- The owning rule of HIST_SNAPSHOT (R379). -/
def histOwn (e : CmdEntry) (_cid : Nat) (s : State) : CmdOut :=
  let n := field e.params 0 2
  let mask := field e.params 2 1
  let flags := field e.params 3 1
  let host := field e.params 8 8
  if s.dev.mode = .boot then .rej s stBadMode
  else
    match cupBay? s n with
    | none => .rej s stBadParam
    | some cb =>
      if mask = 0 ∨ 7 < mask ∨ 1 < flags ∨ !addrOk host then .rej s stBadParam
      else
        let s1 := hostWrite s host (histOut n mask cb)
        let fl := field cb.recd 3 1
        let clr (i : Nat) : Bool := decide (flags = 1) && bitOf mask i && bitOf fl (2 + i)
        .ok (setCup s1 n { cb with ev := if clr 0 then [] else cb.ev, harm := if clr 1 then [] else cb.harm, pm := if clr 2 then [] else cb.pm,
                                   clrAtt := if flags = 1 then attNow s else cb.clrAtt })

/-- The parameter bytes that the command lists. -/
def usedHistSnapshot : List (Nat × Nat) := [(0, 4), (8, 8)]

/-- HIST_SNAPSHOT (R379): the copy and any clear fall between two instants of the bay. -/
def execHistSnapshot (e : CmdEntry) (s : State) : Host.Outcome State Fault Refusal := next (submit 0x63 usedHistSnapshot histOwn e s)

/-- CUP_REARM (R352, R382): a bay in SINGLE is armed again. -/
def execCupRearm (bay : Nat) (s : State) : Host.Outcome State Fault Refusal := next (cupBayStat (modCup s bay (fun b => { b with armed := true })) bay)

/-- RECORD_LINE (R341). -/
def execRecordLine (bay : Nat) (s : State) : Host.Outcome State Fault Refusal := next (recordLine s bay)

/-- RECORD_T0_REFINED (R350). -/
def execRecordT0Refined (bay : Nat) (s : State) : Host.Outcome State Fault Refusal := next (refineRec s bay)

/-- The newest instant Cupola has of a bay. -/
def newestOf (s : State) (n : Nat) : Option EvalAt := ((cupBay? s n).bind (fun b => b.ring.head?)).map PrEnt.at_

/-- Whether the newest instant of a bay lies at or after an instant. -/
def reached (s : State) (n : Nat) (e : EvalAt) : Bool := match newestOf s n with | some x => e.le x | none => false

/-- RECORD_POST_END (R355): the last post instant has been decided. -/
def execRecordPostEnd (bay : Nat) (s : State) : Host.Outcome State Fault Refusal :=
  match s.cup.recs.find? (fun r => r.bay = bay ∧ r.st = .open_ ∧ r.final = true) with
  | some r =>
    if reached s bay r.last then next (cupBayStat (cupStat (modRec s r.num (fun x => { x with st := .sealing, sealAt := some s.dev.ticks }))) bay) else next s
  | none => next s

/-- A record that becomes COMPLETE (R355, R383). -/
def completeRec (s : State) (num : Nat) : State :=
  match rec? s num with
  | some r => cupBayStat (cupStat (raise 0x0A03 (modRec s num (fun x => { x with st := .complete })) (bay := r.bay) (items := [(4, num)]))) r.bay
  | none => s

/-- SEALING ends (R355, R357, R358, R364, R366, R368, R370): summary, a leap second applied within it, units returned, flash copy due, TAIL or COMPLETE, and the oldest queued trigger opens a record that the others extend. -/
def sealRec (s : State) (n : Nat) : State :=
  match s.cup.recs.find? (fun r => r.bay = n ∧ r.st = .sealing ∧ r.final = true), cupBay? s n with
  | some r, some cb =>
    let hi := match r.raw.head? with | some e => e.at_ | none => r.det
    let leap := match s.alm.leapAt with
      | some (t, del) => if r.first.le ⟨t, 0⟩ ∧ EvalAt.le ⟨t, 0⟩ hi then (if del then 2 else 1) else 0
      | none => 0
    let r1 := { r with summary := summaryOf s r, leap := leap }
    let done := match newestOf s n with | some x => r.rmsEnd.le x | none => true
    let s1 := modRec s r.num (fun _ => { r1 with st := .tail, units := unitsOf r1 cb.recd })
    let s2 := raise 0x0A02 { modCup s1 n (fun x => { x with prev := some (r.num, r.first, hi) }) with cup := { s1.cup with flash := s1.cup.flash ++ [(r.num, false, s1.dev.ticks)] } } (bay := n) (items := [(4, r.num)])
    let s3 := if done then completeRec s2 r.num else s2
    let s4 := match cb.queue with
      | [] => s3
      | d :: ds =>
        let s5 := openRec (modCup s3 n (fun x => { x with queue := [] })) n d
        match rawRec s5 n with
        | some q => ds.foldl (fun st x => extendRec st n q.num 2 x) s5
        | none => ds.foldl (fun st x => dropTrig st n x.fires) s5
    cupBayStat (cupStat s4) n
  | _, _ => s

/-- RECORD_SEALED (R355). -/
def execRecordSealed (bay : Nat) (s : State) : Host.Outcome State Fault Refusal := next (sealRec s bay)

/-- RECORD_TAIL_END (R355): the RMS span of a record in TAIL has ended. -/
def execRecordTailEnd (num : Nat) (s : State) : Host.Outcome State Fault Refusal :=
  match rec? s num with
  | some r => if r.st = .tail ∧ reached s r.bay r.rmsEnd then next (completeRec s num) else next s
  | none => next s

/-- AUTO_TRIGGER (R351, R352): index 18 fires at the newest instant once auto_s has passed without a record. -/
def execAutoTrigger (bay : Nat) (s : State) : Host.Outcome State Fault Refusal :=
  match cupBay? s bay, bay? s bay with
  | some cb, some b =>
    match cb.ring.head? with
    | some e =>
      if b.runs ∧ flag s R.cupCtl 0 ∧ fld s (R.cupBayCtl bay) 3 2 = 2 ∧ cb.autoAt + field cb.recd 24 4 * secI ≤ e.at_.inst b.rate then
        next (fireAt (setCup s bay { cb with autoAt := e.at_.inst b.rate }) bay ⟨e.at_, e.at_.att s b.rate, e.word, [⟨18, e.at_.ns b.rate, 0, 0, none⟩]⟩)
      else next s
    | none => next s
  | _, _ => next s

/-- INDEX_FLASH_COPY (R366): the oldest pending copy or release mark is written to flash. -/
def flashCopy (s : State) : State :=
  match s.cup.flash with
  | [] => s
  | (num, freed, _) :: fs =>
    let s1 := { s with cup := { s.cup with flash := fs } }
    let s2 :=
      if freed then { s1 with flash := { s1.flash with recs := s1.flash.recs.map (fun x => if x.num = num then { x with freed := true } else x) } }
      else
        match rec? s1 num with
        | some r => { s1 with flash := { s1.flash with recs := s1.flash.recs.filter (fun x => x.num ≠ num) ++ [⟨num, indexEntry s1 r, r.summary, false⟩] } }
        | none => s1
    cupStat s2

/-- INDEX_FLASH_COPY (R366). -/
def execIndexFlashCopy (s : State) : Host.Outcome State Fault Refusal := next (flashCopy s)

end Sys2Proof.Machine
end

