-- ==== Sys2Proof/Machine/MetRows.lean ====
section
/-! DEFINITION. The rows of the energy accounting: blocks, closes, posts and reads (R321 to R338). -/

namespace Sys2Proof.Machine

/-- MET_CYCLE_BLOCK: the oldest block of a tracker's ring not yet consumed is taken (R113, R321); without effect on the accounts while MET_CTL.en is 0. -/
def execMetCycleBlock (trkNo : Nat) (s : State) : Host.Outcome State Fault Refusal :=
  let k := trk s trkNo
  let rd := if k.rd + 64 < k.wr then k.wr - 64 else k.rd
  if 8 ≤ trkNo ∨ k.wr ≤ rd ∨ s.dev.mode = .boot then next s
  else
    let s1 := modTrk s trkNo (fun x => { x with rd := rd + 1 })
    match tget? k.ring (rd % 64) with
    | some b => if metRuns? s then next ((s1.met.bays.map Prod.fst).foldl (fun st n => metBlock st n b) s1) else next s1
    | none => next s1

/-- MET_INTERVAL_CLOSE: the intervals of a bay whose spanning block is complete are written (R324). -/
def execMetIntervalClose (bay : Nat) (s : State) : Host.Outcome State Fault Refusal := next (metClose s bay)

/-- POST_MISSING: an interval not posted post_wait_min after its close, once for each (R332). -/
def execPostMissing (bay : Nat) (s : State) : Host.Outcome State Fault Refusal :=
  match metBay? s bay with
  | none => next s
  | some b =>
    let wait := fld s R.metJudgeCfg 10 0 * 60 * secT
    let due (h : MetHeld) : Bool := !h.missing && !h.rec_.has 9 && elapsed s h.closed wait
    let n := (b.held.filter due).length
    let s1 := setMet s bay { b with held := b.held.map (fun h => if due h then { h with missing := true } else h) }
    next ((List.range n).foldl (fun st _ => raise 0x0F06 (bump st R.metMissingCnt) (bay := bay)) s1)

/-- The held interval of a bay with a start. -/
def MetBay.find (b : MetBay) (start : Nat) : Option MetHeld := b.held.find? (fun h => h.rec_.start = start)

/-- Whether a start lies before the oldest of 96 held intervals. -/
def MetBay.gone (b : MetBay) (start : Nat) : Bool :=
  decide (96 ≤ b.held.length) && (match b.held.getLast? with | some h => decide (start < h.rec_.start) | none => false)

/-- The owning rule of MET_INTERVAL_POST (R331 to R335). -/
def metPostOwn (e : CmdEntry) (_cid : Nat) (s : State) : CmdOut :=
  let n := field e.params 0 2
  let exp := field e.params 4 4
  let start := field e.params 8 8
  let rcv := field e.params 24 4
  if s.dev.mode = .boot then .rej s stBadMode
  else
    match metBay? s n with
    | none => .rej s stBadParam
    | some b =>
      if exp < rcv then .rej s stBadParam
      else
        match b.find start with
        | none => .rej s (if b.gone start then stPast else stBadParam)
        | some h =>
          let again := h.rec_.has 9
          let x := metJudge s b.recd { h.rec_ with flags := Nat.lor h.rec_.flags (2 ^ 9 + (if again then 2 ^ 14 else 0)), eds := field e.params 16 8, exp := exp, rcv := rcv }
          let b1 := { b with held := b.held.map (fun y => if y = h then { y with rec_ := x } else y) }
          let s1 := setMet (bump s R.metPostCnt) n (metShort b1 start)
          let s2 := metAlarm (if again then bump s1 R.metAmendCnt else s1) n
          .ok s2 (fields := leBytes 2 x.flags ++ leBytes 2 0 ++ leBytes 4 (ofSigned 32 x.r))

/-- The parameter bytes that the command lists. -/
def usedMetIntervalPost : List (Nat × Nat) := [(0, 2), (4, 24)]

/-- MET_INTERVAL_POST (R331). -/
def execMetIntervalPost (e : CmdEntry) (s : State) : Host.Outcome State Fault Refusal := next (submit 0x80 usedMetIntervalPost metPostOwn e s)

/-- The owning rule of MET_READ (R338). -/
def metReadOwn (e : CmdEntry) (_cid : Nat) (s : State) : CmdOut :=
  let n := field e.params 0 2
  let kind := field e.params 2 1
  let host := field e.params 16 8
  if s.dev.mode = .boot then .rej s stBadMode
  else
    match metBay? s n with
    | none => .rej s stBadParam
    | some b =>
      if 2 < kind ∨ !addrOk host then .rej s stBadParam
      else if kind = 0 then .ok (hostWrite s host (metOpenBytes s n b))
      else if kind = 2 then .ok (hostWrite s host (metLifeBytes b))
      else
        match b.find (field e.params 8 8) with
        | some h => .ok (hostWrite s host h.rec_.bytes)
        | none => .rej s stPast

/-- The parameter bytes that the command lists. -/
def usedMetRead : List (Nat × Nat) := [(0, 3), (8, 16)]

/-- MET_READ (R338). -/
def execMetRead (e : CmdEntry) (s : State) : Host.Outcome State Fault Refusal := next (submit 0x81 usedMetRead metReadOwn e s)

end Sys2Proof.Machine
end

