-- ==== Sys2Proof/Machine/SecRows.lean ====
section
/-! DEFINITION. The commands and events of the security island, MODE_SET and TIME_RESTEP (R29, R30, R60, R61, R498, R526 to R538). -/

namespace Sys2Proof.Machine

/-! ### MODE_SET (R29, R498) -/

/-- Whether R27 lists a transition that MODE_SET may ask for. -/
def modeListed : Mode → Mode → Bool
  | .commission, .service => true
  | .commission, .test => true
  | .service, .commission => true
  | .service, .test => true
  | .vigil, .commission => true
  | .vigil, .test => true
  | .test, .commission => true
  | .safe, .commission => true
  | .commission, .safe => true
  | .service, .safe => true
  | .vigil, .safe => true
  | .test, .safe => true
  | _, _ => false

/-- The owning rule of MODE_SET (R29, R30, R549). -/
def modeSetOwn (e : CmdEntry) (cid : Nat) (s : State) : CmdOut :=
  match Mode.ofCode (field e.params 0 1) with
  | none => .rej s stBadParam
  | some m =>
    let cur := s.dev.mode
    if m = cur then .ok s
    else if m = .boot ∨ m = .vigil then .rej s stBadParam
    else if !modeListed cur m ∨ (cur = .safe ∧ safePersists s) then .rej s stBadMode
    else
      let (s1, fine) := if m = .safe then (s, true) else needToken s e 0x03 m.code
      if !fine then .rejAfter s1 stAuthFail
      else if s1.dev.pend.isSome || s1.mir.takeover.isSome || s1.mir.hand.isSome || s1.mir.role.isSome || s1.mir.contention.isSome then .rejAfter s1 stBusy
      else .later { s1 with dev := { s1.dev with pend := some ⟨m, effectInst s1, cid⟩ } }

/-- The parameter bytes that the command lists. -/
def usedModeSet : List (Nat × Nat) := [(0, 1)]

/-- MODE_SET (R29, R498). -/
def execModeSet (e : CmdEntry) (s : State) : Host.Outcome State Fault Refusal := next (submit 0x03 usedModeSet modeSetOwn e s)

/-- MODE_SET_EFFECT (R30): an accepted MODE_SET takes effect once its instant has come. -/
def execModeSetEffect (s : State) : Host.Outcome State Fault Refusal :=
  next (match s.dev.pend with | some p => if now s < p.at_ then s else modeEffect s p | none => s)

/-! ### TIME_RESTEP (R60, R61) -/

/-- The instant of candidate time at which a re-step lands: its first top of a second at least 100 µs from now. -/
def restepAt (s : State) : Inst := cdivN (candTime s + 100 * usI).toNat secI * secI

/-- The owning rule of TIME_RESTEP (R60). -/
def timeRestepOwn (e : CmdEntry) (cid : Nat) (s : State) : CmdOut :=
  if s.dev.mode = .boot ∨ s.dev.mode = .safe then .rej s stBadMode
  else
    let (s1, fine) := needToken s e 0x20 0
    if !fine then .rejAfter s1 stAuthFail
    else if s1.alm.lock ≠ .disputed then .rejAfter s1 stBadParam
    else if now s1 < s1.alm.candSince + fld s1 R.almRestepCfg 11 0 * secI ∨ s1.alm.restep.isSome ∨ s1.alm.preset.isSome then .rejAfter s1 stBusy
    else .later { s1 with alm := { s1.alm with restep := some (cid, restepAt s1) } }

/-- The parameter bytes that the command lists: none. -/
def usedTimeRestep : List (Nat × Nat) := []

/-- TIME_RESTEP (R60). -/
def execTimeRestep (e : CmdEntry) (s : State) : Host.Outcome State Fault Refusal := next (submit 0x20 usedTimeRestep timeRestepOwn e s)

/-! ### IMAGE_LOAD and IMAGE_COMMIT (R526 to R529) -/

/-- The owning rule of IMAGE_LOAD (R528). -/
def imageLoadOwn (e : CmdEntry) (cid : Nat) (s : State) : CmdOut :=
  let kind := field e.params 0 1
  let n := field e.params 4 4
  let host := field e.params 8 8
  if 3 < kind ∨ (if kind = 3 then 60 * 1024 else imgMost kind) < n ∨ (kind ≠ 3 ∧ n < 904) ∨ host % 64 ≠ 0 then .rej s stBadParam
  else if s.sec.load.isSome ∨ s.sec.apply.isSome then .rej s stBusy
  else .later { s with sec := { s.sec with load := some ⟨kind, hostRead s host n, cid⟩ } }

/-- The parameter bytes that the command lists. -/
def usedImageLoad : List (Nat × Nat) := [(0, 1), (4, 12)]

/-- IMAGE_LOAD (R528). -/
def execImageLoad (e : CmdEntry) (s : State) : Host.Outcome State Fault Refusal := next (submit 0x10 usedImageLoad imageLoadOwn e s)

/-- A load ends: verified, written to the slot that is not selected, read back, completed (R518, R528). -/
def loadDone (s : State) (flashOk : Bool) : State :=
  match s.sec.load with
  | none => s
  | some j =>
    let s1 := { s with sec := { s.sec with load := none } }
    if j.kind = 3 then
      if Config.certSubjectKey j.image ≠ some s.otp.idPub then complete (authFailed s1 3) j.cid stAuthFail Att.zero
      else if flashOk then complete { s1 with flash := { s1.flash with cert := j.image } } j.cid stOk Att.zero (leBytes 1 3)
      else complete { s1 with flash := { s1.flash with cert := [] } } j.cid stInternal Att.zero
    else
      let b := !s1.flash.sel j.kind
      match verifyErr s1 j.kind j.image with
      | some (.shape e) => complete (loadRejected s1 e) j.cid stBadParam Att.zero
      | some _ => complete (authFailed s1 j.kind) j.cid stAuthFail Att.zero
      | none =>
        let s2 := imageVerified s1 j.kind j.image
        let put (v : Option (List Byte)) : State :=
          { s2 with flash := s2.flash.setSlot j.kind b v, sec := s2.sec.setPend j.kind v.isSome }
        if flashOk then
          complete (put (some j.image)) j.cid stOk Att.zero
            (leBytes 1 j.kind ++ leBytes 1 (imgKey j.image) ++ leBytes 2 0 ++ leBytes 4 (imgRoll j.image) ++ slice (sha256 j.image) 0 8)
        else complete (put none) j.cid stInternal Att.zero

/-- IMAGE_LOAD_DONE (R528). -/
def execImageLoadDone (flashOk : Bool) (s : State) : Host.Outcome State Fault Refusal := next (loadDone s flashOk)

/-- Whether a revoke mask is refused (R526): it names the slot that signed the image, or leaves no usable slot in the class. -/
def revokeBad (o : Otp) (owner : Bool) (slot mask : Nat) : Bool :=
  bitOf mask slot || (List.range 4).all (fun i => !o.programmed owner i || o.isRevoked owner i || bitOf mask i)

/-- The pending image of a kind becomes the selected one: keys revoked, the selector switched, the counter advanced (R526, R527, R529). -/
def commitImage (s : State) (kind : Nat) (img : List Byte) (advance : Bool) (mask : Nat) : State :=
  let owner := decide (kind = 2)
  let cls := if owner then 0 else 1
  let s1 := if mask = 0 then s
    else raise 0x0E04 { s with otp := { s.otp with revoked := Nat.lor s.otp.revoked (if owner then mask * 2 ^ 8 else mask) } } (items := [(1, cls), (1, mask)])
  let s2 := { s1 with flash := s1.flash.setSel kind (!s1.flash.sel kind), sec := s1.sec.setPend kind false }
  if advance && decide (s2.otp.counter owner < imgRoll img) then
    let v := capN 128 (imgRoll img)
    raise 0x0E03 { s2 with otp := if owner then { s2.otp with ownFuses := v } else { s2.otp with vendFuses := v } } (items := [(1, cls), (1, v)])
  else s2

/-- A halted chain restarts from the committed stage, or from the one it halted in when that comes first (R529). -/
def restartChain (s : State) (kind : Nat) : State :=
  { s with sec := { s.sec with halted := false, cause := 0, stage := if s.sec.stage < kind then s.sec.stage else kind } }

/-- The owning rule of IMAGE_COMMIT (R526, R529). -/
def imageCommitOwn (e : CmdEntry) (_cid : Nat) (s : State) : CmdOut :=
  let kind := field e.params 0 1
  let flags := field e.params 1 1
  let mask := field e.params 2 1
  if s.dev.mode = .safe ∨ (s.dev.mode = .boot ∧ !s.sec.halted) then .rej s stBadMode
  else
    let (s1, fine) := needToken s e 0x11 kind
    if !fine then .rejAfter s1 stAuthFail
    else if 2 < kind ∨ 1 < flags ∨ 15 < mask ∨ !s1.sec.pends kind then .rejAfter s1 stBadParam
    else
      match s1.flash.slot kind (!s1.flash.sel kind) with
      | none => .rejAfter s1 stBadParam
      | some img =>
        if revokeBad s1.otp (decide (kind = 2)) (imgKey img) mask then .rejAfter s1 stBadParam
        else if s1.sec.load.isSome ∨ s1.sec.apply.isSome then .rejAfter s1 stBusy
        else
          let s2 := commitImage s1 kind img (bitOf flags 0) mask
          if s2.dev.mode = .boot then .ok (restartChain s2 kind)
          else if kind = 2 then .ok { s2 with sec := { s2.sec with apply := some ⟨effectInst s2⟩ } } (attAt s2 (effectInst s2))
          else .ok s2

/-- The parameter bytes that the command lists. -/
def usedImageCommit : List (Nat × Nat) := [(0, 3)]

/-- IMAGE_COMMIT (R529). -/
def execImageCommit (e : CmdEntry) (s : State) : Host.Outcome State Fault Refusal := next (submit 0x11 usedImageCommit imageCommitOwn e s)

/-- A committed scheme image takes effect (R207). -/
def applyDue (s : State) : State :=
  match s.sec.apply, s.flash.slot 2 s.flash.schSel with
  | some p, some img =>
    if now s < p.at_ then s else applyScheme { s with sec := { s.sec with apply := none, schSlot := s.flash.schSel } } img p.at_
  | _, _ => s

/-- IMAGE_APPLY (R207): once the effect instant has come. -/
def execImageApply (s : State) : Host.Outcome State Fault Refusal := next (applyDue s)

/-! ### ATTEST (R534) -/

/-- Bytes 0 to 255 of the attestation report. -/
def attestHead (s : State) (nonce : List Byte) : List Byte :=
  let x := s.sec
  let loaded (n : Nat) (m : List Byte) : List Byte := if n ≤ x.stage then m else List.replicate 32 0
  [0x48, 0x41, 0x54, 0x54] ++ leBytes 2 1 ++ leBytes 1 s.dev.mode.code ++ leBytes 1 0 ++ (attNow s).bytes ++ leBytes 16 s.otp.uid ++ leBytes 4 s.otp.unitId
    ++ leBytes 2 (if s.dev.part7264 then 0x7264 else 0x7296) ++ leBytes 1 0xA1 ++ leBytes 1 0 ++ slice nonce 0 32
    ++ loaded 1 x.meas1 ++ loaded 2 x.meas2 ++ loaded 3 x.meas3 ++ schemeDigest s
    ++ leBytes 1 s.otp.vendFuses ++ leBytes 1 s.otp.ownFuses ++ leBytes 1 (s.otp.revMask false + 16 * s.otp.revMask true) ++ leBytes 1 (x.s1Key + 4 * x.libKey + 16 * x.schKey)
    ++ leBytes 1 ((x.grant.map Grant.scope).getD 0) ++ leBytes 1 (b2n x.grantSeen + 2 * b2n x.fallback + 4 * b2n s.pwr.degraded) ++ leBytes 2 0
    ++ leBytes 8 (s.hif.logSeq - 1) ++ s.hif.logHash

/-- What ATTEST writes for a kind. -/
def attestOut (s : State) (kind : Nat) (nonce : List Byte) : List Byte :=
  match kind with
  | 0 => let h := attestHead s nonce; h ++ slice (rsaSign s.otp.idPriv s.otp.idPub h) 0 384
  | 1 => s.flash.cert
  | _ => s.otp.idPub

/-- The owning rule of ATTEST (R534). -/
def attestOwn (e : CmdEntry) (_cid : Nat) (s : State) : CmdOut :=
  let kind := field e.params 32 1
  let host := field e.params 40 8
  if 2 < kind ∨ !addrOk host then .rej s stBadParam
  else if kind = 1 ∧ s.flash.cert = [] then .rej s stNoResource
  else
    let out := attestOut s kind (slice e.params 0 32)
    .ok (raise 0x0E08 (hostWrite s host out) (items := [(1, kind)])) Att.zero (leBytes 4 out.length)

/-- The parameter bytes that the command lists. -/
def usedAttest : List (Nat × Nat) := [(0, 33), (40, 8)]

/-- ATTEST (R534). -/
def execAttest (e : CmdEntry) (s : State) : Host.Outcome State Fault Refusal := next (submit 0x12 usedAttest attestOwn e s)

/-! ### DEBUG_UNLOCK (R535, R536) -/

/-- The 16 bytes of a challenge. -/
def challengeBytes (count : Nat) : List Byte := (List.range 16).map (Config.randomByte count)

/-- Phase 1 of DEBUG_UNLOCK: a token that carries the current challenge grants its scope. -/
def debugGrant (e : CmdEntry) (s : State) : CmdOut :=
  match challengeNow s with
  | none => .rej s stAuthFail
  | some c =>
    let s1 := { s with sec := { s.sec with challenge := none } }
    let scope := field (hostRead s1 e.token 896) 7 1
    match takeToken s1 e 0x13 scope (fun t => decide (slice t 48 16 = challengeBytes c)) with
    | (s2, none) => .rejAfter s2 stAuthFail
    | (s2, some t) =>
      let cls := field t 41 1
      .ok (raise 0x0E05 { s2 with sec := { s2.sec with grant := some ⟨scope, field t 32 8, decide (cls = 1)⟩, grantSeen := true } } (items := [(1, scope), (1, cls)]))

/-- The owning rule of DEBUG_UNLOCK (R536). -/
def debugUnlockOwn (e : CmdEntry) (_cid : Nat) (s : State) : CmdOut :=
  if s.dev.mode ≠ .commission ∧ s.dev.mode ≠ .test then .rej s stBadMode
  else
    match field e.params 0 1 with
    | 0 => .ok (bumpFree { s with sec := { s.sec with challenge := some (s.dev.free, s.dev.ticks) } }) Att.zero (challengeBytes s.dev.free)
    | 1 => debugGrant e s
    | 2 => .ok (endGrant s 2)
    | _ => .rej s stBadParam

/-- The parameter bytes that the command lists. -/
def usedDebugUnlock : List (Nat × Nat) := [(0, 1)]

/-- DEBUG_UNLOCK (R536). -/
def execDebugUnlock (e : CmdEntry) (s : State) : Host.Outcome State Fault Refusal := next (submit 0x13 usedDebugUnlock debugUnlockOwn e s)

/-- TOKEN_LOCK_EXPIRY (R532). -/
def execTokenLockExpiry (s : State) : Host.Outcome State Fault Refusal :=
  next (if tokenLocked s then s else { s with sec := { s.sec with lockUntil := none } })

/-- DEBUG_GRANT_EXPIRY (R535): the token's not-after time has passed. -/
def execDebugGrantExpiry (s : State) : Host.Outcome State Fault Refusal :=
  next (match s.sec.grant with | some g => if g.notAfter < now s / secI then endGrant s 0 else s | none => s)

/-- CHALLENGE_EXPIRY (R536). -/
def execChallengeExpiry (s : State) : Host.Outcome State Fault Refusal :=
  next (match s.sec.challenge with | some (_, t) => if elapsed s t (60 * secT) then { s with sec := { s.sec with challenge := none } } else s | none => s)

/-! ### OTP programming (R537) -/

/-- The bytes of an owner or vendor slot area replaced by a word at an offset of OTP. -/
def Otp.withWord (o : Otp) (addr v : Nat) : Otp :=
  if addr = 0x10 then { o with unitField := v }
  else
    let i := (addr - 0xA0) / 32
    { o with own := tset o.own i (patch (o.key true i) ((addr - 0xA0) % 32) (leBytes 4 v)) }

/-- The word of OTP that may be programmed at an offset. -/
def Otp.word (o : Otp) (addr : Nat) : Nat :=
  if addr = 0x10 then o.unitField else field (o.key true ((addr - 0xA0) / 32)) ((addr - 0xA0) % 32) 4

/-- The conditions of R537. -/
def otpMay (s : State) (addr : Nat) : Bool :=
  let slot := decide (0xA0 ≤ addr) && decide (addr ≤ 0x11F)
  let blank := if addr = 0x10 then decide (s.otp.unitField = 0) else !s.otp.programmed true ((addr - 0xA0) / 32)
  (decide (addr = 0x10) || slot) && blank
    && (decide (s.dev.mode = .test) || (decide (s.dev.mode = .boot) && s.sec.halted && decide (s.otp.progMask true = 0)))

/-- SEC_OTP_PROG_CTL.go written with 1 (R537): the operation starts, or otp_err is set. -/
def otpGo (s : State) : State :=
  let addr := regGet s R.secOtpProgAddr
  if otpMay s addr && s.sec.otpBusy.isNone then { s with sec := { s.sec with otpBusy := some (addr, regGet s R.secOtpProgData) } } else flagSet s R.secStat 7 true

/-- OTP_PROG_GO (R537). -/
def execOtpProgGo (s : State) : Host.Outcome State Fault Refusal := next (otpGo s)

/-- OTP_PROG_DONE (R537): the word reads back as given; a mismatch sets otp_err. -/
def execOtpProgDone (readback : Nat) (s : State) : Host.Outcome State Fault Refusal :=
  next (match s.sec.otpBusy with
    | none => s
    | some (addr, data) =>
      let want := Nat.lor (s.otp.word addr) data
      let s1 := { s with sec := { s.sec with otpBusy := none }, otp := s.otp.withWord addr (readback % 2 ^ 32) }
      if readback % 2 ^ 32 = want then s1 else flagSet s1 R.secStat 7 true)

end Sys2Proof.Machine
end

