-- ==== Sys2Proof/Machine/PwrRows.lean ====
section
/-! DEFINITION. Power, the dying sequence, temperature and SAFE conditions (R523, R541 to R557, R588, R589). -/

namespace Sys2Proof.Machine

/-! ### The dying sequence (R543 to R546) -/

/-- The entry of a metered bay whose open interval ends at t_d (R544, R545). -/
def dyingEntry (s : State) (n : Nat) (b : MetBay) : DyingEntry :=
  let r := metRecord s n b.recd b.open_ (now s / nsI)
  ⟨n, r.flags, r.cov, b.open_.start, b.open_.energyBytes, leBytes 8 (b.lifeImp / 2 ^ 20) ++ leBytes 8 (b.lifeExp / 2 ^ 20)⟩

/-- Whether a bank of the dying-sequence area is erased. -/
def erasedBank (f : Flash) : Bool := decide (f.bank0 = .erased) || decide (f.bank1 = .erased)

/-- PWR_FAIL_N detected low after BOOT: background work is gated by `isDying`, metering is frozen, a SELFTEST stops (R543, R544, R557). -/
def dyingStart (s : State) : State :=
  let d : Dying := { at_ := attNow s, since := s.dev.ticks, phase := .hold, mode := s.dev.mode, cause := if s.dev.mode = .safe then s.pwr.safeCause else 0,
                     bankOk := erasedBank s.flash, entries := s.met.bays.map (fun p => dyingEntry s p.1 p.2) }
  raise 0x0201 { s with pwr := { s.pwr with dying := some d, selftest := none } }

/-- Every port sends what it holds. -/
def flushPort (n : Nat) : Nat → State → State
  | 0, s => s
  | k + 1, s => flushPort n k (drainPort (modPort s n (fun p => { p with busy := 0 })) n)

/-- The dying GOOSE of BEL_GASP_CFG (R401). -/
def dyingGoose (s : State) (at_ : Att) : State :=
  let w := regGet s R.belGaspCfg
  match bitOf w 31, gooseRec? s.scheme 0 (bitsOf w 7 0) with
  | true, some r =>
    let b := bay? s (field r 4 2)
    stateChange s r ((b.map (fun x => x.ctx.pub)).getD 0) ((b.map (fun x => x.ctx.bins)).getD 0) at_ true
  | _, _ => s

/-- Clusters, AFE die, switch and DRAM go down; the pins and the flash copies that wait are kept (R544 step 4). -/
def gateIslands (s : State) : State :=
  { s with afe := Afe.reset, flt := ⟨[]⟩, svi := ⟨[], [], [], [], [], []⟩, bays := [], prep := ⟨[], []⟩, cfg := { Cfg.reset with dtos := s.cfg.dtos },
           cup := { s.cup with bays := [], hr := [], fetches := [] }, bel := { Bel.reset with sent := s.bel.sent }, mir := Mir.reset }

/-- PROT_HOLD_END (R544 steps 2 to 4): the DTO levels are held, GASP and the dying GOOSE go out, the islands are gated. -/
def holdEnd (s : State) : State :=
  match s.pwr.dying with
  | none => s
  | some d =>
    if d.phase ≠ .hold ∨ !elapsed s d.since (fld s R.pwrDyingCfg 2 0 * msT) then s
    else
      let cause := if s.dev.mode = .safe then 0x10 + s.pwr.safeCause else 0
      let s1 := dyingGoose (sendGasp (dtoAll s) cause d.at_) d.at_
      let s2 := (List.range 6).foldl (fun st n => flushPort n ((port st n).bell.length + 1) st) s1
      gateIslands { s2 with pwr := { s2.pwr with dying := some { d with phase := .writing } } }

/-- Reset of every island but what outlives it; `f` gives the power state in which the part waits. -/
def allReset (s : State) (f : Pwr → Pwr) : State :=
  let s1 := enterBoot s
  { s1 with pwr := f s1.pwr }

/-- The pending index copies that the dying sequence writes: at most 8, the highest record numbers first (R366). -/
def dyingCopies (s : State) : List FlashRec :=
  let due := s.cup.recs.reverse.filter (fun r => s.cup.flash.any (fun f => decide (f.1 = r.num) && !f.2.1))
  (due.take 8).map (fun r => ⟨r.num, indexEntry s r, r.summary, false⟩)

/-- The dying block written into an erased bank with its header last (R545). -/
def writeBlock (s : State) (d : Dying) (durUs energy : Nat) : Flash :=
  let seqOf : DyingBank → Nat := fun b => match b with | .block h _ => h.seq + 1 | _ => 0
  let n := if seqOf s.flash.bank0 < seqOf s.flash.bank1 then seqOf s.flash.bank1 else seqOf s.flash.bank0
  let blk : DyingBank := .block ⟨n, d.at_, d.mode, d.cause, s.pwr.hottest, durUs, energy, false⟩ d.entries
  let f := s.flash
  let f1 := if f.bank0 = .erased then { f with bank0 := blk } else if f.bank1 = .erased then { f with bank1 := blk } else f
  let cs := dyingCopies s
  if d.bankOk then { f1 with recs := f.recs.filter (fun x => !cs.any (fun c => decide (c.num = x.num))) ++ cs } else f

/-- DYING_BLOCK_WRITTEN (R544, R545): the header is written and the part halts with its DTO pins at their latched levels. -/
def dyingWritten (s : State) (durUs energy : Nat) : State :=
  match s.pwr.dying with
  | some d =>
    if d.phase = .writing then
      let s1 := allReset { s with flash := writeBlock s d durUs energy } (fun p => { p with dying := some { d with phase := .halted }, failLow := true, degraded := s.pwr.degraded })
      { s1 with cfg := { s1.cfg with dtos := s.cfg.dtos } }
    else s
  | none => s

/-- A dying block under way that a reset or a shutdown cuts off fails its CRC (R557, R589); its first page starts 100 µs after t_d (R544 step 5). -/
def cutDying (s : State) : State :=
  match s.pwr.dying with
  | some d =>
    if decide (d.phase ≠ .halted) && d.bankOk && elapsed s d.since (100 * usT) then
      let f := s.flash
      { s with flash := if f.bank0 = .erased then { f with bank0 := .broken } else if f.bank1 = .erased then { f with bank1 := .broken } else f }
    else s
  | none => s

/-! ### Power (R523, R541, R543, R589) -/

/-- POWER_GOOD (R541): RESET_N is high and PWR_FAIL_N has been high for 10 ms. Nothing happens in a shutdown, or while a dying sequence has not ended. -/
def execPowerGood (s : State) : Host.Outcome State Fault Refusal :=
  next (if s.pwr.shutdown || (match s.pwr.dying with | some d => decide (d.phase ≠ .halted) | none => false) then s
    else allReset s (fun p => { p with powerGood := true, resetLow := false, failLow := false }))

/-- RESET_N_ASSERT (R589): every island is reset at once. -/
def execResetNAssert (s : State) : Host.Outcome State Fault Refusal :=
  next (allReset (cutDying s) (fun p => { p with powerGood := false, resetLow := true, shutdown := s.pwr.shutdown }))

/-- PWR_FAIL_ASSERT (R543): the dying sequence starts; in BOOT the chain waits and nothing is written. -/
def execPwrFailAssert (s : State) : Host.Outcome State Fault Refusal :=
  next (if s.pwr.failLow then s
    else
      let s1 := { s with pwr := { s.pwr with failLow := true } }
      if s.dev.mode = .boot || isDying s || !partRuns s then s1 else dyingStart s1)

/-- PROT_HOLD_END (R544). -/
def execProtHoldEnd (s : State) : Host.Outcome State Fault Refusal := next (holdEnd s)

/-- DYING_BLOCK_WRITTEN (R545): with the measured duration in µs and energy in 10 µJ. -/
def execDyingBlockWritten (durUs energy : Nat) (s : State) : Host.Outcome State Fault Refusal := next (dyingWritten s durUs energy)

/-- PWR_FAIL_RELEASE (R523, R541): PWR_FAIL_N has been high for 10 ms after a completed dying sequence, or in a BOOT that waited for it. -/
def execPwrFailRelease (s : State) : Host.Outcome State Fault Refusal :=
  let done := match s.pwr.dying with | some d => decide (d.phase = .halted) | none => decide (s.dev.mode = .boot) && s.pwr.failLow
  next (if done && !s.pwr.resetLow && !s.pwr.shutdown then allReset s (fun p => { p with failLow := false }) else s)

/-! ### SAFE conditions (R542, R549) -/

/-- A SAFE condition acts, unless the dying sequence runs; at the very moment of PWR_FAIL_N both do, and the dying block names SAFE (R557). -/
def safeUnlessDying (s : State) (cause : Nat) : State :=
  match s.pwr.dying with
  | none => enterSafe s cause
  | some d =>
    if d.since = s.dev.ticks ∧ d.phase = .hold then
      let s1 := enterSafe s cause
      { s1 with pwr := { s1.pwr with dying := some { d with mode := s1.dev.mode, cause := s1.pwr.safeCause } } }
    else s

/-- RAIL_FAULT (R542): while PWR_FAIL_N is low the fault is recorded only. -/
def execRailFault (rail : Nat) (s : State) : Host.Outcome State Fault Refusal :=
  if 8 ≤ rail ∨ !partRuns s then next s
  else
    let s1 := { s with pwr := { s.pwr with railFault := tset s.pwr.railFault rail s.dev.ticks } }
    if s.pwr.failLow then next s1
    else next (safeUnlessDying (raise 0x0209 (flagSet (bump s1 R.pwrSupplyFaultCnt) R.pwrStat 3 true) (items := [(1, rail)])) 3)

/-- PLL_LOCK_LOSS (R549). -/
def execPllLockLoss (s : State) : Host.Outcome State Fault Refusal :=
  next (if partRuns s then safeUnlessDying { s with pwr := { s.pwr with pllLost := some s.dev.ticks } } 4 else s)

/-- D2D_FAILURE (R549). -/
def execD2dFailure (s : State) : Host.Outcome State Fault Refusal :=
  next (if partRuns s then safeUnlessDying { s with pwr := { s.pwr with d2dOk := false } } 5 else s)

/-! ### Temperature (R549 to R553) -/

/-- A sensor's reading in 1/16 °C taken, with the hottest since BOOT and the last tick that read 135 °C or more. -/
def setTemp (s : State) (sensor : Nat) (t : Int) : State :=
  if sensor < 40 then { s with pwr := { s.pwr with temps := tset s.pwr.temps sensor t, hottest := if s.pwr.hottest < t then t else s.pwr.hottest, hotAt := if 135 * 16 ≤ t then s.dev.ticks else s.pwr.hotAt } } else s

/-- Readings of the sensors from 0 on. -/
def setTemps (s : State) (ts : List Int) : State := (enumFrom0 ts).foldl (fun st p => setTemp st p.1 p.2) s

/-- Whether every sensor reads below a limit in °C. -/
def allBelow (s : State) (c : Int) : Bool := s.pwr.temps.all (fun p => decide (p.2 < c * 16))

/-- THERMAL_SAFE (R549): a sensor reads 155 °C or more. -/
def execThermalSafe (sensor : Nat) (temp : Int) (s : State) : Host.Outcome State Fault Refusal :=
  let s1 := setTemp s sensor temp
  next (if sensor < 40 ∧ 155 * 16 ≤ temp ∧ partRuns s then safeUnlessDying s1 2 else s1)

/-- THERMAL_SHUTDOWN (R550, R557): at 165 °C every island is held in reset. -/
def execThermalShutdown (sensor : Nat) (temp : Int) (s : State) : Host.Outcome State Fault Refusal :=
  let s1 := setTemp s sensor temp
  next (if sensor < 40 ∧ 165 * 16 ≤ temp then
      allReset (cutDying s1) (fun p => { p with powerGood := s.pwr.powerGood, shutdown := true })
    else s1)

/-- THERMAL_SHUTDOWN_RELEASE (R550): below 140 °C the part enters BOOT. -/
def execThermalShutdownRelease (temps : List Int) (s : State) : Host.Outcome State Fault Refusal :=
  let s1 := setTemps s temps
  next (if s.pwr.shutdown ∧ allBelow s1 140 then allReset s1 (fun p => { p with powerGood := s.pwr.powerGood, shutdown := false }) else s1)

/-- The throttle entries within the last 24 h judged against margin_n: the degraded cause comes or goes, with THERMAL_MARGIN_LOSS (R553). -/
def thermMargin (s : State) : State :=
  let l := s.pwr.throttleAt.filter (fun t => decide (s.dev.ticks < t + 24 * 3600 * secT))
  let ovr := decide (fld s R.pwrThermCfg 7 4 ≤ l.length)
  let s1 := { s with pwr := { s.pwr with throttleAt := l } }
  setCause (if ovr && !bitOf s.pwr.causes 5 then raise 0x0207 s1 else s1) 5 ovr

/-- THERMAL_THROTTLE (R552, R553): a sensor reaches 140 °C. -/
def execThermalThrottle (sensor : Nat) (temp : Int) (s : State) : Host.Outcome State Fault Refusal :=
  let s1 := setTemp s sensor temp
  next (if sensor < 40 ∧ 140 * 16 ≤ temp ∧ !s.pwr.throttle ∧ partRuns s then
      let s2 := bump { s1 with pwr := { s1.pwr with throttle := true, throttleAt := s.dev.ticks :: s1.pwr.throttleAt } } R.pwrThrottleCnt
      thermMargin (raise 0x0205 s2 (items := [(1, sensor)]))
    else s1)

/-- THERMAL_RELEASE (R552): every sensor has stayed below 135 °C for 10 s. -/
def execThermalRelease (temps : List Int) (s : State) : Host.Outcome State Fault Refusal :=
  let s1 := setTemps s temps
  next (if s.pwr.throttle ∧ allBelow s1 135 ∧ elapsed s s.pwr.hotAt (10 * secT) then cfgKick (raise 0x0206 { s1 with pwr := { s1.pwr with throttle := false } }) else s1)

/-- THERMAL_MARGIN_CLEAR (R553): a throttle entry has aged out. -/
def execThermalMarginClear (s : State) : Host.Outcome State Fault Refusal := next (thermMargin s)

/-! ### DRAM errors (R554) -/

/-- DRAM_CE_HIGH (R554): the count of this clock hour. -/
def execDramCeHigh (count : Nat) (s : State) : Host.Outcome State Fault Refusal :=
  let s1 := regSet s R.pwrDramCeCnt (capN (2 ^ 32 - 1) count)
  next (if fld s R.pwrDramCfg 7 0 < count ∧ s.dev.mode ≠ .boot ∧ !bitOf s.pwr.causes 4 then setCause (raise 0x0208 s1) 4 true else s1)

/-- DRAM_CE_HOUR_END (R554): a clock hour ends with its count; one within the threshold clears the cause. -/
def execDramCeHourEnd (count : Nat) (s : State) : Host.Outcome State Fault Refusal :=
  let s1 := regSet s R.pwrDramCeCnt 0
  next (if count ≤ fld s R.pwrDramCfg 7 0 then setCause s1 4 false else s1)

end Sys2Proof.Machine
end

