-- ==== Sys2Proof/Machine/FetchRows.lean ====
section
/-! DEFINITION. The opcodes, the fetch of commands, head doorbells, and writes of SETUP registers (R6, R485, R490, R491, R505, R560 to R568). -/

namespace Sys2Proof.Machine

/-! ### The opcodes (R499 and the table of commands) -/

/-- What a command lists in its parameter area, and its owning rule. -/
structure CmdRule where
  used : List (Nat × Nat)
  own : CmdEntry → Nat → State → CmdOut

/-- The rule of an opcode; `none` for an unknown one. -/
def cmdRule : Nat → Option CmdRule
  | 0x01 => some ⟨usedNop, nopOwn⟩
  | 0x02 => some ⟨usedIdentify, identifyOwn⟩
  | 0x03 => some ⟨usedModeSet, modeSetOwn⟩
  | 0x04 => some ⟨usedRingCreate, ringCreateOwn⟩
  | 0x05 => some ⟨usedRingDestroy, ringDestroyOwn⟩
  | 0x10 => some ⟨usedImageLoad, imageLoadOwn⟩
  | 0x11 => some ⟨usedImageCommit, imageCommitOwn⟩
  | 0x12 => some ⟨usedAttest, attestOwn⟩
  | 0x13 => some ⟨usedDebugUnlock, debugUnlockOwn⟩
  | 0x20 => some ⟨usedTimeRestep, timeRestepOwn⟩
  | 0x21 => some ⟨usedSchedAdd, schedAddOwn⟩
  | 0x22 => some ⟨usedSchedCancel, schedCancelOwn⟩
  | 0x30 => some ⟨usedAfeSnap, afeSnapOwn⟩
  | 0x31 => some ⟨usedAfeCal, ownAfeCal⟩
  | 0x40 => some ⟨usedBayRun, bayStartOwn⟩
  | 0x41 => some ⟨usedBayRun, bayStopOwn⟩
  | 0x42 => some ⟨usedGroupSelect, groupSelectOwn⟩
  | 0x43 => some ⟨usedBayStateRead, bayStateReadOwn⟩
  | 0x44 => some ⟨usedTargetReset, targetResetOwn⟩
  | 0x50 => some ⟨usedCellSplit, cellSplitOwn⟩
  | 0x51 => some ⟨usedCellJoin, cellJoinOwn⟩
  | 0x52 => some ⟨usedCellMigrate, cellMigrateOwn⟩
  | 0x53 => some ⟨usedSelftest, selftestOwn⟩
  | 0x60 => some ⟨usedRecForce, recForceOwn⟩
  | 0x61 => some ⟨usedRecFetch, recFetchOwn⟩
  | 0x62 => some ⟨usedRecRelease, recReleaseOwn⟩
  | 0x63 => some ⟨usedHistSnapshot, histOwn⟩
  | 0x70 => some ⟨usedMirRole, ownMirRole⟩
  | 0x71 => some ⟨usedMirSync, ownMirSync⟩
  | 0x80 => some ⟨usedMetIntervalPost, metPostOwn⟩
  | 0x81 => some ⟨usedMetRead, metReadOwn⟩
  | 0x90 => some ⟨usedBelTestPublish, belTestPublishOwn⟩
  | _ => none

/-- A command of unknown opcode (R491): its completion ring is settled and a slot reserved before it completes with BAD_OPCODE. -/
def submitUnknown (op : Nat) (e : CmdEntry) (s : State) : State :=
  match cplRingOf s e with
  | none => s
  | some (i, named) =>
    if cmdReady s e then
      let (s1, f) := reserve s op e i
      writeCpl s1 f (if named then stBadOpcode else stBadParam) Att.zero Att.zero []
    else { s with hif := { s.hif with waiting := s.hif.waiting ++ [(op, e)] } }

/-- A fetched command checked and given to its rule (R491). -/
def takeCommand (op : Nat) (e : CmdEntry) (s : State) : State :=
  match cmdRule op with
  | some r => submit op r.used r.own e s
  | none => submitUnknown op e s

/-- Commands that wait for a completion slot are taken again, in their order (R491). -/
def retryWaiting (s : State) : State :=
  s.hif.waiting.foldl (fun st w => takeCommand w.1 w.2 st) { s with hif := { s.hif with waiting := [] } }

/-! ### The fetch (R485, R490, R491, R505) -/

/-- The entry of a ring at its fetch index, from host memory (R490): its opcode and the rest. -/
def readEntry (s : State) (ring : Nat) (r : HostRing) : Nat × CmdEntry :=
  let b := hostRead s (r.base + 64 * r.part) 64
  (field b 0 1, ⟨ring, r.part, field b 1 1, field b 2 2, field b 4 1, field b 5 3, field b 8 8, slice b 16 48⟩)

/-- Whether the next command of a ring may be fetched (R491, R505): the ring holds one, is not halted, has none that waits, and a FENCE has nothing of its ring before it. -/
def mayFetch (s : State) (ring : Nat) : Bool :=
  match tget? s.hif.rings ring with
  | none => false
  | some r =>
    let idle := !s.hif.inflight.any (fun f => decide (f.ring = ring))
    decide (r.kind = .cmd) && decide (r.part ≠ r.host) && !r.halted && !s.hif.waiting.any (fun w => decide (w.2.ring = ring))
      && (!bitOf (readEntry s ring r).2.flags 0 || idle)

/-- The ring served next: ascending from the one after the last served, round (R491). -/
def nextRing (s : State) : Option Nat :=
  ((List.range 128).map (fun i => (s.hif.lastServed + 1 + i) % 128)).find? (mayFetch s)

/-- COMMAND_FETCH (R491): the next command is copied, the fetch index moves on, and the command is checked and given to its rule; `err` is a read of the entry that fails, which halts the ring (R505). -/
def execCommandFetch (err : Bool) (s : State) : Host.Outcome State Fault Refusal :=
  next (
    if !linkOk s || !partRuns s || decide (256 ≤ s.hif.inflight.length) then s
    else
      match nextRing s with
      | none => s
      | some i =>
        let s0 := { s with hif := { s.hif with lastServed := i } }
        if err then haltRing s0 i
        else
          match tget? s.hif.rings i with
          | none => s
          | some r =>
            let c := readEntry s i r
            takeCommand c.1 c.2 (modRing s0 i (fun x => { x with part := (x.part + 1) % x.size })))

/-- HEAD_DOORBELL (R485): the head of a part-to-host ring; commands that wait for a completion slot are taken when there is one (R491). -/
def execHeadDoorbell (ring value : Nat) (s : State) : Host.Outcome State Fault Refusal :=
  next (if hostReach s then retryWaiting (doorbell s ring value) else s)

/-! ### Writes of SETUP registers (R6, R560 to R568) -/

/-- A register written by the host; the registers whose writes are rows of their own act by those rows. -/
def setupWrite (s : State) (a v : Nat) : State :=
  if a = R.modeCtl then dtoEnPut s (bitOf v 0)
  else if a = R.hifCtl then (if bitOf v 1 then resetHost s else if bitOf v 0 then adminEnable s else s)
  else if a = R.secOtpProgCtl then (if bitOf v 0 then otpGo s else s)
  else if a = R.lksDbgCtl then
    (if bitOf v 31 then dbgAttach s (v % 512) else if bitOf v 30 then dbgDetach s else if dbgMay s then (regWrite true s a v).1 else flagSet s R.lksStat 0 true)
  else if a = R.dpcAddrLo then dpcAddrPut s false v
  else if a = R.dpcAddrHi then dpcAddrPut s true v
  else (regWrite true s a v).1

/-- REGISTER_WRITE: a write of the SETUP window with its byte enables (R6, R561, R567). -/
def execRegisterWrite (addr data be : Nat) (s : State) : Host.Outcome State Fault Refusal :=
  next (
    if !hostReach s then s
    else if be ≠ 15 ∨ addr % 4 ≠ 0 ∨ 2 ^ 16 ≤ addr ∨ (regAt addr).isNone then bump s R.hifBadAccess
    else setupWrite s addr (data % 2 ^ 32))

end Sys2Proof.Machine
end

