-- ==== Sys2Proof/Machine/PtpRows.lean ====
section
/-! DEFINITION. The meanings of PTP messages: Sync, Announce and peer delay received, the transparent clock, and what the part sends at its intervals (R47 to R53, R64, R65). -/

namespace Sys2Proof.Machine

/-! ### Received (R47, R53, R64, R65) -/

/-- Whether a message of a domain on a port concerns the part as a slave. -/
def ptpHears (s : State) (port domain : Nat) : Bool :=
  decide (port < 4) && flag s R.almPtpCfg (16 + port) && decide (domain = fld s R.almPtpCfg 31 24)

/-- PTP_SYNC_RX: a Sync, with its Follow_Up when it is two-step, arrives now; from the selected grandmaster it is a measurement (R53). -/
def execPtpSyncRx (m : PtpSync) (s : State) : Host.Outcome State Fault Refusal :=
  let mine := match s.alm.gm with | some g => decide (g.id = m.gmId) | none => false
  if ptpHears s m.port m.domain && mine && decide (m.port = s.alm.selPort) && decide (-4 ≤ m.logInterval) && decide (m.logInterval ≤ 0) then
    let origin : Int := (m.originSec * 10 ^ 9 + m.originNs) * nsI
    let ofs := origin + m.correction + tget 0 s.alm.pathDelay m.port - eventInst s
    let s1 := setUsable { s with alm := { s.alm with secKnown := true, syncAt := s.dev.ticks, syncIvl := m.logInterval, syncLost := false } } .ptp true
    next (if s1.alm.source = .ptp then almMeasure s1 ofs false else s1)
  else next s

/-- PTP_ANNOUNCE_RX: an Announce; the grandmaster is kept, the best one selected, and the selected one's UTC offset and leap flags are taken (R45, R47, R64, R65). -/
def execPtpAnnounceRx (m : PtpAnnounce) (s : State) : Host.Outcome State Fault Refusal :=
  if ptpHears s m.port m.domain && decide (-3 ≤ m.logInterval) && decide (m.logInterval ≤ 1) && decide (m.steps < 255) then
    let g : Grandmaster := ⟨m.gmId, m.port, m.sender, m.clockClass, m.accuracy, m.variance, m.prio1, m.prio2, m.steps, m.traceable, m.ptpScale,
      if flag s R.almPtpCfg 23 then m.inaccuracy else none, if flag s R.almPtpCfg 23 then m.tlvId else none, m.logInterval, s.dev.ticks⟩
    let others := s.alm.foreign.filter (fun x => !(decide (x.sender = g.sender) && decide (x.port = g.port)))
    let s1 := selectMaster { s with alm := { s.alm with foreign := others ++ [g] } }
    let sel := match s1.alm.gm with | some x => decide (x.sender = g.sender ∧ x.port = g.port) | none => false
    if sel then
      let s2 := if m.utcValid then fldSet { s1 with alm := { s1.alm with utcValid := true, srcPtp := true } } R.almUtcOffset 15 0 (ofSigned 16 m.utcOffset) else s1
      next (leapNote s2 (if m.leap61 || m.leap59 then some m.leap59 else none) s2.alm.irigLeap)
    else next s1
  else next s

/-! ### Messages of the part (R47 to R49) -/

/-- The clockIdentity: the unit MAC widened to an EUI-64. -/
def clockId (s : State) : Nat := unitMac s / 2 ^ 24 * 2 ^ 40 + 0xFFFE * 2 ^ 24 + unitMac s % 2 ^ 24

/-- The 34-byte header of a PTP message. -/
def ptpHeader (s : State) (ty len flags : Nat) (corr : Int) (port seq ctl : Nat) (log : Int) : List Byte :=
  beBytes 1 ty ++ beBytes 1 2 ++ beBytes 2 len ++ beBytes 1 (fld s R.almPtpCfg 31 24) ++ beBytes 1 0 ++ beBytes 2 flags ++ beBytes 8 (ofSigned 64 corr)
    ++ beBytes 4 0 ++ beBytes 8 (clockId s) ++ beBytes 2 (port + 1) ++ beBytes 2 seq ++ beBytes 1 ctl ++ beBytes 1 (ofSigned 8 log)

/-- A PTP message sent on a port, untagged or tagged (R47). -/
def ptpSend (s : State) (port : Nat) (peer : Bool) (body : List Byte) : State :=
  let tci := if flag s R.almPtpCfg 15 then some (fld s R.almPtpCfg 14 12 * 2 ^ 13 + fld s R.almPtpCfg 11 0) else none
  let dst := if peer then 0x0180C200000E else 0x011B19000000
  egress s port false (pcpQueue s (fld s R.almPtpCfg 14 12)) ⟨wireFrame dst (unitMac s) tci 0x88F7 body 0 0 0, false, false⟩

/-- An Almanac instant as a PTP timestamp of 10 bytes. -/
def ptpStamp (t : Inst) : List Byte := beBytes 6 (t / secI) ++ beBytes 4 (t / nsI % 10 ^ 9)

/-- A logMinPdelayReqInterval that is accepted: from −4 to 0, or 0x7F, with which a Pdelay_Req states none (R47; PRESUMED, log entry 104). -/
def pdelayLogOk (log : Int) : Bool := decide (log = 0x7F) || (decide (-4 ≤ log) && decide (log ≤ 0))

/-- PTP_PDELAY_RX: a request is answered at once by a one-step Pdelay_Resp; a response gives the path delay of its port (R47, R49). -/
def execPtpPdelayRx (m : PtpPdelay) (s : State) : Host.Outcome State Fault Refusal :=
  match m with
  | .req port seq reqPort log turnaround =>
    if port < 6 ∧ pdelayLogOk log then
      next (ptpSend s port true (ptpHeader s 3 54 0 turnaround port seq 5 0x7F ++ beBytes 10 0 ++ beBytes 10 reqPort))
    else next s
  | .resp port _ delay => if port < 6 then next { s with alm := { s.alm with pathDelay := tset s.alm.pathDelay port delay } } else next s

/-- clockClass, clockAccuracy and timeTraceable that a boundary-clock master advertises (R48). DESIGN CHOICE (log entry 91): while locked to PPS or IRIG-B no grandmaster is known, and it advertises clockClass 248, accuracy 0xFE, not traceable; accuracy is 0xFE too wherever R48 gives the class alone. -/
def bcQuality (s : State) : Nat × Nat × Bool :=
  match s.alm.lock, (if s.alm.source = .ptp then s.alm.gm else none) with
  | .locked, some g => (g.clockClass, g.accuracy, g.traceable)
  | .locked, none => (248, 0xFE, false)
  | .holdover, _ => if s.alm.traceable then (7, 0xFE, true) else (187, 0xFE, false)
  | .disputed, _ => (187, 0xFE, false)
  | _, _ => (248, 0xFE, false)

/-- The body of an Announce (R48). -/
def announceBody (s : State) : List Byte :=
  let (c, a, _) := bcQuality s
  let (p1, p2, id, v, n) := match s.alm.gm with | some g => (g.prio1, g.prio2, g.id, g.variance, g.steps + 1) | none => (128, 128, clockId s, 0xFFFF, 0)
  ptpStamp (now s) ++ beBytes 2 (fld s R.almUtcOffset 15 0) ++ beBytes 1 0 ++ beBytes 1 p1 ++ beBytes 1 c ++ beBytes 1 a ++ beBytes 2 v ++ beBytes 1 p2
    ++ beBytes 8 id ++ beBytes 2 n ++ beBytes 1 (match s.alm.source with | .ptp => 0x40 | .pps => 0x20 | .irig => 0x30 | .internal => 0xA0)

/-- The second flag octet of an Announce. -/
def announceFlags (s : State) : Nat :=
  b2n (s.alm.leapPending && !s.alm.leapDir) + 2 * b2n (s.alm.leapPending && s.alm.leapDir) + 4 * b2n s.alm.utcValid + 8 + 16 * b2n (bcQuality s).2.2

/-- PTP_INTERVAL_SEND: kind 0 a Sync and 1 an Announce as boundary-clock master on P4 or P5, 2 a Pdelay_Req; every message is one-step (R47 to R49). -/
def execPtpIntervalSend (kind port : Nat) (s : State) : Host.Outcome State Fault Refusal :=
  let bc := (decide (port = 4) && flag s R.almPtpCfg 20) || (decide (port = 5) && flag s R.almPtpCfg 21)
  let slave := decide (port < 4) && flag s R.almPtpCfg (16 + port)
  let key := port * 4 + kind
  let seq := tget 0 s.alm.ptpSeq key
  let s1 := { s with alm := { s.alm with ptpSeq := tset s.alm.ptpSeq key ((seq + 1) % 65536) } }
  if kind = 0 ∧ bc then next (ptpSend s1 port false (ptpHeader s 0 44 0 0 port seq 0 0 ++ ptpStamp (eventInst s)))
  else if kind = 1 ∧ bc then next (ptpSend s1 port false (ptpHeader s 11 64 (announceFlags s) 0 port seq 5 0 ++ announceBody s))
  else if kind = 2 ∧ (bc ∨ slave) then next (ptpSend s1 port true (ptpHeader s 2 54 0 0 port seq 5 0x7F ++ ptpStamp (now s) ++ beBytes 10 0))
  else next s

/-! ### The transparent clock (R50 to R52) -/

/-- Where the PTP message begins in a frame: after a VLAN tag and an HSR tag if there are any (R394, R396). -/
def ptpAt (f : List Byte) : Nat := (frameHead f).body

/-- A frame with a correction added to its correctionField. -/
def addCorrection (f : List Byte) (c : Int) : List Byte :=
  let o := ptpAt f + 8
  patch f o (beBytes 8 (ofSigned 64 (toSigned 64 (fieldBE f o 8) + c)))

/-- The queue of a forwarded frame: by its tag, else by the default PCP of the port it came in on. -/
def frameQueue (s : State) (f : List Byte) (ingress : Nat) : Nat :=
  pcpQueue s (if fieldBE f 12 2 = 0x8100 then fieldBE f 14 2 / 2 ^ 13 else fld s (R.belPCfg ingress) 26 24)

/-- TC_EVENT_FORWARD: an event message crosses the switch (R50 to R52). Sync gains the path delay of its ingress port; the residence time is added to a one-step message at once, and for a two-step Sync is recorded for its Follow_Up. Delay_Req is not corrected; peer-delay messages do not cross (R387). -/
def execTcEventForward (frame : List Byte) (ingress egress_ : Nat) (residence : Int) (s : State) : Host.Outcome State Fault Refusal :=
  let o := ptpAt frame
  let ty := fieldBE frame o 1 % 16
  let two := bitOf (fieldBE frame (o + 6) 1) 1
  let delay := tget 0 s.alm.pathDelay ingress
  if 6 ≤ ingress ∨ 6 ≤ egress_ ∨ 1 < ty then next s
  else
    let corr : Int := if ty = 0 then (if two then delay else delay + residence) else 0
    let f := addCorrection frame corr
    let ent : TcEntry := ⟨fieldBE frame (o + 4) 1, fieldBE frame (o + 20) 10, fieldBE frame (o + 30) 2, egress_, residence, s.dev.ticks⟩
    let s1 := if ty = 0 ∧ two then
        let t := if s.alm.tc.length < 64 then s.alm.tc else s.alm.tc.drop 1
        let s0 := { s with alm := { s.alm with tc := t ++ [ent] } }
        if s.alm.tc.length < 64 then s0 else bumpFld s0 R.almTcCnt 31 16
      else s
    next (egress s1 egress_ false (frameQueue s frame ingress) ⟨f, false, false⟩)

/-- Whether a frame is the two-step Sync of a domain, source port and sequence (R51). -/
def isSyncOf (domain port seq : Nat) (f : List Byte) : Bool :=
  let o := ptpAt f
  decide ((frameHead f).etype = 0x88F7) && decide (fieldBE f o 1 % 16 = 0) && bitOf (fieldBE f (o + 6) 1) 1
    && decide (fieldBE f (o + 4) 1 = domain) && decide (fieldBE f (o + 20) 10 = port) && decide (fieldBE f (o + 30) 2 = seq)

/-- The queue of a port in which a Sync still waits. -/
def syncQueue (s : State) (n domain src seq : Nat) : Option Nat :=
  (List.range 4).find? (fun q => ((port s n).qs.getD q []).any (fun f => isSyncOf domain src seq f.bytes))

/-- TC_FOLLOW_UP_FORWARD: a Follow_Up reaches an egress port: the recorded residence time is added and its entry freed, or it goes on unchanged (R51). While its Sync still waits on that port it takes the Sync's queue behind it, whatever its own tag says, so it cannot overtake it (R52). -/
def execTcFollowUpForward (frame : List Byte) (ingress egress_ : Nat) (s : State) : Host.Outcome State Fault Refusal :=
  let o := ptpAt frame
  let hit (x : TcEntry) : Bool :=
    decide (x.domain = fieldBE frame (o + 4) 1) && decide (x.portId = fieldBE frame (o + 20) 10) && decide (x.seq = fieldBE frame (o + 30) 2) && decide (x.egress = egress_)
  if 6 ≤ egress_ then next s
  else
    let q := (syncQueue s egress_ (fieldBE frame (o + 4) 1) (fieldBE frame (o + 20) 10) (fieldBE frame (o + 30) 2)).getD (frameQueue s frame ingress)
    match s.alm.tc.find? hit with
    | some x => next (egress { s with alm := { s.alm with tc := s.alm.tc.erase x } } egress_ false q ⟨addCorrection frame x.residence, false, false⟩)
    | none => next (egress (bumpFld s R.almTcCnt 15 0) egress_ false q ⟨frame, false, false⟩)

/-- TC_ENTRY_EXPIRY: entries unmatched for 100 ms are freed (R51). -/
def execTcEntryExpiry (s : State) : Host.Outcome State Fault Refusal :=
  next { s with alm := { s.alm with tc := s.alm.tc.filter (fun x => !elapsed s x.since (100 * msT)) } }

end Sys2Proof.Machine
end

