-- ==== Sys2Proof/Machine/Dispatch.lean ====
section
/-! DEFINITION. One arm per constructor: each command calls its meaning. -/

namespace Sys2Proof.Machine

/-- The effect of a command on everything but the queue. -/
def exec (i : Instr) (s : State) : Host.Outcome State Fault Refusal :=
  match i with
  | .nop e => Sys2Proof.Machine.execNop e s
  | .identify e => Sys2Proof.Machine.execIdentify e s
  | .modeSet e => Sys2Proof.Machine.execModeSet e s
  | .ringCreate e => Sys2Proof.Machine.execRingCreate e s
  | .ringDestroy e => Sys2Proof.Machine.execRingDestroy e s
  | .imageLoad e => Sys2Proof.Machine.execImageLoad e s
  | .imageCommit e => Sys2Proof.Machine.execImageCommit e s
  | .attest e => Sys2Proof.Machine.execAttest e s
  | .debugUnlock e => Sys2Proof.Machine.execDebugUnlock e s
  | .timeRestep e => Sys2Proof.Machine.execTimeRestep e s
  | .schedAdd e => Sys2Proof.Machine.execSchedAdd e s
  | .schedCancel e => Sys2Proof.Machine.execSchedCancel e s
  | .afeSnap e => Sys2Proof.Machine.execAfeSnap e s
  | .afeCal e => Sys2Proof.Machine.execAfeCal e s
  | .bayStart e => Sys2Proof.Machine.execBayStart e s
  | .bayStop e => Sys2Proof.Machine.execBayStop e s
  | .groupSelect e => Sys2Proof.Machine.execGroupSelect e s
  | .bayStateRead e => Sys2Proof.Machine.execBayStateRead e s
  | .targetReset e => Sys2Proof.Machine.execTargetReset e s
  | .cellSplit e => Sys2Proof.Machine.execCellSplit e s
  | .cellJoin e => Sys2Proof.Machine.execCellJoin e s
  | .cellMigrate e => Sys2Proof.Machine.execCellMigrate e s
  | .selftest e => Sys2Proof.Machine.execSelftest e s
  | .recForce e => Sys2Proof.Machine.execRecForce e s
  | .recFetch e => Sys2Proof.Machine.execRecFetch e s
  | .recRelease e => Sys2Proof.Machine.execRecRelease e s
  | .histSnapshot e => Sys2Proof.Machine.execHistSnapshot e s
  | .mirRole e => Sys2Proof.Machine.execMirRole e s
  | .mirSync e => Sys2Proof.Machine.execMirSync e s
  | .metIntervalPost e => Sys2Proof.Machine.execMetIntervalPost e s
  | .metRead e => Sys2Proof.Machine.execMetRead e s
  | .belTestPublish e => Sys2Proof.Machine.execBelTestPublish e s
  | .cmdDoorbell ring value => Sys2Proof.Machine.execCmdDoorbell ring value s
  | .headDoorbell ring value => Sys2Proof.Machine.execHeadDoorbell ring value s
  | .commandFetch err => Sys2Proof.Machine.execCommandFetch err s
  | .dmaCompletionTimeout r => Sys2Proof.Machine.execDmaCompletionTimeout r s
  | .msixModerationExpiry ring => Sys2Proof.Machine.execMsixModerationExpiry ring s
  | .msixVectorUnmask vec => Sys2Proof.Machine.execMsixVectorUnmask vec s
  | .dportRead len enabled => Sys2Proof.Machine.execDportRead len enabled s
  | .dportWrite data enabled => Sys2Proof.Machine.execDportWrite data enabled s
  | .dportUnderrun len => Sys2Proof.Machine.execDportUnderrun len s
  | .dpcAddrWrite hi value => Sys2Proof.Machine.execDpcAddrWrite hi value s
  | .registerWrite addr data be => Sys2Proof.Machine.execRegisterWrite addr data be s
  | .almPreset => Sys2Proof.Machine.execAlmPreset s
  | .almSnap => Sys2Proof.Machine.execAlmSnap s
  | .rotNow => Sys2Proof.Machine.execRotNow s
  | .fltSyncReset ch => Sys2Proof.Machine.execFltSyncReset ch s
  | .fltSwapRequest ch s3 s4 => Sys2Proof.Machine.execFltSwapRequest ch s3 s4 s
  | .adminEn => Sys2Proof.Machine.execAdminEn s
  | .adminReset => Sys2Proof.Machine.execAdminReset s
  | .cupRearm bay => Sys2Proof.Machine.execCupRearm bay s
  | .lksDbgAttach cell => Sys2Proof.Machine.execLksDbgAttach cell s
  | .lksDbgDetach => Sys2Proof.Machine.execLksDbgDetach s
  | .otpProgGo => Sys2Proof.Machine.execOtpProgGo s
  | .otpProgDone readback => Sys2Proof.Machine.execOtpProgDone readback s
  | .dtoEnWrite value => Sys2Proof.Machine.execDtoEnWrite value s
  | .dtoEnEffect => Sys2Proof.Machine.execDtoEnEffect s
  | .afeCfgEffect => Sys2Proof.Machine.execAfeCfgEffect s
  | .fastPathStop => Sys2Proof.Machine.execFastPathStop s
  | .powerGood => Sys2Proof.Machine.execPowerGood s
  | .bootStageVerified otpOk flashOk => Sys2Proof.Machine.execBootStageVerified otpOk flashOk s
  | .dramTrainingDone good eightGib => Sys2Proof.Machine.execDramTrainingDone good eightGib s
  | .resetNAssert => Sys2Proof.Machine.execResetNAssert s
  | .pwrFailAssert => Sys2Proof.Machine.execPwrFailAssert s
  | .protHoldEnd => Sys2Proof.Machine.execProtHoldEnd s
  | .dyingBlockWritten durUs energy => Sys2Proof.Machine.execDyingBlockWritten durUs energy s
  | .pwrFailRelease => Sys2Proof.Machine.execPwrFailRelease s
  | .railFault rail => Sys2Proof.Machine.execRailFault rail s
  | .pllLockLoss => Sys2Proof.Machine.execPllLockLoss s
  | .d2dFailure => Sys2Proof.Machine.execD2dFailure s
  | .thermalSafe sensor temp => Sys2Proof.Machine.execThermalSafe sensor temp s
  | .thermalShutdown sensor temp => Sys2Proof.Machine.execThermalShutdown sensor temp s
  | .thermalShutdownRelease temps => Sys2Proof.Machine.execThermalShutdownRelease temps s
  | .thermalThrottle sensor temp => Sys2Proof.Machine.execThermalThrottle sensor temp s
  | .thermalRelease temps => Sys2Proof.Machine.execThermalRelease temps s
  | .dramCeHigh count => Sys2Proof.Machine.execDramCeHigh count s
  | .dramCeHourEnd count => Sys2Proof.Machine.execDramCeHourEnd count s
  | .pcieFlr => Sys2Proof.Machine.execPcieFlr s
  | .perstAssert linkDown => Sys2Proof.Machine.execPerstAssert linkDown s
  | .almanacStep sec ns cause => Sys2Proof.Machine.execAlmanacStep sec ns cause s
  | .ptpSyncRx m => Sys2Proof.Machine.execPtpSyncRx m s
  | .ptpAnnounceRx m => Sys2Proof.Machine.execPtpAnnounceRx m s
  | .ptpPdelayRx m => Sys2Proof.Machine.execPtpPdelayRx m s
  | .tcEventForward frame ingress egress_ residence => Sys2Proof.Machine.execTcEventForward frame ingress egress_ residence s
  | .tcFollowUpForward frame ingress egress_ => Sys2Proof.Machine.execTcFollowUpForward frame ingress egress_ s
  | .tcEntryExpiry => Sys2Proof.Machine.execTcEntryExpiry s
  | .ppsInEdge => Sys2Proof.Machine.execPpsInEdge s
  | .irigbFrame f => Sys2Proof.Machine.execIrigbFrame f s
  | .sourceLost src => Sys2Proof.Machine.execSourceLost src s
  | .disputeHoldExpiry => Sys2Proof.Machine.execDisputeHoldExpiry s
  | .restepReady => Sys2Proof.Machine.execRestepReady s
  | .restepLanding => Sys2Proof.Machine.execRestepLanding s
  | .presetLanding => Sys2Proof.Machine.execPresetLanding s
  | .holdoverTraceLoss => Sys2Proof.Machine.execHoldoverTraceLoss s
  | .leapApply => Sys2Proof.Machine.execLeapApply s
  | .ppsOutPulse => Sys2Proof.Machine.execPpsOutPulse s
  | .schedExecute => Sys2Proof.Machine.execSchedExecute s
  | .sampleSyncEdge rising at_ => Sys2Proof.Machine.execSampleSyncEdge rising at_ s
  | .latchedConversionStart => Sys2Proof.Machine.execLatchedConversionStart s
  | .syncLost => Sys2Proof.Machine.execSyncLost s
  | .syncRestored => Sys2Proof.Machine.execSyncRestored s
  | .syncRateCheck => Sys2Proof.Machine.execSyncRateCheck s
  | .conversionComplete ch at_ code selfOk => Sys2Proof.Machine.execConversionComplete ch at_ code selfOk s
  | .snapshotTake => Sys2Proof.Machine.execSnapshotTake s
  | .snapshotResult codes => Sys2Proof.Machine.execSnapshotResult codes s
  | .displacedConversion ch => Sys2Proof.Machine.execDisplacedConversion ch s
  | .spareStepDue => Sys2Proof.Machine.execSpareStepDue s
  | .sparePhaseDone mismatch calOk gain ofs skew => Sys2Proof.Machine.execSparePhaseDone mismatch calOk gain ofs skew s
  | .afeCalDone => Sys2Proof.Machine.execAfeCalDone s
  | .refFault group => Sys2Proof.Machine.execRefFault group s
  | .refRestored group => Sys2Proof.Machine.execRefRestored group s
  | .metBoundary trk m => Sys2Proof.Machine.execMetBoundary trk m s
  | .metNegCrossing trk => Sys2Proof.Machine.execMetNegCrossing trk s
  | .trkFreeRunBoundary trk m => Sys2Proof.Machine.execTrkFreeRunBoundary trk m s
  | .metCycleBlock trk => Sys2Proof.Machine.execMetCycleBlock trk s
  | .metIntervalClose bay => Sys2Proof.Machine.execMetIntervalClose bay s
  | .postMissing bay => Sys2Proof.Machine.execPostMissing bay s
  | .filterOutput ch => Sys2Proof.Machine.execFilterOutput ch s
  | .fadeStart ch s4 => Sys2Proof.Machine.execFadeStart ch s4 s
  | .svFrameRx f => Sys2Proof.Machine.execSvFrameRx f s
  | .svReorderExpiry stream => Sys2Proof.Machine.execSvReorderExpiry stream s
  | .svDeadlineExpiry stream => Sys2Proof.Machine.execSvDeadlineExpiry stream s
  | .ddEntryForget => Sys2Proof.Machine.execDdEntryForget s
  | .svPublishFrame stream => Sys2Proof.Machine.execSvPublishFrame stream s
  | .bayTaskStart bay ce => Sys2Proof.Machine.execBayTaskStart bay ce s
  | .taskWatchdog bay => Sys2Proof.Machine.execTaskWatchdog bay s
  | .earlyWindowClose bay w => Sys2Proof.Machine.execEarlyWindowClose bay w s
  | .windowClose bay w => Sys2Proof.Machine.execWindowClose bay w s
  | .resyncCheckDone group pos ok => Sys2Proof.Machine.execResyncCheckDone group pos ok s
  | .dtoDemandFall pin => Sys2Proof.Machine.execDtoDemandFall pin s
  | .dtoFault pin => Sys2Proof.Machine.execDtoFault pin s
  | .migrationPrecopyDone => Sys2Proof.Machine.execMigrationPrecopyDone s
  | .migrationRedirect => Sys2Proof.Machine.execMigrationRedirect s
  | .rotationStepDue => Sys2Proof.Machine.execRotationStepDue s
  | .logicSelftestDone group failMask pathsOk => Sys2Proof.Machine.execLogicSelftestDone group failMask pathsOk s
  | .eccUncorrectable cluster offset met => Sys2Proof.Machine.execEccUncorrectable cluster offset met s
  | .eccHourEnd => Sys2Proof.Machine.execEccHourEnd s
  | .bridgeUncorrectable island sample => Sys2Proof.Machine.execBridgeUncorrectable island sample s
  | .modeSetEffect => Sys2Proof.Machine.execModeSetEffect s
  | .imageApply => Sys2Proof.Machine.execImageApply s
  | .bayStartEffect bay => Sys2Proof.Machine.execBayStartEffect bay s
  | .bayStopEffect bay => Sys2Proof.Machine.execBayStopEffect bay s
  | .groupSwitchEffect bay => Sys2Proof.Machine.execGroupSwitchEffect bay s
  | .targetResetEffect bay => Sys2Proof.Machine.execTargetResetEffect bay s
  | .cellFormChange grp ok => Sys2Proof.Machine.execCellFormChange grp ok s
  | .debugAttachEffect ok => Sys2Proof.Machine.execDebugAttachEffect ok s
  | .binAccept input level sec m => Sys2Proof.Machine.execBinAccept input level sec m s
  | .binChatterRelease input changes => Sys2Proof.Machine.execBinChatterRelease input changes s
  | .recordLine bay => Sys2Proof.Machine.execRecordLine bay s
  | .recordT0Refined bay => Sys2Proof.Machine.execRecordT0Refined bay s
  | .recordPostEnd bay => Sys2Proof.Machine.execRecordPostEnd bay s
  | .recordSealed bay => Sys2Proof.Machine.execRecordSealed bay s
  | .recordTailEnd num => Sys2Proof.Machine.execRecordTailEnd num s
  | .autoTrigger bay => Sys2Proof.Machine.execAutoTrigger bay s
  | .indexFlashCopy => Sys2Proof.Machine.execIndexFlashCopy s
  | .ethFrameRx port frame fcsOk => Sys2Proof.Machine.execEthFrameRx port frame fcsOk s
  | .belfryFrameRx payload => Sys2Proof.Machine.execBelfryFrameRx payload s
  | .gooseFrameRx f => Sys2Proof.Machine.execGooseFrameRx f s
  | .gooseTalExpiry sub => Sys2Proof.Machine.execGooseTalExpiry sub s
  | .gooseRetransmit block => Sys2Proof.Machine.execGooseRetransmit block s
  | .beaconSend => Sys2Proof.Machine.execBeaconSend s
  | .linkStateChange port up speed => Sys2Proof.Machine.execLinkStateChange port up speed s
  | .lanFaultTimeout pair => Sys2Proof.Machine.execLanFaultTimeout pair s
  | .prpSupervisionSend => Sys2Proof.Machine.execPrpSupervisionSend s
  | .macAgeOut => Sys2Proof.Machine.execMacAgeOut s
  | .heartbeatSend => Sys2Proof.Machine.execHeartbeatSend s
  | .heartbeatRx h b => Sys2Proof.Machine.execHeartbeatRx h b s
  | .samplesRx h m => Sys2Proof.Machine.execSamplesRx h m s
  | .mirrorDeadline => Sys2Proof.Machine.execMirrorDeadline s
  | .eventRx h es => Sys2Proof.Machine.execEventRx h es s
  | .snapshotSend => Sys2Proof.Machine.execSnapshotSend s
  | .snapshotPartRx h part count data => Sys2Proof.Machine.execSnapshotPartRx h part count data s
  | .snapshotTimeout => Sys2Proof.Machine.execSnapshotTimeout s
  | .laneDownTimeout lane => Sys2Proof.Machine.execLaneDownTimeout lane s
  | .fullResyncStart => Sys2Proof.Machine.execFullResyncStart s
  | .bayResyncStep => Sys2Proof.Machine.execBayResyncStep s
  | .baystateRx h bay part count copy => Sys2Proof.Machine.execBaystateRx h bay part count copy s
  | .bayResyncTimeout bay => Sys2Proof.Machine.execBayResyncTimeout bay s
  | .partnerLoss => Sys2Proof.Machine.execPartnerLoss s
  | .takeoverEffect => Sys2Proof.Machine.execTakeoverEffect s
  | .revertHoldoffExpiry => Sys2Proof.Machine.execRevertHoldoffExpiry s
  | .quietInstant => Sys2Proof.Machine.execQuietInstant s
  | .handoverEffect => Sys2Proof.Machine.execHandoverEffect s
  | .contentionEffect => Sys2Proof.Machine.execContentionEffect s
  | .logCheckpoint => Sys2Proof.Machine.execLogCheckpoint s
  | .svtEntryTimeout => Sys2Proof.Machine.execSvtEntryTimeout s
  | .tokenLockExpiry => Sys2Proof.Machine.execTokenLockExpiry s
  | .debugGrantExpiry => Sys2Proof.Machine.execDebugGrantExpiry s
  | .challengeExpiry => Sys2Proof.Machine.execChallengeExpiry s
  | .ptpIntervalSend kind port => Sys2Proof.Machine.execPtpIntervalSend kind port s
  | .scrubCorrected cluster bank => Sys2Proof.Machine.execScrubCorrected cluster bank s
  | .imageLoadDone flashOk => Sys2Proof.Machine.execImageLoadDone flashOk s
  | .selftestDone faults cells => Sys2Proof.Machine.execSelftestDone faults cells s
  | .recFetchDone => Sys2Proof.Machine.execRecFetchDone s
  | .thermalMarginClear => Sys2Proof.Machine.execThermalMarginClear s
  | .handoverTimeout => Sys2Proof.Machine.execHandoverTimeout s
  | .mirRoleQuietTimeout => Sys2Proof.Machine.execMirRoleQuietTimeout s
  | .mirFrameTimeout lane => Sys2Proof.Machine.execMirFrameTimeout lane s
  | .bayResyncRetry bay => Sys2Proof.Machine.execBayResyncRetry bay s
  | .pcieLinkUp => Sys2Proof.Machine.execPcieLinkUp s
  | .pciePowerStateChange d3hot => Sys2Proof.Machine.execPciePowerStateChange d3hot s

end Sys2Proof.Machine
end

