-- ==== Sys2Proof/Safety.lean ====
section
/-! DEFINITION. What counts as a safe run, the invariant of every step, what no step may ever do, and the conditions on states that claims use. -/

namespace Sys2Proof.Machine

/-- A step that goes on: neither a fault nor a refusal. -/
def goesOn (o : Host.Outcome State Fault Refusal) : Prop := ∃ t, o = .next t

/-- A run of `n` steps none of which stops. -/
def safeFor : Nat → State → Prop
  | 0, _ => True
  | n + 1, s => ∃ t, step s = .next t ∧ safeFor n t

/-- Every stop of a step is a refusal or a fault named in State.lean; a safe state is one from which every number of steps goes on. -/
def Safe (s : State) : Prop := ∀ n, safeFor n s

/-- The keys of a table from `lo` on rise strictly: equal tables are equal data. -/
def keysFrom {α : Type} (lo : Nat) : Tab α → Bool
  | [] => true
  | (j, _) :: t => decide (lo ≤ j) && keysFrom (j + 1) t

/-- An increment within 1.25 ns ± 300 ppm (R37), in units of 2^-48 ns. -/
def rateOk (inc : Nat) : Prop := incNominal - incNominal * 300 / 10 ^ 6 ≤ inc ∧ inc ≤ incNominal + incNominal * 300 / 10 ^ 6

/-- The invariant of the machine: host memory in its canonical form, the stored registers in ascending order of address, the Almanac counter within its fields (R11, R37), its increment within 300 ppm of nominal with what it may return to (R37), and at most 256 events held (R501). -/
structure Inv (s : State) : Prop where
  mem : Memory.wf s.hostMem = true
  regs : keysFrom 0 s.regs = true
  ns : s.alm.ns < 10 ^ 9
  frac : s.alm.frac < 2 ^ 48
  inc : rateOk s.alm.inc
  incBase : rateOk s.alm.incBase
  hist : ∀ p ∈ s.alm.rateHist, rateOk p.2
  held : s.hif.held.length ≤ 256

/-- What holds between a state and every later one: the ordering code is the same (R2), the token serial has not gone back (R532), and no revoked key slot has come back (R525, R526). -/
structure Lasting (s t : State) : Prop where
  part : t.dev.part7264 = s.dev.part7264
  serial : s.flash.serial ≤ t.flash.serial
  revoked : ∀ i, s.otp.revoked.testBit i = true → t.otp.revoked.testBit i = true

/-! ### Commands as R491 takes them -/

/-- The command as it is in flight once accepted (R491): its number, ring, index, opcode, tag, completion ring and acceptance ATT. -/
def flightOf (s : State) (op : Nat) (e : CmdEntry) (i : Nat) : InFlight := ⟨s.hif.nextCid, e.ring, e.idx, op, e.tag, i, attNow s⟩

/-- The state in which the owning rule of a command runs (R491): a slot of completion ring `i` reserved and the command in flight. -/
def accepted (s : State) (op : Nat) (e : CmdEntry) (i : Nat) : State := (reserve s op e i).1

/-- A command's entry that passes steps 1, 2 and 4 of R491: `i` is the CPL ring it names, that ring has a slot to reserve, and every rsvd byte is 0. -/
structure Taken (s : State) (e : CmdEntry) (used : List (Nat × Nat)) (i : Nat) : Prop where
  ring : cplRingOf s e = some (i, true)
  ready : cmdReady s e = true
  zero : rsvdZero e used = true

/-- The completion with OK of a command accepted in `s`, written in `t` (R492). -/
def okCpl (s t : State) (op : Nat) (e : CmdEntry) (i : Nat) (res : Att) (fields : List Byte) : State :=
  writeCpl t (flightOf s op e i) stOk res (attNow s) fields

/-- The completion of a command that is not accepted (R492): no acceptance ATT. -/
def badCpl (s t : State) (op : Nat) (e : CmdEntry) (i : Nat) (status : Nat) : State :=
  writeCpl t (flightOf s op e i) status Att.zero Att.zero []

/-! ### Host memory and rings -/

/-- The 64 bytes of an entry written to a part-to-host ring: bytes 0 to 62, then the phase bit in byte 63, bit 7 (R487). -/
def slotBytes (r : HostRing) (ent : List Byte) : List Byte := slice ent 0 63 ++ [if r.phase then 0x80 else 0x00]

/-- `t` is `s` after one entry written to ring `i`, which was `r`: its 64 bytes at the part's index and no other byte of host memory, the index moved on by 1 with the phase turned at the wrap, one more entry for the head to release; nothing outside the host island and host memory is changed. -/
structure PutEntry (s t : State) (i : Nat) (r : HostRing) (ent : List Byte) : Prop where
  mem : t.hostMem = memWriteBytes s.hostMem (r.base + 64 * r.part) (slotBytes r ent)
  ring : ∃ r', tget? t.hif.rings i = some r' ∧ r'.part = (r.part + 1) % r.size ∧ r'.phase = (if (r.part + 1) % r.size = 0 then !r.phase else r.phase) ∧ r'.used = r.used + 1
  rest : t = { s with hif := t.hif, hostMem := t.hostMem }

/-- Every byte of host memory outside `n` bytes at `a` reads as before. -/
def bytesKept (s t : State) (a n : Nat) : Prop := ∀ x, x < a ∨ a + n ≤ x → memRead t.hostMem x = memRead s.hostMem x

/-- `t` is in BOOT with every island at its reset value, and keeps of `s` what outlives a reset: OTP, the ordering code, host memory, the tick count and the queue (R27, R565). -/
structure AtBoot (s t : State) : Prop where
  mode : t.dev.mode = .boot
  bays : t.bays = []
  scheme : t.scheme = none
  regs : t.regs = []
  alm : t.alm = Alm.reset
  rings : t.hif.rings = []
  otp : t.otp = s.otp
  part : t.dev.part7264 = s.dev.part7264
  mem : t.hostMem = s.hostMem
  ticks : t.dev.ticks = s.dev.ticks
  queue : t.pending = s.pending

end Sys2Proof.Machine
end

