-- ==== Sys2Proof/Certificates/Slice0/Obligations.lean ====
section
/-! DEFINITION. The statements for the provers. Every host command is stated from `Taken`, what R491 asks of an entry; hypotheses are on the state and the operands alone. -/

open Sys2Proof Sys2Proof.Machine

/-- For every command c, queue rest and state s, a step of s with c in front of rest is exec of c on s with rest as its queue: the one way a command of the queue takes effect. (R491) -/
def Obligations.StepRunsFrontCommand : Prop :=
  ∀ (c : Instr) (rest : List Instr) (s : State), step { s with pending := c :: rest } = exec c { s with pending := rest }

/-- With an empty queue a step goes on as one of the five phases of the 800 MHz clock's tick (that an idle step is a fifth of a tick is the model's choice of log entry 1; the phases are R38's). In phases 0 to 3 only the phase changes. In phase 4 the tick count rises by 1, the phase returns to 0, the queue stays empty, and the counter, read as one number in units of 2^-48 ns, has gained exactly INC, its nanoseconds below 10^9 and its fraction below 2^48. (R37, R38) -/
def Obligations.EmptyQueueTicksTheClock : Prop :=
  ∀ s : State, s.pending = [] →
    (s.dev.phase < 4 → step s = .next { s with dev := { s.dev with phase := s.dev.phase + 1 } }) ∧
    (4 ≤ s.dev.phase → ∃ t, step s = .next t ∧ t.dev.ticks = s.dev.ticks + 1 ∧ t.dev.phase = 0 ∧ t.pending = [] ∧ t.alm.ns < 10 ^ 9 ∧ t.alm.frac < 2 ^ 48 ∧
      (t.alm.sec * 10 ^ 9 + t.alm.ns) * 2 ^ 48 + t.alm.frac = (s.alm.sec * 10 ^ 9 + s.alm.ns) * 2 ^ 48 + s.alm.frac + s.alm.inc)

/-- For every state, entry and completion ring r = ring i with the link up and the entry passing R491: NOP and IDENTIFY answer a next state in which exactly the 64 bytes of r's next slot hold the completion entry with status OK (IDENTIFY's with part number, stepping 0xA1, mode, unit ID, library version, bays and cells) and the phase bit, r's index has moved on by one, and nothing outside the host island and host memory has changed. (R500, R492, R487, R491) -/
def Obligations.NopAndIdentifyWriteOneEntry : Prop :=
  ∀ (s : State) (e : CmdEntry) (i : Nat) (r : HostRing), tget? s.hif.rings i = some r → linkOk s = true →
    (Taken s e usedNop i → ∃ t, exec (.nop e) s = .next t ∧ PutEntry s t i r (cplBytes (flightOf s 0x01 e i) stOk Att.zero (attNow s) [])) ∧
    (Taken s e usedIdentify i → ∃ t, exec (.identify e) s = .next t ∧ PutEntry s t i r (cplBytes (flightOf s 0x02 e i) stOk Att.zero (attNow s)
      (leBytes 2 (if s.dev.part7264 then 0x7264 else 0x7296) ++ leBytes 1 0xA1 ++ leBytes 1 s.dev.mode.code ++ leBytes 4 s.otp.unitId ++ leBytes 4 s.sec.libVer
        ++ leBytes 2 (nBays s) ++ leBytes 2 (nCells s))))

/-- For every state whose host memory has its canonical form, with the link up, an entry written to a created ring reads back as its first 63 bytes followed by the phase bit in byte 63, bit 7, at the part's slot; every other byte of host memory reads as before; the part's index moves on by one modulo the ring's size, and the phase turns when it wraps. (R487, R488) -/
def Obligations.RingEntryCarriesPhaseBit : Prop :=
  ∀ (s : State) (i : Nat) (r : HostRing) (ent : List Byte), tget? s.hif.rings i = some r → linkOk s = true → s.hostMem.wf = true →
    memReadBytes (ringPut s i ent).hostMem (r.base + 64 * r.part) 64 = slice ent 0 63 ++ [if r.phase then 0x80 else 0x00] ∧
    bytesKept s (ringPut s i ent) (r.base + 64 * r.part) 64 ∧
    ∃ r', tget? (ringPut s i ent).hif.rings i = some r' ∧ r'.part = (r.part + 1) % 2 ^ r.n ∧ (r'.phase = r.phase ↔ (r.part + 1) % 2 ^ r.n ≠ 0)

/-- For every opcode of the command table, entry and state in which a completion ring i with a free slot is settled: when the entry does not name a CPL ring (i is then the CMD ring's default) or a rsvd byte is not 0, the command completes with BAD_PARAM and no acceptance ATT, whatever its rule; a command of unknown opcode that names its ring rightly completes with BAD_OPCODE. Nothing but the completion is done. (R491, R3) -/
def Obligations.CommandChecksRefuse : Prop :=
  ∀ (s : State) (op : Nat) (e : CmdEntry) (i : Nat) (named : Bool), cplRingOf s e = some (i, named) → cmdReady s e = true →
    (∀ c, cmdRule op = some c → named = false ∨ rsvdZero e c.used = false → takeCommand op e s = badCpl s (accepted s op e i) op e i stBadParam) ∧
    (cmdRule op = none → takeCommand op e s = badCpl s (accepted s op e i) op e i (if named then stBadOpcode else stBadParam))

/-- RING_CREATE of a free number 2 to 127 with every field in its range (ringOf gives the ring, with doorbell and part index 0 and phase 1) puts that ring in place and completes with OK, reporting the number; for a CMD, CPL, REC or SVT ring that is all it does; a LOG ring is then filled from the hold, and an EVT ring is offered the held events it takes, and a HOST_RESET that is due (R501). RING_DESTROY of a created ring 2 to 127 that is not in use, and neither the command's own nor its completion's, removes it and completes with OK. (R495, R496, R484, R501) -/
def Obligations.RingCreateAndDestroyComplete : Prop :=
  ∀ (s : State) (e : CmdEntry) (i k : Nat) (r : HostRing), field e.params 0 1 = k → 2 ≤ k → k ≤ 127 →
    (Taken s e usedRingCreate i → tget? s.hif.rings k = none → ringOf (accepted s 0x04 e i) e.params = some r →
      exec (.ringCreate e) s = .next (okCpl s (ringReady (accepted s 0x04 e i) k r) 0x04 e i Att.zero (leBytes 1 k)) ∧
      r.host = 0 ∧ r.part = 0 ∧ r.phase = true ∧
      (r.kind ≠ .evt → r.kind ≠ .log → ringReady (accepted s 0x04 e i) k r =
        { accepted s 0x04 e i with hif := { (accepted s 0x04 e i).hif with
            rings := tset (accepted s 0x04 e i).hif.rings k r, doorbells := tset (accepted s 0x04 e i).hif.doorbells k 0 } }) ∧
      (∀ u v : State, u = { accepted s 0x04 e i with hif := { (accepted s 0x04 e i).hif with
          rings := tset (accepted s 0x04 e i).hif.rings k r, doorbells := tset (accepted s 0x04 e i).hif.doorbells k 0 } } →
        (r.kind = .log → ringReady (accepted s 0x04 e i) k r = logRoom u) ∧
        (r.kind = .evt → v = redeliver { u with hif := { u.hif with gone := u.hif.gone - Nat.land u.hif.gone r.mask } } →
          ringReady (accepted s 0x04 e i) k r = if v.hif.hostResetDue then raise 0x0D06 { v with hif := { v.hif with hostResetDue := false } } else v))) ∧
    (Taken s e usedRingDestroy i → tget? (accepted s 0x05 e i).hif.rings k = some r → k ≠ e.ring → k ≠ i → (∀ f ∈ s.hif.inflight, f.cid ≠ s.hif.nextCid) →
      ringBusy (accepted s 0x05 e i) s.hif.nextCid k r = false →
      ∃ u, exec (.ringDestroy e) s = .next (okCpl s u 0x05 e i Att.zero []) ∧ u.hif.rings = terase (accepted s 0x05 e i).hif.rings k ∧
        u = { accepted s 0x05 e i with hif := u.hif })

/-- PCIE_FLR answers a next state. When it reaches the part (the part runs and the link is up) every ring, every command in flight or waiting and the doorbells are gone; the mode and all of the device, the bays, the sampled-value, GOOSE and Belfry publications and every other part of the state but the host island's ring state and the nine host-island registers that go back to reset are unchanged. Otherwise nothing changes. (R32) -/
def Obligations.FlrResetsRingStateOnly : Prop :=
  ∀ s : State,
    (hostReach s = true → ∃ t, exec .pcieFlr s = .next t ∧
      t.hif = { s.hif with rings := [], inflight := [], waiting := [], lastServed := 127, doorbells := [], gone := 0, hostResetDue := true } ∧
      t.dev = s.dev ∧ t.bays = s.bays ∧ t.bel = s.bel ∧ t.svi = s.svi ∧ t = { s with hif := t.hif, regs := t.regs } ∧
      (∀ a, a ∉ [R.hifCtl, R.hifAdminCfg, R.hifAdminCmdLo, R.hifAdminCmdHi, R.hifAdminCplLo, R.hifAdminCplHi, R.hifRingSel, R.dpcAddrLo, R.dpcAddrHi, R.hifStat] →
        regGet t a = regGet s a)) ∧
    (hostReach s = false → exec .pcieFlr s = .next s)

/-- With the part reached by the host: ADMIN_EN with neither ring 0 nor ring 1 created creates rings 0 (CMD, default completion ring 1) and 1 (CPL) at the bases, sizes and vector of the admin registers and sets admin_en, and with ring 0 created changes nothing; ADMIN_RESET leaves no ring, nothing in flight or waiting, and admin_en clear, as a function-level reset does. A part that the host does not reach ignores both. PERST_ASSERT takes the link away and keeps the ring state; PCIE_LINK_UP on a part that runs brings it back, in D0, with no ring left; with the link up it changes nothing. PCIE_POWER_STATE_CHANGE to D3hot changes the power state alone; back to D0 the pending messages, held events and held log entries go out, in that order. (R494, R482, R565) -/
def Obligations.AdminRingsAndLinkComplete : Prop :=
  ∀ s : State,
    (hostReach s = true → tget? s.hif.rings 0 = none → tget? s.hif.rings 1 = none → ∃ t r0 r1, exec .adminEn s = .next t ∧ tget? t.hif.rings 0 = some r0 ∧ tget? t.hif.rings 1 = some r1 ∧
      r0.kind = .cmd ∧ r1.kind = .cpl ∧ r0.dflt = 1 ∧ r0.base = regGet s R.hifAdminCmdHi * 2 ^ 32 + regGet s R.hifAdminCmdLo ∧
      r1.base = regGet s R.hifAdminCplHi * 2 ^ 32 + regGet s R.hifAdminCplLo ∧ r0.n = fld s R.hifAdminCfg 11 8 ∧ r1.n = fld s R.hifAdminCfg 7 4 ∧
      r1.vec = fld s R.hifAdminCfg 23 16 ∧ flag t R.hifCtl 0 = true) ∧
    (hostReach s = true → (tget? s.hif.rings 0).isSome = true → exec .adminEn s = .next s) ∧
    (hostReach s = true → ∃ t, exec .adminReset s = .next t ∧ exec .pcieFlr s = .next t ∧ t.hif.rings = [] ∧ t.hif.inflight = [] ∧ t.hif.waiting = [] ∧ flag t R.hifCtl 0 = false ∧ t.dev = s.dev) ∧
    (hostReach s = false → exec .adminEn s = .next s ∧ exec .adminReset s = .next s) ∧
    (∀ down, exec (.perstAssert down) s = .next { s with hif := { s.hif with perst := s.hif.perst || !down, linkUp := false } }) ∧
    (s.hif.linkUp = false → partRuns s = true → ∃ t, exec .pcieLinkUp s = .next t ∧ t.hif.linkUp = true ∧ t.hif.perst = false ∧ t.hif.power = .d0 ∧ t.hif.rings = [] ∧ t.dev = s.dev) ∧
    (s.hif.linkUp = true → exec .pcieLinkUp s = .next s) ∧
    exec (.pciePowerStateChange true) s = .next { s with hif := { s.hif with power := .d3hot } } ∧
    (hostReach s = true → exec (.pciePowerStateChange false) s = .next (logRoom (redeliver (sendPending { s with hif := { s.hif with power := .d0 } }))))

/-- With the host reaching the part and a ring number up to 127: a doorbell of a CMD ring with an index below 2^n sets its tail, and one of a part-to-host ring that releases only entries written sets its head and releases them; neither touches a register, host memory or anything outside the host island, but that the released slots of a LOG ring take held log entries, and that commands waiting for a completion slot are taken again. A doorbell of a ring that is not created, or out of range, or of a head that would release entries not yet written moves no ring's index, increments HIF_BAD_DB (saturating), sets HIF_STAT.bad_db and raises BAD_DOORBELL. One beyond ring 127 is counted in HIF_BAD_ACCESS; one that does not reach the part changes nothing. (R485, R491) -/
def Obligations.DoorbellsTakenOrCounted : Prop :=
  (∀ (s : State) (ring value : Nat), (hostReach s = false → exec (.cmdDoorbell ring value) s = .next s ∧ exec (.headDoorbell ring value) s = .next s) ∧
    (hostReach s = true → 127 < ring → exec (.cmdDoorbell ring value) s = .next (bump s R.hifBadAccess) ∧ exec (.headDoorbell ring value) s = .next (retryWaiting (bump s R.hifBadAccess)))) ∧
  ∀ (s : State) (ring value : Nat), hostReach s = true → ring ≤ 127 →
    (∀ r, tget? s.hif.rings ring = some r → r.kind = .cmd → value % 65536 < 2 ^ r.n →
      ∃ t, exec (.cmdDoorbell ring value) s = .next t ∧ tget? t.hif.rings ring = some { r with host := value % 65536 } ∧ t = { s with hif := t.hif }) ∧
    (∀ r, tget? s.hif.rings ring = some r → r.kind ≠ .cmd → r.kind ≠ .log → value % 65536 < 2 ^ r.n →
      (value % 65536 + 2 ^ r.n - r.host) % 2 ^ r.n ≤ r.used → s.hif.waiting = [] →
      ∃ t, exec (.headDoorbell ring value) s = .next t ∧
        tget? t.hif.rings ring = some { r with host := value % 65536, used := r.used - (value % 65536 + 2 ^ r.n - r.host) % 2 ^ r.n } ∧ t = { s with hif := t.hif }) ∧
    (∀ r (u : State), tget? s.hif.rings ring = some r → r.kind ≠ .cmd → value % 65536 < 2 ^ r.n → (value % 65536 + 2 ^ r.n - r.host) % 2 ^ r.n ≤ r.used →
      u = { s with hif := { s.hif with doorbells := tset s.hif.doorbells ring (value % 2 ^ 32), rings := tset s.hif.rings ring { r with host := value % 65536, used := r.used - (value % 65536 + 2 ^ r.n - r.host) % 2 ^ r.n } } } →
      exec (.headDoorbell ring value) s = .next (retryWaiting (if r.kind = .log then logRoom u else u))) ∧
    ((tget? s.hif.rings ring = none ∨ ∃ r, tget? s.hif.rings ring = some r ∧ (2 ^ r.n ≤ value % 65536 ∨ (r.kind ≠ .cmd ∧ r.used < (value % 65536 + 2 ^ r.n - r.host) % 2 ^ r.n))) →
      ∃ t u, exec (.cmdDoorbell ring value) s = .next t ∧ exec (.headDoorbell ring value) s = .next (retryWaiting t) ∧ t = raise 0x0D02 u (idx := ring) (items := [(4, value % 2 ^ 32)]) ∧
        u.hif.rings = s.hif.rings ∧ regGet t R.hifBadDb = capN (2 ^ 32 - 1) (regGet s R.hifBadDb + 1) ∧ flag t R.hifStat 2 = true)

/-- MSIX_MODERATION_EXPIRY of a created ring whose vector asks (its count or its time is reached) fires the vector: the count of unsignalled entries of every ring on that vector is 0 and every other ring is as it was; one message is sent when the vector is not masked and the link is up and out of D3hot, and else its pending bit is set and none is sent; nothing outside the host island changes. Where the ring does not ask, or is not created, nothing changes. MSIX_VECTOR_UNMASK of a masked vector, with the host reaching the part, clears its mask bit; where its pending bit is set with no other pending and messages can go out, it clears that bit and sends one message. An unmasked vector, or one beyond 127, changes nothing. (R497) -/
def Obligations.MsixFiresOrPends : Prop :=
  ∀ s : State,
    (∀ i r, tget? s.hif.rings i = some r → r.asks s.dev.ticks = true →
      ∃ t, exec (.msixModerationExpiry i) s = .next t ∧
        (∀ j x, tget? s.hif.rings j = some x → tget? t.hif.rings j = some (if x.vec = r.vec then { x with unsig := 0 } else x)) ∧ t = { s with hif := t.hif } ∧
        (bitOf s.hif.msixMasked r.vec = false → linkOk s = true →
          tget 0 t.hif.msixSent r.vec = tget 0 s.hif.msixSent r.vec + 1 ∧ (∀ v, v ≠ r.vec → tget 0 t.hif.msixSent v = tget 0 s.hif.msixSent v) ∧ t.hif.msixPending = s.hif.msixPending) ∧
        (bitOf s.hif.msixMasked r.vec = true ∨ linkOk s = false → bitOf t.hif.msixPending r.vec = true ∧ t.hif.msixSent = s.hif.msixSent)) ∧
    (∀ i, tget? s.hif.rings i = none ∨ (∃ r, tget? s.hif.rings i = some r ∧ r.asks s.dev.ticks = false) → exec (.msixModerationExpiry i) s = .next s) ∧
    (∀ v, v < 128 → hostReach s = true → bitOf s.hif.msixMasked v = true →
      (∃ t, exec (.msixVectorUnmask v) s = .next t ∧ t.hif.msixMasked = s.hif.msixMasked - 2 ^ v ∧ bitOf t.hif.msixMasked v = false) ∧
      (linkOk s = true → s.hif.msixPending = 2 ^ v →
        ∃ t, exec (.msixVectorUnmask v) s = .next t ∧ t.hif.msixMasked = s.hif.msixMasked - 2 ^ v ∧ t.hif.msixPending = 0 ∧
          tget 0 t.hif.msixSent v = tget 0 s.hif.msixSent v + 1)) ∧
    (∀ v, 127 < v ∨ hostReach s = false ∨ bitOf s.hif.msixMasked v = false → exec (.msixVectorUnmask v) s = .next s)

/-- A DPORT read of 4 to 256 whole words' bytes that underruns, on a part the host reaches: every word of the answer is 0x0000_0000, DPC_STAT.underrun is set, DPC_UNDERRUN_CNT is one more (saturating), and the address is unchanged. (R512) -/
def Obligations.UnderrunKeepsTheAddress : Prop :=
  ∀ (s : State) (len : Nat), hostReach s = true → 0 < len → len ≤ 256 → len % 4 = 0 →
    ∃ t, exec (.dportUnderrun len) s = .next t ∧ t.hif.dportData = List.replicate (len / 4) 0 ∧ flag t R.dpcStat 0 = true ∧
      regGet t R.dpcUnderrunCnt = capN (2 ^ 32 - 1) (regGet s R.dpcUnderrunCnt + 1) ∧ dpcAddr t = dpcAddr s

/-- On a part the host reaches: a read of whole words (4 to 256 bytes) of memory that is not DRAM before its training answers the words from the address on, and the address advances by its length modulo 2^40; a write of one word to DRAM outside the statistics area in TEST stores its bytes there and advances the address by 4; one word written to a coefficient memory, unsealed and its bank not busy, goes there; one written to a descriptor, the AFE's buffers, OTP, cluster SRAM, or DRAM outside TEST is refused (wr_rej, counted), one to an undecoded address, which reads 0, sets addr_err, and in each case the address advances by 4. A request longer than 256 bytes or with an end byte not enabled is counted in HIF_BAD_ACCESS and leaves the address; a write of DPC_ADDR_LO with the low bits 0 or of DPC_ADDR_HI sets that half. A part that is not reached ignores all of these. (R511, R516, R513) -/
def Obligations.DataPortAddressAdvances : Prop :=
  (∀ (s : State) (len : Nat) (data : List Byte) (en hi : Bool) (v : Nat), hostReach s = false →
    exec (.dportRead len en) s = .next s ∧ exec (.dportWrite data en) s = .next s ∧ exec (.dpcAddrWrite hi v) s = .next s) ∧
  ∀ s : State, hostReach s = true →
    (∀ len, dpcTakes len true = true → (∀ a ∈ dpcWords s len, ∀ o, regionOf s a = .dram o → dramEnd s ≠ 0) →
      ∃ t, exec (.dportRead len true) s = .next t ∧ t.hif.dportData = (dpcWords s len).map (fun a => BitVec.ofNat 32 (intWord s a)) ∧
        dpcAddr t = (dpcAddr s + len) % 2 ^ 40) ∧
    (∀ data o, data.length = 4 → s.dev.mode = .test → regionOf s (dpcAddr s) = .dram o → (o < 0x42000000 ∨ 0x43000000 ≤ o) →
      ∃ t, exec (.dportWrite data true) s = .next t ∧ (∀ j, j < 4 → tget? t.hif.dram (o + j) = data[j]?) ∧ dpcAddr t = (dpcAddr s + 4) % 2 ^ 40) ∧
    (∀ data o, data.length = 4 → isSealed s = false → regionOf s (dpcAddr s) = .coef o →
      bankBusy (if o % 0x400 < 0x200 then (fltCh s (o / 0x400)).b3 else (fltCh s (o / 0x400)).b4) (decide (o % 0x400 / 0x100 % 2 = 1)) = false →
      exec (.dportWrite data true) s = .next (dpcAdvance (coefPut s o (field data 0 4)) 4)) ∧
    (∀ data, data.length = 4 → (∃ o, regionOf s (dpcAddr s) = .afe o ∨ regionOf s (dpcAddr s) = .otp o) ∨ (∃ b o, regionOf s (dpcAddr s) = .descr b o) ∨ (s.dev.mode ≠ .test ∧ ∃ o, regionOf s (dpcAddr s) = .dram o) →
      exec (.dportWrite data true) s = .next (dpcAdvance (bump (flagSet s R.dpcStat 2 true) R.dpcWrRejCnt) 4)) ∧
    (∀ data c o, data.length = 4 → regionOf s (dpcAddr s) = .cluster c o → ∃ u, exec (.dportWrite data true) s = .next (dpcAdvance (bump (flagSet u R.dpcStat 2 true) R.dpcWrRejCnt) 4) ∧
      (u = s ∨ u = flagSet s R.cfgStat 17 true)) ∧
    (∀ data, data.length = 4 → regionOf s (dpcAddr s) = .none_ → exec (.dportWrite data true) s = .next (dpcAdvance (flagSet s R.dpcStat 1 true) 4)) ∧
    (∀ a, regionOf s a = .none_ → intWord s a = 0) ∧
    (∀ len en, dpcTakes len en = false → exec (.dportRead len en) s = .next (bump s R.hifBadAccess)) ∧
    (∀ data en, dpcTakes data.length en = false → exec (.dportWrite data en) s = .next (bump s R.hifBadAccess)) ∧
    (∀ v, v < 2 ^ 32 → v % 4 = 0 → ∃ t, exec (.dpcAddrWrite false v) s = .next t ∧ regGet t R.dpcAddrLo = v ∧ regGet t R.dpcAddrHi = regGet s R.dpcAddrHi) ∧
    (∀ v, ∃ t, exec (.dpcAddrWrite true v) s = .next t ∧ regGet t R.dpcAddrHi = v % 256 ∧ regGet t R.dpcAddrLo = regGet s R.dpcAddrLo)

/-- With the link up, the part running and fewer than 256 commands in flight, COMMAND_FETCH of the ring served next copies the entry at its fetch index from host memory, moves that index on by one modulo its size, and gives the command to its rule. When the read fails, or DMA_COMPLETION_TIMEOUT is for that ring's entries, the ring is halted and HIF_DMA_ERR counted, and no command of it may be fetched. A DMA error of a token or parameter completes its command with BAD_PARAM. (R491, R505, R481, R490) -/
def Obligations.CommandFetchTakesOrHalts : Prop :=
  ∀ (s : State) (i : Nat) (r : HostRing), linkOk s = true → partRuns s = true → tget? s.hif.rings i = some r →
    (s.hif.inflight.length < 256 → nextRing s = some i →
      exec (.commandFetch false) s = .next (takeCommand (readEntry s i r).1 (readEntry s i r).2
        (modRing { s with hif := { s.hif with lastServed := i } } i (fun x => { x with part := (x.part + 1) % x.size })))) ∧
    (s.hif.inflight.length < 256 → nextRing s = some i → ∃ t, exec (.commandFetch true) s = .next t ∧ mayFetch t i = false ∧ regGet t R.hifDmaErr = capN (2 ^ 32 - 1) (regGet s R.hifDmaErr + 1)) ∧
    (r.kind = .cmd → r.part ≠ r.host → r.halted = false →
      ∃ t r', exec (.dmaCompletionTimeout (.entry i)) s = .next t ∧ tget? t.hif.rings i = some r' ∧ r'.halted = true ∧ mayFetch t i = false ∧ regGet t R.hifDmaErr = capN (2 ^ 32 - 1) (regGet s R.hifDmaErr + 1)) ∧
    (∀ op e addr k, Taken s e [(0, 48)] k → exec (.dmaCompletionTimeout (.param op e addr)) s = .next (badCpl s (dmaError (accepted s op e k) e.ring addr) op e k stBadParam))

/-- On a part the host reaches, REGISTER_WRITE with byte enables other than all four, or to an address that is not a named register of the 64 KiB window, changes nothing but HIF_BAD_ACCESS, which is one more (saturating). With all byte enables, a write of DEV_SCRATCH leaves that register with the word and nothing else changed, one of HIF_RING_SEL leaves it with the word's low seven bits, one of DEV_ID, whose fields are all RO, changes no register, and one of PWR_DRAM_CFG, all of whose fields are RWS, that would change a field while SERVICE or VIGIL seals keeps the register, raises SEALED with the address in value A and logs it. A part that is not reached ignores the write. (R6, R561) -/
def Obligations.BadRegisterWritesAreCounted : Prop :=
  (∀ (s : State) (addr data be : Nat), hostReach s = false → exec (.registerWrite addr data be) s = .next s) ∧
  ∀ (s : State) (addr data be : Nat), hostReach s = true →
    ((be ≠ 15 ∨ addr % 4 ≠ 0 ∨ 2 ^ 16 ≤ addr ∨ regAt addr = none) → ∃ t, exec (.registerWrite addr data be) s = .next t ∧ t = { s with regs := t.regs } ∧
      (∀ a, a ≠ R.hifBadAccess → regGet t a = regGet s a) ∧ regGet t R.hifBadAccess = capN (2 ^ 32 - 1) (regGet s R.hifBadAccess + 1)) ∧
    exec (.registerWrite R.devScratch data 15) s = .next (regSet s R.devScratch (data % 2 ^ 32)) ∧
    (∃ t, exec (.registerWrite R.hifRingSel data 15) s = .next t ∧ fld t R.hifRingSel 6 0 = data % 2 ^ 7 ∧ t = { s with regs := t.regs } ∧ ∀ a, a ≠ R.hifRingSel → regGet t a = regGet s a) ∧
    (∃ t, exec (.registerWrite R.devId data 15) s = .next t ∧ t = { s with regs := t.regs } ∧ ∀ a, regGet t a = regGet s a) ∧
    (isSealed s = true → data % 2 ^ 8 ≠ fld s R.pwrDramCfg 7 0 →
      ∃ t u, exec (.registerWrite R.pwrDramCfg data 15) s = .next t ∧ t = { u with regs := t.regs } ∧ u = appendLog (raise 0x0D01 s (items := [(4, R.pwrDramCfg)])) 4 0 0 R.pwrDramCfg ∧
        (∀ a, regGet t a = regGet u a) ∧ regGet t R.pwrDramCfg = regGet s R.pwrDramCfg)

/-- While the hold is not full, a chained entry of any kind sets the hash to SHA-256 of the old hash and bytes 0 to 31 of the entry, and the sequence rises by 1; with 1,024 entries held it changes neither and counts one dropped. LOG_CHECKPOINT with a chained entry not covered for 10 s and room for the CHECKPOINT's nine entries in the hold (at most 1,015 held) appends it: no entry is left to cover. Without that room the CHECKPOINT is dropped and counted and the 10 s begin again. Otherwise LOG_CHECKPOINT changes nothing. (R508, R509, R510) -/
def Obligations.LogIsAHashChain : Prop :=
  (∀ (s : State) (kind b9 b10 b12 : Nat), s.hif.logHold.length < 1024 →
    (logChained s kind b9 b10 b12).hif.logHash = sha256 (s.hif.logHash ++ logHead s kind b9 b10 b12) ∧ (logChained s kind b9 b10 b12).hif.logSeq = s.hif.logSeq + 1) ∧
  (∀ (s : State) (kind b9 b10 b12 : Nat), 1024 ≤ s.hif.logHold.length →
    (logChained s kind b9 b10 b12).hif.logHash = s.hif.logHash ∧ (logChained s kind b9 b10 b12).hif.logSeq = s.hif.logSeq ∧
    (logChained s kind b9 b10 b12).hif.logLost = s.hif.logLost + 1 ∧ regGet (logChained s kind b9 b10 b12) R.hifLogDrop = capN (2 ^ 32 - 1) (regGet s R.hifLogDrop + 1)) ∧
  (∀ (s : State) (t0 : Nat), s.hif.logSince = some t0 → t0 + 10 * secT ≤ s.dev.ticks →
    (s.hif.logHold.length ≤ 1015 → ∃ t, exec .logCheckpoint s = .next t ∧ t.hif.logSince = none ∧ t.hif.logCount = 0 ∧ t.dev = s.dev) ∧
    (1015 < s.hif.logHold.length → ∃ t, exec .logCheckpoint s = .next t ∧ t.hif.logHash = s.hif.logHash ∧ t.hif.logHold = s.hif.logHold ∧ t.hif.logLost = s.hif.logLost + 1 ∧
      regGet t R.hifLogDrop = capN (2 ^ 32 - 1) (regGet s R.hifLogDrop + 1) ∧ t.hif.logSince = some s.dev.ticks ∧ t.dev = s.dev)) ∧
  (∀ s : State, (s.hif.logSince = none ∨ ∃ t0, s.hif.logSince = some t0 ∧ s.dev.ticks < t0 + 10 * secT) → exec .logCheckpoint s = .next s)

/-- For a MODE_SET entry that passes R491 with target mode m: the current mode completes with OK and no change; BOOT or VIGIL with BAD_PARAM; a transition that R27 does not list (SAFE to COMMISSION with a SAFE cause persisting among them) with BAD_MODE; a listed one to another mode than SAFE, in SERVICE or VIGIL, whose token is missing or fails with AUTH_FAIL (after what the token's failure does); a listed one that needs no token, or whose token was taken, while a takeover, a role move (one that a contention asks for included) or an earlier MODE_SET is pending with BUSY. (R29) -/
def Obligations.ModeSetAnswersByR29 : Prop :=
  ∀ (s : State) (e : CmdEntry) (i : Nat) (m : Mode), Taken s e usedModeSet i → Mode.ofCode (field e.params 0 1) = some m →
    (m = s.dev.mode → exec (.modeSet e) s = .next (okCpl s (accepted s 0x03 e i) 0x03 e i Att.zero [])) ∧
    (m ≠ s.dev.mode → m = .boot ∨ m = .vigil → exec (.modeSet e) s = .next (badCpl s (accepted s 0x03 e i) 0x03 e i stBadParam)) ∧
    (m ≠ s.dev.mode → m ≠ .boot → m ≠ .vigil → modeListed s.dev.mode m = false →
      exec (.modeSet e) s = .next (badCpl s (accepted s 0x03 e i) 0x03 e i stBadMode)) ∧
    (m = .commission → s.dev.mode = .safe → safePersists (accepted s 0x03 e i) = true →
      exec (.modeSet e) s = .next (badCpl s (accepted s 0x03 e i) 0x03 e i stBadMode)) ∧
    (m ≠ s.dev.mode → modeListed s.dev.mode m = true → m ≠ .safe → isSealed s = true →
      (takeToken (accepted s 0x03 e i) e 0x03 m.code (fun _ => true)).2 = none →
      exec (.modeSet e) s = .next (badCpl s (takeToken (accepted s 0x03 e i) e 0x03 m.code (fun _ => true)).1 0x03 e i stAuthFail)) ∧
    (m ≠ s.dev.mode → modeListed s.dev.mode m = true → (s.dev.mode = .safe → safePersists (accepted s 0x03 e i) = false) → ∀ u : State,
      (if m = .safe ∨ isSealed s = false then u = accepted s 0x03 e i
        else u = (takeToken (accepted s 0x03 e i) e 0x03 m.code (fun _ => true)).1 ∧ (takeToken (accepted s 0x03 e i) e 0x03 m.code (fun _ => true)).2.isSome) →
      u.dev.pend.isSome ∨ u.mir.takeover.isSome ∨ u.mir.hand.isSome ∨ u.mir.role.isSome ∨ u.mir.contention.isSome →
      exec (.modeSet e) s = .next (badCpl s u 0x03 e i stBusy))

/-- For every state the effect instant of an accepted MODE_SET (and of every request that takes effect under R30) is at least 100 µs after now, is an instant of the 14,400 S/s grid (index 0 to 14,399 of a second), and no earlier instant of that grid is at least 100 µs after now. (R30, R20, R572) -/
def Obligations.EffectInstantIsFirstGridInstant : Prop :=
  ∀ s : State, now s + 100 * usI ≤ effectInst s ∧ (∃ sec k, k < 14400 ∧ effectInst s = gridInst 14400 sec k) ∧
    (∀ sec k, k < 14400 → now s + 100 * usI ≤ gridInst 14400 sec k → effectInst s ≤ gridInst 14400 sec k)

/-- A MODE_SET that passes every check of R29 defers: it waits with its target, its effect instant and its command number, in SERVICE and VIGIL after its token is taken. MODE_SET_EFFECT with nothing waiting, or before that instant, changes nothing; from it on the part is in the target mode, a target SERVICE resolved to SERVICE or VIGIL as on leaving BOOT (before a SAFE condition that stands re-enters SAFE), the mode left is recorded, nothing is pending, and dto_en is clear in COMMISSION and TEST. (R30, R27, R498, R572, R31, R549) -/
def Obligations.ModeSetDefersAndTakesEffect : Prop :=
  (∀ (s : State) (e : CmdEntry) (i : Nat) (m : Mode), Taken s e usedModeSet i → Mode.ofCode (field e.params 0 1) = some m → m ≠ s.dev.mode →
    modeListed s.dev.mode m = true → (s.dev.mode = .safe → safePersists (accepted s 0x03 e i) = false) → ∀ u : State,
    (if m = .safe ∨ isSealed s = false then u = accepted s 0x03 e i
      else u = (takeToken (accepted s 0x03 e i) e 0x03 m.code (fun _ => true)).1 ∧ (takeToken (accepted s 0x03 e i) e 0x03 m.code (fun _ => true)).2.isSome) →
    u.dev.pend = none → u.mir.takeover = none → u.mir.hand = none → u.mir.role = none → u.mir.contention = none →
    exec (.modeSet e) s = .next { u with dev := { u.dev with pend := some ⟨m, effectInst u, s.hif.nextCid⟩ } }) ∧
  (∀ (s : State) (p : ModeChange), s.dev.pend = some p →
    (now s < p.at_ → exec .modeSetEffect s = .next s) ∧
    (p.at_ ≤ now s →
      ∃ t v, exec .modeSetEffect s = .next t ∧ t = safeAgain v ∧ v.dev.mode = (if p.target = .service then resolveService { s with dev := { s.dev with pend := none } } else p.target) ∧
        v.dev.prev = s.dev.mode ∧ v.dev.pend = none ∧ (p.target = .commission ∨ p.target = .test → v.dev.dtoEn = false))) ∧
  (∀ s : State, s.dev.pend = none → exec .modeSetEffect s = .next s)

/-- When a token is taken for a command, its serial exceeds the last accepted one and becomes it, its opcode and argument are the command's, and tokens were not locked out. When none is taken, the last serial stays and SEC_AUTH_FAIL_CNT is one more (saturating); the sixteenth failure within an hour, outside a lockout, locks tokens out for 10 min from now, and while locked out every token is refused and the lockout is not extended. (R532, R530) -/
def Obligations.TokenSerialOnlyRises : Prop :=
  ∀ (s : State) (e : CmdEntry) (op arg : Nat) (more : List Byte → Bool),
    (∀ t, (takeToken s e op arg more).2 = some t → tokenLocked s = false ∧ field t 6 1 = op ∧ field t 7 1 = arg ∧ s.flash.serial < field t 16 8 ∧
      (takeToken s e op arg more).1.flash.serial = field t 16 8) ∧
    ((takeToken s e op arg more).2 = none → (takeToken s e op arg more).1.flash = s.flash ∧
      regGet (takeToken s e op arg more).1 R.secAuthFailCnt = capN (2 ^ 32 - 1) (regGet s R.secAuthFailCnt + 1)) ∧
    (tokenLocked s = true → (takeToken s e op arg more).2 = none ∧ (takeToken s e op arg more).1.sec = s.sec) ∧
    (tokenLocked s = false → (takeToken s e op arg more).2 = none →
      (takeToken s e op arg more).1.sec.lockUntil = if 15 ≤ (s.sec.failTimes.filter (fun t => decide (s.dev.ticks < t + 3600 * secT))).length then some (s.dev.ticks + 600 * secT) else s.sec.lockUntil)

/-- In COMMISSION or TEST (no token needed) and with the entry passing R491: TIME_RESTEP while disputed, with a candidate time that has persisted for confirm_s and no step pending, waits with its landing instant; IMAGE_COMMIT of a pending image that passes R526 selects its slot, revokes the keys of its mask, advances the counter when asked and completes with OK, a scheme image's with its effect instant, at which it is to be applied. In every mode IMAGE_LOAD with parameters in range (an image, or the identity certificate) and no load or commit under way takes the bytes from host memory and defers; ATTEST with its kind and address in range writes its report, certificate or public key to host memory, raises ATTESTED and completes with the length. IMAGE_APPLY from the effect instant on applies the committed image; before it, or with none committed, it changes nothing. (R60, R528, R529, R526, R534, R207) -/
def Obligations.RestepImageAndAttestComplete : Prop :=
  ∀ (s : State) (e : CmdEntry) (i : Nat),
    (Taken s e usedTimeRestep i → s.dev.mode = .commission ∨ s.dev.mode = .test → s.alm.lock = .disputed →
      s.alm.candSince + fld s R.almRestepCfg 11 0 * secI ≤ now s → s.alm.restep = none → s.alm.preset = none →
      exec (.timeRestep e) s = .next { accepted s 0x20 e i with alm := { s.alm with restep := some (s.hif.nextCid, restepAt s) } }) ∧
    (Taken s e usedImageLoad i → (field e.params 0 1 ≤ 2 ∧ 904 ≤ field e.params 4 4 ∧ field e.params 4 4 ≤ imgMost (field e.params 0 1)) ∨ (field e.params 0 1 = 3 ∧ field e.params 4 4 ≤ 60 * 1024) → field e.params 8 8 % 64 = 0 →
      s.sec.load = none → s.sec.apply = none →
      exec (.imageLoad e) s = .next { accepted s 0x10 e i with
        sec := { s.sec with load := some ⟨field e.params 0 1, hostRead s (field e.params 8 8) (field e.params 4 4), s.hif.nextCid⟩ } }) ∧
    (∀ kind img, Taken s e usedImageCommit i → field e.params 0 1 = kind → kind ≤ 2 → field e.params 1 1 ≤ 1 → field e.params 2 1 ≤ 15 → s.sec.pends kind = true →
      s.dev.mode = .commission ∨ s.dev.mode = .test → s.flash.slot kind (!s.flash.sel kind) = some img → revokeBad s.otp (decide (kind = 2)) (imgKey img) (field e.params 2 1) = false →
      s.sec.load = none → s.sec.apply = none →
      ∃ u, u = commitImage (accepted s 0x11 e i) kind img (bitOf (field e.params 1 1) 0) (field e.params 2 1) ∧ u.flash.sel kind = (!s.flash.sel kind) ∧ u.sec.pends kind = false ∧
        exec (.imageCommit e) s = .next (if kind = 2 then okCpl s { u with sec := { u.sec with apply := some ⟨effectInst u⟩ } } 0x11 e i (attAt u (effectInst u)) [] else okCpl s u 0x11 e i Att.zero [])) ∧
    (Taken s e usedAttest i → field e.params 32 1 ≤ 2 → (field e.params 32 1 = 1 → s.flash.cert ≠ []) → addrOk (field e.params 40 8) = true →
      exec (.attest e) s = .next (okCpl s (raise 0x0E08 (hostWrite (accepted s 0x12 e i) (field e.params 40 8)
        (attestOut (accepted s 0x12 e i) (field e.params 32 1) (slice e.params 0 32))) (items := [(1, field e.params 32 1)])) 0x12 e i Att.zero
        (leBytes 4 (attestOut (accepted s 0x12 e i) (field e.params 32 1) (slice e.params 0 32)).length))) ∧
    (∀ p img, s.sec.apply = some p → s.flash.slot 2 s.flash.schSel = some img → p.at_ ≤ now s →
      exec .imageApply s = .next (applyScheme { s with sec := { s.sec with apply := none, schSlot := s.flash.schSel } } img p.at_)) ∧
    (s.sec.apply = none ∨ (∃ p, s.sec.apply = some p ∧ now s < p.at_) → exec .imageApply s = .next s)

/-- For a load of an image of kind 0 to 2 under way: when it verifies and flash reads back, it is in the slot that is not selected, pending, IMAGE_VERIFIED is raised and the command completes with OK, the kind, key slot, rollback index and digest; when flash does not read back, the slot is empty, nothing is pending and it completes with INTERNAL; when its key, signature or rollback fails, nothing is stored, the failure is counted and the command completes with AUTH_FAIL; when its structure fails, nothing is stored and it completes with BAD_PARAM. For the identity certificate: one for the identity key is stored (emptied, with INTERNAL, when flash does not read back), another is counted and completes with AUTH_FAIL. In each case no load is under way any more; with none under way nothing changes. (R528, R518, R519, R206) -/
def Obligations.ImageLoadDoneStoresOrRefuses : Prop :=
  (∀ (s : State) (ok : Bool), s.sec.load = none → exec (.imageLoadDone ok) s = .next s) ∧
  (∀ (s : State) (j : LoadJob), s.sec.load = some j → j.kind = 3 → ∀ u, u = { s with sec := { s.sec with load := none } } →
    (Config.certSubjectKey j.image = some s.otp.idPub → exec (.imageLoadDone true) s = .next (complete { u with flash := { u.flash with cert := j.image } } j.cid stOk Att.zero (leBytes 1 3)) ∧
      exec (.imageLoadDone false) s = .next (complete { u with flash := { u.flash with cert := [] } } j.cid stInternal Att.zero)) ∧
    (Config.certSubjectKey j.image ≠ some s.otp.idPub → ∀ ok, exec (.imageLoadDone ok) s = .next (complete (authFailed u 3) j.cid stAuthFail Att.zero))) ∧
  ∀ (s : State) (j : LoadJob), s.sec.load = some j → j.kind < 3 →
    (verifyErr { s with sec := { s.sec with load := none } } j.kind j.image = none →
      ∃ u, exec (.imageLoadDone true) s = .next (complete u j.cid stOk Att.zero
        (leBytes 1 j.kind ++ leBytes 1 (imgKey j.image) ++ leBytes 2 0 ++ leBytes 4 (imgRoll j.image) ++ slice (sha256 j.image) 0 8)) ∧
        u.flash.slot j.kind (!s.flash.sel j.kind) = some j.image ∧ u.sec.pends j.kind = true ∧ u.sec.load = none ∧ u.hif = (imageVerified { s with sec := { s.sec with load := none } } j.kind j.image).hif) ∧
    (verifyErr { s with sec := { s.sec with load := none } } j.kind j.image = none →
      ∃ u, exec (.imageLoadDone false) s = .next (complete u j.cid stInternal Att.zero) ∧ u.flash.slot j.kind (!s.flash.sel j.kind) = none ∧ u.sec.pends j.kind = false ∧ u.sec.load = none) ∧
    (∀ x, verifyErr { s with sec := { s.sec with load := none } } j.kind j.image = some x → (∀ d, x ≠ .shape d) →
      ∃ u, (∀ ok, exec (.imageLoadDone ok) s = .next (complete u j.cid stAuthFail Att.zero)) ∧ u.flash = s.flash ∧ u.sec.load = none ∧
        regGet u R.secAuthFailCnt = capN (2 ^ 32 - 1) (regGet s R.secAuthFailCnt + 1)) ∧
    (∀ d, verifyErr { s with sec := { s.sec with load := none } } j.kind j.image = some (.shape d) →
      ∀ ok, exec (.imageLoadDone ok) s = .next (complete (loadRejected { s with sec := { s.sec with load := none } } d) j.cid stBadParam Att.zero))

/-- DEBUG_UNLOCK outside COMMISSION and TEST completes with BAD_MODE, with a phase above 2 with BAD_PARAM. Phase 0 makes a fresh challenge current and completes with its 16 bytes. Phase 1 with no challenge current completes with AUTH_FAIL; with one it uses the challenge up (also when the token then fails, AUTH_FAIL: log entry 102), and a token for opcode 0x13 that carries it grants the scope, not-after and class it names, raises DEBUG_UNLOCKED and completes with OK. Phase 2 ends the grant: none is held, DEBUG_LOCKED is raised, an attached cell is asked to detach; without a grant nothing changes. CHALLENGE_EXPIRY after 60 s leaves no challenge, DEBUG_GRANT_EXPIRY after the not-after second ends the grant, TOKEN_LOCK_EXPIRY after its 10 min clears the lockout; before that, or with none, each changes nothing. OTP_PROG_GO starts a word that R537 admits, and sets otp_err for one it does not or while one is being programmed; OTP_PROG_DONE writes the word read back, and sets otp_err when it is not the old word with the 1 bits blown. (R535, R536, R537, R532) -/
def Obligations.DebugGrantsAndOtpComplete : Prop :=
  (∀ (s : State) (e : CmdEntry) (i : Nat), Taken s e usedDebugUnlock i →
    (s.dev.mode ≠ .commission → s.dev.mode ≠ .test → exec (.debugUnlock e) s = .next (badCpl s (accepted s 0x13 e i) 0x13 e i stBadMode)) ∧
    (s.dev.mode = .commission ∨ s.dev.mode = .test →
      (field e.params 0 1 = 0 → exec (.debugUnlock e) s = .next (okCpl s (bumpFree { accepted s 0x13 e i with sec := { s.sec with challenge := some (s.dev.free, s.dev.ticks) } }) 0x13 e i Att.zero (challengeBytes s.dev.free))) ∧
      (field e.params 0 1 = 1 → challengeNow s = none → exec (.debugUnlock e) s = .next (badCpl s (accepted s 0x13 e i) 0x13 e i stAuthFail)) ∧
      (∀ c u, field e.params 0 1 = 1 → challengeNow s = some c → u = { accepted s 0x13 e i with sec := { s.sec with challenge := none } } →
        ((takeToken u e 0x13 (field (hostRead u e.token 896) 7 1) (fun t => decide (slice t 48 16 = challengeBytes c))).2 = none →
          exec (.debugUnlock e) s = .next (badCpl s (takeToken u e 0x13 (field (hostRead u e.token 896) 7 1) (fun t => decide (slice t 48 16 = challengeBytes c))).1 0x13 e i stAuthFail)) ∧
        (∀ t v, takeToken u e 0x13 (field (hostRead u e.token 896) 7 1) (fun t => decide (slice t 48 16 = challengeBytes c)) = (v, some t) →
          exec (.debugUnlock e) s = .next (okCpl s (raise 0x0E05 { v with sec := { v.sec with grant := some ⟨field (hostRead u e.token 896) 7 1, field t 32 8, decide (field t 41 1 = 1)⟩, grantSeen := true } }
            (items := [(1, field (hostRead u e.token 896) 7 1), (1, field t 41 1)])) 0x13 e i Att.zero []))) ∧
      (field e.params 0 1 = 2 → exec (.debugUnlock e) s = .next (okCpl s (endGrant (accepted s 0x13 e i) 2) 0x13 e i Att.zero [])) ∧
      (2 < field e.params 0 1 → exec (.debugUnlock e) s = .next (badCpl s (accepted s 0x13 e i) 0x13 e i stBadParam)))) ∧
  (∀ (s : State) (cause : Nat), (s.sec.grant = none → endGrant s cause = s) ∧
    (∀ g, s.sec.grant = some g → (endGrant s cause).sec = { s.sec with grant := none } ∧ (endGrant s cause).dev = s.dev ∧
      (∀ c, s.cfg.dbgCell = some c → (endGrant s cause).cfg.dbgReq = some (false, c)) ∧ ∃ u, endGrant s cause = raise 0x0E06 u (items := [(1, cause)]))) ∧
  ∀ s : State,
    (s.sec.challenge = none → exec .challengeExpiry s = .next s) ∧
    (∀ c t0, s.sec.challenge = some (c, t0) → exec .challengeExpiry s = .next (if t0 + 60 * secT ≤ s.dev.ticks then { s with sec := { s.sec with challenge := none } } else s)) ∧
    (s.sec.grant = none → exec .debugGrantExpiry s = .next s) ∧
    (∀ g, s.sec.grant = some g → exec .debugGrantExpiry s = .next (if g.notAfter < now s / secI then endGrant s 0 else s)) ∧
    (s.sec.lockUntil = none → exec .tokenLockExpiry s = .next s) ∧
    (∀ t0, s.sec.lockUntil = some t0 → exec .tokenLockExpiry s = .next (if t0 ≤ s.dev.ticks then { s with sec := { s.sec with lockUntil := none } } else s)) ∧
    (s.sec.otpBusy = none → otpMay s (regGet s R.secOtpProgAddr) = true →
      exec .otpProgGo s = .next { s with sec := { s.sec with otpBusy := some (regGet s R.secOtpProgAddr, regGet s R.secOtpProgData) } }) ∧
    (otpMay s (regGet s R.secOtpProgAddr) = false ∨ s.sec.otpBusy.isSome → exec .otpProgGo s = .next (flagSet s R.secStat 7 true)) ∧
    (∀ v, s.sec.otpBusy = none → exec (.otpProgDone v) s = .next s) ∧
    (∀ a d v u, s.sec.otpBusy = some (a, d) → u = { s with sec := { s.sec with otpBusy := none }, otp := s.otp.withWord a (v % 2 ^ 32) } →
      exec (.otpProgDone v) s = .next (if v % 2 ^ 32 = Nat.lor (s.otp.word a) d then u else flagSet u R.secStat 7 true))

/-- In BOOT with the chain under way on a part that runs with PWR_FAIL_N high: a stage 0 whose OTP sense or flash fails (after the front end's calibration), a vendor stage with no image that verifies, a scheme stage with DRAM trained and no image in the selected slot or one that fails, and DRAM training that fails each halt the chain, with the cause that R520 gives: the part stays in BOOT, boot_err is set, the cause is recorded, BOOT_HALTED is raised, every DTO is held inactive, and the link stays as it is. A halted chain does nothing on a further BOOT_STAGE_VERIFIED. (R28, R520, R517, R519) -/
def Obligations.FailedStageHaltsInBoot : Prop :=
  ∀ s : State, s.dev.mode = .boot → s.sec.halted = false → s.sec.chainDone = false → partRuns s = true → s.pwr.failLow = false →
    (∀ otpOk flashOk c, s.sec.stage = 0 → (otpOk = false ∧ c = 1 ∨ otpOk = true ∧ (flashOk = false ∨ s.flash.bcbOk = false) ∧ c = 2) →
      exec (.bootStageVerified otpOk flashOk) s = .next (haltChain (bootCal s) c)) ∧
    (∀ x, s.sec.stage = 0 → s.flash.bcbOk = true → pickVendor (makeIdentity (bootCal s)) 0 = .inl x → exec (.bootStageVerified true true) s = .next (haltChain (makeIdentity (bootCal s)) (if x = .roll then 4 else 3))) ∧
    (∀ otpOk flashOk x, s.sec.stage = 1 → pickVendor s 1 = .inl x → exec (.bootStageVerified otpOk flashOk) s = .next (haltChain s (if x = .roll then 6 else 5))) ∧
    (∀ otpOk flashOk, s.sec.stage = 2 → s.sec.dramDone = true → s.flash.slot 2 s.flash.schSel = none → exec (.bootStageVerified otpOk flashOk) s = .next (haltChain s 8)) ∧
    (∀ otpOk flashOk img x, s.sec.stage = 2 → s.sec.dramDone = true → s.flash.slot 2 s.flash.schSel = some img → verifyErr s 2 img = some x →
      exec (.bootStageVerified otpOk flashOk) s = .next (match x with | .key => haltChain s 9 | .roll => haltChain s 10 | .shape e => haltChain (loadRejected s e) 11)) ∧
    (∀ eight, s.sec.stage ≠ 0 → s.sec.dramDone = false → exec (.dramTrainingDone false eight) s = .next (haltChain s 7)) ∧
    (∀ c i, (haltChain s c).dev.mode = .boot ∧ (haltChain s c).dev.bootErr = true ∧ (haltChain s c).sec.halted = true ∧ (haltChain s c).sec.cause = c ∧
      (∃ u, haltChain s c = raise 0x0103 u) ∧ dtoHeld (haltChain s c) i = true ∧ (haltChain s c).hif.linkUp = s.hif.linkUp ∧ (∀ a b, exec (.bootStageVerified a b) (haltChain s c) = .next (haltChain s c)))

/-- In BOOT with the chain under way on a part that runs with PWR_FAIL_N high: a vendor stage whose image verifies (stage-1 from the selected or the other slot after the front end's calibration, then the library) moves the chain to the next stage with the slot, key and measurement of that image; the scheme stage waits for DRAM training, then takes a scheme image that verifies; the last stage applies the scheme image and enters the requested mode. DRAM training that succeeds is recorded, with the density and the largest record area in DEV_CAP2. On a part not in BOOT, halted or whose chain is done, BOOT_STAGE_VERIFIED changes nothing, and DRAM training that is not awaited changes nothing. (R517, R519, R524, R578) -/
def Obligations.BootChainAdvances : Prop :=
  (∀ (s : State) (a b : Bool), (s.dev.mode ≠ .boot ∨ s.sec.halted = true ∨ s.sec.chainDone = true ∨ partRuns s = false ∨ s.pwr.failLow = true → exec (.bootStageVerified a b) s = .next s) ∧
    (s.dev.mode ≠ .boot ∨ s.sec.halted = true ∨ s.sec.dramDone = true ∨ s.sec.stage = 0 ∨ partRuns s = false ∨ s.pwr.failLow = true → exec (.dramTrainingDone a b) s = .next s)) ∧
  ∀ s : State, s.dev.mode = .boot → s.sec.halted = false → s.sec.chainDone = false → partRuns s = true → s.pwr.failLow = false →
    (∀ b f img, s.sec.stage = 0 → s.flash.bcbOk = true → pickVendor (makeIdentity (bootCal s)) 0 = .inr (b, f, img) →
      ∃ t, exec (.bootStageVerified true true) s = .next t ∧ t.sec.stage = 1 ∧ t.sec.s1Slot = b ∧ t.sec.s1Key = imgKey img % 4 ∧ t.sec.meas1 = sha256 img ∧ t.dev.mode = .boot) ∧
    (∀ x y b f img, s.sec.stage = 1 → pickVendor s 1 = .inr (b, f, img) →
      ∃ t, exec (.bootStageVerified x y) s = .next t ∧ t.sec.stage = 2 ∧ t.sec.libSlot = b ∧ t.sec.libKey = imgKey img % 4 ∧ t.sec.meas2 = sha256 img ∧ t.sec.libVer = field img 36 4) ∧
    (∀ x y, s.sec.stage = 2 → s.sec.dramDone = false → exec (.bootStageVerified x y) s = .next s) ∧
    (∀ x y img, s.sec.stage = 2 → s.sec.dramDone = true → s.flash.slot 2 s.flash.schSel = some img → verifyErr s 2 img = none →
      ∃ t, exec (.bootStageVerified x y) s = .next t ∧ t.sec.stage = 3 ∧ t.sec.schSlot = s.flash.schSel) ∧
    (∀ x y, 3 ≤ s.sec.stage → exec (.bootStageVerified x y) s = .next (bootEnter s)) ∧
    (∀ eight, s.sec.stage ≠ 0 → s.sec.dramDone = false → ∃ t, exec (.dramTrainingDone true eight) s = .next t ∧ t.sec.dramDone = true ∧
      fld t R.devCap2 31 28 = (if eight then 2 else 1) ∧ fld t R.devCap2 27 20 = (if eight then 96 else 42) ∧ fld t R.cupAreaCfg 7 0 ≤ (if eight then 96 else 42))

/-- On a part that runs with no dying sequence, in any mode but BOOT and SAFE: RAIL_FAULT with PWR_FAIL_N high, PLL_LOCK_LOSS, D2D_FAILURE and THERMAL_SAFE at 155 °C or more each answer a state in SAFE, with the cause (3, 4, 5, 2) and the mode left recorded and no MODE_SET pending. With PWR_FAIL_N low a rail fault is recorded and nothing else changes. In SAFE a further condition keeps the mode and records the last cause; in BOOT nothing but the record of the condition changes, with the count, flag and event of a rail fault. While the dying sequence runs, PLL loss and D2D failure are recorded only, but at the very moment it began, at which SAFE is entered too and the dying block names it. A part that does not run takes none of these, and a reading below 155 °C is recorded only. (R31, R549, R542, R557) -/
def Obligations.SafeConditionsEnterSafe : Prop :=
  (∀ s : State, (partRuns s = false → (∀ rail, exec (.railFault rail) s = .next s) ∧ exec .pllLockLoss s = .next s ∧ exec .d2dFailure s = .next s) ∧
    (∀ n temp, partRuns s = false ∨ temp < 155 * 16 → exec (.thermalSafe n temp) s = .next (setTemp s n temp)) ∧
    (∀ d, s.pwr.dying = some d → partRuns s = true →
      (d.since ≠ s.dev.ticks ∨ d.phase ≠ .hold → exec .pllLockLoss s = .next { s with pwr := { s.pwr with pllLost := some s.dev.ticks } } ∧ exec .d2dFailure s = .next { s with pwr := { s.pwr with d2dOk := false } }) ∧
      (d.since = s.dev.ticks → d.phase = .hold → s.dev.mode ≠ .boot → s.dev.mode ≠ .safe → ∃ t, exec .pllLockLoss s = .next t ∧ t.dev.mode = .safe ∧ t.pwr.dying = some { d with mode := .safe, cause := 4 }))) ∧
  ∀ s : State, partRuns s = true → s.pwr.dying = none →
    (s.dev.mode ≠ .boot → s.dev.mode ≠ .safe →
      (∀ rail, rail < 8 → s.pwr.failLow = false → ∃ t, exec (.railFault rail) s = .next t ∧ t.dev.mode = .safe ∧ t.pwr.safeCause = 3 ∧ t.dev.prev = s.dev.mode ∧ t.dev.pend = none) ∧
      (∃ t, exec .pllLockLoss s = .next t ∧ t.dev.mode = .safe ∧ t.pwr.safeCause = 4 ∧ t.dev.prev = s.dev.mode ∧ t.dev.pend = none) ∧
      (∃ t, exec .d2dFailure s = .next t ∧ t.dev.mode = .safe ∧ t.pwr.safeCause = 5 ∧ t.dev.prev = s.dev.mode ∧ t.dev.pend = none) ∧
      (∀ n temp, n < 40 → 155 * 16 ≤ temp → ∃ t, exec (.thermalSafe n temp) s = .next t ∧ t.dev.mode = .safe ∧ t.pwr.safeCause = 2 ∧ t.dev.prev = s.dev.mode ∧ t.dev.pend = none)) ∧
    (∀ rail, rail < 8 → s.pwr.failLow = true → exec (.railFault rail) s = .next { s with pwr := { s.pwr with railFault := tset s.pwr.railFault rail s.dev.ticks } }) ∧
    (∀ rail u, rail < 8 → s.pwr.failLow = false → u = raise 0x0209 (flagSet (bump { s with pwr := { s.pwr with railFault := tset s.pwr.railFault rail s.dev.ticks } } R.pwrSupplyFaultCnt) R.pwrStat 3 true) (items := [(1, rail)]) →
      (s.dev.mode = .safe → exec (.railFault rail) s = .next { u with pwr := { u.pwr with safeCause := 3 } }) ∧ (s.dev.mode = .boot → exec (.railFault rail) s = .next u)) ∧
    (s.dev.mode = .safe → exec .pllLockLoss s = .next { s with pwr := { s.pwr with pllLost := some s.dev.ticks, safeCause := 4 } } ∧
      exec .d2dFailure s = .next { s with pwr := { s.pwr with d2dOk := false, safeCause := 5 } } ∧
      (∀ n temp, n < 40 → 155 * 16 ≤ temp → exec (.thermalSafe n temp) s = .next { setTemp s n temp with pwr := { (setTemp s n temp).pwr with safeCause := 2 } })) ∧
    (s.dev.mode = .boot → exec .pllLockLoss s = .next { s with pwr := { s.pwr with pllLost := some s.dev.ticks } } ∧
      exec .d2dFailure s = .next { s with pwr := { s.pwr with d2dOk := false } } ∧ (∀ n temp, exec (.thermalSafe n temp) s = .next (setTemp s n temp)))

/-- On a part that runs, PWR_FAIL_ASSERT starts the dying sequence outside BOOT (its hold phase, at t_d now; POWER_FAIL is raised and a SELFTEST stops); in BOOT, in a dying sequence or on a part that does not run it only records the low pin. PROT_HOLD_END once the hold time has passed gates the islands: no bay, no stream, no filter state is left, the pins stay, and the writing phase begins. DYING_BLOCK_WRITTEN in the writing phase writes the block and leaves the part in BOOT, halted, with its pins as they were. PWR_FAIL_RELEASE then, or in a BOOT that waited, POWER_GOOD, RESET_N_ASSERT, THERMAL_SHUTDOWN at 165 °C and THERMAL_SHUTDOWN_RELEASE with every sensor below 140 °C each leave every island at reset in BOOT, with OTP, flash and host memory kept; a dying block that a reset or a shutdown cuts off breaks its bank. Where its condition does not hold, each changes nothing but the temperatures read. (R541, R543, R544, R545, R523, R589, R550) -/
def Obligations.PowerLossWritesTheDyingBlock : Prop :=
  ∀ s : State,
    (s.pwr.failLow = false → s.dev.mode ≠ .boot → s.pwr.dying = none → partRuns s = true →
      ∃ t d, exec .pwrFailAssert s = .next t ∧ t.pwr.failLow = true ∧ t.pwr.dying = some d ∧ d.phase = .hold ∧ d.since = s.dev.ticks ∧ d.at_ = attNow s ∧ d.mode = s.dev.mode ∧ t.pwr.selftest = none ∧
        t.dev = s.dev ∧ ∃ u, t = raise 0x0201 u) ∧
    (s.pwr.failLow = false → s.dev.mode = .boot ∨ s.pwr.dying.isSome ∨ partRuns s = false → exec .pwrFailAssert s = .next { s with pwr := { s.pwr with failLow := true } }) ∧
    (s.pwr.failLow = true → exec .pwrFailAssert s = .next s) ∧
    (∀ d, s.pwr.dying = some d → d.phase = .hold → d.since + fld s R.pwrDyingCfg 2 0 * msT ≤ s.dev.ticks →
      ∃ t, exec .protHoldEnd s = .next t ∧ t.bays = [] ∧ t.svi.streams = [] ∧ t.flt = ⟨[]⟩ ∧ t.afe = Afe.reset ∧ t.cup.bays = [] ∧ t.mir = Mir.reset ∧ t.pwr.dying = some { d with phase := .writing }) ∧
    (s.pwr.dying = none ∨ (∃ d, s.pwr.dying = some d ∧ (d.phase ≠ .hold ∨ s.dev.ticks < d.since + fld s R.pwrDyingCfg 2 0 * msT)) → exec .protHoldEnd s = .next s) ∧
    (∀ d dur en, s.pwr.dying = some d → d.phase = .writing →
      ∃ t, exec (.dyingBlockWritten dur en) s = .next t ∧ t.dev.mode = .boot ∧ t.pwr.dying = some { d with phase := .halted } ∧ t.pwr.failLow = true ∧ t.flash = writeBlock s d dur en ∧ t.cfg.dtos = s.cfg.dtos ∧ t.bays = []) ∧
    (∀ dur en, s.pwr.dying = none ∨ (∃ d, s.pwr.dying = some d ∧ d.phase ≠ .writing) → exec (.dyingBlockWritten dur en) s = .next s) ∧
    (s.pwr.shutdown = false → s.pwr.dying = none ∨ (∃ d, s.pwr.dying = some d ∧ d.phase = .halted) →
      ∃ t, exec .powerGood s = .next t ∧ AtBoot s t ∧ t.pwr = { Pwr.reset with temps := s.pwr.temps } ∧ t.flash = s.flash) ∧
    (s.pwr.shutdown = true ∨ (∃ d, s.pwr.dying = some d ∧ d.phase ≠ .halted) → exec .powerGood s = .next s) ∧
    ((∃ d, s.pwr.dying = some d ∧ d.phase = .halted) ∨ (s.pwr.dying = none ∧ s.dev.mode = .boot ∧ s.pwr.failLow = true) → s.pwr.resetLow = false → s.pwr.shutdown = false →
      ∃ t, exec .pwrFailRelease s = .next t ∧ AtBoot s t ∧ t.pwr.failLow = false ∧ t.pwr.dying = none ∧ t.flash = s.flash) ∧
    ((∃ d, s.pwr.dying = some d ∧ d.phase ≠ .halted) ∨ (s.pwr.dying = none ∧ (s.dev.mode ≠ .boot ∨ s.pwr.failLow = false)) ∨ s.pwr.resetLow = true ∨ s.pwr.shutdown = true → exec .pwrFailRelease s = .next s) ∧
    (∃ t, exec .resetNAssert s = .next t ∧ AtBoot s t ∧ t.pwr.resetLow = true ∧ partRuns t = false ∧ t.flash = (cutDying s).flash ∧ (s.pwr.dying = none → t.flash = s.flash)) ∧
    (∀ n temp, n < 40 → 165 * 16 ≤ temp → ∃ t, exec (.thermalShutdown n temp) s = .next t ∧ AtBoot s t ∧ t.pwr.shutdown = true ∧ partRuns t = false ∧ t.flash = (cutDying s).flash) ∧
    (∀ n temp, 40 ≤ n ∨ temp < 165 * 16 → exec (.thermalShutdown n temp) s = .next (setTemp s n temp)) ∧
    (∀ ts, s.pwr.shutdown = true → allBelow (setTemps s ts) 140 = true → ∃ t, exec (.thermalShutdownRelease ts) s = .next t ∧ AtBoot s t ∧ t.pwr.shutdown = false ∧ t.flash = s.flash) ∧
    (∀ ts, s.pwr.shutdown = false ∨ allBelow (setTemps s ts) 140 = false → exec (.thermalShutdownRelease ts) s = .next (setTemps s ts))

/-- THERMAL_THROTTLE at 140 °C on a part that runs unthrottled throttles it, counts, raises THERMAL_THROTTLE and enters the time among the throttle entries; otherwise it records the reading only. THERMAL_RELEASE with every sensor below 135 °C for 10 s ends it with THERMAL_RELEASE; otherwise it records the readings only. THERMAL_MARGIN_CLEAR keeps the throttle entries of the last 24 h and leaves cause bit 5 set exactly when they reach margin_n. DRAM_CE_HIGH above ce_thr after BOOT sets cause bit 4; otherwise it records the count only. DRAM_CE_HOUR_END with a count within ce_thr clears cause 4, with a higher one it does not; the hour's count begins at 0. (R552, R553, R554, R556, R551) -/
def Obligations.ThermalAndDramHealth : Prop :=
  ∀ s : State,
    (∀ n temp, n < 40 → 140 * 16 ≤ temp → s.pwr.throttle = false → partRuns s = true →
      ∃ t, exec (.thermalThrottle n temp) s = .next t ∧ t.pwr.throttle = true ∧ tget? t.pwr.temps n = some temp ∧
        t.pwr.throttleAt = (s.dev.ticks :: s.pwr.throttleAt).filter (fun x => decide (s.dev.ticks < x + 24 * 3600 * secT)) ∧
        regGet t R.pwrThrottleCnt = capN (2 ^ 32 - 1) (regGet s R.pwrThrottleCnt + 1) ∧ t.dev = s.dev) ∧
    (∀ n temp, 40 ≤ n ∨ temp < 140 * 16 ∨ s.pwr.throttle = true ∨ partRuns s = false → exec (.thermalThrottle n temp) s = .next (setTemp s n temp)) ∧
    (∀ ts, exec (.thermalRelease ts) s = .next (if s.pwr.throttle = true ∧ allBelow (setTemps s ts) 135 = true ∧ s.pwr.hotAt + 10 * secT ≤ s.dev.ticks
      then cfgKick (raise 0x0206 { setTemps s ts with pwr := { (setTemps s ts).pwr with throttle := false } }) else setTemps s ts)) ∧
    (∃ t, exec .thermalMarginClear s = .next t ∧ t.pwr.throttleAt = s.pwr.throttleAt.filter (fun x => decide (s.dev.ticks < x + 24 * 3600 * secT)) ∧
      bitOf t.pwr.causes 5 = decide (fld s R.pwrThermCfg 7 4 ≤ t.pwr.throttleAt.length)) ∧
    (∀ n, fld s R.pwrDramCfg 7 0 < n → s.dev.mode ≠ .boot → ∃ t, exec (.dramCeHigh n) s = .next t ∧ bitOf t.pwr.causes 4 = true ∧ t.dev = s.dev) ∧
    (∀ n, n ≤ fld s R.pwrDramCfg 7 0 ∨ s.dev.mode = .boot → exec (.dramCeHigh n) s = .next (regSet s R.pwrDramCeCnt (capN (2 ^ 32 - 1) n))) ∧
    (∀ n, n ≤ fld s R.pwrDramCfg 7 0 → ∃ t, exec (.dramCeHourEnd n) s = .next t ∧ bitOf t.pwr.causes 4 = false ∧ regGet t R.pwrDramCeCnt = 0) ∧
    (∀ n, fld s R.pwrDramCfg 7 0 < n → exec (.dramCeHourEnd n) s = .next (regSet s R.pwrDramCeCnt 0))

/-- A SCHED_ADD that R491 takes completes with BAD_PARAM where a parameter breaks R69 and with NO_RESOURCE where no slot is free or the named one is occupied. Otherwise, with L = now + 10 us less the action's ATT: L at most 0 holds the action in the slot and completes with OK and the slot number; L above 0 within the limit puts it there with now + 10 us as its least instant and defers the completion; L above 0 and above the limit completes with PAST and no slot changes. (R69, R71, R72) -/
def Obligations.SchedAddByLateness : Prop :=
  ∀ (s : State) (e : CmdEntry) (i : Nat), Taken s e usedSchedAdd i →
    (schedBad s e.params = true → exec (.schedAdd e) s = .next (badCpl s (accepted s 0x21 e i) 0x21 e i stBadParam)) ∧
    (schedBad s e.params = false → slotFor s (field e.params 0 2) = none → exec (.schedAdd e) s = .next (badCpl s (accepted s 0x21 e i) 0x21 e i stNoResource)) ∧
    (∀ (n : Nat) (L : Int), schedBad s e.params = false → slotFor s (field e.params 0 2) = some n → L = (now s : Int) + 10 * usI - schedAtt e.params →
      (L ≤ 0 → exec (.schedAdd e) s = .next (okCpl s { accepted s 0x21 e i with alm := { s.alm with slots := tset s.alm.slots n (schedOf e.params) } } 0x21 e i Att.zero (leBytes 2 n))) ∧
      (0 < L → L ≤ fld s R.almSchedCfg 15 0 * msI →
        exec (.schedAdd e) s = .next { accepted s 0x21 e i with alm := { s.alm with slots := tset s.alm.slots n { schedOf e.params with late := some s.hif.nextCid, earliest := now s + 10 * usI } } }) ∧
      (0 < L → (fld s R.almSchedCfg 15 0 * msI : Nat) < L → exec (.schedAdd e) s = .next (badCpl s (accepted s 0x21 e i) 0x21 e i stPast)))

/-- A SCHED_CANCEL that R491 takes completes with BAD_PARAM for an empty slot (and for a number above 63); with BUSY, the slots unchanged, when the action's execution instant lies less than 10 us ahead; and with OK otherwise, the slot erased and a completion deferred for that action ended with ABORTED. (R76) -/
def Obligations.SchedCancelFreesUnlessNear : Prop :=
  ∀ (s : State) (e : CmdEntry) (i n : Nat), Taken s e usedSchedCancel i → n = field e.params 0 2 →
    (63 < n ∨ tget? s.alm.slots n = none → exec (.schedCancel e) s = .next (badCpl s (accepted s 0x22 e i) 0x22 e i stBadParam)) ∧
    (∀ x, n ≤ 63 → tget? s.alm.slots n = some x → x.instant s < now s + 10 * usI → exec (.schedCancel e) s = .next (badCpl s (accepted s 0x22 e i) 0x22 e i stBusy)) ∧
    (∀ x, n ≤ 63 → tget? s.alm.slots n = some x → now s + 10 * usI ≤ x.instant s →
      exec (.schedCancel e) s = .next (okCpl s (endSlot { accepted s 0x22 e i with alm := { s.alm with slots := terase s.alm.slots n } } x stAborted) 0x22 e i Att.zero []))

/-- An AFE_SNAP that R491 takes, whose mask names at least one channel and only channels with a path, with flags 0 or 1 and a host address aligned to 64: without the timed flag and with a zero time, the snapshot is queued for the first 0.25 ns instant 10 us from now or later; with it, and ns below 10^9 and a free slot, it takes the lowest free slot as action 5, its completion deferred, and PAST where the late rule rejects it. A mask of 0 completes with BAD_PARAM. (R90, R91, R92) -/
def Obligations.AfeSnapIsQueuedOrSlotted : Prop :=
  ∀ (s : State) (e : CmdEntry) (i : Nat), Taken s e usedAfeSnap i →
    (field e.params 0 4 = 0 → exec (.afeSnap e) s = .next (badCpl s (accepted s 0x30 e i) 0x30 e i stBadParam)) ∧
    (field e.params 0 4 ≠ 0 → field e.params 4 1 ≤ 1 → field e.params 24 8 % 64 = 0 → (∀ c ∈ setBits 32 (field e.params 0 4), chHasPath s c = true) →
      (field e.params 4 1 = 0 → field e.params 8 8 = 0 → field e.params 16 4 = 0 → field e.params 20 2 = 0 →
        exec (.afeSnap e) s = .next { accepted s 0x30 e i with
          afe := { s.afe with snaps := s.afe.snaps ++ [⟨field e.params 0 4, cdivN (now s + 10 * usI) 16384, field e.params 24 8, some s.hif.nextCid, false⟩] } }) ∧
      (∀ n, field e.params 4 1 = 1 → field e.params 16 4 ≤ 999999999 → slotFor s 0xFFFF = some n →
        (lateness s (schedAtt e.params) = 2 → exec (.afeSnap e) s = .next (badCpl s (accepted s 0x30 e i) 0x30 e i stPast)) ∧
        (lateness s (schedAtt e.params) ≠ 2 → exec (.afeSnap e) s = .next { accepted s 0x30 e i with alm := { s.alm with
          slots := tset s.alm.slots n ⟨5, false, 0xFFFF, 0, schedAtt e.params, field e.params 0 4, 0, none,
            if lateness s (schedAtt e.params) = 1 then now s + 10 * usI else 0, some (s.hif.nextCid, field e.params 24 8)⟩ } })))

/-- With no slot's execution instant reached SCHED_EXECUTE changes nothing. Otherwise the held action whose instant came first, the lowest slot among equal instants, is run: where a case of R74 applies, its slot is erased with SCHED_SKIPPED and a deferred completion reports ABORTED; else its effect is applied at its instant, with its slot erased, or for a repeating action kept with the ATT moved by one period; a late action's completion reports LATE and else SCHED_DONE is raised, but for an AFE_SNAP's. (R70, R72, R73, R74, R75) -/
def Obligations.ScheduledActionsRunInOrder : Prop :=
  ∀ s : State, keysFrom 0 s.alm.slots = true →
    ((∀ p ∈ s.alm.slots, now s < p.2.instant s) → exec .schedExecute s = .next s) ∧
    (∀ n x, (n, x) ∈ s.alm.slots → x.instant s ≤ now s → (∀ p ∈ s.alm.slots, x.instant s < p.2.instant s ∨ (x.instant s = p.2.instant s ∧ n ≤ p.1)) →
      (∀ r, skipReason s x (x.instant s) = some r → exec .schedExecute s = .next (endSlot
        (raise 0x030A { s with alm := { s.alm with slots := terase s.alm.slots n } } (bay := x.bay) (idx := n) (items := [(1, x.action), (1, r)])) x stAborted)) ∧
      (∀ u : State, skipReason s x (x.instant s) = none →
        u = actionEffect { s with alm := { s.alm with
          slots := (if x.rep then tset (terase s.alm.slots n) n { x with at_ := x.at_ + x.period * secI, earliest := 0, late := none } else terase s.alm.slots n) } } x (x.instant s) →
        exec .schedExecute s = .next (match x.late, x.own with
          | some c, _ => complete u c stLate (attAt u (x.instant s)) (leBytes 2 n)
          | none, some _ => u
          | none, none => raise 0x0309 u (bay := x.bay) (idx := n) (items := [(1, x.action)]) (att := some (attAt u (x.instant s))))))

/-- ALM_PRESET in lock state 0 or 1 with seconds above the current ones is accepted for the next top of a second; else only preset_rej is set. PRESET_LANDING with none waiting or before its second changes nothing; from it on, in lock state 0 or 1, the counter holds the preset seconds and 0 ns (the present time, where it has passed that instant already: time never goes back), no preset waits, the era is kept; in another lock state it is dropped with preset_rej. ALMANAC_STEP by a first lock while acquiring leaves the counter at the new time, locked, and no preset waiting; a step back is refused, disputed, and moves no time; in another lock state nothing changes. Its preset and re-step are the landing of the one that was accepted for exactly that time, and change nothing otherwise. ALM_SNAP puts the current ATT into ALM_NOW and changes no island. (R41, R44, R54, R61, R80) -/
def Obligations.PresetsAndStepsLoadTheCounter : Prop :=
  ∀ s : State,
    ((s.alm.lock = .freeRun ∨ s.alm.lock = .acquiring) → s.alm.sec < regGet s R.almPresetSecLo + regGet s R.almPresetSecHi * 2 ^ 32 →
      exec .almPreset s = .next { s with alm := { s.alm with preset := some (regGet s R.almPresetSecLo + regGet s R.almPresetSecHi * 2 ^ 32, now s / secI + 1) } }) ∧
    (¬ ((s.alm.lock = .freeRun ∨ s.alm.lock = .acquiring) ∧ s.alm.sec < regGet s R.almPresetSecLo + regGet s R.almPresetSecHi * 2 ^ 32) →
      exec .almPreset s = .next (flagSet s R.almStat 6 true)) ∧
    (s.alm.preset = none → exec .presetLanding s = .next s) ∧
    (∀ sec due, s.alm.preset = some (sec, due) →
      (now s < due * secI → exec .presetLanding s = .next s) ∧
      (due * secI ≤ now s → (s.alm.lock = .freeRun ∨ s.alm.lock = .acquiring) →
        ∃ t, exec .presetLanding s = .next t ∧ now t = (if now s ≤ sec * secI then sec * secI else now s) ∧ (now s ≤ sec * secI → t.alm.sec = sec ∧ t.alm.ns = 0 ∧ t.alm.frac = 0) ∧
          t.alm.preset = none ∧ t.alm.era = s.alm.era) ∧
      (due * secI ≤ now s → ¬ (s.alm.lock = .freeRun ∨ s.alm.lock = .acquiring) →
        exec .presetLanding s = .next (flagSet { s with alm := { s.alm with preset := none } } R.almStat 6 true))) ∧
    (∀ sec ns, s.alm.lock = .acquiring →
      (now s ≤ sec * secI + ns % 10 ^ 9 * nsI →
        ∃ t, exec (.almanacStep sec ns .firstLock) s = .next t ∧ t.alm.sec = sec ∧ t.alm.ns = ns % 10 ^ 9 ∧ t.alm.lock = .locked ∧ t.alm.preset = none ∧ t.alm.era = s.alm.era) ∧
      (sec * secI + ns % 10 ^ 9 * nsI < now s →
        ∃ t, exec (.almanacStep sec ns .firstLock) s = .next t ∧ now t = now s ∧ t.alm.lock = .disputed ∧ t.alm.stepRefused = true)) ∧
    (∀ sec ns, s.alm.lock ≠ .acquiring → exec (.almanacStep sec ns .firstLock) s = .next s) ∧
    (∀ sec ns, exec (.almanacStep sec ns .preset) s = (if s.alm.preset.map Prod.fst = some sec ∧ ns = 0 then exec .presetLanding s else .next s)) ∧
    (∀ sec ns, exec (.almanacStep sec ns .restep) s = (if s.alm.restep.map Prod.snd = some (sec * secI + ns % 10 ^ 9 * nsI) then exec .restepLanding s else .next s)) ∧
    (∃ t, exec .almSnap s = .next t ∧ t = { s with regs := t.regs } ∧ regGet t R.almNowSecLo = (attNow s).sec % 2 ^ 32 ∧ regGet t R.almNowSecHi = (attNow s).sec / 2 ^ 32 % 2 ^ 32 ∧
      regGet t R.almNowNs = (attNow s).ns % 2 ^ 32 ∧ regGet t R.almNowFq = ((attNow s).frac * 65536 + (attNow s).q.toNat) % 2 ^ 32)

/-- In the disputed state, DISPUTE_HOLD_EXPIRY with the hold run out and no slew starts the slew toward the last offset and else changes nothing; RESTEP_READY once the candidate time has persisted for confirm_s sets restep_ready and else changes nothing. RESTEP_LANDING, disputed and with a re-step waiting whose instant the candidate time has reached, leaves the counter at that instant, the era one higher, the lock state at 2 and no re-step waiting, and completes TIME_RESTEP with OK and the new ATT; before the instant, or with none waiting, it changes nothing. With the Almanac locked and its increment within 300 ppm, a measurement counted beyond any threshold or farther than the dispute threshold leaves it disputed with the increment kept and the dispute hold started; any other leaves it locked with the increment changed by no more than the slew limit and still within 300 ppm of 1.25 ns. In free-run a measurement changes nothing but the offset held. In the disputed state a measurement beyond any threshold neither locks nor moves the time. (R37, R53, R54, R58, R60, R61) -/
def Obligations.MeasurementsSteerTheAlmanac : Prop :=
  (∀ s : State,
    (s.alm.lock = .disputed → s.alm.slewing = false → s.alm.holdUntil ≤ now s →
      exec .disputeHoldExpiry s = .next (setInc { s with alm := { s.alm with slewing := true, slewLeft := s.alm.lastOfs * 2 ^ 32 } } (slewInc s (s.alm.lastOfs * 2 ^ 32)))) ∧
    (¬ (s.alm.lock = .disputed ∧ s.alm.slewing = false ∧ s.alm.holdUntil ≤ now s) → exec .disputeHoldExpiry s = .next s) ∧
    (s.alm.lock = .disputed → s.alm.restepReady = false → s.alm.candSince + fld s R.almRestepCfg 11 0 * secI ≤ now s →
      exec .restepReady s = .next { s with alm := { s.alm with restepReady := true } }) ∧
    (¬ (s.alm.lock = .disputed ∧ s.alm.restepReady = false ∧ s.alm.candSince + fld s R.almRestepCfg 11 0 * secI ≤ now s) → exec .restepReady s = .next s) ∧
    (s.alm.restep = none → exec .restepLanding s = .next s) ∧
    (∀ cid at_, s.alm.restep = some (cid, at_) →
      (s.alm.lock = .disputed → (at_ : Int) ≤ candTime s →
        ∃ u, exec .restepLanding s = .next (complete u cid stOk (attAt u at_)) ∧ now u = at_ ∧ u.alm.era = s.alm.era + 1 ∧ u.alm.lock = .locked ∧ u.alm.restep = none) ∧
      (candTime s < at_ ∨ s.alm.lock ≠ .disputed → exec .restepLanding s = .next s))) ∧
  (∀ (s : State) (ofs : Int) (beyond : Bool), rateOk s.alm.inc →
    (s.alm.lock = .locked → beyond = true ∨ fld s R.almServoCfg 15 0 * 100 * nsI < ofs.natAbs →
      (almMeasure s ofs beyond).alm.lock = .disputed ∧ (almMeasure s ofs beyond).alm.inc = s.alm.inc ∧ (almMeasure s ofs beyond).alm.slewing = false ∧
        (almMeasure s ofs beyond).alm.holdUntil = now s + fld s R.almServoCfg 23 16 * secI) ∧
    (s.alm.lock = .locked → beyond = false → ofs.natAbs ≤ fld s R.almServoCfg 15 0 * 100 * nsI →
      (almMeasure s ofs beyond).alm.lock = .locked ∧ rateOk (almMeasure s ofs beyond).alm.inc ∧
        (((almMeasure s ofs beyond).alm.inc : Int) - s.alm.inc).natAbs ≤ incNominal * fld s R.almServoCfg 31 24 / 10 ^ 6) ∧
    (s.alm.lock = .freeRun → almMeasure s ofs beyond = { s with alm := { s.alm with lastOfs := ofs } }) ∧
    (s.alm.lock = .disputed → beyond = true → (almMeasure s ofs beyond).alm.lock = .disputed ∧ now (almMeasure s ofs beyond) = now s))

/-- PPS_IN_EDGE makes PPS usable and, where PPS is then the source, measures the distance to the top of a second after the input delay, beyond any threshold past 100 ms. A second bad IRIG-B frame in a row leaves IRIG-B not usable, a good one usable. SOURCE_LOST for PPS 1.5 s after its last edge, or for IRIG-B with two frames missing or malformed, leaves it not usable, and for PTP judges the grandmasters known and the Sync interval; else it changes nothing. A Sync with an interval of R47 from the selected grandmaster on its port makes PTP usable and, where PTP is then the source, is a measurement of origin plus correction plus path delay less its arrival; another changes nothing. An Announce that is heard leaves its grandmaster among those known; one that is not changes nothing. A peer-delay response gives its port's path delay; a request is answered on its port. An event message forwarded between two ports goes out on the egress port: a one-step Sync with the ingress path delay plus its residence time added to its correctionField; a two-step Sync with the path delay added and an entry with its residence time kept, the oldest of 64 given up and counted; a Delay_Req unchanged. Any other type, or a port above 5, changes nothing. A Follow_Up whose entry is held goes out with that residence added and the entry freed, and else unchanged and counted, behind its Sync where that still waits. Entries of 100 ms or more are freed by TC_ENTRY_EXPIRY. (R45, R46, R47, R49, R50, R51, R52, R62, R63) -/
def Obligations.TimeIsMeasuredAndForwarded : Prop :=
  (∀ s : State,
    (∀ (x : Int) (u : State), x = (eventInst s : Int) - toSigned 32 (regGet s R.almPpsInDelay) * nsI → u = setUsable { s with alm := { s.alm with ppsLast := s.dev.ticks } } .pps true →
      exec .ppsInEdge s = .next (if u.alm.source = .pps then almMeasure u (rdivI x secI * secI - x) (decide (100 * msI < (rdivI x secI * secI - x).natAbs)) else u)) ∧
    (∀ (f : IrigFrame) (u : State), f.good = false → u = { s with alm := { s.alm with irigBad := s.alm.irigBad + 1, irigLast := s.dev.ticks } } →
      exec (.irigbFrame f) s = .next (if 2 ≤ s.alm.irigBad + 1 then setUsable u .irig false else u)) ∧
    (∀ f : IrigFrame, f.good = true → ∃ t, exec (.irigbFrame f) s = .next t ∧ t.alm.usable.contains .irig = true ∧ t.alm.irigBad = 0 ∧ t.alm.irigLast = s.dev.ticks) ∧
    exec (.sourceLost 1) s = .next (if s.alm.ppsLast + 3 * secT / 2 ≤ s.dev.ticks then setUsable s .pps false else s) ∧
    exec (.sourceLost 2) s = .next (if 2 ≤ irigMissed s then setUsable s .irig false else s) ∧
    exec (.sourceLost 0) s = .next (selectMaster (if s.alm.syncAt + 3 * logTicks s.alm.syncIvl ≤ s.dev.ticks then { s with alm := { s.alm with syncLost := true } } else s)) ∧
    (∀ n, 2 < n → exec (.sourceLost n) s = .next s) ∧
    (∀ x v, (setUsable s x v).alm.usable.contains x = v) ∧
    (∀ (m : PtpSync) g (u : State), ptpHears s m.port m.domain = true → s.alm.gm = some g → g.id = m.gmId → m.port = s.alm.selPort → -4 ≤ m.logInterval → m.logInterval ≤ 0 →
      u = setUsable { s with alm := { s.alm with secKnown := true, syncAt := s.dev.ticks, syncIvl := m.logInterval, syncLost := false } } .ptp true →
      exec (.ptpSyncRx m) s = .next (if u.alm.source = .ptp then almMeasure u (((m.originSec * 10 ^ 9 + m.originNs) * nsI : Nat) + m.correction + tget 0 s.alm.pathDelay m.port - eventInst s) false else u)) ∧
    (∀ m : PtpSync, ptpHears s m.port m.domain = false ∨ m.port ≠ s.alm.selPort ∨ m.logInterval < -4 ∨ 0 < m.logInterval ∨ s.alm.gm = none ∨ (∃ g, s.alm.gm = some g ∧ g.id ≠ m.gmId) →
      exec (.ptpSyncRx m) s = .next s) ∧
    (∀ m : PtpAnnounce, ptpHears s m.port m.domain = true → -3 ≤ m.logInterval → m.logInterval ≤ 1 → m.steps < 255 →
      ∃ t, exec (.ptpAnnounceRx m) s = .next t ∧ ∃ g ∈ t.alm.foreign, g.id = m.gmId ∧ g.sender = m.sender ∧ g.port = m.port ∧ g.last = s.dev.ticks) ∧
    (∀ m : PtpAnnounce, ptpHears s m.port m.domain = false ∨ m.logInterval < -3 ∨ 1 < m.logInterval ∨ 255 ≤ m.steps → exec (.ptpAnnounceRx m) s = .next s) ∧
    (∀ port rp delay, exec (.ptpPdelayRx (.resp port rp delay)) s = .next (if port < 6 then { s with alm := { s.alm with pathDelay := tset s.alm.pathDelay port delay } } else s)) ∧
    (∀ port seq rp log turn, exec (.ptpPdelayRx (.req port seq rp log turn)) s =
      .next (if port < 6 ∧ pdelayLogOk log = true then ptpSend s port true (ptpHeader s 3 54 0 turn port seq 5 0x7F ++ beBytes 10 0 ++ beBytes 10 rp) else s))) ∧
  (∀ (s : State) (frame : List Byte) (inp out : Nat) (res : Int), (6 ≤ inp ∨ 6 ≤ out ∨ 1 < fieldBE frame (ptpAt frame) 1 % 16 → exec (.tcEventForward frame inp out res) s = .next s) ∧
    (6 ≤ out → exec (.tcFollowUpForward frame inp out) s = .next s)) ∧
  (∀ (s : State) (frame : List Byte) (inp out : Nat) (res : Int), out < 6 →
    (inp < 6 → fieldBE frame (ptpAt frame) 1 % 16 = 0 → bitOf (fieldBE frame (ptpAt frame + 6) 1) 1 = false →
      exec (.tcEventForward frame inp out res) s = .next (egress s out false (frameQueue s frame inp) ⟨addCorrection frame (tget 0 s.alm.pathDelay inp + res), false, false⟩)) ∧
    (∀ x, inp < 6 → fieldBE frame (ptpAt frame) 1 % 16 = 0 → bitOf (fieldBE frame (ptpAt frame + 6) 1) 1 = true →
      x = (⟨fieldBE frame (ptpAt frame + 4) 1, fieldBE frame (ptpAt frame + 20) 10, fieldBE frame (ptpAt frame + 30) 2, out, res, s.dev.ticks⟩ : TcEntry) →
      (s.alm.tc.length < 64 → exec (.tcEventForward frame inp out res) s = .next (egress { s with alm := { s.alm with tc := s.alm.tc ++ [x] } }
        out false (frameQueue s frame inp) ⟨addCorrection frame (tget 0 s.alm.pathDelay inp), false, false⟩)) ∧
      (64 ≤ s.alm.tc.length → exec (.tcEventForward frame inp out res) s = .next (egress (bumpFld { s with alm := { s.alm with tc := s.alm.tc.drop 1 ++ [x] } } R.almTcCnt 31 16)
        out false (frameQueue s frame inp) ⟨addCorrection frame (tget 0 s.alm.pathDelay inp), false, false⟩))) ∧
    (inp < 6 → fieldBE frame (ptpAt frame) 1 % 16 = 1 →
      exec (.tcEventForward frame inp out res) s = .next (egress s out false (frameQueue s frame inp) ⟨addCorrection frame 0, false, false⟩)) ∧
    (∀ q, q = (syncQueue s out (fieldBE frame (ptpAt frame + 4) 1) (fieldBE frame (ptpAt frame + 20) 10) (fieldBE frame (ptpAt frame + 30) 2)).getD (frameQueue s frame inp) →
      (∀ x, s.alm.tc.find? (fun x => decide (x.domain = fieldBE frame (ptpAt frame + 4) 1) && decide (x.portId = fieldBE frame (ptpAt frame + 20) 10) &&
          decide (x.seq = fieldBE frame (ptpAt frame + 30) 2) && decide (x.egress = out)) = some x →
        exec (.tcFollowUpForward frame inp out) s = .next (egress { s with alm := { s.alm with tc := s.alm.tc.erase x } } out false q ⟨addCorrection frame x.residence, false, false⟩)) ∧
      (s.alm.tc.find? (fun x => decide (x.domain = fieldBE frame (ptpAt frame + 4) 1) && decide (x.portId = fieldBE frame (ptpAt frame + 20) 10) &&
          decide (x.seq = fieldBE frame (ptpAt frame + 30) 2) && decide (x.egress = out)) = none →
        exec (.tcFollowUpForward frame inp out) s = .next (egress (bumpFld s R.almTcCnt 15 0) out false q ⟨frame, false, false⟩))) ∧
    exec .tcEntryExpiry s = .next { s with alm := { s.alm with tc := s.alm.tc.filter (fun x => decide (s.dev.ticks < x.since + 100 * msT)) } })

/-- LEAP_APPLY at the end of an announced UTC day changes tai_utc by 1, clears the announcement and raises LEAP_APPLIED; before it nothing changes. PPS_OUT_PULSE with out_en, an open gate, within 5 ns of the top of a new second and no BOOT raises PPS_OUT, and after out_width_ms lowers it; with the output low and any of these missing it changes nothing. HOLDOVER_TRACE_LOSS brings err_class up to date and, in holdover with err_class above trace_class, ends traceability. PTP_INTERVAL_SEND sends a Sync or an Announce on a boundary-clock port, or a Pdelay_Req on a PTP port, with the port's next sequence number, and else changes nothing. (R47, R48, R56, R65, R66) -/
def Obligations.LeapPpsOutAndPtpIntervals : Prop :=
  ∀ s : State,
    (∀ (d off : Int), d = (if s.alm.leapDir then -1 else 1) → off = toSigned 16 (fld s R.almUtcOffset 15 0) →
      (s.alm.leapPending = true → ((s.alm.leapDay : Int) + 1) * 86400 + off + d ≤ (now s / secI : Nat) →
        exec .leapApply s = .next (raise 0x0307 (fldSet { s with alm := { s.alm with leapPending := false, leapDir := false, leapAt := some ((((s.alm.leapDay : Int) + 1) * 86400 + off + d).toNat, s.alm.leapDir) } } R.almUtcOffset 15 0 (ofSigned 16 (off + d))))) ∧
      (s.alm.leapPending = false ∨ (now s / secI : Nat) < ((s.alm.leapDay : Int) + 1) * 86400 + off + d → exec .leapApply s = .next s)) ∧
    (s.alm.ppsOut = none → s.alm.ppsSec < now s / secI → now s % secI ≤ 5 * nsI → flag s R.almPpsCfg 0 = true → s.dev.mode ≠ .boot →
      (flag s R.almPpsCfg 1 = false ∨ s.alm.lock = .locked ∨ s.alm.lock = .holdover ∧ s.alm.traceable = true) →
      exec .ppsOutPulse s = .next { s with alm := { s.alm with ppsOut := some s.dev.ticks, ppsSec := now s / secI } }) ∧
    (s.alm.ppsOut = none → s.dev.mode = .boot ∨ now s / secI ≤ s.alm.ppsSec ∨ 5 * nsI < now s % secI ∨ flag s R.almPpsCfg 0 = false ∨
      (flag s R.almPpsCfg 1 = true ∧ s.alm.lock ≠ .locked ∧ ¬ (s.alm.lock = .holdover ∧ s.alm.traceable = true)) → exec .ppsOutPulse s = .next s) ∧
    (∀ t, s.alm.ppsOut = some t → exec .ppsOutPulse s = .next (if t + fld s R.almPpsCfg 11 2 * msT ≤ s.dev.ticks then { s with alm := { s.alm with ppsOut := none } } else s)) ∧
    (∀ u : State, u = refreshErr s → exec .holdoverTraceLoss s =
      .next (if s.alm.lock = .holdover ∧ s.alm.traceable = true ∧ fld s R.almHoldCfg 23 16 < u.alm.errClass then { u with alm := { u.alm with traceable := false } } else u)) ∧
    (∀ kind port (u : State), u = { s with alm := { s.alm with ptpSeq := tset s.alm.ptpSeq (port * 4 + kind) ((tget 0 s.alm.ptpSeq (port * 4 + kind) + 1) % 65536) } } →
      ((port = 4 ∧ flag s R.almPtpCfg 20 = true ∨ port = 5 ∧ flag s R.almPtpCfg 21 = true) →
        (kind = 0 → exec (.ptpIntervalSend kind port) s = .next (ptpSend u port false (ptpHeader s 0 44 0 0 port (tget 0 s.alm.ptpSeq (port * 4 + kind)) 0 0 ++ ptpStamp (eventInst s)))) ∧
        (kind = 1 → exec (.ptpIntervalSend kind port) s =
          .next (ptpSend u port false (ptpHeader s 11 64 (announceFlags s) 0 port (tget 0 s.alm.ptpSeq (port * 4 + kind)) 5 0 ++ announceBody s)))) ∧
      (kind = 2 → (port < 4 ∧ flag s R.almPtpCfg (16 + port) = true) ∨ (port = 4 ∧ flag s R.almPtpCfg 20 = true) ∨ (port = 5 ∧ flag s R.almPtpCfg 21 = true) → exec (.ptpIntervalSend kind port) s =
        .next (ptpSend u port true (ptpHeader s 2 54 0 0 port (tget 0 s.alm.ptpSeq (port * 4 + kind)) 5 0x7F ++ ptpStamp (now s) ++ beBytes 10 0))) ∧
      (2 < kind ∨ 6 ≤ port ∨ (port = 4 ∧ flag s R.almPtpCfg 20 = false) ∨ (port = 5 ∧ flag s R.almPtpCfg 21 = false) ∨ (port < 4 ∧ (kind ≠ 2 ∨ flag s R.almPtpCfg (16 + port) = false)) → exec (.ptpIntervalSend kind port) s = .next s))

/-- A SAMPLE_SYNC_EDGE whose tag is not the present one changes nothing. Any other first judges a TAI second that has ended: with edge_src 1 on a running path a second counted from its top sets sync_rate_err unless 2,073,186 to 2,074,014 edges were counted, and the count begins anew. Then, with edge_src 1 on a running path and the edge of the chosen polarity: while SAMPLE_SYNC is in use an edge on a ready front end starts a conversion at the edge; one within 160 ns of the last hold is latched; a further one is ignored, kept for the channels that convert, and counted; while the grid is in use it is counted only. LATCHED_CONVERSION_START starts the latched one 160 ns after that hold, and without one changes nothing. An edge not of that polarity, or with edge_src 0, does no more. SYNC_LOST after 1,929 ns without an edge takes the grid with event 0x0403, and else changes nothing; SYNC_RESTORED within the first conversion period of a second after a full good one returns to SAMPLE_SYNC with event 0x0404. (R84, R86, R87, R88) -/
def Obligations.SampleSyncEdgesConvert : Prop :=
  ∀ (s v : State), v = syncRate s →
    (∀ (rising : Bool) (a : Nat), a ≠ syncTag s → exec (.sampleSyncEdge rising a) s = .next s) ∧
    (∀ (rising : Bool) (a : Nat), a = syncTag s →
      (flag v R.afeCtl 3 = false ∨ v.afe.running = false ∨ rising = flag v R.afeCtl 4 → exec (.sampleSyncEdge rising a) s = .next v) ∧
      (∀ u : State, flag v R.afeCtl 3 = true → v.afe.running = true → rising ≠ flag v R.afeCtl 4 →
        u = { v with afe := { v.afe with sync := { v.afe.sync with lastEdge := some a, edges := v.afe.sync.edges + 1, lost := v.afe.sync.lost || (match v.afe.sync.lastEdge with | some t => decide (t + 7716 < a) | none => false) } } } →
        (v.afe.sync.active = false → exec (.sampleSyncEdge rising a) s = .next u) ∧
        (v.afe.sync.active = true → v.afe.sync.latched = none → (∀ h e, v.afe.sync.hold = some (h, e) → h + 640 ≤ a) →
          ∃ t, exec (.sampleSyncEdge rising a) s = .next t ∧ t = startConv u a 0 ∧ t.afe.sync.hold = some (a, a)) ∧
        (∀ h e, v.afe.sync.active = true → v.afe.sync.latched = none → v.afe.sync.hold = some (h, e) → a < h + 640 →
          exec (.sampleSyncEdge rising a) s = .next { u with afe := { u.afe with sync := { u.afe.sync with latched := some a } } }) ∧
        (∀ l, v.afe.sync.active = true → v.afe.sync.latched = some l →
          ∃ t, exec (.sampleSyncEdge rising a) s = .next t ∧ t.afe.sync = u.afe.sync ∧ regGet t R.afeSyncOverrun = capN (2 ^ 32 - 1) (regGet v R.afeSyncOverrun + 1) ∧
            ∀ n, n < 32 → chConverts v n = true → (afeCh t n).ignored = (afeCh v n).ignored ++ [a]))) ∧
    (∀ e h x, s.afe.sync.latched = some e → s.afe.sync.hold = some (h, x) → ∃ t, exec .latchedConversionStart s = .next t ∧ t.afe.sync.latched = none ∧
      t.afe.sync.hold = some (e + (h + 640 - e), e)) ∧
    (s.afe.sync.latched = none → exec .latchedConversionStart s = .next s) ∧
    (s.afe.sync.active = true → s.afe.running = true → (∃ t, s.afe.sync.lastEdge = some t ∧ t * 16384 + 1929 * nsI ≤ now s) →
      exec .syncLost s = .next (raise 0x0403 (setSyncActive s false)) ∧ (setSyncActive s false).afe.sync.active = false) ∧
    (s.afe.sync.active = false ∨ s.afe.running = false ∨ s.afe.sync.lastEdge = none ∨ (∃ t, s.afe.sync.lastEdge = some t ∧ now s < t * 16384 + 1929 * nsI) → exec .syncLost s = .next s) ∧
    (v.afe.sync.active = false → v.afe.sync.ready = true → flag v R.afeCtl 3 = true → v.afe.running = true → eventQ v % secQ < 1929 →
      exec .syncRestored s = .next (raise 0x0404 (setSyncActive v true)) ∧ (setSyncActive v true).afe.sync.active = true) ∧
    (v.afe.sync.active = true ∨ v.afe.sync.ready = false ∨ flag v R.afeCtl 3 = false ∨ v.afe.running = false ∨ 1929 ≤ eventQ v % secQ → exec .syncRestored s = .next v) ∧
    exec .syncRateCheck s = .next v ∧
    (flag s R.afeCtl 3 = false ∨ s.afe.running = false ∨ now s / secI ≤ s.afe.sync.sec → v = s) ∧
    (flag s R.afeCtl 3 = true → s.afe.running = true → s.afe.sync.sec < now s / secI → v.afe.sync.edges = 0 ∧ v.afe.sync.sec = now s / secI ∧
      (s.afe.sync.whole = true → flag v R.afeStat 13 = !(decide (2073186 ≤ s.afe.sync.edges) && decide (s.afe.sync.edges ≤ 2074014))))

/-- CONVERSION_COMPLETE for a channel that converts, for a grid or SAMPLE_SYNC edge of the source in use that is over and not yet converted, not displaced, with no ignored edge to fill, writes one more result: the code saturated to 16 bits with that instant at the next place of the 4,096-entry buffer. For a channel that does not convert or any other instant, or for a conversion that a snapshot displaced before it holds again, it changes nothing. DISPLACED_CONVERSION holds the displaced conversion with its delay. SNAPSHOT_TAKE moves the first due snapshot to those held, with the selected channels that have a path and no snapshot in the conversion period before; the others are counted. SNAPSHOT_RESULT ends the oldest held, shows the channels taken, writes the 32 words to the host address if there is one, and completes its command with OK, LATE or, with no channel taken, BUSY, at the snapshot's ATT. With nothing displaced, due or held each changes nothing. (R84, R92, R93, R94, R103) -/
def Obligations.ConversionsAndSnapshotsAreStored : Prop :=
  ∀ s : State,
    (∀ ch at_ code ok, ch < 32 → chConverts s ch = true → convDone s ch at_ = true → (afeCh s ch).aborted.map Prod.fst ≠ some at_ → (afeCh s ch).ignored = [] →
      ∃ t e, exec (.conversionComplete ch at_ code ok) s = .next t ∧ (afeCh t ch).cnt = (afeCh s ch).cnt + 1 ∧ tget? (afeCh t ch).buf ((afeCh s ch).cnt % 4096) = some e ∧
        e.code = satI 16 code ∧ e.at_ = at_) ∧
    (∀ ch at_ code ok, 32 ≤ ch ∨ chConverts s ch = false ∨ convDone s ch at_ = false ∨ (afeCh s ch).aborted.map Prod.fst = some at_ → exec (.conversionComplete ch at_ code ok) s = .next s) ∧
    (∀ ch e h, (afeCh s ch).aborted = some (e, h) →
      exec (.displacedConversion ch) s = .next (modCh s ch (fun c => { c with aborted := none, displaced := c.displaced.filter (fun p => p.1 ≠ e) ++ [(e, h - e)] }))) ∧
    (∀ ch, (afeCh s ch).aborted = none → exec (.displacedConversion ch) s = .next s) ∧
    ((∀ x ∈ s.afe.snaps, now s < x.at_ * 16384) → exec .snapshotTake s = .next s) ∧
    (∀ x, s.afe.snaps.find? (fun x => decide (x.at_ * 16384 ≤ now s)) = some x →
      ∃ t m, exec .snapshotTake s = .next t ∧ t.afe.snaps = s.afe.snaps.erase x ∧ t.afe.snapRun = s.afe.snapRun ++ [(x, m)] ∧
        ∀ n, n < 32 → bitOf m n = (bitOf x.mask n && chHasPath s n && (match (afeCh s n).prevSnap with | some p => decide (x.at_ < p) || decide (p + 1929 ≤ x.at_) | none => true))) ∧
    (∀ x taken rest codes, s.afe.snapRun = (x, taken) :: rest →
      ∃ u, u.afe.snapRun = rest ∧ regGet u R.afeSnapValid = taken % 2 ^ 32 ∧
        u.hostMem = (if x.host = 0 then s else hostWrite s x.host (((List.range 32).map (fun n => snapWord s x taken n (codes.getD n 0))).map SampleWord.bytes).flatten).hostMem ∧
        exec (.snapshotResult codes) s = .next (match x.cid with
        | some c => complete u c (if taken = 0 then stBusy else if x.late then stLate else stOk) (attAt s (x.at_ * 16384))
        | none => u)) ∧
    (∀ codes, s.afe.snapRun = [] → exec (.snapshotResult codes) s = .next s)

/-- AFE_CAL that R491 takes completes with BAD_PARAM for a kind above 2 or a mask bit above 32, BAD_MODE for kind 0 in BOOT and kinds 1 and 2 outside TEST, BUSY with one under way, and NO_RESOURCE for kind 0 with the spare in use for good; else it is in progress with cal_busy set. AFE_CAL_DONE ends one whose SARs are all done: kind 1 leaves the terms and failures it reports, and the command completes with OK; else it changes nothing. SPARE_STEP_DUE starts the step of the first queued SAR, or of the next in rotation when that is due, with its shadow phase, or with the calibration in place of a SAR that does not convert. SPARE_PHASE_DONE: a matching shadow phase takes the terms and substitutes, a good self-calibration hands back, a matching hand back takes the terms and ends the step with the spare's own calibration, after which it is idle; each failure of R99 substitutes for good. REF_FAULT and REF_RESTORED set and clear the group's fault with their events, and change nothing for a group that already is so. (R83, R97, R98, R99, R100) -/
def Obligations.SpareAndCalibrationSteps : Prop :=
  ∀ s : State,
    (∀ e i, Taken s e usedAfeCal i →
      (2 < field e.params 8 1 ∨ 2 ^ 33 ≤ field e.params 0 8 → exec (.afeCal e) s = .next (badCpl s (accepted s 0x31 e i) 0x31 e i stBadParam)) ∧
      (field e.params 8 1 ≤ 2 → field e.params 0 8 < 2 ^ 33 →
        ((field e.params 8 1 = 0 ∧ s.dev.mode = .boot) ∨ (field e.params 8 1 ≠ 0 ∧ s.dev.mode ≠ .test) → exec (.afeCal e) s = .next (badCpl s (accepted s 0x31 e i) 0x31 e i stBadMode)) ∧
        (((field e.params 8 1 = 0 ∧ s.dev.mode ≠ .boot) ∨ (field e.params 8 1 ≠ 0 ∧ s.dev.mode = .test)) →
          (s.afe.cal.isSome = true → exec (.afeCal e) s = .next (badCpl s (accepted s 0x31 e i) 0x31 e i stBusy)) ∧
          (s.afe.cal = none → field e.params 8 1 = 0 → flag s R.afeStat 12 = true → exec (.afeCal e) s = .next (badCpl s (accepted s 0x31 e i) 0x31 e i stNoResource)) ∧
          (s.afe.cal = none → (field e.params 8 1 = 0 → flag s R.afeStat 12 = false) →
            ∃ t, exec (.afeCal e) s = .next t ∧ t.afe.cal = some ⟨field e.params 8 1, field e.params 0 8, some s.hif.nextCid⟩ ∧ flag t R.afeStat 7 = true ∧
              (field e.params 8 1 = 0 → t.afe.spare.queued = setBits 33 (field e.params 0 8)))))) ∧
    (∀ c i, s.afe.cal = some c → c.cid = some i → (c.kind = 0 → s.afe.spare.queued = [] ∧ (s.afe.spare.phase = .idle ∨ s.afe.spare.perm.isSome)) → isDying s = false → ∀ u : State,
      u = flagSet (calResult { s with afe := { s.afe with cal := none } } c) R.afeStat 7 false → exec .afeCalDone s = .next (complete u i stOk (attNow u))) ∧
    (s.afe.cal = none ∨ isDying s = true ∨ (∃ c, s.afe.cal = some c ∧ c.kind = 0 ∧ s.afe.spare.queued ≠ []) → exec .afeCalDone s = .next s) ∧
    (∀ r : Bool, r = elapsed s s.afe.spare.since ((if s.pwr.throttle then 3600 else fld s R.afeSpareCfg 19 8) * secT / 32) →
      (isDying s = true ∨ s.afe.spare.perm.isSome ∨ s.afe.spare.phase ≠ .idle ∨ (s.afe.spare.queued = [] ∧ (r = false ∨ flag s R.afeCtl 2 = false)) → exec .spareStepDue s = .next s) ∧
      (isDying s = false → s.afe.spare.perm = none → s.afe.spare.phase = .idle →
        (s.afe.spare.queued = [] → r = true → flag s R.afeCtl 2 = true → s.afe.spare.next < 32 → exec .spareStepDue s = .next (setSpare s (fun p => { p with
          sar := s.afe.spare.next, next := (s.afe.spare.next + 1) % 32, since := s.dev.ticks, retried := false, phase := if chConverts s s.afe.spare.next then .shadow else .inPlace }))) ∧
        (∀ n l, s.afe.spare.queued = n :: l → n < 32 → exec .spareStepDue s = .next (setSpare s (fun p => { p with
          sar := n, since := s.dev.ticks, retried := false, phase := if chConverts s n then .shadow else .inPlace }))))) ∧
    (∀ mis ok gain ofs skew, isDying s = true → exec (.sparePhaseDone mis ok gain ofs skew) s = .next s) ∧
    (∀ mis ok gain ofs skew, isDying s = false →
      (s.afe.spare.phase = .shadow → mis ≤ fld s R.afeSpareCfg 7 0 → exec (.sparePhaseDone mis ok gain ofs skew) s =
        .next (setTerms (setSpare s (fun p => { p with phase := .substitute })) s.afe.spare.sar gain ofs skew)) ∧
      (s.afe.spare.phase = .shadow → fld s R.afeSpareCfg 7 0 < mis → exec (.sparePhaseDone mis ok gain ofs skew) s =
        .next (if s.afe.spare.retried then substPerm s s.afe.spare.sar 2 else setSpare s (fun p => { p with retried := true }))) ∧
      (s.afe.spare.phase = .substitute → exec (.sparePhaseDone mis ok gain ofs skew) s =
        .next (if ok then setSpare s (fun p => { p with phase := .handBack }) else substPerm s s.afe.spare.sar 0)) ∧
      (s.afe.spare.phase = .handBack → exec (.sparePhaseDone mis ok gain ofs skew) s =
        .next (if mis ≤ fld s R.afeSpareCfg 7 0 then spareEnd (setTerms s s.afe.spare.sar gain ofs skew) else substPerm s s.afe.spare.sar 1)) ∧
      (s.afe.spare.phase = .inPlace → exec (.sparePhaseDone mis ok gain ofs skew) s =
        .next (if ok then spareEnd (setTerms s s.afe.spare.sar gain ofs skew) else substPerm s s.afe.spare.sar 0)) ∧
      (s.afe.spare.phase = .selfCal → exec (.sparePhaseDone mis ok gain ofs skew) s = .next (setSpare s (fun p => { p with phase := .idle }))) ∧
      (s.afe.spare.phase = .idle → exec (.sparePhaseDone mis ok gain ofs skew) s = .next s)) ∧
    (∀ n r, (substPerm s n r).afe.spare.perm = some n ∧ (substPerm s n r).afe.spare.phase = .idle) ∧
    (∀ g, g < 4 → bitOf s.afe.refFault g = false → ∃ t, exec (.refFault g) s = .next t ∧ bitOf t.afe.refFault g = true ∧ fld t R.afeStat 11 8 = t.afe.refFault % 16 ∧ ∃ u, t = raise 0x0407 u (idx := g)) ∧
    (∀ g, g < 4 → bitOf s.afe.refFault g = true → ∃ t, exec (.refRestored g) s = .next t ∧ bitOf t.afe.refFault g = false ∧ fld t R.afeStat 11 8 = t.afe.refFault % 16 ∧ ∃ u, t = raise 0x0408 u (idx := g)) ∧
    (∀ g, (4 ≤ g ∨ bitOf s.afe.refFault g = true → exec (.refFault g) s = .next s) ∧ (4 ≤ g ∨ bitOf s.afe.refFault g = false → exec (.refRestored g) s = .next s))

/-- An enabled tracker that tracks with its reference at ref_min or more closes its cycle at a detected crossing; below it, it free-runs and closes none; while it free-runs two valid cycles in a row let the next crossing close one and track again. One that free-runs or lacks its reference puts its boundary one nominal period after the last once that time has come. A negative crossing is used up. MET_CYCLE_BLOCK consumes the oldest block of its ring after BOOT. AFE_CFG_EFFECT at its second takes the waiting enables; FAST_PATH_STOP at its second stops the path. FLT_SYNC_RESET unsealed orders the reset of its channel and sealed is discarded. A swap to an inactive bank with symmetric coefficients schedules a fade 100 us on; unsymmetric ones raise 0x0503. FADE_START begins a due fade. FILTER_OUTPUT takes the next sample of its channel through the chain. Without what it needs each changes nothing. (R96, R106, R109, R113, R114, R138, R140, R321) -/
def Obligations.TrackersEnablesAndFilters : Prop :=
  ∀ s : State,
    (∀ n m, n < 8 → flag s (R.afeTrkCfg n) 31 = true → flag s R.afeCtl 1 = true →
      (∀ b, (trk s n).pos = some b → (trk s n).st ≠ .freeRun → (trk s n).st ≠ .relocking →
        (refLow s n = false → ∃ t, exec (.metBoundary n m) s = .next t ∧ (trk t n).lastB = some b ∧ (trk t n).pos = none) ∧
        (refLow s n = true → ∃ t, exec (.metBoundary n m) s = .next t ∧ (trk t n).st = .freeRun ∧ (trk t n).lastB = (trk s n).lastB ∧ (trk t n).pos = none)) ∧
      (∀ b, (trk s n).pos = some b → (trk s n).st = .freeRun ∨ (trk s n).st = .relocking →
        (2 ≤ (trk s n).good → ∃ t, exec (.metBoundary n m) s = .next t ∧ (trk t n).st = .tracking ∧ (trk t n).lastB = some b ∧ (trk t n).pos = none) ∧
        ((trk s n).good < 2 → ∃ t, exec (.metBoundary n m) s = .next t ∧ (trk t n).lastX = some b ∧ (trk t n).lastB = (trk s n).lastB ∧ (trk t n).pos = none)) ∧
      ((trk s n).pos = none → exec (.metBoundary n m) s = .next s) ∧
      (∀ b, b = (if (trk s n).stepped then (trk s n).startAt else (trk s n).lastB.getD (trk s n).startAt) + nominalNs s n →
        ((trk s n).st = .freeRun ∨ (trk s n).st = .relocking ∨ refLow s n = true → b * nsI ≤ now s →
          ∃ t, exec (.trkFreeRunBoundary n m) s = .next t ∧ (trk t n).lastB = some b ∧ (trk t n).st = (if (trk s n).st = .relocking then .relocking else .freeRun)) ∧
        (((trk s n).st ≠ .freeRun ∧ (trk s n).st ≠ .relocking ∧ refLow s n = false) ∨ now s < b * nsI → exec (.trkFreeRunBoundary n m) s = .next s))) ∧
    (∀ n m, 8 ≤ n ∨ flag s (R.afeTrkCfg n) 31 = false ∨ flag s R.afeCtl 1 = false → exec (.metBoundary n m) s = .next s ∧ exec (.trkFreeRunBoundary n m) s = .next s) ∧
    (∀ n, ∃ t, exec (.metNegCrossing n) s = .next t ∧ (trk t n).neg = none ∧ (trk t n).lastB = (trk s n).lastB) ∧
    (∀ n rd, rd = (if (trk s n).rd + 64 < (trk s n).wr then (trk s n).wr - 64 else (trk s n).rd) →
      (n < 8 → rd < (trk s n).wr → s.dev.mode ≠ .boot → ∃ t, exec (.metCycleBlock n) s = .next t ∧ (trk t n).rd = rd + 1) ∧
      (8 ≤ n ∨ (trk s n).wr ≤ rd ∨ s.dev.mode = .boot → exec (.metCycleBlock n) s = .next s)) ∧
    (s.afe.pendCh.isSome = true ∨ s.afe.pendIlv.isSome = true → s.afe.cfgAt * secI ≤ now s → ∃ t, exec .afeCfgEffect s = .next t ∧ t.afe.chEn = s.afe.pendCh.getD s.afe.chEn ∧
      t.afe.ilv = s.afe.pendIlv.getD s.afe.ilv ∧ t.afe.pendCh = none ∧ t.afe.pendIlv = none) ∧
    ((s.afe.pendCh = none ∧ s.afe.pendIlv = none) ∨ now s < s.afe.cfgAt * secI → exec .afeCfgEffect s = .next s) ∧
    (∀ x, s.afe.stopAt = some x → (x * secI ≤ now s → ∃ t, exec .fastPathStop s = .next t ∧ t.afe.running = false ∧ t.afe.stopAt = none ∧ ∀ n, (afeCh t n).buf = (afeCh s n).buf) ∧
      (now s < x * secI → exec .fastPathStop s = .next s)) ∧
    (s.afe.stopAt = none → exec .fastPathStop s = .next s) ∧
    (∀ ch, ch < 32 → (isSealed s = true → exec (.fltSyncReset ch) s = .next (sealedWrite s (R.fltCtl ch) false)) ∧
      (isSealed s = false → ∃ t, exec (.fltSyncReset ch) s = .next t ∧ (fltCh t ch).resetDue = true ∧ ∀ c, c ≠ ch → fltCh t c = fltCh s c)) ∧
    (∀ ch code, ch < 32 → s.dev.mode ≠ .boot → code = 2 ∨ code = 3 → (fltCh s ch).b3.fade = none → (fltCh s ch).b3.deferred = none → (fltCh s ch).b3.actB ≠ decide (code = 3) →
      ((fltCh s ch).coef false (decide (code = 3)) = ((fltCh s ch).coef false (decide (code = 3))).reverse →
        ∃ t, exec (.fltSwapRequest ch code 0) s = .next t ∧ (fltCh t ch).b3.fade = some ⟨decide (code = 3), 0, 0, cdivN (firstGrid 14400 (now s + 100 * usI)) 16384⟩ ∧ (fltCh t ch).b4 = (fltCh s ch).b4) ∧
      ((fltCh s ch).coef false (decide (code = 3)) ≠ ((fltCh s ch).coef false (decide (code = 3))).reverse →
        exec (.fltSwapRequest ch code 0) s = .next (raise 0x0503 (flagSet s (R.fltStat ch) 14 true) (idx := ch) (items := [(1, 3), (1, b2n (decide (code = 3)))])))) ∧
    (∀ ch s3 s4, exec (.fltSwapRequest ch s3 s4) s = .next (if 32 ≤ ch ∨ s.dev.mode = .boot then s else swapRequest (swapRequest s ch false s3) ch true s4)) ∧
    (∀ ch f, ((fltCh s ch).b3.fade = some f → f.i = 0 → f.start ≤ (fltCh s ch).tag3 + 277778 → ∃ t, exec (.fadeStart ch false) s = .next t ∧
        (fltCh t ch).b3.fade = some { f with len := fld s (R.fltFade ch) 12 0 }) ∧
      ((fltCh s ch).b4.fade = some f → f.i = 0 → f.start ≤ (fltCh s ch).tag4 + 833333 → ∃ t, exec (.fadeStart ch true) s = .next t ∧
        (fltCh t ch).b4.fade = some { f with len := fld s (R.fltFade ch) 28 16 })) ∧
    (∀ ch, ((fltCh s ch).b3.fade = none → exec (.fadeStart ch false) s = .next s) ∧ ((fltCh s ch).b4.fade = none → exec (.fadeStart ch true) s = .next s)) ∧
    (∀ ch, ch < 32 → exec (.filterOutput ch) s = .next (takeOuts (fltAdvance s ch).s ch (fltAdvance s ch).outs)) ∧
    (∀ ch e x, s.afe.running = true → chHasPath s ch = true → (afeCh s ch).result? (fltCh s ch).rd = some e → (afeCh s ch).result? ((fltCh s ch).rd + 1) = some x →
      (fltCh (fltAdvance s ch).s ch).rd = (fltCh s ch).rd + 1)

/-- For every state and frame SV_FRAME_RX completes: with SVI off, or on a port that is no process-bus port, nothing changes; a frame longer than its pair's limit counts the port's length counter; a redundant frame on a paired port whose key the discard table holds is dropped there; then a frame outside the APPID range or of no enabled stream counts SVI_UNMATCHED; a wrong revision counts CONFREV with CONFREV_MISMATCH at most once a second; a synchronisation below the limit counts UNSYNC; a wrong number of ASDUs, smpCnt, dataset size, smpRate or smpMod counts TAGERR; every other frame is accepted by svAccept: a negative latency counts TAGERR and nothing is accepted; a frame of which every sample is a duplicate or stale counts no ACCEPT; a full buffer of 64 frames counts OVF and no ACCEPT; any other frame counts one ACCEPT. SV_REORDER_EXPIRY fills a due gap before the earliest staged sample in OK and HOLD and else changes nothing; SV_DEADLINE_EXPIRY of a passed deadline with no sample staged counts one SUBST and else changes nothing; DD_ENTRY_FORGET forgets the entries that are due; SVT_ENTRY_TIMEOUT writes each tap entry of 100 us and leaves the others; SV_PUBLISH_FRAME sends the next frame of a running published stream once its samples exist, and else changes nothing. (R148, R149, R151, R152, R153, R154, R158, R159, R165, R172, R507) -/
def Obligations.SampledValuesAreAcceptedOrDiscarded : Prop :=
  ∀ s : State,
    (∀ f : SvFrame, flag s R.sviCtl 0 = false ∨ 3 < f.port → exec (.svFrameRx f) s = .next s) ∧
    (∀ f : SvFrame, flag s R.sviCtl 0 = true → f.port ≤ 3 → (if pairModeOf s f.port = 0 then 1522 else 1528) < f.len → exec (.svFrameRx f) s = .next (bump s (R.belPRxLen f.port))) ∧
    (∀ (f : SvFrame) (p : State × Bool), flag s R.sviCtl 0 = true → f.port ≤ 3 → f.len ≤ (if pairModeOf s f.port = 0 then 1522 else 1528) →
      ((f.red = none ∨ pairModeOf s f.port = 0) ∧ p = (s, false) ∨ ∃ q, f.red = some q ∧ pairModeOf s f.port ≠ 0 ∧ p = ddLookup s (decide (2 ≤ f.port)) f.src q) →
      (p.2 = true → exec (.svFrameRx f) s = .next p.1) ∧
      (p.2 = false → ((f.appid < 0x4000 ∨ 0x7FFF < f.appid ∨ svMatch p.1 f = none) → exec (.svFrameRx f) s = .next (bump p.1 R.sviUnmatched)) ∧
        (∀ n, 0x4000 ≤ f.appid → f.appid ≤ 0x7FFF → svMatch p.1 f = some n →
          (f.confRev ≠ field (svRec p.1 n) 20 4 → exec (.svFrameRx f) s = .next (if mayRaise p.1 (strm p.1 n).confEvt
              then raise 0x0605 (setStrm (svCount p.1 n 2) n { strm p.1 n with confEvt := some p.1.dev.ticks }) (idx := n) else svCount p.1 n 2)) ∧
          (f.confRev = field (svRec p.1 n) 20 4 → f.synch < svCfg p.1 n 30 29 → exec (.svFrameRx f) s = .next (svCount p.1 n 3)) ∧
          (f.confRev = field (svRec p.1 n) 20 4 → svCfg p.1 n 30 29 ≤ f.synch →
            ((f.asdus = [] ∨ 8 < f.asdus.length ∨ (∃ u ∈ f.asdus, svRate p.1 n ≤ u.smpCnt ∨ u.vals.length ≠ field (svRec p.1 n) 3 1) ∨
                (∃ v, f.smpRate = some v ∧ v ≠ svRate p.1 n) ∨ (∃ v, f.smpMod = some v ∧ v ≠ 1)) → exec (.svFrameRx f) s = .next (svCount p.1 n 4)) ∧
            (f.asdus ≠ [] → f.asdus.length ≤ 8 → (∀ u ∈ f.asdus, u.smpCnt < svRate p.1 n ∧ u.vals.length = field (svRec p.1 n) 3 1) →
                (∀ v, f.smpRate = some v → v = svRate p.1 n) → (∀ v, f.smpMod = some v → v = 1) → exec (.svFrameRx f) s = .next (svAccept p.1 n f)))))) ∧
    (∀ (f : SvFrame) (n i : Nat) (zs : List SvSample), i = svSecond s n ((f.asdus.getLast?.map SvAsdu.smpCnt).getD 0) (nowQ s) → zs = svSamples s n i (nowQ s) (strm s n).frames f →
      (svLatency s n i (nowQ s) < 0 → tget 0 (svAccept s n f).svi.cnts (n * 16 + 4) = capN (2 ^ 32 - 1) (tget 0 s.svi.cnts (n * 16 + 4) + 1) ∧
        tget 0 (svAccept s n f).svi.cnts (n * 16) = tget 0 s.svi.cnts (n * 16)) ∧
      (0 ≤ svLatency s n i (nowQ s) → (∀ z ∈ zs, (svRefused (strm s n) z).isSome = true) → tget 0 (svAccept s n f).svi.cnts (n * 16) = tget 0 s.svi.cnts (n * 16)) ∧
      (0 ≤ svLatency s n i (nowQ s) → (∃ z ∈ zs, svRefused (strm s n) z = none) → 64 ≤ ((strm s n).staged.map SvSample.frame).eraseDups.length →
        tget 0 (svAccept s n f).svi.cnts (n * 16 + 8) = capN (2 ^ 32 - 1) (tget 0 s.svi.cnts (n * 16 + 8) + 1) ∧ tget 0 (svAccept s n f).svi.cnts (n * 16) = tget 0 s.svi.cnts (n * 16)) ∧
      (0 ≤ svLatency s n i (nowQ s) → (∃ z ∈ zs, svRefused (strm s n) z = none) → ((strm s n).staged.map SvSample.frame).eraseDups.length < 64 →
        tget 0 (svAccept s n f).svi.cnts (n * 16) = capN (2 ^ 32 - 1) (tget 0 s.svi.cnts (n * 16) + 1))) ∧
    (∀ n z, (strm s n).first? = some z → (z.arr + svCfg s n 21 16 * 40000) * 16384 ≤ now s → (strm s n).en = true → (strm s n).wrote.isSome = true → (strm s n).exp < z.idx →
      ((strm s n).st = .ok ∨ (strm s n).st = .hold) → exec (.svReorderExpiry n) s = .next (svDispatch 512 (svFill z (strm s n) (z.idx - (strm s n).exp) s n) n)) ∧
    (∀ n, ((∀ z, (strm s n).first? = some z → now s < (z.arr + svCfg s n 21 16 * 40000) * 16384 ∨ z.idx ≤ (strm s n).exp) ∨ (strm s n).en = false ∨ (strm s n).wrote = none ∨
        (strm s n).st = .invalid ∨ (strm s n).st = .resync) → exec (.svReorderExpiry n) s = .next s) ∧
    (∀ n, n < 128 → (strm s n).en = true → flag s R.sviCtl 0 = true → deadlinePassed s n (strm s n).exp = true → (∀ z ∈ (strm s n).staged, z.idx ≠ (strm s n).exp) →
      exec (.svDeadlineExpiry n) s = .next (svMiss s n) ∧ tget 0 (svMiss s n).svi.cnts (n * 16 + 7) = capN (2 ^ 32 - 1) (tget 0 s.svi.cnts (n * 16 + 7) + 1)) ∧
    (∀ n, (128 ≤ n ∨ (strm s n).en = false ∨ flag s R.sviCtl 0 = false ∨ deadlinePassed s n (strm s n).exp = false ∨ (∃ z ∈ (strm s n).staged, z.idx = (strm s n).exp)) →
      exec (.svDeadlineExpiry n) s = .next s) ∧
    exec .ddEntryForget s = .next { s with svi := { s.svi with
      dd01 := s.svi.dd01.filter (fun e => decide (s.dev.ticks < e.since + fld s R.sviCtl 15 8 * 10 * msT)), dd23 := s.svi.dd23.filter (fun e => decide (s.dev.ticks < e.since + fld s R.sviCtl 15 8 * 10 * msT)) } } ∧
    (∃ t, exec .svtEntryTimeout s = .next t ∧ ∀ tap, tap < 4 →
      ((tget ⟨0, [], 0⟩ s.afe.taps tap).words ≠ [] → (tget ⟨0, [], 0⟩ s.afe.taps tap).since + 100 * usT ≤ s.dev.ticks → (tget ⟨0, [], 0⟩ t.afe.taps tap).words = []) ∧
      ((tget ⟨0, [], 0⟩ s.afe.taps tap).words = [] ∨ s.dev.ticks < (tget ⟨0, [], 0⟩ s.afe.taps tap).since + 100 * usT → tget ⟨0, [], 0⟩ t.afe.taps tap = tget ⟨0, [], 0⟩ s.afe.taps tap)) ∧
    (∀ n r, s.scheme.bind (fun c => c.svpub? n) = some r → n < 8 → (svPub s n).run = true → flag s R.sviPubCtl n = true → s.dev.mode ≠ .boot → isDying s = false →
      exec (.svPublishFrame n) s = .next (pubFrame s n r)) ∧
    (∀ n, (s.scheme.bind (fun c => c.svpub? n) = none ∨ 8 ≤ n ∨ (svPub s n).run = false ∨ flag s R.sviPubCtl n = false ∨ s.dev.mode = .boot ∨ isDying s = true) → exec (.svPublishFrame n) s = .next s)

/-- A BAY_START or BAY_STOP that R491 takes completes with BAD_MODE in BOOT and VIGIL, with BAD_PARAM for a bay beyond the ordering code or with no BAY record, with BUSY while an earlier one for the bay is pending, with OK and no change when the bay is already in the requested state, and else with OK and the ATT of the bay's first evaluation instant at least 100 us after acceptance, where the request waits and the run state shows it. A start whose constants R296 forbids completes with BAD_PARAM and event 0x0903. (R303) -/
def Obligations.BayStartAndStopComplete : Prop :=
  ∀ (s : State) (e : CmdEntry) (i n : Nat), Taken s e usedBayRun i → n = field e.params 0 2 →
    (s.dev.mode = .boot ∨ s.dev.mode = .vigil →
      exec (.bayStart e) s = .next (badCpl s (accepted s 0x40 e i) 0x40 e i stBadMode) ∧ exec (.bayStop e) s = .next (badCpl s (accepted s 0x41 e i) 0x41 e i stBadMode)) ∧
    (s.dev.mode ≠ .boot → s.dev.mode ≠ .vigil → (if s.dev.part7264 then 64 else 128) ≤ n ∨ tget? s.bays n = none →
      exec (.bayStart e) s = .next (badCpl s (accepted s 0x40 e i) 0x40 e i stBadParam) ∧ exec (.bayStop e) s = .next (badCpl s (accepted s 0x41 e i) 0x41 e i stBadParam)) ∧
    (∀ b, s.dev.mode ≠ .boot → s.dev.mode ≠ .vigil → n < (if s.dev.part7264 then 64 else 128) → tget? s.bays n = some b →
      ((∃ r ∈ reqsOf s n, r.kind = .start ∨ r.kind = .stop) →
        exec (.bayStart e) s = .next (badCpl s (accepted s 0x40 e i) 0x40 e i stBusy) ∧ exec (.bayStop e) s = .next (badCpl s (accepted s 0x41 e i) 0x41 e i stBusy)) ∧
      ((∀ r ∈ reqsOf s n, r.kind ≠ .start ∧ r.kind ≠ .stop) →
        (b.runs = true → exec (.bayStart e) s = .next (okCpl s (accepted s 0x40 e i) 0x40 e i Att.zero [])) ∧
        (b.runs = false → exec (.bayStop e) s = .next (okCpl s (accepted s 0x41 e i) 0x41 e i Att.zero [])) ∧
        (b.runs = false → constOk (b.setOf (brInit b.recd)) = true → ∃ u, exec (.bayStart e) s = .next (okCpl s u 0x40 e i ((evalFrom b.rate (now s + 100 * usI)).att s b.rate) []) ∧
          ⟨.start, evalFrom b.rate (now s + 100 * usI), true⟩ ∈ reqsOf u n ∧ (bay? u n).map (fun x => x.ctx.run) = some 2) ∧
        (b.runs = false → constOk (b.setOf (brInit b.recd)) = false → exec (.bayStart e) s = .next (badCpl s (raise 0x0903 (accepted s 0x40 e i) (bay := n)) 0x40 e i stBadParam)) ∧
        (b.runs = true → ∃ u, exec (.bayStop e) s = .next (okCpl s u 0x41 e i ((evalFrom b.rate (now s + 100 * usI)).att s b.rate) []) ∧
          ⟨.stop, evalFrom b.rate (now s + 100 * usI), true⟩ ∈ reqsOf u n ∧ (bay? u n).map (fun x => x.ctx.run) = some 3)))

/-- A GROUP_SELECT that R491 takes completes with BAD_MODE in BOOT, VIGIL and SAFE; BAD_PARAM for a bay that is not there or does not run and for a group above 7 or not present; BUSY while a commanded switch of the bay is pending; OK and no change for the active group; ABORTED where a stop falls at or before its instant; and else OK with the ATT of the first evaluation instant at least 100 us on, where the switch waits. TARGET_RESET completes with BAD_MODE in BOOT and VIGIL, BAD_PARAM for a bay beyond the ordering code that is not 0xFFFF, BUSY while one for a named bay is pending, and else with OK and the latest effect instant, each named bay asked in turn: a running bay waits for its first evaluation instant at least 100 us on. BAY_STATE_READ completes with BAD_MODE in BOOT and BAD_PARAM for a bad mask, address or bay; else it is pending on a running bay and taken at once on a stopped one. (R200, R302, R306, R307) -/
def Obligations.GroupSelectReadAndResetComplete : Prop :=
  ∀ (s : State) (e : CmdEntry) (i n : Nat), n = field e.params 0 2 →
    (Taken s e usedGroupSelect i →
      (s.dev.mode = .boot ∨ s.dev.mode = .vigil ∨ s.dev.mode = .safe → exec (.groupSelect e) s = .next (badCpl s (accepted s 0x42 e i) 0x42 e i stBadMode)) ∧
      (s.dev.mode ≠ .boot → s.dev.mode ≠ .vigil → s.dev.mode ≠ .safe → bay? s n = none → exec (.groupSelect e) s = .next (badCpl s (accepted s 0x42 e i) 0x42 e i stBadParam)) ∧
      (∀ b g a, s.dev.mode ≠ .boot → s.dev.mode ≠ .vigil → s.dev.mode ≠ .safe → bay? s n = some b → g = field e.params 2 1 → a = evalFrom b.rate (now s + 100 * usI) →
        (b.runs = false ∨ 7 < g ∨ bitOf (brMask b.recd) g = false → exec (.groupSelect e) s = .next (badCpl s (accepted s 0x42 e i) 0x42 e i stBadParam)) ∧
        (b.runs = true → g ≤ 7 → bitOf (brMask b.recd) g = true →
          ((∃ r ∈ reqsOf s n, r.cmd = true ∧ r.kind.isSwitch = true) → exec (.groupSelect e) s = .next (badCpl s (accepted s 0x42 e i) 0x42 e i stBusy)) ∧
          ((∀ r ∈ reqsOf s n, r.cmd = true → r.kind.isSwitch = false) →
            (g = b.ctx.sg → exec (.groupSelect e) s = .next (okCpl s (accepted s 0x42 e i) 0x42 e i (a.att s b.rate) [])) ∧
            (∀ x, g ≠ b.ctx.sg → stopAt? s n = some x → x.le a = true → exec (.groupSelect e) s = .next (badCpl s (accepted s 0x42 e i) 0x42 e i stAborted)) ∧
            (g ≠ b.ctx.sg → (∀ x, stopAt? s n = some x → x.le a = false) →
              ∃ u, exec (.groupSelect e) s = .next (okCpl s u 0x42 e i (a.att s b.rate) []) ∧ ⟨.switch g, a, true⟩ ∈ reqsOf u n))))) ∧
    (Taken s e usedTargetReset i →
      (s.dev.mode = .boot ∨ s.dev.mode = .vigil → exec (.targetReset e) s = .next (badCpl s (accepted s 0x44 e i) 0x44 e i stBadMode)) ∧
      (s.dev.mode ≠ .boot → s.dev.mode ≠ .vigil → n ≠ 0xFFFF → nBays s ≤ n → exec (.targetReset e) s = .next (badCpl s (accepted s 0x44 e i) 0x44 e i stBadParam)) ∧
      (∀ todo : List Nat, s.dev.mode ≠ .boot → s.dev.mode ≠ .vigil → (n = 0xFFFF ∧ todo = s.bays.map Prod.fst ∨ n ≠ 0xFFFF ∧ n < nBays s ∧ todo = [n]) →
        ((∃ j ∈ todo, ∃ r ∈ reqsOf s j, r.kind.isReset = true) → exec (.targetReset e) s = .next (badCpl s (accepted s 0x44 e i) 0x44 e i stBusy)) ∧
        ((∀ j ∈ todo, ∀ r ∈ reqsOf s j, r.kind.isReset = false) → ∀ q, q = todo.foldl (fun (acc : State × Inst) j =>
              ((askReset acc.1 j).1, if acc.2 < (askReset acc.1 j).2 then (askReset acc.1 j).2 else acc.2)) (accepted s 0x44 e i, now s) →
          exec (.targetReset e) s = .next (okCpl s q.1 0x44 e i (attAt s q.2) []))) ∧
      (∀ b, s.dev.mode ≠ .boot → s.dev.mode ≠ .vigil → n ≠ 0xFFFF → n < nBays s → bay? s n = some b → b.runs = true → (∀ r ∈ reqsOf s n, r.kind ≠ .reset) →
        ∃ u, exec (.targetReset e) s = .next (okCpl s u 0x44 e i (attAt s ((evalFrom b.rate (now s + 100 * usI)).inst b.rate)) []) ∧ ⟨.reset, evalFrom b.rate (now s + 100 * usI), true⟩ ∈ reqsOf u n)) ∧
    (Taken s e usedBayStateRead i →
      (s.dev.mode = .boot → exec (.bayStateRead e) s = .next (badCpl s (accepted s 0x43 e i) 0x43 e i stBadMode)) ∧
      (s.dev.mode ≠ .boot → (field e.params 2 1 % 16 = 0 ∨ field e.params 8 8 = 0 ∨ field e.params 8 8 % 64 ≠ 0 ∨ nBays s ≤ n ∨ bay? s n = none) →
        exec (.bayStateRead e) s = .next (badCpl s (accepted s 0x43 e i) 0x43 e i stBadParam)) ∧
      (∀ b, s.dev.mode ≠ .boot → field e.params 2 1 % 16 ≠ 0 → field e.params 8 8 ≠ 0 → field e.params 8 8 % 64 = 0 → n < nBays s → bay? s n = some b → ∀ u : State,
        u = { accepted s 0x43 e i with cfg := { s.cfg with reads := tset s.cfg.reads n (tget [] s.cfg.reads n ++ [⟨field e.params 2 1 % 16, field e.params 8 8, 8, s.hif.nextCid⟩]) } } →
        exec (.bayStateRead e) s = .next (if b.runs then u else takeReads u n false)))

/-- For every state and bay the four effects complete. BAY_START_EFFECT of a pending start whose instant has come leaves the bay running with its initial group and no start pending where the constants are legal, leaves it stopped with no start pending where they are not, and changes nothing with no start pending or before the instant. BAY_STOP_EFFECT of a pending stop whose instant has come, with no task and no instant before it waiting, stops the bay as R305 says and else changes nothing. GROUP_SWITCH_EFFECT and TARGET_RESET_EFFECT apply the requests whose instant has come, and change nothing when there are none. For a bay that is not there nothing changes. (R201, R302, R304, R305, R306) -/
def Obligations.BayRequestsTakeEffect : Prop :=
  ∀ (s : State) (n : Nat),
    (bay? s n = none → exec (.bayStartEffect n) s = .next s ∧ exec (.bayStopEffect n) s = .next s ∧ exec (.groupSwitchEffect n) s = .next s ∧ exec (.targetResetEffect n) s = .next s) ∧
    (pendAt s n (fun k => decide (k = .start)) = none → exec (.bayStartEffect n) s = .next s) ∧
    (pendAt s n (fun k => decide (k = .stop)) = none → exec (.bayStopEffect n) s = .next s) ∧
    (∀ b : Bay, bay? s n = some b → keysFrom 0 s.cfg.reqs = true →
    (∀ r, pendAt s n (fun k => decide (k = .start)) = some r →
      (now s < r.at_.inst b.rate → exec (.bayStartEffect n) s = .next s) ∧
      (r.at_.inst b.rate ≤ now s → exec (.bayStartEffect n) s = .next (startBay (setReqs s n ((reqsOf s n).filter (fun x => decide (x.kind ≠ .start)))) n r.at_) ∧
        ∀ t, exec (.bayStartEffect n) s = .next t → (∀ x ∈ reqsOf t n, x.kind ≠ .start) ∧
          (constOk (b.setOf (brInit b.recd)) = true → (bay? t n).map (fun x => (x.ctx.run, x.ctx.sg, x.ctx.start, x.slot.next)) = some (1, brInit b.recd, r.at_, r.at_)) ∧
          (constOk (b.setOf (brInit b.recd)) = false → (bay? t n).map (fun x => x.ctx.run) = some 0))) ∧
    (∀ r, pendAt s n (fun k => decide (k = .stop)) = some r →
      (r.at_.inst b.rate ≤ now s → tget? s.cfg.tasks n = none → (∀ z ∈ b.slot.queue, r.at_.le z.at_ = true) →
        ∃ t, exec (.bayStopEffect n) s = .next t ∧ t = bayLeft (stopBay s n r.at_) n ∧ (∀ x ∈ reqsOf t n, x.kind ≠ .stop)) ∧
      ((now s < r.at_.inst b.rate ∨ (tget? s.cfg.tasks n).isSome = true ∨ (∃ z ∈ b.slot.queue, r.at_.le z.at_ = false)) → exec (.bayStopEffect n) s = .next s)) ∧
    ((∀ r ∈ reqsOf s n, r.kind.isSwitch = true → now s < r.at_.inst b.rate) → exec (.groupSwitchEffect n) s = .next s) ∧
    (∀ r, ((reqsOf s n).filter (fun r => r.kind.isSwitch && decide (r.at_.inst b.rate ≤ now s))).getLast? = some r →
      ∃ t, exec (.groupSwitchEffect n) s = .next t ∧ t = switchesDue s n r.at_ ∧ (∀ x ∈ reqsOf t n, x.kind.isSwitch = true → x.at_.le r.at_ = false)) ∧
    ((∀ r ∈ reqsOf s n, r.kind.isReset = true → now s < r.at_.inst b.rate) → exec (.targetResetEffect n) s = .next s) ∧
    (∀ r, ((reqsOf s n).filter (fun r => r.kind.isReset && decide (r.at_.inst b.rate ≤ now s))).getLast? = some r →
      ∃ t, exec (.targetResetEffect n) s = .next t ∧ t = resetsDue s n r.at_ ∧ (∀ x ∈ reqsOf t n, x.kind = .reset → x.at_.le r.at_ = false)))

/-- For every state and operand the four complete. BAY_TASK_START changes nothing on a part that does not run; else the bay's waiting copy is adopted where R464 lets it, and then, for a bay whose oldest sealed instant is ready, the corrected banks are counted and the task of that instant starts; with no ready instant the state after adoption is left. TASK_WATCHDOG with a task under way drops it without a commit and counts an overrun, and changes nothing with none. EARLY_WINDOW_CLOSE on a part that runs and WINDOW_CLOSE while a task is under way are judged by the comparator; EARLY_WINDOW_CLOSE on a part that does not run and WINDOW_CLOSE with no task change nothing. (R183, R188, R189, R426, R428, R522) -/
def Obligations.TasksAndWindowsClose : Prop :=
  ∀ (s : State) (n : Nat),
    (partRuns s = false → ∀ ce, exec (.bayTaskStart n ce) s = .next s) ∧
    (tget? s.mir.brs n = none → tryAdopt s n = s) ∧
    (∀ (ce : List Nat) (a : State), partRuns s = true → a = tryAdopt s n →
      (bay? a n = none → exec (.bayTaskStart n ce) s = .next a) ∧
      (∀ b, bay? a n = some b → taskReady a n b = none → exec (.bayTaskStart n ce) s = .next a) ∧
      (∀ b z, bay? a n = some b → taskReady a n b = some z →
        exec (.bayTaskStart n ce) s = .next (firstTask (startTask ((ce.filter (fun k => decide (k < 20))).foldl (fun st k => correctedError st (b.grp / 4) k) (metInstant a n)) n)))) ∧
    (∀ (b : Bay) z, bay? s n = some b → taskReady s n b = some z → (∀ r ∈ reqsOf s n, ∀ x y w, r.kind ≠ .reload x y w) →
      ∃ x, tget? (startTask s n).cfg.tasks n = some x ∧ x.at_ = z.at_ ∧ x.copies = copiesOf s b.grp ∧ x.reex = false ∧ x.early = false) ∧
    (∀ x b, tget? s.cfg.tasks n = some x → bay? s n = some b → exec (.taskWatchdog n) s = .next (mirAfter s (taskBoundary
      (raise 0x0708 (bump (modBay (dropTask s n) n (fun b => { b with ctx := { b.ctx with cnt := { b.ctx.cnt with aborted := (b.ctx.cnt.aborted + 1) % 2 ^ 32 } } })) R.cfgTaskOverrun)
        (bay := n) (att := some (x.at_.att s b.rate))) n false) n)) ∧
    (tget? s.cfg.tasks n = none ∨ bay? s n = none → exec (.taskWatchdog n) s = .next s) ∧
    (tget? s.cfg.tasks n = none → ∀ w, exec (.windowClose n w) s = .next s) ∧
    (∀ w, partRuns s = true → exec (.earlyWindowClose n w) s = .next (mirAfter s (sweepEnd (closeEarly s n w)) n)) ∧
    (∀ w, partRuns s = false → exec (.earlyWindowClose n w) s = .next s) ∧
    (∀ x w, tget? s.cfg.tasks n = some x → exec (.windowClose n w) s = .next (mirAfter s (sweepEnd (closeWindow s n w)) n))

/-- DTO_DEMAND_FALL of a pin of the part not frozen by the dying sequence leaves every pin inactive where R312 holds it and else active exactly while the mapped bit or a pulse demands it or its minimum width runs; with the pins frozen or for no pin of the part nothing changes. In BOOT and SAFE, and in COMMISSION and TEST without dto_en, every pin is held. DTO_EN_WRITE within reach of the host in COMMISSION or TEST: a clear acts at once, a set waits for its instant, the value it has changes nothing; elsewhere it is ignored. DTO_EN_EFFECT at the instant lets the pins go and else changes nothing. DTO_FAULT of a pin of a running part sets the pin's fault bit and dto_fault with its event, and else changes nothing. BIN_ACCEPT of a level other than the accepted one, of an input that is not frozen, held for the debounce count, newer than the last, not before the last step or release, after BOOT on a part that runs, makes it the level and freezes the input where the changes of the second exceed chatter_max; in every other case nothing changes. BIN_CHATTER_RELEASE ends a freeze at the end of the first whole second within chatter_max and begins a new debounce there; else nothing changes. (R308, R309, R310, R311, R312, R313, R544, R572) -/
def Obligations.PinsFollowDemandAndDebounce : Prop :=
  (∀ s : State,
    (∀ pin, pin < 8 → (∀ d, s.pwr.dying = some d → d.phase = .hold) → ∃ t, exec (.dtoDemandFall pin) s = .next t ∧ (t = { s with cfg := t.cfg, regs := t.regs }) ∧ ∀ i, i < 8 →
      (dto t i).active = (if dtoHeld s i then false else
        (dtoMapped s i || (match (dto s i).pulse with | some x => decide (s.dev.ticks < x) | none => false)) ||
        ((dto s i).active && decide (s.dev.ticks < (dto s i).since + fld s (R.bayDtoCfg i) 13 0 * 100 * usT)))) ∧
    (∀ pin d, 8 ≤ pin ∨ (s.pwr.dying = some d ∧ d.phase ≠ .hold) → exec (.dtoDemandFall pin) s = .next s) ∧
    (∀ i, s.dev.mode = .boot ∨ s.dev.mode = .safe ∨ ((s.dev.mode = .commission ∨ s.dev.mode = .test) ∧ s.dev.dtoActive = false) → dtoHeld s i = true) ∧
    (hostReach s = true → (s.dev.mode = .commission ∨ s.dev.mode = .test) →
      (s.dev.dtoEn = false → exec (.dtoEnWrite true) s = .next { s with dev := { s.dev with dtoEn := true, dtoAt := some (effectInst s) } }) ∧
      (s.dev.dtoEn = true → ∃ t, exec (.dtoEnWrite false) s = .next t ∧ t.dev = { s.dev with dtoEn := false, dtoActive := false, dtoAt := none })) ∧
    (∀ v, hostReach s = false ∨ (s.dev.mode ≠ .commission ∧ s.dev.mode ≠ .test) ∨ s.dev.dtoEn = v → exec (.dtoEnWrite v) s = .next s) ∧
    (∀ x, s.dev.dtoAt = some x → (s.dev.dtoEn = true → x ≤ now s → ∃ t, exec .dtoEnEffect s = .next t ∧ t.dev = { s.dev with dtoActive := true, dtoAt := none }) ∧
      (now s < x ∨ s.dev.dtoEn = false → exec .dtoEnEffect s = .next s)) ∧
    (s.dev.dtoAt = none → exec .dtoEnEffect s = .next s) ∧
    (∀ pin, pin < 8 → partRuns s = true → exec (.dtoFault pin) s = .next (raise 0x0906 (flagSet (flagSet s R.bayDtoStat (8 + pin) true) R.bayStat 1 true) (idx := pin))) ∧
    (∀ pin, 8 ≤ pin ∨ partRuns s = false → exec (.dtoFault pin) s = .next s)) ∧
  (∀ (s : State) (i : Nat),
    (∀ level sec m, i < 16 → m < 129600 → (bin s i).level ≠ level → (bin s i).frozen = none →
      (∀ p, (bin s i).acc.head? = some p → p.1 < binTag sec (m + debounceN s - 1)) → binTag sec (m + debounceN s - 1) * 16384 ≤ now s → s.afe.minTag ≤ binTag sec m → (bin s i).since < binTag sec m →
      partRuns s = true → s.dev.mode ≠ .boot → ∃ t, exec (.binAccept i level sec m) s = .next t ∧ (bin t i).level = level ∧ (∀ j, j ≠ i → bin t j = bin s j) ∧
        ((bin t i).frozen.isSome = true ↔ 0 < fld s R.bayBinCfg 15 8 ∧ fld s R.bayBinCfg 15 8 < (bin t i).chg)) ∧
    (∀ level sec m, 16 ≤ i ∨ 129600 ≤ m ∨ (bin s i).level = level ∨ (bin s i).frozen.isSome = true ∨ (∃ p, (bin s i).acc.head? = some p ∧ binTag sec (m + debounceN s - 1) ≤ p.1) ∨
      now s < binTag sec (m + debounceN s - 1) * 16384 ∨ binTag sec m < s.afe.minTag ∨ binTag sec m ≤ (bin s i).since ∨ partRuns s = false ∨ s.dev.mode = .boot → exec (.binAccept i level sec m) s = .next s) ∧
    (∀ f c, (bin s i).frozen = some f → f + 2 ≤ now s / secI → c ≤ fld s R.bayBinCfg 15 8 →
      ∃ t, exec (.binChatterRelease i c) s = .next t ∧ bin t i = { bin s i with frozen := none, since := now s / 16384 } ∧ ∀ j, j ≠ i → bin t j = bin s j) ∧
    (∀ f c, (bin s i).frozen = some f → now s / secI < f + 2 ∨ fld s R.bayBinCfg 15 8 < c → exec (.binChatterRelease i c) s = .next s) ∧
    (∀ c, (bin s i).frozen = none → exec (.binChatterRelease i c) s = .next s))

/-- CELL_SPLIT and CELL_JOIN that R491 takes complete with BAD_MODE in BOOT and SAFE, a split in SERVICE or VIGIL also where two positions form the group; with BAD_PARAM for a bad flag, a group that is not there or hosts no bay, a position that may not leave or join; with BUSY while something is pending; and else wait for the first task boundary at least 100 us on. CELL_FORM_CHANGE with that time come and no task in the group takes the position out or in and completes with OK, or with INTERNAL for a join whose check failed; before it, and with no split or join or no bay, nothing changes. RESYNC_CHECK_DONE ends the position's resynchronisation on a good check, and on a bad one it fails; for no resynchronisation or a part that does not run nothing changes. LKS_DBG_ATTACH in TEST under a grant with scope bit 0, for a cell of the part with none attached and none waiting, waits as a request; otherwise only LKS_STAT bit 0 is set. LKS_DBG_DETACH under such a grant asks for the attached cell's return and drops an attach that waits, and else only sets that bit. Out of reach of the host neither does anything. DEBUG_ATTACH_EFFECT with the group at a boundary takes the cell out as attached, or back with none attached; while the group's task runs, an attach while a split or join waits, and with no request, nothing changes. (R432, R433, R439, R440, R442, R443) -/
def Obligations.CellsLeaveAndRejoinTheirGroup : Prop :=
  (∀ s : State,
    (∀ e i g p, Taken s e usedCellSplit i → g = field e.params 0 2 → p = (if field e.params 2 1 = 0xFF then (setBits 3 (memberMask s g)).getLastD 0 else field e.params 2 1) →
      (s.dev.mode = .boot ∨ s.dev.mode = .safe ∨ (isSealed s = true ∧ g < nGroups s ∧ (setBits 3 (memberMask s g)).length = 2) →
        exec (.cellSplit e) s = .next (badCpl s (accepted s 0x50 e i) 0x50 e i stBadMode)) ∧
      (s.dev.mode ≠ .boot → s.dev.mode ≠ .safe → ¬(isSealed s = true ∧ g < nGroups s ∧ (setBits 3 (memberMask s g)).length = 2) →
        (1 < field e.params 3 1 ∨ nGroups s ≤ g ∨ hostOf s g = none ∨ (setBits 3 (memberMask s g)).length ≤ 1 ∨ p ∉ setBits 3 (memberMask s g) →
          exec (.cellSplit e) s = .next (badCpl s (accepted s 0x50 e i) 0x50 e i stBadParam)) ∧
        (field e.params 3 1 ≤ 1 → g < nGroups s → (hostOf s g).isSome = true → 1 < (setBits 3 (memberMask s g)).length → p ∈ setBits 3 (memberMask s g) →
          (formBusy s g = true → exec (.cellSplit e) s = .next (badCpl s (accepted s 0x50 e i) 0x50 e i stBusy)) ∧
          (formBusy s g = false → exec (.cellSplit e) s = .next (modGrp (accepted s 0x50 e i) g (fun x => { x with form := some ⟨false, p, bitOf (field e.params 3 1) 0, now s + 100 * usI, s.hif.nextCid⟩ })))))) ∧
    (∀ e i g p, Taken s e usedCellJoin i → g = field e.params 0 2 → p = field e.params 2 1 →
      (s.dev.mode = .boot ∨ s.dev.mode = .safe → exec (.cellJoin e) s = .next (badCpl s (accepted s 0x51 e i) 0x51 e i stBadMode)) ∧
      (s.dev.mode ≠ .boot → s.dev.mode ≠ .safe →
        (nGroups s ≤ g ∨ hostOf s g = none ∨ 2 < p ∨ bitOf (memberMask s g) p = true ∨ bitOf (grp s g).fixed p = true ∨ (grp s g).dbg = some p ∨ posFailed s g p = true →
          exec (.cellJoin e) s = .next (badCpl s (accepted s 0x51 e i) 0x51 e i stBadParam)) ∧
        (g < nGroups s → (hostOf s g).isSome = true → p ≤ 2 → bitOf (memberMask s g) p = false → bitOf (grp s g).fixed p = false → (grp s g).dbg ≠ some p → posFailed s g p = false →
          (formBusy s g = true → exec (.cellJoin e) s = .next (badCpl s (accepted s 0x51 e i) 0x51 e i stBusy)) ∧
          (formBusy s g = false → exec (.cellJoin e) s = .next (modGrp (accepted s 0x51 e i) g (fun x => { x with form := some ⟨true, p, false, now s + 100 * usI, s.hif.nextCid⟩ })))))) ∧
    (∀ g ok, (grp s g).form = none ∨ (hostOf s g).bind (bay? s) = none → exec (.cellFormChange g ok) s = .next s) ∧
    (∀ g f ok, (grp s g).form = some f → ((hostOf s g).bind (bay? s)).isSome = true →
      (now s < f.at_ ∨ groupBusy s g = true → exec (.cellFormChange g ok) s = .next s) ∧
      (∀ u : State, f.at_ ≤ now s → groupBusy s g = false → u = modGrp s g (fun x => { x with form := none }) →
        (f.join = false → exec (.cellFormChange g ok) s =
          .next (complete (raise 0x0809 (showLks (splitPos u g f.pos f.obs)) (idx := g) (items := [(1, f.pos)]) (att := some (nextInstant s g))) f.cid stOk (nextInstant s g))) ∧
        (f.join = true → ok = true → exec (.cellFormChange g ok) s =
          .next (complete (raise 0x080A (showLks (joinPos u g f.pos)) (idx := g) (items := [(1, f.pos)]) (att := some (nextInstant s g))) f.cid stOk (nextInstant s g))) ∧
        (f.join = true → ok = false → exec (.cellFormChange g ok) s = .next (complete (bump u R.lksResyncFailCnt) f.cid stInternal Att.zero)))) ∧
    (∀ g p, p < 3 → bitOf (grp s g).resync p = true → partRuns s = true →
      (∃ t, exec (.resyncCheckDone g p true) s = .next t ∧ bitOf (grp t g).resync p = false) ∧
      exec (.resyncCheckDone g p false) s = .next (cfgKick (showLks (resyncFail s g p (nextInstant s g))))) ∧
    (∀ g p ok, 3 ≤ p ∨ bitOf (grp s g).resync p = false ∨ partRuns s = false → exec (.resyncCheckDone g p ok) s = .next s)) ∧
  (∀ s : State,
    (∀ cell g, hostReach s = true → s.dev.mode = .test → s.sec.grant = some g → bitOf g.scope 0 = true → cell < nCells s → s.cfg.dbgCell = none → s.cfg.dbgReq = none →
      ∃ t, exec (.lksDbgAttach cell) s = .next t ∧ t.cfg = { s.cfg with dbgReq := some (true, cell) } ∧ t = { s with cfg := t.cfg, regs := t.regs }) ∧
    (∀ cell, hostReach s = true → (dbgMay s = false ∨ nCells s ≤ cell ∨ s.cfg.dbgCell.isSome = true ∨ s.cfg.dbgReq.isSome = true) →
      exec (.lksDbgAttach cell) s = .next (flagSet s R.lksStat 0 true)) ∧
    (dbgMay s = true ↔ s.dev.mode = .test ∧ ∃ g, s.sec.grant = some g ∧ bitOf g.scope 0 = true) ∧
    (hostReach s = true → dbgMay s = true →
      ∃ t, exec .lksDbgDetach s = .next t ∧ t.cfg = { s.cfg with dbgReq := s.cfg.dbgCell.map (fun c => (false, c)) } ∧ t = { s with cfg := t.cfg, regs := t.regs }) ∧
    (hostReach s = true → dbgMay s = false → exec .lksDbgDetach s = .next (flagSet s R.lksStat 0 true)) ∧
    (hostReach s = false → (∀ cell, exec (.lksDbgAttach cell) s = .next s) ∧ exec .lksDbgDetach s = .next s) ∧
    (∀ ok, s.cfg.dbgReq = none → exec (.debugAttachEffect ok) s = .next s) ∧
    (∀ ok cell, s.cfg.dbgReq = some (true, cell) → groupBusy s (cell / 3) = false → (grp s (cell / 3)).form = none →
      ∃ t, exec (.debugAttachEffect ok) s = .next t ∧ t.cfg.dbgCell = some cell ∧ t.cfg.dbgReq = none ∧ (grp t (cell / 3)).dbg = some (cell % 3)) ∧
    (∀ ok cell, s.cfg.dbgReq = some (false, cell) → groupBusy s (cell / 3) = false →
      ∃ t, exec (.debugAttachEffect ok) s = .next t ∧ t.cfg.dbgCell = none ∧ t.cfg.dbgReq = none ∧ (grp t (cell / 3)).dbg = none) ∧
    (∀ ok a cell, s.cfg.dbgReq = some (a, cell) → (groupBusy s (cell / 3) = true ∨ a = true ∧ (grp s (cell / 3)).form.isSome = true) → exec (.debugAttachEffect ok) s = .next s))

/-- CELL_MIGRATE that R491 takes completes with BAD_MODE in BOOT, BAD_PARAM for no bay or a destination that is not spare, NO_RESOURCE with no spare group and BUSY with a migration of the bay pending; else it is asked for. MIGRATION_PRECOPY_DONE, once the precopy has taken time, waits for the boundary with its destination still spare, which a stopped bay has at once, and else chooses anew; a migration that waits for its boundary takes it where its bay has stopped; in every other step, and with no migration, nothing changes. MIGRATION_REDIRECT in the copy step leaves the bay on the destination group, and else changes nothing. ROT_NOW within reach of the host after BOOT asks for a step, ROTATION_STEP_DUE after the interval makes a regular step due; else neither changes anything. LOGIC_SELFTEST_DONE of the group under test, or of a group tested after a fault migration, notes the test and marks the failed cells; for another group nothing changes. (R194, R196, R197, R198, R199) -/
def Obligations.MigrationsAndRotationAdvance : Prop :=
  ∀ s : State,
    (∀ e i n d, Taken s e usedCellMigrate i → n = field e.params 0 2 → d = field e.params 2 2 →
      (s.dev.mode = .boot → exec (.cellMigrate e) s = .next (badCpl s (accepted s 0x52 e i) 0x52 e i stBadMode)) ∧
      (s.dev.mode ≠ .boot → (nBays s ≤ n ∨ bay? s n = none ∨ d ≠ 0xFFFF ∧ isSpare s d = false) → exec (.cellMigrate e) s = .next (badCpl s (accepted s 0x52 e i) 0x52 e i stBadParam)) ∧
      (s.dev.mode ≠ .boot → n < nBays s → (bay? s n).isSome = true → d = 0xFFFF ∨ isSpare s d = true →
        (spares s = [] → exec (.cellMigrate e) s = .next (badCpl s (accepted s 0x52 e i) 0x52 e i stNoResource)) ∧
        (spares s ≠ [] → (migOf? s n).isSome = true → exec (.cellMigrate e) s = .next (badCpl s (accepted s 0x52 e i) 0x52 e i stBusy)) ∧
        (spares s ≠ [] → migOf? s n = none → exec (.cellMigrate e) s =
          .next (cfgKick { accepted s 0x52 e i with cfg := { s.cfg with migs := s.cfg.migs ++ [⟨n, .command, if d = 0xFFFF then none else some d, .waiting, some s.hif.nextCid, 0, false⟩] } })))) ∧
    (∀ m src stopped, migRun? s = some m → src = ((bay? s m.bay).map Bay.grp).getD 0xFF → stopped = ((bay? s m.bay).map (fun b => !b.runs)).getD false →
      (∀ d u, m.step = .precopy → s.cfg.preAt < s.dev.ticks → m.dst = some d → isSpare s d = true → u = showMig (modMig s m.bay (fun x => { x with step := .boundary })) m src 2 →
        exec .migrationPrecopyDone s = .next (if stopped then takeBoundary u m.bay else u)) ∧
      (m.step = .precopy → s.cfg.preAt < s.dev.ticks → (∀ d, m.dst = some d → isSpare s d = false) → exec .migrationPrecopyDone s =
        .next (cfgKick (showBay (showMig (modMig s m.bay (fun x => { x with step := .waiting, dst := if m.cause = .command then m.dst else none })) m src 0) m.bay))) ∧
      (m.step = .boundary → exec .migrationPrecopyDone s = .next (if stopped then takeBoundary s m.bay else s)) ∧
      ((m.step = .precopy ∧ s.dev.ticks ≤ s.cfg.preAt) ∨ (m.step ≠ .precopy ∧ m.step ≠ .boundary) → exec .migrationPrecopyDone s = .next s) ∧
      (∀ d b, m.step = .copy → m.dst = some d → bay? s m.bay = some b → ∃ t, exec .migrationRedirect s = .next t ∧ t = cfgKick (redirect s m b) ∧ (bay? t m.bay).map Bay.grp = some d) ∧
      (m.step ≠ .copy ∨ bay? s m.bay = none → exec .migrationRedirect s = .next s)) ∧
    (migRun? s = none → exec .migrationPrecopyDone s = .next s ∧ exec .migrationRedirect s = .next s) ∧
    (hostReach s = true → s.dev.mode ≠ .boot → exec .rotNow s = .next (cfgKick { s with cfg := { s.cfg with rotNow := true } })) ∧
    (hostReach s = false ∨ s.dev.mode = .boot → exec .rotNow s = .next s) ∧
    (∀ w, w = s.cfg.rotDue + 3600 * fld s R.cfgRotCfg 15 0 * secT / nGroups s →
      (flag s R.cfgCtl 0 = true → s.dev.mode ≠ .boot → isDying s = false → w ≤ s.dev.ticks →
        exec .rotationStepDue s = .next (cfgKick { s with cfg := { s.cfg with rotDue := w, rotReg := true } })) ∧
      (flag s R.cfgCtl 0 = false ∨ s.dev.mode = .boot ∨ isDying s = true ∨ s.dev.ticks < w → exec .rotationStepDue s = .next s)) ∧
    (∀ g mask ok, underTest s g = true ∨ (grp s g).faultTest = true ∧ hostOf s g = none →
      ∃ t, exec (.logicSelftestDone g mask ok) s = .next t ∧ (grp t g).tested = some s.dev.ticks ∧ (grp t g).faultTest = false ∧
      ∀ p, p < 3 → bitOf mask p = true → t.cfg.cellFail.contains (3 * g + p) = true) ∧
    (∀ g mask ok, underTest s g = false → (grp s g).faultTest = false ∨ (hostOf s g).isSome = true → exec (.logicSelftestDone g mask ok) s = .next s)

/-- SELFTEST that R491 takes completes with BAD_MODE in BOOT, and for kinds 4 to 7 outside TEST; with BAD_PARAM for a kind above 7 or a target out of range; with NO_RESOURCE for kind 0 with no spare group and kind 1 without the spare SAR; with BUSY while one is under way, or for kinds 1 and 7 a calibration; and else begins. SELFTEST_DONE of kinds 3 to 6 ends it with its effect, of another kind ends it once its action has ended, and changes nothing before or with none under way. SCRUB_CORRECTED counts one error of the bank, ECC_HOUR_END clears every count, ECC_UNCORRECTABLE counts one more and notes it for its cluster; for no such bank or offset, in BOOT, and for the scrubber of a dying part nothing changes. BRIDGE_UNCORRECTABLE counts one lost crossing and the corrected ones of its island, raises 0x0104 and stages a lost sample with value 0, VALID clear and its channel's source; for no island of the part or a part that does not run nothing changes. (R18, R183, R184, R185, R186, R555) -/
def Obligations.SelfTestsAndMemoryErrors : Prop :=
  ∀ s : State,
    (∀ e i k x, Taken s e usedSelftest i → k = field e.params 0 1 → x = field e.params 2 2 →
      (s.dev.mode = .boot ∨ 4 ≤ k ∧ k ≤ 7 ∧ s.dev.mode ≠ .test → exec (.selftest e) s = .next (badCpl s (accepted s 0x53 e i) 0x53 e i stBadMode)) ∧
      (s.dev.mode ≠ .boot → ¬(4 ≤ k ∧ k ≤ 7 ∧ s.dev.mode ≠ .test) →
        (7 < k ∨ targetOk s k x = false → exec (.selftest e) s = .next (badCpl s (accepted s 0x53 e i) 0x53 e i stBadParam)) ∧
        (k ≤ 7 → targetOk s k x = true →
          (k = 0 ∧ spares s = [] ∨ k = 1 ∧ flag s R.afeStat 12 = true → exec (.selftest e) s = .next (badCpl s (accepted s 0x53 e i) 0x53 e i stNoResource)) ∧
          ((k = 0 → spares s ≠ []) → (k = 1 → flag s R.afeStat 12 = false) →
            (s.pwr.selftest.isSome = true ∨ (k = 1 ∨ k = 7) ∧ s.afe.cal.isSome = true → exec (.selftest e) s = .next (badCpl s (accepted s 0x53 e i) 0x53 e i stBusy)) ∧
            (s.pwr.selftest = none → (k = 1 ∨ k = 7 → s.afe.cal = none) → exec (.selftest e) s = .next (selfBegin (accepted s 0x53 e i) k x s.hif.nextCid) ∧
              (k ≠ 2 → (selfBegin (accepted s 0x53 e i) k x s.hif.nextCid).pwr.selftest = some ⟨k, x, s.hif.nextCid, [], 0⟩)))))) ∧
    (∀ x faults cells, s.pwr.selftest = some x →
      (x.kind = 3 → exec (.selftestDone faults cells) s = .next (selfFinish s faults)) ∧
      (x.kind = 4 → exec (.selftestDone faults cells) s = .next (selfFinish (bistCluster s x.target) faults)) ∧
      (∀ bad, x.kind = 5 → bad = cells.filter (fun c => decide (c < nCells s)) → exec (.selftestDone faults cells) s = .next (selfFinish (cfgKick (showSpares (bad.foldl failCell s))) bad.length)) ∧
      (x.kind = 6 → exec (.selftestDone faults cells) s = .next (selfFinish (marchLoss s) faults)) ∧
      (x.kind ≠ 3 → x.kind ≠ 4 → x.kind ≠ 5 → x.kind ≠ 6 → exec (.selftestDone faults cells) s = .next (if selfEnded s x then selfFinish s 0 else s)) ∧
      (∀ n, (selfFinish s n).pwr.selftest = none)) ∧
    (∀ faults cells, s.pwr.selftest = none → exec (.selftestDone faults cells) s = .next s) ∧
    (∀ c b, c < nClusters s → b < 20 → s.dev.mode ≠ .boot → isDying s = false → ∃ t, exec (.scrubCorrected c b) s = .next t ∧ tget 0 (clu t c).ce b = tget 0 (clu s c).ce b + 1) ∧
    (∀ c b, nClusters s ≤ c ∨ 20 ≤ b ∨ s.dev.mode = .boot ∨ isDying s = true → exec (.scrubCorrected c b) s = .next s) ∧
    (∃ t, exec .eccHourEnd s = .next t ∧ t.cfg.ceOver = false ∧ ∀ c, (clu t c).ce = []) ∧
    (∀ c o met, c < nClusters s → o < 0xA0000 → s.dev.mode ≠ .boot → (met = none → isDying s = false) →
      ∃ t, exec (.eccUncorrectable c o met) s = .next t ∧ regGet t R.cfgEccUe = min (2 ^ 32 - 1) (regGet s R.cfgEccUe + 1) ∧ (clu t c).ue.head? = some s.dev.ticks) ∧
    (∀ c o met, nClusters s ≤ c ∨ 0xA0000 ≤ o ∨ s.dev.mode = .boot ∨ met = none ∧ isDying s = true → exec (.eccUncorrectable c o met) s = .next s) ∧
    (∀ n (x : Crossing) (u : State), n < 44 → n < nClusters s ∨ 36 ≤ n → partRuns s = true →
      u = raise 0x0104 { s with dev := { s.dev with bridgeUe := tset s.dev.bridgeUe n (min 65535 (tget 0 s.dev.bridgeUe n + 1)), bridgeCe := tset s.dev.bridgeCe n (min 65535 (tget 0 s.dev.bridgeCe n + x.corrected)) } }
        (items := [(1, n)]) →
      (x.lost = none → exec (.bridgeUncorrectable n x) s = .next u) ∧
      (∀ b c tag, x.lost = some (b, c, tag) → exec (.bridgeUncorrectable n x) s = .next (stage u b (c % 8) ⟨0, lostQ u b (c % 8), c % 8, tag⟩) ∧ qHas (lostQ u b (c % 8)).toNat qVALID = false)) ∧
    (∀ n x, 44 ≤ n ∨ (nClusters s ≤ n ∧ n < 36) ∨ partRuns s = false → exec (.bridgeUncorrectable n x) s = .next s)

/-- From an entry that R491 takes: each completes with BAD_MODE in BOOT. REC_FORCE of a running recorded bay puts index 16 on the bay for 10 us on; any other bay gives BAD_PARAM. REC_FETCH with a bad kind, address, offset, length, ring or set mask gives BAD_PARAM, as does an unknown record and kinds 0 and 1 of a LOST one; a live record of kinds 0 to 2 gives BUSY; else the fetch is queued. REC_FETCH_DONE writes the oldest fetch's part of the output to host memory, announces on its ring, where it names one, each item that the part touches, and completes with both lengths; it waits while that ring has no room, and changes nothing with no fetch or once the part dies. REC_RELEASE frees the record's entry, gives BUSY for a live or fetched one and BAD_PARAM for an unknown one; for 0xFFFF_FFFF it frees every record that is not live, and gives BUSY where one of them is being fetched. HIST_SNAPSHOT gives BAD_PARAM for a bay with no RECORD record, a bad mask, flag or address, and else copies the masked statistics and, with its flag, clears those that it copied. (R373, R374, R375, R379, R506) -/
def Obligations.RecordCommandsComplete : Prop :=
  ∀ s : State,
    (∀ e i, s.dev.mode = .boot →
      (Taken s e usedRecForce i → exec (.recForce e) s = .next (badCpl s (accepted s 0x60 e i) 0x60 e i stBadMode)) ∧
      (Taken s e usedRecFetch i → exec (.recFetch e) s = .next (badCpl s (accepted s 0x61 e i) 0x61 e i stBadMode)) ∧
      (Taken s e usedRecRelease i → exec (.recRelease e) s = .next (badCpl s (accepted s 0x62 e i) 0x62 e i stBadMode)) ∧
      (Taken s e usedHistSnapshot i → exec (.histSnapshot e) s = .next (badCpl s (accepted s 0x63 e i) 0x63 e i stBadMode))) ∧
    (∀ e i n, Taken s e usedRecForce i → s.dev.mode ≠ .boot → n = field e.params 0 2 →
      (nBays s ≤ n ∨ cupBay? s n = none ∨ bay? s n = none ∨ (∃ b, bay? s n = some b ∧ b.runs = false) →
        exec (.recForce e) s = .next (badCpl s (accepted s 0x60 e i) 0x60 e i stBadParam)) ∧
      (∀ b cb, n < nBays s → bay? s n = some b → b.runs = true → cupBay? s n = some cb →
        exec (.recForce e) s = .next (setCup (accepted s 0x60 e i) n { cb with forced := cb.forced ++ [(now s + 10 * usI, s.hif.nextCid)] }))) ∧
    (∀ e i num kind sets ring host ofs max, Taken s e usedRecFetch i → s.dev.mode ≠ .boot → num = field e.params 0 4 → kind = field e.params 4 1 → sets = field e.params 5 1 →
      ring = field e.params 6 1 → host = field e.params 8 8 → ofs = field e.params 16 8 → max = field e.params 24 4 →
      (3 < kind ∨ host = 0 ∨ host % 64 ≠ 0 ∨ ofs % 64 ≠ 0 ∨ max % 64 ≠ 0 ∨ max < 64 ∨ (ring ≠ 0xFF ∧ (tget? s.hif.rings ring).map HostRing.kind ≠ some .record) ∨ (kind = 1 ∧ (sets = 0 ∨ 7 < sets)) →
        exec (.recFetch e) s = .next (badCpl s (accepted s 0x61 e i) 0x61 e i stBadParam)) ∧
      (kind ≤ 3 → host ≠ 0 → host % 64 = 0 → ofs % 64 = 0 → max % 64 = 0 → 64 ≤ max → (ring = 0xFF ∨ (tget? s.hif.rings ring).map HostRing.kind = some .record) → (kind = 1 → 1 ≤ sets ∧ sets ≤ 7) →
        ((num = 0xFFFFFFFF ∧ kind = 3) ∨ (∃ r, rec? s num = some r ∧ (kind ≤ 1 → r.st ≠ .lost) ∧ (kind ≤ 2 → r.st.live = false)) →
          exec (.recFetch e) s = .next { accepted s 0x61 e i with cup := { s.cup with fetches := s.cup.fetches ++ [⟨num, kind, sets, ring, host, ofs, max, s.hif.nextCid⟩] } }) ∧
        (∀ r, rec? s num = some r → r.st.live = true → kind ≤ 2 → exec (.recFetch e) s = .next (badCpl s (accepted s 0x61 e i) 0x61 e i stBusy)) ∧
        (∀ r, rec? s num = some r → r.st = .lost → kind ≤ 1 → exec (.recFetch e) s = .next (badCpl s (accepted s 0x61 e i) 0x61 e i stBadParam)) ∧
        (rec? s num = none → ¬ (num = 0xFFFFFFFF ∧ kind = 3) → exec (.recFetch e) s = .next (badCpl s (accepted s 0x61 e i) 0x61 e i stBadParam)))) ∧
    (∀ f fs out part items tag, s.cup.fetches = f :: fs → isDying s = false → out = fetchOut s f.num f.kind f.sets → part = (out.drop f.ofs).take f.max →
      items = (fetchItems s f).filter (fun x => decide (x.1 < f.ofs + f.max) && decide (f.ofs < x.1 + x.2.2.2.2.2)) → tag = ((s.hif.inflight.find? (fun x => decide (x.cid = f.cid))).map InFlight.tag).getD 0 →
      (∀ r, tget? s.hif.rings f.ring = some r → r.size < r.used + r.reserved + items.length → exec .recFetchDone s = .next s) ∧
      ((∀ r, tget? s.hif.rings f.ring = some r → r.used + r.reserved + items.length ≤ r.size) → ∀ u : State, u = hostWrite { s with cup := { s.cup with fetches := fs } } f.host part →
        (f.ring = 0xFF → exec .recFetchDone s = .next (complete u f.cid stOk Att.zero (leBytes 8 out.length ++ leBytes 8 part.length))) ∧
        (f.ring ≠ 0xFF → exec .recFetchDone s = .next (complete ((enumFrom0 items).foldl (fun st (i, x) => ringPut st f.ring (recEntry f tag (decide (i + 1 = items.length)) x)) u)
          f.cid stOk Att.zero (leBytes 8 out.length ++ leBytes 8 part.length))))) ∧
    (s.cup.fetches = [] ∨ isDying s = true → exec .recFetchDone s = .next s) ∧
    (∀ e i num, Taken s e usedRecRelease i → s.dev.mode ≠ .boot → num = field e.params 0 4 →
      (num ≠ 0xFFFFFFFF → rec? s num = none → exec (.recRelease e) s = .next (badCpl s (accepted s 0x62 e i) 0x62 e i stBadParam)) ∧
      (∀ r, num ≠ 0xFFFFFFFF → rec? s num = some r → (r.st.live = true ∨ ∃ f ∈ s.cup.fetches, f.num = r.num) →
        exec (.recRelease e) s = .next (badCpl s (accepted s 0x62 e i) 0x62 e i stBusy)) ∧
      (∀ r, num ≠ 0xFFFFFFFF → rec? s num = some r → r.st.live = false → (∀ f ∈ s.cup.fetches, f.num ≠ r.num) →
        ∃ t, exec (.recRelease e) s = .next (okCpl s t 0x62 e i Att.zero []) ∧ t.cup = { s.cup with recs := s.cup.recs.filter (fun x => x.num ≠ num), flash := t.cup.flash } ∧ t.hostMem = s.hostMem) ∧
      (num = 0xFFFFFFFF → (∃ r ∈ s.cup.recs, r.st.live = false ∧ ∃ f ∈ s.cup.fetches, f.num = r.num) → exec (.recRelease e) s = .next (badCpl s (accepted s 0x62 e i) 0x62 e i stBusy)) ∧
      (num = 0xFFFFFFFF → (∀ r ∈ s.cup.recs, r.st.live = false → ∀ f ∈ s.cup.fetches, f.num ≠ r.num) →
        ∃ t, exec (.recRelease e) s = .next (okCpl s t 0x62 e i Att.zero []) ∧ ∀ r, r ∈ t.cup.recs → r.st.live = true)) ∧
    (∀ e i n mask flags host, Taken s e usedHistSnapshot i → s.dev.mode ≠ .boot → n = field e.params 0 2 → mask = field e.params 2 1 → flags = field e.params 3 1 → host = field e.params 8 8 →
      (cupBay? s n = none ∨ mask = 0 ∨ 7 < mask ∨ 1 < flags ∨ host = 0 ∨ host % 64 ≠ 0 → exec (.histSnapshot e) s = .next (badCpl s (accepted s 0x63 e i) 0x63 e i stBadParam)) ∧
      (∀ cb clr, cupBay? s n = some cb → 1 ≤ mask → mask ≤ 7 → flags ≤ 1 → host ≠ 0 → host % 64 = 0 → clr = (fun k => decide (flags = 1) && bitOf mask k && bitOf (field cb.recd 3 1) (2 + k)) →
        exec (.histSnapshot e) s = .next (okCpl s (setCup (hostWrite (accepted s 0x63 e i) host (histOut n mask cb)) n
          { cb with ev := if clr 0 then [] else cb.ev, harm := if clr 1 then [] else cb.harm, pm := if clr 2 then [] else cb.pm, clrAtt := if flags = 1 then attNow s else cb.clrAtt }) 0x63 e i Att.zero [])))

/-- CUP_REARM arms a recorded bay, and changes nothing for another. RECORD_LINE takes the bay's oldest line: to the record logic while Cupola runs, else only a stop line acts; with no line nothing changes. RECORD_T0_REFINED makes the T0 of the bay's first unfinished record final, and changes nothing with none. RECORD_POST_END moves an OPEN record whose last instant has been reached to SEALING, and else changes nothing. RECORD_SEALED moves a SEALING one to TAIL or, its RMS span over or its bay's ring empty, to COMPLETE, with its summary formed and its flash copy due, and the bay's queued triggers leave the queue: the oldest opens a record that the others extend; with no such record nothing changes. RECORD_TAIL_END moves a TAIL one whose span has ended to COMPLETE, and else changes nothing. AUTO_TRIGGER fires index 18 on a running recorded bay with AUTO set once auto_s has passed without a record, and else changes nothing. INDEX_FLASH_COPY writes the oldest pending copy or mark, and changes nothing with none. (R341, R350, R351, R352, R355, R366, R382) -/
def Obligations.RecordsRunTheirCourse : Prop :=
  ∀ s : State,
    (∀ n cb, cupBay? s n = some cb → ∃ t, exec (.cupRearm n) s = .next t ∧ cupBay? t n = some { cb with armed := true } ∧ t = { s with cup := t.cup, regs := t.regs }) ∧
    (∀ n, cupBay? s n = none → exec (.cupRearm n) s = .next s) ∧
    (∀ n cb l ls, cupBay? s n = some cb → cb.lines = l :: ls →
      (flag s R.cupCtl 0 = true → exec (.recordLine n) s = .next (takeLine (setCup s n { cb with lines := ls }) n l)) ∧
      (flag s R.cupCtl 0 = false → l.stop = true → exec (.recordLine n) s = .next (cupStopped (setCup s n { cb with lines := ls }) n)) ∧
      (flag s R.cupCtl 0 = false → l.stop = false → exec (.recordLine n) s = .next (setCup s n { cb with lines := ls }))) ∧
    (∀ n, (cupBay? s n).map CupBay.lines = some [] ∨ cupBay? s n = none → exec (.recordLine n) s = .next s) ∧
    (∀ n r cb b, s.cup.recs.find? (fun x => decide (x.bay = n ∧ x.final = false)) = some r → cupBay? s n = some cb → bay? s n = some b →
      ∃ t, exec (.recordT0Refined n) s = .next t ∧ (∀ x, x ∈ t.cup.recs → x.num = r.num → x.final = true) ∧ t.cup.recs.length = s.cup.recs.length) ∧
    (∀ n, s.cup.recs.find? (fun x => decide (x.bay = n ∧ x.final = false)) = none ∨ cupBay? s n = none → exec (.recordT0Refined n) s = .next s) ∧
    (∀ n r, s.cup.recs.find? (fun x => decide (x.bay = n ∧ x.st = .open_ ∧ x.final = true)) = some r →
      (reached s n r.last = true → ∃ t, exec (.recordPostEnd n) s = .next t ∧ (∀ x, x ∈ t.cup.recs → x.num = r.num → x.st = .sealing ∧ x.sealAt = some s.dev.ticks) ∧
        t = { s with cup := t.cup, regs := t.regs }) ∧
      (reached s n r.last = false → exec (.recordPostEnd n) s = .next s)) ∧
    (∀ n, s.cup.recs.find? (fun x => decide (x.bay = n ∧ x.st = .open_ ∧ x.final = true)) = none → exec (.recordPostEnd n) s = .next s) ∧
    (∀ n r cb, s.cup.recs.find? (fun x => decide (x.bay = n ∧ x.st = .sealing ∧ x.final = true)) = some r → cupBay? s n = some cb →
      ∃ u v : State, exec (.recordSealed n) s = .next (cupBayStat (cupStat v) n) ∧ (cupBay? u n).map CupBay.queue = some [] ∧ u.cup.flash = s.cup.flash ++ [(r.num, false, s.dev.ticks)] ∧
        (∀ x, x ∈ u.cup.recs → x.num = r.num → x.st = (if (match newestOf s n with | some e => r.rmsEnd.le e | none => true) then .complete else .tail) ∧ x.summary = summaryOf s r) ∧
        (cb.queue = [] → v = u) ∧
        (∀ d ds, cb.queue = d :: ds → v = (match rawRec (openRec u n d) n with
          | some q => ds.foldl (fun st x => extendRec st n q.num 2 x) (openRec u n d) | none => ds.foldl (fun st x => dropTrig st n x.fires) (openRec u n d)))) ∧
    (∀ n, s.cup.recs.find? (fun x => decide (x.bay = n ∧ x.st = .sealing ∧ x.final = true)) = none ∨ cupBay? s n = none → exec (.recordSealed n) s = .next s) ∧
    (∀ num r, rec? s num = some r → (r.st = .tail → reached s r.bay r.rmsEnd = true → ∃ t, exec (.recordTailEnd num) s = .next t ∧ ∀ x, x ∈ t.cup.recs → x.num = num → x.st = .complete) ∧
      (r.st ≠ .tail ∨ reached s r.bay r.rmsEnd = false → exec (.recordTailEnd num) s = .next s)) ∧
    (∀ num, rec? s num = none → exec (.recordTailEnd num) s = .next s) ∧
    (∀ n cb b p, cupBay? s n = some cb → bay? s n = some b → cb.ring.head? = some p → b.runs = true → flag s R.cupCtl 0 = true → fld s (R.cupBayCtl n) 3 2 = 2 →
      (cb.autoAt + field cb.recd 24 4 * secI ≤ p.at_.inst b.rate → exec (.autoTrigger n) s =
        .next (fireAt (setCup s n { cb with autoAt := p.at_.inst b.rate }) n ⟨p.at_, p.at_.att s b.rate, p.word, [⟨18, p.at_.ns b.rate, 0, 0, none⟩]⟩)) ∧
      (p.at_.inst b.rate < cb.autoAt + field cb.recd 24 4 * secI → exec (.autoTrigger n) s = .next s)) ∧
    (∀ n, flag s R.cupCtl 0 = false ∨ fld s (R.cupBayCtl n) 3 2 ≠ 2 ∨ cupBay? s n = none ∨ (cupBay? s n).map CupBay.ring = some [] ∨ bay? s n = none ∨ (bay? s n).map Bay.runs = some false →
      exec (.autoTrigger n) s = .next s) ∧
    (∀ num freed k fs, s.cup.flash = (num, freed, k) :: fs → ∃ t, exec .indexFlashCopy s = .next t ∧ t.cup = { s.cup with flash := fs } ∧
      (freed = true → t.flash.recs = s.flash.recs.map (fun x => if x.num = num then { x with freed := true } else x)) ∧
      (freed = false → ∀ r, rec? s num = some r → ∃ x, t.flash.recs = s.flash.recs.filter (fun y => y.num ≠ num) ++ [x] ∧ x.num = num ∧ x.summary = r.summary ∧ x.freed = false) ∧
      (freed = false → rec? s num = none → t.flash = s.flash)) ∧
    (s.cup.flash = [] → exec .indexFlashCopy s = .next s)

/-- MET_INTERVAL_POST that R491 takes completes with BAD_MODE in BOOT, BAD_PARAM for a bay not metered, more received than expected or an unknown start, PAST for a start before the oldest held; else it writes the post into the interval's record, whose n is e_imp - e_exp - e_ds less the technical loss, sets its posted flag and completes with flags and r. MET_READ completes with BAD_MODE, BAD_PARAM or PAST, or copies the open interval, a held one or the totals to the host address. MET_INTERVAL_CLOSE writes every complete interval in order, a single one as the newest of at most 96, and changes the held intervals of no bay with none. POST_MISSING marks and counts each interval due. For a bay not metered neither changes anything. (R324, R329, R331, R332, R333, R338) -/
def Obligations.IntervalsClosePostAndRead : Prop :=
  ∀ s : State,
    (∀ e i n exp rcv start, Taken s e usedMetIntervalPost i → n = field e.params 0 2 → exp = field e.params 4 4 → start = field e.params 8 8 → rcv = field e.params 24 4 →
      (s.dev.mode = .boot → exec (.metIntervalPost e) s = .next (badCpl s (accepted s 0x80 e i) 0x80 e i stBadMode)) ∧
      (s.dev.mode ≠ .boot → metBay? s n = none ∨ exp < rcv → exec (.metIntervalPost e) s = .next (badCpl s (accepted s 0x80 e i) 0x80 e i stBadParam)) ∧
      (∀ b, s.dev.mode ≠ .boot → metBay? s n = some b → rcv ≤ exp → b.find start = none →
        exec (.metIntervalPost e) s = .next (badCpl s (accepted s 0x80 e i) 0x80 e i (if b.gone start then stPast else stBadParam))) ∧
      (∀ b h, s.dev.mode ≠ .boot → metBay? s n = some b → rcv ≤ exp → b.find start = some h →
        ∃ (t : State) (x : MetRec), exec (.metIntervalPost e) s = .next (okCpl s t 0x80 e i Att.zero (leBytes 2 x.flags ++ leBytes 2 0 ++ leBytes 4 (ofSigned 32 x.r))) ∧ x.has 9 = true ∧ x.start = start ∧
          x.eds = field e.params 16 8 ∧ x.exp = exp ∧ x.rcv = rcv ∧ x.eImp = h.rec_.eImp ∧ x.nt = (x.eImp : Int) - x.eExp - x.eds - x.lt ∧
          x.r = (if x.eImp = 0 then 0 else rdivI (x.nt * 10 ^ 6) x.eImp) ∧
          (∃ b', metBay? t n = some b' ∧ b'.held.length = b.held.length ∧ ∃ y, y ∈ b'.held ∧ y.rec_.start = start ∧ y.rec_.flags = x.flags ∧ y.rec_.nt = x.nt))) ∧
    (∀ e i n kind host, Taken s e usedMetRead i → n = field e.params 0 2 → kind = field e.params 2 1 → host = field e.params 16 8 →
      (s.dev.mode = .boot → exec (.metRead e) s = .next (badCpl s (accepted s 0x81 e i) 0x81 e i stBadMode)) ∧
      (s.dev.mode ≠ .boot → metBay? s n = none ∨ 2 < kind ∨ host = 0 ∨ host % 64 ≠ 0 → exec (.metRead e) s = .next (badCpl s (accepted s 0x81 e i) 0x81 e i stBadParam)) ∧
      (∀ b, s.dev.mode ≠ .boot → metBay? s n = some b → host ≠ 0 → host % 64 = 0 →
        (kind = 0 → exec (.metRead e) s = .next (okCpl s (hostWrite (accepted s 0x81 e i) host (metOpenBytes s n b)) 0x81 e i Att.zero [])) ∧
        (kind = 2 → exec (.metRead e) s = .next (okCpl s (hostWrite (accepted s 0x81 e i) host (metLifeBytes b)) 0x81 e i Att.zero [])) ∧
        (∀ h, kind = 1 → b.find (field e.params 8 8) = some h → exec (.metRead e) s = .next (okCpl s (hostWrite (accepted s 0x81 e i) host h.rec_.bytes) 0x81 e i Att.zero [])) ∧
        (kind = 1 → b.find (field e.params 8 8) = none → exec (.metRead e) s = .next (badCpl s (accepted s 0x81 e i) 0x81 e i stPast)))) ∧
    (∀ n b o z, metBay? s n = some b → b.done = [(o, z)] → ∃ t b', exec (.metIntervalClose n) s = .next t ∧ metBay? t n = some b' ∧ b'.done = [] ∧
      b'.held = (⟨metRecord s n b.recd o z, s.dev.ticks, false⟩ :: b.held).take 96 ∧ b'.lastClose = z / 10 ^ 9 ∧ b'.lifeImp = b.lifeImp ∧ b'.lifeExp = b.lifeExp) ∧
    (∀ n b, metBay? s n = some b → exec (.metIntervalClose n) s = .next (b.done.foldl (fun st p => metWrite st n (metRecord st n b.recd p.1 p.2) p.2) (setMet s n { b with done := [] }))) ∧
    (∀ n, metBay? s n = none → exec (.metIntervalClose n) s = .next s ∧ exec (.postMissing n) s = .next s) ∧
    (∀ n b due, metBay? s n = some b → due = (fun h : MetHeld => !h.missing && !h.rec_.has 9 && elapsed s h.closed (fld s R.metJudgeCfg 10 0 * 60 * secT)) →
      ∃ t, exec (.postMissing n) s = .next t ∧ metBay? t n = some { b with held := b.held.map (fun h => if due h then { h with missing := true } else h) } ∧
        regGet t R.metMissingCnt = min (2 ^ 32 - 1) (regGet s R.metMissingCnt + (b.held.filter due).length))

/-- For every state and operand each completes. A frame of an unpaired part, a lane that is off or no lane changes nothing; a bad CRC is a lane error; a second copy brings nothing but the beat of a heartbeat; while R450 finds an error only heartbeats are taken; a first HEARTBEAT notes the partner and the tenth in a row brings its lane up; first SAMPLES, EVENT, SNAPSHOT and BAYSTATE frames are taken as their rules say, BAYSTATE for a bay under resynchronisation, adopted once whole. A due HEARTBEAT_SEND sends one with the next sequence number. MIRROR_DEADLINE with a word overdue falls back from mirrored samples. SNAPSHOT_SEND sends the due snapshot, SNAPSHOT_TIMEOUT after 1 ms discards a part one. LANE_DOWN_TIMEOUT after 1 ms takes the lane down, MIR_FRAME_TIMEOUT counts an error. FULL_RESYNC_START starts one on the active when R463 lets it; BAY_RESYNC_STEP in a new millisecond begins the next running bay or ends it; BAY_RESYNC_TIMEOUT drops a bay 200 us after its seal; BAY_RESYNC_RETRY asks for, or starts, one after 10 ms. MIR_SYNC completes with BAD_MODE, BAD_PARAM, NO_RESOURCE or BUSY, or starts or asks for a full or single resynchronisation. In every other case nothing changes. (R451, R452, R453, R454, R455, R459, R460, R461, R463, R464, R475) -/
def Obligations.MirrorLinkCarriesThePair : Prop :=
  ∀ s : State,
    (paired s = true → s.mir.hbAt ≤ now s → ∃ t, exec .heartbeatSend s = .next t ∧ tget 0 t.mir.txSeq 1 = (tget 0 s.mir.txSeq 1 + 1) % 2 ^ 32 ∧ t.mir.hbAt = (now s / (100 * usI) + 1) * (100 * usI)) ∧
    (paired s = false ∨ now s < s.mir.hbAt → exec .heartbeatSend s = .next s) ∧
    (∀ h : LinkHead, paired s = false ∨ 1 < h.lane ∨ flag s R.mirCtl h.lane = false → (∀ b, exec (.heartbeatRx h b) s = .next s) ∧ (∀ m, exec (.samplesRx h m) s = .next s) ∧
      (∀ es, exec (.eventRx h es) s = .next s) ∧ (∀ p c d, exec (.snapshotPartRx h p c d) s = .next s) ∧ (∀ n p c x, exec (.baystateRx h n p c x) s = .next s)) ∧
    (∀ h : LinkHead, paired s = true → h.lane ≤ 1 → flag s R.mirCtl h.lane = true →
      (h.crcOk = false → (∀ b, exec (.heartbeatRx h b) s = .next (laneErr s h.lane)) ∧ (∀ m, exec (.samplesRx h m) s = .next (laneErr s h.lane)) ∧ (∀ es, exec (.eventRx h es) s = .next (laneErr s h.lane)) ∧
        (∀ p c d, exec (.snapshotPartRx h p c d) s = .next (laneErr s h.lane)) ∧ (∀ n p c x, exec (.baystateRx h n p c x) s = .next (laneErr s h.lane))) ∧
      (h.crcOk = true → (tget [] s.mir.rxSeq 1).contains h.seq = false → ∀ b, ∃ t, exec (.heartbeatRx h b) s = .next t ∧ t.mir.lastHb = some s.dev.ticks ∧
        t.mir.partner = some ⟨b.unit, b.role, b.mode, b.pstate, b.flags, b.snum, b.lib, b.digest, b.pairId, b.effAt⟩ ∧ (9 ≤ (lane s h.lane).good → (lane t h.lane).up = true)) ∧
      (h.crcOk = true → (tget [] s.mir.rxSeq 1).contains h.seq = true → ∀ b, exec (.heartbeatRx h b) s = .next (laneBeat s h.lane)) ∧
      (h.crcOk = true → (pairBad s = true ∨ (tget [] s.mir.rxSeq 2).contains h.seq = true) → ∀ m, exec (.samplesRx h m) s = .next s) ∧
      (h.crcOk = true → (pairBad s = true ∨ (tget [] s.mir.rxSeq 3).contains h.seq = true) → ∀ es, exec (.eventRx h es) s = .next s) ∧
      (h.crcOk = true → (pairBad s = true ∨ (tget [] s.mir.rxSeq 4).contains h.seq = true) → ∀ p c d, exec (.snapshotPartRx h p c d) s = .next s) ∧
      (h.crcOk = true → (pairBad s = true ∨ (tget [] s.mir.rxSeq 5).contains h.seq = true) → ∀ n p c x, exec (.baystateRx h n p c x) s = .next s) ∧
      (∀ u : Nat → State, h.crcOk = true → pairBad s = false → (∀ ty, u ty = { s with mir := { s.mir with rxSeq := tset s.mir.rxSeq ty ((h.seq :: tget [] s.mir.rxSeq ty).take 64) } }) →
        ((tget [] s.mir.rxSeq 2).contains h.seq = false → ∀ m, exec (.samplesRx h m) s = .next (if s.dev.mode = .vigil ∧ pairFlag s 0 = true then takeSamples (u 2) m else u 2)) ∧
        ((tget [] s.mir.rxSeq 3).contains h.seq = false → ∀ es, exec (.eventRx h es) s = .next ((es.take 16).foldl takeEvent (u 3))) ∧
        ((tget [] s.mir.rxSeq 4).contains h.seq = false → ∀ p c d, exec (.snapshotPartRx h p c d) s = .next (if s.dev.mode = .vigil ∧ s.mir.iso = false then takeSnapPart (u 4) p c d else u 4)) ∧
        ((tget [] s.mir.rxSeq 5).contains h.seq = false → ∀ n p c copy, (tget? s.mir.brs n = none ∨ s.dev.mode ≠ .vigil → exec (.baystateRx h n p c copy) s = .next (u 5)) ∧
          (∀ x ps, tget? s.mir.brs n = some x → s.dev.mode = .vigil → ps = (if x.parts.contains p then x.parts else p :: x.parts) → exec (.baystateRx h n p c copy) s =
            .next (tryAdopt (setMir (u 5) (fun m => { m with brs := tset m.brs n { x with parts := ps, count := c, copy := if c ≤ ps.length then some copy else x.copy } })) n))))) ∧
    (∀ w, s.dev.mode = .vigil → s.mir.inUse = true → overdue s = some w → exec .mirrorDeadline s = .next (mirrorFallback s w) ∧ (mirrorFallback s w).mir.inUse = false ∧ (mirrorFallback s w).mir.aside = []) ∧
    (s.dev.mode ≠ .vigil ∨ s.mir.inUse = false ∨ overdue s = none → exec .mirrorDeadline s = .next s) ∧
    (∀ x, isActive s = true → linkUp s = true → pairBad s = false → snapDue s = some x →
      exec .snapshotSend s = .next (setMir (sendParts s 4 (snapBytes s x)) (fun m => { m with sentNum := x.num, shadow := m.shadow.filter (fun y => decide (x.num < y.num)) }))) ∧
    (isActive s = false ∨ linkUp s = false ∨ pairBad s = true ∨ snapDue s = none → exec .snapshotSend s = .next s) ∧
    (∀ k, s.mir.rxSince = some k → (k + msT ≤ s.dev.ticks → ∃ t, exec .snapshotTimeout s = .next t ∧ t = discardSnap s s.mir.rxNum 1 ∧ t.mir.rx = [] ∧ t.mir.rxSince = none ∧ t.mir.snap = s.mir.snap) ∧
      (s.dev.ticks < k + msT → exec .snapshotTimeout s = .next s)) ∧
    (s.mir.rxSince = none → exec .snapshotTimeout s = .next s) ∧
    (∀ l, l < 2 → paired s = true → (lane s l).up = true → (lane s l).lastHb + msT ≤ s.dev.ticks → ∃ t, exec (.laneDownTimeout l) s = .next t ∧ (lane t l).up = false ∧ (lane t l).good = 0) ∧
    (∀ l, 2 ≤ l ∨ paired s = false ∨ (lane s l).up = false ∨ s.dev.ticks < (lane s l).lastHb + msT → exec (.laneDownTimeout l) s = .next s) ∧
    (∀ l, (l < 2 → paired s = true → flag s R.mirCtl l = true → exec (.mirFrameTimeout l) s = .next (laneErr s l)) ∧ (2 ≤ l ∨ paired s = false ∨ flag s R.mirCtl l = false → exec (.mirFrameTimeout l) s = .next s)) ∧
    (∀ p, isActive s = true → linkUp s = true → pairBad s = false → pairFlag s 0 = true → s.mir.full = none → s.mir.pstate = 2 → s.mir.partner = some p → p.mode = 3 → p.pstate = 2 →
      s.mir.syncSince.getD 0 + 10 * msT ≤ s.dev.ticks → exec .fullResyncStart s = .next (startFull s none)) ∧
    (isActive s = false ∨ linkUp s = false ∨ pairBad s = true ∨ pairFlag s 0 = false ∨ s.mir.full.isSome = true ∨ s.mir.pstate ≠ 2 ∨ (∀ p, s.mir.partner = some p → p.mode ≠ 3 ∨ p.pstate ≠ 2) ∨
      s.dev.ticks < s.mir.syncSince.getD 0 + 10 * msT → exec .fullResyncStart s = .next s) ∧
    (∀ f left, s.mir.full = some f → isActive s = true → now s / msI ≠ f.ms → left = f.todo.filter (fun n => decide ((bay? s n).map Bay.runs = some true)) →
      (∀ n ns, left.filter (fun n => (tget? s.mir.brs n).isNone) = n :: ns → exec .bayResyncStep s = .next (startBayRs (setMir s (fun m => { m with full := some { f with ms := now s / msI } })) n)) ∧
      (left.filter (fun n => (tget? s.mir.brs n).isNone) = [] → exec .bayResyncStep s = .next (endFull (setMir s (fun m => { m with full := some { f with todo := left } }))))) ∧
    (isActive s = false ∨ (∀ f, s.mir.full = some f → now s / msI = f.ms) → exec .bayResyncStep s = .next s) ∧
    (∀ n x k, tget? s.mir.brs n = some x → x.sealAt = some k → s.dev.mode = .vigil → x.copy = none → k + 200 * usT ≤ s.dev.ticks → ∃ t, exec (.bayResyncTimeout n) s = .next t ∧
        t.mir.brs = terase s.mir.brs n ∧ tget? t.mir.retry n = some s.dev.ticks ∧ n ∉ t.mir.synced) ∧
    (∀ n, s.dev.mode ≠ .vigil ∨ (∀ x, tget? s.mir.brs n = some x → x.copy.isSome = true ∨ ∀ k, x.sealAt = some k → s.dev.ticks < k + 200 * usT) → exec (.bayResyncTimeout n) s = .next s) ∧
    (∀ n w, w = (match tget? s.mir.retry n with | some k => decide (k + 10 * msT ≤ s.dev.ticks) | none => decide (s.dev.mode = .service)) →
      (paired s = true → linkUp s = true → pairBad s = false → w = true → tget? s.mir.brs n = none →
        (s.dev.mode = .service → exec (.bayResyncRetry n) s = .next (if s.mir.pstate = 2 ∨ s.mir.pstate = 3 then startBayRs s n else s)) ∧
        (s.dev.mode = .vigil → exec (.bayResyncRetry n) s = .next (linkEvent { s with mir := { s.mir with retry := tset s.mir.retry n s.dev.ticks } } 9 n ⟨0, 0⟩ []))) ∧
      (paired s = false ∨ linkUp s = false ∨ pairBad s = true ∨ w = false ∨ (tget? s.mir.brs n).isSome = true ∨ s.dev.mode ≠ .service ∧ s.dev.mode ≠ .vigil → exec (.bayResyncRetry n) s = .next s)) ∧
    (∀ e i n, Taken s e usedMirSync i → n = field e.params 0 2 →
      (s.dev.mode ≠ .service → s.dev.mode ≠ .vigil → exec (.mirSync e) s = .next (badCpl s (accepted s 0x71 e i) 0x71 e i stBadMode)) ∧
      (s.dev.mode = .service ∨ s.dev.mode = .vigil →
        (n ≠ 0xFFFF → (bay? s n).map Bay.runs ≠ some true → exec (.mirSync e) s = .next (badCpl s (accepted s 0x71 e i) 0x71 e i stBadParam)) ∧
        (n = 0xFFFF ∨ (bay? s n).map Bay.runs = some true →
          (paired s = false ∨ linkUp s = false ∨ pairBad s = true → exec (.mirSync e) s = .next (badCpl s (accepted s 0x71 e i) 0x71 e i stNoResource)) ∧
          (paired s = true → linkUp s = true → pairBad s = false →
            (s.mir.full.isSome = true → exec (.mirSync e) s = .next (badCpl s (accepted s 0x71 e i) 0x71 e i stBusy)) ∧
            (s.mir.full = none → n = 0xFFFF → s.dev.mode = .service → exec (.mirSync e) s = .next (startFull (accepted s 0x71 e i) (some s.hif.nextCid))) ∧
            (s.mir.full = none → n = 0xFFFF → s.dev.mode = .vigil → ∃ t f, exec (.mirSync e) s = .next t ∧ t.mir.full = some f ∧ f.cid = some s.hif.nextCid ∧ f.todo = runningBays s) ∧
            (s.mir.full = none → n ≠ 0xFFFF → ∃ t, exec (.mirSync e) s = .next t ∧ tget [] t.mir.one n = tget [] s.mir.one n ++ [s.hif.nextCid] ∧
              (s.dev.mode = .service → (tget? t.mir.brs n).isSome = true))))))

/-- For every state and operand each completes. PARTNER_LOSS of a paired part with no heartbeat and no beacon for more than 3 ms, and 3 ms after its last transition, starts a takeover at the effect instant on a standby with none pending, and on an active makes the pair state alone. TAKEOVER_EFFECT at its instant makes the standby the active alone in SERVICE with the next epoch. REVERT_HOLDOFF_EXPIRY makes a unit A that has been SYNCED in VIGIL for the hold-off, revert enabled and not suspended, ready. QUIET_INSTANT on an active SYNCED with its link up and nothing in the way, while a MIR_ROLE to VIGIL or a revertive return waits, proposes a hand-over 1 ms ahead. HANDOVER_TIMEOUT cancels one that is not accepted or committed in time; HANDOVER_EFFECT of a committed one at its instant swaps the roles. CONTENTION_EFFECT at its instant puts the unit into VIGIL. MIR_ROLE completes with BAD_MODE, BAD_PARAM, NO_RESOURCE, BUSY or OK, or waits; MIR_ROLE_QUIET_TIMEOUT after 10 s ends the wait. In every other case nothing changes. (R457, R465, R466, R471, R472, R473, R474) -/
def Obligations.RolesMoveBetweenTheUnits : Prop :=
  ∀ s : State,
    (∀ old : Option Ticks → Bool, (∀ x, old x = (match x with | some k => decide (k + 3 * msT < s.dev.ticks) | none => true)) →
      (paired s = true → old s.mir.lastHb = true → old s.mir.lastBcn = true → s.dev.since + 3 * msI < now s →
        (s.dev.mode = .vigil → s.mir.takeover = none → ∃ t, exec .partnerLoss s = .next t ∧ t.mir.takeover = some ⟨0, effectInst s, currentSnap s⟩ ∧ t.mir.hand = none ∧ t.dev = s.dev) ∧
        (s.dev.mode = .vigil → s.mir.takeover.isSome = true → exec .partnerLoss s = .next s) ∧
        (s.dev.mode = .service → s.mir.pstate ≠ 1 → ∃ t, exec .partnerLoss s = .next t ∧ t.mir.pstate = 1 ∧ t.mir.full = none ∧ t.mir.hand = none ∧ t.dev = s.dev) ∧
        (s.dev.mode = .service → s.mir.pstate = 1 → exec .partnerLoss s = .next s) ∧
        (s.dev.mode ≠ .vigil → s.dev.mode ≠ .service → exec .partnerLoss s = .next s)) ∧
      (paired s = false ∨ old s.mir.lastHb = false ∨ old s.mir.lastBcn = false ∨ now s ≤ s.dev.since + 3 * msI → exec .partnerLoss s = .next s)) ∧
    (∀ k, s.mir.takeover = some k →
      (s.dev.mode = .vigil → k.at_ ≤ now s → ∃ t, exec .takeoverEffect s = .next t ∧ t.dev.mode = .service ∧ t.dev.prev = .vigil ∧ t.dev.since = k.at_ ∧ t.mir.takeover = none ∧
        t.mir.pstate = 1 ∧ t.mir.inUse = false ∧ fld t R.belEpoch 15 0 = (fld s R.belEpoch 15 0 % 2 ^ 15 + 1) % 2 ^ 15) ∧
      (s.dev.mode ≠ .vigil ∨ now s < k.at_ → exec .takeoverEffect s = .next s)) ∧
    (s.mir.takeover = none → exec .takeoverEffect s = .next s) ∧
    (paired s = true → s.dev.mode = .vigil → isUnitB s = false → flag s R.mirCfg 31 = true → flag s R.mirStat 22 = false → s.mir.pstate = 3 →
      s.mir.syncSince.getD 0 + fld s R.mirCfg 16 0 * secT ≤ s.dev.ticks → exec .revertHoldoffExpiry s = .next (flagSet s R.mirStat 23 true)) ∧
    (paired s = false ∨ s.dev.mode ≠ .vigil ∨ isUnitB s = true ∨ flag s R.mirCfg 31 = false ∨ flag s R.mirStat 22 = true ∨ s.mir.pstate ≠ 3 ∨
      s.dev.ticks < s.mir.syncSince.getD 0 + fld s R.mirCfg 16 0 * secT → exec .revertHoldoffExpiry s = .next s) ∧
    (∀ role revert, role = (s.mir.role.map (fun r => decide (r.target = 1))).getD false → revert = (isUnitB s && (s.mir.partner.map (fun p => decide (p.mode = 3) && bitOf p.flags 2)).getD false) →
      (isActive s = true → s.mir.hand = none → s.mir.contention = none → s.mir.pstate = 3 → linkUp s = true → pairBad s = false → quietNow s = true → role = true ∨ revert = true →
        ∃ t, exec .quietInstant s = .next t ∧ t.mir.hand = some ⟨true, firstGrid 14400 (now s + msI), false, false, true, false, s.dev.ticks, b2n role⟩ ∧ t.dev = s.dev) ∧
      (isActive s = false ∨ s.mir.hand.isSome = true ∨ s.mir.contention.isSome = true ∨ s.mir.pstate ≠ 3 ∨ linkUp s = false ∨ pairBad s = true ∨ quietNow s = false ∨ (role = false ∧ revert = false) →
        exec .quietInstant s = .next s)) ∧
    (∀ h, s.mir.hand = some h → h.committed = false →
      (h.mine = true → ((h.accepted = false ∧ h.since + 200 * usT ≤ s.dev.ticks) ∨ h.kh < now s + 200 * usI → ∃ t, exec .handoverTimeout s = .next t ∧ t.mir.hand = none ∧ t.dev = s.dev) ∧
        ((h.accepted = true ∨ s.dev.ticks < h.since + 200 * usT) → now s + 200 * usI ≤ h.kh → exec .handoverTimeout s = .next s)) ∧
      (h.mine = false → (h.kh ≤ now s → ∃ t, exec .handoverTimeout s = .next t ∧ t.mir.hand = none ∧ t.dev = s.dev) ∧ (now s < h.kh → exec .handoverTimeout s = .next s)) ∧
      exec .handoverEffect s = .next s) ∧
    (∀ h, s.mir.hand = some h → h.committed = true → exec .handoverTimeout s = .next s ∧
      (h.kh ≤ now s → s.dev.mode = (if h.mine then Mode.service else Mode.vigil) → ∃ t, exec .handoverEffect s = .next t ∧ t.dev.mode = (if h.mine then Mode.vigil else Mode.service) ∧ t.dev.since = h.kh ∧
        t.mir.hand = none ∧ (h.cause = 1 → flag t R.mirStat 22 = true)) ∧
      (now s < h.kh ∨ s.dev.mode ≠ (if h.mine then Mode.service else Mode.vigil) → exec .handoverEffect s = .next s)) ∧
    (s.mir.hand = none → exec .handoverTimeout s = .next s ∧ exec .handoverEffect s = .next s) ∧
    (∀ k, s.mir.contention = some k →
      (s.dev.mode = .service → k ≤ now s → ∃ t, exec .contentionEffect s = .next t ∧ t.dev.mode = .vigil ∧ t.dev.prev = .service ∧ t.dev.since = k ∧
        (paired s = true → t.mir.pstate = 2 ∧ t.mir.contention = none ∧ t.mir.hand = none)) ∧
      (s.dev.mode ≠ .service ∨ now s < k → exec .contentionEffect s = .next s)) ∧
    (s.mir.contention = none → exec .contentionEffect s = .next s) ∧
    (∀ r, s.mir.role = some r → (s.mir.hand = none → r.until_ ≤ s.dev.ticks → exec .mirRoleQuietTimeout s = .next (endRole s stAborted Att.zero)) ∧
      (s.mir.hand.isSome = true ∨ s.dev.ticks < r.until_ → exec .mirRoleQuietTimeout s = .next s)) ∧
    (s.mir.role = none → exec .mirRoleQuietTimeout s = .next s) ∧
    (∀ e i tgt fl, Taken s e usedMirRole i → tgt = field e.params 0 1 → fl = field e.params 1 1 →
      (s.dev.mode ≠ .service → s.dev.mode ≠ .vigil → exec (.mirRole e) s = .next (badCpl s (accepted s 0x70 e i) 0x70 e i stBadMode)) ∧
      (s.dev.mode = .service ∨ s.dev.mode = .vigil →
        (2 < tgt ∨ 1 < fl → exec (.mirRole e) s = .next (badCpl s (accepted s 0x70 e i) 0x70 e i stBadParam)) ∧
        (tgt = 2 → fl ≤ 1 → exec (.mirRole e) s = .next (okCpl s (flagSet (accepted s 0x70 e i) R.mirStat 22 false) 0x70 e i Att.zero [])) ∧
        (tgt ≤ 1 → fl ≤ 1 → (tgt = 0 ↔ s.dev.mode = .service) → exec (.mirRole e) s = .next (okCpl s (accepted s 0x70 e i) 0x70 e i Att.zero [])) ∧
        (tgt ≤ 1 → fl ≤ 1 → ¬ (tgt = 0 ↔ s.dev.mode = .service) →
          (paired s = false ∨ s.mir.pstate ≠ 3 → exec (.mirRole e) s = .next (badCpl s (accepted s 0x70 e i) 0x70 e i stNoResource)) ∧
          (paired s = true → s.mir.pstate = 3 →
            (s.mir.takeover.isSome = true ∨ s.mir.hand.isSome = true ∨ s.mir.role.isSome = true ∨ s.mir.full.isSome = true ∨ s.mir.brs ≠ [] ∨ s.mir.one ≠ [] →
              exec (.mirRole e) s = .next (badCpl s (accepted s 0x70 e i) 0x70 e i stBusy)) ∧
            (s.mir.takeover = none → s.mir.hand = none → s.mir.role = none → s.mir.full = none → s.mir.brs = [] → s.mir.one = [] →
              ∃ t, exec (.mirRole e) s = .next t ∧ t.mir.role = some ⟨tgt, bitOf fl 0, s.dev.ticks + 10 * secT, some s.hif.nextCid⟩ ∧
                t.mir.hand.isSome = (decide (s.dev.mode = .service) && bitOf fl 0))))))

/-- For every state and operand each completes. LINK_STATE_CHANGE of a port outside BOOT brings its link up at a speed of its interface that it does not have, or down with its queues lost. ETH_FRAME_RX on a port whose link is up counts a frame of wrong length, handles one of bad FCS, and else counts it, learns its source and sends it out of the ports that VLAN and tables give; one of an unknown VLAN, or of one the port is no member of, is dropped and counted. LAN_FAULT_TIMEOUT marks a bad port of a redundant pair, and clears the fault once both ports are heard. PRP_SUPERVISION_SEND every 2 s sends the next sequence number while a pair is in PRP mode. MAC_AGE_OUT forgets addresses not seen for age_s. P4 and P5 of a dying part neither rise nor receive. In every other case nothing changes. (R385, R388, R389, R390, R393, R394, R395, R416) -/
def Obligations.PortsSwitchAndSupervise : Prop :=
  ∀ s : State,
    (∀ n, n ≤ 5 → s.dev.mode ≠ .boot →
      (∀ sp, speedOk (fld s (R.belPCfg n) 31 28) sp = true → (port s n).up = false ∨ (port s n).speed ≠ sp → isDying s = false ∨ n ≤ 3 →
        ∃ t, exec (.linkStateChange n true sp) s = .next t ∧ (port t n).up = true ∧ (port t n).speed = sp) ∧
      (∀ sp, speedOk (fld s (R.belPCfg n) 31 28) sp = false ∨ ((port s n).up = true ∧ (port s n).speed = sp) ∨ (isDying s = true ∧ 4 ≤ n) → exec (.linkStateChange n true sp) s = .next s) ∧
      (∀ sp, (port s n).up = true → ∃ t, exec (.linkStateChange n false sp) s = .next t ∧ (port t n).up = false ∧ (port t n).bell = [] ∧ (port t n).qs = [[], [], [], []]) ∧
      (∀ sp, (port s n).up = false → exec (.linkStateChange n false sp) s = .next s)) ∧
    (∀ n up sp, 5 < n ∨ s.dev.mode = .boot → exec (.linkStateChange n up sp) s = .next s) ∧
    (∀ n f ok, n ≤ 5 → s.dev.mode ≠ .boot → (port s n).up = true → isDying s = false ∨ n ≤ 3 →
      (f.length + 4 < 64 ∨ (if pairMode s n = 0 then 1522 else 1528) < f.length + 4 → exec (.ethFrameRx n f ok) s = .next (bump s (R.belPRxLen n))) ∧
      (64 ≤ f.length + 4 → f.length + 4 ≤ (if pairMode s n = 0 then 1522 else 1528) →
        exec (.ethFrameRx n f false) s = .next (badFcs s n f) ∧
        (∀ u h v, u = lanCheck (modPort (bump s (R.belPRxOk n)) n (fun p => { p with lastRx := s.dev.ticks, got := true })) (n / 2) → h = frameHead f → v = frameVlan u n h →
          (vlanEntry u v.1 = none → exec (.ethFrameRx n f true) s = .next (bump u (R.belPRxDrop n))) ∧
          (∀ w, vlanEntry u v.1 = some w →
            (bitOf w (18 + n) = false → exec (.ethFrameRx n f true) s = .next (bump u (R.belPRxDrop n))) ∧
            (bitOf w (18 + n) = true → exec (.ethFrameRx n f true) s = .next ((dests u n f h v.1 (bitsOf w 24 18)).foldl
              (fun st e => egress st e false (pcpQueue st v.2) ⟨retag f h (decide (pairMode u n = 2)) (bitOf w (25 + e)) v.1 v.2, false, false⟩) (learnMac u n h v.1))))))) ∧
    (∀ n f ok, 5 < n ∨ s.dev.mode = .boot ∨ (port s n).up = false ∨ (4 ≤ n ∧ isDying s = true) → exec (.ethFrameRx n f ok) s = .next s) ∧
    (∀ p a, p ≤ 1 → s.dev.mode ≠ .boot → pairMode s (2 * p) ≠ 0 → a = 2 * p →
      (∀ x, x = a ∨ x = a + 1 → lanBad s x = true → (port s x).fault = false → ∃ t, exec (.lanFaultTimeout p) s = .next t ∧ (port t x).fault = true ∧ flag t R.belStat (2 + p) = true) ∧
      (flag s R.belStat (2 + p) = true → (port s a).up = true → (port s (a + 1)).up = true → heard s a = true → heard s (a + 1) = true →
        ∃ t, exec (.lanFaultTimeout p) s = .next t ∧ (port t a).fault = false ∧ (port t (a + 1)).fault = false ∧ flag t R.belStat (2 + p) = false) ∧
      ((lanBad s a = false ∨ (port s a).fault = true) → (lanBad s (a + 1) = false ∨ (port s (a + 1)).fault = true) →
        (flag s R.belStat (2 + p) = false ∨ (port s a).up = false ∨ (port s (a + 1)).up = false ∨ heard s a = false ∨ heard s (a + 1) = false) → exec (.lanFaultTimeout p) s = .next s)) ∧
    (∀ p, 1 < p ∨ s.dev.mode = .boot ∨ pairMode s (2 * p) = 0 → exec (.lanFaultTimeout p) s = .next s) ∧
    (sends s = true → pairMode s 0 = 1 ∨ pairMode s 2 = 1 → s.bel.supAt + 2 * secT ≤ s.dev.ticks →
      ∃ t, exec .prpSupervisionSend s = .next t ∧ t.bel.supAt = s.dev.ticks ∧ t.bel.supSeq = (s.bel.supSeq + 1) % 65536) ∧
    (sends s = false ∨ (pairMode s 0 ≠ 1 ∧ pairMode s 2 ≠ 1) ∨ s.dev.ticks < s.bel.supAt + 2 * secT → exec .prpSupervisionSend s = .next s) ∧
    (exec .macAgeOut s = .next { s with bel := { s.bel with uni := s.bel.uni.filter (fun e => !elapsed s e.since (fld s R.belSwCfg 31 16 * secT)) } })

/-- For every state and operand each completes. BEACON_SEND once a millisecond sends the next beacon, where a destination is set. BELFRY_FRAME_RX in BOOT or with a bad CRC changes nothing; a partner's beacon is taken, its gasp is counted and starts a takeover on a paired standby, a cross-trigger goes to Cupola, anything else is counted. GOOSE_FRAME_RX in BOOT or on no port changes nothing; a frame whose key the table of its redundant pair holds, and any with subscription off, stops there; else each matching subscription handles it in turn: a wrong confRev or rejected content counts, a first or newer frame, or any on a LOST subscription, is accepted and kept as the newest, a repeat and a stale one are counted. GOOSE_TAL_EXPIRY makes an expired subscription LOST. GOOSE_RETRANSMIT sends, for a stopped bay, the due retransmission with the next sqNum, or the state change that a takeover left. BEL_TEST_PUBLISH that R491 takes sends the block's state change as TEST, or completes with BAD_MODE or BAD_PARAM. In every other case nothing changes. (R362, R400, R402, R406, R407, R409, R410, R411, R465, R499) -/
def Obligations.BelfryFramesAndGoose : Prop :=
  ∀ s : State,
    (sends s = true → now s / msI ≠ s.bel.bcnAt → bfDmac s ≠ 0 → ∃ t, exec .beaconSend s = .next t ∧ t.bel.bcnAt = now s / msI ∧ t.bel.bcn = (s.bel.bcn + 1) % 2 ^ 32) ∧
    (sends s = true → now s / msI ≠ s.bel.bcnAt → bfDmac s = 0 → exec .beaconSend s = .next { s with bel := { s.bel with bcnAt := now s / msI } }) ∧
    (sends s = false ∨ now s / msI = s.bel.bcnAt → exec .beaconSend s = .next s) ∧
    (∀ p, s.dev.mode = .boot ∨ belCrcOk p = false → exec (.belfryFrameRx p) s = .next s) ∧
    (∀ p unit, s.dev.mode ≠ .boot → belCrcOk p = true → unit = field p 8 4 % 2 ^ 20 →
      (field p 0 1 ≠ 1 ∨ field p 2 2 ≠ 48 ∨ 4 < field p 1 1 ∨ field p 1 1 ≤ 1 → exec (.belfryFrameRx p) s = .next (bump s R.belRxIgn)) ∧
      (field p 0 1 = 1 → field p 2 2 = 48 →
        (field p 4 4 = regGet s R.belPairId → unit ≠ s.otp.unitId % 2 ^ 20 →
          (field p 1 1 = 2 → exec (.belfryFrameRx p) s = .next (takeBeacon (bump s R.belBcnRx) unit (field p 12 1) (field p 13 1) (field p 14 2) (attInst p 20))) ∧
          (field p 1 1 = 4 → paired s = true → s.dev.mode = .vigil → s.mir.takeover = none →
            ∃ t, exec (.belfryFrameRx p) s = .next t ∧ t.mir.takeover = some ⟨3, effectInst s, currentSnap s⟩) ∧
          (field p 1 1 = 4 → paired s = false ∨ s.dev.mode ≠ .vigil ∨ s.mir.takeover.isSome = true → exec (.belfryFrameRx p) s = .next (bump s R.belBcnRx))) ∧
        (field p 4 4 ≠ regGet s R.belPairId ∨ unit = s.otp.unitId % 2 ^ 20 → field p 1 1 = 2 ∨ field p 1 1 = 4 → exec (.belfryFrameRx p) s = .next (bump s R.belRxIgn)) ∧
        (field p 1 1 = 3 → exec (.belfryFrameRx p) s = .next (takeXtrig s unit (field p 16 4) (field p 14 1) (bitOf (field p 15 1) 0) (attInst p 20))))) ∧
    (∀ f : GooseFrame, s.dev.mode = .boot ∨ 5 < f.port → exec (.gooseFrameRx f) s = .next s) ∧
    (∀ (f : GooseFrame) (p : State × Bool), s.dev.mode ≠ .boot → f.port ≤ 5 →
      ((f.red = none ∨ pairMode s f.port = 0) ∧ p = (s, false) ∨ ∃ q, f.red = some q ∧ pairMode s f.port ≠ 0 ∧ p = ddLookup s (decide (2 ≤ f.port)) f.src q) →
      (p.2 = true ∨ flag s R.belCtl 1 = false → exec (.gooseFrameRx f) s = .next p.1) ∧
      (p.2 = false → flag s R.belCtl 1 = true → exec (.gooseFrameRx f) s = .next (((subRecs p.1).filter (fun r => subMatch r f)).foldl (fun st r => subFrame st r f) p.1))) ∧
    (∀ (f : GooseFrame) (r : List Byte) (n : Nat) (u : GoSub) (z t : State), n = field r 2 2 → z = subLost s n → u = goSub z n → t = subFrame s r f →
      (f.confRev ≠ field r 20 4 → (goSub t n).rej = satInc u.rej ∧ (goSub t n).frames = u.frames) ∧
      (f.confRev = field r 20 4 → subRejects s r f = true → t = setSub z n { u with rej := satInc u.rej }) ∧
      (f.confRev = field r 20 4 → subRejects s r f = false → u.frames = [] ∨ u.valid = false → (goSub t n).frames.head? = some ⟨f.st, f.sq, nowQ s, f.tal, f.vals⟩ ∧ (goSub t n).accept = satInc u.accept) ∧
      (∀ l ls d, f.confRev = field r 20 4 → subRejects s r f = false → u.frames = l :: ls → u.valid = true → d = (f.st + 2 ^ 32 - l.st % 2 ^ 32) % 2 ^ 32 →
        ((1 ≤ d ∧ d < 2 ^ 31) ∨ (d = 0 ∧ l.sq < f.sq) → (goSub t n).frames.head? = some ⟨f.st, f.sq, nowQ s, f.tal, f.vals⟩ ∧ (goSub t n).accept = satInc u.accept) ∧
        (d = 0 → f.sq ≤ l.sq → t = setSub z n { u with dup := satInc u.dup }) ∧
        (2 ^ 31 ≤ d → t = setSub z n { u with stale := satInc u.stale }))) ∧
    (∀ n, s.dev.mode ≠ .boot → (goSub s n).valid = true → (goSub s n).validAt (nowQ s) = false →
        exec (.gooseTalExpiry n) s = .next (raise 0x0B05 (setSub s n { goSub s n with valid := false, tal := satInc (goSub s n).tal }) (idx := n))) ∧
    (∀ n, s.dev.mode = .boot ∨ (goSub s n).valid = false ∨ (goSub s n).validAt (nowQ s) = true → exec (.gooseTalExpiry n) s = .next s) ∧
    (∀ n r b due, (pubRecs s).find? (fun x => decide (field x 2 2 = n)) = some r → bay? s (field r 4 2) = some b → due = firstGrid b.rate ((goPub s n).tc + (goPub s n).sum * msI) →
      (sends s = true → flag s R.belCtl 0 = true → b.runs = false → (goPub s n).full ≠ [] → due + 2 * usI ≤ now s →
        ((goPub s n).first = false → ∃ t, exec (.gooseRetransmit n) s = .next t ∧ (goPub t n).sq = goNext (goPub s n).sq ∧ (goPub t n).st = (goPub s n).st ∧ (goPub t n).full = (goPub s n).full) ∧
        ((goPub s n).first = true → exec (.gooseRetransmit n) s = .next (stateChange s r b.ctx.pub b.ctx.bins (attAt s due) false))) ∧
      (sends s = false ∨ flag s R.belCtl 0 = false ∨ b.runs = true ∨ (goPub s n).full = [] ∨ now s < due + 2 * usI → exec (.gooseRetransmit n) s = .next s)) ∧
    (∀ n, (pubRecs s).find? (fun x => decide (field x 2 2 = n)) = none ∨ (∃ r, (pubRecs s).find? (fun x => decide (field x 2 2 = n)) = some r ∧ bay? s (field r 4 2) = none) →
      exec (.gooseRetransmit n) s = .next s) ∧
    (∀ e i n, Taken s e usedBelTestPublish i → n = field e.params 0 2 →
      (s.dev.mode ≠ .commission → s.dev.mode ≠ .test → exec (.belTestPublish e) s = .next (badCpl s (accepted s 0x90 e i) 0x90 e i stBadMode)) ∧
      (s.dev.mode = .commission ∨ s.dev.mode = .test →
        ((pubRecs s).find? (fun x => decide (field x 2 2 = n)) = none → exec (.belTestPublish e) s = .next (badCpl s (accepted s 0x90 e i) 0x90 e i stBadParam)) ∧
        (∀ r, (pubRecs s).find? (fun x => decide (field x 2 2 = n)) = some r → ∃ t, exec (.belTestPublish e) s = .next (okCpl s t 0x90 e i (attNow s) []) ∧ (goPub t n).st = goNext (goPub s n).st ∧
          (goPub t n).sq = 0 ∧ (goPub t n).test = true)))

/-- For every command and every state, exec answers a next state, whose queue is the one it was given: no command faults, refuses or puts a command into the queue. That the machine has no stop is the model's: every row of the table has an effect in the spec. (R491) -/
def Obligations.EveryCommandCompletes : Prop :=
  ∀ (c : Instr) (s : State), ∃ t, exec c s = .next t ∧ t.pending = s.pending

/-- Frames. The metering commands MET_INTERVAL_POST, MET_READ, MET_INTERVAL_CLOSE and POST_MISSING change only the metering state, the host island, registers and host memory. Belfry's link, frame, GOOSE, beacon, supervision and ageing commands change only Belfry, the duplicate tables, the host island, registers and host memory. Cupola's record commands change only Cupola, what it hands Belfry, the count of free values, the host island, registers and host memory; INDEX_FLASH_COPY only Cupola, the record copies of the flash and registers. The bays, the scheme, the Almanac, the configuration and OTP are as they were. (R324, R331, R338, R352, R355, R366, R389, R395, R400, R407, R411) -/
def Obligations.IslandsLeaveTheOthersAlone : Prop :=
  ∀ (c : Instr) (s : State),
    ((∃ e, c = .metIntervalPost e) ∨ (∃ e, c = .metRead e) ∨ (∃ n, c = .metIntervalClose n) ∨ (∃ n, c = .postMissing n) →
      ∃ t, exec c s = .next t ∧ t = { s with met := t.met, hif := t.hif, regs := t.regs, hostMem := t.hostMem }) ∧
    ((∃ n f ok, c = .ethFrameRx n f ok) ∨ (∃ f, c = .gooseFrameRx f) ∨ (∃ n, c = .gooseTalExpiry n) ∨ (∃ n, c = .gooseRetransmit n) ∨ c = .beaconSend ∨ (∃ n u sp, c = .linkStateChange n u sp) ∨
        (∃ p, c = .lanFaultTimeout p) ∨ c = .prpSupervisionSend ∨ c = .macAgeOut ∨ (∃ e, c = .belTestPublish e) →
      ∃ t, exec c s = .next t ∧ t = { s with bel := t.bel, svi := t.svi, hif := t.hif, regs := t.regs, hostMem := t.hostMem }) ∧
    ((∃ n, c = .cupRearm n) ∨ (∃ n, c = .recordLine n) ∨ (∃ n, c = .recordT0Refined n) ∨ (∃ n, c = .recordPostEnd n) ∨ (∃ n, c = .recordSealed n) ∨ (∃ n, c = .recordTailEnd n) ∨ (∃ n, c = .autoTrigger n) ∨
        c = .recFetchDone ∨ (∃ e, c = .recRelease e) ∨ (∃ e, c = .recForce e) ∨ (∃ e, c = .recFetch e) ∨ (∃ e, c = .histSnapshot e) →
      ∃ t, exec c s = .next t ∧ t = { s with cup := t.cup, bel := t.bel, dev := { s.dev with free := t.dev.free }, hif := t.hif, regs := t.regs, hostMem := t.hostMem }) ∧
    (c = .indexFlashCopy → ∃ t, exec c s = .next t ∧ t = { s with cup := t.cup, flash := { s.flash with recs := t.flash.recs }, regs := t.regs })

/-- From every state with the invariant, a step of any command, or a tick, answers a state with it: host memory in its canonical form, the stored registers in ascending order, nanoseconds below 10^9 and the fraction below 2^48, the increment and what it may return to within 1.25 ns plus or minus 300 ppm, and at most 256 events in the hold. That memory and registers are kept as sorted lists is the model's form (log entry 4). (R11, R37, R501) -/
def Obligations.EveryStepKeepsInv : Prop :=
  ∀ s t : State, Inv s → step s = .next t → Inv t

/-- For every state and every command at the front of its queue, and for a tick, the state after the step has the same ordering code, a last token serial at least as high, and every key slot revoked that was. This holds through BOOT, power loss, images and OTP programming alike. (R2, R525, R526, R532) -/
def Obligations.NoStepForgetsKeysOrTokens : Prop :=
  ∀ s t : State, step s = .next t → Lasting s t

/-- State.reset is in BOOT with no bay, scheme, ring, record or command; the Almanac at 0 s and 0 ns in free-run on the internal source, err_class 0xFF, not traceable, era 0, no PTP port, no slot taken, at the nominal increment, so that an ATT has quality 0xFFC0; HIF_ADMIN_CFG, BEL_ETYPE and CUP_REC_NEXT at the values of their Reset columns; the invariant of every step holds. The empty host memory, OTP and flash are the model's choice (log entries 3 and 4). (R40, R77, R565, R80, R515, R27) -/
def Obligations.ResetStateIsAsSpecified : Prop :=
  State.reset.dev.mode = .boot ∧ State.reset.bays = [] ∧ State.reset.scheme = none ∧ State.reset.hif.rings = [] ∧ State.reset.cup.recs = [] ∧ State.reset.pending = [] ∧
    State.reset.alm.sec = 0 ∧ State.reset.alm.ns = 0 ∧ State.reset.alm.lock = .freeRun ∧ State.reset.alm.source = .internal ∧ State.reset.alm.errClass = 0xFF ∧ State.reset.alm.traceable = false ∧
    State.reset.alm.era = 0 ∧ State.reset.alm.selPort = 15 ∧ State.reset.alm.slots = [] ∧ State.reset.alm.inc = 5 * 2 ^ 46 ∧ (attNow State.reset).q = 0xFFC0 ∧
    regGet State.reset R.hifAdminCfg = 0x440 ∧ regGet State.reset R.belEtype = 0x88B5 ∧ regGet State.reset R.cupRecNext = 1 ∧ Inv State.reset
end

