-- ==== Sys2Proof/Laws/Cmd.lean ====
section
/-! SUPPORT. What `submit` does with a command, by the answer of its owning rule (R491, R492). -/

namespace Sys2Proof.Machine

/-- The reservation of an accepted command. -/
theorem reserve_eq (s : State) (op : Nat) (e : CmdEntry) (i : Nat) : reserve s op e i = (accepted s op e i, flightOf s op e i) := rfl

/-- A command that passes steps 1, 2 and 4 runs its owning rule. -/
theorem submit_taken {s : State} {op : Nat} {used : List (Nat × Nat)} {own : CmdEntry → Nat → State → CmdOut} {e : CmdEntry} {i : Nat}
    (h : Taken s e used i) :
    submit op used own e s =
      match (own e s.hif.nextCid (accepted s op e i)).status with
      | none => (own e s.hif.nextCid (accepted s op e i)).s
      | some st => writeCpl (own e s.hif.nextCid (accepted s op e i)).s (flightOf s op e i) st (own e s.hif.nextCid (accepted s op e i)).res
          (if st = stOk then attNow s else Att.zero) (own e s.hif.nextCid (accepted s op e i)).fields := by
  simp only [submit, h.ring, h.ready, h.zero, reserve_eq]
  rfl

/-- An owning rule that completes with OK. -/
theorem submit_ok {s u : State} {op : Nat} {used : List (Nat × Nat)} {own : CmdEntry → Nat → State → CmdOut} {e : CmdEntry} {i : Nat}
    {res : Att} {fields : List Byte} (h : Taken s e used i) (ho : own e s.hif.nextCid (accepted s op e i) = .ok u res fields) :
    submit op used own e s = okCpl s u op e i res fields := by
  rw [submit_taken h, ho]; rfl

/-- An owning rule that defers its completion. -/
theorem submit_later {s u : State} {op : Nat} {used : List (Nat × Nat)} {own : CmdEntry → Nat → State → CmdOut} {e : CmdEntry} {i : Nat}
    (h : Taken s e used i) (ho : own e s.hif.nextCid (accepted s op e i) = .later u) : submit op used own e s = u := by
  rw [submit_taken h, ho]; rfl

/-- An owning rule that refuses, with a status other than OK. -/
theorem submit_rej {s u : State} {op : Nat} {used : List (Nat × Nat)} {own : CmdEntry → Nat → State → CmdOut} {e : CmdEntry} {i st : Nat}
    (h : Taken s e used i) (hs : st ≠ stOk) (ho : own e s.hif.nextCid (accepted s op e i) = .rejAfter u st) :
    submit op used own e s = badCpl s u op e i st := by
  rw [submit_taken h, ho]
  simp [CmdOut.rejAfter, hs, badCpl]

/-- A refusal that changes nothing is a refusal. -/
theorem CmdOut.rej_eq (s : State) (st : Nat) : CmdOut.rej s st = .rejAfter s st := rfl

/-- A command whose completion ring was not the one it names, or whose rsvd bytes are not all 0, completes with BAD_PARAM (R491 steps 1 and 4). -/
theorem submit_bad {s : State} {op : Nat} {used : List (Nat × Nat)} {own : CmdEntry → Nat → State → CmdOut} {e : CmdEntry} {i : Nat} {named : Bool}
    (h : cplRingOf s e = some (i, named)) (hr : cmdReady s e = true) (hb : named = false ∨ rsvdZero e used = false) :
    submit op used own e s = badCpl s (accepted s op e i) op e i stBadParam := by
  rcases hb with hb | hb <;> simp [submit, h, hr, hb, reserve_eq, badCpl]

/-- Accepting a command changes the host island alone. -/
theorem accepted_eq (s : State) (op : Nat) (e : CmdEntry) (i : Nat) : accepted s op e i = { s with hif := (accepted s op e i).hif } := by
  simp only [accepted, reserve, modRing]
  split <;> rfl

@[simp] theorem accepted_dev (s : State) (op : Nat) (e : CmdEntry) (i : Nat) : (accepted s op e i).dev = s.dev := by rw [accepted_eq]
@[simp] theorem accepted_alm (s : State) (op : Nat) (e : CmdEntry) (i : Nat) : (accepted s op e i).alm = s.alm := by rw [accepted_eq]
@[simp] theorem accepted_sec (s : State) (op : Nat) (e : CmdEntry) (i : Nat) : (accepted s op e i).sec = s.sec := by rw [accepted_eq]
@[simp] theorem accepted_otp (s : State) (op : Nat) (e : CmdEntry) (i : Nat) : (accepted s op e i).otp = s.otp := by rw [accepted_eq]
@[simp] theorem accepted_flash (s : State) (op : Nat) (e : CmdEntry) (i : Nat) : (accepted s op e i).flash = s.flash := by rw [accepted_eq]
@[simp] theorem accepted_regs (s : State) (op : Nat) (e : CmdEntry) (i : Nat) : (accepted s op e i).regs = s.regs := by rw [accepted_eq]
@[simp] theorem accepted_hostMem (s : State) (op : Nat) (e : CmdEntry) (i : Nat) : (accepted s op e i).hostMem = s.hostMem := by rw [accepted_eq]
@[simp] theorem accepted_bays (s : State) (op : Nat) (e : CmdEntry) (i : Nat) : (accepted s op e i).bays = s.bays := by rw [accepted_eq]
@[simp] theorem accepted_cfg (s : State) (op : Nat) (e : CmdEntry) (i : Nat) : (accepted s op e i).cfg = s.cfg := by rw [accepted_eq]
@[simp] theorem accepted_cup (s : State) (op : Nat) (e : CmdEntry) (i : Nat) : (accepted s op e i).cup = s.cup := by rw [accepted_eq]
@[simp] theorem accepted_mir (s : State) (op : Nat) (e : CmdEntry) (i : Nat) : (accepted s op e i).mir = s.mir := by rw [accepted_eq]
@[simp] theorem accepted_met (s : State) (op : Nat) (e : CmdEntry) (i : Nat) : (accepted s op e i).met = s.met := by rw [accepted_eq]
@[simp] theorem accepted_bel (s : State) (op : Nat) (e : CmdEntry) (i : Nat) : (accepted s op e i).bel = s.bel := by rw [accepted_eq]
@[simp] theorem accepted_afe (s : State) (op : Nat) (e : CmdEntry) (i : Nat) : (accepted s op e i).afe = s.afe := by rw [accepted_eq]
@[simp] theorem accepted_scheme (s : State) (op : Nat) (e : CmdEntry) (i : Nat) : (accepted s op e i).scheme = s.scheme := by rw [accepted_eq]
@[simp] theorem accepted_pwr (s : State) (op : Nat) (e : CmdEntry) (i : Nat) : (accepted s op e i).pwr = s.pwr := by rw [accepted_eq]
@[simp] theorem accepted_pending (s : State) (op : Nat) (e : CmdEntry) (i : Nat) : (accepted s op e i).pending = s.pending := by rw [accepted_eq]

end Sys2Proof.Machine
end

