-- ==== Sys2Proof/Laws/Fields.lean ====
section
/-! SUPPORT. A bit field written and read back: the field itself, a field beside it, and the word's bound. -/

namespace Sys2Proof.Machine

/-- A word cut at a field: the part above, the field, the part below. -/
theorem fld_cut (w hi lo : Nat) (h : lo ≤ hi + 1) :
    w = (w / 2 ^ (hi + 1)) * 2 ^ (hi + 1) + bitsOf w hi lo * 2 ^ lo + w % 2 ^ lo := by
  have h1 : 2 ^ (hi + 1) = 2 ^ lo * 2 ^ (hi + 1 - lo) := by rw [← pow_add]; congr 1; omega
  have h2 := Nat.div_add_mod w (2 ^ lo)
  have h3 := Nat.div_add_mod (w / 2 ^ lo) (2 ^ (hi + 1 - lo))
  rw [Nat.div_div_eq_div_mul, ← h1] at h3
  simp only [bitsOf]
  calc w = 2 ^ lo * (w / 2 ^ lo) + w % 2 ^ lo := h2.symm
    _ = 2 ^ lo * (2 ^ (hi + 1 - lo) * (w / 2 ^ (hi + 1)) + w / 2 ^ lo % 2 ^ (hi + 1 - lo)) + w % 2 ^ lo := by rw [h3]
    _ = _ := by rw [h1]; ring

/-- A word with a field put in, cut at that field. -/
theorem Fld.put_eq (f : Fld) (w v : Nat) (h : f.lo ≤ f.hi + 1) :
    f.put w v = (w / 2 ^ (f.hi + 1)) * 2 ^ (f.hi + 1) + (v % 2 ^ (f.hi + 1 - f.lo)) * 2 ^ f.lo + w % 2 ^ f.lo := by
  have := fld_cut w f.hi f.lo h
  simp only [Fld.put, Fld.get]
  omega

/-- What a cut word reads as in the field it was cut at. -/
theorem bitsOf_cut (A g c hi lo : Nat) (h : lo ≤ hi + 1) (hg : g < 2 ^ (hi + 1 - lo)) (hc : c < 2 ^ lo) :
    bitsOf (A * 2 ^ (hi + 1) + g * 2 ^ lo + c) hi lo = g := by
  have h1 : 2 ^ (hi + 1) = 2 ^ (hi + 1 - lo) * 2 ^ lo := by rw [← pow_add]; congr 1; omega
  have h2 : A * 2 ^ (hi + 1) + g * 2 ^ lo + c = c + 2 ^ lo * (A * 2 ^ (hi + 1 - lo) + g) := by rw [h1]; ring
  rw [bitsOf, h2, Nat.add_mul_div_left _ _ (by positivity), Nat.div_eq_of_lt hc, Nat.zero_add, Nat.mul_add_mod', Nat.mod_eq_of_lt hg]

/-- A field reads back as what was put in. -/
theorem Fld.get_put (f : Fld) (w v : Nat) (h : f.lo ≤ f.hi + 1) : f.get (f.put w v) = v % 2 ^ (f.hi + 1 - f.lo) := by
  rw [f.put_eq w v h]
  exact bitsOf_cut _ _ _ _ _ h (Nat.mod_lt _ (by positivity)) (Nat.mod_lt _ (by positivity))

/-- Bits above a field are those of the word. -/
theorem put_div (f : Fld) (w v : Nat) (h : f.lo ≤ f.hi + 1) : f.put w v / 2 ^ (f.hi + 1) = w / 2 ^ (f.hi + 1) := by
  rw [f.put_eq w v h]
  have h1 : 2 ^ (f.hi + 1) = 2 ^ (f.hi + 1 - f.lo) * 2 ^ f.lo := by rw [← pow_add]; congr 1; omega
  have hb : v % 2 ^ (f.hi + 1 - f.lo) * 2 ^ f.lo + w % 2 ^ f.lo < 2 ^ (f.hi + 1) := by
    have a := Nat.mod_lt v (show 0 < 2 ^ (f.hi + 1 - f.lo) by positivity)
    have b := Nat.mod_lt w (show 0 < 2 ^ f.lo by positivity)
    rw [h1]
    calc _ < v % 2 ^ (f.hi + 1 - f.lo) * 2 ^ f.lo + 2 ^ f.lo := by omega
      _ = (v % 2 ^ (f.hi + 1 - f.lo) + 1) * 2 ^ f.lo := by ring
      _ ≤ _ := Nat.mul_le_mul_right _ a
  rw [Nat.add_assoc, Nat.add_comm, Nat.add_mul_div_right _ _ (by positivity), Nat.div_eq_of_lt hb, Nat.zero_add]

/-- Bits below a field are those of the word. -/
theorem put_mod (f : Fld) (w v : Nat) (h : f.lo ≤ f.hi + 1) : f.put w v % 2 ^ f.lo = w % 2 ^ f.lo := by
  rw [f.put_eq w v h]
  have h1 : 2 ^ (f.hi + 1) = 2 ^ (f.hi + 1 - f.lo) * 2 ^ f.lo := by rw [← pow_add]; congr 1; omega
  have : w / 2 ^ (f.hi + 1) * 2 ^ (f.hi + 1) + v % 2 ^ (f.hi + 1 - f.lo) * 2 ^ f.lo + w % 2 ^ f.lo
      = w % 2 ^ f.lo + 2 ^ f.lo * (w / 2 ^ (f.hi + 1) * 2 ^ (f.hi + 1 - f.lo) + v % 2 ^ (f.hi + 1 - f.lo)) := by rw [h1]; ring
  rw [this, Nat.add_mul_mod_self_left, Nat.mod_mod]

/-- A field beside the one put in reads as before. -/
theorem Fld.get_put_ne (f g : Fld) (w v : Nat) (h : f.lo ≤ f.hi + 1) (hg : g.lo ≤ g.hi + 1) (hd : g.hi < f.lo ∨ f.hi < g.lo) :
    g.get (f.put w v) = g.get w := by
  simp only [Fld.get, bitsOf]
  rcases hd with hd | hd
  · have e : ∀ x : Nat, x / 2 ^ g.lo % 2 ^ (g.hi + 1 - g.lo) = x % 2 ^ f.lo / 2 ^ g.lo % 2 ^ (g.hi + 1 - g.lo) := by
      intro x
      have h1 : f.lo = g.lo + (g.hi + 1 - g.lo) + (f.lo - g.hi - 1) := by omega
      rw [show 2 ^ f.lo = 2 ^ g.lo * (2 ^ (g.hi + 1 - g.lo) * 2 ^ (f.lo - g.hi - 1)) by rw [← pow_add, ← pow_add]; congr 1; omega]
      rw [Nat.mod_mul_right_div_self, Nat.mod_mul_right_mod]
    rw [e (f.put w v), put_mod f w v h, ← e w]
  · have e : ∀ x : Nat, x / 2 ^ g.lo = x / 2 ^ (f.hi + 1) / 2 ^ (g.lo - f.hi - 1) := by
      intro x
      rw [Nat.div_div_eq_div_mul, ← pow_add]; congr 2; omega
    rw [e, put_div f w v h, ← e]

/-- A word stays within 32 bits. -/
theorem Fld.put_lt (f : Fld) (w v : Nat) (h : f.lo ≤ f.hi + 1) (hh : f.hi < 32) (hw : w < 2 ^ 32) : f.put w v < 2 ^ 32 := by
  have h1 : w / 2 ^ (f.hi + 1) < 2 ^ (32 - (f.hi + 1)) := by
    rw [Nat.div_lt_iff_lt_mul (by positivity), ← pow_add]
    rwa [show 32 - (f.hi + 1) + (f.hi + 1) = 32 by omega]
  rw [← put_div f w v h, Nat.div_lt_iff_lt_mul (by positivity), ← pow_add] at h1
  rwa [show 32 - (f.hi + 1) + (f.hi + 1) = 32 by omega] at h1

end Sys2Proof.Machine
end

