-- ==== Sys2Proof/Laws/Kept.lean ====
section
/-! SUPPORT. The relation that every operation keeps: the queue and the ordering code stay, the invariant is kept, the token serial and the revoked slots do not go back. Its rules, and the laws of tables and memories they rest on. -/

namespace Sys2Proof.Machine

/-! ### Memories and tables -/

theorem memRead_blank_of_wfFrom {m : Memory} : ∀ {lo a : Nat}, m.wfFrom lo = true → a < lo → memRead m a = Memory.blank := by
  induction m with
  | nil => intros; rfl
  | cons p t ih =>
    obtain ⟨j, b⟩ := p
    intro lo a h ha
    simp only [Memory.wfFrom, Bool.and_eq_true, decide_eq_true_eq] at h
    obtain ⟨⟨hj, -⟩, ht⟩ := h
    simp only [memRead]
    rw [if_neg (by omega)]
    exact ih ht (by omega)

theorem wfFrom_mono {m : Memory} {lo lo' : Nat} (h : m.wfFrom lo = true) (hle : lo' ≤ lo) : m.wfFrom lo' = true := by
  cases m with
  | nil => rfl
  | cons p t =>
    obtain ⟨j, b⟩ := p
    simp only [Memory.wfFrom, Bool.and_eq_true, decide_eq_true_eq] at h ⊢
    exact ⟨⟨by omega, h.1.2⟩, h.2⟩

theorem memPut_wfFrom {m : Memory} : ∀ {lo a : Nat} {v : Byte}, m.wfFrom lo = true → lo ≤ a → v ≠ Memory.blank → (memPut m a v).wfFrom lo = true := by
  induction m with
  | nil => intro lo a v _ ha hv; simp [memPut, Memory.wfFrom, ha, hv]
  | cons p t ih =>
    obtain ⟨j, b⟩ := p
    intro lo a v h ha hv
    simp only [Memory.wfFrom, Bool.and_eq_true, decide_eq_true_eq] at h
    obtain ⟨⟨hj, hb⟩, ht⟩ := h
    simp only [memPut]
    split
    · simp only [Memory.wfFrom, Bool.and_eq_true, decide_eq_true_eq]; exact ⟨⟨ha, hv⟩, ⟨by omega, hb⟩, ht⟩
    · split
      · subst_vars; simp only [Memory.wfFrom, Bool.and_eq_true, decide_eq_true_eq]; exact ⟨⟨ha, hv⟩, ht⟩
      · simp only [Memory.wfFrom, Bool.and_eq_true, decide_eq_true_eq]; exact ⟨⟨hj, hb⟩, ih ht (by omega) hv⟩

theorem memClear_wfFrom {m : Memory} : ∀ {lo a : Nat}, m.wfFrom lo = true → (memClear m a).wfFrom lo = true := by
  induction m with
  | nil => intros; rfl
  | cons p t ih =>
    obtain ⟨j, b⟩ := p
    intro lo a h
    simp only [Memory.wfFrom, Bool.and_eq_true, decide_eq_true_eq] at h
    obtain ⟨⟨hj, hb⟩, ht⟩ := h
    simp only [memClear]
    split
    · exact wfFrom_mono ht (by omega)
    · simp only [Memory.wfFrom, Bool.and_eq_true, decide_eq_true_eq]; exact ⟨⟨hj, hb⟩, ih ht⟩

/-- A write keeps the canonical form. -/
theorem memWrite_wf {m : Memory} {a : Nat} {v : Byte} (h : m.wf = true) : (memWrite m a v).wf = true := by
  unfold memWrite
  split
  · exact memClear_wfFrom h
  · exact memPut_wfFrom h (Nat.zero_le a) ‹_›

/-- A write of bytes keeps the canonical form. -/
theorem memWriteBytes_wf {bs : List Byte} : ∀ {m : Memory} {a : Nat}, m.wf = true → (memWriteBytes m a bs).wf = true := by
  induction bs with
  | nil => intro m a h; exact h
  | cons b bs ih => intro m a h; exact ih (memWrite_wf h)

theorem memRead_memPut {m : Memory} : ∀ {a x : Nat} {v : Byte} {lo : Nat}, m.wfFrom lo = true →
    memRead (memPut m a v) x = if x = a then v else memRead m x := by
  induction m with
  | nil =>
    intro a x v lo _
    by_cases h : x = a
    · simp [memPut, memRead, h]
    · simp [memPut, memRead, h, Ne.symm h]
  | cons p t ih =>
    obtain ⟨j, b⟩ := p
    intro a x v lo h
    simp only [Memory.wfFrom, Bool.and_eq_true, decide_eq_true_eq] at h
    simp only [memPut]
    split
    · by_cases hx : x = a
      · simp [memRead, hx]
      · simp [memRead, hx, Ne.symm hx]
    · split
      · subst_vars
        by_cases hx : x = a
        · simp_all [memRead]
        · simp_all [memRead, Ne.symm hx]
      · by_cases hx : x = a
        · subst hx; rw [memRead, if_neg (by omega), ih h.2]; simp
        · simp only [memRead, ih h.2, hx, if_false]

theorem memRead_memClear {m : Memory} : ∀ {a x : Nat} {lo : Nat}, m.wfFrom lo = true →
    memRead (memClear m a) x = if x = a then Memory.blank else memRead m x := by
  induction m with
  | nil => intro a x lo _; simp [memClear, memRead]
  | cons p t ih =>
    obtain ⟨j, b⟩ := p
    intro a x lo h
    simp only [Memory.wfFrom, Bool.and_eq_true, decide_eq_true_eq] at h
    simp only [memClear]
    split
    · subst_vars
      by_cases hx : x = a
      · subst hx; simp; exact memRead_blank_of_wfFrom h.2 (by omega)
      · simp [memRead, hx, Ne.symm hx]
    · by_cases hx : x = a
      · subst hx; rw [memRead, if_neg (by assumption), ih h.2]; simp
      · simp only [memRead, ih h.2, hx, if_false]

/-- The byte read after a write: the byte written at its address, and the old byte everywhere else. -/
theorem memRead_memWrite {m : Memory} {a x : Nat} {v : Byte} (h : m.wf = true) :
    memRead (memWrite m a v) x = if x = a then v else memRead m x := by
  unfold memWrite
  split
  · rename_i hv; subst hv; exact memRead_memClear h
  · exact memRead_memPut h

/-- The byte read after a write of bytes. -/
theorem memRead_memWriteBytes {bs : List Byte} : ∀ {m : Memory} {a x : Nat}, m.wf = true →
    memRead (memWriteBytes m a bs) x = if a ≤ x ∧ x < a + bs.length then bs.getD (x - a) 0 else memRead m x := by
  induction bs with
  | nil => intro m a x _; simp [memWriteBytes] <;> omega
  | cons b bs ih =>
    intro m a x h
    rw [memWriteBytes, ih (memWrite_wf h), memRead_memWrite h]
    by_cases h1 : x = a
    · subst h1; simp <;> omega
    · by_cases h2 : a + 1 ≤ x ∧ x < a + 1 + bs.length
      · have e : x - a = (x - (a + 1)) + 1 := by omega
        rw [if_pos h2, if_pos (by simp; omega), e]; simp
      · rw [if_neg h2, if_neg h1, if_neg (by simp; omega)]

theorem tset_keysFrom {α : Type} {t : Tab α} : ∀ {lo k : Nat} {a : α}, keysFrom lo t = true → lo ≤ k → keysFrom lo (tset t k a) = true := by
  induction t with
  | nil => intro lo k a _ hk; simp [tset, keysFrom, hk]
  | cons p t ih =>
    obtain ⟨j, b⟩ := p
    intro lo k a h hk
    simp only [keysFrom, Bool.and_eq_true, decide_eq_true_eq] at h
    simp only [tset]
    split
    · simp only [keysFrom, Bool.and_eq_true, decide_eq_true_eq]; exact ⟨hk, by omega, h.2⟩
    · split
      · subst_vars; simp only [keysFrom, Bool.and_eq_true, decide_eq_true_eq]; exact h
      · simp only [keysFrom, Bool.and_eq_true, decide_eq_true_eq]; exact ⟨h.1, ih h.2 (by omega)⟩

/-- A key reads after a change of a table: the new value at its key, the old one everywhere else. -/
theorem tget_tset {α : Type} {t : Tab α} : ∀ {k x : Nat} {a : α}, tget? (tset t k a) x = if x = k then some a else tget? t x := by
  induction t with
  | nil =>
    intro k x a
    by_cases h : x = k
    · simp [tset, tget?, h]
    · simp [tset, tget?, h, Ne.symm h]
  | cons p t ih =>
    obtain ⟨j, b⟩ := p
    intro k x a
    simp only [tset]
    split
    · by_cases h : x = k
      · simp [tget?, h]
      · simp [tget?, h, Ne.symm h]
    · split
      · rename_i e
        subst e
        by_cases h : x = k
        · simp [tget?, h]
        · simp [tget?, h, Ne.symm h]
      · by_cases h : x = k
        · subst h; simp only [tget?]; rw [if_neg (by omega), ih]; simp
        · simp only [tget?, ih, h, if_false]

/-! ### The relation -/

/-- What every operation keeps between a state and the state it leaves. -/
structure Kept (o s : State) : Prop where
  queue : s.pending = o.pending
  lasts : Lasting o s
  inv : Inv o → Inv s

theorem Lasting.rfl' (s : State) : Lasting s s := ⟨rfl, Nat.le_refl _, fun _ h => h⟩

theorem Lasting.trans {a b c : State} (h : Lasting a b) (k : Lasting b c) : Lasting a c :=
  ⟨k.part.trans h.part, Nat.le_trans h.serial k.serial, fun i x => k.revoked i (h.revoked i x)⟩

theorem Kept.rfl' (s : State) : Kept s s := ⟨rfl, Lasting.rfl' s, fun h => h⟩

theorem Kept.trans {a b c : State} (h : Kept a b) (k : Kept b c) : Kept a c :=
  ⟨k.queue.trans h.queue, h.lasts.trans k.lasts, fun x => k.inv (h.inv x)⟩

/-- A state that differs from another only in parts the relation does not look at. -/
theorem Kept.of_same {o x s : State} (h1 : s.pending = x.pending) (h2 : s.dev.part7264 = x.dev.part7264) (h3 : s.flash.serial = x.flash.serial)
    (h4 : s.otp.revoked = x.otp.revoked) (h5 : s.hostMem = x.hostMem) (h6 : s.regs = x.regs) (h7 : s.alm.ns = x.alm.ns) (h8 : s.alm.frac = x.alm.frac)
    (h9 : s.alm.inc = x.alm.inc) (h10 : s.alm.incBase = x.alm.incBase) (h11 : s.alm.rateHist = x.alm.rateHist) (h12 : s.hif.held = x.hif.held)
    (h : Kept o x) : Kept o s :=
  h.trans ⟨h1, ⟨h2, Nat.le_of_eq h3.symm, fun i y => by rw [h4]; exact y⟩,
    fun i => ⟨by rw [h5]; exact i.mem, by rw [h6]; exact i.regs, by rw [h7]; exact i.ns, by rw [h8]; exact i.frac, by rw [h9]; exact i.inc,
      by rw [h10]; exact i.incBase, by rw [h11]; exact i.hist, by rw [h12]; exact i.held⟩⟩

/-- An update of a state that leaves alone what the relation looks at. -/
theorem Kept.lit {o x : State} {d : Dev} {pw : Pwr} {al : Alm} {hi : Hif} {se : Sec} {ot : Otp} {fl : Flash} {af : Afe} {ft : Flt} {sv : Svi} {sc : Option Scheme}
    {ba : Tab Bay} {pr : Prep} {cf : Cfg} {cu : Cup} {be : Bel} {mi : Mir} {me : Met} {rg : Tab Word} {mem : Memory} {pend : List Instr}
    (h1 : pend = x.pending) (h2 : d.part7264 = x.dev.part7264) (h3 : fl.serial = x.flash.serial)
    (h4 : ot.revoked = x.otp.revoked) (h5 : mem = x.hostMem) (h6 : rg = x.regs) (h7 : al.ns = x.alm.ns) (h8 : al.frac = x.alm.frac)
    (h9 : al.inc = x.alm.inc) (h10 : al.incBase = x.alm.incBase) (h11 : al.rateHist = x.alm.rateHist) (h12 : hi.held = x.hif.held)
    (h : Kept o x) : Kept o (State.mk d pw al hi se ot fl af ft sv sc ba pr cf cu be mi me rg mem pend) :=
  Kept.of_same h1 h2 h3 h4 h5 h6 h7 h8 h9 h10 h11 h12 h

/-- A change of the Almanac alone that keeps its part of the invariant. -/
theorem Kept.alm {o s : State} {a : Alm} (h : Kept o s) (hn : a.ns = s.alm.ns) (hf : a.frac = s.alm.frac)
    (hr : rateOk s.alm.inc → rateOk s.alm.incBase → (∀ p ∈ s.alm.rateHist, rateOk p.2) → rateOk a.inc ∧ rateOk a.incBase ∧ ∀ p ∈ a.rateHist, rateOk p.2) :
    Kept o { s with alm := a } :=
  h.trans ⟨rfl, ⟨rfl, Nat.le_refl _, fun _ x => x⟩, fun i =>
    ⟨i.mem, i.regs, hn ▸ i.ns, hf ▸ i.frac, (hr i.inc i.incBase i.hist).1, (hr i.inc i.incBase i.hist).2.1, (hr i.inc i.incBase i.hist).2.2, i.held⟩⟩

/-- A change of the host island alone that holds no more events than may be held. -/
theorem Kept.hif {o s : State} {x : Hif} (h : Kept o s) (hh : Inv o → x.held.length ≤ 256) : Kept o { s with hif := x } :=
  ⟨h.queue, ⟨h.lasts.part, h.lasts.serial, h.lasts.revoked⟩, fun i => let k := h.inv i; ⟨k.mem, k.regs, k.ns, k.frac, k.inc, k.incBase, k.hist, hh i⟩⟩

theorem Kept.foldl {α : Type} {o : State} {f : State → α → State} {l : List α} (hf : ∀ st x, Kept o st → Kept o (f st x)) :
    ∀ {s : State}, Kept o s → Kept o (l.foldl f s) := by
  induction l with
  | nil => intro s h; exact h
  | cons x xs ih => intro s h; exact ih (hf s x h)

theorem Kept.ite {o a b : State} {c : Prop} [Decidable c] (ha : Kept o a) (hb : Kept o b) : Kept o (if c then a else b) := by
  split
  · exact ha
  · exact hb

/-- A pair whose state the relation reaches. -/
structure KeptP {β : Type} (o : State) (x : State × β) : Prop where
  out : Kept o x.1

theorem KeptP.pair {β : Type} {o a : State} {b : β} (h : Kept o a) : KeptP o (a, b) := ⟨h⟩

theorem KeptP.fst {β : Type} {o : State} {x : State × β} (h : KeptP o x) : Kept o x.1 := h.out

theorem Kept.fst {β : Type} {o a : State} {c : β} {x : State × β} (e : x = (a, c)) (h : KeptP o x) : Kept o a := by
  have k := h.out; rw [e] at k; exact k

theorem KeptP.ite {β : Type} {o : State} {a b : State × β} {c : Prop} [Decidable c] (ha : KeptP o a) (hb : KeptP o b) : KeptP o (if c then a else b) := by
  split
  · exact ha
  · exact hb

theorem KeptP.foldl {α β : Type} {o : State} {f : State × β → α → State × β} {l : List α} (hf : ∀ st x, Kept o st.1 → KeptP o (f st x)) :
    ∀ {s : State × β}, KeptP o s → KeptP o (l.foldl f s) := by
  induction l with
  | nil => intro s h; exact h
  | cons x xs ih => intro s h; exact ih (hf s x h.out)

/-- What an owning rule answers, when the relation reaches its state. -/
structure KeptC (o : State) (x : CmdOut) : Prop where
  out : Kept o x.s

theorem KeptC.lit {o a : State} {st : Option Nat} {r : Att} {f : List Byte} (h : Kept o a) : KeptC o ⟨a, st, r, f⟩ := ⟨h⟩

theorem KeptC.s_kept {o : State} {x : CmdOut} (h : KeptC o x) : Kept o x.s := h.out

theorem KeptC.ite {o : State} {a b : CmdOut} {c : Prop} [Decidable c] (ha : KeptC o a) (hb : KeptC o b) : KeptC o (if c then a else b) := by
  split
  · exact ha
  · exact hb

/-- An outcome that goes on to a state the relation reaches. -/
def KeptOut (o : State) (r : Host.Outcome State Fault Refusal) : Prop := ∃ t, r = .next t ∧ Kept o t

theorem Kept.next {o s : State} (h : Kept o s) : KeptOut o (next s) := ⟨s, rfl, h⟩

theorem KeptOut.ite {o : State} {a b : Host.Outcome State Fault Refusal} {c : Prop} [Decidable c] (ha : KeptOut o a) (hb : KeptOut o b) :
    KeptOut o (if c then a else b) := by
  split
  · exact ha
  · exact hb

theorem CmdOut.ok_kept {o s : State} {a : Att} {b : List Byte} (h : Kept o s) : KeptC o (CmdOut.ok s a b) := ⟨h⟩
theorem CmdOut.rej_kept {o s : State} {n : Nat} (h : Kept o s) : KeptC o (CmdOut.rej s n) := ⟨h⟩
theorem CmdOut.later_kept {o s : State} (h : Kept o s) : KeptC o (CmdOut.later s) := ⟨h⟩
theorem CmdOut.rejAfter_kept {o s : State} {n : Nat} (h : Kept o s) : KeptC o (CmdOut.rejAfter s n) := ⟨h⟩

theorem regSet_kept {o s : State} {a v : Nat} (h : Kept o s) : Kept o (regSet s a v) :=
  h.trans ⟨rfl, ⟨rfl, Nat.le_refl _, fun _ x => x⟩, fun i => ⟨i.mem, tset_keysFrom i.regs (Nat.zero_le a), i.ns, i.frac, i.inc, i.incBase, i.hist, i.held⟩⟩

theorem hostWrite_kept {o s : State} {a : Nat} {bs : List Byte} (h : Kept o s) : Kept o (hostWrite s a bs) := by
  unfold hostWrite
  split
  · exact h.trans ⟨rfl, ⟨rfl, Nat.le_refl _, fun _ x => x⟩, fun i => ⟨memWriteBytes_wf i.mem, i.regs, i.ns, i.frac, i.inc, i.incBase, i.hist, i.held⟩⟩
  · exact h

theorem tick_kept {o s : State} (h : Kept o s) : Kept o (tick s) :=
  h.trans ⟨rfl, ⟨rfl, Nat.le_refl _, fun _ x => x⟩, fun i =>
    ⟨i.mem, i.regs, Nat.mod_lt _ (by decide), Nat.mod_lt _ (by decide), i.inc, i.incBase, i.hist, i.held⟩⟩

end Sys2Proof.Machine
end

