-- ==== Sys2Proof/Laws/State.lean ====
section
/-! SUPPORT. What each shared operation leaves of every field of State, and what a register and its fields read after a write. -/

namespace Sys2Proof.Machine

/-! ### Registers -/

theorem resetWordAt_lt (a : Nat) : resetWordAt a < 2 ^ 32 := by
  have all : regTable.all (fun d => decide (d.resetWord < 2 ^ 32)) = true := by decide +kernel
  unfold resetWordAt
  cases h : regAt a with
  | none => decide
  | some d => exact of_decide_eq_true (List.all_eq_true.mp all d (List.mem_of_find?_eq_some h))

/-- A register holds 32 bits. -/
theorem regGet_lt (s : State) (a : Nat) : regGet s a < 2 ^ 32 := by
  unfold regGet
  split
  · exact BitVec.isLt _
  · exact resetWordAt_lt a

/-- A register reads what was stored in it; another reads as before. -/
theorem regGet_regSet (s : State) (a v x : Nat) : regGet (regSet s a v) x = if x = a then v % 2 ^ 32 else regGet s x := by
  simp only [regGet, regSet, tget_tset]
  split <;> rename_i h
  · split at h
    · simp only [Option.some.injEq] at h; subst h; simp [*]
    · simp [*]
  · split at h
    · cases h
    · simp [*]

theorem regGet_regSet_ne (s : State) {a v x : Nat} (h : x ≠ a) : regGet (regSet s a v) x = regGet s x := by simp [regGet_regSet, h]

theorem regGet_fldSet_ne (s : State) {a hi lo v x : Nat} (h : x ≠ a) : regGet (fldSet s a hi lo v) x = regGet s x := regGet_regSet_ne s h

theorem fld_fldSet_ne (s : State) {a hi lo v x h' l' : Nat} (h : x ≠ a) : fld (fldSet s a hi lo v) x h' l' = fld s x h' l' := by
  simp only [fld, regGet_fldSet_ne s h]

/-- A field reads back as it was set. -/
theorem fld_fldSet (s : State) {a hi lo v : Nat} (h : lo ≤ hi + 1) (hh : hi < 32) : fld (fldSet s a hi lo v) a hi lo = v % 2 ^ (hi + 1 - lo) := by
  have l := Fld.put_lt ⟨hi, lo, .ro, 0, 0, 0⟩ (regGet s a) v h hh (regGet_lt s a)
  simp only [fld, fldSet, regGet_regSet, if_true, Nat.mod_eq_of_lt l]
  exact Fld.get_put ⟨hi, lo, .ro, 0, 0, 0⟩ (regGet s a) v h

/-- A field beside it reads as before. -/
theorem fld_fldSet_beside (s : State) {a hi lo v h' l' : Nat} (h : lo ≤ hi + 1) (hh : hi < 32) (hg : l' ≤ h' + 1) (hd : h' < lo ∨ hi < l') :
    fld (fldSet s a hi lo v) a h' l' = fld s a h' l' := by
  have l := Fld.put_lt ⟨hi, lo, .ro, 0, 0, 0⟩ (regGet s a) v h hh (regGet_lt s a)
  simp only [fld, fldSet, regGet_regSet, if_true, Nat.mod_eq_of_lt l]
  exact Fld.get_put_ne ⟨hi, lo, .ro, 0, 0, 0⟩ ⟨h', l', .ro, 0, 0, 0⟩ (regGet s a) v h hg hd

theorem bitOf_bitsOf (w i : Nat) : bitOf w i = decide (bitsOf w i i = 1) := by
  simp only [bitOf, bitsOf, show i + 1 - i = 1 by omega, pow_one]
  rcases Nat.mod_two_eq_zero_or_one (w / 2 ^ i) with h | h <;> simp [h]

/-- A bit reads back as it was set. -/
theorem flag_flagSet (s : State) {a i : Nat} {v : Bool} (h : i < 32) : flag (flagSet s a i v) a i = v := by
  have := fld_fldSet s (a := a) (hi := i) (lo := i) (v := b2n v) (by omega) h
  simp only [fld, show i + 1 - i = 1 by omega, pow_one] at this
  simp only [flag, flagSet, bitOf_bitsOf, this]
  cases v <;> rfl

/-- Another bit reads as before. -/
theorem flag_flagSet_beside (s : State) {a i j : Nat} {v : Bool} (h : i < 32) (hd : j ≠ i) : flag (flagSet s a i v) a j = flag s a j := by
  have := fld_fldSet_beside s (a := a) (hi := i) (lo := i) (v := b2n v) (h' := j) (l' := j) (by omega) h (by omega) (by omega)
  simp only [fld] at this
  simp only [flag, flagSet, bitOf_bitsOf, this]

theorem flag_flagSet_ne (s : State) {a i x j : Nat} {v : Bool} (h : x ≠ a) : flag (flagSet s a i v) x j = flag s x j := by
  simp only [flag, flagSet, regGet_fldSet_ne s h]

theorem regGet_flagSet_ne (s : State) {a i x : Nat} {v : Bool} (h : x ≠ a) : regGet (flagSet s a i v) x = regGet s x := regGet_fldSet_ne s h

theorem regGet_bump_ne (s : State) {a x : Nat} (h : x ≠ a) : regGet (bump s a) x = regGet s x := regGet_regSet_ne s h

/-- A saturating counter after one more. -/
theorem regGet_bump (s : State) (a : Nat) : regGet (bump s a) a = capN (2 ^ 32 - 1) (regGet s a + 1) := by
  simp only [bump, regGet_regSet, if_true]
  apply Nat.mod_eq_of_lt
  simp only [capN]; split <;> omega

/-! ### What the host-side operations change -/

/-- `t` is `s` but for the host island, the registers and host memory. -/
structure HostOnly (s t : State) : Prop where
  dev : t.dev = s.dev
  pwr : t.pwr = s.pwr
  alm : t.alm = s.alm
  sec : t.sec = s.sec
  otp : t.otp = s.otp
  flash : t.flash = s.flash
  afe : t.afe = s.afe
  flt : t.flt = s.flt
  svi : t.svi = s.svi
  scheme : t.scheme = s.scheme
  bays : t.bays = s.bays
  prep : t.prep = s.prep
  cfg : t.cfg = s.cfg
  cup : t.cup = s.cup
  bel : t.bel = s.bel
  mir : t.mir = s.mir
  met : t.met = s.met
  pending : t.pending = s.pending

theorem HostOnly.refl (s : State) : HostOnly s s := ⟨rfl, rfl, rfl, rfl, rfl, rfl, rfl, rfl, rfl, rfl, rfl, rfl, rfl, rfl, rfl, rfl, rfl, rfl⟩

theorem HostOnly.trans {a b c : State} (h : HostOnly a b) (k : HostOnly b c) : HostOnly a c :=
  ⟨k.dev.trans h.dev, k.pwr.trans h.pwr, k.alm.trans h.alm, k.sec.trans h.sec, k.otp.trans h.otp, k.flash.trans h.flash, k.afe.trans h.afe, k.flt.trans h.flt,
   k.svi.trans h.svi, k.scheme.trans h.scheme, k.bays.trans h.bays, k.prep.trans h.prep, k.cfg.trans h.cfg, k.cup.trans h.cup, k.bel.trans h.bel, k.mir.trans h.mir,
   k.met.trans h.met, k.pending.trans h.pending⟩

theorem HostOnly.foldl {α : Type} {f : State → α → State} (hf : ∀ s x, HostOnly s (f s x)) : ∀ (l : List α) (s : State), HostOnly s (l.foldl f s)
  | [], s => .refl s
  | x :: xs, s => (hf s x).trans (HostOnly.foldl hf xs (f s x))

/-- A change of the host island, the registers and host memory. -/
theorem HostOnly.lit (s : State) (h : Hif) (r : Tab Word) (m : Memory) : HostOnly s { s with hif := h, regs := r, hostMem := m } :=
  ⟨rfl, rfl, rfl, rfl, rfl, rfl, rfl, rfl, rfl, rfl, rfl, rfl, rfl, rfl, rfl, rfl, rfl, rfl⟩

theorem regSet_host (s : State) (a v : Nat) : HostOnly s (regSet s a v) := .lit s _ _ _
theorem fldSet_host (s : State) (a hi lo v : Nat) : HostOnly s (fldSet s a hi lo v) := .lit s _ _ _
theorem flagSet_host (s : State) (a i : Nat) (v : Bool) : HostOnly s (flagSet s a i v) := .lit s _ _ _
theorem bump_host (s : State) (a : Nat) : HostOnly s (bump s a) := .lit s _ _ _
theorem bumpBy_host (s : State) (a n : Nat) : HostOnly s (bumpBy s a n) := .lit s _ _ _
theorem bumpFld_host (s : State) (a hi lo : Nat) : HostOnly s (bumpFld s a hi lo) := .lit s _ _ _

theorem modRing_host (s : State) (i : Nat) (f : HostRing → HostRing) : HostOnly s (modRing s i f) := by
  unfold modRing; split
  · exact .lit s _ _ _
  · exact .refl s

theorem fireVector_host (s : State) (v : Nat) : HostOnly s (fireVector s v) := by
  unfold fireVector; dsimp only; split <;> exact .lit s _ _ _

theorem askVector_host (s : State) (i : Nat) : HostOnly s (askVector s i) := by
  unfold askVector; split
  · split
    · exact fireVector_host _ _
    · exact .refl s
  · exact .refl s

theorem hostWrite_host (s : State) (a : Nat) (bs : List Byte) : HostOnly s (hostWrite s a bs) := by
  unfold hostWrite; split
  · exact .lit s _ _ _
  · exact .refl s

theorem ringPut_host (s : State) (i : Nat) (ent : List Byte) : HostOnly s (ringPut s i ent) := by
  unfold ringPut; split
  · exact .refl s
  · exact ((hostWrite_host s _ _).trans (.lit _ _ _ _)).trans (askVector_host _ _)

theorem evtPut_host (s : State) (i : Nat) (e : Event) : HostOnly s (evtPut s i e) := by
  unfold evtPut; split
  · exact .refl s
  · split
    · exact (ringPut_host _ _ _).trans (modRing_host _ _ _)
    · exact (modRing_host _ _ _).trans (bump_host _ _)

theorem evtHold_host (s : State) (e : Event) : HostOnly s (evtHold s e) := by
  unfold evtHold; split
  · exact bump_host _ _
  · split
    · exact .lit s _ _ _
    · exact (HostOnly.lit s _ _ _).trans (bump_host _ _)

theorem deliver_host (s : State) (e : Event) : HostOnly s (deliver s e) := by
  unfold deliver; split
  · exact .foldl (fun s x => evtPut_host s x e) _ s
  · exact evtHold_host _ _

/-- Raising an event changes the host island, its counters and host memory alone. -/
theorem raise_host (code : Nat) (s : State) (bay idx : Nat) (items : List (Nat × Nat)) (att : Option Att) (att2 : Att) :
    HostOnly s (raise code s bay idx items att att2) := (HostOnly.lit s _ _ _).trans (deliver_host _ _)

theorem drainLog_host : ∀ (n : Nat) (s : State), HostOnly s (drainLog n s)
  | 0, s => .refl s
  | n + 1, s => by
    unfold drainLog; split
    · split
      · exact ((HostOnly.lit s _ _ _).trans (ringPut_host _ _ _)).trans (drainLog_host n _)
      · exact .refl s
    · exact .refl s

theorem logPush_host (s : State) (e : List Byte) : HostOnly s (logPush s e) := (HostOnly.lit s _ _ _).trans (drainLog_host _ _)

theorem logDrop_host (s : State) : HostOnly s (logDrop s) := (HostOnly.lit s _ _ _).trans (bump_host _ _)

theorem logChained_host (s : State) (kind b9 b10 b12 : Nat) : HostOnly s (logChained s kind b9 b10 b12) := by
  unfold logChained; split
  · exact logDrop_host s
  · exact (HostOnly.lit s _ _ _).trans (logPush_host _ _)

theorem logSigs_host (sig : List Byte) : ∀ (l : List Nat) (s : State), HostOnly s (logSigs sig l s)
  | [], s => .refl s
  | _ :: ps, s => (logPush_host s _).trans (logSigs_host sig ps _)

theorem logCheckpoint_host (s : State) : HostOnly s (logCheckpoint s) := by
  unfold logCheckpoint; split
  · exact (HostOnly.lit s _ _ _).trans (logDrop_host _)
  · exact ((logChained_host s 9 0 0 0).trans (.lit _ _ _ _)).trans (logSigs_host _ _ _)

/-- Appending to the audit log changes the host island, its counter and host memory alone. -/
theorem appendLog_host (s : State) (kind b9 b10 b12 : Nat) : HostOnly s (appendLog s kind b9 b10 b12) := by
  unfold appendLog; dsimp only; split
  · exact (logChained_host _ _ _ _ _).trans (logCheckpoint_host _)
  · exact logChained_host _ _ _ _ _

/-- Writing a completion changes the host island, its counter and host memory alone. -/
theorem writeCpl_host (s : State) (f : InFlight) (status : Nat) (res acc : Att) (fields : List Byte) : HostOnly s (writeCpl s f status res acc fields) := by
  have h : HostOnly s (modRing { s with hif := { s.hif with inflight := s.hif.inflight.filter (fun x => x.cid ≠ f.cid) } } f.cpl (fun r => { r with reserved := r.reserved - 1 })) :=
    (HostOnly.lit s _ _ _).trans (modRing_host _ _ _)
  have k : ∀ {a b : State}, HostOnly a b → HostOnly a (if linkOk b then ringPut b f.cpl (cplBytes f status res acc fields) else b) := by
    intro a b h; split
    · exact h.trans (ringPut_host _ _ _)
    · exact h
  unfold writeCpl; dsimp only; split
  · exact k h
  · exact (k h).trans (appendLog_host _ _ _ _ _)

theorem complete_host (s : State) (cid status : Nat) (res : Att) (fields : List Byte) : HostOnly s (complete s cid status res fields) := by
  unfold complete; split
  · exact writeCpl_host _ _ _ _ _ _
  · exact .refl s

theorem redeliver_host (s : State) : HostOnly s (redeliver s) := by
  refine (HostOnly.lit s _ s.regs s.hostMem).trans (HostOnly.foldl (fun s e => ?_) _ _)
  split
  · exact deliver_host _ _
  · exact .lit s _ _ _

theorem logRoom_host (s : State) : HostOnly s (logRoom s) := by
  unfold logRoom; dsimp only; split
  · exact drainLog_host _ _
  · exact (((drainLog_host _ _).trans (.lit _ _ _ _)).trans (appendLog_host _ _ _ _ _)).trans (raise_host _ _ _ _ _ _ _)

/-! ### Which registers they change -/

/-- Every register outside `as` reads in `t` as in `s`. -/
def RegsBut (as : List Nat) (s t : State) : Prop := ∀ x, x ∉ as → regGet t x = regGet s x

theorem RegsBut.refl (as : List Nat) (s : State) : RegsBut as s s := fun _ _ => rfl

theorem RegsBut.trans {as : List Nat} {a b c : State} (h : RegsBut as a b) (k : RegsBut as b c) : RegsBut as a c :=
  fun x hx => (k x hx).trans (h x hx)

theorem RegsBut.same {as : List Nat} {s t : State} (h : t.regs = s.regs) : RegsBut as s t := fun x _ => by simp only [regGet, h]

theorem RegsBut.foldl {as : List Nat} {α : Type} {f : State → α → State} (hf : ∀ s x, RegsBut as s (f s x)) : ∀ (l : List α) (s : State), RegsBut as s (l.foldl f s)
  | [], s => .refl as s
  | x :: xs, s => (hf s x).trans (RegsBut.foldl hf xs (f s x))

theorem bump_regs {as : List Nat} {s : State} {a : Nat} (h : a ∈ as) : RegsBut as s (bump s a) :=
  fun x hx => regGet_bump_ne s (fun e => hx (e ▸ h))

theorem modRing_regs (s : State) (i : Nat) (f : HostRing → HostRing) : (modRing s i f).regs = s.regs := by unfold modRing; split <;> rfl
theorem askVector_regs (s : State) (i : Nat) : (askVector s i).regs = s.regs := by
  unfold askVector fireVector; split
  · split
    · dsimp only; split <;> rfl
    · rfl
  · rfl
theorem hostWrite_regs (s : State) (a : Nat) (bs : List Byte) : (hostWrite s a bs).regs = s.regs := by unfold hostWrite; split <;> rfl
theorem ringPut_regs (s : State) (i : Nat) (ent : List Byte) : (ringPut s i ent).regs = s.regs := by
  unfold ringPut; split
  · rfl
  · simp only [askVector_regs, hostWrite_regs]

/-- The two counters that the delivery of an event may move (R488, R501). -/
abbrev evtRegs : List Nat := [R.hifEvtDrop, R.hifEvtUnrouted]

theorem evtPut_regs (s : State) (i : Nat) (e : Event) : RegsBut evtRegs s (evtPut s i e) := by
  unfold evtPut; split
  · exact .refl _ s
  · split
    · exact .same (by simp only [modRing_regs, ringPut_regs])
    · exact (RegsBut.same (modRing_regs _ _ _)).trans (bump_regs (by decide))

theorem evtHold_regs (s : State) (e : Event) : RegsBut evtRegs s (evtHold s e) := by
  unfold evtHold; split
  · exact bump_regs (by decide)
  · split
    · exact .same rfl
    · exact RegsBut.trans (b := { s with hif := { s.hif with held := s.hif.held.drop 1 ++ [e] } }) (.same rfl) (bump_regs (by decide))

theorem deliver_regs (s : State) (e : Event) : RegsBut evtRegs s (deliver s e) := by
  unfold deliver; split
  · exact .foldl (fun s x => evtPut_regs s x e) _ s
  · exact evtHold_regs _ _

/-- Raising an event moves no register but the two counters of its delivery. -/
theorem raise_regs (code : Nat) (s : State) (bay idx : Nat) (items : List (Nat × Nat)) (att : Option Att) (att2 : Att) :
    RegsBut evtRegs s (raise code s bay idx items att att2) :=
  RegsBut.trans (b := { s with hif := { s.hif with evtSeq := (s.hif.evtSeq + 1) % 2 ^ 32 } }) (.same rfl) (deliver_regs _ _)

theorem drainLog_regs : ∀ (n : Nat) (s : State), (drainLog n s).regs = s.regs
  | 0, s => rfl
  | n + 1, s => by
    unfold drainLog; split
    · split
      · rw [drainLog_regs n, ringPut_regs]
      · rfl
    · rfl

theorem logPush_regs (s : State) (e : List Byte) : (logPush s e).regs = s.regs := drainLog_regs _ _

theorem logDrop_regs (s : State) : RegsBut [R.hifLogDrop] s (logDrop s) :=
  RegsBut.trans (b := { s with hif := { s.hif with logLost := s.hif.logLost + 1 } }) (.same rfl) (bump_regs (by decide))

theorem logChained_regs (s : State) (kind b9 b10 b12 : Nat) : RegsBut [R.hifLogDrop] s (logChained s kind b9 b10 b12) := by
  unfold logChained; split
  · exact logDrop_regs s
  · exact .same (logPush_regs _ _)

theorem logSigs_regs (sig : List Byte) : ∀ (l : List Nat) (s : State), (logSigs sig l s).regs = s.regs
  | [], s => rfl
  | _ :: ps, s => by unfold logSigs; rw [logSigs_regs sig ps, logPush_regs]

theorem logCheckpoint_regs (s : State) : RegsBut [R.hifLogDrop] s (logCheckpoint s) := by
  unfold logCheckpoint; split
  · exact RegsBut.trans (b := { s with hif := { s.hif with logCount := 0, logSince := s.hif.logSince.map (fun _ => s.dev.ticks) } }) (.same rfl) (logDrop_regs _)
  · exact (logChained_regs s 9 0 0 0).trans (.same (logSigs_regs _ _ _))

theorem appendLog_regs (s : State) (kind b9 b10 b12 : Nat) : RegsBut [R.hifLogDrop] s (appendLog s kind b9 b10 b12) := by
  unfold appendLog; dsimp only; split
  · exact (logChained_regs _ _ _ _ _).trans (logCheckpoint_regs _)
  · exact logChained_regs _ _ _ _ _

/-- Writing a completion moves no register but the count of dropped log entries. -/
theorem writeCpl_regs (s : State) (f : InFlight) (status : Nat) (res acc : Att) (fields : List Byte) : RegsBut [R.hifLogDrop] s (writeCpl s f status res acc fields) := by
  have h : (modRing { s with hif := { s.hif with inflight := s.hif.inflight.filter (fun x => x.cid ≠ f.cid) } } f.cpl (fun r => { r with reserved := r.reserved - 1 })).regs = s.regs :=
    modRing_regs _ _ _
  have k : ∀ b : State, (if linkOk b then ringPut b f.cpl (cplBytes f status res acc fields) else b).regs = b.regs := by
    intro b; split
    · exact ringPut_regs _ _ _
    · rfl
  unfold writeCpl; dsimp only; split
  · exact .same ((k _).trans h)
  · exact (RegsBut.same ((k _).trans h)).trans (appendLog_regs _ _ _ _ _)

theorem complete_regs (s : State) (cid status : Nat) (res : Att) (fields : List Byte) : RegsBut [R.hifLogDrop] s (complete s cid status res fields) := by
  unfold complete; split
  · exact writeCpl_regs _ _ _ _ _ _
  · exact .refl _ s

end Sys2Proof.Machine
end

