-- ==== Sys2Proof/Laws/Frames.lean ====
section
/-! SUPPORT. For each host-side operation and each field of State it leaves alone, that the field is as it was. -/

namespace Sys2Proof.Machine

@[simp] theorem regSet_dev (s : State) (a v : Nat) : (regSet s a v).dev = s.dev := (regSet_host s a v).dev
@[simp] theorem regSet_pwr (s : State) (a v : Nat) : (regSet s a v).pwr = s.pwr := (regSet_host s a v).pwr
@[simp] theorem regSet_alm (s : State) (a v : Nat) : (regSet s a v).alm = s.alm := (regSet_host s a v).alm
@[simp] theorem regSet_sec (s : State) (a v : Nat) : (regSet s a v).sec = s.sec := (regSet_host s a v).sec
@[simp] theorem regSet_otp (s : State) (a v : Nat) : (regSet s a v).otp = s.otp := (regSet_host s a v).otp
@[simp] theorem regSet_flash (s : State) (a v : Nat) : (regSet s a v).flash = s.flash := (regSet_host s a v).flash
@[simp] theorem regSet_afe (s : State) (a v : Nat) : (regSet s a v).afe = s.afe := (regSet_host s a v).afe
@[simp] theorem regSet_flt (s : State) (a v : Nat) : (regSet s a v).flt = s.flt := (regSet_host s a v).flt
@[simp] theorem regSet_svi (s : State) (a v : Nat) : (regSet s a v).svi = s.svi := (regSet_host s a v).svi
@[simp] theorem regSet_scheme (s : State) (a v : Nat) : (regSet s a v).scheme = s.scheme := (regSet_host s a v).scheme
@[simp] theorem regSet_bays (s : State) (a v : Nat) : (regSet s a v).bays = s.bays := (regSet_host s a v).bays
@[simp] theorem regSet_prep (s : State) (a v : Nat) : (regSet s a v).prep = s.prep := (regSet_host s a v).prep
@[simp] theorem regSet_cfg (s : State) (a v : Nat) : (regSet s a v).cfg = s.cfg := (regSet_host s a v).cfg
@[simp] theorem regSet_cup (s : State) (a v : Nat) : (regSet s a v).cup = s.cup := (regSet_host s a v).cup
@[simp] theorem regSet_bel (s : State) (a v : Nat) : (regSet s a v).bel = s.bel := (regSet_host s a v).bel
@[simp] theorem regSet_mir (s : State) (a v : Nat) : (regSet s a v).mir = s.mir := (regSet_host s a v).mir
@[simp] theorem regSet_met (s : State) (a v : Nat) : (regSet s a v).met = s.met := (regSet_host s a v).met
@[simp] theorem regSet_pending (s : State) (a v : Nat) : (regSet s a v).pending = s.pending := (regSet_host s a v).pending

@[simp] theorem fldSet_dev (s : State) (a hi lo v : Nat) : (fldSet s a hi lo v).dev = s.dev := (fldSet_host s a hi lo v).dev
@[simp] theorem fldSet_pwr (s : State) (a hi lo v : Nat) : (fldSet s a hi lo v).pwr = s.pwr := (fldSet_host s a hi lo v).pwr
@[simp] theorem fldSet_alm (s : State) (a hi lo v : Nat) : (fldSet s a hi lo v).alm = s.alm := (fldSet_host s a hi lo v).alm
@[simp] theorem fldSet_sec (s : State) (a hi lo v : Nat) : (fldSet s a hi lo v).sec = s.sec := (fldSet_host s a hi lo v).sec
@[simp] theorem fldSet_otp (s : State) (a hi lo v : Nat) : (fldSet s a hi lo v).otp = s.otp := (fldSet_host s a hi lo v).otp
@[simp] theorem fldSet_flash (s : State) (a hi lo v : Nat) : (fldSet s a hi lo v).flash = s.flash := (fldSet_host s a hi lo v).flash
@[simp] theorem fldSet_afe (s : State) (a hi lo v : Nat) : (fldSet s a hi lo v).afe = s.afe := (fldSet_host s a hi lo v).afe
@[simp] theorem fldSet_flt (s : State) (a hi lo v : Nat) : (fldSet s a hi lo v).flt = s.flt := (fldSet_host s a hi lo v).flt
@[simp] theorem fldSet_svi (s : State) (a hi lo v : Nat) : (fldSet s a hi lo v).svi = s.svi := (fldSet_host s a hi lo v).svi
@[simp] theorem fldSet_scheme (s : State) (a hi lo v : Nat) : (fldSet s a hi lo v).scheme = s.scheme := (fldSet_host s a hi lo v).scheme
@[simp] theorem fldSet_bays (s : State) (a hi lo v : Nat) : (fldSet s a hi lo v).bays = s.bays := (fldSet_host s a hi lo v).bays
@[simp] theorem fldSet_prep (s : State) (a hi lo v : Nat) : (fldSet s a hi lo v).prep = s.prep := (fldSet_host s a hi lo v).prep
@[simp] theorem fldSet_cfg (s : State) (a hi lo v : Nat) : (fldSet s a hi lo v).cfg = s.cfg := (fldSet_host s a hi lo v).cfg
@[simp] theorem fldSet_cup (s : State) (a hi lo v : Nat) : (fldSet s a hi lo v).cup = s.cup := (fldSet_host s a hi lo v).cup
@[simp] theorem fldSet_bel (s : State) (a hi lo v : Nat) : (fldSet s a hi lo v).bel = s.bel := (fldSet_host s a hi lo v).bel
@[simp] theorem fldSet_mir (s : State) (a hi lo v : Nat) : (fldSet s a hi lo v).mir = s.mir := (fldSet_host s a hi lo v).mir
@[simp] theorem fldSet_met (s : State) (a hi lo v : Nat) : (fldSet s a hi lo v).met = s.met := (fldSet_host s a hi lo v).met
@[simp] theorem fldSet_pending (s : State) (a hi lo v : Nat) : (fldSet s a hi lo v).pending = s.pending := (fldSet_host s a hi lo v).pending

@[simp] theorem flagSet_dev (s : State) (a i : Nat) (v : Bool) : (flagSet s a i v).dev = s.dev := (flagSet_host s a i v).dev
@[simp] theorem flagSet_pwr (s : State) (a i : Nat) (v : Bool) : (flagSet s a i v).pwr = s.pwr := (flagSet_host s a i v).pwr
@[simp] theorem flagSet_alm (s : State) (a i : Nat) (v : Bool) : (flagSet s a i v).alm = s.alm := (flagSet_host s a i v).alm
@[simp] theorem flagSet_sec (s : State) (a i : Nat) (v : Bool) : (flagSet s a i v).sec = s.sec := (flagSet_host s a i v).sec
@[simp] theorem flagSet_otp (s : State) (a i : Nat) (v : Bool) : (flagSet s a i v).otp = s.otp := (flagSet_host s a i v).otp
@[simp] theorem flagSet_flash (s : State) (a i : Nat) (v : Bool) : (flagSet s a i v).flash = s.flash := (flagSet_host s a i v).flash
@[simp] theorem flagSet_afe (s : State) (a i : Nat) (v : Bool) : (flagSet s a i v).afe = s.afe := (flagSet_host s a i v).afe
@[simp] theorem flagSet_flt (s : State) (a i : Nat) (v : Bool) : (flagSet s a i v).flt = s.flt := (flagSet_host s a i v).flt
@[simp] theorem flagSet_svi (s : State) (a i : Nat) (v : Bool) : (flagSet s a i v).svi = s.svi := (flagSet_host s a i v).svi
@[simp] theorem flagSet_scheme (s : State) (a i : Nat) (v : Bool) : (flagSet s a i v).scheme = s.scheme := (flagSet_host s a i v).scheme
@[simp] theorem flagSet_bays (s : State) (a i : Nat) (v : Bool) : (flagSet s a i v).bays = s.bays := (flagSet_host s a i v).bays
@[simp] theorem flagSet_prep (s : State) (a i : Nat) (v : Bool) : (flagSet s a i v).prep = s.prep := (flagSet_host s a i v).prep
@[simp] theorem flagSet_cfg (s : State) (a i : Nat) (v : Bool) : (flagSet s a i v).cfg = s.cfg := (flagSet_host s a i v).cfg
@[simp] theorem flagSet_cup (s : State) (a i : Nat) (v : Bool) : (flagSet s a i v).cup = s.cup := (flagSet_host s a i v).cup
@[simp] theorem flagSet_bel (s : State) (a i : Nat) (v : Bool) : (flagSet s a i v).bel = s.bel := (flagSet_host s a i v).bel
@[simp] theorem flagSet_mir (s : State) (a i : Nat) (v : Bool) : (flagSet s a i v).mir = s.mir := (flagSet_host s a i v).mir
@[simp] theorem flagSet_met (s : State) (a i : Nat) (v : Bool) : (flagSet s a i v).met = s.met := (flagSet_host s a i v).met
@[simp] theorem flagSet_pending (s : State) (a i : Nat) (v : Bool) : (flagSet s a i v).pending = s.pending := (flagSet_host s a i v).pending

@[simp] theorem bump_dev (s : State) (a : Nat) : (bump s a).dev = s.dev := (bump_host s a).dev
@[simp] theorem bump_pwr (s : State) (a : Nat) : (bump s a).pwr = s.pwr := (bump_host s a).pwr
@[simp] theorem bump_alm (s : State) (a : Nat) : (bump s a).alm = s.alm := (bump_host s a).alm
@[simp] theorem bump_sec (s : State) (a : Nat) : (bump s a).sec = s.sec := (bump_host s a).sec
@[simp] theorem bump_otp (s : State) (a : Nat) : (bump s a).otp = s.otp := (bump_host s a).otp
@[simp] theorem bump_flash (s : State) (a : Nat) : (bump s a).flash = s.flash := (bump_host s a).flash
@[simp] theorem bump_afe (s : State) (a : Nat) : (bump s a).afe = s.afe := (bump_host s a).afe
@[simp] theorem bump_flt (s : State) (a : Nat) : (bump s a).flt = s.flt := (bump_host s a).flt
@[simp] theorem bump_svi (s : State) (a : Nat) : (bump s a).svi = s.svi := (bump_host s a).svi
@[simp] theorem bump_scheme (s : State) (a : Nat) : (bump s a).scheme = s.scheme := (bump_host s a).scheme
@[simp] theorem bump_bays (s : State) (a : Nat) : (bump s a).bays = s.bays := (bump_host s a).bays
@[simp] theorem bump_prep (s : State) (a : Nat) : (bump s a).prep = s.prep := (bump_host s a).prep
@[simp] theorem bump_cfg (s : State) (a : Nat) : (bump s a).cfg = s.cfg := (bump_host s a).cfg
@[simp] theorem bump_cup (s : State) (a : Nat) : (bump s a).cup = s.cup := (bump_host s a).cup
@[simp] theorem bump_bel (s : State) (a : Nat) : (bump s a).bel = s.bel := (bump_host s a).bel
@[simp] theorem bump_mir (s : State) (a : Nat) : (bump s a).mir = s.mir := (bump_host s a).mir
@[simp] theorem bump_met (s : State) (a : Nat) : (bump s a).met = s.met := (bump_host s a).met
@[simp] theorem bump_pending (s : State) (a : Nat) : (bump s a).pending = s.pending := (bump_host s a).pending

@[simp] theorem bumpBy_dev (s : State) (a n : Nat) : (bumpBy s a n).dev = s.dev := (bumpBy_host s a n).dev
@[simp] theorem bumpBy_pwr (s : State) (a n : Nat) : (bumpBy s a n).pwr = s.pwr := (bumpBy_host s a n).pwr
@[simp] theorem bumpBy_alm (s : State) (a n : Nat) : (bumpBy s a n).alm = s.alm := (bumpBy_host s a n).alm
@[simp] theorem bumpBy_sec (s : State) (a n : Nat) : (bumpBy s a n).sec = s.sec := (bumpBy_host s a n).sec
@[simp] theorem bumpBy_otp (s : State) (a n : Nat) : (bumpBy s a n).otp = s.otp := (bumpBy_host s a n).otp
@[simp] theorem bumpBy_flash (s : State) (a n : Nat) : (bumpBy s a n).flash = s.flash := (bumpBy_host s a n).flash
@[simp] theorem bumpBy_afe (s : State) (a n : Nat) : (bumpBy s a n).afe = s.afe := (bumpBy_host s a n).afe
@[simp] theorem bumpBy_flt (s : State) (a n : Nat) : (bumpBy s a n).flt = s.flt := (bumpBy_host s a n).flt
@[simp] theorem bumpBy_svi (s : State) (a n : Nat) : (bumpBy s a n).svi = s.svi := (bumpBy_host s a n).svi
@[simp] theorem bumpBy_scheme (s : State) (a n : Nat) : (bumpBy s a n).scheme = s.scheme := (bumpBy_host s a n).scheme
@[simp] theorem bumpBy_bays (s : State) (a n : Nat) : (bumpBy s a n).bays = s.bays := (bumpBy_host s a n).bays
@[simp] theorem bumpBy_prep (s : State) (a n : Nat) : (bumpBy s a n).prep = s.prep := (bumpBy_host s a n).prep
@[simp] theorem bumpBy_cfg (s : State) (a n : Nat) : (bumpBy s a n).cfg = s.cfg := (bumpBy_host s a n).cfg
@[simp] theorem bumpBy_cup (s : State) (a n : Nat) : (bumpBy s a n).cup = s.cup := (bumpBy_host s a n).cup
@[simp] theorem bumpBy_bel (s : State) (a n : Nat) : (bumpBy s a n).bel = s.bel := (bumpBy_host s a n).bel
@[simp] theorem bumpBy_mir (s : State) (a n : Nat) : (bumpBy s a n).mir = s.mir := (bumpBy_host s a n).mir
@[simp] theorem bumpBy_met (s : State) (a n : Nat) : (bumpBy s a n).met = s.met := (bumpBy_host s a n).met
@[simp] theorem bumpBy_pending (s : State) (a n : Nat) : (bumpBy s a n).pending = s.pending := (bumpBy_host s a n).pending

@[simp] theorem bumpFld_dev (s : State) (a hi lo : Nat) : (bumpFld s a hi lo).dev = s.dev := (bumpFld_host s a hi lo).dev
@[simp] theorem bumpFld_pwr (s : State) (a hi lo : Nat) : (bumpFld s a hi lo).pwr = s.pwr := (bumpFld_host s a hi lo).pwr
@[simp] theorem bumpFld_alm (s : State) (a hi lo : Nat) : (bumpFld s a hi lo).alm = s.alm := (bumpFld_host s a hi lo).alm
@[simp] theorem bumpFld_sec (s : State) (a hi lo : Nat) : (bumpFld s a hi lo).sec = s.sec := (bumpFld_host s a hi lo).sec
@[simp] theorem bumpFld_otp (s : State) (a hi lo : Nat) : (bumpFld s a hi lo).otp = s.otp := (bumpFld_host s a hi lo).otp
@[simp] theorem bumpFld_flash (s : State) (a hi lo : Nat) : (bumpFld s a hi lo).flash = s.flash := (bumpFld_host s a hi lo).flash
@[simp] theorem bumpFld_afe (s : State) (a hi lo : Nat) : (bumpFld s a hi lo).afe = s.afe := (bumpFld_host s a hi lo).afe
@[simp] theorem bumpFld_flt (s : State) (a hi lo : Nat) : (bumpFld s a hi lo).flt = s.flt := (bumpFld_host s a hi lo).flt
@[simp] theorem bumpFld_svi (s : State) (a hi lo : Nat) : (bumpFld s a hi lo).svi = s.svi := (bumpFld_host s a hi lo).svi
@[simp] theorem bumpFld_scheme (s : State) (a hi lo : Nat) : (bumpFld s a hi lo).scheme = s.scheme := (bumpFld_host s a hi lo).scheme
@[simp] theorem bumpFld_bays (s : State) (a hi lo : Nat) : (bumpFld s a hi lo).bays = s.bays := (bumpFld_host s a hi lo).bays
@[simp] theorem bumpFld_prep (s : State) (a hi lo : Nat) : (bumpFld s a hi lo).prep = s.prep := (bumpFld_host s a hi lo).prep
@[simp] theorem bumpFld_cfg (s : State) (a hi lo : Nat) : (bumpFld s a hi lo).cfg = s.cfg := (bumpFld_host s a hi lo).cfg
@[simp] theorem bumpFld_cup (s : State) (a hi lo : Nat) : (bumpFld s a hi lo).cup = s.cup := (bumpFld_host s a hi lo).cup
@[simp] theorem bumpFld_bel (s : State) (a hi lo : Nat) : (bumpFld s a hi lo).bel = s.bel := (bumpFld_host s a hi lo).bel
@[simp] theorem bumpFld_mir (s : State) (a hi lo : Nat) : (bumpFld s a hi lo).mir = s.mir := (bumpFld_host s a hi lo).mir
@[simp] theorem bumpFld_met (s : State) (a hi lo : Nat) : (bumpFld s a hi lo).met = s.met := (bumpFld_host s a hi lo).met
@[simp] theorem bumpFld_pending (s : State) (a hi lo : Nat) : (bumpFld s a hi lo).pending = s.pending := (bumpFld_host s a hi lo).pending

@[simp] theorem raise_dev (code : Nat) (s : State) (bay idx : Nat) (items : List (Nat × Nat)) (att : Option Att) (att2 : Att) : (raise code s bay idx items att att2).dev = s.dev := (raise_host code s bay idx items att att2).dev
@[simp] theorem raise_pwr (code : Nat) (s : State) (bay idx : Nat) (items : List (Nat × Nat)) (att : Option Att) (att2 : Att) : (raise code s bay idx items att att2).pwr = s.pwr := (raise_host code s bay idx items att att2).pwr
@[simp] theorem raise_alm (code : Nat) (s : State) (bay idx : Nat) (items : List (Nat × Nat)) (att : Option Att) (att2 : Att) : (raise code s bay idx items att att2).alm = s.alm := (raise_host code s bay idx items att att2).alm
@[simp] theorem raise_sec (code : Nat) (s : State) (bay idx : Nat) (items : List (Nat × Nat)) (att : Option Att) (att2 : Att) : (raise code s bay idx items att att2).sec = s.sec := (raise_host code s bay idx items att att2).sec
@[simp] theorem raise_otp (code : Nat) (s : State) (bay idx : Nat) (items : List (Nat × Nat)) (att : Option Att) (att2 : Att) : (raise code s bay idx items att att2).otp = s.otp := (raise_host code s bay idx items att att2).otp
@[simp] theorem raise_flash (code : Nat) (s : State) (bay idx : Nat) (items : List (Nat × Nat)) (att : Option Att) (att2 : Att) : (raise code s bay idx items att att2).flash = s.flash := (raise_host code s bay idx items att att2).flash
@[simp] theorem raise_afe (code : Nat) (s : State) (bay idx : Nat) (items : List (Nat × Nat)) (att : Option Att) (att2 : Att) : (raise code s bay idx items att att2).afe = s.afe := (raise_host code s bay idx items att att2).afe
@[simp] theorem raise_flt (code : Nat) (s : State) (bay idx : Nat) (items : List (Nat × Nat)) (att : Option Att) (att2 : Att) : (raise code s bay idx items att att2).flt = s.flt := (raise_host code s bay idx items att att2).flt
@[simp] theorem raise_svi (code : Nat) (s : State) (bay idx : Nat) (items : List (Nat × Nat)) (att : Option Att) (att2 : Att) : (raise code s bay idx items att att2).svi = s.svi := (raise_host code s bay idx items att att2).svi
@[simp] theorem raise_scheme (code : Nat) (s : State) (bay idx : Nat) (items : List (Nat × Nat)) (att : Option Att) (att2 : Att) : (raise code s bay idx items att att2).scheme = s.scheme := (raise_host code s bay idx items att att2).scheme
@[simp] theorem raise_bays (code : Nat) (s : State) (bay idx : Nat) (items : List (Nat × Nat)) (att : Option Att) (att2 : Att) : (raise code s bay idx items att att2).bays = s.bays := (raise_host code s bay idx items att att2).bays
@[simp] theorem raise_prep (code : Nat) (s : State) (bay idx : Nat) (items : List (Nat × Nat)) (att : Option Att) (att2 : Att) : (raise code s bay idx items att att2).prep = s.prep := (raise_host code s bay idx items att att2).prep
@[simp] theorem raise_cfg (code : Nat) (s : State) (bay idx : Nat) (items : List (Nat × Nat)) (att : Option Att) (att2 : Att) : (raise code s bay idx items att att2).cfg = s.cfg := (raise_host code s bay idx items att att2).cfg
@[simp] theorem raise_cup (code : Nat) (s : State) (bay idx : Nat) (items : List (Nat × Nat)) (att : Option Att) (att2 : Att) : (raise code s bay idx items att att2).cup = s.cup := (raise_host code s bay idx items att att2).cup
@[simp] theorem raise_bel (code : Nat) (s : State) (bay idx : Nat) (items : List (Nat × Nat)) (att : Option Att) (att2 : Att) : (raise code s bay idx items att att2).bel = s.bel := (raise_host code s bay idx items att att2).bel
@[simp] theorem raise_mir (code : Nat) (s : State) (bay idx : Nat) (items : List (Nat × Nat)) (att : Option Att) (att2 : Att) : (raise code s bay idx items att att2).mir = s.mir := (raise_host code s bay idx items att att2).mir
@[simp] theorem raise_met (code : Nat) (s : State) (bay idx : Nat) (items : List (Nat × Nat)) (att : Option Att) (att2 : Att) : (raise code s bay idx items att att2).met = s.met := (raise_host code s bay idx items att att2).met
@[simp] theorem raise_pending (code : Nat) (s : State) (bay idx : Nat) (items : List (Nat × Nat)) (att : Option Att) (att2 : Att) : (raise code s bay idx items att att2).pending = s.pending := (raise_host code s bay idx items att att2).pending

@[simp] theorem appendLog_dev (s : State) (kind b9 b10 b12 : Nat) : (appendLog s kind b9 b10 b12).dev = s.dev := (appendLog_host s kind b9 b10 b12).dev
@[simp] theorem appendLog_pwr (s : State) (kind b9 b10 b12 : Nat) : (appendLog s kind b9 b10 b12).pwr = s.pwr := (appendLog_host s kind b9 b10 b12).pwr
@[simp] theorem appendLog_alm (s : State) (kind b9 b10 b12 : Nat) : (appendLog s kind b9 b10 b12).alm = s.alm := (appendLog_host s kind b9 b10 b12).alm
@[simp] theorem appendLog_sec (s : State) (kind b9 b10 b12 : Nat) : (appendLog s kind b9 b10 b12).sec = s.sec := (appendLog_host s kind b9 b10 b12).sec
@[simp] theorem appendLog_otp (s : State) (kind b9 b10 b12 : Nat) : (appendLog s kind b9 b10 b12).otp = s.otp := (appendLog_host s kind b9 b10 b12).otp
@[simp] theorem appendLog_flash (s : State) (kind b9 b10 b12 : Nat) : (appendLog s kind b9 b10 b12).flash = s.flash := (appendLog_host s kind b9 b10 b12).flash
@[simp] theorem appendLog_afe (s : State) (kind b9 b10 b12 : Nat) : (appendLog s kind b9 b10 b12).afe = s.afe := (appendLog_host s kind b9 b10 b12).afe
@[simp] theorem appendLog_flt (s : State) (kind b9 b10 b12 : Nat) : (appendLog s kind b9 b10 b12).flt = s.flt := (appendLog_host s kind b9 b10 b12).flt
@[simp] theorem appendLog_svi (s : State) (kind b9 b10 b12 : Nat) : (appendLog s kind b9 b10 b12).svi = s.svi := (appendLog_host s kind b9 b10 b12).svi
@[simp] theorem appendLog_scheme (s : State) (kind b9 b10 b12 : Nat) : (appendLog s kind b9 b10 b12).scheme = s.scheme := (appendLog_host s kind b9 b10 b12).scheme
@[simp] theorem appendLog_bays (s : State) (kind b9 b10 b12 : Nat) : (appendLog s kind b9 b10 b12).bays = s.bays := (appendLog_host s kind b9 b10 b12).bays
@[simp] theorem appendLog_prep (s : State) (kind b9 b10 b12 : Nat) : (appendLog s kind b9 b10 b12).prep = s.prep := (appendLog_host s kind b9 b10 b12).prep
@[simp] theorem appendLog_cfg (s : State) (kind b9 b10 b12 : Nat) : (appendLog s kind b9 b10 b12).cfg = s.cfg := (appendLog_host s kind b9 b10 b12).cfg
@[simp] theorem appendLog_cup (s : State) (kind b9 b10 b12 : Nat) : (appendLog s kind b9 b10 b12).cup = s.cup := (appendLog_host s kind b9 b10 b12).cup
@[simp] theorem appendLog_bel (s : State) (kind b9 b10 b12 : Nat) : (appendLog s kind b9 b10 b12).bel = s.bel := (appendLog_host s kind b9 b10 b12).bel
@[simp] theorem appendLog_mir (s : State) (kind b9 b10 b12 : Nat) : (appendLog s kind b9 b10 b12).mir = s.mir := (appendLog_host s kind b9 b10 b12).mir
@[simp] theorem appendLog_met (s : State) (kind b9 b10 b12 : Nat) : (appendLog s kind b9 b10 b12).met = s.met := (appendLog_host s kind b9 b10 b12).met
@[simp] theorem appendLog_pending (s : State) (kind b9 b10 b12 : Nat) : (appendLog s kind b9 b10 b12).pending = s.pending := (appendLog_host s kind b9 b10 b12).pending

@[simp] theorem writeCpl_dev (s : State) (f : InFlight) (status : Nat) (res acc : Att) (fields : List Byte) : (writeCpl s f status res acc fields).dev = s.dev := (writeCpl_host s f status res acc fields).dev
@[simp] theorem writeCpl_pwr (s : State) (f : InFlight) (status : Nat) (res acc : Att) (fields : List Byte) : (writeCpl s f status res acc fields).pwr = s.pwr := (writeCpl_host s f status res acc fields).pwr
@[simp] theorem writeCpl_alm (s : State) (f : InFlight) (status : Nat) (res acc : Att) (fields : List Byte) : (writeCpl s f status res acc fields).alm = s.alm := (writeCpl_host s f status res acc fields).alm
@[simp] theorem writeCpl_sec (s : State) (f : InFlight) (status : Nat) (res acc : Att) (fields : List Byte) : (writeCpl s f status res acc fields).sec = s.sec := (writeCpl_host s f status res acc fields).sec
@[simp] theorem writeCpl_otp (s : State) (f : InFlight) (status : Nat) (res acc : Att) (fields : List Byte) : (writeCpl s f status res acc fields).otp = s.otp := (writeCpl_host s f status res acc fields).otp
@[simp] theorem writeCpl_flash (s : State) (f : InFlight) (status : Nat) (res acc : Att) (fields : List Byte) : (writeCpl s f status res acc fields).flash = s.flash := (writeCpl_host s f status res acc fields).flash
@[simp] theorem writeCpl_afe (s : State) (f : InFlight) (status : Nat) (res acc : Att) (fields : List Byte) : (writeCpl s f status res acc fields).afe = s.afe := (writeCpl_host s f status res acc fields).afe
@[simp] theorem writeCpl_flt (s : State) (f : InFlight) (status : Nat) (res acc : Att) (fields : List Byte) : (writeCpl s f status res acc fields).flt = s.flt := (writeCpl_host s f status res acc fields).flt
@[simp] theorem writeCpl_svi (s : State) (f : InFlight) (status : Nat) (res acc : Att) (fields : List Byte) : (writeCpl s f status res acc fields).svi = s.svi := (writeCpl_host s f status res acc fields).svi
@[simp] theorem writeCpl_scheme (s : State) (f : InFlight) (status : Nat) (res acc : Att) (fields : List Byte) : (writeCpl s f status res acc fields).scheme = s.scheme := (writeCpl_host s f status res acc fields).scheme
@[simp] theorem writeCpl_bays (s : State) (f : InFlight) (status : Nat) (res acc : Att) (fields : List Byte) : (writeCpl s f status res acc fields).bays = s.bays := (writeCpl_host s f status res acc fields).bays
@[simp] theorem writeCpl_prep (s : State) (f : InFlight) (status : Nat) (res acc : Att) (fields : List Byte) : (writeCpl s f status res acc fields).prep = s.prep := (writeCpl_host s f status res acc fields).prep
@[simp] theorem writeCpl_cfg (s : State) (f : InFlight) (status : Nat) (res acc : Att) (fields : List Byte) : (writeCpl s f status res acc fields).cfg = s.cfg := (writeCpl_host s f status res acc fields).cfg
@[simp] theorem writeCpl_cup (s : State) (f : InFlight) (status : Nat) (res acc : Att) (fields : List Byte) : (writeCpl s f status res acc fields).cup = s.cup := (writeCpl_host s f status res acc fields).cup
@[simp] theorem writeCpl_bel (s : State) (f : InFlight) (status : Nat) (res acc : Att) (fields : List Byte) : (writeCpl s f status res acc fields).bel = s.bel := (writeCpl_host s f status res acc fields).bel
@[simp] theorem writeCpl_mir (s : State) (f : InFlight) (status : Nat) (res acc : Att) (fields : List Byte) : (writeCpl s f status res acc fields).mir = s.mir := (writeCpl_host s f status res acc fields).mir
@[simp] theorem writeCpl_met (s : State) (f : InFlight) (status : Nat) (res acc : Att) (fields : List Byte) : (writeCpl s f status res acc fields).met = s.met := (writeCpl_host s f status res acc fields).met
@[simp] theorem writeCpl_pending (s : State) (f : InFlight) (status : Nat) (res acc : Att) (fields : List Byte) : (writeCpl s f status res acc fields).pending = s.pending := (writeCpl_host s f status res acc fields).pending

@[simp] theorem complete_dev (s : State) (cid status : Nat) (res : Att) (fields : List Byte) : (complete s cid status res fields).dev = s.dev := (complete_host s cid status res fields).dev
@[simp] theorem complete_pwr (s : State) (cid status : Nat) (res : Att) (fields : List Byte) : (complete s cid status res fields).pwr = s.pwr := (complete_host s cid status res fields).pwr
@[simp] theorem complete_alm (s : State) (cid status : Nat) (res : Att) (fields : List Byte) : (complete s cid status res fields).alm = s.alm := (complete_host s cid status res fields).alm
@[simp] theorem complete_sec (s : State) (cid status : Nat) (res : Att) (fields : List Byte) : (complete s cid status res fields).sec = s.sec := (complete_host s cid status res fields).sec
@[simp] theorem complete_otp (s : State) (cid status : Nat) (res : Att) (fields : List Byte) : (complete s cid status res fields).otp = s.otp := (complete_host s cid status res fields).otp
@[simp] theorem complete_flash (s : State) (cid status : Nat) (res : Att) (fields : List Byte) : (complete s cid status res fields).flash = s.flash := (complete_host s cid status res fields).flash
@[simp] theorem complete_afe (s : State) (cid status : Nat) (res : Att) (fields : List Byte) : (complete s cid status res fields).afe = s.afe := (complete_host s cid status res fields).afe
@[simp] theorem complete_flt (s : State) (cid status : Nat) (res : Att) (fields : List Byte) : (complete s cid status res fields).flt = s.flt := (complete_host s cid status res fields).flt
@[simp] theorem complete_svi (s : State) (cid status : Nat) (res : Att) (fields : List Byte) : (complete s cid status res fields).svi = s.svi := (complete_host s cid status res fields).svi
@[simp] theorem complete_scheme (s : State) (cid status : Nat) (res : Att) (fields : List Byte) : (complete s cid status res fields).scheme = s.scheme := (complete_host s cid status res fields).scheme
@[simp] theorem complete_bays (s : State) (cid status : Nat) (res : Att) (fields : List Byte) : (complete s cid status res fields).bays = s.bays := (complete_host s cid status res fields).bays
@[simp] theorem complete_prep (s : State) (cid status : Nat) (res : Att) (fields : List Byte) : (complete s cid status res fields).prep = s.prep := (complete_host s cid status res fields).prep
@[simp] theorem complete_cfg (s : State) (cid status : Nat) (res : Att) (fields : List Byte) : (complete s cid status res fields).cfg = s.cfg := (complete_host s cid status res fields).cfg
@[simp] theorem complete_cup (s : State) (cid status : Nat) (res : Att) (fields : List Byte) : (complete s cid status res fields).cup = s.cup := (complete_host s cid status res fields).cup
@[simp] theorem complete_bel (s : State) (cid status : Nat) (res : Att) (fields : List Byte) : (complete s cid status res fields).bel = s.bel := (complete_host s cid status res fields).bel
@[simp] theorem complete_mir (s : State) (cid status : Nat) (res : Att) (fields : List Byte) : (complete s cid status res fields).mir = s.mir := (complete_host s cid status res fields).mir
@[simp] theorem complete_met (s : State) (cid status : Nat) (res : Att) (fields : List Byte) : (complete s cid status res fields).met = s.met := (complete_host s cid status res fields).met
@[simp] theorem complete_pending (s : State) (cid status : Nat) (res : Att) (fields : List Byte) : (complete s cid status res fields).pending = s.pending := (complete_host s cid status res fields).pending

@[simp] theorem hostWrite_dev (s : State) (a : Nat) (bs : List Byte) : (hostWrite s a bs).dev = s.dev := (hostWrite_host s a bs).dev
@[simp] theorem hostWrite_pwr (s : State) (a : Nat) (bs : List Byte) : (hostWrite s a bs).pwr = s.pwr := (hostWrite_host s a bs).pwr
@[simp] theorem hostWrite_alm (s : State) (a : Nat) (bs : List Byte) : (hostWrite s a bs).alm = s.alm := (hostWrite_host s a bs).alm
@[simp] theorem hostWrite_sec (s : State) (a : Nat) (bs : List Byte) : (hostWrite s a bs).sec = s.sec := (hostWrite_host s a bs).sec
@[simp] theorem hostWrite_otp (s : State) (a : Nat) (bs : List Byte) : (hostWrite s a bs).otp = s.otp := (hostWrite_host s a bs).otp
@[simp] theorem hostWrite_flash (s : State) (a : Nat) (bs : List Byte) : (hostWrite s a bs).flash = s.flash := (hostWrite_host s a bs).flash
@[simp] theorem hostWrite_afe (s : State) (a : Nat) (bs : List Byte) : (hostWrite s a bs).afe = s.afe := (hostWrite_host s a bs).afe
@[simp] theorem hostWrite_flt (s : State) (a : Nat) (bs : List Byte) : (hostWrite s a bs).flt = s.flt := (hostWrite_host s a bs).flt
@[simp] theorem hostWrite_svi (s : State) (a : Nat) (bs : List Byte) : (hostWrite s a bs).svi = s.svi := (hostWrite_host s a bs).svi
@[simp] theorem hostWrite_scheme (s : State) (a : Nat) (bs : List Byte) : (hostWrite s a bs).scheme = s.scheme := (hostWrite_host s a bs).scheme
@[simp] theorem hostWrite_bays (s : State) (a : Nat) (bs : List Byte) : (hostWrite s a bs).bays = s.bays := (hostWrite_host s a bs).bays
@[simp] theorem hostWrite_prep (s : State) (a : Nat) (bs : List Byte) : (hostWrite s a bs).prep = s.prep := (hostWrite_host s a bs).prep
@[simp] theorem hostWrite_cfg (s : State) (a : Nat) (bs : List Byte) : (hostWrite s a bs).cfg = s.cfg := (hostWrite_host s a bs).cfg
@[simp] theorem hostWrite_cup (s : State) (a : Nat) (bs : List Byte) : (hostWrite s a bs).cup = s.cup := (hostWrite_host s a bs).cup
@[simp] theorem hostWrite_bel (s : State) (a : Nat) (bs : List Byte) : (hostWrite s a bs).bel = s.bel := (hostWrite_host s a bs).bel
@[simp] theorem hostWrite_mir (s : State) (a : Nat) (bs : List Byte) : (hostWrite s a bs).mir = s.mir := (hostWrite_host s a bs).mir
@[simp] theorem hostWrite_met (s : State) (a : Nat) (bs : List Byte) : (hostWrite s a bs).met = s.met := (hostWrite_host s a bs).met
@[simp] theorem hostWrite_pending (s : State) (a : Nat) (bs : List Byte) : (hostWrite s a bs).pending = s.pending := (hostWrite_host s a bs).pending

@[simp] theorem regSet_hif (s : State) (a v : Nat) : (regSet s a v).hif = s.hif := rfl
@[simp] theorem regSet_hostMem (s : State) (a v : Nat) : (regSet s a v).hostMem = s.hostMem := rfl
@[simp] theorem fldSet_hif (s : State) (a hi lo v : Nat) : (fldSet s a hi lo v).hif = s.hif := rfl
@[simp] theorem fldSet_hostMem (s : State) (a hi lo v : Nat) : (fldSet s a hi lo v).hostMem = s.hostMem := rfl
@[simp] theorem flagSet_hif (s : State) (a i : Nat) (v : Bool) : (flagSet s a i v).hif = s.hif := rfl
@[simp] theorem flagSet_hostMem (s : State) (a i : Nat) (v : Bool) : (flagSet s a i v).hostMem = s.hostMem := rfl
@[simp] theorem bump_hif (s : State) (a : Nat) : (bump s a).hif = s.hif := rfl
@[simp] theorem bump_hostMem (s : State) (a : Nat) : (bump s a).hostMem = s.hostMem := rfl
@[simp] theorem bumpBy_hif (s : State) (a n : Nat) : (bumpBy s a n).hif = s.hif := rfl
@[simp] theorem bumpBy_hostMem (s : State) (a n : Nat) : (bumpBy s a n).hostMem = s.hostMem := rfl
@[simp] theorem bumpFld_hif (s : State) (a hi lo : Nat) : (bumpFld s a hi lo).hif = s.hif := rfl
@[simp] theorem bumpFld_hostMem (s : State) (a hi lo : Nat) : (bumpFld s a hi lo).hostMem = s.hostMem := rfl

end Sys2Proof.Machine
end

