-- ==== Sys2Proof/Laws/Rings.lean ====
section
/-! SUPPORT. Entries written to rings: what a put does to host memory and to the ring, and a completion that is not logged (R487, R488, R491, R492). -/

namespace Sys2Proof.Machine

@[simp] theorem slotBytes_length (r : HostRing) (ent : List Byte) : (slotBytes r ent).length = 64 := by
  simp [slotBytes, slice]; omega

/-- Bytes written to a memory in its canonical form read back. -/
theorem memReadBytes_memWriteBytes {bs : List Byte} {m : Memory} {a : Nat} (hw : m.wf = true) : memReadBytes (memWriteBytes m a bs) a bs.length = bs := by
  have : ∀ n k, k + n = bs.length → memReadBytes (memWriteBytes m a bs) (a + k) n = bs.drop k := by
    intro n
    induction n with
    | zero => intro k hk; simp [memReadBytes]; omega
    | succ n ih =>
      intro k hk
      have hlt : k < bs.length := by omega
      rw [memReadBytes, show a + k + 1 = a + (k + 1) by omega, ih (k + 1) (by omega), memRead_memWriteBytes hw, List.drop_eq_getElem_cons hlt]
      rw [if_pos (by omega)]
      simp [hlt]
  simpa using this bs.length 0 (by omega)

/-- A table with every value mapped. -/
theorem tget_map {α β : Type} (f : Nat → α → β) (t : Tab α) (k : Nat) : tget? (t.map (fun p => (p.1, f p.1 p.2))) k = (tget? t k).map (f k) := by
  induction t with
  | nil => rfl
  | cons p t ih =>
    obtain ⟨j, a⟩ := p
    simp only [List.map_cons, tget?]
    split
    · rename_i h; subst h; rfl
    · exact ih

/-- Firing a vector changes no ring but its count of unsignalled entries. -/
theorem fireVector_ring {s : State} {v j : Nat} {r : HostRing} (h : tget? s.hif.rings j = some r) :
    tget? (fireVector s v).hif.rings j = some (if r.vec = v then { r with unsig := 0 } else r) := by
  have e : (fireVector s v).hif.rings = s.hif.rings.map (fun p => (p.1, (fun _ r => if r.vec = v then { r with unsig := 0 } else r) p.1 p.2)) := by
    unfold fireVector; dsimp only; split <;> rfl
  rw [e]
  exact (tget_map (fun _ r => if r.vec = v then { r with unsig := 0 } else r) s.hif.rings j).trans (by rw [h])

/-- The vector of a ring that asks changes no ring's index, phase, or entries to release. -/
theorem askVector_ring {s : State} {i j : Nat} {r : HostRing} (h : tget? s.hif.rings j = some r) :
    ∃ r', tget? (askVector s i).hif.rings j = some r' ∧ r'.part = r.part ∧ r'.phase = r.phase ∧ r'.used = r.used := by
  unfold askVector
  split
  · split
    · refine ⟨_, fireVector_ring h, ?_⟩; split <;> exact ⟨rfl, rfl, rfl⟩
    · exact ⟨r, h, rfl, rfl, rfl⟩
  · exact ⟨r, h, rfl, rfl, rfl⟩

theorem askVector_hostMem (s : State) (i : Nat) : (askVector s i).hostMem = s.hostMem := by
  unfold askVector fireVector; split
  · split
    · dsimp only; split <;> rfl
    · rfl
  · rfl

/-- A state that differs in the host island and host memory alone. -/
theorem HostOnly.eq {s t : State} (h : HostOnly s t) (hr : t.regs = s.regs) : t = { s with hif := t.hif, hostMem := t.hostMem } := by
  obtain ⟨h1, h2, h3, h4, h5, h6, h7, h8, h9, h10, h11, h12, h13, h14, h15, h16, h17, h18⟩ := h
  cases t; cases s; simp_all

/-- What a put does (R487, R488). -/
theorem ringPut_put {s : State} {i : Nat} {r : HostRing} {ent : List Byte} (hr : tget? s.hif.rings i = some r) (hl : linkOk s = true) :
    PutEntry s (ringPut s i ent) i r ent := by
  refine ⟨?_, ?_, HostOnly.eq (ringPut_host _ _ _) (ringPut_regs _ _ _)⟩
  · simp only [ringPut, hr, askVector_hostMem, hostWrite, hl, if_true]; rfl
  · simp only [ringPut, hr]
    obtain ⟨r', h1, h2, h3, h4⟩ := askVector_ring (i := i) (j := i)
      (s := { hostWrite s (r.base + 64 * r.part) (slice ent 0 63 ++ [if r.phase = true then 0x80 else 0x00]) with
        hif := { s.hif with rings := tset s.hif.rings i { r with part := (r.part + 1) % r.size, phase := if (r.part + 1) % r.size = 0 then !r.phase else r.phase, used := r.used + 1, unsig := r.unsig + 1, since := if r.unsig = 0 then s.dev.ticks else r.since } } })
      (r := { r with part := (r.part + 1) % r.size, phase := if (r.part + 1) % r.size = 0 then !r.phase else r.phase, used := r.used + 1, unsig := r.unsig + 1, since := if r.unsig = 0 then s.dev.ticks else r.since })
      (by simp [tget_tset])
    exact ⟨r', h1, h2, h3, h4⟩

/-- The rings of an accepted command: its completion ring has one slot more reserved. -/
theorem accepted_rings (s : State) (op : Nat) (e : CmdEntry) (i : Nat) {r : HostRing} (hr : tget? s.hif.rings i = some r) :
    (accepted s op e i).hif.rings = tset s.hif.rings i { r with reserved := r.reserved + 1 } := by
  simp only [accepted, reserve, modRing, hr]

theorem accepted_inflight (s : State) (op : Nat) (e : CmdEntry) (i : Nat) : (accepted s op e i).hif.inflight = s.hif.inflight ++ [flightOf s op e i] := by
  simp only [accepted, reserve, modRing]; split <;> rfl

/-- The completion ring of a command that is taken is created. -/
theorem Taken.created {s : State} {e : CmdEntry} {used : List (Nat × Nat)} {i : Nat} (h : Taken s e used i) : ∃ r, tget? s.hif.rings i = some r := by
  have := h.ready
  simp only [cmdReady, h.ring] at this
  cases hr : tget? s.hif.rings i with
  | none => simp [hr] at this
  | some r => exact ⟨r, rfl⟩

/-- Accepting a command creates no ring. -/
theorem accepted_ring_none {s : State} {op i k : Nat} {e : CmdEntry} {used : List (Nat × Nat)} (h : Taken s e used i) (hn : tget? s.hif.rings k = none) :
    tget? (accepted s op e i).hif.rings k = none := by
  obtain ⟨r, hr⟩ := h.created
  rw [accepted_rings s op e i hr, tget_tset]
  split
  · rename_i hk; subst hk; rw [hr] at hn; cases hn
  · exact hn

theorem accepted_linkOk (s : State) (op : Nat) (e : CmdEntry) (i : Nat) : linkOk (accepted s op e i) = linkOk s := by
  simp only [accepted, reserve, modRing]; split <;> rfl

/-- The completion of a command that is not logged, right after its acceptance, is one put. -/
theorem okCpl_put {s : State} {op i : Nat} {e : CmdEntry} {r : HostRing} {fields : List Byte} (hr : tget? s.hif.rings i = some r) (hl : linkOk s = true) (hu : unlogged op = true) :
    PutEntry s (okCpl s (accepted s op e i) op e i Att.zero fields) i r (cplBytes (flightOf s op e i) stOk Att.zero (attNow s) fields) := by
  obtain ⟨s2, e2, h2⟩ : ∃ s2 : State, modRing { accepted s op e i with hif := { (accepted s op e i).hif with inflight := (accepted s op e i).hif.inflight.filter (fun x => x.cid ≠ (flightOf s op e i).cid) } }
      (flightOf s op e i).cpl (fun r => { r with reserved := r.reserved - 1 }) = s2 ∧
      HostOnly s s2 ∧ s2.regs = s.regs ∧ s2.hostMem = s.hostMem ∧ linkOk s2 = true ∧ tget? s2.hif.rings i = some { r with reserved := r.reserved + 1 - 1 } := by
    refine ⟨_, rfl, ?_, ?_, ?_, ?_, ?_⟩
    · refine HostOnly.trans ?_ (modRing_host _ _ _)
      rw [accepted_eq]; exact .lit s _ _ _
    · rw [modRing_regs]; exact accepted_regs s op e i
    · simp only [modRing]; split <;> exact accepted_hostMem s op e i
    · have := accepted_linkOk s op e i
      simp only [modRing]; split <;> (rw [← hl, ← this]; simp only [linkOk])
    · simp only [modRing, accepted_rings s op e i hr, flightOf, tget_tset, if_true]
  obtain ⟨ho, hg, hm, hl2, hr2⟩ := h2
  have hp := ringPut_put (ent := cplBytes (flightOf s op e i) stOk Att.zero (attNow s) fields) hr2 hl2
  have hw : okCpl s (accepted s op e i) op e i Att.zero fields = ringPut s2 i (cplBytes (flightOf s op e i) stOk Att.zero (attNow s) fields) := by
    simp only [okCpl, writeCpl, e2, hl2, if_true]
    rw [show (flightOf s op e i).op = op from rfl, hu]; rfl
  rw [hw]
  refine ⟨?_, ?_, HostOnly.eq (ho.trans (ringPut_host _ _ _)) ((ringPut_regs _ _ _).trans hg)⟩
  · rw [hp.mem, hm]; rfl
  · obtain ⟨r', a, b, c, d⟩ := hp.ring
    exact ⟨r', a, b, c, d⟩

/-- A ring that RING_CREATE describes begins at index 0 with phase 1. -/
theorem ringOf_new {s : State} {p : List Byte} {r : HostRing} (h : ringOf s p = some r) : r.host = 0 ∧ r.part = 0 ∧ r.phase = true := by
  simp only [ringOf] at h
  split at h
  · cases h
  · split at h
    · simp only [Option.some.injEq] at h; subst h; exact ⟨rfl, rfl, rfl⟩
    · cases h

end Sys2Proof.Machine
end

