-- ==== Sys2Proof/Laws/Events.lean ====
section
/-! SUPPORT. What raising an event and appending to the log leave of the host island (R488, R501, R508). -/

namespace Sys2Proof.Machine

/-- `t` is `s` in every field of the host island that the delivery of an event and the log leave alone; its rings are the same ones, of the same types. -/
structure HifEvt (s t : State) : Prop where
  inflight : t.hif.inflight = s.hif.inflight
  nextCid : t.hif.nextCid = s.hif.nextCid
  waiting : t.hif.waiting = s.hif.waiting
  lastServed : t.hif.lastServed = s.hif.lastServed
  doorbells : t.hif.doorbells = s.hif.doorbells
  hostResetDue : t.hif.hostResetDue = s.hif.hostResetDue
  msixMasked : t.hif.msixMasked = s.hif.msixMasked
  power : t.hif.power = s.hif.power
  linkUp : t.hif.linkUp = s.hif.linkUp
  perst : t.hif.perst = s.hif.perst
  dportData : t.hif.dportData = s.hif.dportData
  gone : t.hif.gone = s.hif.gone
  dpEvt : t.hif.dpEvt = s.hif.dpEvt
  dram : t.hif.dram = s.hif.dram
  kinds : ∀ i, (tget? t.hif.rings i).map HostRing.kind = (tget? s.hif.rings i).map HostRing.kind

theorem HifEvt.refl (s : State) : HifEvt s s := ⟨rfl, rfl, rfl, rfl, rfl, rfl, rfl, rfl, rfl, rfl, rfl, rfl, rfl, rfl, fun _ => rfl⟩

theorem HifEvt.trans {a b c : State} (h : HifEvt a b) (k : HifEvt b c) : HifEvt a c :=
  ⟨k.inflight.trans h.inflight, k.nextCid.trans h.nextCid, k.waiting.trans h.waiting, k.lastServed.trans h.lastServed, k.doorbells.trans h.doorbells,
   k.hostResetDue.trans h.hostResetDue, k.msixMasked.trans h.msixMasked, k.power.trans h.power, k.linkUp.trans h.linkUp, k.perst.trans h.perst,
   k.dportData.trans h.dportData, k.gone.trans h.gone, k.dpEvt.trans h.dpEvt, k.dram.trans h.dram, fun i => (k.kinds i).trans (h.kinds i)⟩

theorem HifEvt.foldl {α : Type} {f : State → α → State} (hf : ∀ s x, HifEvt s (f s x)) : ∀ (l : List α) (s : State), HifEvt s (l.foldl f s)
  | [], s => .refl s
  | x :: xs, s => (hf s x).trans (HifEvt.foldl hf xs (f s x))

/-- The link is as it was. -/
theorem HifEvt.linkOk {s t : State} (h : HifEvt s t) : linkOk t = linkOk s := by
  simp only [Machine.linkOk, h.power, h.linkUp, h.perst]

/-- A created ring stays created. -/
theorem HifEvt.ring {s t : State} (h : HifEvt s t) {i : Nat} {r : HostRing} (hr : tget? s.hif.rings i = some r) : ∃ r', tget? t.hif.rings i = some r' ∧ r'.kind = r.kind := by
  have k := h.kinds i
  rw [hr] at k
  cases ht : tget? t.hif.rings i with
  | none => rw [ht] at k; cases k
  | some r' => rw [ht] at k; exact ⟨r', rfl, by simpa using k⟩

/-- A change of the fields that an event or the log may change, with rings of the same types. -/
theorem HifEvt.lit (s : State) (r : Tab Word) (m : Memory) (h : Hif)
    (hh : h = { s.hif with rings := h.rings, held := h.held, evtSeq := h.evtSeq, msixPending := h.msixPending, msixSent := h.msixSent, logSeq := h.logSeq, logHash := h.logHash,
                           logHold := h.logHold, logLost := h.logLost, logCount := h.logCount, logSince := h.logSince })
    (hk : ∀ i, (tget? h.rings i).map HostRing.kind = (tget? s.hif.rings i).map HostRing.kind) :
    HifEvt s { s with regs := r, hostMem := m, hif := h } := by
  rw [hh]
  exact ⟨rfl, rfl, rfl, rfl, rfl, rfl, rfl, rfl, rfl, rfl, rfl, rfl, rfl, rfl, hk⟩

/-- A table with one value changed to another of the same type. -/
theorem tset_kinds {t : Tab HostRing} {i : Nat} {r r' : HostRing} (h : tget? t i = some r) (he : r'.kind = r.kind) (j : Nat) :
    (tget? (tset t i r') j).map HostRing.kind = (tget? t j).map HostRing.kind := by
  simp only [tget_tset]; split
  · rename_i hj; subst hj; rw [h]; exact congrArg some he
  · rfl

theorem bump_evt (s : State) (a : Nat) : HifEvt s (bump s a) := .lit s _ _ s.hif rfl (fun _ => rfl)

theorem fireVector_evt (s : State) (v : Nat) : HifEvt s (fireVector s v) := by
  have e : (fireVector s v).hif.rings = s.hif.rings.map (fun p => (p.1, (fun _ r => if r.vec = v then { r with unsig := 0 } else r) p.1 p.2)) := by
    unfold fireVector; dsimp only; split <;> rfl
  have k : ∀ i, (tget? (fireVector s v).hif.rings i).map HostRing.kind = (tget? s.hif.rings i).map HostRing.kind := by
    intro i
    rw [e]
    refine (congrArg _ (tget_map (fun _ r => if r.vec = v then { r with unsig := 0 } else r) s.hif.rings i)).trans ?_
    cases tget? s.hif.rings i with
    | none => rfl
    | some r => simp only [Option.map_some]; split <;> rfl
  unfold fireVector at *; dsimp only at *
  split <;> rename_i hc <;> simp only [hc, if_true, Bool.false_eq_true, if_false] at k
  · exact .lit s s.regs s.hostMem _ rfl k
  · exact .lit s s.regs s.hostMem _ rfl k

theorem askVector_evt (s : State) (i : Nat) : HifEvt s (askVector s i) := by
  unfold askVector; split
  · split
    · exact fireVector_evt _ _
    · exact .refl s
  · exact .refl s

theorem modRing_evt {s : State} {i : Nat} {f : HostRing → HostRing} (h : ∀ r, (f r).kind = r.kind) : HifEvt s (modRing s i f) := by
  unfold modRing; split
  · rename_i r hr; exact .lit s s.regs s.hostMem _ rfl (tset_kinds hr (h r))
  · exact .refl s

theorem ringPut_evt (s : State) (i : Nat) (ent : List Byte) : HifEvt s (ringPut s i ent) := by
  unfold ringPut; split
  · exact .refl s
  · rename_i r hr
    have e : ∀ (a : Nat) (bs : List Byte) (h : Hif), { hostWrite s a bs with hif := h } = { s with hostMem := (hostWrite s a bs).hostMem, hif := h } := by
      intro a bs h; simp only [hostWrite]; split <;> rfl
    dsimp only
    rw [e]
    refine HifEvt.trans (HifEvt.lit s s.regs _ _ rfl (tset_kinds hr ?_)) (askVector_evt _ _)
    rfl

theorem evtPut_evt (s : State) (i : Nat) (e : Event) : HifEvt s (evtPut s i e) := by
  unfold evtPut; split
  · exact .refl s
  · split
    · exact (ringPut_evt _ _ _).trans (modRing_evt (fun _ => rfl))
    · refine HifEvt.trans ?_ (bump_evt _ _)
      exact modRing_evt (fun _ => rfl)

theorem evtHold_evt (s : State) (e : Event) : HifEvt s (evtHold s e) := by
  unfold evtHold; split
  · exact bump_evt _ _
  · split
    · exact .lit s s.regs s.hostMem _ rfl (fun _ => rfl)
    · exact (HifEvt.lit s s.regs s.hostMem { s.hif with held := s.hif.held.drop 1 ++ [e] } rfl (fun _ => rfl)).trans (bump_evt _ _)

theorem deliver_evt (s : State) (e : Event) : HifEvt s (deliver s e) := by
  unfold deliver; split
  · exact .foldl (fun s x => evtPut_evt s x e) _ s
  · exact evtHold_evt _ _

/-- Raising an event leaves the commands, the link, the data port and the set of rings as they are. -/
theorem raise_evt (code : Nat) (s : State) (bay idx : Nat) (items : List (Nat × Nat)) (att : Option Att) (att2 : Att) :
    HifEvt s (raise code s bay idx items att att2) :=
  (HifEvt.lit s s.regs s.hostMem { s.hif with evtSeq := (s.hif.evtSeq + 1) % 2 ^ 32 } rfl (fun _ => rfl)).trans (deliver_evt _ _)

theorem drainLog_evt : ∀ (n : Nat) (s : State), HifEvt s (drainLog n s)
  | 0, s => .refl s
  | n + 1, s => by
    unfold drainLog; split
    · split
      · rename_i es _ _ _
        exact ((HifEvt.lit s s.regs s.hostMem { s.hif with logHold := es } rfl (fun _ => rfl)).trans (ringPut_evt _ _ _)).trans (drainLog_evt n _)
      · exact .refl s
    · exact .refl s

theorem logPush_evt (s : State) (e : List Byte) : HifEvt s (logPush s e) :=
  (HifEvt.lit s s.regs s.hostMem { s.hif with logHold := s.hif.logHold ++ [e], logSeq := s.hif.logSeq + 1 } rfl (fun _ => rfl)).trans (drainLog_evt _ _)

/-- What the drain of the log leaves of the chain. -/
structure ChainOf (s t : State) : Prop where
  seq : t.hif.logSeq = s.hif.logSeq
  hash : t.hif.logHash = s.hif.logHash
  lost : t.hif.logLost = s.hif.logLost
  count : t.hif.logCount = s.hif.logCount
  since : t.hif.logSince = s.hif.logSince

theorem ChainOf.refl (s : State) : ChainOf s s := ⟨rfl, rfl, rfl, rfl, rfl⟩
theorem ChainOf.trans {a b c : State} (h : ChainOf a b) (k : ChainOf b c) : ChainOf a c :=
  ⟨k.seq.trans h.seq, k.hash.trans h.hash, k.lost.trans h.lost, k.count.trans h.count, k.since.trans h.since⟩

theorem askVector_chain (s : State) (i : Nat) : ChainOf s (askVector s i) := by
  unfold askVector fireVector; split
  · split
    · dsimp only; split <;> exact ⟨rfl, rfl, rfl, rfl, rfl⟩
    · exact .refl s
  · exact .refl s

theorem ringPut_chain (s : State) (i : Nat) (ent : List Byte) : ChainOf s (ringPut s i ent) := by
  unfold ringPut; split
  · exact .refl s
  · dsimp only
    refine ChainOf.trans ?_ (askVector_chain _ _)
    exact ⟨rfl, rfl, rfl, rfl, rfl⟩

theorem drainLog_chain : ∀ (n : Nat) (s : State), ChainOf s (drainLog n s)
  | 0, s => .refl s
  | n + 1, s => by
    unfold drainLog; split
    · split
      · refine ChainOf.trans (ChainOf.trans ?_ (ringPut_chain _ _ _)) (drainLog_chain n _)
        exact ⟨rfl, rfl, rfl, rfl, rfl⟩
      · exact .refl s
    · exact .refl s

/-- A chained entry while the hold has room (R508). -/
theorem logChained_chain {s : State} (kind b9 b10 b12 : Nat) (h : s.hif.logHold.length < 1024) :
    (logChained s kind b9 b10 b12).hif.logHash = sha256 (s.hif.logHash ++ logHead s kind b9 b10 b12) ∧
    (logChained s kind b9 b10 b12).hif.logSeq = s.hif.logSeq + 1 := by
  have : ¬ 1024 ≤ s.hif.logHold.length := by omega
  simp only [logChained, this, if_false, logPush]
  exact ⟨(drainLog_chain _ _).hash, (drainLog_chain _ _).seq⟩

theorem logPush_cover (s : State) (e : List Byte) : (logPush s e).hif.logSince = s.hif.logSince ∧ (logPush s e).hif.logCount = s.hif.logCount :=
  ⟨(drainLog_chain _ _).since, (drainLog_chain _ _).count⟩

theorem logSigs_cover (sig : List Byte) : ∀ (l : List Nat) (s : State), (logSigs sig l s).hif.logSince = s.hif.logSince ∧ (logSigs sig l s).hif.logCount = s.hif.logCount
  | [], s => ⟨rfl, rfl⟩
  | p :: ps, s => by
    rw [logSigs]
    have h := logSigs_cover sig ps (logPush s (leBytes 8 s.hif.logSeq ++ leBytes 1 10 ++ leBytes 1 p ++ slice sig (53 * p) 53))
    have k := logPush_cover s (leBytes 8 s.hif.logSeq ++ leBytes 1 10 ++ leBytes 1 p ++ slice sig (53 * p) 53)
    rw [k.1, k.2] at h
    exact h

/-- A CHECKPOINT that finds a place leaves no entry to cover (R509). -/
theorem logCheckpoint_cover {s : State} (h : s.hif.logHold.length ≤ 1015) : (logCheckpoint s).hif.logSince = none ∧ (logCheckpoint s).hif.logCount = 0 := by
  unfold logCheckpoint; rw [if_neg (by omega)]; dsimp only
  rw [(logSigs_cover _ _ _).1, (logSigs_cover _ _ _).2]
  exact ⟨rfl, rfl⟩

end Sys2Proof.Machine
end

