-- ==== Sys2Proof/Laws/KeptFront.lean ====
section
/-! SUPPORT. That every step keeps the invariant, the lasting facts and the queue: the host-side operations, the analogue front end and the filters. Each lemma is read from its definition; what it calls is cited, not unfolded. -/

set_option linter.unusedTactic false
set_option linter.unreachableTactic false

namespace Sys2Proof.Machine

theorem fldSet_kept {o s : State} {a1 a2 a3 a4} (h : Kept o s) : Kept o (fldSet s a1 a2 a3 a4) := by
  unfold fldSet
  repeat' first | with_reducible assumption | with_reducible apply regSet_kept

theorem flagSet_kept {o s : State} {a1 a2 a3} (h : Kept o s) : Kept o (flagSet s a1 a2 a3) := by
  unfold flagSet
  repeat' first | with_reducible assumption | with_reducible apply fldSet_kept

theorem bump_kept {o s : State} {a1} (h : Kept o s) : Kept o (bump s a1) := by
  unfold bump
  repeat' first | with_reducible assumption | with_reducible apply regSet_kept

theorem bumpBy_kept {o s : State} {a1 a2} (h : Kept o s) : Kept o (bumpBy s a1 a2) := by
  unfold bumpBy
  repeat' first | with_reducible assumption | with_reducible apply regSet_kept

theorem bumpFld_kept {o s : State} {a1 a2 a3} (h : Kept o s) : Kept o (bumpFld s a1 a2 a3) := by
  unfold bumpFld
  repeat' first | with_reducible assumption | with_reducible apply fldSet_kept

theorem bumpFree_kept {o s : State} (h : Kept o s) : Kept o (bumpFree s) := by
  unfold bumpFree
  repeat' first | with_reducible assumption | (fail_if_no_progress with_reducible refine Kept.lit rfl rfl rfl rfl rfl rfl rfl rfl rfl rfl rfl rfl ?_)

theorem modRing_kept {o s : State} {a1 a2} (h : Kept o s) : Kept o (modRing s a1 a2) := by
  unfold modRing
  repeat' first | with_reducible assumption | (fail_if_no_progress with_reducible refine Kept.lit rfl rfl rfl rfl rfl rfl rfl rfl rfl rfl rfl rfl ?_) | split

theorem fireVector_kept {o s : State} {a1} (h : Kept o s) : Kept o (fireVector s a1) := by
  unfold fireVector
  try dsimp only
  repeat' first | with_reducible assumption | (fail_if_no_progress with_reducible refine Kept.lit rfl rfl rfl rfl rfl rfl rfl rfl rfl rfl rfl rfl ?_) | split

theorem askVector_kept {o s : State} {a1} (h : Kept o s) : Kept o (askVector s a1) := by
  unfold askVector
  repeat' first | with_reducible assumption | with_reducible apply fireVector_kept | split

theorem ringPut_kept {o s : State} {a1 a2} (h : Kept o s) : Kept o (ringPut s a1 a2) := by
  unfold ringPut
  split
  · exact h
  · exact askVector_kept (Kept.hif (hostWrite_kept h) (fun i => (h.inv i).held))

theorem evtPut_kept {o s : State} {a1 a2} (h : Kept o s) : Kept o (evtPut s a1 a2) := by
  unfold evtPut
  repeat' first | with_reducible assumption | with_reducible apply bump_kept | with_reducible apply modRing_kept | with_reducible apply ringPut_kept | split

theorem evtHold_kept {o s : State} {a1} (h : Kept o s) : Kept o (evtHold s a1) := by
  unfold evtHold
  split
  · exact bump_kept h
  · split
    · rename_i hl
      exact Kept.hif h (fun _ => by simp only [List.length_append, List.length_singleton]; omega)
    · exact bump_kept (Kept.hif h (fun i => by
        have := (h.inv i).held
        simp only [List.length_append, List.length_drop, List.length_singleton]; omega))

theorem deliver_kept {o s : State} {a1} (h : Kept o s) : Kept o (deliver s a1) := by
  unfold deliver
  repeat' first | with_reducible assumption | with_reducible apply evtHold_kept | with_reducible apply evtPut_kept | (with_reducible apply Kept.foldl; intro _ _ _) | split

theorem raise_kept {o s : State} {a0 a2 a3 a4 a5 a6} (h : Kept o s) : Kept o (raise a0 s a2 a3 a4 a5 a6) := by
  unfold raise
  repeat' first | with_reducible assumption | with_reducible apply deliver_kept | (fail_if_no_progress with_reducible refine Kept.lit rfl rfl rfl rfl rfl rfl rfl rfl rfl rfl rfl rfl ?_)

@[simp] theorem hostWrite_hif (s : State) (a : Nat) (bs : List Byte) : (hostWrite s a bs).hif = s.hif := by
  unfold hostWrite
  split <;> rfl
@[simp] theorem modRing_held (s : State) (i : Nat) (f : HostRing → HostRing) : (modRing s i f).hif.held = s.hif.held := by
  unfold modRing
  split <;> rfl
@[simp] theorem fireVector_held (s : State) (v : Nat) : (fireVector s v).hif.held = s.hif.held := by
  unfold fireVector
  dsimp only
  split <;> rfl
@[simp] theorem askVector_held (s : State) (i : Nat) : (askVector s i).hif.held = s.hif.held := by
  unfold askVector
  split
  · split
    · exact fireVector_held _ _
    · rfl
  · rfl
@[simp] theorem ringPut_held (s : State) (i : Nat) (ent : List Byte) : (ringPut s i ent).hif.held = s.hif.held := by
  unfold ringPut
  split
  · rfl
  · dsimp only
    rw [askVector_held]
@[simp] theorem evtPut_held (s : State) (i : Nat) (e : Event) : (evtPut s i e).hif.held = s.hif.held := by
  unfold evtPut
  split
  · rfl
  · dsimp only
    split
    · rw [modRing_held, ringPut_held]
    · rw [bump_hif, modRing_held]
theorem foldl_evtPut_held (e : Event) (l : List Nat) : ∀ s : State, (l.foldl (fun st i => evtPut st i e) s).hif.held = s.hif.held := by
  induction l with
  | nil => intro s; rfl
  | cons x xs ih => intro s; rw [List.foldl_cons, ih, evtPut_held]
/-- An event delivered while a ring takes it leaves the hold alone. -/
theorem deliver_held {s : State} {e : Event} (h : (linkOk s && !(takers s e).isEmpty) = true) : (deliver s e).hif.held = s.hif.held := by
  unfold deliver
  rw [if_pos h]
  exact foldl_evtPut_held e _ s
/-- Offering events again holds no more than are offered. -/
theorem offer_kept {o : State} (es : List Event) : ∀ {s : State}, Kept o s → (Inv o → s.hif.held.length + es.length ≤ 256) →
    Kept o (es.foldl (fun st e => if linkOk st && !(takers st e).isEmpty then deliver st e else { st with hif := { st.hif with held := st.hif.held ++ [e] } }) s) := by
  induction es with
  | nil => intro s h _; exact h
  | cons e es ih =>
    intro s h hl
    rw [List.foldl_cons]
    by_cases c : (linkOk s && !(takers s e).isEmpty) = true
    · rw [if_pos c]
      exact ih (deliver_kept h) (fun i => by have := hl i; rw [deliver_held c]; rw [List.length_cons] at this; omega)
    · rw [if_neg c]
      refine ih (Kept.hif h (fun i => ?_)) (fun i => ?_)
      · have := hl i
        rw [List.length_cons] at this
        rw [List.length_append, List.length_singleton]
        omega
      · have := hl i
        rw [List.length_cons] at this
        show (s.hif.held ++ [e]).length + es.length ≤ 256
        rw [List.length_append, List.length_singleton]
        omega
theorem redeliver_kept {o s : State} (h : Kept o s) : Kept o (redeliver s) := by
  unfold redeliver
  dsimp only
  exact offer_kept s.hif.held (Kept.hif h (fun _ => Nat.zero_le _)) (fun i => by
    have := (h.inv i).held
    simp only [List.length_nil]; omega)

theorem drainLog_kept {o s : State} {a0} (h : Kept o s) : Kept o (drainLog a0 s) := by
  induction a0 generalizing s with
  | zero =>
    unfold drainLog
    try dsimp only
    repeat' first | with_reducible assumption
  | succ n ih =>
    unfold drainLog
    try dsimp only
    repeat' first | with_reducible assumption | with_reducible apply ringPut_kept | with_reducible apply ih | (with_reducible refine Kept.fst (by with_reducible assumption) ?_) | with_reducible apply KeptP.fst | with_reducible apply KeptC.s_kept | (intro _ _ _ _) | with_reducible apply Kept.ite | (fail_if_no_progress with_reducible refine Kept.lit rfl rfl rfl rfl rfl rfl rfl rfl rfl rfl rfl rfl ?_) | split

theorem logPush_kept {o s : State} {a1} (h : Kept o s) : Kept o (logPush s a1) := by
  unfold logPush
  repeat' first | with_reducible assumption | with_reducible apply drainLog_kept | (fail_if_no_progress with_reducible refine Kept.lit rfl rfl rfl rfl rfl rfl rfl rfl rfl rfl rfl rfl ?_)

theorem logDrop_kept {o s : State} (h : Kept o s) : Kept o (logDrop s) := by
  unfold logDrop
  try dsimp only
  repeat' first | with_reducible assumption | with_reducible apply bump_kept | (with_reducible refine Kept.fst (by with_reducible assumption) ?_) | with_reducible apply KeptP.fst | with_reducible apply KeptC.s_kept | (intro _ _ _ _) | with_reducible apply Kept.ite | (fail_if_no_progress with_reducible refine Kept.lit rfl rfl rfl rfl rfl rfl rfl rfl rfl rfl rfl rfl ?_)

theorem logChained_kept {o s : State} {a1 a2 a3 a4} (h : Kept o s) : Kept o (logChained s a1 a2 a3 a4) := by
  unfold logChained
  try dsimp only
  repeat' first | with_reducible assumption | with_reducible apply logDrop_kept | with_reducible apply logPush_kept | (with_reducible refine Kept.fst (by with_reducible assumption) ?_) | with_reducible apply KeptP.fst | with_reducible apply KeptC.s_kept | (intro _ _ _ _) | with_reducible apply Kept.ite | (fail_if_no_progress with_reducible refine Kept.lit rfl rfl rfl rfl rfl rfl rfl rfl rfl rfl rfl rfl ?_)

theorem logSigs_kept {o s : State} {a0 a1} (h : Kept o s) : Kept o (logSigs a0 a1 s) := by
  induction a1 generalizing s a0 with
  | nil =>
    unfold logSigs
    try dsimp only
    repeat' first | with_reducible assumption
  | cons x xs ih =>
    unfold logSigs
    try dsimp only
    repeat' first | with_reducible assumption | with_reducible apply logPush_kept | with_reducible apply ih

theorem logCheckpoint_kept {o s : State} (h : Kept o s) : Kept o (logCheckpoint s) := by
  unfold logCheckpoint
  try dsimp only
  repeat' first | with_reducible assumption | with_reducible apply logChained_kept | with_reducible apply logDrop_kept | with_reducible apply logSigs_kept | (with_reducible refine Kept.fst (by with_reducible assumption) ?_) | with_reducible apply KeptP.fst | with_reducible apply KeptC.s_kept | (intro _ _ _ _) | with_reducible apply Kept.ite | (fail_if_no_progress with_reducible refine Kept.lit rfl rfl rfl rfl rfl rfl rfl rfl rfl rfl rfl rfl ?_)

theorem appendLog_kept {o s : State} {a1 a2 a3 a4} (h : Kept o s) : Kept o (appendLog s a1 a2 a3 a4) := by
  unfold appendLog
  try dsimp only
  repeat' first | with_reducible assumption | with_reducible apply logChained_kept | with_reducible apply logCheckpoint_kept | split

theorem logRoom_kept {o s : State} (h : Kept o s) : Kept o (logRoom s) := by
  unfold logRoom
  try dsimp only
  repeat' first | with_reducible assumption | with_reducible apply appendLog_kept | with_reducible apply drainLog_kept | with_reducible apply raise_kept | (fail_if_no_progress with_reducible refine Kept.lit rfl rfl rfl rfl rfl rfl rfl rfl rfl rfl rfl rfl ?_) | split

theorem writeCpl_kept {o s : State} {a1 a2 a3 a4 a5} (h : Kept o s) : Kept o (writeCpl s a1 a2 a3 a4 a5) := by
  unfold writeCpl
  try dsimp only
  repeat' first | with_reducible assumption | with_reducible apply appendLog_kept | with_reducible apply modRing_kept | with_reducible apply ringPut_kept | (fail_if_no_progress with_reducible refine Kept.lit rfl rfl rfl rfl rfl rfl rfl rfl rfl rfl rfl rfl ?_) | split

theorem complete_kept {o s : State} {a1 a2 a3 a4} (h : Kept o s) : Kept o (complete s a1 a2 a3 a4) := by
  unfold complete
  repeat' first | with_reducible assumption | with_reducible apply writeCpl_kept | split

theorem selfFinish_kept {o s : State} {a1} (h : Kept o s) : Kept o (selfFinish s a1) := by
  unfold selfFinish
  repeat' first | with_reducible assumption | with_reducible apply complete_kept | with_reducible apply raise_kept | with_reducible apply regSet_kept | (fail_if_no_progress with_reducible refine Kept.lit rfl rfl rfl rfl rfl rfl rfl rfl rfl rfl rfl rfl ?_) | split

theorem reserve_kept {o s : State} {a1 a2 a3} (h : Kept o s) : KeptP o (reserve s a1 a2 a3) := by
  unfold reserve
  repeat' first | with_reducible assumption | with_reducible apply modRing_kept | (fail_if_no_progress with_reducible refine Kept.lit rfl rfl rfl rfl rfl rfl rfl rfl rfl rfl rfl rfl ?_) | with_reducible apply KeptP.pair

theorem submit_kept {o s : State} {a0 a1 a2 a3} (h : Kept o s) (hf : ∀ e c st, Kept o st → KeptC o (a2 e c st)) : Kept o (submit a0 a1 a2 a3 s) := by
  unfold submit
  try dsimp only
  repeat' first | with_reducible assumption | with_reducible apply reserve_kept | with_reducible apply writeCpl_kept | with_reducible apply hf | with_reducible apply KeptP.fst | with_reducible apply KeptC.s_kept | (fail_if_no_progress with_reducible refine Kept.lit rfl rfl rfl rfl rfl rfl rfl rfl rfl rfl rfl rfl ?_) | split

theorem setCause_kept {o s : State} {a1 a2} (h : Kept o s) : Kept o (setCause s a1 a2) := by
  unfold setCause
  try dsimp only
  repeat' first | with_reducible assumption | with_reducible apply raise_kept | (fail_if_no_progress with_reducible refine Kept.lit rfl rfl rfl rfl rfl rfl rfl rfl rfl rfl rfl rfl ?_) | split

theorem sealedWrite_kept {o s : State} {a1 a2} (h : Kept o s) : Kept o (sealedWrite s a1 a2) := by
  unfold sealedWrite
  repeat' first | with_reducible assumption | with_reducible apply appendLog_kept | with_reducible apply raise_kept | split

theorem modCh_kept {o s : State} {a1 a2} (h : Kept o s) : Kept o (modCh s a1 a2) := by
  unfold modCh
  repeat' first | with_reducible assumption | (fail_if_no_progress with_reducible refine Kept.lit rfl rfl rfl rfl rfl rfl rfl rfl rfl rfl rfl rfl ?_)

theorem modChs_kept {o s : State} {a1 a2} (h : Kept o s) : Kept o (modChs s a1 a2) := by
  unfold modChs
  repeat' first | with_reducible assumption | with_reducible apply modCh_kept | (with_reducible apply Kept.foldl; intro _ _ _)

theorem tapFlush_kept {o s : State} {a1} (h : Kept o s) : Kept o (tapFlush s a1) := by
  unfold tapFlush
  try dsimp only
  repeat' first | with_reducible assumption | with_reducible apply bumpBy_kept | with_reducible apply ringPut_kept | (fail_if_no_progress with_reducible refine Kept.lit rfl rfl rfl rfl rfl rfl rfl rfl rfl rfl rfl rfl ?_) | split

theorem tapPut_kept {o s : State} {a1 a2} (h : Kept o s) : Kept o (tapPut s a1 a2) := by
  unfold tapPut
  try dsimp only
  repeat' first | with_reducible assumption | with_reducible apply tapFlush_kept | (fail_if_no_progress with_reducible refine Kept.lit rfl rfl rfl rfl rfl rfl rfl rfl rfl rfl rfl rfl ?_) | split

theorem tapResult_kept {o s : State} {a1 a2} (h : Kept o s) : Kept o (tapResult s a1 a2) := by
  unfold tapResult
  try dsimp only
  repeat' first | with_reducible assumption | with_reducible apply tapPut_kept | (with_reducible apply Kept.foldl; intro _ _ _) | (fail_if_no_progress with_reducible refine Kept.lit rfl rfl rfl rfl rfl rfl rfl rfl rfl rfl rfl rfl ?_) | split

theorem tapUp_kept {o s : State} {a1} (h : Kept o s) : Kept o (tapUp s a1) := by
  unfold tapUp
  try dsimp only
  repeat' first | with_reducible assumption | with_reducible apply modCh_kept | with_reducible apply tapResult_kept | (with_reducible refine Kept.fst (by with_reducible assumption) ?_) | with_reducible apply KeptP.fst | with_reducible apply KeptC.s_kept | (with_reducible apply Kept.foldl; intro _ _ _) | (intro _ _ _ _) | with_reducible apply Kept.ite | (fail_if_no_progress with_reducible refine Kept.lit rfl rfl rfl rfl rfl rfl rfl rfl rfl rfl rfl rfl ?_) | split

theorem setSpare_kept {o s : State} {a1} (h : Kept o s) : Kept o (setSpare s a1) := by
  unfold setSpare
  repeat' first | with_reducible assumption | with_reducible apply regSet_kept | (fail_if_no_progress with_reducible refine Kept.lit rfl rfl rfl rfl rfl rfl rfl rfl rfl rfl rfl rfl ?_)

theorem substPerm_kept {o s : State} {a1 a2} (h : Kept o s) : Kept o (substPerm s a1 a2) := by
  unfold substPerm
  repeat' first | with_reducible assumption | with_reducible apply flagSet_kept | with_reducible apply raise_kept | with_reducible apply setCause_kept | with_reducible apply setSpare_kept

theorem selfCheckFail_kept {o s : State} {a1} (h : Kept o s) : Kept o (selfCheckFail s a1) := by
  unfold selfCheckFail
  repeat' first | with_reducible assumption | with_reducible apply flagSet_kept | with_reducible apply modCh_kept | with_reducible apply raise_kept | with_reducible apply substPerm_kept | split

theorem fillIgnored_kept {o s : State} {a1 a2} (h : Kept o s) : Kept o (fillIgnored s a1 a2) := by
  unfold fillIgnored
  try dsimp only
  repeat' first | with_reducible assumption | with_reducible apply modCh_kept | (with_reducible refine Kept.fst (by with_reducible assumption) ?_) | with_reducible apply KeptP.fst | with_reducible apply KeptC.s_kept | (with_reducible apply Kept.foldl; intro _ _ _) | (intro _ _ _ _) | with_reducible apply Kept.ite | (fail_if_no_progress with_reducible refine Kept.lit rfl rfl rfl rfl rfl rfl rfl rfl rfl rfl rfl rfl ?_) | split

theorem episode_kept {o s : State} {a1 a2 a3} (h : Kept o s) : Kept o (episode s a1 a2 a3) := by
  unfold episode
  try dsimp only
  repeat' first | with_reducible assumption | with_reducible apply flagSet_kept | with_reducible apply modCh_kept | with_reducible apply raise_kept | (with_reducible apply Kept.foldl; intro _ _ _) | split

theorem writeResult_kept {o s : State} {a1 a2 a3 a4} (h : Kept o s) : Kept o (writeResult s a1 a2 a3 a4) := by
  unfold writeResult
  try dsimp only
  repeat' first | with_reducible assumption | with_reducible apply episode_kept | with_reducible apply fillIgnored_kept | with_reducible apply modCh_kept | with_reducible apply selfCheckFail_kept | with_reducible apply tapUp_kept | (with_reducible refine Kept.fst (by with_reducible assumption) ?_) | with_reducible apply KeptP.fst | with_reducible apply KeptC.s_kept | (intro _ _ _ _) | with_reducible apply Kept.ite

theorem modTrk_kept {o s : State} {a1 a2} (h : Kept o s) : Kept o (modTrk s a1 a2) := by
  unfold modTrk
  repeat' first | with_reducible assumption | with_reducible apply regSet_kept | (fail_if_no_progress with_reducible refine Kept.lit rfl rfl rfl rfl rfl rfl rfl rfl rfl rfl rfl rfl ?_)

theorem trkSample_kept {o s : State} {a1 a2 a3} (h : Kept o s) : Kept o (trkSample s a1 a2 a3) := by
  unfold trkSample
  repeat' first | with_reducible assumption | (with_reducible apply Kept.foldl; intro _ _ _) | (fail_if_no_progress with_reducible refine Kept.lit rfl rfl rfl rfl rfl rfl rfl rfl rfl rfl rfl rfl ?_) | split

theorem putBlock_kept {o s : State} {a1 a2} (h : Kept o s) : Kept o (putBlock s a1 a2) := by
  unfold putBlock
  repeat' first | with_reducible assumption | with_reducible apply flagSet_kept | with_reducible apply modTrk_kept | (with_reducible apply Kept.foldl; intro _ _ _)

theorem setFlt_kept {o s : State} {a1 a2} (h : Kept o s) : Kept o (setFlt s a1 a2) := by
  unfold setFlt
  repeat' first | with_reducible assumption | with_reducible apply regSet_kept | (fail_if_no_progress with_reducible refine Kept.lit rfl rfl rfl rfl rfl rfl rfl rfl rfl rfl rfl rfl ?_)

theorem syncReset_kept {o s : State} {a1 a2} (h : Kept o s) : Kept o (syncReset s a1 a2) := by
  unfold syncReset
  repeat' first | with_reducible assumption | with_reducible apply bump_kept | with_reducible apply raise_kept | with_reducible apply setFlt_kept | (with_reducible apply Kept.foldl; intro _ _ _)

theorem satNote_kept {o s : State} {a1 a2} (h : Kept o s) : Kept o (satNote s a1 a2) := by
  unfold satNote
  try dsimp only
  repeat' first | with_reducible assumption | with_reducible apply bump_kept | with_reducible apply flagSet_kept | with_reducible apply raise_kept | with_reducible apply setFlt_kept | split

theorem skipTo_kept {o s : State} {a1} (h : Kept o s) : Kept o (skipTo s a1) := by
  unfold skipTo
  repeat' first | with_reducible assumption | with_reducible apply setFlt_kept | (with_reducible apply Kept.foldl; intro _ _ _)

theorem applyChCfg_kept {o s : State} {a1 a2} (h : Kept o s) : Kept o (applyChCfg s a1 a2) := by
  unfold applyChCfg
  try dsimp only
  repeat' first | with_reducible assumption | with_reducible apply skipTo_kept | with_reducible apply syncReset_kept | (fail_if_no_progress with_reducible refine Kept.lit rfl rfl rfl rfl rfl rfl rfl rfl rfl rfl rfl rfl ?_) | split

theorem startFastPath_kept {o s : State} (h : Kept o s) : Kept o (startFastPath s) := by
  unfold startFastPath
  repeat' first | with_reducible assumption | with_reducible apply applyChCfg_kept | with_reducible apply flagSet_kept | with_reducible apply skipTo_kept | with_reducible apply syncReset_kept | (fail_if_no_progress with_reducible refine Kept.lit rfl rfl rfl rfl rfl rfl rfl rfl rfl rfl rfl rfl ?_) | split

theorem setSyncActive_kept {o s : State} {a1} (h : Kept o s) : Kept o (setSyncActive s a1) := by
  unfold setSyncActive
  repeat' first | with_reducible assumption | with_reducible apply flagSet_kept | with_reducible apply syncReset_kept | (fail_if_no_progress with_reducible refine Kept.lit rfl rfl rfl rfl rfl rfl rfl rfl rfl rfl rfl rfl ?_)

theorem deferEdge_kept {o s : State} {a1} (h : Kept o s) : Kept o (deferEdge s a1) := by
  unfold deferEdge
  try dsimp only
  repeat' first | with_reducible assumption | with_reducible apply modCh_kept | (with_reducible apply Kept.foldl; intro _ _ _) | split

theorem startConv_kept {o s : State} {a1 a2} (h : Kept o s) : Kept o (startConv s a1 a2) := by
  unfold startConv
  repeat' first | with_reducible assumption | with_reducible apply deferEdge_kept | with_reducible apply modCh_kept | (with_reducible apply Kept.foldl; intro _ _ _) | (fail_if_no_progress with_reducible refine Kept.lit rfl rfl rfl rfl rfl rfl rfl rfl rfl rfl rfl rfl ?_) | split

theorem syncRate_kept {o s : State} (h : Kept o s) : Kept o (syncRate s) := by
  unfold syncRate
  try dsimp only
  repeat' first | with_reducible assumption | with_reducible apply flagSet_kept | with_reducible apply raise_kept | (with_reducible refine Kept.fst (by with_reducible assumption) ?_) | with_reducible apply KeptP.fst | with_reducible apply KeptC.s_kept | (intro _ _ _ _) | with_reducible apply Kept.ite | (fail_if_no_progress with_reducible refine Kept.lit rfl rfl rfl rfl rfl rfl rfl rfl rfl rfl rfl rfl ?_)

theorem execSampleSyncEdge_kept {o s : State} {a0 a1} (h : Kept o s) : KeptOut o (execSampleSyncEdge a0 a1 s) := by
  unfold execSampleSyncEdge
  try dsimp only
  repeat' first | with_reducible assumption | apply Kept.next | with_reducible apply bump_kept | with_reducible apply modCh_kept | with_reducible apply startConv_kept | with_reducible apply syncRate_kept | (with_reducible refine Kept.fst (by with_reducible assumption) ?_) | with_reducible apply KeptP.fst | with_reducible apply KeptC.s_kept | (with_reducible apply Kept.foldl; intro _ _ _) | (intro _ _ _ _) | with_reducible apply Kept.ite | with_reducible apply KeptOut.ite | (fail_if_no_progress with_reducible refine Kept.lit rfl rfl rfl rfl rfl rfl rfl rfl rfl rfl rfl rfl ?_)

theorem execLatchedConversionStart_kept {o s : State} (h : Kept o s) : KeptOut o (execLatchedConversionStart s) := by
  unfold execLatchedConversionStart
  repeat' first | with_reducible assumption | apply Kept.next | with_reducible apply startConv_kept | (fail_if_no_progress with_reducible refine Kept.lit rfl rfl rfl rfl rfl rfl rfl rfl rfl rfl rfl rfl ?_) | split

theorem execSyncLost_kept {o s : State} (h : Kept o s) : KeptOut o (execSyncLost s) := by
  unfold execSyncLost
  try dsimp only
  repeat' first | with_reducible assumption | apply Kept.next | with_reducible apply raise_kept | with_reducible apply setSyncActive_kept | split

theorem execSyncRestored_kept {o s : State} (h : Kept o s) : KeptOut o (execSyncRestored s) := by
  unfold execSyncRestored
  try dsimp only
  repeat' first | with_reducible assumption | apply Kept.next | with_reducible apply raise_kept | with_reducible apply setSyncActive_kept | with_reducible apply syncRate_kept | (with_reducible refine Kept.fst (by with_reducible assumption) ?_) | with_reducible apply KeptP.fst | with_reducible apply KeptC.s_kept | (intro _ _ _ _) | with_reducible apply Kept.ite | with_reducible apply KeptOut.ite

theorem execSyncRateCheck_kept {o s : State} (h : Kept o s) : KeptOut o (execSyncRateCheck s) := by
  unfold execSyncRateCheck
  try dsimp only
  repeat' first | with_reducible assumption | apply Kept.next | with_reducible apply syncRate_kept

theorem execConversionComplete_kept {o s : State} {a0 a1 a2 a3} (h : Kept o s) : KeptOut o (execConversionComplete a0 a1 a2 a3 s) := by
  unfold execConversionComplete
  repeat' first | with_reducible assumption | apply Kept.next | with_reducible apply writeResult_kept | split

theorem execSnapshotTake_kept {o s : State} (h : Kept o s) : KeptOut o (execSnapshotTake s) := by
  unfold execSnapshotTake
  repeat' first | with_reducible assumption | apply Kept.next | with_reducible apply bumpBy_kept | with_reducible apply modCh_kept | (with_reducible apply Kept.foldl; intro _ _ _) | (fail_if_no_progress with_reducible refine Kept.lit rfl rfl rfl rfl rfl rfl rfl rfl rfl rfl rfl rfl ?_) | split

theorem execDisplacedConversion_kept {o s : State} {a0} (h : Kept o s) : KeptOut o (execDisplacedConversion a0 s) := by
  unfold execDisplacedConversion
  repeat' first | with_reducible assumption | apply Kept.next | with_reducible apply modCh_kept | split

theorem execSnapshotResult_kept {o s : State} {a0} (h : Kept o s) : KeptOut o (execSnapshotResult a0 s) := by
  unfold execSnapshotResult
  repeat' first | with_reducible assumption | apply Kept.next | with_reducible apply complete_kept | with_reducible apply hostWrite_kept | with_reducible apply regSet_kept | (with_reducible apply Kept.foldl; intro _ _ _) | (fail_if_no_progress with_reducible refine Kept.lit rfl rfl rfl rfl rfl rfl rfl rfl rfl rfl rfl rfl ?_) | split

theorem setTerms_kept {o s : State} {a1 a2 a3 a4} (h : Kept o s) : Kept o (setTerms s a1 a2 a3 a4) := by
  unfold setTerms
  repeat' first | with_reducible assumption | with_reducible apply regSet_kept

theorem spareEnd_kept {o s : State} (h : Kept o s) : Kept o (spareEnd s) := by
  unfold spareEnd
  repeat' first | with_reducible assumption | with_reducible apply setSpare_kept

theorem execSpareStepDue_kept {o s : State} (h : Kept o s) : KeptOut o (execSpareStepDue s) := by
  unfold execSpareStepDue
  try dsimp only
  repeat' first | with_reducible assumption | apply Kept.next | with_reducible apply setSpare_kept | (with_reducible refine Kept.fst (by with_reducible assumption) ?_) | with_reducible apply KeptP.fst | with_reducible apply KeptC.s_kept | (intro _ _ _ _) | with_reducible apply Kept.ite | with_reducible apply KeptOut.ite

theorem execSparePhaseDone_kept {o s : State} {a0 a1 a2 a3 a4} (h : Kept o s) : KeptOut o (execSparePhaseDone a0 a1 a2 a3 a4 s) := by
  unfold execSparePhaseDone
  try dsimp only
  repeat' first | with_reducible assumption | apply Kept.next | with_reducible apply setSpare_kept | with_reducible apply setTerms_kept | with_reducible apply spareEnd_kept | with_reducible apply substPerm_kept | split

theorem ownAfeCal_kept {o s : State} {a0 a1} (h : Kept o s) : KeptC o (ownAfeCal a0 a1 s) := by
  unfold ownAfeCal
  try dsimp only
  repeat' first | with_reducible assumption | with_reducible apply CmdOut.later_kept | with_reducible apply CmdOut.rej_kept | with_reducible apply flagSet_kept | with_reducible apply setSpare_kept | (fail_if_no_progress with_reducible refine Kept.lit rfl rfl rfl rfl rfl rfl rfl rfl rfl rfl rfl rfl ?_) | split

theorem execAfeCal_kept {o s : State} {a0} (h : Kept o s) : KeptOut o (execAfeCal a0 s) := by
  unfold execAfeCal
  repeat' first | with_reducible assumption | apply Kept.next | with_reducible apply ownAfeCal_kept | with_reducible apply submit_kept | (intro _ _ _ _)

theorem calResult_kept {o s : State} {a1} (h : Kept o s) : Kept o (calResult s a1) := by
  unfold calResult
  try dsimp only
  repeat' first | with_reducible assumption | with_reducible apply bumpFree_kept | with_reducible apply setTerms_kept | with_reducible apply substPerm_kept | (with_reducible refine Kept.fst (by with_reducible assumption) ?_) | with_reducible apply KeptP.fst | with_reducible apply KeptC.s_kept | (with_reducible apply Kept.foldl; intro _ _ _) | (intro _ _ _ _) | with_reducible apply Kept.ite | (fail_if_no_progress with_reducible refine Kept.lit rfl rfl rfl rfl rfl rfl rfl rfl rfl rfl rfl rfl ?_) | split

theorem execAfeCalDone_kept {o s : State} (h : Kept o s) : KeptOut o (execAfeCalDone s) := by
  unfold execAfeCalDone
  try dsimp only
  repeat' first | with_reducible assumption | apply Kept.next | with_reducible apply calResult_kept | with_reducible apply complete_kept | with_reducible apply flagSet_kept | with_reducible apply selfFinish_kept | (with_reducible refine Kept.fst (by with_reducible assumption) ?_) | with_reducible apply KeptP.fst | with_reducible apply KeptC.s_kept | (intro _ _ _ _) | with_reducible apply Kept.ite | with_reducible apply KeptOut.ite | (fail_if_no_progress with_reducible refine Kept.lit rfl rfl rfl rfl rfl rfl rfl rfl rfl rfl rfl rfl ?_) | split

theorem execRefFault_kept {o s : State} {a0} (h : Kept o s) : KeptOut o (execRefFault a0 s) := by
  unfold execRefFault
  repeat' first | with_reducible assumption | apply Kept.next | with_reducible apply fldSet_kept | with_reducible apply raise_kept | (fail_if_no_progress with_reducible refine Kept.lit rfl rfl rfl rfl rfl rfl rfl rfl rfl rfl rfl rfl ?_) | split

theorem execRefRestored_kept {o s : State} {a0} (h : Kept o s) : KeptOut o (execRefRestored a0 s) := by
  unfold execRefRestored
  repeat' first | with_reducible assumption | apply Kept.next | with_reducible apply fldSet_kept | with_reducible apply raise_kept | (fail_if_no_progress with_reducible refine Kept.lit rfl rfl rfl rfl rfl rfl rfl rfl rfl rfl rfl rfl ?_) | split

theorem closeCycle_kept {o s : State} {a1 a2 a3 a4} (h : Kept o s) : Kept o (closeCycle s a1 a2 a3 a4) := by
  unfold closeCycle
  try dsimp only
  repeat' first | with_reducible assumption | with_reducible apply flagSet_kept | with_reducible apply modTrk_kept | with_reducible apply putBlock_kept | (with_reducible refine Kept.fst (by with_reducible assumption) ?_) | with_reducible apply KeptP.fst | with_reducible apply KeptC.s_kept | (with_reducible apply Kept.foldl; intro _ _ _) | (intro _ _ _ _) | with_reducible apply Kept.ite | (fail_if_no_progress with_reducible refine Kept.lit rfl rfl rfl rfl rfl rfl rfl rfl rfl rfl rfl rfl ?_) | split

theorem freeRunStart_kept {o s : State} {a1} (h : Kept o s) : Kept o (freeRunStart s a1) := by
  unfold freeRunStart
  repeat' first | with_reducible assumption | with_reducible apply modTrk_kept | with_reducible apply raise_kept

theorem execMetBoundary_kept {o s : State} {a0 a1} (h : Kept o s) : KeptOut o (execMetBoundary a0 a1 s) := by
  unfold execMetBoundary
  try dsimp only
  repeat' first | with_reducible assumption | apply Kept.next | with_reducible apply closeCycle_kept | with_reducible apply freeRunStart_kept | with_reducible apply modTrk_kept | with_reducible apply raise_kept | split

theorem execMetNegCrossing_kept {o s : State} {a0} (h : Kept o s) : KeptOut o (execMetNegCrossing a0 s) := by
  unfold execMetNegCrossing
  try dsimp only
  repeat' first | with_reducible assumption | apply Kept.next | with_reducible apply modTrk_kept | with_reducible apply raise_kept | split

theorem execTrkFreeRunBoundary_kept {o s : State} {a0 a1} (h : Kept o s) : KeptOut o (execTrkFreeRunBoundary a0 a1 s) := by
  unfold execTrkFreeRunBoundary
  try dsimp only
  repeat' first | with_reducible assumption | apply Kept.next | with_reducible apply closeCycle_kept | with_reducible apply freeRunStart_kept | split

theorem execAfeCfgEffect_kept {o s : State} (h : Kept o s) : KeptOut o (execAfeCfgEffect s) := by
  unfold execAfeCfgEffect
  repeat' first | with_reducible assumption | apply Kept.next | with_reducible apply applyChCfg_kept | split

theorem execFastPathStop_kept {o s : State} (h : Kept o s) : KeptOut o (execFastPathStop s) := by
  unfold execFastPathStop
  try dsimp only
  repeat' first | with_reducible assumption | apply Kept.next | with_reducible apply tapUp_kept | (with_reducible refine Kept.fst (by with_reducible assumption) ?_) | with_reducible apply KeptP.fst | with_reducible apply KeptC.s_kept | (with_reducible apply Kept.foldl; intro _ _ _) | (intro _ _ _ _) | with_reducible apply Kept.ite | with_reducible apply KeptOut.ite | (fail_if_no_progress with_reducible refine Kept.lit rfl rfl rfl rfl rfl rfl rfl rfl rfl rfl rfl rfl ?_) | split

theorem execSvtEntryTimeout_kept {o s : State} (h : Kept o s) : KeptOut o (execSvtEntryTimeout s) := by
  unfold execSvtEntryTimeout
  try dsimp only
  repeat' first | with_reducible assumption | apply Kept.next | with_reducible apply tapFlush_kept | (with_reducible apply Kept.foldl; intro _ _ _) | split

theorem execFltSyncReset_kept {o s : State} {a0} (h : Kept o s) : KeptOut o (execFltSyncReset a0 s) := by
  unfold execFltSyncReset
  repeat' first | with_reducible assumption | apply Kept.next | with_reducible apply sealedWrite_kept | with_reducible apply syncReset_kept | split

theorem swapRequest_kept {o s : State} {a1 a2 a3} (h : Kept o s) : Kept o (swapRequest s a1 a2 a3) := by
  unfold swapRequest
  try dsimp only
  repeat' first | with_reducible assumption | with_reducible apply flagSet_kept | with_reducible apply raise_kept | with_reducible apply setFlt_kept | split

theorem execFltSwapRequest_kept {o s : State} {a0 a1 a2} (h : Kept o s) : KeptOut o (execFltSwapRequest a0 a1 a2 s) := by
  unfold execFltSwapRequest
  repeat' first | with_reducible assumption | apply Kept.next | with_reducible apply swapRequest_kept | split

theorem execFadeStart_kept {o s : State} {a0 a1} (h : Kept o s) : KeptOut o (execFadeStart a0 a1 s) := by
  unfold execFadeStart
  try dsimp only
  repeat' first | with_reducible assumption | apply Kept.next | with_reducible apply setFlt_kept | split

end Sys2Proof.Machine
end

