-- ==== Sys2Proof/Laws/KeptParts.lean ====
section
/-! SUPPORT. That every step keeps the invariant, the lasting facts and the queue: sample slots, ports, records, placement and streams. Each lemma is read from its definition; what it calls is cited, not unfolded. -/

set_option linter.unusedTactic false
set_option linter.unreachableTactic false

namespace Sys2Proof.Machine

theorem setBay_kept {o s : State} {a1 a2} (h : Kept o s) : Kept o (setBay s a1 a2) := by
  unfold setBay
  repeat' first | with_reducible assumption | (fail_if_no_progress with_reducible refine Kept.lit rfl rfl rfl rfl rfl rfl rfl rfl rfl rfl rfl rfl ?_)

theorem modBay_kept {o s : State} {a1 a2} (h : Kept o s) : Kept o (modBay s a1 a2) := by
  unfold modBay
  repeat' first | with_reducible assumption | with_reducible apply setBay_kept | split

theorem slotOverflow_kept {o s : State} {a1 a2} (h : Kept o s) : Kept o (slotOverflow s a1 a2) := by
  unfold slotOverflow
  try dsimp only
  repeat' first | with_reducible assumption | with_reducible apply bump_kept | with_reducible apply flagSet_kept | with_reducible apply raise_kept | with_reducible apply setBay_kept | split

theorem stage_kept {o s : State} {a1 a2 a3} (h : Kept o s) : Kept o (stage s a1 a2 a3) := by
  unfold stage
  try dsimp only
  repeat' first | with_reducible assumption | with_reducible apply setBay_kept | with_reducible apply slotOverflow_kept | (fail_if_no_progress with_reducible refine Kept.lit rfl rfl rfl rfl rfl rfl rfl rfl rfl rfl rfl rfl ?_) | split

theorem stageAfter_kept {o s : State} {a1 a2 a3} (h : Kept o s) : Kept o (stageAfter s a1 a2 a3) := by
  unfold stageAfter
  try dsimp only
  repeat' first | with_reducible assumption | with_reducible apply stage_kept | (with_reducible refine Kept.fst (by with_reducible assumption) ?_) | with_reducible apply KeptP.fst | with_reducible apply KeptC.s_kept | (intro _ _ _ _) | with_reducible apply Kept.ite | (fail_if_no_progress with_reducible refine Kept.lit rfl rfl rfl rfl rfl rfl rfl rfl rfl rfl rfl rfl ?_) | split

theorem endSwitch_kept {o s : State} {a1 a2} (h : Kept o s) : Kept o (endSwitch s a1 a2) := by
  unfold endSwitch
  try dsimp only
  repeat' first | with_reducible assumption | with_reducible apply modBay_kept | with_reducible apply stageAfter_kept | (with_reducible refine Kept.fst (by with_reducible assumption) ?_) | with_reducible apply KeptP.fst | with_reducible apply KeptC.s_kept | (with_reducible apply Kept.foldl; intro _ _ _) | (intro _ _ _ _) | with_reducible apply Kept.ite | (fail_if_no_progress with_reducible refine Kept.lit rfl rfl rfl rfl rfl rfl rfl rfl rfl rfl rfl rfl ?_) | split

theorem beginSwitch_kept {o s : State} {a1 a2 a3} (h : Kept o s) : Kept o (beginSwitch s a1 a2 a3) := by
  unfold beginSwitch
  try dsimp only
  repeat' first | with_reducible assumption | with_reducible apply endSwitch_kept | with_reducible apply modBay_kept

theorem stageNew_kept {o s : State} {a1 a2 a3} (h : Kept o s) : Kept o (stageNew s a1 a2 a3) := by
  unfold stageNew
  try dsimp only
  repeat' first | with_reducible assumption | with_reducible apply endSwitch_kept | with_reducible apply modBay_kept | with_reducible apply stageAfter_kept | (with_reducible refine Kept.fst (by with_reducible assumption) ?_) | with_reducible apply KeptP.fst | with_reducible apply KeptC.s_kept | (intro _ _ _ _) | with_reducible apply Kept.ite | (fail_if_no_progress with_reducible refine Kept.lit rfl rfl rfl rfl rfl rfl rfl rfl rfl rfl rfl rfl ?_) | split

theorem stageOld_kept {o s : State} {a1 a2 a3} (h : Kept o s) : Kept o (stageOld s a1 a2 a3) := by
  unfold stageOld
  try dsimp only
  repeat' first | with_reducible assumption | with_reducible apply endSwitch_kept | with_reducible apply stageAfter_kept | (with_reducible refine Kept.fst (by with_reducible assumption) ?_) | with_reducible apply KeptP.fst | with_reducible apply KeptC.s_kept | (intro _ _ _ _) | with_reducible apply Kept.ite | (fail_if_no_progress with_reducible refine Kept.lit rfl rfl rfl rfl rfl rfl rfl rfl rfl rfl rfl rfl ?_) | split

theorem modPort_kept {o s : State} {a1 a2} (h : Kept o s) : Kept o (modPort s a1 a2) := by
  unfold modPort
  repeat' first | with_reducible assumption | (fail_if_no_progress with_reducible refine Kept.lit rfl rfl rfl rfl rfl rfl rfl rfl rfl rfl rfl rfl ?_)

theorem drainPort_kept {o s : State} {a1} (h : Kept o s) : Kept o (drainPort s a1) := by
  unfold drainPort
  try dsimp only
  repeat' first | with_reducible assumption | with_reducible apply bump_kept | with_reducible apply modPort_kept | (fail_if_no_progress with_reducible refine Kept.lit rfl rfl rfl rfl rfl rfl rfl rfl rfl rfl rfl rfl ?_) | split

theorem bellDrop_kept {o s : State} {a1} (h : Kept o s) : Kept o (bellDrop s a1) := by
  unfold bellDrop
  try dsimp only
  repeat' first | with_reducible assumption | with_reducible apply bump_kept | with_reducible apply flagSet_kept | with_reducible apply modPort_kept | with_reducible apply raise_kept | split

theorem bellPut_kept {o s : State} {a1 a2} (h : Kept o s) : Kept o (bellPut s a1 a2) := by
  unfold bellPut
  try dsimp only
  repeat' first | with_reducible assumption | with_reducible apply bellDrop_kept | with_reducible apply modPort_kept | split

theorem egress_kept {o s : State} {a1 a2 a3 a4} (h : Kept o s) : Kept o (egress s a1 a2 a3 a4) := by
  unfold egress
  repeat' first | with_reducible assumption | with_reducible apply bellPut_kept | with_reducible apply drainPort_kept | with_reducible apply modPort_kept | split

theorem drainLane_kept {o s : State} {a1} (h : Kept o s) : Kept o (drainLane s a1) := by
  unfold drainLane
  try dsimp only
  repeat' first | with_reducible assumption | (with_reducible refine Kept.fst (by with_reducible assumption) ?_) | with_reducible apply KeptP.fst | with_reducible apply KeptC.s_kept | (intro _ _ _ _) | with_reducible apply Kept.ite | (fail_if_no_progress with_reducible refine Kept.lit rfl rfl rfl rfl rfl rfl rfl rfl rfl rfl rfl rfl ?_) | split

theorem sendOwn_kept {o s : State} {a1} (h : Kept o s) : Kept o (sendOwn s a1) := by
  unfold sendOwn
  repeat' first | with_reducible assumption | with_reducible apply egress_kept | (with_reducible apply Kept.foldl; intro _ _ _) | (fail_if_no_progress with_reducible refine Kept.lit rfl rfl rfl rfl rfl rfl rfl rfl rfl rfl rfl rfl ?_)

theorem showPort_kept {o s : State} {a1} (h : Kept o s) : Kept o (showPort s a1) := by
  unfold showPort
  repeat' first | with_reducible assumption | with_reducible apply flagSet_kept | with_reducible apply regSet_kept

theorem lanFault_kept {o s : State} {a1} (h : Kept o s) : Kept o (lanFault s a1) := by
  unfold lanFault
  repeat' first | with_reducible assumption | with_reducible apply flagSet_kept | with_reducible apply modPort_kept | with_reducible apply raise_kept | split

theorem lanCheck_kept {o s : State} {a1} (h : Kept o s) : Kept o (lanCheck s a1) := by
  unfold lanCheck
  try dsimp only
  repeat' first | with_reducible assumption | with_reducible apply flagSet_kept | with_reducible apply lanFault_kept | with_reducible apply modPort_kept | with_reducible apply raise_kept | split

theorem linkFall_kept {o s : State} {a1} (h : Kept o s) : Kept o (linkFall s a1) := by
  unfold linkFall
  repeat' first | with_reducible assumption | with_reducible apply lanCheck_kept | with_reducible apply modPort_kept | with_reducible apply raise_kept | with_reducible apply showPort_kept

theorem sendBelfry_kept {o s : State} {a1 a2 a3 a4 a5 a6 a7} (h : Kept o s) : Kept o (sendBelfry s a1 a2 a3 a4 a5 a6 a7) := by
  unfold sendBelfry
  repeat' first | with_reducible assumption | with_reducible apply sendOwn_kept | split

theorem sendTrip_kept {o s : State} {a1 a2 a3 a4} (h : Kept o s) : Kept o (sendTrip s a1 a2 a3 a4) := by
  unfold sendTrip
  repeat' first | with_reducible assumption | with_reducible apply sendBelfry_kept | (fail_if_no_progress with_reducible refine Kept.lit rfl rfl rfl rfl rfl rfl rfl rfl rfl rfl rfl rfl ?_) | split

theorem setEpoch_kept {o s : State} {a1} (h : Kept o s) : Kept o (setEpoch s a1) := by
  unfold setEpoch
  repeat' first | with_reducible assumption | with_reducible apply fldSet_kept | (fail_if_no_progress with_reducible refine Kept.lit rfl rfl rfl rfl rfl rfl rfl rfl rfl rfl rfl rfl ?_) | split

theorem sendBeacon_kept {o s : State} (h : Kept o s) : Kept o (sendBeacon s) := by
  unfold sendBeacon
  repeat' first | with_reducible assumption | with_reducible apply sendBelfry_kept | (fail_if_no_progress with_reducible refine Kept.lit rfl rfl rfl rfl rfl rfl rfl rfl rfl rfl rfl rfl ?_) | split

theorem sendXtrig_kept {o s : State} {a1 a2 a3 a4 a5} (h : Kept o s) : Kept o (sendXtrig s a1 a2 a3 a4 a5) := by
  unfold sendXtrig
  repeat' first | with_reducible assumption | with_reducible apply bump_kept | with_reducible apply sendBelfry_kept | split

theorem sendGasp_kept {o s : State} {a1 a2} (h : Kept o s) : Kept o (sendGasp s a1 a2) := by
  unfold sendGasp
  repeat' first | with_reducible assumption | with_reducible apply sendBelfry_kept

theorem tripFrames_kept {o s : State} {a1 a2 a3 a4} (h : Kept o s) : Kept o (tripFrames s a1 a2 a3 a4) := by
  unfold tripFrames
  try dsimp only
  repeat' first | with_reducible assumption | with_reducible apply sendTrip_kept | (fail_if_no_progress with_reducible refine Kept.lit rfl rfl rfl rfl rfl rfl rfl rfl rfl rfl rfl rfl ?_) | split

theorem sendGoose_kept {o s : State} {a1 a2 a3 a4} (h : Kept o s) : Kept o (sendGoose s a1 a2 a3 a4) := by
  unfold sendGoose
  repeat' first | with_reducible assumption | with_reducible apply bump_kept | with_reducible apply sendOwn_kept

theorem setPub_kept {o s : State} {a1 a2} (h : Kept o s) : Kept o (setPub s a1 a2) := by
  unfold setPub
  repeat' first | with_reducible assumption | (fail_if_no_progress with_reducible refine Kept.lit rfl rfl rfl rfl rfl rfl rfl rfl rfl rfl rfl rfl ?_)

theorem stateChange_kept {o s : State} {a1 a2 a3 a4 a5} (h : Kept o s) : Kept o (stateChange s a1 a2 a3 a4 a5) := by
  unfold stateChange
  repeat' first | with_reducible assumption | with_reducible apply sendGoose_kept | with_reducible apply setPub_kept

theorem retransmit_kept {o s : State} {a1 a2 a3} (h : Kept o s) : Kept o (retransmit s a1 a2 a3) := by
  unfold retransmit
  try dsimp only
  repeat' first | with_reducible assumption | with_reducible apply sendGoose_kept | with_reducible apply setPub_kept | (with_reducible refine Kept.fst (by with_reducible assumption) ?_) | with_reducible apply KeptP.fst | with_reducible apply KeptC.s_kept | (intro _ _ _ _) | with_reducible apply Kept.ite

theorem gooseFrames_kept {o s : State} {a1 a2 a3 a4} (h : Kept o s) : Kept o (gooseFrames s a1 a2 a3 a4) := by
  unfold gooseFrames
  try dsimp only
  repeat' first | with_reducible assumption | with_reducible apply retransmit_kept | with_reducible apply stateChange_kept | (with_reducible apply Kept.foldl; intro _ _ _) | split

theorem setCup_kept {o s : State} {a1 a2} (h : Kept o s) : Kept o (setCup s a1 a2) := by
  unfold setCup
  repeat' first | with_reducible assumption | (fail_if_no_progress with_reducible refine Kept.lit rfl rfl rfl rfl rfl rfl rfl rfl rfl rfl rfl rfl ?_)

theorem modCup_kept {o s : State} {a1 a2} (h : Kept o s) : Kept o (modCup s a1 a2) := by
  unfold modCup
  repeat' first | with_reducible assumption | with_reducible apply setCup_kept | split

theorem modRec_kept {o s : State} {a1 a2} (h : Kept o s) : Kept o (modRec s a1 a2) := by
  unfold modRec
  repeat' first | with_reducible assumption | (fail_if_no_progress with_reducible refine Kept.lit rfl rfl rfl rfl rfl rfl rfl rfl rfl rfl rfl rfl ?_)

theorem cupStat_kept {o s : State} (h : Kept o s) : Kept o (cupStat s) := by
  unfold cupStat
  repeat' first | with_reducible assumption | with_reducible apply flagSet_kept | with_reducible apply fldSet_kept | with_reducible apply regSet_kept

theorem cupBayStat_kept {o s : State} {a1} (h : Kept o s) : Kept o (cupBayStat s a1) := by
  unfold cupBayStat
  repeat' first | with_reducible assumption | with_reducible apply regSet_kept | split

theorem dropTrig_kept {o s : State} {a1 a2} (h : Kept o s) : Kept o (dropTrig s a1 a2) := by
  unfold dropTrig
  try dsimp only
  repeat' first | with_reducible assumption | with_reducible apply bump_kept | with_reducible apply complete_kept | with_reducible apply raise_kept | with_reducible apply setCup_kept | (with_reducible apply Kept.foldl; intro _ _ _) | split

theorem freeRec_kept {o s : State} {a1} (h : Kept o s) : Kept o (freeRec s a1) := by
  unfold freeRec
  repeat' first | with_reducible assumption | with_reducible apply cupStat_kept | with_reducible apply flagSet_kept | (fail_if_no_progress with_reducible refine Kept.lit rfl rfl rfl rfl rfl rfl rfl rfl rfl rfl rfl rfl ?_)

theorem overwriteFor_kept {o s : State} {a0 a1} (h : Kept o s) : Kept o (overwriteFor a0 a1 s) := by
  induction a1 generalizing s a0 with
  | nil =>
    unfold overwriteFor
    try dsimp only
    repeat' first | with_reducible assumption
  | cons x xs ih =>
    unfold overwriteFor
    try dsimp only
    repeat' first | with_reducible assumption | with_reducible apply bump_kept | with_reducible apply freeRec_kept | with_reducible apply raise_kept | with_reducible apply ih | (with_reducible refine Kept.fst (by with_reducible assumption) ?_) | with_reducible apply KeptP.fst | with_reducible apply KeptC.s_kept | (intro _ _ _ _) | with_reducible apply Kept.ite

theorem makeRoom_kept {o s : State} {a1} (h : Kept o s) : KeptP o (makeRoom s a1) := by
  unfold makeRoom
  try dsimp only
  repeat' first | with_reducible assumption | with_reducible apply cupStat_kept | with_reducible apply flagSet_kept | with_reducible apply overwriteFor_kept | with_reducible apply raise_kept | split | with_reducible apply KeptP.pair

theorem announceRec_kept {o s : State} {a1} (h : Kept o s) : Kept o (announceRec s a1) := by
  unfold announceRec
  repeat' first | with_reducible assumption | with_reducible apply complete_kept | with_reducible apply modRec_kept | with_reducible apply raise_kept | with_reducible apply sendXtrig_kept | (with_reducible apply Kept.foldl; intro _ _ _) | split

theorem openRec_kept {o s : State} {a1 a2} (h : Kept o s) : Kept o (openRec s a1 a2) := by
  unfold openRec
  try dsimp only
  repeat' first | with_reducible assumption | with_reducible apply announceRec_kept | with_reducible apply cupBayStat_kept | with_reducible apply cupStat_kept | with_reducible apply dropTrig_kept | with_reducible apply makeRoom_kept | with_reducible apply modCup_kept | with_reducible apply regSet_kept | with_reducible apply KeptP.fst | (fail_if_no_progress with_reducible refine Kept.lit rfl rfl rfl rfl rfl rfl rfl rfl rfl rfl rfl rfl ?_) | split

theorem extendRec_kept {o s : State} {a1 a2 a3 a4} (h : Kept o s) : Kept o (extendRec s a1 a2 a3 a4) := by
  unfold extendRec
  repeat' first | with_reducible assumption | with_reducible apply complete_kept | with_reducible apply modRec_kept | (with_reducible apply Kept.foldl; intro _ _ _) | split

theorem fireAt_kept {o s : State} {a1 a2} (h : Kept o s) : Kept o (fireAt s a1 a2) := by
  unfold fireAt
  repeat' first | with_reducible assumption | with_reducible apply cupBayStat_kept | with_reducible apply dropTrig_kept | with_reducible apply extendRec_kept | with_reducible apply openRec_kept | with_reducible apply setCup_kept | split

theorem clearRing_kept {o s : State} {a1} (h : Kept o s) : Kept o (clearRing s a1) := by
  unfold clearRing
  repeat' first | with_reducible assumption | with_reducible apply modCup_kept

theorem refineRec_kept {o s : State} {a1} (h : Kept o s) : Kept o (refineRec s a1) := by
  unfold refineRec
  repeat' first | with_reducible assumption | with_reducible apply announceRec_kept | with_reducible apply cupStat_kept | with_reducible apply modRec_kept | split

theorem cutCup_kept {o s : State} {a1 a2} (h : Kept o s) : Kept o (cutCup s a1 a2) := by
  unfold cutCup
  try dsimp only
  repeat' first | with_reducible assumption | with_reducible apply dropTrig_kept | with_reducible apply refineRec_kept | with_reducible apply setCup_kept | (with_reducible refine Kept.fst (by with_reducible assumption) ?_) | with_reducible apply KeptP.fst | with_reducible apply KeptC.s_kept | (with_reducible apply Kept.foldl; intro _ _ _) | (intro _ _ _ _) | with_reducible apply Kept.ite | (fail_if_no_progress with_reducible refine Kept.lit rfl rfl rfl rfl rfl rfl rfl rfl rfl rfl rfl rfl ?_) | split

theorem abortForced_kept {o s : State} {a1} (h : Kept o s) : Kept o (abortForced s a1) := by
  unfold abortForced
  try dsimp only
  repeat' first | with_reducible assumption | with_reducible apply complete_kept | with_reducible apply setCup_kept | (with_reducible refine Kept.fst (by with_reducible assumption) ?_) | with_reducible apply KeptP.fst | with_reducible apply KeptC.s_kept | (with_reducible apply Kept.foldl; intro _ _ _) | (intro _ _ _ _) | with_reducible apply Kept.ite | (fail_if_no_progress with_reducible refine Kept.lit rfl rfl rfl rfl rfl rfl rfl rfl rfl rfl rfl rfl ?_) | split

theorem cupStopped_kept {o s : State} {a1} (h : Kept o s) : Kept o (cupStopped s a1) := by
  unfold cupStopped
  try dsimp only
  repeat' first | with_reducible assumption | with_reducible apply abortForced_kept | with_reducible apply clearRing_kept | with_reducible apply cupBayStat_kept | with_reducible apply cupStat_kept | with_reducible apply cutCup_kept

theorem takeLine_kept {o s : State} {a1 a2} (h : Kept o s) : Kept o (takeLine s a1 a2) := by
  unfold takeLine
  try dsimp only
  repeat' first | with_reducible assumption | with_reducible apply bumpBy_kept | with_reducible apply bumpFree_kept | with_reducible apply cupStopped_kept | with_reducible apply fireAt_kept | with_reducible apply setCup_kept | (with_reducible refine Kept.fst (by with_reducible assumption) ?_) | with_reducible apply KeptP.fst | with_reducible apply KeptC.s_kept | (intro _ _ _ _) | with_reducible apply Kept.ite | (fail_if_no_progress with_reducible refine Kept.lit rfl rfl rfl rfl rfl rfl rfl rfl rfl rfl rfl rfl ?_) | split

theorem recordLine_kept {o s : State} {a1} (h : Kept o s) : Kept o (recordLine s a1) := by
  unfold recordLine
  try dsimp only
  repeat' first | with_reducible assumption | with_reducible apply cupStopped_kept | with_reducible apply setCup_kept | with_reducible apply takeLine_kept | (with_reducible refine Kept.fst (by with_reducible assumption) ?_) | with_reducible apply KeptP.fst | with_reducible apply KeptC.s_kept | (intro _ _ _ _) | with_reducible apply Kept.ite | (fail_if_no_progress with_reducible refine Kept.lit rfl rfl rfl rfl rfl rfl rfl rfl rfl rfl rfl rfl ?_) | split

theorem drainLines_kept {o s : State} {a1} (h : Kept o s) : Kept o (drainLines s a1) := by
  unfold drainLines
  try dsimp only
  repeat' first | with_reducible assumption | with_reducible apply recordLine_kept | (with_reducible refine Kept.fst (by with_reducible assumption) ?_) | with_reducible apply KeptP.fst | with_reducible apply KeptC.s_kept | (with_reducible apply Kept.foldl; intro _ _ _)

theorem startCup_kept {o s : State} {a1 a2} (h : Kept o s) : Kept o (startCup s a1 a2) := by
  unfold startCup
  try dsimp only
  repeat' first | with_reducible assumption | with_reducible apply drainLines_kept | with_reducible apply modCup_kept

theorem setGrp_kept {o s : State} {a1 a2} (h : Kept o s) : Kept o (setGrp s a1 a2) := by
  unfold setGrp
  repeat' first | with_reducible assumption | (fail_if_no_progress with_reducible refine Kept.lit rfl rfl rfl rfl rfl rfl rfl rfl rfl rfl rfl rfl ?_)

theorem modGrp_kept {o s : State} {a1 a2} (h : Kept o s) : Kept o (modGrp s a1 a2) := by
  unfold modGrp
  repeat' first | with_reducible assumption | with_reducible apply setGrp_kept

theorem modClu_kept {o s : State} {a1 a2} (h : Kept o s) : Kept o (modClu s a1 a2) := by
  unfold modClu
  repeat' first | with_reducible assumption | (fail_if_no_progress with_reducible refine Kept.lit rfl rfl rfl rfl rfl rfl rfl rfl rfl rfl rfl rfl ?_)

theorem showSpares_kept {o s : State} (h : Kept o s) : Kept o (showSpares s) := by
  unfold showSpares
  repeat' first | with_reducible assumption | with_reducible apply flagSet_kept | with_reducible apply fldSet_kept | with_reducible apply raise_kept | with_reducible apply regSet_kept | with_reducible apply setCause_kept | (with_reducible apply Kept.foldl; intro _ _ _) | split

theorem showBay_kept {o s : State} {a1} (h : Kept o s) : Kept o (showBay s a1) := by
  unfold showBay
  repeat' first | with_reducible assumption | with_reducible apply regSet_kept | split

theorem showRunning_kept {o s : State} (h : Kept o s) : Kept o (showRunning s) := by
  unfold showRunning
  repeat' first | with_reducible assumption | with_reducible apply fldSet_kept | with_reducible apply regSet_kept | (with_reducible apply Kept.foldl; intro _ _ _)

theorem showLks_kept {o s : State} (h : Kept o s) : Kept o (showLks s) := by
  unfold showLks
  repeat' first | with_reducible assumption | with_reducible apply fldSet_kept | with_reducible apply regSet_kept | (with_reducible apply Kept.foldl; intro _ _ _)

theorem modMig_kept {o s : State} {a1 a2} (h : Kept o s) : Kept o (modMig s a1 a2) := by
  unfold modMig
  repeat' first | with_reducible assumption | (fail_if_no_progress with_reducible refine Kept.lit rfl rfl rfl rfl rfl rfl rfl rfl rfl rfl rfl rfl ?_)

theorem showMig_kept {o s : State} {a1 a2 a3} (h : Kept o s) : Kept o (showMig s a1 a2 a3) := by
  unfold showMig
  repeat' first | with_reducible assumption | with_reducible apply flagSet_kept | with_reducible apply regSet_kept

theorem showNoSpare_kept {o s : State} (h : Kept o s) : Kept o (showNoSpare s) := by
  unfold showNoSpare
  repeat' first | with_reducible assumption | with_reducible apply flagSet_kept

theorem stopTest_kept {o s : State} {a1} (h : Kept o s) : Kept o (stopTest s a1) := by
  unfold stopTest
  repeat' first | with_reducible assumption | with_reducible apply flagSet_kept | with_reducible apply fldSet_kept | (fail_if_no_progress with_reducible refine Kept.lit rfl rfl rfl rfl rfl rfl rfl rfl rfl rfl rfl rfl ?_) | split

theorem endMig_kept {o s : State} {a1 a2} (h : Kept o s) : Kept o (endMig s a1 a2) := by
  unfold endMig
  try dsimp only
  repeat' first | with_reducible assumption | (with_reducible refine Kept.fst (by with_reducible assumption) ?_) | with_reducible apply KeptP.fst | with_reducible apply KeptC.s_kept | (intro _ _ _ _) | with_reducible apply Kept.ite | (fail_if_no_progress with_reducible refine Kept.lit rfl rfl rfl rfl rfl rfl rfl rfl rfl rfl rfl rfl ?_)

theorem dropMig_kept {o s : State} {a1} (h : Kept o s) : Kept o (dropMig s a1) := by
  unfold dropMig
  try dsimp only
  repeat' first | with_reducible assumption | with_reducible apply complete_kept | with_reducible apply endMig_kept | with_reducible apply showBay_kept | with_reducible apply showMig_kept | with_reducible apply showNoSpare_kept | (with_reducible refine Kept.fst (by with_reducible assumption) ?_) | with_reducible apply KeptP.fst | with_reducible apply KeptC.s_kept | (intro _ _ _ _) | with_reducible apply Kept.ite | (fail_if_no_progress with_reducible refine Kept.lit rfl rfl rfl rfl rfl rfl rfl rfl rfl rfl rfl rfl ?_) | split

theorem cancelMigs_kept {o s : State} {a1} (h : Kept o s) : Kept o (cancelMigs s a1) := by
  unfold cancelMigs
  try dsimp only
  repeat' first | with_reducible assumption | with_reducible apply dropMig_kept | (with_reducible refine Kept.fst (by with_reducible assumption) ?_) | with_reducible apply KeptP.fst | with_reducible apply KeptC.s_kept | (intro _ _ _ _) | with_reducible apply Kept.ite | (fail_if_no_progress with_reducible refine Kept.lit rfl rfl rfl rfl rfl rfl rfl rfl rfl rfl rfl rfl ?_) | split

theorem startMig_kept {o s : State} (h : Kept o s) : Kept o (startMig s) := by
  unfold startMig
  try dsimp only
  repeat' first | with_reducible assumption | with_reducible apply complete_kept | with_reducible apply dropMig_kept | with_reducible apply endMig_kept | with_reducible apply modMig_kept | with_reducible apply raise_kept | with_reducible apply showBay_kept | with_reducible apply showMig_kept | with_reducible apply showNoSpare_kept | with_reducible apply stopTest_kept | (with_reducible refine Kept.fst (by with_reducible assumption) ?_) | with_reducible apply KeptP.fst | with_reducible apply KeptC.s_kept | (intro _ _ _ _) | with_reducible apply Kept.ite | (fail_if_no_progress with_reducible refine Kept.lit rfl rfl rfl rfl rfl rfl rfl rfl rfl rfl rfl rfl ?_) | split

theorem askMig_kept {o s : State} {a1} (h : Kept o s) : Kept o (askMig s a1) := by
  unfold askMig
  repeat' first | with_reducible assumption | with_reducible apply dropMig_kept | (fail_if_no_progress with_reducible refine Kept.lit rfl rfl rfl rfl rfl rfl rfl rfl rfl rfl rfl rfl ?_) | split

theorem takeBoundary_kept {o s : State} {a1} (h : Kept o s) : Kept o (takeBoundary s a1) := by
  unfold takeBoundary
  repeat' first | with_reducible assumption | with_reducible apply modMig_kept | with_reducible apply showMig_kept | split

theorem leaveGroup_kept {o s : State} {a1 a2} (h : Kept o s) : Kept o (leaveGroup s a1 a2) := by
  unfold leaveGroup
  repeat' first | with_reducible assumption | with_reducible apply complete_kept | with_reducible apply modGrp_kept | split

theorem redirect_kept {o s : State} {a1 a2} (h : Kept o s) : Kept o (redirect s a1 a2) := by
  unfold redirect
  try dsimp only
  repeat' first | with_reducible assumption | with_reducible apply bump_kept | with_reducible apply complete_kept | with_reducible apply endMig_kept | with_reducible apply flagSet_kept | with_reducible apply fldSet_kept | with_reducible apply leaveGroup_kept | with_reducible apply raise_kept | with_reducible apply setBay_kept | with_reducible apply showBay_kept | with_reducible apply showLks_kept | with_reducible apply showMig_kept | with_reducible apply showNoSpare_kept | with_reducible apply showSpares_kept | (with_reducible refine Kept.fst (by with_reducible assumption) ?_) | with_reducible apply KeptP.fst | with_reducible apply KeptC.s_kept | (intro _ _ _ _) | with_reducible apply Kept.ite | (fail_if_no_progress with_reducible refine Kept.lit rfl rfl rfl rfl rfl rfl rfl rfl rfl rfl rfl rfl ?_) | split

theorem rotSkip_kept {o s : State} (h : Kept o s) : Kept o (rotSkip s) := by
  unfold rotSkip
  repeat' first | with_reducible assumption | with_reducible apply bumpFld_kept

theorem rotPick_kept {o s : State} {a0 a2} (h : Kept o s) : KeptP o (rotPick a0 s a2) := by
  induction a0 generalizing s a2 with
  | zero =>
    unfold rotPick
    try dsimp only
    repeat' first | with_reducible assumption | with_reducible apply rotSkip_kept | (with_reducible refine Kept.fst (by with_reducible assumption) ?_) | with_reducible apply KeptP.fst | with_reducible apply KeptC.s_kept | (intro _ _ _ _) | with_reducible apply Kept.ite | with_reducible apply KeptP.ite | (fail_if_no_progress with_reducible refine Kept.lit rfl rfl rfl rfl rfl rfl rfl rfl rfl rfl rfl rfl ?_) | split | with_reducible apply KeptP.pair
  | succ n ih =>
    unfold rotPick
    try dsimp only
    repeat' first | with_reducible assumption | with_reducible apply rotSkip_kept | with_reducible apply ih | (with_reducible refine Kept.fst (by with_reducible assumption) ?_) | with_reducible apply KeptP.fst | with_reducible apply KeptC.s_kept | (intro _ _ _ _) | with_reducible apply Kept.ite | with_reducible apply KeptP.ite | (fail_if_no_progress with_reducible refine Kept.lit rfl rfl rfl rfl rfl rfl rfl rfl rfl rfl rfl rfl ?_) | split | with_reducible apply KeptP.pair

theorem rotStart_kept {o s : State} {a1 a2} (h : Kept o s) : Kept o (rotStart s a1 a2) := by
  unfold rotStart
  repeat' first | with_reducible assumption | with_reducible apply flagSet_kept | with_reducible apply fldSet_kept | with_reducible apply rotSkip_kept | with_reducible apply startMig_kept | (fail_if_no_progress with_reducible refine Kept.lit rfl rfl rfl rfl rfl rfl rfl rfl rfl rfl rfl rfl ?_) | split

theorem rotNextStep_kept {o s : State} {a1} (h : Kept o s) : Kept o (rotNextStep s a1) := by
  unfold rotNextStep
  repeat' first | with_reducible assumption | with_reducible apply fldSet_kept | with_reducible apply rotPick_kept | with_reducible apply rotStart_kept | (with_reducible refine Kept.fst (by with_reducible assumption) ?_) | split

theorem rotExtra_kept {o s t : State} {g} (h : Kept o s) (k : Kept o t) : Kept o (rotExtra s t g) := by
  unfold rotExtra
  repeat' first | with_reducible assumption | with_reducible apply rotStart_kept | split

theorem tryRot_kept {o s : State} (h : Kept o s) : Kept o (tryRot s) := by
  unfold tryRot
  try dsimp only
  repeat' first | with_reducible assumption | with_reducible apply rotExtra_kept | with_reducible apply rotNextStep_kept | (with_reducible refine Kept.fst (by with_reducible assumption) ?_) | with_reducible apply KeptP.fst | with_reducible apply KeptC.s_kept | (intro _ _ _ _) | with_reducible apply Kept.ite | (fail_if_no_progress with_reducible refine Kept.lit rfl rfl rfl rfl rfl rfl rfl rfl rfl rfl rfl rfl ?_) | split

theorem cfgKick_kept {o s : State} (h : Kept o s) : Kept o (cfgKick s) := by
  unfold cfgKick
  repeat' first | with_reducible assumption | with_reducible apply startMig_kept | with_reducible apply tryRot_kept

theorem failCell_kept {o s : State} {a1} (h : Kept o s) : Kept o (failCell s a1) := by
  unfold failCell
  repeat' first | with_reducible assumption | with_reducible apply flagSet_kept | with_reducible apply raise_kept | (fail_if_no_progress with_reducible refine Kept.lit rfl rfl rfl rfl rfl rfl rfl rfl rfl rfl rfl rfl ?_) | split

theorem testDone_kept {o s : State} {a1 a2 a3} (h : Kept o s) : Kept o (testDone s a1 a2 a3) := by
  unfold testDone
  repeat' first | with_reducible assumption | with_reducible apply cfgKick_kept | with_reducible apply failCell_kept | with_reducible apply flagSet_kept | with_reducible apply fldSet_kept | with_reducible apply modGrp_kept | with_reducible apply showSpares_kept | (with_reducible apply Kept.foldl; intro _ _ _) | (fail_if_no_progress with_reducible refine Kept.lit rfl rfl rfl rfl rfl rfl rfl rfl rfl rfl rfl rfl ?_) | split

theorem showClu_kept {o s : State} {a1} (h : Kept o s) : Kept o (showClu s a1) := by
  unfold showClu
  repeat' first | with_reducible assumption | with_reducible apply regSet_kept

theorem correctedError_kept {o s : State} {a1 a2} (h : Kept o s) : Kept o (correctedError s a1 a2) := by
  unfold correctedError
  try dsimp only
  repeat' first | with_reducible assumption | with_reducible apply flagSet_kept | with_reducible apply modClu_kept | with_reducible apply raise_kept | with_reducible apply setCause_kept | with_reducible apply showClu_kept | (fail_if_no_progress with_reducible refine Kept.lit rfl rfl rfl rfl rfl rfl rfl rfl rfl rfl rfl rfl ?_) | split

theorem countUe_kept {o s : State} {a1} (h : Kept o s) : Kept o (countUe s a1) := by
  unfold countUe
  repeat' first | with_reducible assumption | with_reducible apply askMig_kept | with_reducible apply cfgKick_kept | with_reducible apply modClu_kept | with_reducible apply raise_kept | with_reducible apply showClu_kept | with_reducible apply showSpares_kept | (with_reducible apply Kept.foldl; intro _ _ _) | split

theorem mirShow_kept {o s : State} (h : Kept o s) : Kept o (mirShow s) := by
  unfold mirShow
  repeat' first | with_reducible assumption | with_reducible apply flagSet_kept | with_reducible apply fldSet_kept | with_reducible apply regSet_kept | (with_reducible apply Kept.foldl; intro _ _ _) | split

theorem setMir_kept {o s : State} {a1} (h : Kept o s) : Kept o (setMir s a1) := by
  unfold setMir
  repeat' first | with_reducible assumption | with_reducible apply mirShow_kept | (fail_if_no_progress with_reducible refine Kept.lit rfl rfl rfl rfl rfl rfl rfl rfl rfl rfl rfl rfl ?_)

theorem linkSend_kept {o s : State} {a1 a2 a3 a4} (h : Kept o s) : Kept o (linkSend s a1 a2 a3 a4) := by
  unfold linkSend
  try dsimp only
  repeat' first | with_reducible assumption | with_reducible apply drainLane_kept | (with_reducible refine Kept.fst (by with_reducible assumption) ?_) | with_reducible apply KeptP.fst | with_reducible apply KeptC.s_kept | (with_reducible apply Kept.foldl; intro _ _ _) | (intro _ _ _ _) | with_reducible apply Kept.ite | (fail_if_no_progress with_reducible refine Kept.lit rfl rfl rfl rfl rfl rfl rfl rfl rfl rfl rfl rfl ?_)

theorem linkEvent_kept {o s : State} {a1 a2 a3 a4} (h : Kept o s) : Kept o (linkEvent s a1 a2 a3 a4) := by
  unfold linkEvent
  repeat' first | with_reducible assumption | with_reducible apply linkSend_kept

theorem forward_kept {o s : State} {a1 a2 a3 a4} (h : Kept o s) : Kept o (forward s a1 a2 a3 a4) := by
  unfold forward
  repeat' first | with_reducible assumption | with_reducible apply linkEvent_kept | split

theorem recordShadow_kept {o s : State} {a1 a2} (h : Kept o s) : Kept o (recordShadow s a1 a2) := by
  unfold recordShadow
  repeat' first | with_reducible assumption | (fail_if_no_progress with_reducible refine Kept.lit rfl rfl rfl rfl rfl rfl rfl rfl rfl rfl rfl rfl ?_) | split

theorem sendParts_kept {o s : State} {a1 a2} (h : Kept o s) : Kept o (sendParts s a1 a2) := by
  unfold sendParts
  repeat' first | with_reducible assumption | with_reducible apply linkSend_kept | (with_reducible apply Kept.foldl; intro _ _ _)

theorem sendBayState_kept {o s : State} {a1 a2 a3} (h : Kept o s) : Kept o (sendBayState s a1 a2 a3) := by
  unfold sendBayState
  repeat' first | with_reducible assumption | with_reducible apply bump_kept | with_reducible apply sendParts_kept | with_reducible apply setMir_kept | split

theorem svShow_kept {o s : State} {a1} (h : Kept o s) : Kept o (svShow s a1) := by
  unfold svShow
  repeat' first | with_reducible assumption | with_reducible apply fldSet_kept | with_reducible apply regSet_kept

theorem setStrm_kept {o s : State} {a1 a2} (h : Kept o s) : Kept o (setStrm s a1 a2) := by
  unfold setStrm
  repeat' first | with_reducible assumption | with_reducible apply svShow_kept | (fail_if_no_progress with_reducible refine Kept.lit rfl rfl rfl rfl rfl rfl rfl rfl rfl rfl rfl rfl ?_)

theorem svCount_kept {o s : State} {a1 a2} (h : Kept o s) : Kept o (svCount s a1 a2) := by
  unfold svCount
  repeat' first | with_reducible assumption | (fail_if_no_progress with_reducible refine Kept.lit rfl rfl rfl rfl rfl rfl rfl rfl rfl rfl rfl rfl ?_)

theorem setSrc_kept {o s : State} {a1 a2 a3} (h : Kept o s) : Kept o (setSrc s a1 a2 a3) := by
  unfold setSrc
  repeat' first | with_reducible assumption | with_reducible apply modBay_kept

theorem fallbackOn_kept {o s : State} {a1} (h : Kept o s) : Kept o (fallbackOn s a1) := by
  unfold fallbackOn
  try dsimp only
  repeat' first | with_reducible assumption | with_reducible apply beginSwitch_kept | with_reducible apply raise_kept | with_reducible apply setSrc_kept | (with_reducible refine Kept.fst (by with_reducible assumption) ?_) | with_reducible apply KeptP.fst | with_reducible apply KeptC.s_kept | (with_reducible apply Kept.foldl; intro _ _ _) | (intro _ _ _ _) | with_reducible apply Kept.ite

theorem svEnter_kept {o s : State} {a1 a2 a3} (h : Kept o s) : Kept o (svEnter s a1 a2 a3) := by
  unfold svEnter
  try dsimp only
  repeat' first | with_reducible assumption | with_reducible apply fallbackOn_kept | with_reducible apply raise_kept | with_reducible apply setStrm_kept | with_reducible apply svShow_kept | split

theorem svWrite_kept {o s : State} {a1 a2 a3} (h : Kept o s) : Kept o (svWrite s a1 a2 a3) := by
  unfold svWrite
  try dsimp only
  repeat' first | with_reducible assumption | with_reducible apply beginSwitch_kept | with_reducible apply raise_kept | with_reducible apply setSrc_kept | with_reducible apply stageNew_kept | with_reducible apply stageOld_kept | with_reducible apply svShow_kept | (with_reducible refine Kept.fst (by with_reducible assumption) ?_) | with_reducible apply KeptP.fst | with_reducible apply KeptC.s_kept | (with_reducible apply Kept.foldl; intro _ _ _) | (intro _ _ _ _) | with_reducible apply Kept.ite

theorem svConsume_kept {o s : State} {a1 a2 a3} (h : Kept o s) : Kept o (svConsume s a1 a2 a3) := by
  unfold svConsume
  repeat' first | with_reducible assumption | with_reducible apply setStrm_kept | with_reducible apply svWrite_kept

theorem svReceived_kept {o s : State} {a1 a2} (h : Kept o s) : Kept o (svReceived s a1 a2) := by
  unfold svReceived
  repeat' first | with_reducible assumption | with_reducible apply bumpBy_kept | with_reducible apply setStrm_kept | with_reducible apply svConsume_kept

theorem svDispatch_kept {o s : State} {a0 a2} (h : Kept o s) : Kept o (svDispatch a0 s a2) := by
  induction a0 generalizing s a2 with
  | zero =>
    unfold svDispatch
    try dsimp only
    repeat' first | with_reducible assumption
  | succ n ih =>
    unfold svDispatch
    try dsimp only
    repeat' first | with_reducible assumption | with_reducible apply svReceived_kept | with_reducible apply ih | (with_reducible refine Kept.fst (by with_reducible assumption) ?_) | with_reducible apply KeptP.fst | with_reducible apply KeptC.s_kept | (intro _ _ _ _) | with_reducible apply Kept.ite | (fail_if_no_progress with_reducible refine Kept.lit rfl rfl rfl rfl rfl rfl rfl rfl rfl rfl rfl rfl ?_) | split

theorem svFill_kept {o s : State} {a0 a1 a2 a4} (h : Kept o s) : Kept o (svFill a0 a1 a2 s a4) := by
  induction a2 generalizing s a0 a1 a4 with
  | zero =>
    unfold svFill
    try dsimp only
    repeat' first | with_reducible assumption
  | succ n ih =>
    unfold svFill
    try dsimp only
    repeat' first | with_reducible assumption | with_reducible apply svConsume_kept | with_reducible apply svCount_kept | with_reducible apply ih | (with_reducible refine Kept.fst (by with_reducible assumption) ?_) | with_reducible apply KeptP.fst | with_reducible apply KeptC.s_kept | (intro _ _ _ _) | with_reducible apply Kept.ite

theorem svMiss_kept {o s : State} {a1} (h : Kept o s) : Kept o (svMiss s a1) := by
  unfold svMiss
  repeat' first | with_reducible assumption | with_reducible apply setStrm_kept | with_reducible apply svConsume_kept | with_reducible apply svCount_kept | with_reducible apply svDispatch_kept | with_reducible apply svEnter_kept | split

theorem ddLookup_kept {o s : State} {a1 a2 a3} (h : Kept o s) : KeptP o (ddLookup s a1 a2 a3) := by
  unfold ddLookup
  try dsimp only
  repeat' first | with_reducible assumption | with_reducible apply bump_kept | (fail_if_no_progress with_reducible refine Kept.lit rfl rfl rfl rfl rfl rfl rfl rfl rfl rfl rfl rfl ?_) | split | with_reducible apply KeptP.pair

theorem svStage_kept {o s : State} {a1 a2} (h : Kept o s) : Kept o (svStage s a1 a2) := by
  unfold svStage
  try dsimp only
  repeat' first | with_reducible assumption | with_reducible apply setStrm_kept | with_reducible apply svCount_kept | split

theorem svFrameState_kept {o s : State} {a1 a2 a3 a4 a5 a6} (h : Kept o s) : Kept o (svFrameState s a1 a2 a3 a4 a5 a6) := by
  unfold svFrameState
  try dsimp only
  repeat' first | with_reducible assumption | with_reducible apply setStrm_kept | with_reducible apply svEnter_kept | split

end Sys2Proof.Machine
end

