-- ==== Sys2Proof/Laws/KeptBays.lean ====
section
/-! SUPPORT. That every step keeps the invariant, the lasting facts and the queue: bays, lockstep, metering and modes. Each lemma is read from its definition; what it calls is cited, not unfolded. -/

set_option linter.unusedTactic false
set_option linter.unreachableTactic false

namespace Sys2Proof.Machine

theorem dtoStep_kept {o s : State} {a1} (h : Kept o s) : Kept o (dtoStep s a1) := by
  unfold dtoStep
  repeat' first | with_reducible assumption | (fail_if_no_progress with_reducible refine Kept.lit rfl rfl rfl rfl rfl rfl rfl rfl rfl rfl rfl rfl ?_)

theorem dtoShow_kept {o s : State} (h : Kept o s) : Kept o (dtoShow s) := by
  unfold dtoShow
  repeat' first | with_reducible assumption | with_reducible apply fldSet_kept

theorem dtoAll_kept {o s : State} (h : Kept o s) : Kept o (dtoAll s) := by
  unfold dtoAll
  try dsimp only
  repeat' first | with_reducible assumption | with_reducible apply dtoShow_kept | with_reducible apply dtoStep_kept | (with_reducible apply Kept.foldl; intro _ _ _) | split

theorem setReqs_kept {o s : State} {a1 a2} (h : Kept o s) : Kept o (setReqs s a1 a2) := by
  unfold setReqs
  repeat' first | with_reducible assumption | (fail_if_no_progress with_reducible refine Kept.lit rfl rfl rfl rfl rfl rfl rfl rfl rfl rfl rfl rfl ?_)

theorem addReq_kept {o s : State} {a1 a2} (h : Kept o s) : Kept o (addReq s a1 a2) := by
  unfold addReq
  repeat' first | with_reducible assumption | with_reducible apply setReqs_kept

theorem switchOne_kept {o s : State} {a1 a2 a3 a4} (h : Kept o s) : KeptP o (switchOne s a1 a2 a3 a4) := by
  unfold switchOne
  repeat' first | with_reducible assumption | with_reducible apply raise_kept | split | with_reducible apply KeptP.pair

theorem switchesDue_kept {o s : State} {a1 a2} (h : Kept o s) : Kept o (switchesDue s a1 a2) := by
  unfold switchesDue
  repeat' first | with_reducible assumption | with_reducible apply setReqs_kept | with_reducible apply switchOne_kept | with_reducible apply KeptP.fst | (with_reducible apply KeptP.foldl; intro _ _ _) | split | with_reducible apply KeptP.pair

theorem resetsDue_kept {o s : State} {a1 a2} (h : Kept o s) : Kept o (resetsDue s a1 a2) := by
  unfold resetsDue
  try dsimp only
  repeat' first | with_reducible assumption | with_reducible apply raise_kept | with_reducible apply setBay_kept | with_reducible apply setReqs_kept | with_reducible apply showRunning_kept | split

theorem startBay_kept {o s : State} {a1 a2} (h : Kept o s) : Kept o (startBay s a1 a2) := by
  unfold startBay
  try dsimp only
  repeat' first | with_reducible assumption | with_reducible apply cupBayStat_kept | with_reducible apply dtoAll_kept | with_reducible apply mirShow_kept | with_reducible apply raise_kept | with_reducible apply setBay_kept | with_reducible apply showBay_kept | with_reducible apply showRunning_kept | with_reducible apply startCup_kept | (fail_if_no_progress with_reducible refine Kept.lit rfl rfl rfl rfl rfl rfl rfl rfl rfl rfl rfl rfl ?_) | split

theorem showOut_kept {o s : State} {a1 a2} (h : Kept o s) : Kept o (showOut s a1 a2) := by
  unfold showOut
  repeat' first | with_reducible assumption | with_reducible apply regSet_kept

theorem handOff_kept {o s : State} {a1 a2 a3 a4 a5} (h : Kept o s) : Kept o (handOff s a1 a2 a3 a4 a5) := by
  unfold handOff
  repeat' first | with_reducible assumption | with_reducible apply gooseFrames_kept | with_reducible apply showOut_kept | with_reducible apply tripFrames_kept

theorem queueLine_kept {o s : State} {a1 a2} (h : Kept o s) : Kept o (queueLine s a1 a2) := by
  unfold queueLine
  repeat' first | with_reducible assumption | with_reducible apply modCup_kept

theorem stopBay_kept {o s : State} {a1 a2} (h : Kept o s) : Kept o (stopBay s a1 a2) := by
  unfold stopBay
  try dsimp only
  repeat' first | with_reducible assumption | with_reducible apply cancelMigs_kept | with_reducible apply cfgKick_kept | with_reducible apply dtoAll_kept | with_reducible apply handOff_kept | with_reducible apply mirShow_kept | with_reducible apply queueLine_kept | with_reducible apply raise_kept | with_reducible apply resetsDue_kept | with_reducible apply setBay_kept | with_reducible apply setReqs_kept | with_reducible apply showBay_kept | with_reducible apply showLks_kept | with_reducible apply showRunning_kept | (with_reducible refine Kept.fst (by with_reducible assumption) ?_) | with_reducible apply KeptP.fst | with_reducible apply KeptC.s_kept | (intro _ _ _ _) | with_reducible apply Kept.ite | (fail_if_no_progress with_reducible refine Kept.lit rfl rfl rfl rfl rfl rfl rfl rfl rfl rfl rfl rfl ?_) | split

theorem applyReload_kept {o s : State} {a1 a2} (h : Kept o s) : Kept o (applyReload s a1 a2) := by
  unfold applyReload
  try dsimp only
  repeat' first | with_reducible assumption | with_reducible apply raise_kept | with_reducible apply setBay_kept | with_reducible apply setReqs_kept | with_reducible apply stopBay_kept | split

theorem modCells_kept {o s : State} {a1 a2 a3} (h : Kept o s) : Kept o (modCells s a1 a2 a3) := by
  unfold modCells
  try dsimp only
  repeat' first | with_reducible assumption | (with_reducible refine Kept.fst (by with_reducible assumption) ?_) | with_reducible apply KeptP.fst | with_reducible apply KeptC.s_kept | (intro _ _ _ _) | with_reducible apply Kept.ite | (fail_if_no_progress with_reducible refine Kept.lit rfl rfl rfl rfl rfl rfl rfl rfl rfl rfl rfl rfl ?_)

theorem startTask_kept {o s : State} {a1} (h : Kept o s) : Kept o (startTask s a1) := by
  unfold startTask
  try dsimp only
  repeat' first | with_reducible assumption | with_reducible apply applyReload_kept | with_reducible apply modCells_kept | with_reducible apply resetsDue_kept | with_reducible apply switchesDue_kept | (with_reducible refine Kept.fst (by with_reducible assumption) ?_) | with_reducible apply KeptP.fst | with_reducible apply KeptC.s_kept | (intro _ _ _ _) | with_reducible apply Kept.ite | (fail_if_no_progress with_reducible refine Kept.lit rfl rfl rfl rfl rfl rfl rfl rfl rfl rfl rfl rfl ?_) | split

theorem dropTask_kept {o s : State} {a1} (h : Kept o s) : Kept o (dropTask s a1) := by
  unfold dropTask
  repeat' first | with_reducible assumption | with_reducible apply modBay_kept | (fail_if_no_progress with_reducible refine Kept.lit rfl rfl rfl rfl rfl rfl rfl rfl rfl rfl rfl rfl ?_)

theorem takeReads_kept {o s : State} {a1 a2} (h : Kept o s) : Kept o (takeReads s a1 a2) := by
  unfold takeReads
  repeat' first | with_reducible assumption | with_reducible apply complete_kept | with_reducible apply hostWrite_kept | (with_reducible apply Kept.foldl; intro _ _ _) | (fail_if_no_progress with_reducible refine Kept.lit rfl rfl rfl rfl rfl rfl rfl rfl rfl rfl rfl rfl ?_) | split

theorem taskBoundary_kept {o s : State} {a1 a2} (h : Kept o s) : Kept o (taskBoundary s a1 a2) := by
  unfold taskBoundary
  repeat' first | with_reducible assumption | with_reducible apply cfgKick_kept | with_reducible apply takeBoundary_kept | with_reducible apply takeReads_kept

theorem commitTask_kept {o s : State} {a1 a2} (h : Kept o s) : Kept o (commitTask s a1 a2) := by
  unfold commitTask
  repeat' first | with_reducible assumption | with_reducible apply dropTask_kept | with_reducible apply dtoAll_kept | with_reducible apply handOff_kept | with_reducible apply queueLine_kept | with_reducible apply raise_kept | with_reducible apply recordShadow_kept | with_reducible apply sendBayState_kept | with_reducible apply setBay_kept | with_reducible apply setReqs_kept | with_reducible apply showBay_kept | with_reducible apply showRunning_kept | split

theorem fillBuffer_kept {o s : State} {a1 a2 a3} (h : Kept o s) : Kept o (fillBuffer s a1 a2 a3) := by
  unfold fillBuffer
  try dsimp only
  repeat' first | with_reducible assumption | with_reducible apply modCells_kept | (with_reducible refine Kept.fst (by with_reducible assumption) ?_) | with_reducible apply KeptP.fst | with_reducible apply KeptC.s_kept | (intro _ _ _ _) | with_reducible apply Kept.ite | (fail_if_no_progress with_reducible refine Kept.lit rfl rfl rfl rfl rfl rfl rfl rfl rfl rfl rfl rfl ?_)

theorem freeBuffer_kept {o s : State} {a1} (h : Kept o s) : Kept o (freeBuffer s a1) := by
  unfold freeBuffer
  try dsimp only
  repeat' first | with_reducible assumption | (with_reducible refine Kept.fst (by with_reducible assumption) ?_) | with_reducible apply KeptP.fst | with_reducible apply KeptC.s_kept | (intro _ _ _ _) | with_reducible apply Kept.ite | (fail_if_no_progress with_reducible refine Kept.lit rfl rfl rfl rfl rfl rfl rfl rfl rfl rfl rfl rfl ?_)

theorem writeLane_kept {o s : State} {a1 a2 a3} (h : Kept o s) : Kept o (writeLane s a1 a2 a3) := by
  unfold writeLane
  try dsimp only
  repeat' first | with_reducible assumption | with_reducible apply modBay_kept

theorem faultMig_kept {o s : State} {a1 a2} (h : Kept o s) : Kept o (faultMig s a1 a2) := by
  unfold faultMig
  repeat' first | with_reducible assumption | with_reducible apply askMig_kept

theorem unresolved_kept {o s : State} {a1 a2 a3} (h : Kept o s) : Kept o (unresolved s a1 a2 a3) := by
  unfold unresolved
  repeat' first | with_reducible assumption | with_reducible apply bump_kept | with_reducible apply dropTask_kept | with_reducible apply faultMig_kept | with_reducible apply raise_kept

theorem resyncFail_kept {o s : State} {a1 a2 a3} (h : Kept o s) : Kept o (resyncFail s a1 a2 a3) := by
  unfold resyncFail
  try dsimp only
  repeat' first | with_reducible assumption | with_reducible apply bump_kept | with_reducible apply faultMig_kept | with_reducible apply modGrp_kept | with_reducible apply raise_kept | split

theorem resyncStart_kept {o s : State} {a1 a2 a3} (h : Kept o s) : Kept o (resyncStart s a1 a2 a3) := by
  unfold resyncStart
  repeat' first | with_reducible assumption | with_reducible apply modGrp_kept | with_reducible apply resyncFail_kept | split

theorem endWindowMarks_kept {o s : State} {a1 a2 a3} (h : Kept o s) : Kept o (endWindowMarks s a1 a2 a3) := by
  unfold endWindowMarks
  repeat' first | with_reducible assumption | with_reducible apply modGrp_kept

theorem latentMark_kept {o s : State} {a1 a2 a3 a4 a5} (h : Kept o s) : Kept o (latentMark s a1 a2 a3 a4 a5) := by
  unfold latentMark
  try dsimp only
  repeat' first | with_reducible assumption | with_reducible apply bump_kept | with_reducible apply modGrp_kept | with_reducible apply raise_kept | with_reducible apply resyncStart_kept | (fail_if_no_progress with_reducible refine Kept.lit rfl rfl rfl rfl rfl rfl rfl rfl rfl rfl rfl rfl ?_) | split

theorem mismatch_kept {o s : State} {a1 a2 a3 a4} (h : Kept o s) : Kept o (mismatch s a1 a2 a3 a4) := by
  unfold mismatch
  repeat' first | with_reducible assumption | with_reducible apply bump_kept | with_reducible apply modGrp_kept | with_reducible apply raise_kept | with_reducible apply resyncStart_kept | split

theorem reexec_kept {o s : State} {a1 a2 a3 a4} (h : Kept o s) : Kept o (reexec s a1 a2 a3 a4) := by
  unfold reexec
  try dsimp only
  repeat' first | with_reducible assumption | with_reducible apply bump_kept | with_reducible apply modCells_kept | with_reducible apply modGrp_kept | with_reducible apply raise_kept | (with_reducible refine Kept.fst (by with_reducible assumption) ?_) | with_reducible apply KeptP.fst | with_reducible apply KeptC.s_kept | (intro _ _ _ _) | with_reducible apply Kept.ite | (fail_if_no_progress with_reducible refine Kept.lit rfl rfl rfl rfl rfl rfl rfl rfl rfl rfl rfl rfl ?_)

theorem cmpFault_kept {o s : State} {a1 a2 a3} (h : Kept o s) : Kept o (cmpFault s a1 a2 a3) := by
  unfold cmpFault
  repeat' first | with_reducible assumption | with_reducible apply bump_kept | with_reducible apply faultMig_kept | with_reducible apply modGrp_kept | with_reducible apply raise_kept

theorem countWindow_kept {o s : State} {a1 a2} (h : Kept o s) : KeptP o (countWindow s a1 a2) := by
  unfold countWindow
  repeat' first | with_reducible assumption | with_reducible apply setGrp_kept | with_reducible apply KeptP.pair

theorem sweepOne_kept {o s : State} {a1 a2} (h : Kept o s) : Kept o (sweepOne s a1 a2) := by
  unfold sweepOne
  repeat' first | with_reducible assumption | (fail_if_no_progress with_reducible refine Kept.lit rfl rfl rfl rfl rfl rfl rfl rfl rfl rfl rfl rfl ?_) | split

theorem injection_kept {o s : State} {a1 a2 a3 a4 a5 a6} (h : Kept o s) : KeptP o (injection s a1 a2 a3 a4 a5 a6) := by
  unfold injection
  try dsimp only
  repeat' first | with_reducible assumption | with_reducible apply bump_kept | with_reducible apply modGrp_kept | with_reducible apply sweepOne_kept | (with_reducible refine Kept.fst (by with_reducible assumption) ?_) | with_reducible apply KeptP.fst | with_reducible apply KeptC.s_kept | (intro _ _ _ _) | with_reducible apply Kept.ite | with_reducible apply KeptP.ite | (fail_if_no_progress with_reducible refine Kept.lit rfl rfl rfl rfl rfl rfl rfl rfl rfl rfl rfl rfl ?_) | split | with_reducible apply KeptP.pair

theorem strayMark_kept {o s : State} {a1 a2 a3 a4} (h : Kept o s) : Kept o (strayMark s a1 a2 a3 a4) := by
  unfold strayMark
  try dsimp only
  repeat' first | with_reducible assumption | with_reducible apply bump_kept | with_reducible apply flagSet_kept | with_reducible apply raise_kept

theorem storeRange_kept {o s : State} {a1 a2 a3 a4} (h : Kept o s) : Kept o (storeRange s a1 a2 a3 a4) := by
  unfold storeRange
  try dsimp only
  repeat' first | with_reducible assumption | with_reducible apply dropTask_kept | with_reducible apply modBay_kept | with_reducible apply strayMark_kept

theorem observe_kept {o s : State} {a1 a2 a3 a4} (h : Kept o s) : Kept o (observe s a1 a2 a3 a4) := by
  unfold observe
  try dsimp only
  repeat' first | with_reducible assumption | with_reducible apply modCells_kept | with_reducible apply modGrp_kept | with_reducible apply regSet_kept | (with_reducible refine Kept.fst (by with_reducible assumption) ?_) | with_reducible apply KeptP.fst | with_reducible apply KeptC.s_kept | (intro _ _ _ _) | with_reducible apply Kept.ite | (fail_if_no_progress with_reducible refine Kept.lit rfl rfl rfl rfl rfl rfl rfl rfl rfl rfl rfl rfl ?_) | split

theorem closeWindow_kept {o s : State} {a1 a2} (h : Kept o s) : Kept o (closeWindow s a1 a2) := by
  unfold closeWindow
  try dsimp only
  repeat' first | with_reducible assumption | with_reducible apply cmpFault_kept | with_reducible apply commitTask_kept | with_reducible apply countWindow_kept | with_reducible apply endWindowMarks_kept | with_reducible apply fillBuffer_kept | with_reducible apply freeBuffer_kept | with_reducible apply injection_kept | with_reducible apply latentMark_kept | with_reducible apply mismatch_kept | with_reducible apply observe_kept | with_reducible apply reexec_kept | with_reducible apply showLks_kept | with_reducible apply storeRange_kept | with_reducible apply taskBoundary_kept | with_reducible apply unresolved_kept | with_reducible apply writeLane_kept | (with_reducible refine Kept.fst (by with_reducible assumption) ?_) | with_reducible apply KeptP.fst | with_reducible apply KeptC.s_kept | (intro _ _ _ _) | with_reducible apply Kept.ite | (fail_if_no_progress with_reducible refine Kept.lit rfl rfl rfl rfl rfl rfl rfl rfl rfl rfl rfl rfl ?_) | split

theorem closeEarly_kept {o s : State} {a1 a2} (h : Kept o s) : Kept o (closeEarly s a1 a2) := by
  unfold closeEarly
  try dsimp only
  repeat' first | with_reducible assumption | with_reducible apply bump_kept | with_reducible apply cmpFault_kept | with_reducible apply countWindow_kept | with_reducible apply fillBuffer_kept | with_reducible apply freeBuffer_kept | with_reducible apply injection_kept | with_reducible apply mismatch_kept | with_reducible apply modGrp_kept | with_reducible apply reexec_kept | with_reducible apply storeRange_kept | with_reducible apply strayMark_kept | with_reducible apply taskBoundary_kept | with_reducible apply unresolved_kept | with_reducible apply writeLane_kept | (with_reducible refine Kept.fst (by with_reducible assumption) ?_) | with_reducible apply KeptP.fst | with_reducible apply KeptC.s_kept | (intro _ _ _ _) | with_reducible apply Kept.ite | (fail_if_no_progress with_reducible refine Kept.lit rfl rfl rfl rfl rfl rfl rfl rfl rfl rfl rfl rfl ?_) | split

theorem joinPos_kept {o s : State} {a1 a2} (h : Kept o s) : Kept o (joinPos s a1 a2) := by
  unfold joinPos
  repeat' first | with_reducible assumption | with_reducible apply modGrp_kept

theorem splitPos_kept {o s : State} {a1 a2 a3} (h : Kept o s) : Kept o (splitPos s a1 a2 a3) := by
  unfold splitPos
  repeat' first | with_reducible assumption | with_reducible apply modGrp_kept

theorem formChange_kept {o s : State} {a1 a2} (h : Kept o s) : Kept o (formChange s a1 a2) := by
  unfold formChange
  repeat' first | with_reducible assumption | with_reducible apply bump_kept | with_reducible apply complete_kept | with_reducible apply joinPos_kept | with_reducible apply modGrp_kept | with_reducible apply raise_kept | with_reducible apply showLks_kept | with_reducible apply splitPos_kept | split

theorem showDbg_kept {o s : State} (h : Kept o s) : Kept o (showDbg s) := by
  unfold showDbg
  repeat' first | with_reducible assumption | with_reducible apply flagSet_kept | with_reducible apply regSet_kept

theorem dbgEffect_kept {o s : State} {a1} (h : Kept o s) : Kept o (dbgEffect s a1) := by
  unfold dbgEffect
  try dsimp only
  repeat' first | with_reducible assumption | with_reducible apply appendLog_kept | with_reducible apply bump_kept | with_reducible apply cfgKick_kept | with_reducible apply joinPos_kept | with_reducible apply modGrp_kept | with_reducible apply raise_kept | with_reducible apply showDbg_kept | with_reducible apply showLks_kept | with_reducible apply showSpares_kept | (fail_if_no_progress with_reducible refine Kept.lit rfl rfl rfl rfl rfl rfl rfl rfl rfl rfl rfl rfl ?_) | split

theorem setMet_kept {o s : State} {a1 a2} (h : Kept o s) : Kept o (setMet s a1 a2) := by
  unfold setMet
  repeat' first | with_reducible assumption | (fail_if_no_progress with_reducible refine Kept.lit rfl rfl rfl rfl rfl rfl rfl rfl rfl rfl rfl rfl ?_)

theorem modMet_kept {o s : State} {a1 a2} (h : Kept o s) : Kept o (modMet s a1 a2) := by
  unfold modMet
  repeat' first | with_reducible assumption | with_reducible apply setMet_kept | split

theorem metBlock_kept {o s : State} {a1 a2} (h : Kept o s) : Kept o (metBlock s a1 a2) := by
  unfold metBlock
  repeat' first | with_reducible assumption | with_reducible apply setMet_kept | split

theorem metInstant_kept {o s : State} {a1} (h : Kept o s) : Kept o (metInstant s a1) := by
  unfold metInstant
  repeat' first | with_reducible assumption | with_reducible apply setMet_kept | split

theorem showMet_kept {o s : State} (h : Kept o s) : Kept o (showMet s) := by
  unfold showMet
  repeat' first | with_reducible assumption | with_reducible apply fldSet_kept | with_reducible apply regSet_kept | (with_reducible apply Kept.foldl; intro _ _ _)

theorem metAlarm_kept {o s : State} {a1} (h : Kept o s) : Kept o (metAlarm s a1) := by
  unfold metAlarm
  try dsimp only
  repeat' first | with_reducible assumption | with_reducible apply raise_kept | with_reducible apply setMet_kept | with_reducible apply showMet_kept | split

theorem metWrite_kept {o s : State} {a1 a2 a3} (h : Kept o s) : Kept o (metWrite s a1 a2 a3) := by
  unfold metWrite
  try dsimp only
  repeat' first | with_reducible assumption | with_reducible apply raise_kept | with_reducible apply setMet_kept | with_reducible apply showMet_kept | (with_reducible refine Kept.fst (by with_reducible assumption) ?_) | with_reducible apply KeptP.fst | with_reducible apply KeptC.s_kept | (intro _ _ _ _) | with_reducible apply Kept.ite | (fail_if_no_progress with_reducible refine Kept.lit rfl rfl rfl rfl rfl rfl rfl rfl rfl rfl rfl rfl ?_) | split

theorem metClose_kept {o s : State} {a1} (h : Kept o s) : Kept o (metClose s a1) := by
  unfold metClose
  repeat' first | with_reducible assumption | with_reducible apply metWrite_kept | with_reducible apply setMet_kept | (with_reducible apply Kept.foldl; intro _ _ _) | split

theorem metStep_kept {o s : State} {a1 a2} (h : Kept o s) : Kept o (metStep s a1 a2) := by
  unfold metStep
  repeat' first | with_reducible assumption | with_reducible apply metClose_kept | with_reducible apply modMet_kept | (with_reducible apply Kept.foldl; intro _ _ _) | (fail_if_no_progress with_reducible refine Kept.lit rfl rfl rfl rfl rfl rfl rfl rfl rfl rfl rfl rfl ?_) | split

theorem metRestore_kept {o s : State} {a1 a2 a3 a4} (h : Kept o s) : Kept o (metRestore s a1 a2 a3 a4) := by
  unfold metRestore
  repeat' first | with_reducible assumption | with_reducible apply metWrite_kept | with_reducible apply modMet_kept | with_reducible apply setMet_kept | (with_reducible apply Kept.foldl; intro _ _ _) | split

theorem stageLocal_kept {o s : State} {a1 a2 a3} (h : Kept o s) : Kept o (stageLocal s a1 a2 a3) := by
  unfold stageLocal
  try dsimp only
  repeat' first | with_reducible assumption | with_reducible apply stageNew_kept | with_reducible apply stageOld_kept | (with_reducible refine Kept.fst (by with_reducible assumption) ?_) | with_reducible apply KeptP.fst | with_reducible apply KeptC.s_kept | (with_reducible apply Kept.foldl; intro _ _ _) | (intro _ _ _ _) | with_reducible apply Kept.ite | (fail_if_no_progress with_reducible refine Kept.lit rfl rfl rfl rfl rfl rfl rfl rfl rfl rfl rfl rfl ?_) | split

theorem useOwn_kept {o s : State} (h : Kept o s) : Kept o (useOwn s) := by
  unfold useOwn
  repeat' first | with_reducible assumption | with_reducible apply setMir_kept | with_reducible apply stageLocal_kept | (with_reducible apply Kept.foldl; intro _ _ _)

theorem endGrant_kept {o s : State} {a1} (h : Kept o s) : Kept o (endGrant s a1) := by
  unfold endGrant
  repeat' first | with_reducible assumption | with_reducible apply raise_kept | with_reducible apply showDbg_kept | (fail_if_no_progress with_reducible refine Kept.lit rfl rfl rfl rfl rfl rfl rfl rfl rfl rfl rfl rfl ?_) | split

theorem leaveTest_kept {o s : State} (h : Kept o s) : Kept o (leaveTest s) := by
  unfold leaveTest
  repeat' first | with_reducible assumption | with_reducible apply showDbg_kept | (fail_if_no_progress with_reducible refine Kept.lit rfl rfl rfl rfl rfl rfl rfl rfl rfl rfl rfl rfl ?_) | split

theorem enterMode_kept {o s : State} {a1 a2} (h : Kept o s) : Kept o (enterMode s a1 a2) := by
  unfold enterMode
  repeat' first | with_reducible assumption | with_reducible apply appendLog_kept | with_reducible apply dtoAll_kept | with_reducible apply endGrant_kept | with_reducible apply leaveTest_kept | with_reducible apply mirShow_kept | with_reducible apply raise_kept | with_reducible apply setEpoch_kept | (fail_if_no_progress with_reducible refine Kept.lit rfl rfl rfl rfl rfl rfl rfl rfl rfl rfl rfl rfl ?_) | split

theorem stopResync_kept {o s : State} (h : Kept o s) : Kept o (stopResync s) := by
  unfold stopResync
  repeat' first | with_reducible assumption | with_reducible apply complete_kept | with_reducible apply setMir_kept | (with_reducible apply Kept.foldl; intro _ _ _)

theorem endRole_kept {o s : State} {a1 a2} (h : Kept o s) : Kept o (endRole s a1 a2) := by
  unfold endRole
  repeat' first | with_reducible assumption | with_reducible apply complete_kept | (fail_if_no_progress with_reducible refine Kept.lit rfl rfl rfl rfl rfl rfl rfl rfl rfl rfl rfl rfl ?_) | split

theorem pairLetGo_kept {o s : State} (h : Kept o s) : Kept o (pairLetGo s) := by
  unfold pairLetGo
  repeat' first | with_reducible assumption | with_reducible apply endRole_kept | with_reducible apply setMir_kept | with_reducible apply stopResync_kept | with_reducible apply useOwn_kept | split

theorem changeMode_kept {o s : State} {a1 a2} (h : Kept o s) : Kept o (changeMode s a1 a2) := by
  unfold changeMode
  try dsimp only
  repeat' first | with_reducible assumption | with_reducible apply enterMode_kept | with_reducible apply flagSet_kept | with_reducible apply pairLetGo_kept | with_reducible apply setMir_kept | split

theorem enterSafe_kept {o s : State} {a1} (h : Kept o s) : Kept o (enterSafe s a1) := by
  unfold enterSafe
  repeat' first | with_reducible assumption | with_reducible apply changeMode_kept | with_reducible apply complete_kept | with_reducible apply raise_kept | (fail_if_no_progress with_reducible refine Kept.lit rfl rfl rfl rfl rfl rfl rfl rfl rfl rfl rfl rfl ?_) | split

theorem safeAgain_kept {o s : State} (h : Kept o s) : Kept o (safeAgain s) := by
  unfold safeAgain
  repeat' first | with_reducible assumption | with_reducible apply enterSafe_kept | split

theorem rebuildBay_kept {o s : State} {a1 a2 a3 a4 a5} (h : Kept o s) : Kept o (rebuildBay s a1 a2 a3 a4 a5) := by
  unfold rebuildBay
  try dsimp only
  repeat' first | with_reducible assumption | with_reducible apply drainLines_kept | with_reducible apply queueLine_kept | with_reducible apply setBay_kept | with_reducible apply setReqs_kept | with_reducible apply showBay_kept | with_reducible apply showOut_kept | with_reducible apply startBay_kept | (with_reducible refine Kept.fst (by with_reducible assumption) ?_) | with_reducible apply KeptP.fst | with_reducible apply KeptC.s_kept | (intro _ _ _ _) | with_reducible apply Kept.ite | (fail_if_no_progress with_reducible refine Kept.lit rfl rfl rfl rfl rfl rfl rfl rfl rfl rfl rfl rfl ?_) | split

theorem rebuildAll_kept {o s : State} {a1} (h : Kept o s) : Kept o (rebuildAll s a1) := by
  unfold rebuildAll
  repeat' first | with_reducible assumption | with_reducible apply cfgKick_kept | with_reducible apply dropMig_kept | with_reducible apply dtoAll_kept | with_reducible apply leaveGroup_kept | with_reducible apply rebuildBay_kept | with_reducible apply showLks_kept | with_reducible apply showRunning_kept | with_reducible apply showSpares_kept | (with_reducible apply Kept.foldl; intro _ _ _) | split

theorem modeEffect_kept {o s : State} {a1} (h : Kept o s) : Kept o (modeEffect s a1) := by
  unfold modeEffect
  try dsimp only
  repeat' first | with_reducible assumption | with_reducible apply changeMode_kept | with_reducible apply complete_kept | with_reducible apply raise_kept | with_reducible apply rebuildAll_kept | with_reducible apply safeAgain_kept | (fail_if_no_progress with_reducible refine Kept.lit rfl rfl rfl rfl rfl rfl rfl rfl rfl rfl rfl rfl ?_) | split

theorem rateOk_nominal : rateOk incNominal := by unfold rateOk; constructor <;> decide

theorem enterBoot_kept {o s : State} (h : Kept o s) : Kept o (enterBoot s) := by
  have r : ∀ (d : Dev) (hi : Hif) (pw : Pwr) (se : Sec), d.part7264 = s.dev.part7264 → hi.held = [] →
      Kept o { State.reset with dev := d, otp := s.otp, flash := s.flash, hostMem := s.hostMem, pending := s.pending, hif := hi, pwr := pw, sec := se } :=
    fun d hi pw se hd hh => h.trans ⟨rfl, ⟨hd, Nat.le_refl _, fun _ x => x⟩, fun i => ⟨i.mem, rfl, by show (0 : Nat) < 10 ^ 9; decide, by show (0 : Nat) < 2 ^ 48; decide,
      rateOk_nominal, rateOk_nominal, fun _ hp => (List.not_mem_nil hp).elim, by show hi.held.length ≤ 256; rw [hh]; decide⟩⟩
  unfold enterBoot
  dsimp only
  exact Kept.ite (r _ _ _ _ rfl rfl) (raise_kept (r _ _ _ _ rfl rfl))

theorem windowWord_kept {o s : State} {a1 a2 a3 a4} (h : Kept o s) : Kept o (windowWord s a1 a2 a3 a4) := by
  unfold windowWord
  repeat' first | with_reducible assumption | (fail_if_no_progress with_reducible refine Kept.lit rfl rfl rfl rfl rfl rfl rfl rfl rfl rfl rfl rfl ?_)

theorem irPush_kept {o s : State} {a1 a2} (h : Kept o s) : Kept o (irPush s a1 a2) := by
  unfold irPush
  repeat' first | with_reducible assumption | with_reducible apply windowWord_kept | (fail_if_no_progress with_reducible refine Kept.lit rfl rfl rfl rfl rfl rfl rfl rfl rfl rfl rfl rfl ?_)

theorem hrPush_kept {o s : State} {a1 a2} (h : Kept o s) : Kept o (hrPush s a1 a2) := by
  unfold hrPush
  repeat' first | with_reducible assumption | with_reducible apply windowWord_kept | (with_reducible apply Kept.foldl; intro _ _ _) | (fail_if_no_progress with_reducible refine Kept.lit rfl rfl rfl rfl rfl rfl rfl rfl rfl rfl rfl rfl ?_) | split

theorem setRun_kept {o s : State} {a1 a2} (h : Kept o s) : Kept o (setRun s a1 a2) := by
  unfold setRun
  repeat' first | with_reducible assumption | with_reducible apply modBay_kept

theorem putReq_kept {o s : State} {a1 a2 a3 a4} (h : Kept o s) : Kept o (putReq s a1 a2 a3 a4) := by
  unfold putReq
  repeat' first | with_reducible assumption | with_reducible apply addReq_kept | with_reducible apply setRun_kept | split

theorem putReqIf_kept {o s : State} {a1 a2 a3 a4} (h : Kept o s) : Kept o (putReqIf s a1 a2 a3 a4) := by
  unfold putReqIf
  try dsimp only
  repeat' first | with_reducible assumption | with_reducible apply putReq_kept | split

end Sys2Proof.Machine
end

