-- ==== Sys2Proof/Laws/KeptPair.lean ====
section
/-! SUPPORT. That every step keeps the invariant, the lasting facts and the queue: the pair, published streams and the Almanac. Each lemma is read from its definition; what it calls is cited, not unfolded. -/

set_option linter.unusedTactic false
set_option linter.unreachableTactic false

namespace Sys2Proof.Machine

theorem setPstate_kept {o s : State} {a1} (h : Kept o s) : Kept o (setPstate s a1) := by
  unfold setPstate
  repeat' first | with_reducible assumption | with_reducible apply flagSet_kept | with_reducible apply setMir_kept | split

theorem cancelHand_kept {o s : State} (h : Kept o s) : Kept o (cancelHand s) := by
  unfold cancelHand
  repeat' first | with_reducible assumption | with_reducible apply endRole_kept | with_reducible apply linkEvent_kept | with_reducible apply raise_kept | with_reducible apply setMir_kept | split

theorem isolate_kept {o s : State} (h : Kept o s) : Kept o (isolate s) := by
  unfold isolate
  repeat' first | with_reducible assumption | with_reducible apply cancelHand_kept | with_reducible apply raise_kept | with_reducible apply setEpoch_kept | with_reducible apply setMir_kept | with_reducible apply setPstate_kept | with_reducible apply stopResync_kept | with_reducible apply useOwn_kept

theorem linkCheck_kept {o s : State} (h : Kept o s) : Kept o (linkCheck s) := by
  unfold linkCheck
  try dsimp only
  repeat' first | with_reducible assumption | with_reducible apply cancelHand_kept | with_reducible apply isolate_kept | with_reducible apply setPstate_kept | with_reducible apply stopResync_kept | split

theorem modLane_kept {o s : State} {a1 a2} (h : Kept o s) : Kept o (modLane s a1 a2) := by
  unfold modLane
  repeat' first | with_reducible assumption | with_reducible apply setMir_kept

theorem laneCause_kept {o s : State} (h : Kept o s) : Kept o (laneCause s) := by
  unfold laneCause
  repeat' first | with_reducible assumption | with_reducible apply setCause_kept

theorem laneDown_kept {o s : State} {a1} (h : Kept o s) : Kept o (laneDown s a1) := by
  unfold laneDown
  repeat' first | with_reducible assumption | with_reducible apply laneCause_kept | with_reducible apply linkCheck_kept | with_reducible apply modLane_kept | with_reducible apply raise_kept | split

theorem laneBeat_kept {o s : State} {a1} (h : Kept o s) : Kept o (laneBeat s a1) := by
  unfold laneBeat
  try dsimp only
  repeat' first | with_reducible assumption | with_reducible apply laneCause_kept | with_reducible apply linkCheck_kept | with_reducible apply modLane_kept | with_reducible apply raise_kept | split

theorem laneErr_kept {o s : State} {a1} (h : Kept o s) : Kept o (laneErr s a1) := by
  unfold laneErr
  try dsimp only
  repeat' first | with_reducible assumption | with_reducible apply bump_kept | with_reducible apply modLane_kept | split

theorem linkRx_kept {o s : State} {a1 a2} (h : Kept o s) : KeptP o (linkRx s a1 a2) := by
  unfold linkRx
  repeat' first | with_reducible assumption | with_reducible apply laneBeat_kept | with_reducible apply laneErr_kept | (fail_if_no_progress with_reducible refine Kept.lit rfl rfl rfl rfl rfl rfl rfl rfl rfl rfl rfl rfl ?_) | split | with_reducible apply KeptP.pair

theorem detectTakeover_kept {o s : State} {a1} (h : Kept o s) : Kept o (detectTakeover s a1) := by
  unfold detectTakeover
  repeat' first | with_reducible assumption | with_reducible apply cancelHand_kept | with_reducible apply setMir_kept | split

theorem partnerMode_kept {o s : State} {a1 a2 a3} (h : Kept o s) : Kept o (partnerMode s a1 a2 a3) := by
  unfold partnerMode
  repeat' first | with_reducible assumption | with_reducible apply cancelHand_kept | with_reducible apply detectTakeover_kept | with_reducible apply setMir_kept | split

theorem showPartner_kept {o s : State} {a1 a2 a3} (h : Kept o s) : Kept o (showPartner s a1 a2 a3) := by
  unfold showPartner
  repeat' first | with_reducible assumption | with_reducible apply regSet_kept

theorem loseSync_kept {o s : State} (h : Kept o s) : Kept o (loseSync s) := by
  unfold loseSync
  try dsimp only
  repeat' first | with_reducible assumption | with_reducible apply setMir_kept | with_reducible apply setPstate_kept | (with_reducible refine Kept.fst (by with_reducible assumption) ?_) | with_reducible apply KeptP.fst | with_reducible apply KeptC.s_kept | (intro _ _ _ _) | with_reducible apply Kept.ite

theorem sendHeartbeat_kept {o s : State} (h : Kept o s) : Kept o (sendHeartbeat s) := by
  unfold sendHeartbeat
  repeat' first | with_reducible assumption | with_reducible apply linkSend_kept

theorem superviseOfs_kept {o s : State} {a1} (h : Kept o s) : Kept o (superviseOfs s a1) := by
  unfold superviseOfs
  try dsimp only
  repeat' first | with_reducible assumption | with_reducible apply flagSet_kept | with_reducible apply raise_kept | with_reducible apply regSet_kept | with_reducible apply setMir_kept | split

theorem compareConfig_kept {o s : State} {a1} (h : Kept o s) : Kept o (compareConfig s a1) := by
  unfold compareConfig
  repeat' first | with_reducible assumption | with_reducible apply flagSet_kept | with_reducible apply linkCheck_kept | with_reducible apply raise_kept | split

theorem yieldEntry_kept {o s : State} {a1} (h : Kept o s) : Kept o (yieldEntry s a1) := by
  unfold yieldEntry
  repeat' first | with_reducible assumption | (fail_if_no_progress with_reducible refine Kept.lit rfl rfl rfl rfl rfl rfl rfl rfl rfl rfl rfl rfl ?_) | split

theorem followPartner_kept {o s : State} {a1 a2} (h : Kept o s) : Kept o (followPartner s a1 a2) := by
  unfold followPartner
  repeat' first | with_reducible assumption | with_reducible apply setPstate_kept | with_reducible apply stopResync_kept | split

theorem takeHeartbeat_kept {o s : State} {a1} (h : Kept o s) : Kept o (takeHeartbeat s a1) := by
  unfold takeHeartbeat
  repeat' first | with_reducible assumption | with_reducible apply compareConfig_kept | with_reducible apply followPartner_kept | with_reducible apply partnerMode_kept | with_reducible apply setMir_kept | with_reducible apply showPartner_kept | with_reducible apply superviseOfs_kept | with_reducible apply yieldEntry_kept

theorem takeBeacon_kept {o s : State} {a1 a2 a3 a4 a5} (h : Kept o s) : Kept o (takeBeacon s a1 a2 a3 a4 a5) := by
  unfold takeBeacon
  repeat' first | with_reducible assumption | with_reducible apply partnerMode_kept | with_reducible apply setMir_kept | with_reducible apply showPartner_kept | split

theorem sendSamples_kept {o s : State} {a1 a2 a3 a4} (h : Kept o s) : Kept o (sendSamples s a1 a2 a3 a4) := by
  unfold sendSamples
  repeat' first | with_reducible assumption | with_reducible apply linkSend_kept | (fail_if_no_progress with_reducible refine Kept.lit rfl rfl rfl rfl rfl rfl rfl rfl rfl rfl rfl rfl ?_)

theorem putAside_kept {o s : State} {a1 a2 a3} (h : Kept o s) : Kept o (putAside s a1 a2 a3) := by
  unfold putAside
  repeat' first | with_reducible assumption | (fail_if_no_progress with_reducible refine Kept.lit rfl rfl rfl rfl rfl rfl rfl rfl rfl rfl rfl rfl ?_)

theorem takeOut_kept {o s : State} {a0 a2} (h : Kept o s) : Kept o (takeOut a0 s a2) := by
  unfold takeOut
  try dsimp only
  repeat' first | with_reducible assumption | with_reducible apply hrPush_kept | with_reducible apply irPush_kept | with_reducible apply putAside_kept | with_reducible apply stageLocal_kept | with_reducible apply trkSample_kept | (fail_if_no_progress with_reducible refine Kept.lit rfl rfl rfl rfl rfl rfl rfl rfl rfl rfl rfl rfl ?_) | split

theorem takeOuts_kept {o s : State} {a1 a2} (h : Kept o s) : Kept o (takeOuts s a1 a2) := by
  unfold takeOuts
  try dsimp only
  repeat' first | with_reducible assumption | with_reducible apply sendSamples_kept | with_reducible apply takeOut_kept | (with_reducible apply Kept.foldl; intro _ _ _) | split

theorem useMirrored_kept {o s : State} (h : Kept o s) : Kept o (useMirrored s) := by
  unfold useMirrored
  repeat' first | with_reducible assumption | with_reducible apply setMir_kept | split

theorem noteLatency_kept {o s : State} {a1 a2} (h : Kept o s) : Kept o (noteLatency s a1 a2) := by
  unfold noteLatency
  repeat' first | with_reducible assumption | with_reducible apply regSet_kept | (fail_if_no_progress with_reducible refine Kept.lit rfl rfl rfl rfl rfl rfl rfl rfl rfl rfl rfl rfl ?_) | split

theorem takeSamples_kept {o s : State} {a1} (h : Kept o s) : Kept o (takeSamples s a1) := by
  unfold takeSamples
  try dsimp only
  repeat' first | with_reducible assumption | with_reducible apply irPush_kept | with_reducible apply noteLatency_kept | with_reducible apply stageLocal_kept | with_reducible apply useMirrored_kept | (with_reducible apply Kept.foldl; intro _ _ _) | (fail_if_no_progress with_reducible refine Kept.lit rfl rfl rfl rfl rfl rfl rfl rfl rfl rfl rfl rfl ?_) | split

theorem mirrorFallback_kept {o s : State} {a1} (h : Kept o s) : Kept o (mirrorFallback s a1) := by
  unfold mirrorFallback
  try dsimp only
  repeat' first | with_reducible assumption | with_reducible apply bump_kept | with_reducible apply loseSync_kept | with_reducible apply raise_kept | with_reducible apply stopResync_kept | with_reducible apply useOwn_kept

theorem startBayRs_kept {o s : State} {a1} (h : Kept o s) : Kept o (startBayRs s a1) := by
  unfold startBayRs
  repeat' first | with_reducible assumption | with_reducible apply linkEvent_kept | with_reducible apply setMir_kept | split

theorem endFull_kept {o s : State} (h : Kept o s) : Kept o (endFull s) := by
  unfold endFull
  repeat' first | with_reducible assumption | with_reducible apply complete_kept | with_reducible apply raise_kept | with_reducible apply setMir_kept | with_reducible apply setPstate_kept | split

theorem bayPassed_kept {o s : State} {a1 a2} (h : Kept o s) : Kept o (bayPassed s a1 a2) := by
  unfold bayPassed
  repeat' first | with_reducible assumption | with_reducible apply complete_kept | with_reducible apply endFull_kept | with_reducible apply setMir_kept | (with_reducible apply Kept.foldl; intro _ _ _) | (fail_if_no_progress with_reducible refine Kept.lit rfl rfl rfl rfl rfl rfl rfl rfl rfl rfl rfl rfl ?_)

theorem bayLeft_kept {o s : State} {a1} (h : Kept o s) : Kept o (bayLeft s a1) := by
  unfold bayLeft
  repeat' first | with_reducible assumption | with_reducible apply complete_kept | with_reducible apply endFull_kept | with_reducible apply setMir_kept | (with_reducible apply Kept.foldl; intro _ _ _) | (fail_if_no_progress with_reducible refine Kept.lit rfl rfl rfl rfl rfl rfl rfl rfl rfl rfl rfl rfl ?_) | split

theorem tryAdopt_kept {o s : State} {a1} (h : Kept o s) : Kept o (tryAdopt s a1) := by
  unfold tryAdopt
  try dsimp only
  repeat' first | with_reducible assumption | with_reducible apply bayPassed_kept | with_reducible apply bump_kept | with_reducible apply setBay_kept | with_reducible apply setMir_kept | with_reducible apply showBay_kept | with_reducible apply showRunning_kept | (fail_if_no_progress with_reducible refine Kept.lit rfl rfl rfl rfl rfl rfl rfl rfl rfl rfl rfl rfl ?_) | split

theorem mirAfter_kept {o s0 s : State} {n} (h : Kept o s) : Kept o (mirAfter s0 s n) := by
  unfold mirAfter
  try dsimp only
  repeat' first | with_reducible assumption | with_reducible apply setMir_kept | with_reducible apply bayPassed_kept | with_reducible apply tryAdopt_kept | split

theorem startFull_kept {o s : State} {a1} (h : Kept o s) : Kept o (startFull s a1) := by
  unfold startFull
  repeat' first | with_reducible assumption | with_reducible apply endFull_kept | with_reducible apply linkEvent_kept | with_reducible apply setMir_kept

theorem propose_kept {o s : State} {a1 a2} (h : Kept o s) : Kept o (propose s a1 a2) := by
  unfold propose
  repeat' first | with_reducible assumption | with_reducible apply linkEvent_kept | with_reducible apply setMir_kept

theorem handEffect_kept {o s : State} {a1} (h : Kept o s) : Kept o (handEffect s a1) := by
  unfold handEffect
  repeat' first | with_reducible assumption | with_reducible apply bump_kept | with_reducible apply endRole_kept | with_reducible apply enterMode_kept | with_reducible apply flagSet_kept | with_reducible apply raise_kept | with_reducible apply setMir_kept | with_reducible apply useOwn_kept | split

theorem discardSnap_kept {o s : State} {a1 a2} (h : Kept o s) : Kept o (discardSnap s a1 a2) := by
  unfold discardSnap
  repeat' first | with_reducible assumption | with_reducible apply bump_kept | with_reducible apply raise_kept | with_reducible apply setMir_kept

theorem diverged_kept {o s : State} {a1} (h : Kept o s) : Kept o (diverged s a1) := by
  unfold diverged
  repeat' first | with_reducible assumption | with_reducible apply raise_kept | with_reducible apply setMir_kept

theorem compareSnap_kept {o s : State} {a1 a2} (h : Kept o s) : Kept o (compareSnap s a1 a2) := by
  unfold compareSnap
  repeat' first | with_reducible assumption | with_reducible apply diverged_kept | with_reducible apply setMir_kept | (with_reducible apply Kept.foldl; intro _ _ _) | split

theorem commitSnap_kept {o s : State} {a1} (h : Kept o s) : Kept o (commitSnap s a1) := by
  unfold commitSnap
  try dsimp only
  repeat' first | with_reducible assumption | with_reducible apply compareSnap_kept | with_reducible apply discardSnap_kept | with_reducible apply loseSync_kept | with_reducible apply regSet_kept | with_reducible apply setMir_kept | (with_reducible refine Kept.fst (by with_reducible assumption) ?_) | with_reducible apply KeptP.fst | with_reducible apply KeptC.s_kept | (intro _ _ _ _) | with_reducible apply Kept.ite

theorem takeSnapPart_kept {o s : State} {a1 a2 a3} (h : Kept o s) : Kept o (takeSnapPart s a1 a2 a3) := by
  unfold takeSnapPart
  try dsimp only
  repeat' first | with_reducible assumption | with_reducible apply commitSnap_kept | with_reducible apply discardSnap_kept | with_reducible apply setMir_kept | split

theorem modCtx_kept {o s : State} {a1 a2} (h : Kept o s) : Kept o (modCtx s a1 a2) := by
  unfold modCtx
  try dsimp only
  repeat' first | with_reducible assumption | with_reducible apply modBay_kept | (fail_if_no_progress with_reducible refine Kept.lit rfl rfl rfl rfl rfl rfl rfl rfl rfl rfl rfl rfl ?_) | split

theorem takeBay_kept {o s : State} {a0 a1 a3} (h : Kept o s) : Kept o (takeBay a0 a1 s a3) := by
  unfold takeBay
  try dsimp only
  repeat' first | with_reducible assumption | with_reducible apply addReq_kept | with_reducible apply modCtx_kept | with_reducible apply setReqs_kept | with_reducible apply setRun_kept | split

theorem takeoverEffect_kept {o s : State} {a1} (h : Kept o s) : Kept o (takeoverEffect s a1) := by
  unfold takeoverEffect
  repeat' first | with_reducible assumption | with_reducible apply bump_kept | with_reducible apply cancelHand_kept | with_reducible apply complete_kept | with_reducible apply endRole_kept | with_reducible apply enterMode_kept | with_reducible apply raise_kept | with_reducible apply setEpoch_kept | with_reducible apply setMir_kept | with_reducible apply setPstate_kept | with_reducible apply setPub_kept | with_reducible apply stopResync_kept | with_reducible apply takeBay_kept | with_reducible apply useOwn_kept | (with_reducible apply Kept.foldl; intro _ _ _) | (fail_if_no_progress with_reducible refine Kept.lit rfl rfl rfl rfl rfl rfl rfl rfl rfl rfl rfl rfl ?_) | split

theorem takeEvent_kept {o s : State} {a1} (h : Kept o s) : Kept o (takeEvent s a1) := by
  unfold takeEvent
  try dsimp only
  repeat' first | with_reducible assumption | with_reducible apply cancelHand_kept | with_reducible apply endFull_kept | with_reducible apply linkEvent_kept | with_reducible apply propose_kept | with_reducible apply putReqIf_kept | with_reducible apply raise_kept | with_reducible apply setEpoch_kept | with_reducible apply setMir_kept | with_reducible apply startBayRs_kept | with_reducible apply startFull_kept | (with_reducible refine Kept.fst (by with_reducible assumption) ?_) | with_reducible apply KeptP.fst | with_reducible apply KeptC.s_kept | (intro _ _ _ _) | with_reducible apply Kept.ite | (fail_if_no_progress with_reducible refine Kept.lit rfl rfl rfl rfl rfl rfl rfl rfl rfl rfl rfl rfl ?_) | split

theorem pubStart_kept {o s : State} {a1 a2} (h : Kept o s) : Kept o (pubStart s a1 a2) := by
  unfold pubStart
  repeat' first | with_reducible assumption | (fail_if_no_progress with_reducible refine Kept.lit rfl rfl rfl rfl rfl rfl rfl rfl rfl rfl rfl rfl ?_) | split

theorem pubStop_kept {o s : State} {a1} (h : Kept o s) : Kept o (pubStop s a1) := by
  unfold pubStop
  repeat' first | with_reducible assumption | (fail_if_no_progress with_reducible refine Kept.lit rfl rfl rfl rfl rfl rfl rfl rfl rfl rfl rfl rfl ?_)

theorem pubFrame_kept {o s : State} {a1 a2} (h : Kept o s) : Kept o (pubFrame s a1 a2) := by
  unfold pubFrame
  try dsimp only
  repeat' first | with_reducible assumption | with_reducible apply sendOwn_kept | (fail_if_no_progress with_reducible refine Kept.lit rfl rfl rfl rfl rfl rfl rfl rfl rfl rfl rfl rfl ?_) | split

theorem execSvPublishFrame_kept {o s : State} {a0} (h : Kept o s) : KeptOut o (execSvPublishFrame a0 s) := by
  unfold execSvPublishFrame
  repeat' first | with_reducible assumption | apply Kept.next | with_reducible apply pubFrame_kept | split

theorem svAccept_kept {o s : State} {a1 a2} (h : Kept o s) : Kept o (svAccept s a1 a2) := by
  unfold svAccept
  try dsimp only
  repeat' first | with_reducible assumption | with_reducible apply raise_kept | with_reducible apply setStrm_kept | with_reducible apply svCount_kept | with_reducible apply svDispatch_kept | with_reducible apply svFrameState_kept | with_reducible apply svStage_kept | (with_reducible apply Kept.foldl; intro _ _ _) | split

theorem execSvFrameRx_kept {o s : State} {a0} (h : Kept o s) : KeptOut o (execSvFrameRx a0 s) := by
  unfold execSvFrameRx
  try dsimp only
  repeat' first | with_reducible assumption | apply Kept.next | with_reducible apply bump_kept | with_reducible apply ddLookup_kept | with_reducible apply raise_kept | with_reducible apply setStrm_kept | with_reducible apply svAccept_kept | with_reducible apply svCount_kept | with_reducible apply KeptP.fst | split

theorem execSvReorderExpiry_kept {o s : State} {a0} (h : Kept o s) : KeptOut o (execSvReorderExpiry a0 s) := by
  unfold execSvReorderExpiry
  try dsimp only
  repeat' first | with_reducible assumption | apply Kept.next | with_reducible apply svDispatch_kept | with_reducible apply svFill_kept | split

theorem execSvDeadlineExpiry_kept {o s : State} {a0} (h : Kept o s) : KeptOut o (execSvDeadlineExpiry a0 s) := by
  unfold execSvDeadlineExpiry
  try dsimp only
  repeat' first | with_reducible assumption | apply Kept.next | with_reducible apply svMiss_kept | split

theorem execDdEntryForget_kept {o s : State} (h : Kept o s) : KeptOut o (execDdEntryForget s) := by
  unfold execDdEntryForget
  repeat' first | with_reducible assumption | apply Kept.next | (fail_if_no_progress with_reducible refine Kept.lit rfl rfl rfl rfl rfl rfl rfl rfl rfl rfl rfl rfl ?_)

theorem refreshErr_kept {o s : State} (h : Kept o s) : Kept o (refreshErr s) := by
  unfold refreshErr
  repeat' first | with_reducible assumption | (fail_if_no_progress with_reducible refine Kept.lit rfl rfl rfl rfl rfl rfl rfl rfl rfl rfl rfl rfl ?_)

theorem take_hist {l : List (Inst × Nat)} {x : Inst × Nat} {n : Nat} (hx : rateOk x.2) (h : ∀ p ∈ l, rateOk p.2) : ∀ p ∈ (x :: l).take n, rateOk p.2 := by
  intro p hp
  rcases List.mem_cons.mp (List.mem_of_mem_take hp) with rfl | hp
  · exact hx
  · exact h p hp

/-- A change to an increment within 300 ppm. -/
theorem setInc_kept {o s : State} {i} (h : Kept o s) (hi : Inv s → rateOk i) : Kept o (setInc s i) := by
  unfold setInc
  split
  · exact h
  · exact h.trans ⟨rfl, ⟨rfl, Nat.le_refl _, fun _ x => x⟩, fun v =>
      ⟨v.mem, v.regs, v.ns, v.frac, hi v, v.incBase, take_hist (hi v) v.hist, v.held⟩⟩

theorem clampI_le {lo hi x : Int} (h : lo ≤ hi) : lo ≤ clampI lo hi x ∧ clampI lo hi x ≤ hi := by
  unfold clampI
  split
  · omega
  · split <;> omega

/-- The servo's bound: an increment that has been clamped is within 300 ppm (R37). -/
theorem clampInc_ok (i : Int) : rateOk (clampInc i) := by
  have hb : incNominal * 300 / 10 ^ 6 ≤ incNominal := Nat.le_trans (Nat.div_le_div_right (Nat.mul_le_mul_left _ (by decide : 300 ≤ 10 ^ 6))) (by rw [Nat.mul_div_cancel _ (by decide)])
  unfold rateOk clampInc
  dsimp only
  generalize incNominal * 300 / 10 ^ 6 = d at hb ⊢
  generalize incNominal = n at hb ⊢
  have h := clampI_le (lo := (n : Int) - d) (hi := (n : Int) + d) (x := i) (by omega)
  omega

theorem slewInc_ok (s : State) (l : Int) : rateOk (slewInc s l) := clampInc_ok _

theorem fullTick_kept {o s : State} (h : Kept o s) : Kept o (fullTick s) := by
  unfold fullTick
  dsimp only
  apply Kept.foldl
  · intro _ _ hx; exact drainLane_kept hx
  · apply Kept.foldl
    · intro _ _ hx; exact drainPort_kept hx
    · apply refreshErr_kept
      apply Kept.ite
      · exact setInc_kept (Kept.lit rfl rfl rfl rfl rfl rfl rfl rfl rfl rfl rfl rfl (tick_kept h)) (fun _ => slewInc_ok _ _)
      · exact tick_kept h

theorem clockTick_kept {o s : State} (h : Kept o s) : Kept o (clockTick s) := by
  unfold clockTick
  exact Kept.ite (Kept.lit rfl rfl rfl rfl rfl rfl rfl rfl rfl rfl rfl rfl h) (fullTick_kept h)

theorem freeSlot_kept {o s : State} {a1} (h : Kept o s) : Kept o (freeSlot s a1) := by
  unfold freeSlot
  repeat' first | with_reducible assumption | (fail_if_no_progress with_reducible refine Kept.lit rfl rfl rfl rfl rfl rfl rfl rfl rfl rfl rfl rfl ?_)

theorem skipSlot_kept {o s : State} {a1 a2 a3} (h : Kept o s) : Kept o (skipSlot s a1 a2 a3) := by
  unfold skipSlot
  repeat' first | with_reducible assumption | with_reducible apply freeSlot_kept | with_reducible apply raise_kept

theorem endSlot_kept {o s : State} {a1 a2} (h : Kept o s) : Kept o (endSlot s a1 a2) := by
  unfold endSlot
  repeat' first | with_reducible assumption | with_reducible apply complete_kept | split

theorem stepSlot_kept {o s : State} {a0 a2} (h : Kept o s) : Kept o (stepSlot a0 s a2) := by
  unfold stepSlot
  try dsimp only
  repeat' first | with_reducible assumption | with_reducible apply bumpBy_kept | with_reducible apply endSlot_kept | with_reducible apply skipSlot_kept | (fail_if_no_progress with_reducible refine Kept.lit rfl rfl rfl rfl rfl rfl rfl rfl rfl rfl rfl rfl ?_) | split

theorem stepBay_kept {o s : State} {a0 a1 a3} (h : Kept o s) : Kept o (stepBay a0 a1 s a3) := by
  unfold stepBay
  try dsimp only
  repeat' first | with_reducible assumption | with_reducible apply clearRing_kept | with_reducible apply cupBayStat_kept | with_reducible apply cutCup_kept | with_reducible apply modCup_kept | with_reducible apply setBay_kept | with_reducible apply setReqs_kept | (with_reducible refine Kept.fst (by with_reducible assumption) ?_) | with_reducible apply KeptP.fst | with_reducible apply KeptC.s_kept | (intro _ _ _ _) | with_reducible apply Kept.ite | (fail_if_no_progress with_reducible refine Kept.lit rfl rfl rfl rfl rfl rfl rfl rfl rfl rfl rfl rfl ?_) | split

theorem stepSignals_kept {o s : State} {a0} (h : Kept o s) : Kept o (stepSignals a0 s) := by
  unfold stepSignals
  repeat' first | with_reducible assumption | with_reducible apply syncReset_kept | (fail_if_no_progress with_reducible refine Kept.lit rfl rfl rfl rfl rfl rfl rfl rfl rfl rfl rfl rfl ?_)

theorem stepWaits_kept {o s : State} {a0} (h : Kept o s) : Kept o (stepWaits a0 s) := by
  unfold stepWaits
  repeat' first | with_reducible assumption | (fail_if_no_progress with_reducible refine Kept.lit rfl rfl rfl rfl rfl rfl rfl rfl rfl rfl rfl rfl ?_)

theorem almLoad_kept {o s : State} {a : Alm} {t : Inst} (h : Kept o s) (h1 : a.ns = (s.alm.load t).ns) (h2 : a.frac = (s.alm.load t).frac)
    (h3 : a.inc = s.alm.inc) (h4 : a.incBase = s.alm.incBase) (h5 : (∀ p ∈ s.alm.rateHist, rateOk p.2) → ∀ p ∈ a.rateHist, rateOk p.2) :
    Kept o { s with alm := a } :=
  h.trans ⟨rfl, ⟨rfl, Nat.le_refl _, fun _ x => x⟩, fun i => ⟨i.mem, i.regs,
    by show a.ns < 10 ^ 9; rw [h1]; exact Nat.mod_lt _ (by decide),
    by
      show a.frac < 2 ^ 48
      rw [h2]
      have := Nat.mod_lt t (show 0 < nsI by decide)
      show t % nsI * 2 ^ 32 < 2 ^ 48
      simp only [nsI] at *
      omega,
    by rw [h3]; exact i.inc, by rw [h4]; exact i.incBase, h5 i.hist, i.held⟩⟩

theorem map_hist {l : List (Inst × Nat)} {f : Inst → Inst} (h : ∀ p ∈ l, rateOk p.2) : ∀ p ∈ l.map (fun p => (f p.1, p.2)), rateOk p.2 := by
  intro p hp
  obtain ⟨q, hq, rfl⟩ := List.mem_map.mp hp
  exact h q hq

theorem almanacStep_kept {o s : State} {t c} (h : Kept o s) : Kept o (almanacStep s t c) := by
  have h0 : Kept o ((s.bays.map Prod.fst).foldl drainLines s) := Kept.foldl (fun _ _ hx => drainLines_kept hx) h
  unfold almanacStep
  apply appendLog_kept
  generalize (s.bays.map Prod.fst).foldl drainLines s = u at h0 ⊢
  have h1 := stepWaits_kept (a0 := t) (stepSignals_kept (a0 := t) (almLoad_kept (t := t) (a := { u.alm.load t with
    lockHist := [(t, u.alm.lock)], holdAt := t - (now s - u.alm.holdAt), dispAt := t - (now s - u.alm.dispAt), run := [],
    rateHist := u.alm.rateHist.map (fun p => (t - (now s - p.1), p.2)), ppsSec := cdivN t secI - 1 }) h0 rfl rfl rfl rfl
    (fun x => map_hist (f := fun i => t - (now s - i)) x)))
  dsimp only
  generalize stepWaits t (stepSignals t _) = v at h1 ⊢
  have h2 : Kept o ((v.bays.map Prod.fst).foldl (stepBay (now s) t) v) := Kept.foldl (fun _ _ hx => stepBay_kept hx) h1
  generalize (v.bays.map Prod.fst).foldl (stepBay (now s) t) v = w at h2 ⊢
  have h3 : Kept o (cupStat (metStep { w with prep := ⟨[], []⟩, cup := { w.cup with hr := [] } } (now s / nsI) (t / nsI))) :=
    cupStat_kept (metStep_kept (Kept.lit rfl rfl rfl rfl rfl rfl rfl rfl rfl rfl rfl rfl h2))
  generalize cupStat _ = x at h3 ⊢
  have h4 : Kept o ((x.alm.slots.map Prod.fst).foldl (stepSlot t) x) := Kept.foldl (fun _ _ hx => stepSlot_kept hx) h3
  cases c <;> exact raise_kept h4

theorem reTrace_kept {o s : State} (h : Kept o s) : Kept o (reTrace s) := by
  unfold reTrace
  try dsimp only
  repeat' first | with_reducible assumption | (with_reducible refine Kept.fst (by with_reducible assumption) ?_) | with_reducible apply KeptP.fst | with_reducible apply KeptC.s_kept | (intro _ _ _ _) | with_reducible apply Kept.ite | (fail_if_no_progress with_reducible refine Kept.lit rfl rfl rfl rfl rfl rfl rfl rfl rfl rfl rfl rfl ?_)

theorem lockTo_kept {o s : State} {a1} (h : Kept o s) : Kept o (lockTo s a1) := by
  unfold lockTo
  dsimp only
  apply raise_kept
  split
  · refine Kept.ite (complete_kept ?_) ?_ <;>
      exact refreshErr_kept (setInc_kept (Kept.lit rfl rfl rfl rfl rfl rfl rfl rfl rfl rfl rfl rfl h)
        (fun v => by have b : rateOk s.alm.incBase := v.incBase; have i : rateOk s.alm.inc := v.inc; split <;> assumption))
  · exact refreshErr_kept (setInc_kept (Kept.lit rfl rfl rfl rfl rfl rfl rfl rfl rfl rfl rfl rfl h)
      (fun v => by have b : rateOk s.alm.incBase := v.incBase; have i : rateOk s.alm.inc := v.inc; split <;> assumption))

/-- The mean increment is kept within 300 ppm (R37, R55). -/
theorem meanInc_ok {s : State} (h : rateOk s.alm.inc) : rateOk (meanInc s) := by
  unfold meanInc
  generalize (if now s < 60 * secI then now s else 60 * secI) = d
  dsimp only
  split
  · exact h
  · exact clampInc_ok _

theorem toHoldover_kept {o s : State} (h : Kept o s) : Kept o (toHoldover s) := by
  unfold toHoldover
  dsimp only
  exact setInc_kept (lockTo_kept (Kept.lit rfl rfl rfl rfl rfl rfl rfl rfl rfl rfl rfl rfl h)) (fun v => meanInc_ok v.inc)

theorem toDisputed_kept {o s : State} {a1 a2} (h : Kept o s) : Kept o (toDisputed s a1 a2) := by
  unfold toDisputed
  dsimp only
  exact raise_kept (lockTo_kept (Kept.alm h rfl rfl (fun a _ c => ⟨a, a, c⟩)))

theorem checkOsc_kept {o s : State} (h : Kept o s) : Kept o (checkOsc s) := by
  unfold checkOsc
  try dsimp only
  repeat' first | with_reducible assumption | with_reducible apply raise_kept | with_reducible apply setCause_kept | (fail_if_no_progress with_reducible refine Kept.lit rfl rfl rfl rfl rfl rfl rfl rfl rfl rfl rfl rfl ?_) | split

theorem servo_kept {o s : State} {a1} (h : Kept o s) : Kept o (servo s a1) := by
  unfold servo
  dsimp only
  exact refreshErr_kept (checkOsc_kept (setInc_kept (Kept.lit rfl rfl rfl rfl rfl rfl rfl rfl rfl rfl rfl rfl h) (fun _ => clampInc_ok _)))

theorem firstLock_kept {o s : State} {a1 a2 a3} (h : Kept o s) : Kept o (firstLock s a1 a2 a3) := by
  unfold firstLock
  dsimp only
  have h1 : Kept o (if s.alm.preset.isSome then flagSet { s with alm := { s.alm with preset := none } } R.almStat 6 true else s) :=
    Kept.ite (flagSet_kept (Kept.lit rfl rfl rfl rfl rfl rfl rfl rfl rfl rfl rfl rfl h)) h
  generalize (if s.alm.preset.isSome then flagSet { s with alm := { s.alm with preset := none } } R.almStat 6 true else s) = t at h1 ⊢
  apply Kept.ite
  · exact toDisputed_kept (raise_kept (Kept.lit rfl rfl rfl rfl rfl rfl rfl rfl rfl rfl rfl rfl h))
  · exact almanacStep_kept (lockTo_kept (setInc_kept (Kept.lit rfl rfl rfl rfl rfl rfl rfl rfl rfl rfl rfl rfl h1) (fun _ => clampInc_ok _)))

theorem acquire_kept {o s : State} {a1 a2} (h : Kept o s) : Kept o (acquire s a1 a2) := by
  unfold acquire
  try dsimp only
  repeat' first | with_reducible assumption | with_reducible apply firstLock_kept | (fail_if_no_progress with_reducible refine Kept.lit rfl rfl rfl rfl rfl rfl rfl rfl rfl rfl rfl rfl ?_) | split

theorem disputeMeas_kept {o s : State} {a1 a2} (h : Kept o s) : Kept o (disputeMeas s a1 a2) := by
  unfold disputeMeas
  dsimp only
  repeat' with_reducible apply Kept.ite
  · exact lockTo_kept (Kept.lit rfl rfl rfl rfl rfl rfl rfl rfl rfl rfl rfl rfl h)
  · exact refreshErr_kept (setInc_kept (Kept.lit rfl rfl rfl rfl rfl rfl rfl rfl rfl rfl rfl rfl h) (fun _ => slewInc_ok _ _))
  · exact Kept.lit rfl rfl rfl rfl rfl rfl rfl rfl rfl rfl rfl rfl h

theorem almMeasure_kept {o s : State} {a1 a2} (h : Kept o s) : Kept o (almMeasure s a1 a2) := by
  unfold almMeasure
  try dsimp only
  repeat' first | with_reducible assumption | with_reducible apply acquire_kept | with_reducible apply disputeMeas_kept | with_reducible apply lockTo_kept | with_reducible apply servo_kept | with_reducible apply toDisputed_kept | (fail_if_no_progress with_reducible refine Kept.lit rfl rfl rfl rfl rfl rfl rfl rfl rfl rfl rfl rfl ?_) | split

theorem chooseSource_kept {o s : State} (h : Kept o s) : Kept o (chooseSource s) := by
  unfold chooseSource
  dsimp only
  have h1 : Kept o { s with alm := { s.alm with source := bestSource s, run := [] } } := Kept.lit rfl rfl rfl rfl rfl rfl rfl rfl rfl rfl rfl rfl h
  have h2 : ∀ t, Kept o t → Kept o { t with alm := { t.alm with source := .internal } } := fun t ht => Kept.lit rfl rfl rfl rfl rfl rfl rfl rfl rfl rfl rfl rfl ht
  have h3 : ∀ items, Kept o (if s.alm.source = .internal then { s with alm := { s.alm with source := bestSource s, run := [] } }
      else raise 0x0305 { s with alm := { s.alm with source := bestSource s, run := [] } } (items := items)) :=
    fun _ => Kept.ite h1 (raise_kept h1)
  apply Kept.ite h
  apply Kept.ite
  · split
    · exact lockTo_kept h1
    · exact h2 _ (toHoldover_kept (Kept.lit rfl rfl rfl rfl rfl rfl rfl rfl rfl rfl rfl rfl h))
    · exact h2 _ (toHoldover_kept (Kept.lit rfl rfl rfl rfl rfl rfl rfl rfl rfl rfl rfl rfl h))
    · exact h1
  · exact Kept.ite (lockTo_kept (h3 _)) (refreshErr_kept (reTrace_kept (h3 _)))

theorem setUsable_kept {o s : State} {a1 a2} (h : Kept o s) : Kept o (setUsable s a1 a2) := by
  unfold setUsable
  repeat' first | with_reducible assumption | with_reducible apply chooseSource_kept | (fail_if_no_progress with_reducible refine Kept.lit rfl rfl rfl rfl rfl rfl rfl rfl rfl rfl rfl rfl ?_)

theorem almPreset_kept {o s : State} (h : Kept o s) : Kept o (almPreset s) := by
  unfold almPreset
  try dsimp only
  repeat' first | with_reducible assumption | with_reducible apply flagSet_kept | (fail_if_no_progress with_reducible refine Kept.lit rfl rfl rfl rfl rfl rfl rfl rfl rfl rfl rfl rfl ?_) | split

theorem almSnap_kept {o s : State} (h : Kept o s) : Kept o (almSnap s) := by
  unfold almSnap
  repeat' first | with_reducible assumption | with_reducible apply regSet_kept

theorem execAlmPreset_kept {o s : State} (h : Kept o s) : KeptOut o (execAlmPreset s) := by
  unfold execAlmPreset
  repeat' first | with_reducible assumption | apply Kept.next | with_reducible apply almPreset_kept

theorem execAlmSnap_kept {o s : State} (h : Kept o s) : KeptOut o (execAlmSnap s) := by
  unfold execAlmSnap
  repeat' first | with_reducible assumption | apply Kept.next | with_reducible apply almSnap_kept

theorem presetStep_kept {o s : State} {a1} (h : Kept o s) : Kept o (presetStep s a1) := by
  unfold presetStep
  repeat' first | with_reducible assumption | with_reducible apply almanacStep_kept | with_reducible apply chooseSource_kept | (fail_if_no_progress with_reducible refine Kept.lit rfl rfl rfl rfl rfl rfl rfl rfl rfl rfl rfl rfl ?_)

theorem landPreset_kept {o s : State} (h : Kept o s) : Kept o (landPreset s) := by
  unfold landPreset
  try dsimp only
  repeat' first | with_reducible assumption | with_reducible apply flagSet_kept | with_reducible apply presetStep_kept | (with_reducible refine Kept.fst (by with_reducible assumption) ?_) | with_reducible apply KeptP.fst | with_reducible apply KeptC.s_kept | (intro _ _ _ _) | with_reducible apply Kept.ite | (fail_if_no_progress with_reducible refine Kept.lit rfl rfl rfl rfl rfl rfl rfl rfl rfl rfl rfl rfl ?_) | split

theorem restepApply_kept {o s : State} {a1} (h : Kept o s) : Kept o (restepApply s a1) := by
  unfold restepApply
  try dsimp only
  repeat' first | with_reducible assumption | with_reducible apply almanacStep_kept | with_reducible apply lockTo_kept | (with_reducible refine Kept.fst (by with_reducible assumption) ?_) | with_reducible apply KeptP.fst | with_reducible apply KeptC.s_kept | (intro _ _ _ _) | with_reducible apply Kept.ite | (fail_if_no_progress with_reducible refine Kept.lit rfl rfl rfl rfl rfl rfl rfl rfl rfl rfl rfl rfl ?_)

theorem landRestep_kept {o s : State} (h : Kept o s) : Kept o (landRestep s) := by
  unfold landRestep
  try dsimp only
  repeat' first | with_reducible assumption | with_reducible apply complete_kept | with_reducible apply restepApply_kept | (with_reducible refine Kept.fst (by with_reducible assumption) ?_) | with_reducible apply KeptP.fst | with_reducible apply KeptC.s_kept | (intro _ _ _ _) | with_reducible apply Kept.ite | (fail_if_no_progress with_reducible refine Kept.lit rfl rfl rfl rfl rfl rfl rfl rfl rfl rfl rfl rfl ?_) | split

theorem execAlmanacStep_kept {o s : State} {a0 a1 a2} (h : Kept o s) : KeptOut o (execAlmanacStep a0 a1 a2 s) := by
  unfold execAlmanacStep
  try dsimp only
  repeat' first | with_reducible assumption | apply Kept.next | with_reducible apply firstLock_kept | with_reducible apply landPreset_kept | with_reducible apply landRestep_kept | (with_reducible refine Kept.fst (by with_reducible assumption) ?_) | with_reducible apply KeptP.fst | with_reducible apply KeptC.s_kept | (intro _ _ _ _) | with_reducible apply Kept.ite | with_reducible apply KeptOut.ite | (fail_if_no_progress with_reducible refine Kept.lit rfl rfl rfl rfl rfl rfl rfl rfl rfl rfl rfl rfl ?_) | split

theorem execPresetLanding_kept {o s : State} (h : Kept o s) : KeptOut o (execPresetLanding s) := by
  unfold execPresetLanding
  try dsimp only
  repeat' first | with_reducible assumption | apply Kept.next | with_reducible apply landPreset_kept

theorem execRestepLanding_kept {o s : State} (h : Kept o s) : KeptOut o (execRestepLanding s) := by
  unfold execRestepLanding
  try dsimp only
  repeat' first | with_reducible assumption | apply Kept.next | with_reducible apply landRestep_kept

theorem execPpsInEdge_kept {o s : State} (h : Kept o s) : KeptOut o (execPpsInEdge s) := by
  unfold execPpsInEdge
  try dsimp only
  repeat' first | with_reducible assumption | apply Kept.next | with_reducible apply almMeasure_kept | with_reducible apply setUsable_kept | (with_reducible refine Kept.fst (by with_reducible assumption) ?_) | with_reducible apply KeptP.fst | with_reducible apply KeptC.s_kept | (intro _ _ _ _) | with_reducible apply Kept.ite | with_reducible apply KeptOut.ite | (fail_if_no_progress with_reducible refine Kept.lit rfl rfl rfl rfl rfl rfl rfl rfl rfl rfl rfl rfl ?_)

theorem leapNote_kept {o s : State} {a1 a2} (h : Kept o s) : Kept o (leapNote s a1 a2) := by
  unfold leapNote
  try dsimp only
  repeat' first | with_reducible assumption | with_reducible apply raise_kept | (fail_if_no_progress with_reducible refine Kept.lit rfl rfl rfl rfl rfl rfl rfl rfl rfl rfl rfl rfl ?_) | split

theorem execIrigbFrame_kept {o s : State} {a0} (h : Kept o s) : KeptOut o (execIrigbFrame a0 s) := by
  unfold execIrigbFrame
  try dsimp only
  repeat' first | with_reducible assumption | apply Kept.next | with_reducible apply almMeasure_kept | with_reducible apply leapNote_kept | with_reducible apply setUsable_kept | (fail_if_no_progress with_reducible refine Kept.lit rfl rfl rfl rfl rfl rfl rfl rfl rfl rfl rfl rfl ?_) | split

theorem selectMaster_kept {o s : State} (h : Kept o s) : Kept o (selectMaster s) := by
  unfold selectMaster
  try dsimp only
  repeat' first | with_reducible assumption | with_reducible apply reTrace_kept | with_reducible apply refreshErr_kept | with_reducible apply setUsable_kept | (with_reducible refine Kept.fst (by with_reducible assumption) ?_) | with_reducible apply KeptP.fst | with_reducible apply KeptC.s_kept | (intro _ _ _ _) | with_reducible apply Kept.ite | (fail_if_no_progress with_reducible refine Kept.lit rfl rfl rfl rfl rfl rfl rfl rfl rfl rfl rfl rfl ?_)

theorem execSourceLost_kept {o s : State} {a0} (h : Kept o s) : KeptOut o (execSourceLost a0 s) := by
  unfold execSourceLost
  repeat' first | with_reducible assumption | apply Kept.next | with_reducible apply selectMaster_kept | with_reducible apply setUsable_kept | (fail_if_no_progress with_reducible refine Kept.lit rfl rfl rfl rfl rfl rfl rfl rfl rfl rfl rfl rfl ?_) | split

theorem execDisputeHoldExpiry_kept {o s : State} (h : Kept o s) : KeptOut o (execDisputeHoldExpiry s) := by
  unfold execDisputeHoldExpiry
  dsimp only
  exact KeptOut.ite (Kept.next (setInc_kept (Kept.lit rfl rfl rfl rfl rfl rfl rfl rfl rfl rfl rfl rfl h) (fun _ => slewInc_ok _ _))) (Kept.next h)

theorem execRestepReady_kept {o s : State} (h : Kept o s) : KeptOut o (execRestepReady s) := by
  unfold execRestepReady
  try dsimp only
  repeat' first | with_reducible assumption | apply Kept.next | (fail_if_no_progress with_reducible refine Kept.lit rfl rfl rfl rfl rfl rfl rfl rfl rfl rfl rfl rfl ?_) | split

theorem execHoldoverTraceLoss_kept {o s : State} (h : Kept o s) : KeptOut o (execHoldoverTraceLoss s) := by
  unfold execHoldoverTraceLoss
  try dsimp only
  repeat' first | with_reducible assumption | apply Kept.next | with_reducible apply refreshErr_kept | (fail_if_no_progress with_reducible refine Kept.lit rfl rfl rfl rfl rfl rfl rfl rfl rfl rfl rfl rfl ?_) | split

theorem execLeapApply_kept {o s : State} (h : Kept o s) : KeptOut o (execLeapApply s) := by
  unfold execLeapApply
  try dsimp only
  repeat' first | with_reducible assumption | apply Kept.next | with_reducible apply fldSet_kept | with_reducible apply raise_kept | (fail_if_no_progress with_reducible refine Kept.lit rfl rfl rfl rfl rfl rfl rfl rfl rfl rfl rfl rfl ?_) | split

theorem execPpsOutPulse_kept {o s : State} (h : Kept o s) : KeptOut o (execPpsOutPulse s) := by
  unfold execPpsOutPulse
  try dsimp only
  repeat' first | with_reducible assumption | apply Kept.next | (fail_if_no_progress with_reducible refine Kept.lit rfl rfl rfl rfl rfl rfl rfl rfl rfl rfl rfl rfl ?_) | split

theorem schedPut_kept {o s : State} {a1 a2 a3 a4} (h : Kept o s) : KeptC o (schedPut s a1 a2 a3 a4) := by
  unfold schedPut
  repeat' first | with_reducible assumption | with_reducible apply CmdOut.later_kept | with_reducible apply CmdOut.ok_kept | with_reducible apply CmdOut.rej_kept | (fail_if_no_progress with_reducible refine Kept.lit rfl rfl rfl rfl rfl rfl rfl rfl rfl rfl rfl rfl ?_) | split

theorem schedAddOwn_kept {o s : State} {a0 a1} (h : Kept o s) : KeptC o (schedAddOwn a0 a1 s) := by
  unfold schedAddOwn
  try dsimp only
  repeat' first | with_reducible assumption | with_reducible apply CmdOut.rej_kept | with_reducible apply schedPut_kept | split

theorem execSchedAdd_kept {o s : State} {a0} (h : Kept o s) : KeptOut o (execSchedAdd a0 s) := by
  unfold execSchedAdd
  repeat' first | with_reducible assumption | apply Kept.next | with_reducible apply schedAddOwn_kept | with_reducible apply submit_kept | (intro _ _ _ _)

theorem schedCancelOwn_kept {o s : State} {a0 a1} (h : Kept o s) : KeptC o (schedCancelOwn a0 a1 s) := by
  unfold schedCancelOwn
  try dsimp only
  repeat' first | with_reducible assumption | with_reducible apply CmdOut.ok_kept | with_reducible apply CmdOut.rej_kept | with_reducible apply endSlot_kept | with_reducible apply freeSlot_kept | split

theorem execSchedCancel_kept {o s : State} {a0} (h : Kept o s) : KeptOut o (execSchedCancel a0 s) := by
  unfold execSchedCancel
  repeat' first | with_reducible assumption | apply Kept.next | with_reducible apply schedCancelOwn_kept | with_reducible apply submit_kept | (intro _ _ _ _)

theorem afeSnapOwn_kept {o s : State} {a0 a1} (h : Kept o s) : KeptC o (afeSnapOwn a0 a1 s) := by
  unfold afeSnapOwn
  try dsimp only
  repeat' first | with_reducible assumption | with_reducible apply CmdOut.later_kept | with_reducible apply CmdOut.rej_kept | (fail_if_no_progress with_reducible refine Kept.lit rfl rfl rfl rfl rfl rfl rfl rfl rfl rfl rfl rfl ?_) | split

theorem execAfeSnap_kept {o s : State} {a0} (h : Kept o s) : KeptOut o (execAfeSnap a0 s) := by
  unfold execAfeSnap
  repeat' first | with_reducible assumption | apply Kept.next | with_reducible apply afeSnapOwn_kept | with_reducible apply submit_kept | (intro _ _ _ _)

theorem actionEffect_kept {o s : State} {a1 a2} (h : Kept o s) : Kept o (actionEffect s a1 a2) := by
  unfold actionEffect
  repeat' first | with_reducible assumption | with_reducible apply dtoAll_kept | with_reducible apply flagSet_kept | with_reducible apply forward_kept | with_reducible apply modCup_kept | with_reducible apply pubStart_kept | with_reducible apply putReq_kept | with_reducible apply putReqIf_kept | (fail_if_no_progress with_reducible refine Kept.lit rfl rfl rfl rfl rfl rfl rfl rfl rfl rfl rfl rfl ?_) | split

theorem schedRun_kept {o s : State} {a1 a2} (h : Kept o s) : Kept o (schedRun s a1 a2) := by
  unfold schedRun
  try dsimp only
  repeat' first | with_reducible assumption | with_reducible apply actionEffect_kept | with_reducible apply complete_kept | with_reducible apply endSlot_kept | with_reducible apply freeSlot_kept | with_reducible apply raise_kept | with_reducible apply skipSlot_kept | (fail_if_no_progress with_reducible refine Kept.lit rfl rfl rfl rfl rfl rfl rfl rfl rfl rfl rfl rfl ?_) | split

theorem execSchedExecute_kept {o s : State} (h : Kept o s) : KeptOut o (execSchedExecute s) := by
  unfold execSchedExecute
  try dsimp only
  repeat' first | with_reducible assumption | apply Kept.next | with_reducible apply schedRun_kept | split

/-- A run of the stages whose state the relation reaches. -/
structure KeptF (o : State) (r : FltRun) : Prop where
  out : Kept o r.s

theorem KeptF.mk' {o s : State} {l : List FltOut} (h : Kept o s) : KeptF o ⟨s, l⟩ := ⟨h⟩

theorem KeptF.s_kept {o : State} {r : FltRun} (h : KeptF o r) : Kept o r.s := h.out

theorem KeptF.ite {o : State} {a b : FltRun} {c : Prop} [Decidable c] (ha : KeptF o a) (hb : KeptF o b) : KeptF o (if c then a else b) := by
  split
  · exact ha
  · exact hb

theorem stage4_kept {o s : State} {n a} (h : Kept o s) : KeptF o (stage4 s n a) := by
  unfold stage4
  dsimp only
  repeat' first | with_reducible assumption | with_reducible apply setFlt_kept | with_reducible apply satNote_kept | with_reducible apply raise_kept | with_reducible apply Kept.ite | split | with_reducible apply KeptF.mk'

theorem stage3_kept {o s : State} {n a j} (h : Kept o s) : KeptF o (stage3 s n a j) := by
  unfold stage3
  dsimp only
  repeat' first | with_reducible assumption | with_reducible apply stage4_kept | with_reducible apply KeptF.s_kept | with_reducible apply setFlt_kept | with_reducible apply satNote_kept | with_reducible apply raise_kept | with_reducible apply Kept.ite | with_reducible apply KeptF.ite | split | with_reducible apply KeptF.mk'

theorem stage2_kept {o s : State} {n a j} (h : Kept o s) : KeptF o (stage2 s n a j) := by
  unfold stage2
  dsimp only
  repeat' first | with_reducible assumption | with_reducible apply stage3_kept | with_reducible apply setFlt_kept | with_reducible apply KeptF.ite | split | with_reducible apply KeptF.mk'

theorem stage1_kept {o s : State} {n a j} (h : Kept o s) : KeptF o (stage1 s n a j) := by
  unfold stage1
  dsimp only
  repeat' first | with_reducible assumption | with_reducible apply stage2_kept | with_reducible apply KeptF.s_kept | with_reducible apply setFlt_kept | with_reducible apply satNote_kept | with_reducible apply Kept.ite | with_reducible apply KeptF.ite | split | with_reducible apply KeptF.mk'

theorem hrOut_kept {o s : State} {n m p e x} (h : Kept o s) : KeptF o (hrOut s n m p e x) := by
  unfold hrOut
  dsimp only
  repeat' first | with_reducible assumption | with_reducible apply satNote_kept | with_reducible apply bump_kept | with_reducible apply setFlt_kept | with_reducible apply KeptF.ite | with_reducible apply Kept.ite | with_reducible apply KeptF.mk'

theorem hrOuts_kept {o s : State} {k p e x} (h : Kept o s) : KeptF o (hrOuts s k p e x) := by
  have fold : ∀ (l : List BufEntry) (r : FltRun), KeptF o r →
      KeptF o (l.foldl (fun r a => r.then (fun st => hrOut st (2 * k + 1) (2 * k) (some e) a (some x))) r) := by
    intro l
    induction l with
    | nil => exact fun _ hr => hr
    | cons a l ih => exact fun r hr => ih _ ⟨(hrOut_kept hr.out).out⟩
  unfold hrOuts
  exact fold _ _ (hrOut_kept h)

theorem fltAdvance_kept {o s : State} {n} (h : Kept o s) : KeptF o (fltAdvance s n) := by
  unfold fltAdvance
  dsimp only
  apply KeptF.ite
  · exact KeptF.mk' h
  · split
    · apply KeptF.mk'
      apply setFlt_kept
      apply KeptF.s_kept
      apply KeptF.ite
      · apply stage1_kept
        apply setFlt_kept
        apply KeptF.s_kept
        repeat' first | with_reducible assumption | with_reducible apply hrOuts_kept | with_reducible apply raise_kept | with_reducible apply bump_kept | with_reducible apply satNote_kept | with_reducible apply setFlt_kept | with_reducible apply KeptF.ite | with_reducible apply Kept.ite | with_reducible apply KeptF.mk'
      · apply KeptF.mk'
        apply setFlt_kept
        apply KeptF.s_kept
        repeat' first | with_reducible assumption | with_reducible apply hrOuts_kept | with_reducible apply raise_kept | with_reducible apply bump_kept | with_reducible apply satNote_kept | with_reducible apply setFlt_kept | with_reducible apply KeptF.ite | with_reducible apply Kept.ite | with_reducible apply KeptF.mk'
    · exact KeptF.mk' h

theorem execFilterOutput_kept {o s : State} {a0} (h : Kept o s) : KeptOut o (execFilterOutput a0 s) := by
  unfold execFilterOutput
  dsimp only
  split
  · exact Kept.next (takeOuts_kept (fltAdvance_kept h).out)
  · split
    · exact Kept.next (sendSamples_kept h)
    · exact Kept.next h

theorem execHeartbeatSend_kept {o s : State} (h : Kept o s) : KeptOut o (execHeartbeatSend s) := by
  unfold execHeartbeatSend
  repeat' first | with_reducible assumption | apply Kept.next | with_reducible apply linkCheck_kept | with_reducible apply sendHeartbeat_kept | (fail_if_no_progress with_reducible refine Kept.lit rfl rfl rfl rfl rfl rfl rfl rfl rfl rfl rfl rfl ?_) | split

theorem execHeartbeatRx_kept {o s : State} {a0 a1} (h : Kept o s) : KeptOut o (execHeartbeatRx a0 a1 s) := by
  unfold execHeartbeatRx
  repeat' first | with_reducible assumption | apply Kept.next | with_reducible apply linkRx_kept | with_reducible apply takeHeartbeat_kept | with_reducible apply KeptP.fst | split

theorem execSamplesRx_kept {o s : State} {a0 a1} (h : Kept o s) : KeptOut o (execSamplesRx a0 a1 s) := by
  unfold execSamplesRx
  repeat' first | with_reducible assumption | apply Kept.next | with_reducible apply linkRx_kept | with_reducible apply takeSamples_kept | with_reducible apply KeptP.fst | split

theorem execMirrorDeadline_kept {o s : State} (h : Kept o s) : KeptOut o (execMirrorDeadline s) := by
  unfold execMirrorDeadline
  repeat' first | with_reducible assumption | apply Kept.next | with_reducible apply mirrorFallback_kept | split

theorem execEventRx_kept {o s : State} {a0 a1} (h : Kept o s) : KeptOut o (execEventRx a0 a1 s) := by
  unfold execEventRx
  repeat' first | with_reducible assumption | apply Kept.next | with_reducible apply linkRx_kept | with_reducible apply takeEvent_kept | with_reducible apply KeptP.fst | (with_reducible apply Kept.foldl; intro _ _ _) | split

theorem execSnapshotSend_kept {o s : State} (h : Kept o s) : KeptOut o (execSnapshotSend s) := by
  unfold execSnapshotSend
  repeat' first | with_reducible assumption | apply Kept.next | with_reducible apply sendParts_kept | with_reducible apply setMir_kept | split

theorem execSnapshotPartRx_kept {o s : State} {a0 a1 a2 a3} (h : Kept o s) : KeptOut o (execSnapshotPartRx a0 a1 a2 a3 s) := by
  unfold execSnapshotPartRx
  repeat' first | with_reducible assumption | apply Kept.next | with_reducible apply linkRx_kept | with_reducible apply takeSnapPart_kept | with_reducible apply KeptP.fst | split

theorem execSnapshotTimeout_kept {o s : State} (h : Kept o s) : KeptOut o (execSnapshotTimeout s) := by
  unfold execSnapshotTimeout
  repeat' first | with_reducible assumption | apply Kept.next | with_reducible apply discardSnap_kept | split

theorem execLaneDownTimeout_kept {o s : State} {a0} (h : Kept o s) : KeptOut o (execLaneDownTimeout a0 s) := by
  unfold execLaneDownTimeout
  repeat' first | with_reducible assumption | apply Kept.next | with_reducible apply laneDown_kept | split

theorem execMirFrameTimeout_kept {o s : State} {a0} (h : Kept o s) : KeptOut o (execMirFrameTimeout a0 s) := by
  unfold execMirFrameTimeout
  repeat' first | with_reducible assumption | apply Kept.next | with_reducible apply laneErr_kept | split

theorem execFullResyncStart_kept {o s : State} (h : Kept o s) : KeptOut o (execFullResyncStart s) := by
  unfold execFullResyncStart
  try dsimp only
  repeat' first | with_reducible assumption | apply Kept.next | with_reducible apply startFull_kept | split

theorem execBayResyncStep_kept {o s : State} (h : Kept o s) : KeptOut o (execBayResyncStep s) := by
  unfold execBayResyncStep
  try dsimp only
  repeat' first | with_reducible assumption | apply Kept.next | with_reducible apply endFull_kept | with_reducible apply setMir_kept | with_reducible apply startBayRs_kept | (with_reducible refine Kept.fst (by with_reducible assumption) ?_) | with_reducible apply KeptP.fst | with_reducible apply KeptC.s_kept | (intro _ _ _ _) | with_reducible apply Kept.ite | with_reducible apply KeptOut.ite | (fail_if_no_progress with_reducible refine Kept.lit rfl rfl rfl rfl rfl rfl rfl rfl rfl rfl rfl rfl ?_) | split

theorem execBaystateRx_kept {o s : State} {a0 a1 a2 a3 a4} (h : Kept o s) : KeptOut o (execBaystateRx a0 a1 a2 a3 a4 s) := by
  unfold execBaystateRx
  try dsimp only
  repeat' first | with_reducible assumption | apply Kept.next | with_reducible apply linkRx_kept | with_reducible apply setMir_kept | with_reducible apply tryAdopt_kept | with_reducible apply KeptP.fst | split

theorem execBayResyncTimeout_kept {o s : State} {a0} (h : Kept o s) : KeptOut o (execBayResyncTimeout a0 s) := by
  unfold execBayResyncTimeout
  repeat' first | with_reducible assumption | apply Kept.next | with_reducible apply setMir_kept | split

theorem execBayResyncRetry_kept {o s : State} {a0} (h : Kept o s) : KeptOut o (execBayResyncRetry a0 s) := by
  unfold execBayResyncRetry
  try dsimp only
  repeat' first | with_reducible assumption | apply Kept.next | with_reducible apply linkEvent_kept | with_reducible apply startBayRs_kept | (fail_if_no_progress with_reducible refine Kept.lit rfl rfl rfl rfl rfl rfl rfl rfl rfl rfl rfl rfl ?_) | split

theorem execPartnerLoss_kept {o s : State} (h : Kept o s) : KeptOut o (execPartnerLoss s) := by
  unfold execPartnerLoss
  try dsimp only
  repeat' first | with_reducible assumption | apply Kept.next | with_reducible apply cancelHand_kept | with_reducible apply detectTakeover_kept | with_reducible apply setPstate_kept | with_reducible apply stopResync_kept | split

theorem execTakeoverEffect_kept {o s : State} (h : Kept o s) : KeptOut o (execTakeoverEffect s) := by
  unfold execTakeoverEffect
  repeat' first | with_reducible assumption | apply Kept.next | with_reducible apply takeoverEffect_kept | split

theorem execRevertHoldoffExpiry_kept {o s : State} (h : Kept o s) : KeptOut o (execRevertHoldoffExpiry s) := by
  unfold execRevertHoldoffExpiry
  repeat' first | with_reducible assumption | apply Kept.next | with_reducible apply flagSet_kept | split

theorem execQuietInstant_kept {o s : State} (h : Kept o s) : KeptOut o (execQuietInstant s) := by
  unfold execQuietInstant
  try dsimp only
  repeat' first | with_reducible assumption | apply Kept.next | with_reducible apply propose_kept | split

theorem execHandoverTimeout_kept {o s : State} (h : Kept o s) : KeptOut o (execHandoverTimeout s) := by
  unfold execHandoverTimeout
  repeat' first | with_reducible assumption | apply Kept.next | with_reducible apply cancelHand_kept | split

theorem execHandoverEffect_kept {o s : State} (h : Kept o s) : KeptOut o (execHandoverEffect s) := by
  unfold execHandoverEffect
  repeat' first | with_reducible assumption | apply Kept.next | with_reducible apply handEffect_kept | split

theorem execContentionEffect_kept {o s : State} (h : Kept o s) : KeptOut o (execContentionEffect s) := by
  unfold execContentionEffect
  repeat' first | with_reducible assumption | apply Kept.next | with_reducible apply bump_kept | with_reducible apply changeMode_kept | with_reducible apply raise_kept | split

theorem ownMirRole_kept {o s : State} {a0 a1} (h : Kept o s) : KeptC o (ownMirRole a0 a1 s) := by
  unfold ownMirRole
  try dsimp only
  repeat' first | with_reducible assumption | with_reducible apply CmdOut.later_kept | with_reducible apply CmdOut.ok_kept | with_reducible apply CmdOut.rej_kept | with_reducible apply flagSet_kept | with_reducible apply linkEvent_kept | with_reducible apply propose_kept | (fail_if_no_progress with_reducible refine Kept.lit rfl rfl rfl rfl rfl rfl rfl rfl rfl rfl rfl rfl ?_) | split

theorem execMirRole_kept {o s : State} {a0} (h : Kept o s) : KeptOut o (execMirRole a0 s) := by
  unfold execMirRole
  repeat' first | with_reducible assumption | apply Kept.next | with_reducible apply ownMirRole_kept | with_reducible apply submit_kept | (intro _ _ _ _)

theorem execMirRoleQuietTimeout_kept {o s : State} (h : Kept o s) : KeptOut o (execMirRoleQuietTimeout s) := by
  unfold execMirRoleQuietTimeout
  repeat' first | with_reducible assumption | apply Kept.next | with_reducible apply endRole_kept | split

theorem ownMirSync_kept {o s : State} {a0 a1} (h : Kept o s) : KeptC o (ownMirSync a0 a1 s) := by
  unfold ownMirSync
  try dsimp only
  repeat' first | with_reducible assumption | with_reducible apply CmdOut.later_kept | with_reducible apply CmdOut.rej_kept | with_reducible apply linkEvent_kept | with_reducible apply setMir_kept | with_reducible apply startBayRs_kept | with_reducible apply startFull_kept | (fail_if_no_progress with_reducible refine Kept.lit rfl rfl rfl rfl rfl rfl rfl rfl rfl rfl rfl rfl ?_) | split

theorem execMirSync_kept {o s : State} {a0} (h : Kept o s) : KeptOut o (execMirSync a0 s) := by
  unfold execMirSync
  repeat' first | with_reducible assumption | apply Kept.next | with_reducible apply ownMirSync_kept | with_reducible apply submit_kept | (intro _ _ _ _)

end Sys2Proof.Machine
end

