-- ==== Sys2Proof/Laws/KeptImage.lean ====
section
/-! SUPPORT. That every step keeps the invariant, the lasting facts and the queue: register writes, images and the boot chain. Each lemma is read from its definition; what it calls is cited, not unfolded. -/

set_option linter.unusedTactic false
set_option linter.unreachableTactic false

namespace Sys2Proof.Machine

theorem storeWord_kept {o s : State} {a1 a2} (h : Kept o s) : Kept o (storeWord s a1 a2) := by
  unfold storeWord
  repeat' first | with_reducible assumption | with_reducible apply regSet_kept | (fail_if_no_progress with_reducible refine Kept.lit rfl rfl rfl rfl rfl rfl rfl rfl rfl rfl rfl rfl ?_) | split

theorem cfgRej_kept {o s : State} {a1} (h : Kept o s) : Kept o (cfgRej s a1) := by
  unfold cfgRej
  repeat' first | with_reducible assumption | with_reducible apply flagSet_kept | with_reducible apply Kept.ite

theorem chCfg_kept {o s : State} (h : Kept o s) : Kept o (chCfg s) := by
  unfold chCfg
  repeat' first | with_reducible assumption | with_reducible apply applyChCfg_kept | (fail_if_no_progress with_reducible refine Kept.lit rfl rfl rfl rfl rfl rfl rfl rfl rfl rfl rfl rfl ?_) | split

theorem afeCtlAct_kept {o s : State} {a0 a2 a3} (h : Kept o s) : Kept o (afeCtlAct a0 s a2 a3) := by
  unfold afeCtlAct
  try dsimp only
  repeat' first | with_reducible assumption | with_reducible apply modTrk_kept | with_reducible apply setSyncActive_kept | with_reducible apply startFastPath_kept | (with_reducible apply Kept.foldl; intro _ _ _) | (fail_if_no_progress with_reducible refine Kept.lit rfl rfl rfl rfl rfl rfl rfl rfl rfl rfl rfl rfl ?_) | split

theorem trkAct_kept {o s : State} {a1 a2 a3} (h : Kept o s) : Kept o (trkAct s a1 a2 a3) := by
  unfold trkAct
  repeat' first | with_reducible assumption | with_reducible apply modTrk_kept | split

theorem pubAct_kept {o s : State} {a1 a2} (h : Kept o s) : Kept o (pubAct s a1 a2) := by
  unfold pubAct
  repeat' first | with_reducible assumption | with_reducible apply pubStart_kept | with_reducible apply pubStop_kept | (with_reducible apply Kept.foldl; intro _ _ _) | split

theorem metCtlAct_kept {o s : State} {a1 a2} (h : Kept o s) : Kept o (metCtlAct s a1 a2) := by
  unfold metCtlAct
  repeat' first | with_reducible assumption | with_reducible apply modMet_kept | (with_reducible apply Kept.foldl; intro _ _ _) | split

theorem rotNowAct_kept {o s : State} (h : Kept o s) : Kept o (rotNowAct s) := by
  unfold rotNowAct
  repeat' first | with_reducible assumption | with_reducible apply cfgKick_kept | (fail_if_no_progress with_reducible refine Kept.lit rfl rfl rfl rfl rfl rfl rfl rfl rfl rfl rfl rfl ?_)

theorem regAct_kept {o s : State} {a0 a2 a3 a4 a5} (h : Kept o s) : Kept o (regAct a0 s a2 a3 a4 a5) := by
  unfold regAct
  try dsimp only
  repeat' first | with_reducible assumption | with_reducible apply afeCtlAct_kept | with_reducible apply almPreset_kept | with_reducible apply almSnap_kept | with_reducible apply chCfg_kept | with_reducible apply chooseSource_kept | with_reducible apply cupBayStat_kept | with_reducible apply dtoAll_kept | with_reducible apply flagSet_kept | with_reducible apply laneDown_kept | with_reducible apply linkFall_kept | with_reducible apply metCtlAct_kept | with_reducible apply modCup_kept | with_reducible apply modGrp_kept | with_reducible apply modLane_kept | with_reducible apply pubAct_kept | with_reducible apply rotNowAct_kept | with_reducible apply selectMaster_kept | with_reducible apply trkAct_kept | (with_reducible refine Kept.fst (by with_reducible assumption) ?_) | with_reducible apply KeptP.fst | with_reducible apply KeptC.s_kept | (intro _ _ _ _) | with_reducible apply Kept.ite | (fail_if_no_progress with_reducible refine Kept.lit rfl rfl rfl rfl rfl rfl rfl rfl rfl rfl rfl rfl ?_)

theorem fltCtlWrite_kept {o s : State} {a0 a2 a3} (h : Kept o s) : KeptP o (fltCtlWrite a0 s a2 a3) := by
  unfold fltCtlWrite
  repeat' first | with_reducible assumption | with_reducible apply cfgRej_kept | with_reducible apply flagSet_kept | with_reducible apply sealedWrite_kept | with_reducible apply swapRequest_kept | with_reducible apply syncReset_kept | split | with_reducible apply KeptP.pair

theorem regWrite_kept {o s : State} {a0 a2 a3} (h : Kept o s) : KeptP o (regWrite a0 s a2 a3) := by
  unfold regWrite
  repeat' first | with_reducible assumption | with_reducible apply cfgRej_kept | with_reducible apply fltCtlWrite_kept | with_reducible apply regAct_kept | with_reducible apply sealedWrite_kept | with_reducible apply storeWord_kept | with_reducible apply tapFlush_kept | split | with_reducible apply KeptP.pair

theorem regsetOne_kept {o s : State} {a1 a2} (h : Kept o s) : KeptP o (regsetOne s a1 a2) := by
  unfold regsetOne
  try dsimp only
  repeat' first | with_reducible assumption | with_reducible apply regWrite_kept | split | with_reducible apply KeptP.pair

theorem regsetRun_kept {o s : State} {a0 a2} (h : Kept o s) : KeptP o (regsetRun a0 s a2) := by
  induction a2 generalizing s a0 with
  | nil =>
    unfold regsetRun
    try dsimp only
    repeat' first | with_reducible assumption | with_reducible apply regsetOne_kept | (with_reducible refine Kept.fst (by with_reducible assumption) ?_) | with_reducible apply KeptP.fst | with_reducible apply KeptC.s_kept | (intro _ _ _ _) | with_reducible apply Kept.ite | with_reducible apply KeptP.ite | (fail_if_no_progress with_reducible refine Kept.lit rfl rfl rfl rfl rfl rfl rfl rfl rfl rfl rfl rfl ?_) | split | with_reducible apply KeptP.pair
  | cons x xs ih =>
    unfold regsetRun
    try dsimp only
    repeat' first | with_reducible assumption | with_reducible apply regsetOne_kept | with_reducible apply ih | (with_reducible refine Kept.fst (by with_reducible assumption) ?_) | with_reducible apply KeptP.fst | with_reducible apply KeptC.s_kept | (intro _ _ _ _) | with_reducible apply Kept.ite | with_reducible apply KeptP.ite | (fail_if_no_progress with_reducible refine Kept.lit rfl rfl rfl rfl rfl rfl rfl rfl rfl rfl rfl rfl ?_) | split | with_reducible apply KeptP.pair

theorem loadRejected_kept {o s : State} {a1} (h : Kept o s) : Kept o (loadRejected s a1) := by
  unfold loadRejected
  repeat' first | with_reducible assumption | with_reducible apply flagSet_kept | with_reducible apply raise_kept | with_reducible apply regSet_kept

theorem applyRegset_kept {o s : State} {a1} (h : Kept o s) : Kept o (applyRegset s a1) := by
  unfold applyRegset
  repeat' first | with_reducible assumption | with_reducible apply regsetOne_kept | with_reducible apply KeptP.fst | (with_reducible apply Kept.foldl; intro _ _ _) | (fail_if_no_progress with_reducible refine Kept.lit rfl rfl rfl rfl rfl rfl rfl rfl rfl rfl rfl rfl ?_)

theorem applyFastRun_kept {o s : State} {a1} (h : Kept o s) : Kept o (applyFastRun s a1) := by
  unfold applyFastRun
  try dsimp only
  repeat' first | with_reducible assumption | with_reducible apply startFastPath_kept | (fail_if_no_progress with_reducible refine Kept.lit rfl rfl rfl rfl rfl rfl rfl rfl rfl rfl rfl rfl ?_) | split

theorem loadFilter_kept {o s : State} {a1} (h : Kept o s) : Kept o (loadFilter s a1) := by
  unfold loadFilter
  repeat' first | with_reducible assumption | with_reducible apply setFlt_kept

theorem loadStreams_kept {o s : State} {a1 a2} (h : Kept o s) : Kept o (loadStreams s a1 a2) := by
  unfold loadStreams
  try dsimp only
  repeat' first | with_reducible assumption | with_reducible apply raise_kept | with_reducible apply regSet_kept | with_reducible apply setStrm_kept | (with_reducible apply Kept.foldl; intro _ _ _) | split

theorem loadPubs_kept {o s : State} {a1 a2 a3} (h : Kept o s) : Kept o (loadPubs s a1 a2 a3) := by
  unfold loadPubs
  repeat' first | with_reducible assumption | with_reducible apply pubStart_kept | with_reducible apply pubStop_kept | (with_reducible apply Kept.foldl; intro _ _ _) | split

theorem loadGoose_kept {o s : State} {a1} (h : Kept o s) : Kept o (loadGoose s a1) := by
  unfold loadGoose
  repeat' first | with_reducible assumption | (fail_if_no_progress with_reducible refine Kept.lit rfl rfl rfl rfl rfl rfl rfl rfl rfl rfl rfl rfl ?_)

theorem loadRecords_kept {o s : State} {a1} (h : Kept o s) : Kept o (loadRecords s a1) := by
  unfold loadRecords
  try dsimp only
  repeat' first | with_reducible assumption | with_reducible apply cupBayStat_kept | with_reducible apply cupStopped_kept | with_reducible apply drainLines_kept | with_reducible apply fldSet_kept | with_reducible apply setCup_kept | (with_reducible refine Kept.fst (by with_reducible assumption) ?_) | with_reducible apply KeptP.fst | with_reducible apply KeptC.s_kept | (with_reducible apply Kept.foldl; intro _ _ _) | (intro _ _ _ _) | with_reducible apply Kept.ite | (fail_if_no_progress with_reducible refine Kept.lit rfl rfl rfl rfl rfl rfl rfl rfl rfl rfl rfl rfl ?_) | split

theorem loadMeters_kept {o s : State} {a1} (h : Kept o s) : Kept o (loadMeters s a1) := by
  unfold loadMeters
  try dsimp only
  repeat' first | with_reducible assumption | with_reducible apply setMet_kept | with_reducible apply showMet_kept | (with_reducible apply Kept.foldl; intro _ _ _) | (fail_if_no_progress with_reducible refine Kept.lit rfl rfl rfl rfl rfl rfl rfl rfl rfl rfl rfl rfl ?_) | split

theorem loadPair_kept {o s : State} {a1} (h : Kept o s) : Kept o (loadPair s a1) := by
  unfold loadPair
  repeat' first | with_reducible assumption | with_reducible apply laneCause_kept | with_reducible apply regSet_kept | with_reducible apply setMir_kept | (fail_if_no_progress with_reducible refine Kept.lit rfl rfl rfl rfl rfl rfl rfl rfl rfl rfl rfl rfl ?_) | split

theorem fallBack_kept {o s : State} {a1 a2} (h : Kept o s) : Kept o (fallBack s a1 a2) := by
  unfold fallBack
  try dsimp only
  repeat' first | with_reducible assumption | with_reducible apply raise_kept | with_reducible apply setSrc_kept | (with_reducible apply Kept.foldl; intro _ _ _) | split

theorem keepBay_kept {o s : State} {a1 a2 a3 a4 a5} (h : Kept o s) : Kept o (keepBay s a1 a2 a3 a4 a5) := by
  unfold keepBay
  repeat' first | with_reducible assumption | with_reducible apply addReq_kept | with_reducible apply fallBack_kept | with_reducible apply setBay_kept | split

theorem restartBay_kept {o s : State} {a1 a2 a3 a4} (h : Kept o s) : Kept o (restartBay s a1 a2 a3 a4) := by
  unfold restartBay
  try dsimp only
  repeat' first | with_reducible assumption | with_reducible apply cancelMigs_kept | with_reducible apply fallBack_kept | with_reducible apply leaveGroup_kept | with_reducible apply rebuildBay_kept | (with_reducible refine Kept.fst (by with_reducible assumption) ?_) | with_reducible apply KeptP.fst | with_reducible apply KeptC.s_kept | (intro _ _ _ _) | with_reducible apply Kept.ite | (fail_if_no_progress with_reducible refine Kept.lit rfl rfl rfl rfl rfl rfl rfl rfl rfl rfl rfl rfl ?_) | split

theorem removeBay_kept {o s : State} {a1} (h : Kept o s) : Kept o (removeBay s a1) := by
  unfold removeBay
  try dsimp only
  repeat' first | with_reducible assumption | with_reducible apply cancelMigs_kept | with_reducible apply complete_kept | with_reducible apply cupStopped_kept | with_reducible apply drainLines_kept | with_reducible apply leaveGroup_kept | with_reducible apply setReqs_kept | with_reducible apply showBay_kept | with_reducible apply showOut_kept | (with_reducible refine Kept.fst (by with_reducible assumption) ?_) | with_reducible apply KeptP.fst | with_reducible apply KeptC.s_kept | (with_reducible apply Kept.foldl; intro _ _ _) | (intro _ _ _ _) | with_reducible apply Kept.ite | (fail_if_no_progress with_reducible refine Kept.lit rfl rfl rfl rfl rfl rfl rfl rfl rfl rfl rfl rfl ?_) | split

theorem loadBays_kept {o s : State} {a1 a2} (h : Kept o s) : KeptP o (loadBays s a1 a2) := by
  unfold loadBays
  repeat' first | with_reducible assumption | with_reducible apply dropMig_kept | with_reducible apply keepBay_kept | with_reducible apply removeBay_kept | with_reducible apply restartBay_kept | (with_reducible apply Kept.foldl; intro _ _ _) | split | with_reducible apply KeptP.pair

theorem restartPrecopy_kept {o s : State} (h : Kept o s) : Kept o (restartPrecopy s) := by
  unfold restartPrecopy
  try dsimp only
  repeat' first | with_reducible assumption | (with_reducible refine Kept.fst (by with_reducible assumption) ?_) | with_reducible apply KeptP.fst | with_reducible apply KeptC.s_kept | (intro _ _ _ _) | with_reducible apply Kept.ite | (fail_if_no_progress with_reducible refine Kept.lit rfl rfl rfl rfl rfl rfl rfl rfl rfl rfl rfl rfl ?_)

theorem applyScheme_kept {o s : State} {a1 a2} (h : Kept o s) : Kept o (applyScheme s a1 a2) := by
  unfold applyScheme
  try dsimp only
  repeat' first | with_reducible assumption | with_reducible apply applyFastRun_kept | with_reducible apply applyRegset_kept | with_reducible apply cfgKick_kept | with_reducible apply cupStat_kept | with_reducible apply dtoAll_kept | with_reducible apply loadBays_kept | with_reducible apply loadFilter_kept | with_reducible apply loadGoose_kept | with_reducible apply loadMeters_kept | with_reducible apply loadPair_kept | with_reducible apply loadPubs_kept | with_reducible apply loadRecords_kept | with_reducible apply loadStreams_kept | with_reducible apply mirShow_kept | with_reducible apply pairLetGo_kept | with_reducible apply raise_kept | with_reducible apply regSet_kept | with_reducible apply restartPrecopy_kept | with_reducible apply showLks_kept | with_reducible apply showRunning_kept | with_reducible apply showSpares_kept | (with_reducible refine Kept.fst (by with_reducible assumption) ?_) | with_reducible apply KeptP.fst | with_reducible apply KeptC.s_kept | (with_reducible apply Kept.foldl; intro _ _ _) | (intro _ _ _ _) | with_reducible apply Kept.ite | (fail_if_no_progress with_reducible refine Kept.lit rfl rfl rfl rfl rfl rfl rfl rfl rfl rfl rfl rfl ?_)

theorem imageVerified_kept {o s : State} {a1 a2} (h : Kept o s) : Kept o (imageVerified s a1 a2) := by
  unfold imageVerified
  repeat' first | with_reducible assumption | with_reducible apply raise_kept

theorem authFailed_kept {o s : State} {a1} (h : Kept o s) : Kept o (authFailed s a1) := by
  unfold authFailed
  repeat' first | with_reducible assumption | with_reducible apply bump_kept | with_reducible apply raise_kept

theorem tokenFail_kept {o s : State} {a1} (h : Kept o s) : Kept o (tokenFail s a1) := by
  unfold tokenFail
  try dsimp only
  repeat' first | with_reducible assumption | with_reducible apply authFailed_kept | (fail_if_no_progress with_reducible refine Kept.lit rfl rfl rfl rfl rfl rfl rfl rfl rfl rfl rfl rfl ?_) | split

theorem serial_kept {o s : State} {x : Flash} (h : Kept o s) (e : s.flash.serial ≤ x.serial) : Kept o { s with flash := x } :=
  h.trans ⟨rfl, ⟨rfl, e, fun _ y => y⟩, fun i => ⟨i.mem, i.regs, i.ns, i.frac, i.inc, i.incBase, i.hist, i.held⟩⟩
theorem tokenValid_serial {s : State} {t : List Byte} {op arg : Nat} (hv : tokenValid s t op arg = true) : s.flash.serial < field t 16 8 := by
  unfold tokenValid at hv
  simp only [Bool.and_eq_true, decide_eq_true_eq] at hv
  exact hv.1.2
theorem takeToken_kept {o s : State} {e op arg more} (h : Kept o s) : KeptP o (takeToken s e op arg more) := by
  unfold takeToken
  by_cases hv : tokenValid s (hostRead s e.token 896) op arg = true
  · have hs := Nat.le_of_lt (tokenValid_serial hv)
    dsimp only
    split
    · exact KeptP.pair (tokenFail_kept h)
    · exact KeptP.pair (appendLog_kept (raise_kept (serial_kept h hs)))
  · dsimp only
    rw [if_pos (by simp [hv])]
    exact KeptP.pair (tokenFail_kept h)

theorem needToken_kept {o s : State} {a1 a2 a3} (h : Kept o s) : KeptP o (needToken s a1 a2 a3) := by
  unfold needToken
  repeat' first | with_reducible assumption | with_reducible apply takeToken_kept | with_reducible apply KeptP.fst | split | with_reducible apply KeptP.pair

theorem restoreRecs_kept {o s : State} (h : Kept o s) : Kept o (restoreRecs s) := by
  unfold restoreRecs
  repeat' first | with_reducible assumption | with_reducible apply cupStat_kept | with_reducible apply raise_kept | with_reducible apply regSet_kept | (fail_if_no_progress with_reducible refine Kept.lit rfl rfl rfl rfl rfl rfl rfl rfl rfl rfl rfl rfl ?_) | split

theorem restoreRecsFail_kept {o s : State} (h : Kept o s) : Kept o (restoreRecsFail s) := by
  unfold restoreRecsFail
  repeat' first | with_reducible assumption | with_reducible apply flagSet_kept | with_reducible apply raise_kept | with_reducible apply regSet_kept

theorem restoreMetFail_kept {o s : State} (h : Kept o s) : Kept o (restoreMetFail s) := by
  unfold restoreMetFail
  repeat' first | with_reducible assumption | with_reducible apply flagSet_kept | with_reducible apply raise_kept

theorem restoreFlash_kept {o s : State} (h : Kept o s) : Kept o (restoreFlash s) := by
  unfold restoreFlash
  repeat' first | with_reducible assumption | with_reducible apply metRestore_kept | with_reducible apply raise_kept | with_reducible apply regSet_kept | with_reducible apply restoreMetFail_kept | with_reducible apply restoreRecs_kept | with_reducible apply restoreRecsFail_kept | (with_reducible apply Kept.foldl; intro _ _ _) | (fail_if_no_progress with_reducible refine Kept.lit rfl rfl rfl rfl rfl rfl rfl rfl rfl rfl rfl rfl ?_) | split

theorem haltChain_kept {o s : State} {a1} (h : Kept o s) : Kept o (haltChain s a1) := by
  unfold haltChain
  repeat' first | with_reducible assumption | with_reducible apply raise_kept | (fail_if_no_progress with_reducible refine Kept.lit rfl rfl rfl rfl rfl rfl rfl rfl rfl rfl rfl rfl ?_)

theorem makeIdentity_kept {o s : State} (h : Kept o s) : Kept o (makeIdentity s) := by
  unfold makeIdentity
  repeat' first | with_reducible assumption | with_reducible apply bumpFree_kept | (fail_if_no_progress with_reducible refine Kept.lit rfl rfl rfl rfl rfl rfl rfl rfl rfl rfl rfl rfl ?_) | split

theorem vendorStage_kept {o s : State} {a1 a2 a3} (h : Kept o s) (hf : ∀ b i st, Kept o st → Kept o (a3 b i st)) : Kept o (vendorStage s a1 a2 a3) := by
  unfold vendorStage
  repeat' first | with_reducible assumption | with_reducible apply authFailed_kept | with_reducible apply haltChain_kept | with_reducible apply imageVerified_kept | with_reducible apply hf | (fail_if_no_progress with_reducible refine Kept.lit rfl rfl rfl rfl rfl rfl rfl rfl rfl rfl rfl rfl ?_) | split

theorem bootCal_kept {o s : State} (h : Kept o s) : Kept o (bootCal s) := by
  unfold bootCal
  try dsimp only
  repeat' first | with_reducible assumption | with_reducible apply setTerms_kept | (with_reducible refine Kept.fst (by with_reducible assumption) ?_) | with_reducible apply KeptP.fst | with_reducible apply KeptC.s_kept | (with_reducible apply Kept.foldl; intro _ _ _)

theorem bootStage1_kept {o s : State} {a1 a2} (h : Kept o s) : Kept o (bootStage1 s a1 a2) := by
  unfold bootStage1
  try dsimp only
  repeat' first | with_reducible assumption | with_reducible apply bootCal_kept | with_reducible apply haltChain_kept | with_reducible apply makeIdentity_kept | with_reducible apply vendorStage_kept | (with_reducible refine Kept.fst (by with_reducible assumption) ?_) | with_reducible apply KeptP.fst | with_reducible apply KeptC.s_kept | (intro _ _ _ _) | with_reducible apply Kept.ite | (fail_if_no_progress with_reducible refine Kept.lit rfl rfl rfl rfl rfl rfl rfl rfl rfl rfl rfl rfl ?_)

theorem bootLibrary_kept {o s : State} (h : Kept o s) : Kept o (bootLibrary s) := by
  unfold bootLibrary
  repeat' first | with_reducible assumption | with_reducible apply regSet_kept | with_reducible apply vendorStage_kept | (intro _ _ _ _) | (fail_if_no_progress with_reducible refine Kept.lit rfl rfl rfl rfl rfl rfl rfl rfl rfl rfl rfl rfl ?_)

theorem bootScheme_kept {o s : State} (h : Kept o s) : Kept o (bootScheme s) := by
  unfold bootScheme
  repeat' first | with_reducible assumption | with_reducible apply haltChain_kept | with_reducible apply imageVerified_kept | with_reducible apply loadRejected_kept | (fail_if_no_progress with_reducible refine Kept.lit rfl rfl rfl rfl rfl rfl rfl rfl rfl rfl rfl rfl ?_) | split

theorem bootEnter_kept {o s : State} (h : Kept o s) : Kept o (bootEnter s) := by
  unfold bootEnter
  repeat' first | with_reducible assumption | with_reducible apply applyScheme_kept | with_reducible apply cfgKick_kept | with_reducible apply changeMode_kept | with_reducible apply restoreFlash_kept | with_reducible apply safeAgain_kept | with_reducible apply setEpoch_kept | with_reducible apply showSpares_kept | (fail_if_no_progress with_reducible refine Kept.lit rfl rfl rfl rfl rfl rfl rfl rfl rfl rfl rfl rfl ?_) | split

theorem execBootStageVerified_kept {o s : State} {a0 a1} (h : Kept o s) : KeptOut o (execBootStageVerified a0 a1 s) := by
  unfold execBootStageVerified
  repeat' first | with_reducible assumption | apply Kept.next | with_reducible apply bootEnter_kept | with_reducible apply bootLibrary_kept | with_reducible apply bootScheme_kept | with_reducible apply bootStage1_kept | split

theorem execDramTrainingDone_kept {o s : State} {a0 a1} (h : Kept o s) : KeptOut o (execDramTrainingDone a0 a1 s) := by
  unfold execDramTrainingDone
  try dsimp only
  repeat' first | with_reducible assumption | apply Kept.next | with_reducible apply fldSet_kept | with_reducible apply haltChain_kept | (fail_if_no_progress with_reducible refine Kept.lit rfl rfl rfl rfl rfl rfl rfl rfl rfl rfl rfl rfl ?_) | split

end Sys2Proof.Machine
end

