-- ==== Sys2Proof/Laws/KeptHost.lean ====
section
/-! SUPPORT. That every step keeps the invariant, the lasting facts and the queue: the host interface, the data port and the rows of bays, ports, lockstep and placement. Each lemma is read from its definition; what it calls is cited, not unfolded. -/

set_option linter.unusedTactic false
set_option linter.unreachableTactic false

namespace Sys2Proof.Machine

theorem dpcAdvance_kept {o s : State} {a1} (h : Kept o s) : Kept o (dpcAdvance s a1) := by
  unfold dpcAdvance
  repeat' first | with_reducible assumption | with_reducible apply regSet_kept

theorem dpcUnderrun_kept {o s : State} {a1} (h : Kept o s) : Kept o (dpcUnderrun s a1) := by
  unfold dpcUnderrun
  repeat' first | with_reducible assumption | with_reducible apply bump_kept | with_reducible apply flagSet_kept | with_reducible apply raise_kept | (fail_if_no_progress with_reducible refine Kept.lit rfl rfl rfl rfl rfl rfl rfl rfl rfl rfl rfl rfl ?_) | split

theorem dportRead_kept {o s : State} {a1 a2} (h : Kept o s) : Kept o (dportRead s a1 a2) := by
  unfold dportRead
  try dsimp only
  repeat' first | with_reducible assumption | with_reducible apply bump_kept | with_reducible apply bumpFree_kept | with_reducible apply dpcAdvance_kept | with_reducible apply dpcUnderrun_kept | (fail_if_no_progress with_reducible refine Kept.lit rfl rfl rfl rfl rfl rfl rfl rfl rfl rfl rfl rfl ?_) | split

theorem coefPut_kept {o s : State} {a1 a2} (h : Kept o s) : Kept o (coefPut s a1 a2) := by
  unfold coefPut
  repeat' first | with_reducible assumption | with_reducible apply setFlt_kept

theorem statPut_kept {o s : State} {a1 a2 a3} (h : Kept o s) : Kept o (statPut s a1 a2 a3) := by
  unfold statPut
  repeat' first | with_reducible assumption | with_reducible apply modCup_kept

theorem intPutIn_kept {o s : State} {a1 a2 a3 a4} (h : Kept o s) : KeptP o (intPutIn s a1 a2 a3 a4) := by
  unfold intPutIn
  repeat' first | with_reducible assumption | with_reducible apply coefPut_kept | with_reducible apply flagSet_kept | with_reducible apply statPut_kept | (fail_if_no_progress with_reducible refine Kept.lit rfl rfl rfl rfl rfl rfl rfl rfl rfl rfl rfl rfl ?_) | split | with_reducible apply KeptP.pair

theorem intPut_kept {o s : State} {a1 a2 a3} (h : Kept o s) : KeptP o (intPut s a1 a2 a3) := by
  unfold intPut
  repeat' first | with_reducible assumption | with_reducible apply intPutIn_kept

theorem dportWrite_kept {o s : State} {a1 a2} (h : Kept o s) : Kept o (dportWrite s a1 a2) := by
  unfold dportWrite
  repeat' first | with_reducible assumption | with_reducible apply bump_kept | with_reducible apply dpcAdvance_kept | with_reducible apply flagSet_kept | with_reducible apply intPut_kept | with_reducible apply sealedWrite_kept | with_reducible apply KeptP.fst | (with_reducible apply KeptP.foldl; intro _ _ _) | split | with_reducible apply KeptP.pair

theorem dpcAddrPut_kept {o s : State} {a1 a2} (h : Kept o s) : Kept o (dpcAddrPut s a1 a2) := by
  unfold dpcAddrPut
  repeat' first | with_reducible assumption | with_reducible apply flagSet_kept | with_reducible apply regSet_kept | split

theorem nopOwn_kept {o s : State} {a0 a1} (h : Kept o s) : KeptC o (nopOwn a0 a1 s) := by
  unfold nopOwn
  repeat' first | with_reducible assumption | with_reducible apply CmdOut.ok_kept

theorem execNop_kept {o s : State} {a0} (h : Kept o s) : KeptOut o (execNop a0 s) := by
  unfold execNop
  repeat' first | with_reducible assumption | apply Kept.next | with_reducible apply nopOwn_kept | with_reducible apply submit_kept | (intro _ _ _ _)

theorem identifyOwn_kept {o s : State} {a0 a1} (h : Kept o s) : KeptC o (identifyOwn a0 a1 s) := by
  unfold identifyOwn
  repeat' first | with_reducible assumption | with_reducible apply CmdOut.ok_kept

theorem execIdentify_kept {o s : State} {a0} (h : Kept o s) : KeptOut o (execIdentify a0 s) := by
  unfold execIdentify
  repeat' first | with_reducible assumption | apply Kept.next | with_reducible apply identifyOwn_kept | with_reducible apply submit_kept | (intro _ _ _ _)

theorem ringReady_kept {o s : State} {a1 a2} (h : Kept o s) : Kept o (ringReady s a1 a2) := by
  unfold ringReady
  try dsimp only
  repeat' first | with_reducible assumption | with_reducible apply logRoom_kept | with_reducible apply raise_kept | with_reducible apply redeliver_kept | (fail_if_no_progress with_reducible refine Kept.lit rfl rfl rfl rfl rfl rfl rfl rfl rfl rfl rfl rfl ?_) | split

theorem ringCreateOwn_kept {o s : State} {a0 a1} (h : Kept o s) : KeptC o (ringCreateOwn a0 a1 s) := by
  unfold ringCreateOwn
  try dsimp only
  repeat' first | with_reducible assumption | with_reducible apply CmdOut.ok_kept | with_reducible apply CmdOut.rej_kept | with_reducible apply ringReady_kept | split

theorem execRingCreate_kept {o s : State} {a0} (h : Kept o s) : KeptOut o (execRingCreate a0 s) := by
  unfold execRingCreate
  repeat' first | with_reducible assumption | apply Kept.next | with_reducible apply ringCreateOwn_kept | with_reducible apply submit_kept | (intro _ _ _ _)

theorem ringDestroyOwn_kept {o s : State} {a0 a1} (h : Kept o s) : KeptC o (ringDestroyOwn a0 a1 s) := by
  unfold ringDestroyOwn
  try dsimp only
  repeat' first | with_reducible assumption | with_reducible apply CmdOut.ok_kept | with_reducible apply CmdOut.rej_kept | (fail_if_no_progress with_reducible refine Kept.lit rfl rfl rfl rfl rfl rfl rfl rfl rfl rfl rfl rfl ?_) | split

theorem execRingDestroy_kept {o s : State} {a0} (h : Kept o s) : KeptOut o (execRingDestroy a0 s) := by
  unfold execRingDestroy
  repeat' first | with_reducible assumption | apply Kept.next | with_reducible apply ringDestroyOwn_kept | with_reducible apply submit_kept | (intro _ _ _ _)

theorem adminEnable_kept {o s : State} (h : Kept o s) : Kept o (adminEnable s) := by
  unfold adminEnable
  repeat' first | with_reducible assumption | with_reducible apply flagSet_kept | with_reducible apply ringReady_kept | split

theorem execAdminEn_kept {o s : State} (h : Kept o s) : KeptOut o (execAdminEn s) := by
  unfold execAdminEn
  repeat' first | with_reducible assumption | apply Kept.next | with_reducible apply adminEnable_kept | split

theorem resetHost_kept {o s : State} (h : Kept o s) : Kept o (resetHost s) := by
  unfold resetHost
  repeat' first | with_reducible assumption | with_reducible apply flagSet_kept | with_reducible apply regSet_kept | (with_reducible apply Kept.foldl; intro _ _ _) | (fail_if_no_progress with_reducible refine Kept.lit rfl rfl rfl rfl rfl rfl rfl rfl rfl rfl rfl rfl ?_)

theorem execAdminReset_kept {o s : State} (h : Kept o s) : KeptOut o (execAdminReset s) := by
  unfold execAdminReset
  repeat' first | with_reducible assumption | apply Kept.next | with_reducible apply resetHost_kept | split

theorem execPcieFlr_kept {o s : State} (h : Kept o s) : KeptOut o (execPcieFlr s) := by
  unfold execPcieFlr
  repeat' first | with_reducible assumption | apply Kept.next | with_reducible apply resetHost_kept | split

theorem execPerstAssert_kept {o s : State} {a0} (h : Kept o s) : KeptOut o (execPerstAssert a0 s) := by
  unfold execPerstAssert
  repeat' first | with_reducible assumption | apply Kept.next | (fail_if_no_progress with_reducible refine Kept.lit rfl rfl rfl rfl rfl rfl rfl rfl rfl rfl rfl rfl ?_)

theorem execPcieLinkUp_kept {o s : State} (h : Kept o s) : KeptOut o (execPcieLinkUp s) := by
  unfold execPcieLinkUp
  repeat' first | with_reducible assumption | apply Kept.next | with_reducible apply resetHost_kept | (fail_if_no_progress with_reducible refine Kept.lit rfl rfl rfl rfl rfl rfl rfl rfl rfl rfl rfl rfl ?_) | split

theorem sendPending_kept {o s : State} (h : Kept o s) : Kept o (sendPending s) := by
  unfold sendPending
  repeat' first | with_reducible assumption | (with_reducible apply Kept.foldl; intro _ _ _) | (fail_if_no_progress with_reducible refine Kept.lit rfl rfl rfl rfl rfl rfl rfl rfl rfl rfl rfl rfl ?_) | split

theorem execPciePowerStateChange_kept {o s : State} {a0} (h : Kept o s) : KeptOut o (execPciePowerStateChange a0 s) := by
  unfold execPciePowerStateChange
  repeat' first | with_reducible assumption | apply Kept.next | with_reducible apply logRoom_kept | with_reducible apply redeliver_kept | with_reducible apply sendPending_kept | (fail_if_no_progress with_reducible refine Kept.lit rfl rfl rfl rfl rfl rfl rfl rfl rfl rfl rfl rfl ?_) | split

theorem badDoorbell_kept {o s : State} {a1 a2} (h : Kept o s) : Kept o (badDoorbell s a1 a2) := by
  unfold badDoorbell
  repeat' first | with_reducible assumption | with_reducible apply bump_kept | with_reducible apply flagSet_kept | with_reducible apply raise_kept

theorem doorbell_kept {o s : State} {a1 a2} (h : Kept o s) : Kept o (doorbell s a1 a2) := by
  unfold doorbell
  try dsimp only
  repeat' first | with_reducible assumption | with_reducible apply badDoorbell_kept | with_reducible apply bump_kept | with_reducible apply logRoom_kept | with_reducible apply modRing_kept | (fail_if_no_progress with_reducible refine Kept.lit rfl rfl rfl rfl rfl rfl rfl rfl rfl rfl rfl rfl ?_) | split

theorem execCmdDoorbell_kept {o s : State} {a0 a1} (h : Kept o s) : KeptOut o (execCmdDoorbell a0 a1 s) := by
  unfold execCmdDoorbell
  repeat' first | with_reducible assumption | apply Kept.next | with_reducible apply doorbell_kept | split

theorem execMsixModerationExpiry_kept {o s : State} {a0} (h : Kept o s) : KeptOut o (execMsixModerationExpiry a0 s) := by
  unfold execMsixModerationExpiry
  repeat' first | with_reducible assumption | apply Kept.next | with_reducible apply askVector_kept

theorem execMsixVectorUnmask_kept {o s : State} {a0} (h : Kept o s) : KeptOut o (execMsixVectorUnmask a0 s) := by
  unfold execMsixVectorUnmask
  repeat' first | with_reducible assumption | apply Kept.next | with_reducible apply sendPending_kept | (fail_if_no_progress with_reducible refine Kept.lit rfl rfl rfl rfl rfl rfl rfl rfl rfl rfl rfl rfl ?_) | split

theorem execDportRead_kept {o s : State} {a0 a1} (h : Kept o s) : KeptOut o (execDportRead a0 a1 s) := by
  unfold execDportRead
  repeat' first | with_reducible assumption | apply Kept.next | with_reducible apply dportRead_kept | split

theorem execDportWrite_kept {o s : State} {a0 a1} (h : Kept o s) : KeptOut o (execDportWrite a0 a1 s) := by
  unfold execDportWrite
  repeat' first | with_reducible assumption | apply Kept.next | with_reducible apply dportWrite_kept | split

theorem execDportUnderrun_kept {o s : State} {a0} (h : Kept o s) : KeptOut o (execDportUnderrun a0 s) := by
  unfold execDportUnderrun
  repeat' first | with_reducible assumption | apply Kept.next | with_reducible apply dpcUnderrun_kept | split

theorem execDpcAddrWrite_kept {o s : State} {a0 a1} (h : Kept o s) : KeptOut o (execDpcAddrWrite a0 a1 s) := by
  unfold execDpcAddrWrite
  repeat' first | with_reducible assumption | apply Kept.next | with_reducible apply dpcAddrPut_kept | split

theorem execLogCheckpoint_kept {o s : State} (h : Kept o s) : KeptOut o (execLogCheckpoint s) := by
  unfold execLogCheckpoint
  repeat' first | with_reducible assumption | apply Kept.next | with_reducible apply logCheckpoint_kept | split

theorem dmaError_kept {o s : State} {a1 a2} (h : Kept o s) : Kept o (dmaError s a1 a2) := by
  unfold dmaError
  repeat' first | with_reducible assumption | with_reducible apply bump_kept | with_reducible apply flagSet_kept | with_reducible apply raise_kept

theorem haltRing_kept {o s : State} {a1} (h : Kept o s) : Kept o (haltRing s a1) := by
  unfold haltRing
  repeat' first | with_reducible assumption | with_reducible apply dmaError_kept | with_reducible apply modRing_kept | split

theorem dmaFailOwn_kept {o s : State} {a0 a1 a2} (h : Kept o s) : KeptC o (dmaFailOwn a0 a1 a2 s) := by
  unfold dmaFailOwn
  repeat' first | with_reducible assumption | with_reducible apply CmdOut.rejAfter_kept | with_reducible apply dmaError_kept

theorem execDmaCompletionTimeout_kept {o s : State} {a0} (h : Kept o s) : KeptOut o (execDmaCompletionTimeout a0 s) := by
  unfold execDmaCompletionTimeout
  repeat' first | with_reducible assumption | apply Kept.next | with_reducible apply dmaFailOwn_kept | with_reducible apply haltRing_kept | with_reducible apply submit_kept | (intro _ _ _ _) | split

theorem bayStartOwn_kept {o s : State} {a0 a1} (h : Kept o s) : KeptC o (bayStartOwn a0 a1 s) := by
  unfold bayStartOwn
  try dsimp only
  repeat' first | with_reducible assumption | with_reducible apply CmdOut.ok_kept | with_reducible apply CmdOut.rej_kept | with_reducible apply CmdOut.rejAfter_kept | with_reducible apply forward_kept | with_reducible apply putReq_kept | with_reducible apply raise_kept | split

theorem execBayStart_kept {o s : State} {a0} (h : Kept o s) : KeptOut o (execBayStart a0 s) := by
  unfold execBayStart
  repeat' first | with_reducible assumption | apply Kept.next | with_reducible apply bayStartOwn_kept | with_reducible apply submit_kept | (intro _ _ _ _)

theorem bayStopOwn_kept {o s : State} {a0 a1} (h : Kept o s) : KeptC o (bayStopOwn a0 a1 s) := by
  unfold bayStopOwn
  try dsimp only
  repeat' first | with_reducible assumption | with_reducible apply CmdOut.ok_kept | with_reducible apply CmdOut.rej_kept | with_reducible apply forward_kept | with_reducible apply putReq_kept | split

theorem execBayStop_kept {o s : State} {a0} (h : Kept o s) : KeptOut o (execBayStop a0 s) := by
  unfold execBayStop
  repeat' first | with_reducible assumption | apply Kept.next | with_reducible apply bayStopOwn_kept | with_reducible apply submit_kept | (intro _ _ _ _)

theorem groupSelectOwn_kept {o s : State} {a0 a1} (h : Kept o s) : KeptC o (groupSelectOwn a0 a1 s) := by
  unfold groupSelectOwn
  try dsimp only
  repeat' first | with_reducible assumption | with_reducible apply CmdOut.ok_kept | with_reducible apply CmdOut.rej_kept | with_reducible apply forward_kept | with_reducible apply putReq_kept | split

theorem execGroupSelect_kept {o s : State} {a0} (h : Kept o s) : KeptOut o (execGroupSelect a0 s) := by
  unfold execGroupSelect
  repeat' first | with_reducible assumption | apply Kept.next | with_reducible apply groupSelectOwn_kept | with_reducible apply submit_kept | (intro _ _ _ _)

theorem bayStateReadOwn_kept {o s : State} {a0 a1} (h : Kept o s) : KeptC o (bayStateReadOwn a0 a1 s) := by
  unfold bayStateReadOwn
  try dsimp only
  repeat' first | with_reducible assumption | with_reducible apply CmdOut.later_kept | with_reducible apply CmdOut.rej_kept | with_reducible apply takeReads_kept | (fail_if_no_progress with_reducible refine Kept.lit rfl rfl rfl rfl rfl rfl rfl rfl rfl rfl rfl rfl ?_) | split

theorem execBayStateRead_kept {o s : State} {a0} (h : Kept o s) : KeptOut o (execBayStateRead a0 s) := by
  unfold execBayStateRead
  repeat' first | with_reducible assumption | apply Kept.next | with_reducible apply bayStateReadOwn_kept | with_reducible apply submit_kept | (intro _ _ _ _)

theorem askReset_kept {o s : State} {a1} (h : Kept o s) : KeptP o (askReset s a1) := by
  unfold askReset
  repeat' first | with_reducible assumption | with_reducible apply forward_kept | with_reducible apply putReq_kept | with_reducible apply raise_kept | with_reducible apply resetsDue_kept | split | with_reducible apply KeptP.pair

theorem targetResetOwn_kept {o s : State} {a0 a1} (h : Kept o s) : KeptC o (targetResetOwn a0 a1 s) := by
  unfold targetResetOwn
  try dsimp only
  repeat' first | with_reducible assumption | with_reducible apply CmdOut.ok_kept | with_reducible apply CmdOut.rej_kept | with_reducible apply askReset_kept | with_reducible apply KeptP.fst | (with_reducible apply KeptP.foldl; intro _ _ _) | split | with_reducible apply KeptP.pair

theorem execTargetReset_kept {o s : State} {a0} (h : Kept o s) : KeptOut o (execTargetReset a0 s) := by
  unfold execTargetReset
  repeat' first | with_reducible assumption | apply Kept.next | with_reducible apply submit_kept | with_reducible apply targetResetOwn_kept | (intro _ _ _ _)

theorem firstTask_kept {o s : State} (h : Kept o s) : Kept o (firstTask s) := by
  unfold firstTask
  repeat' first | with_reducible assumption | with_reducible apply regSet_kept | (fail_if_no_progress with_reducible refine Kept.lit rfl rfl rfl rfl rfl rfl rfl rfl rfl rfl rfl rfl ?_) | split

theorem execBayTaskStart_kept {o s : State} {a0 a1} (h : Kept o s) : KeptOut o (execBayTaskStart a0 a1 s) := by
  unfold execBayTaskStart
  try dsimp only
  repeat' first | with_reducible assumption | apply Kept.next | with_reducible apply correctedError_kept | with_reducible apply firstTask_kept | with_reducible apply metInstant_kept | with_reducible apply startTask_kept | with_reducible apply tryAdopt_kept | (with_reducible apply Kept.foldl; intro _ _ _) | split

theorem execTaskWatchdog_kept {o s : State} {a0} (h : Kept o s) : KeptOut o (execTaskWatchdog a0 s) := by
  unfold execTaskWatchdog
  repeat' first | with_reducible assumption | apply Kept.next | with_reducible apply bump_kept | with_reducible apply dropTask_kept | with_reducible apply mirAfter_kept | with_reducible apply modBay_kept | with_reducible apply raise_kept | with_reducible apply taskBoundary_kept | split

theorem sweepEnd_kept {o s : State} (h : Kept o s) : Kept o (sweepEnd s) := by
  unfold sweepEnd
  repeat' first | with_reducible assumption | with_reducible apply selfFinish_kept | split

theorem execEarlyWindowClose_kept {o s : State} {a0 a1} (h : Kept o s) : KeptOut o (execEarlyWindowClose a0 a1 s) := by
  unfold execEarlyWindowClose
  repeat' first | with_reducible assumption | apply Kept.next | with_reducible apply closeEarly_kept | with_reducible apply mirAfter_kept | with_reducible apply sweepEnd_kept | split

theorem execWindowClose_kept {o s : State} {a0 a1} (h : Kept o s) : KeptOut o (execWindowClose a0 a1 s) := by
  unfold execWindowClose
  repeat' first | with_reducible assumption | apply Kept.next | with_reducible apply closeWindow_kept | with_reducible apply mirAfter_kept | with_reducible apply sweepEnd_kept | split

theorem execBayStartEffect_kept {o s : State} {a0} (h : Kept o s) : KeptOut o (execBayStartEffect a0 s) := by
  unfold execBayStartEffect
  repeat' first | with_reducible assumption | apply Kept.next | with_reducible apply setReqs_kept | with_reducible apply startBay_kept | split

theorem execBayStopEffect_kept {o s : State} {a0} (h : Kept o s) : KeptOut o (execBayStopEffect a0 s) := by
  unfold execBayStopEffect
  try dsimp only
  repeat' first | with_reducible assumption | apply Kept.next | with_reducible apply bayLeft_kept | with_reducible apply stopBay_kept | split

theorem execGroupSwitchEffect_kept {o s : State} {a0} (h : Kept o s) : KeptOut o (execGroupSwitchEffect a0 s) := by
  unfold execGroupSwitchEffect
  repeat' first | with_reducible assumption | apply Kept.next | with_reducible apply switchesDue_kept | split

theorem execTargetResetEffect_kept {o s : State} {a0} (h : Kept o s) : KeptOut o (execTargetResetEffect a0 s) := by
  unfold execTargetResetEffect
  repeat' first | with_reducible assumption | apply Kept.next | with_reducible apply resetsDue_kept | split

theorem showBin_kept {o s : State} {a1} (h : Kept o s) : Kept o (showBin s a1) := by
  unfold showBin
  repeat' first | with_reducible assumption | with_reducible apply flagSet_kept

theorem acceptBin_kept {o s : State} {a1 a2 a3 a4} (h : Kept o s) : Kept o (acceptBin s a1 a2 a3 a4) := by
  unfold acceptBin
  try dsimp only
  repeat' first | with_reducible assumption | with_reducible apply flagSet_kept | with_reducible apply raise_kept | with_reducible apply showBin_kept | (fail_if_no_progress with_reducible refine Kept.lit rfl rfl rfl rfl rfl rfl rfl rfl rfl rfl rfl rfl ?_) | split

theorem execBinAccept_kept {o s : State} {a0 a1 a2 a3} (h : Kept o s) : KeptOut o (execBinAccept a0 a1 a2 a3 s) := by
  unfold execBinAccept
  try dsimp only
  repeat' first | with_reducible assumption | apply Kept.next | with_reducible apply acceptBin_kept | split

theorem execBinChatterRelease_kept {o s : State} {a0 a1} (h : Kept o s) : KeptOut o (execBinChatterRelease a0 a1 s) := by
  unfold execBinChatterRelease
  try dsimp only
  repeat' first | with_reducible assumption | apply Kept.next | with_reducible apply showBin_kept | (fail_if_no_progress with_reducible refine Kept.lit rfl rfl rfl rfl rfl rfl rfl rfl rfl rfl rfl rfl ?_) | split

theorem execDtoDemandFall_kept {o s : State} {a0} (h : Kept o s) : KeptOut o (execDtoDemandFall a0 s) := by
  unfold execDtoDemandFall
  repeat' first | with_reducible assumption | apply Kept.next | with_reducible apply dtoAll_kept | split

theorem execDtoFault_kept {o s : State} {a0} (h : Kept o s) : KeptOut o (execDtoFault a0 s) := by
  unfold execDtoFault
  repeat' first | with_reducible assumption | apply Kept.next | with_reducible apply flagSet_kept | with_reducible apply raise_kept | split

theorem dtoEnPut_kept {o s : State} {a1} (h : Kept o s) : Kept o (dtoEnPut s a1) := by
  unfold dtoEnPut
  repeat' first | with_reducible assumption | with_reducible apply dtoAll_kept | (fail_if_no_progress with_reducible refine Kept.lit rfl rfl rfl rfl rfl rfl rfl rfl rfl rfl rfl rfl ?_) | split

theorem execDtoEnWrite_kept {o s : State} {a0} (h : Kept o s) : KeptOut o (execDtoEnWrite a0 s) := by
  unfold execDtoEnWrite
  repeat' first | with_reducible assumption | apply Kept.next | with_reducible apply dtoEnPut_kept | split

theorem execDtoEnEffect_kept {o s : State} (h : Kept o s) : KeptOut o (execDtoEnEffect s) := by
  unfold execDtoEnEffect
  repeat' first | with_reducible assumption | apply Kept.next | with_reducible apply dtoAll_kept | (fail_if_no_progress with_reducible refine Kept.lit rfl rfl rfl rfl rfl rfl rfl rfl rfl rfl rfl rfl ?_) | split

theorem execLanFaultTimeout_kept {o s : State} {a0} (h : Kept o s) : KeptOut o (execLanFaultTimeout a0 s) := by
  unfold execLanFaultTimeout
  repeat' first | with_reducible assumption | apply Kept.next | with_reducible apply lanCheck_kept | split

theorem linkRise_kept {o s : State} {a1 a2} (h : Kept o s) : Kept o (linkRise s a1 a2) := by
  unfold linkRise
  repeat' first | with_reducible assumption | with_reducible apply drainPort_kept | with_reducible apply lanCheck_kept | with_reducible apply modPort_kept | with_reducible apply raise_kept | with_reducible apply showPort_kept

theorem execLinkStateChange_kept {o s : State} {a0 a1 a2} (h : Kept o s) : KeptOut o (execLinkStateChange a0 a1 a2 s) := by
  unfold execLinkStateChange
  repeat' first | with_reducible assumption | apply Kept.next | with_reducible apply linkFall_kept | with_reducible apply linkRise_kept | split

theorem learnMac_kept {o s : State} {a1 a2 a3} (h : Kept o s) : Kept o (learnMac s a1 a2 a3) := by
  unfold learnMac
  try dsimp only
  repeat' first | with_reducible assumption | (fail_if_no_progress with_reducible refine Kept.lit rfl rfl rfl rfl rfl rfl rfl rfl rfl rfl rfl rfl ?_) | split

theorem badFcs_kept {o s : State} {a1 a2} (h : Kept o s) : Kept o (badFcs s a1 a2) := by
  unfold badFcs
  repeat' first | with_reducible assumption | with_reducible apply bump_kept | with_reducible apply modPort_kept | (with_reducible apply Kept.foldl; intro _ _ _) | split

theorem switchFrame_kept {o s : State} {a1 a2} (h : Kept o s) : Kept o (switchFrame s a1 a2) := by
  unfold switchFrame
  try dsimp only
  repeat' first | with_reducible assumption | with_reducible apply bump_kept | with_reducible apply egress_kept | with_reducible apply learnMac_kept | (with_reducible apply Kept.foldl; intro _ _ _) | split

theorem execEthFrameRx_kept {o s : State} {a0 a1 a2} (h : Kept o s) : KeptOut o (execEthFrameRx a0 a1 a2 s) := by
  unfold execEthFrameRx
  repeat' first | with_reducible assumption | apply Kept.next | with_reducible apply badFcs_kept | with_reducible apply bump_kept | with_reducible apply lanCheck_kept | with_reducible apply modPort_kept | with_reducible apply switchFrame_kept | split

theorem execMacAgeOut_kept {o s : State} (h : Kept o s) : KeptOut o (execMacAgeOut s) := by
  unfold execMacAgeOut
  repeat' first | with_reducible assumption | apply Kept.next | (fail_if_no_progress with_reducible refine Kept.lit rfl rfl rfl rfl rfl rfl rfl rfl rfl rfl rfl rfl ?_)

theorem takeXtrig_kept {o s : State} {a1 a2 a3 a4 a5} (h : Kept o s) : Kept o (takeXtrig s a1 a2 a3 a4 a5) := by
  unfold takeXtrig
  try dsimp only
  repeat' first | with_reducible assumption | with_reducible apply bump_kept | (fail_if_no_progress with_reducible refine Kept.lit rfl rfl rfl rfl rfl rfl rfl rfl rfl rfl rfl rfl ?_) | split

theorem execBelfryFrameRx_kept {o s : State} {a0} (h : Kept o s) : KeptOut o (execBelfryFrameRx a0 s) := by
  unfold execBelfryFrameRx
  try dsimp only
  repeat' first | with_reducible assumption | apply Kept.next | with_reducible apply bump_kept | with_reducible apply detectTakeover_kept | with_reducible apply takeBeacon_kept | with_reducible apply takeXtrig_kept | split

theorem setSub_kept {o s : State} {a1 a2} (h : Kept o s) : Kept o (setSub s a1 a2) := by
  unfold setSub
  repeat' first | with_reducible assumption | (fail_if_no_progress with_reducible refine Kept.lit rfl rfl rfl rfl rfl rfl rfl rfl rfl rfl rfl rfl ?_)

theorem subLost_kept {o s : State} {a1} (h : Kept o s) : Kept o (subLost s a1) := by
  unfold subLost
  try dsimp only
  repeat' first | with_reducible assumption | with_reducible apply raise_kept | with_reducible apply setSub_kept | split

theorem execGooseTalExpiry_kept {o s : State} {a0} (h : Kept o s) : KeptOut o (execGooseTalExpiry a0 s) := by
  unfold execGooseTalExpiry
  repeat' first | with_reducible assumption | apply Kept.next | with_reducible apply subLost_kept | split

theorem subAccept_kept {o s : State} {a1 a2 a3} (h : Kept o s) : Kept o (subAccept s a1 a2 a3) := by
  unfold subAccept
  try dsimp only
  repeat' first | with_reducible assumption | with_reducible apply raise_kept | with_reducible apply setSub_kept | split

theorem subFrame_kept {o s : State} {a1 a2} (h : Kept o s) : Kept o (subFrame s a1 a2) := by
  unfold subFrame
  try dsimp only
  repeat' first | with_reducible assumption | with_reducible apply raise_kept | with_reducible apply setSub_kept | with_reducible apply subAccept_kept | with_reducible apply subLost_kept | split

theorem execGooseFrameRx_kept {o s : State} {a0} (h : Kept o s) : KeptOut o (execGooseFrameRx a0 s) := by
  unfold execGooseFrameRx
  repeat' first | with_reducible assumption | apply Kept.next | with_reducible apply ddLookup_kept | with_reducible apply subFrame_kept | with_reducible apply KeptP.fst | (with_reducible apply Kept.foldl; intro _ _ _) | split

theorem execBeaconSend_kept {o s : State} (h : Kept o s) : KeptOut o (execBeaconSend s) := by
  unfold execBeaconSend
  repeat' first | with_reducible assumption | apply Kept.next | with_reducible apply sendBeacon_kept | (fail_if_no_progress with_reducible refine Kept.lit rfl rfl rfl rfl rfl rfl rfl rfl rfl rfl rfl rfl ?_) | split

theorem execGooseRetransmit_kept {o s : State} {a0} (h : Kept o s) : KeptOut o (execGooseRetransmit a0 s) := by
  unfold execGooseRetransmit
  try dsimp only
  repeat' first | with_reducible assumption | apply Kept.next | with_reducible apply retransmit_kept | with_reducible apply stateChange_kept | (with_reducible refine Kept.fst (by with_reducible assumption) ?_) | with_reducible apply KeptP.fst | with_reducible apply KeptC.s_kept | (intro _ _ _ _) | with_reducible apply Kept.ite | with_reducible apply KeptOut.ite | (fail_if_no_progress with_reducible refine Kept.lit rfl rfl rfl rfl rfl rfl rfl rfl rfl rfl rfl rfl ?_) | split

theorem execPrpSupervisionSend_kept {o s : State} (h : Kept o s) : KeptOut o (execPrpSupervisionSend s) := by
  unfold execPrpSupervisionSend
  try dsimp only
  repeat' first | with_reducible assumption | apply Kept.next | with_reducible apply sendOwn_kept | (with_reducible apply Kept.foldl; intro _ _ _) | (fail_if_no_progress with_reducible refine Kept.lit rfl rfl rfl rfl rfl rfl rfl rfl rfl rfl rfl rfl ?_) | split

theorem belTestPublishOwn_kept {o s : State} {a0 a1} (h : Kept o s) : KeptC o (belTestPublishOwn a0 a1 s) := by
  unfold belTestPublishOwn
  try dsimp only
  repeat' first | with_reducible assumption | with_reducible apply CmdOut.ok_kept | with_reducible apply CmdOut.rej_kept | with_reducible apply stateChange_kept | split

theorem execBelTestPublish_kept {o s : State} {a0} (h : Kept o s) : KeptOut o (execBelTestPublish a0 s) := by
  unfold execBelTestPublish
  repeat' first | with_reducible assumption | apply Kept.next | with_reducible apply belTestPublishOwn_kept | with_reducible apply submit_kept | (intro _ _ _ _)

theorem putForm_kept {o s : State} {a1 a2 a3 a4 a5} (h : Kept o s) : KeptC o (putForm s a1 a2 a3 a4 a5) := by
  unfold putForm
  repeat' first | with_reducible assumption | with_reducible apply CmdOut.later_kept | with_reducible apply modGrp_kept

theorem cellSplitOwn_kept {o s : State} {a0 a1} (h : Kept o s) : KeptC o (cellSplitOwn a0 a1 s) := by
  unfold cellSplitOwn
  try dsimp only
  repeat' first | with_reducible assumption | with_reducible apply CmdOut.rej_kept | with_reducible apply putForm_kept | split

theorem execCellSplit_kept {o s : State} {a0} (h : Kept o s) : KeptOut o (execCellSplit a0 s) := by
  unfold execCellSplit
  repeat' first | with_reducible assumption | apply Kept.next | with_reducible apply cellSplitOwn_kept | with_reducible apply submit_kept | (intro _ _ _ _)

theorem cellJoinOwn_kept {o s : State} {a0 a1} (h : Kept o s) : KeptC o (cellJoinOwn a0 a1 s) := by
  unfold cellJoinOwn
  try dsimp only
  repeat' first | with_reducible assumption | with_reducible apply CmdOut.rej_kept | with_reducible apply putForm_kept | split

theorem execCellJoin_kept {o s : State} {a0} (h : Kept o s) : KeptOut o (execCellJoin a0 s) := by
  unfold execCellJoin
  repeat' first | with_reducible assumption | apply Kept.next | with_reducible apply cellJoinOwn_kept | with_reducible apply submit_kept | (intro _ _ _ _)

theorem execCellFormChange_kept {o s : State} {a0 a1} (h : Kept o s) : KeptOut o (execCellFormChange a0 a1 s) := by
  unfold execCellFormChange
  repeat' first | with_reducible assumption | apply Kept.next | with_reducible apply formChange_kept

theorem execResyncCheckDone_kept {o s : State} {a0 a1 a2} (h : Kept o s) : KeptOut o (execResyncCheckDone a0 a1 a2 s) := by
  unfold execResyncCheckDone
  repeat' first | with_reducible assumption | apply Kept.next | with_reducible apply cfgKick_kept | with_reducible apply modGrp_kept | with_reducible apply resyncFail_kept | with_reducible apply showLks_kept | split

theorem dbgAttach_kept {o s : State} {a1} (h : Kept o s) : Kept o (dbgAttach s a1) := by
  unfold dbgAttach
  try dsimp only
  repeat' first | with_reducible assumption | with_reducible apply flagSet_kept | with_reducible apply fldSet_kept | with_reducible apply showDbg_kept | (fail_if_no_progress with_reducible refine Kept.lit rfl rfl rfl rfl rfl rfl rfl rfl rfl rfl rfl rfl ?_) | split

theorem execLksDbgAttach_kept {o s : State} {a0} (h : Kept o s) : KeptOut o (execLksDbgAttach a0 s) := by
  unfold execLksDbgAttach
  repeat' first | with_reducible assumption | apply Kept.next | with_reducible apply dbgAttach_kept | split

theorem dbgDetach_kept {o s : State} (h : Kept o s) : Kept o (dbgDetach s) := by
  unfold dbgDetach
  try dsimp only
  repeat' first | with_reducible assumption | with_reducible apply flagSet_kept | with_reducible apply showDbg_kept | (with_reducible refine Kept.fst (by with_reducible assumption) ?_) | with_reducible apply KeptP.fst | with_reducible apply KeptC.s_kept | (intro _ _ _ _) | with_reducible apply Kept.ite | (fail_if_no_progress with_reducible refine Kept.lit rfl rfl rfl rfl rfl rfl rfl rfl rfl rfl rfl rfl ?_)

theorem execLksDbgDetach_kept {o s : State} (h : Kept o s) : KeptOut o (execLksDbgDetach s) := by
  unfold execLksDbgDetach
  repeat' first | with_reducible assumption | apply Kept.next | with_reducible apply dbgDetach_kept | split

theorem execDebugAttachEffect_kept {o s : State} {a0} (h : Kept o s) : KeptOut o (execDebugAttachEffect a0 s) := by
  unfold execDebugAttachEffect
  repeat' first | with_reducible assumption | apply Kept.next | with_reducible apply dbgEffect_kept

theorem cellMigrateOwn_kept {o s : State} {a0 a1} (h : Kept o s) : KeptC o (cellMigrateOwn a0 a1 s) := by
  unfold cellMigrateOwn
  try dsimp only
  repeat' first | with_reducible assumption | with_reducible apply CmdOut.later_kept | with_reducible apply CmdOut.rej_kept | with_reducible apply askMig_kept | with_reducible apply cfgKick_kept | split

theorem execCellMigrate_kept {o s : State} {a0} (h : Kept o s) : KeptOut o (execCellMigrate a0 s) := by
  unfold execCellMigrate
  repeat' first | with_reducible assumption | apply Kept.next | with_reducible apply cellMigrateOwn_kept | with_reducible apply submit_kept | (intro _ _ _ _)

theorem execMigrationPrecopyDone_kept {o s : State} (h : Kept o s) : KeptOut o (execMigrationPrecopyDone s) := by
  unfold execMigrationPrecopyDone
  try dsimp only
  repeat' first | with_reducible assumption | apply Kept.next | with_reducible apply cfgKick_kept | with_reducible apply modMig_kept | with_reducible apply showBay_kept | with_reducible apply showMig_kept | with_reducible apply takeBoundary_kept | (with_reducible refine Kept.fst (by with_reducible assumption) ?_) | with_reducible apply KeptP.fst | with_reducible apply KeptC.s_kept | (intro _ _ _ _) | with_reducible apply Kept.ite | with_reducible apply KeptOut.ite | (fail_if_no_progress with_reducible refine Kept.lit rfl rfl rfl rfl rfl rfl rfl rfl rfl rfl rfl rfl ?_) | split

theorem execMigrationRedirect_kept {o s : State} (h : Kept o s) : KeptOut o (execMigrationRedirect s) := by
  unfold execMigrationRedirect
  repeat' first | with_reducible assumption | apply Kept.next | with_reducible apply cfgKick_kept | with_reducible apply redirect_kept | split

theorem execRotationStepDue_kept {o s : State} (h : Kept o s) : KeptOut o (execRotationStepDue s) := by
  unfold execRotationStepDue
  repeat' first | with_reducible assumption | apply Kept.next | with_reducible apply cfgKick_kept | (fail_if_no_progress with_reducible refine Kept.lit rfl rfl rfl rfl rfl rfl rfl rfl rfl rfl rfl rfl ?_) | split

theorem execRotNow_kept {o s : State} (h : Kept o s) : KeptOut o (execRotNow s) := by
  unfold execRotNow
  repeat' first | with_reducible assumption | apply Kept.next | with_reducible apply rotNowAct_kept | split

theorem execLogicSelftestDone_kept {o s : State} {a0 a1 a2} (h : Kept o s) : KeptOut o (execLogicSelftestDone a0 a1 a2 s) := by
  unfold execLogicSelftestDone
  repeat' first | with_reducible assumption | apply Kept.next | with_reducible apply selfFinish_kept | with_reducible apply testDone_kept | split

theorem selfBegin_kept {o s : State} {a1 a2 a3} (h : Kept o s) : Kept o (selfBegin s a1 a2 a3) := by
  unfold selfBegin
  repeat' first | with_reducible assumption | with_reducible apply flagSet_kept | with_reducible apply rotNowAct_kept | with_reducible apply setSpare_kept | with_reducible apply sweepEnd_kept | (fail_if_no_progress with_reducible refine Kept.lit rfl rfl rfl rfl rfl rfl rfl rfl rfl rfl rfl rfl ?_) | split

theorem selftestOwn_kept {o s : State} {a0 a1} (h : Kept o s) : KeptC o (selftestOwn a0 a1 s) := by
  unfold selftestOwn
  try dsimp only
  repeat' first | with_reducible assumption | with_reducible apply CmdOut.later_kept | with_reducible apply CmdOut.rej_kept | with_reducible apply selfBegin_kept | split

theorem execSelftest_kept {o s : State} {a0} (h : Kept o s) : KeptOut o (execSelftest a0 s) := by
  unfold execSelftest
  repeat' first | with_reducible assumption | apply Kept.next | with_reducible apply selftestOwn_kept | with_reducible apply submit_kept | (intro _ _ _ _)

theorem bistCluster_kept {o s : State} {a1} (h : Kept o s) : Kept o (bistCluster s a1) := by
  unfold bistCluster
  repeat' first | with_reducible assumption | with_reducible apply bumpFree_kept | with_reducible apply setBay_kept | (with_reducible apply Kept.foldl; intro _ _ _) | split

theorem marchLoss_kept {o s : State} (h : Kept o s) : Kept o (marchLoss s) := by
  unfold marchLoss
  repeat' first | with_reducible assumption | with_reducible apply complete_kept | with_reducible apply cupBayStat_kept | with_reducible apply cupStat_kept | (with_reducible apply Kept.foldl; intro _ _ _) | (fail_if_no_progress with_reducible refine Kept.lit rfl rfl rfl rfl rfl rfl rfl rfl rfl rfl rfl rfl ?_)

theorem execSelftestDone_kept {o s : State} {a0 a1} (h : Kept o s) : KeptOut o (execSelftestDone a0 a1 s) := by
  unfold execSelftestDone
  repeat' first | with_reducible assumption | apply Kept.next | with_reducible apply bistCluster_kept | with_reducible apply cfgKick_kept | with_reducible apply failCell_kept | with_reducible apply marchLoss_kept | with_reducible apply selfFinish_kept | with_reducible apply showSpares_kept | (with_reducible apply Kept.foldl; intro _ _ _) | split

theorem execScrubCorrected_kept {o s : State} {a0 a1} (h : Kept o s) : KeptOut o (execScrubCorrected a0 a1 s) := by
  unfold execScrubCorrected
  repeat' first | with_reducible assumption | apply Kept.next | with_reducible apply correctedError_kept | split

theorem execEccHourEnd_kept {o s : State} (h : Kept o s) : KeptOut o (execEccHourEnd s) := by
  unfold execEccHourEnd
  repeat' first | with_reducible assumption | apply Kept.next | with_reducible apply flagSet_kept | with_reducible apply setCause_kept | with_reducible apply showClu_kept | (with_reducible apply Kept.foldl; intro _ _ _) | (fail_if_no_progress with_reducible refine Kept.lit rfl rfl rfl rfl rfl rfl rfl rfl rfl rfl rfl rfl ?_) | split

theorem rerunTask_kept {o s : State} {a1} (h : Kept o s) : Kept o (rerunTask s a1) := by
  unfold rerunTask
  repeat' first | with_reducible assumption | (fail_if_no_progress with_reducible refine Kept.lit rfl rfl rfl rfl rfl rfl rfl rfl rfl rfl rfl rfl ?_) | split

theorem execEccUncorrectable_kept {o s : State} {a0 a1 a2} (h : Kept o s) : KeptOut o (execEccUncorrectable a0 a1 a2 s) := by
  unfold execEccUncorrectable
  repeat' first | with_reducible assumption | apply Kept.next | with_reducible apply bump_kept | with_reducible apply countUe_kept | with_reducible apply raise_kept | with_reducible apply rerunTask_kept | with_reducible apply setBay_kept | split

theorem execBridgeUncorrectable_kept {o s : State} {a0 a1} (h : Kept o s) : KeptOut o (execBridgeUncorrectable a0 a1 s) := by
  unfold execBridgeUncorrectable
  try dsimp only
  repeat' first | with_reducible assumption | apply Kept.next | with_reducible apply raise_kept | with_reducible apply stage_kept | (with_reducible refine Kept.fst (by with_reducible assumption) ?_) | with_reducible apply KeptP.fst | with_reducible apply KeptC.s_kept | (intro _ _ _ _) | with_reducible apply Kept.ite | with_reducible apply KeptOut.ite | (fail_if_no_progress with_reducible refine Kept.lit rfl rfl rfl rfl rfl rfl rfl rfl rfl rfl rfl rfl ?_) | split

end Sys2Proof.Machine
end

