-- ==== Sys2Proof/Laws/KeptRows.lean ====
section
/-! SUPPORT. That every step keeps the invariant, the lasting facts and the queue: the rows of records, metering, security, power, the fetch and PTP. Each lemma is read from its definition; what it calls is cited, not unfolded. -/

set_option linter.unusedTactic false
set_option linter.unreachableTactic false

namespace Sys2Proof.Machine

theorem recForceOwn_kept {o s : State} {a0 a1} (h : Kept o s) : KeptC o (recForceOwn a0 a1 s) := by
  unfold recForceOwn
  try dsimp only
  repeat' first | with_reducible assumption | with_reducible apply CmdOut.later_kept | with_reducible apply CmdOut.rej_kept | with_reducible apply modCup_kept | split

theorem execRecForce_kept {o s : State} {a0} (h : Kept o s) : KeptOut o (execRecForce a0 s) := by
  unfold execRecForce
  repeat' first | with_reducible assumption | apply Kept.next | with_reducible apply recForceOwn_kept | with_reducible apply submit_kept | (intro _ _ _ _)

theorem recFetchOwn_kept {o s : State} {a0 a1} (h : Kept o s) : KeptC o (recFetchOwn a0 a1 s) := by
  unfold recFetchOwn
  try dsimp only
  repeat' first | with_reducible assumption | with_reducible apply CmdOut.later_kept | with_reducible apply CmdOut.rej_kept | (fail_if_no_progress with_reducible refine Kept.lit rfl rfl rfl rfl rfl rfl rfl rfl rfl rfl rfl rfl ?_) | split

theorem execRecFetch_kept {o s : State} {a0} (h : Kept o s) : KeptOut o (execRecFetch a0 s) := by
  unfold execRecFetch
  repeat' first | with_reducible assumption | apply Kept.next | with_reducible apply recFetchOwn_kept | with_reducible apply submit_kept | (intro _ _ _ _)

theorem recFetchDone_kept {o s : State} (h : Kept o s) : Kept o (recFetchDone s) := by
  unfold recFetchDone
  try dsimp only
  repeat' first | with_reducible assumption | with_reducible apply complete_kept | with_reducible apply hostWrite_kept | with_reducible apply ringPut_kept | (with_reducible apply Kept.foldl; intro _ _ _) | (fail_if_no_progress with_reducible refine Kept.lit rfl rfl rfl rfl rfl rfl rfl rfl rfl rfl rfl rfl ?_) | split

theorem execRecFetchDone_kept {o s : State} (h : Kept o s) : KeptOut o (execRecFetchDone s) := by
  unfold execRecFetchDone
  repeat' first | with_reducible assumption | apply Kept.next | with_reducible apply recFetchDone_kept | split

theorem recReleaseOwn_kept {o s : State} {a0 a1} (h : Kept o s) : KeptC o (recReleaseOwn a0 a1 s) := by
  unfold recReleaseOwn
  try dsimp only
  repeat' first | with_reducible assumption | with_reducible apply CmdOut.ok_kept | with_reducible apply CmdOut.rej_kept | with_reducible apply freeRec_kept | (with_reducible apply Kept.foldl; intro _ _ _) | split

theorem execRecRelease_kept {o s : State} {a0} (h : Kept o s) : KeptOut o (execRecRelease a0 s) := by
  unfold execRecRelease
  repeat' first | with_reducible assumption | apply Kept.next | with_reducible apply recReleaseOwn_kept | with_reducible apply submit_kept | (intro _ _ _ _)

theorem histOwn_kept {o s : State} {a0 a1} (h : Kept o s) : KeptC o (histOwn a0 a1 s) := by
  unfold histOwn
  try dsimp only
  repeat' first | with_reducible assumption | with_reducible apply CmdOut.ok_kept | with_reducible apply CmdOut.rej_kept | with_reducible apply hostWrite_kept | with_reducible apply setCup_kept | split

theorem execHistSnapshot_kept {o s : State} {a0} (h : Kept o s) : KeptOut o (execHistSnapshot a0 s) := by
  unfold execHistSnapshot
  repeat' first | with_reducible assumption | apply Kept.next | with_reducible apply histOwn_kept | with_reducible apply submit_kept | (intro _ _ _ _)

theorem execCupRearm_kept {o s : State} {a0} (h : Kept o s) : KeptOut o (execCupRearm a0 s) := by
  unfold execCupRearm
  repeat' first | with_reducible assumption | apply Kept.next | with_reducible apply cupBayStat_kept | with_reducible apply modCup_kept

theorem execRecordLine_kept {o s : State} {a0} (h : Kept o s) : KeptOut o (execRecordLine a0 s) := by
  unfold execRecordLine
  repeat' first | with_reducible assumption | apply Kept.next | with_reducible apply recordLine_kept

theorem execRecordT0Refined_kept {o s : State} {a0} (h : Kept o s) : KeptOut o (execRecordT0Refined a0 s) := by
  unfold execRecordT0Refined
  repeat' first | with_reducible assumption | apply Kept.next | with_reducible apply refineRec_kept

theorem execRecordPostEnd_kept {o s : State} {a0} (h : Kept o s) : KeptOut o (execRecordPostEnd a0 s) := by
  unfold execRecordPostEnd
  repeat' first | with_reducible assumption | apply Kept.next | with_reducible apply cupBayStat_kept | with_reducible apply cupStat_kept | with_reducible apply modRec_kept | split

theorem completeRec_kept {o s : State} {a1} (h : Kept o s) : Kept o (completeRec s a1) := by
  unfold completeRec
  repeat' first | with_reducible assumption | with_reducible apply cupBayStat_kept | with_reducible apply cupStat_kept | with_reducible apply modRec_kept | with_reducible apply raise_kept | split

theorem sealRec_kept {o s : State} {a1} (h : Kept o s) : Kept o (sealRec s a1) := by
  unfold sealRec
  try dsimp only
  repeat' first | with_reducible assumption | with_reducible apply completeRec_kept | with_reducible apply cupBayStat_kept | with_reducible apply cupStat_kept | with_reducible apply dropTrig_kept | with_reducible apply extendRec_kept | with_reducible apply modCup_kept | with_reducible apply modRec_kept | with_reducible apply openRec_kept | with_reducible apply raise_kept | (with_reducible apply Kept.foldl; intro _ _ _) | (fail_if_no_progress with_reducible refine Kept.lit rfl rfl rfl rfl rfl rfl rfl rfl rfl rfl rfl rfl ?_) | split

theorem execRecordSealed_kept {o s : State} {a0} (h : Kept o s) : KeptOut o (execRecordSealed a0 s) := by
  unfold execRecordSealed
  repeat' first | with_reducible assumption | apply Kept.next | with_reducible apply sealRec_kept

theorem execRecordTailEnd_kept {o s : State} {a0} (h : Kept o s) : KeptOut o (execRecordTailEnd a0 s) := by
  unfold execRecordTailEnd
  repeat' first | with_reducible assumption | apply Kept.next | with_reducible apply completeRec_kept | split

theorem execAutoTrigger_kept {o s : State} {a0} (h : Kept o s) : KeptOut o (execAutoTrigger a0 s) := by
  unfold execAutoTrigger
  repeat' first | with_reducible assumption | apply Kept.next | with_reducible apply fireAt_kept | with_reducible apply setCup_kept | split

theorem flashCopy_kept {o s : State} (h : Kept o s) : Kept o (flashCopy s) := by
  unfold flashCopy
  repeat' first | with_reducible assumption | with_reducible apply cupStat_kept | (fail_if_no_progress with_reducible refine Kept.lit rfl rfl rfl rfl rfl rfl rfl rfl rfl rfl rfl rfl ?_) | split

theorem execIndexFlashCopy_kept {o s : State} (h : Kept o s) : KeptOut o (execIndexFlashCopy s) := by
  unfold execIndexFlashCopy
  repeat' first | with_reducible assumption | apply Kept.next | with_reducible apply flashCopy_kept

theorem execMetCycleBlock_kept {o s : State} {a0} (h : Kept o s) : KeptOut o (execMetCycleBlock a0 s) := by
  unfold execMetCycleBlock
  try dsimp only
  repeat' first | with_reducible assumption | apply Kept.next | with_reducible apply metBlock_kept | with_reducible apply modTrk_kept | (with_reducible apply Kept.foldl; intro _ _ _) | split

theorem execMetIntervalClose_kept {o s : State} {a0} (h : Kept o s) : KeptOut o (execMetIntervalClose a0 s) := by
  unfold execMetIntervalClose
  repeat' first | with_reducible assumption | apply Kept.next | with_reducible apply metClose_kept

theorem execPostMissing_kept {o s : State} {a0} (h : Kept o s) : KeptOut o (execPostMissing a0 s) := by
  unfold execPostMissing
  repeat' first | with_reducible assumption | apply Kept.next | with_reducible apply bump_kept | with_reducible apply raise_kept | with_reducible apply setMet_kept | (with_reducible apply Kept.foldl; intro _ _ _) | split

theorem metPostOwn_kept {o s : State} {a0 a1} (h : Kept o s) : KeptC o (metPostOwn a0 a1 s) := by
  unfold metPostOwn
  try dsimp only
  repeat' first | with_reducible assumption | with_reducible apply CmdOut.ok_kept | with_reducible apply CmdOut.rej_kept | with_reducible apply bump_kept | with_reducible apply metAlarm_kept | with_reducible apply setMet_kept | split

theorem execMetIntervalPost_kept {o s : State} {a0} (h : Kept o s) : KeptOut o (execMetIntervalPost a0 s) := by
  unfold execMetIntervalPost
  repeat' first | with_reducible assumption | apply Kept.next | with_reducible apply metPostOwn_kept | with_reducible apply submit_kept | (intro _ _ _ _)

theorem metReadOwn_kept {o s : State} {a0 a1} (h : Kept o s) : KeptC o (metReadOwn a0 a1 s) := by
  unfold metReadOwn
  try dsimp only
  repeat' first | with_reducible assumption | with_reducible apply CmdOut.ok_kept | with_reducible apply CmdOut.rej_kept | with_reducible apply hostWrite_kept | split

theorem execMetRead_kept {o s : State} {a0} (h : Kept o s) : KeptOut o (execMetRead a0 s) := by
  unfold execMetRead
  repeat' first | with_reducible assumption | apply Kept.next | with_reducible apply metReadOwn_kept | with_reducible apply submit_kept | (intro _ _ _ _)

theorem modeSetOwn_kept {o s : State} {a0 a1} (h : Kept o s) : KeptC o (modeSetOwn a0 a1 s) := by
  unfold modeSetOwn
  try dsimp only
  repeat' first | with_reducible assumption | with_reducible apply CmdOut.later_kept | with_reducible apply CmdOut.ok_kept | with_reducible apply CmdOut.rej_kept | with_reducible apply CmdOut.rejAfter_kept | with_reducible apply needToken_kept | with_reducible apply KeptP.fst | (fail_if_no_progress with_reducible refine Kept.lit rfl rfl rfl rfl rfl rfl rfl rfl rfl rfl rfl rfl ?_) | split

theorem execModeSet_kept {o s : State} {a0} (h : Kept o s) : KeptOut o (execModeSet a0 s) := by
  unfold execModeSet
  repeat' first | with_reducible assumption | apply Kept.next | with_reducible apply modeSetOwn_kept | with_reducible apply submit_kept | (intro _ _ _ _)

theorem execModeSetEffect_kept {o s : State} (h : Kept o s) : KeptOut o (execModeSetEffect s) := by
  unfold execModeSetEffect
  repeat' first | with_reducible assumption | apply Kept.next | with_reducible apply modeEffect_kept | split

theorem timeRestepOwn_kept {o s : State} {a0 a1} (h : Kept o s) : KeptC o (timeRestepOwn a0 a1 s) := by
  unfold timeRestepOwn
  try dsimp only
  repeat' first | with_reducible assumption | with_reducible apply CmdOut.later_kept | with_reducible apply CmdOut.rej_kept | with_reducible apply CmdOut.rejAfter_kept | with_reducible apply needToken_kept | with_reducible apply KeptP.fst | (fail_if_no_progress with_reducible refine Kept.lit rfl rfl rfl rfl rfl rfl rfl rfl rfl rfl rfl rfl ?_) | split

theorem execTimeRestep_kept {o s : State} {a0} (h : Kept o s) : KeptOut o (execTimeRestep a0 s) := by
  unfold execTimeRestep
  repeat' first | with_reducible assumption | apply Kept.next | with_reducible apply submit_kept | with_reducible apply timeRestepOwn_kept | (intro _ _ _ _)

theorem imageLoadOwn_kept {o s : State} {a0 a1} (h : Kept o s) : KeptC o (imageLoadOwn a0 a1 s) := by
  unfold imageLoadOwn
  try dsimp only
  repeat' first | with_reducible assumption | with_reducible apply CmdOut.later_kept | with_reducible apply CmdOut.rej_kept | (fail_if_no_progress with_reducible refine Kept.lit rfl rfl rfl rfl rfl rfl rfl rfl rfl rfl rfl rfl ?_) | split

theorem execImageLoad_kept {o s : State} {a0} (h : Kept o s) : KeptOut o (execImageLoad a0 s) := by
  unfold execImageLoad
  repeat' first | with_reducible assumption | apply Kept.next | with_reducible apply imageLoadOwn_kept | with_reducible apply submit_kept | (intro _ _ _ _)

@[simp] theorem Flash.setSlot_serial (f : Flash) (k : Nat) (b : Bool) (v : Option (List Byte)) : (f.setSlot k b v).serial = f.serial := by
  unfold Flash.setSlot
  split <;> rfl
@[simp] theorem Flash.setSel_serial (f : Flash) (k : Nat) (b : Bool) : (f.setSel k b).serial = f.serial := by
  unfold Flash.setSel
  split <;> rfl
theorem flashSlot_kept {o s : State} {k b v} {x : Sec} (h : Kept o s) : Kept o { s with flash := s.flash.setSlot k b v, sec := x } :=
  Kept.lit rfl rfl (Flash.setSlot_serial _ _ _ _) rfl rfl rfl rfl rfl rfl rfl rfl rfl h
theorem flashSel_kept {o s : State} {k b} {x : Sec} (h : Kept o s) : Kept o { s with flash := s.flash.setSel k b, sec := x } :=
  Kept.lit rfl rfl (Flash.setSel_serial _ _ _) rfl rfl rfl rfl rfl rfl rfl rfl rfl h
theorem loadDone_kept {o s : State} {a1} (h : Kept o s) : Kept o (loadDone s a1) := by
  unfold loadDone
  dsimp only
  split
  · exact h
  · repeat' first | with_reducible assumption | with_reducible apply complete_kept | with_reducible apply authFailed_kept | with_reducible apply loadRejected_kept | with_reducible apply flashSlot_kept | with_reducible apply imageVerified_kept | with_reducible apply Kept.ite | (fail_if_no_progress with_reducible refine Kept.lit rfl rfl rfl rfl rfl rfl rfl rfl rfl rfl rfl rfl ?_) | split

theorem execImageLoadDone_kept {o s : State} {a0} (h : Kept o s) : KeptOut o (execImageLoadDone a0 s) := by
  unfold execImageLoadDone
  repeat' first | with_reducible assumption | apply Kept.next | with_reducible apply loadDone_kept

theorem revoke_kept {o s : State} {x : Otp} {m : Nat} (h : Kept o s) (e : x.revoked = Nat.lor s.otp.revoked m) : Kept o { s with otp := x } :=
  h.trans ⟨rfl, ⟨rfl, Nat.le_refl _, fun i y => by
    show x.revoked.testBit i = true
    rw [e]
    show (s.otp.revoked ||| m).testBit i = true
    rw [Nat.testBit_or, y, Bool.true_or]⟩, fun i => ⟨i.mem, i.regs, i.ns, i.frac, i.inc, i.incBase, i.hist, i.held⟩⟩
theorem otpSame_kept {o s : State} {x : Otp} (h : Kept o s) (e : x.revoked = s.otp.revoked) : Kept o { s with otp := x } :=
  Kept.lit rfl rfl rfl e rfl rfl rfl rfl rfl rfl rfl rfl h
theorem commitImage_kept {o s : State} {k i a m} (h : Kept o s) : Kept o (commitImage s k i a m) := by
  unfold commitImage
  dsimp only
  have h1 : Kept o (if m = 0 then s else raise 0x0E04 { s with otp := { s.otp with revoked := Nat.lor s.otp.revoked (if k = 2 then m * 2 ^ 8 else m) } }
      (items := [(1, if k = 2 then 0 else 1), (1, m)])) := Kept.ite h (raise_kept (revoke_kept h rfl))
  simp only [decide_eq_true_eq]
  generalize (if m = 0 then s else raise 0x0E04 { s with otp := { s.otp with revoked := Nat.lor s.otp.revoked (if k = 2 then m * 2 ^ 8 else m) } }
      (items := [(1, if k = 2 then 0 else 1), (1, m)])) = s1 at h1 ⊢
  split
  · apply raise_kept
    split
    · exact otpSame_kept (flashSel_kept h1) rfl
    · exact otpSame_kept (flashSel_kept h1) rfl
  · exact flashSel_kept h1

theorem restartChain_kept {o s : State} {a1} (h : Kept o s) : Kept o (restartChain s a1) := by
  unfold restartChain
  repeat' first | with_reducible assumption | (fail_if_no_progress with_reducible refine Kept.lit rfl rfl rfl rfl rfl rfl rfl rfl rfl rfl rfl rfl ?_)

theorem imageCommitOwn_kept {o s : State} {a0 a1} (h : Kept o s) : KeptC o (imageCommitOwn a0 a1 s) := by
  unfold imageCommitOwn
  try dsimp only
  repeat' first | with_reducible assumption | with_reducible apply CmdOut.ok_kept | with_reducible apply CmdOut.rej_kept | with_reducible apply CmdOut.rejAfter_kept | with_reducible apply commitImage_kept | with_reducible apply needToken_kept | with_reducible apply restartChain_kept | with_reducible apply KeptP.fst | (fail_if_no_progress with_reducible refine Kept.lit rfl rfl rfl rfl rfl rfl rfl rfl rfl rfl rfl rfl ?_) | split

theorem execImageCommit_kept {o s : State} {a0} (h : Kept o s) : KeptOut o (execImageCommit a0 s) := by
  unfold execImageCommit
  repeat' first | with_reducible assumption | apply Kept.next | with_reducible apply imageCommitOwn_kept | with_reducible apply submit_kept | (intro _ _ _ _)

theorem applyDue_kept {o s : State} (h : Kept o s) : Kept o (applyDue s) := by
  unfold applyDue
  repeat' first | with_reducible assumption | with_reducible apply applyScheme_kept | (fail_if_no_progress with_reducible refine Kept.lit rfl rfl rfl rfl rfl rfl rfl rfl rfl rfl rfl rfl ?_) | split

theorem execImageApply_kept {o s : State} (h : Kept o s) : KeptOut o (execImageApply s) := by
  unfold execImageApply
  repeat' first | with_reducible assumption | apply Kept.next | with_reducible apply applyDue_kept

theorem attestOwn_kept {o s : State} {a0 a1} (h : Kept o s) : KeptC o (attestOwn a0 a1 s) := by
  unfold attestOwn
  try dsimp only
  repeat' first | with_reducible assumption | with_reducible apply CmdOut.ok_kept | with_reducible apply CmdOut.rej_kept | with_reducible apply hostWrite_kept | with_reducible apply raise_kept | split

theorem execAttest_kept {o s : State} {a0} (h : Kept o s) : KeptOut o (execAttest a0 s) := by
  unfold execAttest
  repeat' first | with_reducible assumption | apply Kept.next | with_reducible apply attestOwn_kept | with_reducible apply submit_kept | (intro _ _ _ _)

theorem debugGrant_kept {o s : State} {a0} (h : Kept o s) : KeptC o (debugGrant a0 s) := by
  unfold debugGrant
  try dsimp only
  repeat' first | with_reducible assumption | with_reducible apply CmdOut.ok_kept | with_reducible apply CmdOut.rej_kept | with_reducible apply CmdOut.rejAfter_kept | with_reducible apply raise_kept | with_reducible apply takeToken_kept | (with_reducible refine Kept.fst (by with_reducible assumption) ?_) | (fail_if_no_progress with_reducible refine Kept.lit rfl rfl rfl rfl rfl rfl rfl rfl rfl rfl rfl rfl ?_) | split

theorem debugUnlockOwn_kept {o s : State} {a0 a1} (h : Kept o s) : KeptC o (debugUnlockOwn a0 a1 s) := by
  unfold debugUnlockOwn
  repeat' first | with_reducible assumption | with_reducible apply CmdOut.ok_kept | with_reducible apply CmdOut.rej_kept | with_reducible apply bumpFree_kept | with_reducible apply debugGrant_kept | with_reducible apply endGrant_kept | (fail_if_no_progress with_reducible refine Kept.lit rfl rfl rfl rfl rfl rfl rfl rfl rfl rfl rfl rfl ?_) | split

theorem execDebugUnlock_kept {o s : State} {a0} (h : Kept o s) : KeptOut o (execDebugUnlock a0 s) := by
  unfold execDebugUnlock
  repeat' first | with_reducible assumption | apply Kept.next | with_reducible apply debugUnlockOwn_kept | with_reducible apply submit_kept | (intro _ _ _ _)

theorem execTokenLockExpiry_kept {o s : State} (h : Kept o s) : KeptOut o (execTokenLockExpiry s) := by
  unfold execTokenLockExpiry
  repeat' first | with_reducible assumption | apply Kept.next | (fail_if_no_progress with_reducible refine Kept.lit rfl rfl rfl rfl rfl rfl rfl rfl rfl rfl rfl rfl ?_) | split

theorem execDebugGrantExpiry_kept {o s : State} (h : Kept o s) : KeptOut o (execDebugGrantExpiry s) := by
  unfold execDebugGrantExpiry
  repeat' first | with_reducible assumption | apply Kept.next | with_reducible apply endGrant_kept | split

theorem execChallengeExpiry_kept {o s : State} (h : Kept o s) : KeptOut o (execChallengeExpiry s) := by
  unfold execChallengeExpiry
  repeat' first | with_reducible assumption | apply Kept.next | (fail_if_no_progress with_reducible refine Kept.lit rfl rfl rfl rfl rfl rfl rfl rfl rfl rfl rfl rfl ?_) | split

theorem otpGo_kept {o s : State} (h : Kept o s) : Kept o (otpGo s) := by
  unfold otpGo
  try dsimp only
  repeat' first | with_reducible assumption | with_reducible apply flagSet_kept | (fail_if_no_progress with_reducible refine Kept.lit rfl rfl rfl rfl rfl rfl rfl rfl rfl rfl rfl rfl ?_) | split

theorem execOtpProgGo_kept {o s : State} (h : Kept o s) : KeptOut o (execOtpProgGo s) := by
  unfold execOtpProgGo
  repeat' first | with_reducible assumption | apply Kept.next | with_reducible apply otpGo_kept

theorem Otp.withWord_revoked (x : Otp) (a v : Nat) : (x.withWord a v).revoked = x.revoked := by
  unfold Otp.withWord
  split <;> rfl
theorem execOtpProgDone_kept {o s : State} {a0} (h : Kept o s) : KeptOut o (execOtpProgDone a0 s) := by
  unfold execOtpProgDone
  apply Kept.next
  dsimp only
  split
  · exact h
  · have h1 : ∀ {x : Sec} {y z : Nat}, Kept o { s with sec := x, otp := s.otp.withWord y z } := Kept.lit rfl rfl rfl (Otp.withWord_revoked _ _ _) rfl rfl rfl rfl rfl rfl rfl rfl h
    exact Kept.ite h1 (flagSet_kept h1)

theorem dyingStart_kept {o s : State} (h : Kept o s) : Kept o (dyingStart s) := by
  unfold dyingStart
  repeat' first | with_reducible assumption | with_reducible apply raise_kept | (fail_if_no_progress with_reducible refine Kept.lit rfl rfl rfl rfl rfl rfl rfl rfl rfl rfl rfl rfl ?_)

theorem flushPort_kept {o s : State} {a0 a1} (h : Kept o s) : Kept o (flushPort a0 a1 s) := by
  induction a1 generalizing s a0 with
  | zero =>
    unfold flushPort
    try dsimp only
    repeat' first | with_reducible assumption
  | succ n ih =>
    unfold flushPort
    try dsimp only
    repeat' first | with_reducible assumption | with_reducible apply drainPort_kept | with_reducible apply modPort_kept | with_reducible apply ih

theorem dyingGoose_kept {o s : State} {a1} (h : Kept o s) : Kept o (dyingGoose s a1) := by
  unfold dyingGoose
  try dsimp only
  repeat' first | with_reducible assumption | with_reducible apply stateChange_kept | split

theorem gateIslands_kept {o s : State} (h : Kept o s) : Kept o (gateIslands s) := by
  unfold gateIslands
  repeat' first | with_reducible assumption | (fail_if_no_progress with_reducible refine Kept.lit rfl rfl rfl rfl rfl rfl rfl rfl rfl rfl rfl rfl ?_)

theorem holdEnd_kept {o s : State} (h : Kept o s) : Kept o (holdEnd s) := by
  unfold holdEnd
  repeat' first | with_reducible assumption | with_reducible apply dtoAll_kept | with_reducible apply dyingGoose_kept | with_reducible apply flushPort_kept | with_reducible apply gateIslands_kept | with_reducible apply sendGasp_kept | (with_reducible apply Kept.foldl; intro _ _ _) | (fail_if_no_progress with_reducible refine Kept.lit rfl rfl rfl rfl rfl rfl rfl rfl rfl rfl rfl rfl ?_) | split

theorem allReset_kept {o s : State} {a1} (h : Kept o s) : Kept o (allReset s a1) := by
  unfold allReset
  repeat' first | with_reducible assumption | with_reducible apply enterBoot_kept | (fail_if_no_progress with_reducible refine Kept.lit rfl rfl rfl rfl rfl rfl rfl rfl rfl rfl rfl rfl ?_)

theorem writeBlock_serial (s : State) (d : Dying) (u e : Nat) : (writeBlock s d u e).serial = s.flash.serial := by
  unfold writeBlock
  dsimp only
  repeat' first | rfl | split
theorem dyingWritten_kept {o s : State} {a1 a2} (h : Kept o s) : Kept o (dyingWritten s a1 a2) := by
  unfold dyingWritten
  split
  · split
    · exact Kept.lit rfl rfl rfl rfl rfl rfl rfl rfl rfl rfl rfl rfl (allReset_kept (Kept.lit rfl rfl (writeBlock_serial _ _ _ _) rfl rfl rfl rfl rfl rfl rfl rfl rfl h))
    · exact h
  · exact h

theorem cutDying_kept {o s : State} (h : Kept o s) : Kept o (cutDying s) := by
  unfold cutDying
  try dsimp only
  repeat' first | with_reducible assumption | (fail_if_no_progress with_reducible refine Kept.lit rfl rfl rfl rfl rfl rfl rfl rfl rfl rfl rfl rfl ?_) | split

theorem execPowerGood_kept {o s : State} (h : Kept o s) : KeptOut o (execPowerGood s) := by
  unfold execPowerGood
  repeat' first | with_reducible assumption | apply Kept.next | with_reducible apply allReset_kept | split

theorem execResetNAssert_kept {o s : State} (h : Kept o s) : KeptOut o (execResetNAssert s) := by
  unfold execResetNAssert
  repeat' first | with_reducible assumption | apply Kept.next | with_reducible apply allReset_kept | with_reducible apply cutDying_kept

theorem execPwrFailAssert_kept {o s : State} (h : Kept o s) : KeptOut o (execPwrFailAssert s) := by
  unfold execPwrFailAssert
  repeat' first | with_reducible assumption | apply Kept.next | with_reducible apply dyingStart_kept | (fail_if_no_progress with_reducible refine Kept.lit rfl rfl rfl rfl rfl rfl rfl rfl rfl rfl rfl rfl ?_) | split

theorem execProtHoldEnd_kept {o s : State} (h : Kept o s) : KeptOut o (execProtHoldEnd s) := by
  unfold execProtHoldEnd
  repeat' first | with_reducible assumption | apply Kept.next | with_reducible apply holdEnd_kept

theorem execDyingBlockWritten_kept {o s : State} {a0 a1} (h : Kept o s) : KeptOut o (execDyingBlockWritten a0 a1 s) := by
  unfold execDyingBlockWritten
  repeat' first | with_reducible assumption | apply Kept.next | with_reducible apply dyingWritten_kept

theorem execPwrFailRelease_kept {o s : State} (h : Kept o s) : KeptOut o (execPwrFailRelease s) := by
  unfold execPwrFailRelease
  repeat' first | with_reducible assumption | apply Kept.next | with_reducible apply allReset_kept | split

theorem safeUnlessDying_kept {o s : State} {a1} (h : Kept o s) : Kept o (safeUnlessDying s a1) := by
  unfold safeUnlessDying
  try dsimp only
  repeat' first | with_reducible assumption | with_reducible apply enterSafe_kept | (with_reducible refine Kept.fst (by with_reducible assumption) ?_) | with_reducible apply KeptP.fst | with_reducible apply KeptC.s_kept | (intro _ _ _ _) | with_reducible apply Kept.ite | (fail_if_no_progress with_reducible refine Kept.lit rfl rfl rfl rfl rfl rfl rfl rfl rfl rfl rfl rfl ?_) | split

theorem execRailFault_kept {o s : State} {a0} (h : Kept o s) : KeptOut o (execRailFault a0 s) := by
  unfold execRailFault
  repeat' first | with_reducible assumption | apply Kept.next | with_reducible apply bump_kept | with_reducible apply flagSet_kept | with_reducible apply raise_kept | with_reducible apply safeUnlessDying_kept | (fail_if_no_progress with_reducible refine Kept.lit rfl rfl rfl rfl rfl rfl rfl rfl rfl rfl rfl rfl ?_) | split

theorem execPllLockLoss_kept {o s : State} (h : Kept o s) : KeptOut o (execPllLockLoss s) := by
  unfold execPllLockLoss
  repeat' first | with_reducible assumption | apply Kept.next | with_reducible apply safeUnlessDying_kept | (fail_if_no_progress with_reducible refine Kept.lit rfl rfl rfl rfl rfl rfl rfl rfl rfl rfl rfl rfl ?_) | split

theorem execD2dFailure_kept {o s : State} (h : Kept o s) : KeptOut o (execD2dFailure s) := by
  unfold execD2dFailure
  repeat' first | with_reducible assumption | apply Kept.next | with_reducible apply safeUnlessDying_kept | (fail_if_no_progress with_reducible refine Kept.lit rfl rfl rfl rfl rfl rfl rfl rfl rfl rfl rfl rfl ?_) | split

theorem setTemp_kept {o s : State} {a1 a2} (h : Kept o s) : Kept o (setTemp s a1 a2) := by
  unfold setTemp
  repeat' first | with_reducible assumption | (fail_if_no_progress with_reducible refine Kept.lit rfl rfl rfl rfl rfl rfl rfl rfl rfl rfl rfl rfl ?_) | split

theorem setTemps_kept {o s : State} {a1} (h : Kept o s) : Kept o (setTemps s a1) := by
  unfold setTemps
  repeat' first | with_reducible assumption | with_reducible apply setTemp_kept | (with_reducible apply Kept.foldl; intro _ _ _)

theorem execThermalSafe_kept {o s : State} {a0 a1} (h : Kept o s) : KeptOut o (execThermalSafe a0 a1 s) := by
  unfold execThermalSafe
  repeat' first | with_reducible assumption | apply Kept.next | with_reducible apply safeUnlessDying_kept | with_reducible apply setTemp_kept | split

theorem execThermalShutdown_kept {o s : State} {a0 a1} (h : Kept o s) : KeptOut o (execThermalShutdown a0 a1 s) := by
  unfold execThermalShutdown
  repeat' first | with_reducible assumption | apply Kept.next | with_reducible apply allReset_kept | with_reducible apply cutDying_kept | with_reducible apply setTemp_kept | split

theorem execThermalShutdownRelease_kept {o s : State} {a0} (h : Kept o s) : KeptOut o (execThermalShutdownRelease a0 s) := by
  unfold execThermalShutdownRelease
  repeat' first | with_reducible assumption | apply Kept.next | with_reducible apply allReset_kept | with_reducible apply setTemps_kept | split

theorem thermMargin_kept {o s : State} (h : Kept o s) : Kept o (thermMargin s) := by
  unfold thermMargin
  repeat' first | with_reducible assumption | with_reducible apply raise_kept | with_reducible apply setCause_kept | (fail_if_no_progress with_reducible refine Kept.lit rfl rfl rfl rfl rfl rfl rfl rfl rfl rfl rfl rfl ?_) | split

theorem execThermalThrottle_kept {o s : State} {a0 a1} (h : Kept o s) : KeptOut o (execThermalThrottle a0 a1 s) := by
  unfold execThermalThrottle
  repeat' first | with_reducible assumption | apply Kept.next | with_reducible apply bump_kept | with_reducible apply raise_kept | with_reducible apply setTemp_kept | with_reducible apply thermMargin_kept | (fail_if_no_progress with_reducible refine Kept.lit rfl rfl rfl rfl rfl rfl rfl rfl rfl rfl rfl rfl ?_) | split

theorem execThermalRelease_kept {o s : State} {a0} (h : Kept o s) : KeptOut o (execThermalRelease a0 s) := by
  unfold execThermalRelease
  repeat' first | with_reducible assumption | apply Kept.next | with_reducible apply cfgKick_kept | with_reducible apply raise_kept | with_reducible apply setTemps_kept | (fail_if_no_progress with_reducible refine Kept.lit rfl rfl rfl rfl rfl rfl rfl rfl rfl rfl rfl rfl ?_) | split

theorem execThermalMarginClear_kept {o s : State} (h : Kept o s) : KeptOut o (execThermalMarginClear s) := by
  unfold execThermalMarginClear
  repeat' first | with_reducible assumption | apply Kept.next | with_reducible apply thermMargin_kept

theorem execDramCeHigh_kept {o s : State} {a0} (h : Kept o s) : KeptOut o (execDramCeHigh a0 s) := by
  unfold execDramCeHigh
  repeat' first | with_reducible assumption | apply Kept.next | with_reducible apply raise_kept | with_reducible apply regSet_kept | with_reducible apply setCause_kept | split

theorem execDramCeHourEnd_kept {o s : State} {a0} (h : Kept o s) : KeptOut o (execDramCeHourEnd a0 s) := by
  unfold execDramCeHourEnd
  repeat' first | with_reducible assumption | apply Kept.next | with_reducible apply regSet_kept | with_reducible apply setCause_kept | split

theorem submitUnknown_kept {o s : State} {a0 a1} (h : Kept o s) : Kept o (submitUnknown a0 a1 s) := by
  unfold submitUnknown
  repeat' first | with_reducible assumption | with_reducible apply reserve_kept | with_reducible apply writeCpl_kept | with_reducible apply KeptP.fst | (fail_if_no_progress with_reducible refine Kept.lit rfl rfl rfl rfl rfl rfl rfl rfl rfl rfl rfl rfl ?_) | split

/-- The owning rule of every opcode keeps the relation. -/
theorem cmdRule_kept {o : State} {op : Nat} {r : CmdRule} (hr : cmdRule op = some r) (e : CmdEntry) (c : Nat) (st : State) (h : Kept o st) : KeptC o (r.own e c st) := by
  unfold cmdRule at hr
  split at hr
  · cases hr; exact (nopOwn_kept h : KeptC o (nopOwn e c st))
  · cases hr; exact (identifyOwn_kept h : KeptC o (identifyOwn e c st))
  · cases hr; exact (modeSetOwn_kept h : KeptC o (modeSetOwn e c st))
  · cases hr; exact (ringCreateOwn_kept h : KeptC o (ringCreateOwn e c st))
  · cases hr; exact (ringDestroyOwn_kept h : KeptC o (ringDestroyOwn e c st))
  · cases hr; exact (imageLoadOwn_kept h : KeptC o (imageLoadOwn e c st))
  · cases hr; exact (imageCommitOwn_kept h : KeptC o (imageCommitOwn e c st))
  · cases hr; exact (attestOwn_kept h : KeptC o (attestOwn e c st))
  · cases hr; exact (debugUnlockOwn_kept h : KeptC o (debugUnlockOwn e c st))
  · cases hr; exact (timeRestepOwn_kept h : KeptC o (timeRestepOwn e c st))
  · cases hr; exact (schedAddOwn_kept h : KeptC o (schedAddOwn e c st))
  · cases hr; exact (schedCancelOwn_kept h : KeptC o (schedCancelOwn e c st))
  · cases hr; exact (afeSnapOwn_kept h : KeptC o (afeSnapOwn e c st))
  · cases hr; exact (ownAfeCal_kept h : KeptC o (ownAfeCal e c st))
  · cases hr; exact (bayStartOwn_kept h : KeptC o (bayStartOwn e c st))
  · cases hr; exact (bayStopOwn_kept h : KeptC o (bayStopOwn e c st))
  · cases hr; exact (groupSelectOwn_kept h : KeptC o (groupSelectOwn e c st))
  · cases hr; exact (bayStateReadOwn_kept h : KeptC o (bayStateReadOwn e c st))
  · cases hr; exact (targetResetOwn_kept h : KeptC o (targetResetOwn e c st))
  · cases hr; exact (cellSplitOwn_kept h : KeptC o (cellSplitOwn e c st))
  · cases hr; exact (cellJoinOwn_kept h : KeptC o (cellJoinOwn e c st))
  · cases hr; exact (cellMigrateOwn_kept h : KeptC o (cellMigrateOwn e c st))
  · cases hr; exact (selftestOwn_kept h : KeptC o (selftestOwn e c st))
  · cases hr; exact (recForceOwn_kept h : KeptC o (recForceOwn e c st))
  · cases hr; exact (recFetchOwn_kept h : KeptC o (recFetchOwn e c st))
  · cases hr; exact (recReleaseOwn_kept h : KeptC o (recReleaseOwn e c st))
  · cases hr; exact (histOwn_kept h : KeptC o (histOwn e c st))
  · cases hr; exact (ownMirRole_kept h : KeptC o (ownMirRole e c st))
  · cases hr; exact (ownMirSync_kept h : KeptC o (ownMirSync e c st))
  · cases hr; exact (metPostOwn_kept h : KeptC o (metPostOwn e c st))
  · cases hr; exact (metReadOwn_kept h : KeptC o (metReadOwn e c st))
  · cases hr; exact (belTestPublishOwn_kept h : KeptC o (belTestPublishOwn e c st))
  · cases hr
theorem takeCommand_kept {o s : State} {a0 a1} (h : Kept o s) : Kept o (takeCommand a0 a1 s) := by
  unfold takeCommand
  split
  · rename_i r hr
    exact submit_kept h (fun e c st hx => cmdRule_kept hr e c st hx)
  · exact submitUnknown_kept h

theorem retryWaiting_kept {o s : State} (h : Kept o s) : Kept o (retryWaiting s) := by
  unfold retryWaiting
  repeat' first | with_reducible assumption | with_reducible apply takeCommand_kept | (with_reducible apply Kept.foldl; intro _ _ _) | (fail_if_no_progress with_reducible refine Kept.lit rfl rfl rfl rfl rfl rfl rfl rfl rfl rfl rfl rfl ?_)

theorem execCommandFetch_kept {o s : State} {a0} (h : Kept o s) : KeptOut o (execCommandFetch a0 s) := by
  unfold execCommandFetch
  repeat' first | with_reducible assumption | apply Kept.next | with_reducible apply haltRing_kept | with_reducible apply modRing_kept | with_reducible apply takeCommand_kept | (fail_if_no_progress with_reducible refine Kept.lit rfl rfl rfl rfl rfl rfl rfl rfl rfl rfl rfl rfl ?_) | split

theorem execHeadDoorbell_kept {o s : State} {a0 a1} (h : Kept o s) : KeptOut o (execHeadDoorbell a0 a1 s) := by
  unfold execHeadDoorbell
  repeat' first | with_reducible assumption | apply Kept.next | with_reducible apply doorbell_kept | with_reducible apply retryWaiting_kept | split

theorem setupWrite_kept {o s : State} {a1 a2} (h : Kept o s) : Kept o (setupWrite s a1 a2) := by
  unfold setupWrite
  try dsimp only
  repeat' first | with_reducible assumption | with_reducible apply adminEnable_kept | with_reducible apply dbgAttach_kept | with_reducible apply dbgDetach_kept | with_reducible apply dpcAddrPut_kept | with_reducible apply dtoEnPut_kept | with_reducible apply flagSet_kept | with_reducible apply otpGo_kept | with_reducible apply regWrite_kept | with_reducible apply resetHost_kept | (with_reducible refine Kept.fst (by with_reducible assumption) ?_) | with_reducible apply KeptP.fst | with_reducible apply KeptC.s_kept | (intro _ _ _ _) | with_reducible apply Kept.ite

theorem execRegisterWrite_kept {o s : State} {a0 a1 a2} (h : Kept o s) : KeptOut o (execRegisterWrite a0 a1 a2 s) := by
  unfold execRegisterWrite
  repeat' first | with_reducible assumption | apply Kept.next | with_reducible apply bump_kept | with_reducible apply setupWrite_kept | split

theorem execPtpSyncRx_kept {o s : State} {a0} (h : Kept o s) : KeptOut o (execPtpSyncRx a0 s) := by
  unfold execPtpSyncRx
  try dsimp only
  repeat' first | with_reducible assumption | apply Kept.next | with_reducible apply almMeasure_kept | with_reducible apply setUsable_kept | (with_reducible refine Kept.fst (by with_reducible assumption) ?_) | with_reducible apply KeptP.fst | with_reducible apply KeptC.s_kept | (intro _ _ _ _) | with_reducible apply Kept.ite | with_reducible apply KeptOut.ite | (fail_if_no_progress with_reducible refine Kept.lit rfl rfl rfl rfl rfl rfl rfl rfl rfl rfl rfl rfl ?_)

theorem execPtpAnnounceRx_kept {o s : State} {a0} (h : Kept o s) : KeptOut o (execPtpAnnounceRx a0 s) := by
  unfold execPtpAnnounceRx
  dsimp only
  have h1 : ∀ l, Kept o (selectMaster { s with alm := { s.alm with foreign := l } }) := fun _ => selectMaster_kept (Kept.lit rfl rfl rfl rfl rfl rfl rfl rfl rfl rfl rfl rfl h)
  apply KeptOut.ite
  · have h2 := h1 (s.alm.foreign.filter (fun x => !(decide (x.sender = a0.sender) && decide (x.port = a0.port))) ++
      [⟨a0.gmId, a0.port, a0.sender, a0.clockClass, a0.accuracy, a0.variance, a0.prio1, a0.prio2, a0.steps, a0.traceable, a0.ptpScale,
        if flag s R.almPtpCfg 23 then a0.inaccuracy else none, if flag s R.almPtpCfg 23 then a0.tlvId else none, a0.logInterval, s.dev.ticks⟩])
    generalize selectMaster _ = t at h2 ⊢
    exact KeptOut.ite (Kept.next (leapNote_kept (Kept.ite (fldSet_kept (Kept.lit rfl rfl rfl rfl rfl rfl rfl rfl rfl rfl rfl rfl h2)) h2))) (Kept.next h2)
  · exact Kept.next h

theorem ptpSend_kept {o s : State} {a1 a2 a3} (h : Kept o s) : Kept o (ptpSend s a1 a2 a3) := by
  unfold ptpSend
  repeat' first | with_reducible assumption | with_reducible apply egress_kept

theorem execPtpPdelayRx_kept {o s : State} {a0} (h : Kept o s) : KeptOut o (execPtpPdelayRx a0 s) := by
  unfold execPtpPdelayRx
  repeat' first | with_reducible assumption | apply Kept.next | with_reducible apply ptpSend_kept | (fail_if_no_progress with_reducible refine Kept.lit rfl rfl rfl rfl rfl rfl rfl rfl rfl rfl rfl rfl ?_) | split

theorem execPtpIntervalSend_kept {o s : State} {a0 a1} (h : Kept o s) : KeptOut o (execPtpIntervalSend a0 a1 s) := by
  unfold execPtpIntervalSend
  try dsimp only
  repeat' first | with_reducible assumption | apply Kept.next | with_reducible apply ptpSend_kept | (fail_if_no_progress with_reducible refine Kept.lit rfl rfl rfl rfl rfl rfl rfl rfl rfl rfl rfl rfl ?_) | split

theorem execTcEventForward_kept {o s : State} {a0 a1 a2 a3} (h : Kept o s) : KeptOut o (execTcEventForward a0 a1 a2 a3 s) := by
  unfold execTcEventForward
  try dsimp only
  repeat' first | with_reducible assumption | apply Kept.next | with_reducible apply bumpFld_kept | with_reducible apply egress_kept | (fail_if_no_progress with_reducible refine Kept.lit rfl rfl rfl rfl rfl rfl rfl rfl rfl rfl rfl rfl ?_) | split

theorem execTcFollowUpForward_kept {o s : State} {a0 a1 a2} (h : Kept o s) : KeptOut o (execTcFollowUpForward a0 a1 a2 s) := by
  unfold execTcFollowUpForward
  try dsimp only
  repeat' first | with_reducible assumption | apply Kept.next | with_reducible apply bumpFld_kept | with_reducible apply egress_kept | (fail_if_no_progress with_reducible refine Kept.lit rfl rfl rfl rfl rfl rfl rfl rfl rfl rfl rfl rfl ?_) | split

theorem execTcEntryExpiry_kept {o s : State} (h : Kept o s) : KeptOut o (execTcEntryExpiry s) := by
  unfold execTcEntryExpiry
  repeat' first | with_reducible assumption | apply Kept.next | (fail_if_no_progress with_reducible refine Kept.lit rfl rfl rfl rfl rfl rfl rfl rfl rfl rfl rfl rfl ?_)

end Sys2Proof.Machine
end

