-- ==== Sys2Proof/Laws/Modes.lean ====
section
/-! SUPPORT. Which operations of a mode change leave the device record alone, and the mode that a change enters (R27, R30, R31). -/

namespace Sys2Proof.Machine

theorem foldl_dev {α : Type} {f : State → α → State} (hf : ∀ s x, (f s x).dev = s.dev) : ∀ (l : List α) (s : State), (l.foldl f s).dev = s.dev
  | [], _ => rfl
  | x :: xs, s => (foldl_dev hf xs (f s x)).trans (hf s x)

@[simp] theorem dtoStep_dev (s : State) (i : Nat) : (dtoStep s i).dev = s.dev := rfl
@[simp] theorem dtoShow_dev (s : State) : (dtoShow s).dev = s.dev := rfl
@[simp] theorem dtoAll_dev (s : State) : (dtoAll s).dev = s.dev := by
  have h : (dtoShow ((List.range 8).foldl dtoStep s)).dev = s.dev := (dtoShow_dev _).trans (foldl_dev dtoStep_dev _ s)
  have k : ∀ c : Bool, (if c then s else dtoShow ((List.range 8).foldl dtoStep s)).dev = s.dev := by
    intro c; cases c
    · exact h
    · rfl
  exact k _
@[simp] theorem showDbg_dev (s : State) : (showDbg s).dev = s.dev := rfl
@[simp] theorem leaveTest_dev (s : State) : (leaveTest s).dev = s.dev := by
  unfold leaveTest; split <;> simp
@[simp] theorem endGrant_dev (s : State) (c : Nat) : (endGrant s c).dev = s.dev := by
  unfold endGrant; split
  · rfl
  · simp
@[simp] theorem setEpoch_dev (s : State) (e : Nat) : (setEpoch s e).dev = s.dev := by
  unfold setEpoch; split <;> simp
@[simp] theorem mirShow_dev (s : State) : (mirShow s).dev = s.dev := by
  unfold mirShow; split
  · rfl
  · dsimp only
    rw [foldl_dev (fun s x => regSet_dev _ _ _)]
    simp
@[simp] theorem setMir_dev (s : State) (f : Mir → Mir) : (setMir s f).dev = s.dev := by unfold setMir; simp
@[simp] theorem endRole_dev (s : State) (st : Nat) (a : Att) : (endRole s st a).dev = s.dev := by
  unfold endRole; split
  · dsimp only; split <;> simp
  · rfl
@[simp] theorem stopResync_dev (s : State) : (stopResync s).dev = s.dev := by
  unfold stopResync; dsimp only
  rw [foldl_dev (fun s x => complete_dev _ _ _ _ _)]; simp
@[simp] theorem stage_dev (s : State) (n c : Nat) (w : SampleWord) : (stage s n c w).dev = s.dev := by
  unfold stage; split
  · rfl
  · split
    · rfl
    · split
      · unfold slotOverflow; dsimp only; split
        · simp
        · split <;> first | (split <;> simp [setBay]) | simp [setBay]
      · dsimp only; split
        · split <;> rfl
        · rfl
@[simp] theorem modBay_dev (s : State) (n : Nat) (f : Bay → Bay) : (modBay s n f).dev = s.dev := by unfold modBay; split <;> rfl
@[simp] theorem stageAfter_dev (s : State) (n c : Nat) (w : SampleWord) : (stageAfter s n c w).dev = s.dev := by
  unfold stageAfter
  repeat' split
  all_goals first | rfl | simp
@[simp] theorem endSwitch_dev (s : State) (n c : Nat) : (endSwitch s n c).dev = s.dev := by
  unfold endSwitch; split
  · rw [foldl_dev (fun s x => stageAfter_dev _ _ _ _)]; simp
  · rfl
@[simp] theorem stageNew_dev (s : State) (n c : Nat) (w : SampleWord) : (stageNew s n c w).dev = s.dev := by
  unfold stageNew
  repeat' split
  all_goals first | rfl | simp
@[simp] theorem stageOld_dev (s : State) (n c : Nat) (w : SampleWord) : (stageOld s n c w).dev = s.dev := by
  unfold stageOld
  repeat' split
  all_goals first | rfl | simp
@[simp] theorem stageLocal_dev (s : State) (ch : Nat) (s4 : Bool) (w : SampleWord) : (stageLocal s ch s4 w).dev = s.dev := by
  unfold stageLocal
  refine foldl_dev (fun s x => ?_) _ _
  repeat' split
  all_goals first | rfl | simp
@[simp] theorem useOwn_dev (s : State) : (useOwn s).dev = s.dev := by
  unfold useOwn; dsimp only
  rw [foldl_dev (fun s x => foldl_dev (fun s y => stageLocal_dev _ _ _ _) _ _)]; simp
@[simp] theorem pairLetGo_dev (s : State) : (pairLetGo s).dev = s.dev := by
  unfold pairLetGo; split <;> simp

/-- A mode entered: the mode, the one before it, no MODE_SET pending, and dto_en cleared in COMMISSION and TEST. -/
theorem enterMode_dev (s : State) (m : Mode) (t : Inst) :
    (enterMode s m t).dev =
      { s.dev with
        mode := m, prev := s.dev.mode, since := t, pend := none
        dtoEn := s.dev.dtoEn && !(decide (m = .commission) || decide (m = .test))
        dtoActive := s.dev.dtoActive && !(decide (m = .commission) || decide (m = .test))
        dtoAt := if (decide (m = .commission) || decide (m = .test)) = true then none else s.dev.dtoAt } := by
  unfold enterMode; dsimp only
  simp only [mirShow_dev, dtoAll_dev, apply_ite State.dev, setEpoch_dev, endGrant_dev, raise_dev, appendLog_dev, leaveTest_dev, ite_self]

theorem changeMode_dev (s : State) (m : Mode) (t : Inst) : (changeMode s m t).dev = (enterMode (pairLetGo s) m t).dev := by
  unfold changeMode; dsimp only; split <;> simp

/-- The mode that a change enters, and the mode before it. -/
theorem changeMode_mode (s : State) (m : Mode) (t : Inst) : (changeMode s m t).dev.mode = m ∧ (changeMode s m t).dev.prev = s.dev.mode ∧ (changeMode s m t).dev.pend = none ∧
    (m = .commission ∨ m = .test → (changeMode s m t).dev.dtoEn = false) := by
  rw [changeMode_dev, enterMode_dev, pairLetGo_dev]
  refine ⟨rfl, rfl, rfl, fun h => ?_⟩
  rcases h with h | h <;> simp [h]

/-- SAFE entered on a condition, in any mode but BOOT and SAFE. -/
theorem enterSafe_mode {s : State} {cause : Nat} (hb : s.dev.mode ≠ .boot) (hs : s.dev.mode ≠ .safe) :
    (enterSafe s cause).dev.mode = .safe ∧ (enterSafe s cause).dev.prev = s.dev.mode ∧ (enterSafe s cause).dev.pend = none := by
  have k : ∀ u : State, u.dev = s.dev → (raise 0x0102 (changeMode u .safe (now s)) (items := [(1, cause)])).dev.mode = .safe ∧
      (raise 0x0102 (changeMode u .safe (now s)) (items := [(1, cause)])).dev.prev = s.dev.mode ∧
      (raise 0x0102 (changeMode u .safe (now s)) (items := [(1, cause)])).dev.pend = none := by
    intro u hu
    obtain ⟨h1, h2, h3, _⟩ := changeMode_mode u .safe (now s)
    simp only [raise_dev]
    exact ⟨h1, by rw [h2, hu], h3⟩
  unfold enterSafe
  cases hm : s.dev.mode with
  | boot => exact absurd hm hb
  | safe => exact absurd hm hs
  | _ =>
    dsimp only
    rw [hm] at k
    split
    · exact k _ (by simp)
    · exact k _ rfl

/-- What a reset of every island leaves: BOOT, with what outlives it, the flash, and the power state that its cause gives. -/
theorem allReset_atBoot (s : State) (f : Pwr → Pwr) : AtBoot s (allReset s f) ∧ (allReset s f).flash = s.flash ∧
    (allReset s f).pwr = f { Pwr.reset with resetLow := s.pwr.resetLow, failLow := s.pwr.failLow, temps := s.pwr.temps } := by
  unfold allReset enterBoot; dsimp only
  split
  · exact ⟨⟨rfl, rfl, rfl, rfl, rfl, rfl, rfl, rfl, rfl, rfl, rfl⟩, rfl, rfl⟩
  · refine ⟨⟨?_, ?_, ?_, ?_, ?_, ?_, ?_, ?_, ?_, ?_, ?_⟩, ?_, ?_⟩
    case refine_4 | refine_6 | refine_9 =>
      unfold raise deliver
      rw [if_neg (by simp only [takers, Bool.and_eq_true, not_and]; intro _; exact Bool.noConfusion)]
      have h : bitOf 0 (257 / 256) = false := by decide
      first | (simp [evtHold, Hif.reset, h]; done) | (simp [evtHold, Hif.reset, h]; rfl)
    all_goals first | rfl | (simp; done) | (simp; rfl)

end Sys2Proof.Machine
end

