-- ==== Sys2Proof/Machine/Flags.lean ====
section
/-! DEFINITION. What a read of a SETUP register answers: the words that software writes are stored, and the status words that follow the state are composed here (R9, R561, R564). A read has no side effect. Output pins that follow the state stand here too. -/

namespace Sys2Proof.Machine

/-- SERVICE_REQ_N is driven low (R34, R550, R588). -/
def serviceReq (s : State) : Bool := s.pwr.shutdown || s.pwr.resetLow || s.pwr.degraded

/-- HEALTH (R556). -/
def healthWord (s : State) : Nat := 2 ^ 31 * b2n s.pwr.degraded + 2 ^ 20 * (s.pwr.safeCause % 16) + s.pwr.causes % 128

/-- The hottest reading with its sensor, in 1/16 °C; the lowest sensor of equal ones (R551). -/
def hottest (s : State) : Option (Nat × Int) :=
  s.pwr.temps.foldl (fun m p => match m with | some x => if x.2 < p.2 then some p else m | none => some p) none

/-- PWR_STAT: the live bits over the stored W1C ones. -/
def pwrStatWord (s : State) : Nat :=
  let h := match hottest s with | some (n, t) => 2 ^ 24 * (clampI 0 255 (t / 16 + 64)).toNat + 2 ^ 16 * (n % 256) | none => 0
  h + 64 * b2n (isDying s) + 32 * b2n s.pwr.throttle + 16 * b2n s.pwr.failLow + 4 * b2n (serviceReq s) + Nat.land (regGet s R.pwrStat) 10

/-- The pending mode change that MODE_STAT shows: a MODE_SET, a takeover or a role move. -/
def pendMode (s : State) : Option Mode :=
  match s.dev.pend with
  | some p => some p.target
  | none =>
    if s.mir.takeover.isSome then some .service
    else if s.mir.contention.isSome then some .vigil
    else match s.mir.hand with
      | some _ => some (if s.dev.mode = .service then .vigil else .service)
      | none => none

/-- MODE_STAT (R571). -/
def modeStatWord (s : State) : Nat :=
  2 ^ 15 * b2n s.dev.bootErr + (match pendMode s with | some m => 2 ^ 14 + 2 ^ 11 * m.code | none => 0) + 2 ^ 8 * s.dev.prev.code + s.dev.mode.code

/-- ALM_STAT: the live bits over the stored W1C ones. -/
def almStatWord (s : State) : Nat :=
  let a := s.alm
  2 ^ 16 * (qualityNow a).toNat + 2 ^ 12 * (a.selPort % 16) + 2 ^ 11 * b2n a.firstLock + 2 ^ 10 * b2n a.stepRefused + 2 ^ 9 * b2n a.oscFail
    + 2 ^ 8 * b2n a.restepReady + Nat.land (regGet s R.almStat) 192

/-- The candidate offset of a dispute, signed 64-bit ns. -/
def candWord (s : State) : Nat := ofSigned 64 (ofsNs s.alm.cand)

/-- ALM_RATE: the rate correction in units of 2^-20 ppm. -/
def rateWord (s : State) : Nat := ofSigned 32 (rdivI (((s.alm.inc : Int) - incNominal) * (10 ^ 6 * 2 ^ 20 : Nat)) incNominal)

/-- The slots that are occupied, as a mask. -/
def slotMask (s : State) : Nat := maskOf 64 (fun n => (tget? s.alm.slots n).isSome)

/-- LKS_GRP_STAT of a group (R446). -/
def grpStatWord (s : State) (g : Nat) : Nat :=
  let x := grp s g
  let copies := copyMask s g
  let host := hostOf s g
  let form := if host.isSome then formOf (copiesOf s g).length else 0
  let detached := maskOf 3 (fun p => !bitOf copies p && !bitOf x.resync p && !bitOf x.again p)
  let wait := (s.cfg.migs ++ s.cfg.after).any (fun m => decide (m.cause = .fault) && decide (m.step = .waiting) && decide (host = some m.bay))
  2 ^ 30 * form + 2 ^ 27 * copies + 2 ^ 24 * detached + 2 ^ 23 * b2n x.obs.isSome + 2 ^ 22 * b2n x.obsDiff + 2 ^ 21 * b2n x.debug + 2 ^ 20 * b2n x.unsup
    + 2 ^ 19 * b2n (resyncPend s g) + 2 ^ 18 * b2n wait + 2 ^ 17 * b2n x.withdrawn + host.getD 0xFF

/-- MIR_HOLDOFF_LEFT: the seconds that unit A must still be SYNCED (R472). -/
def holdoffLeft (s : State) : Nat :=
  let h := fld s R.mirCfg 16 0
  if decide (s.dev.mode = .vigil) && !isUnitB s && decide (s.mir.pstate = 3) then
    match s.mir.syncSince with | some t => h - (s.dev.ticks - t) / secT | none => h
  else h

/-- SEC_STAT: the live bits over otp_err. -/
def secStatWord (s : State) : Nat :=
  let scope := match s.sec.grant with | some g => g.scope | none => 0
  Nat.land (regGet s R.secStat) 128 + 64 * b2n (tokenLocked s) + 32 * b2n (bitOf scope 1) + 16 * b2n (bitOf scope 0)
    + 8 * b2n s.sec.schPend + 4 * b2n s.sec.libPend + 2 * b2n s.sec.s1Pend + b2n s.sec.fallback

/-- SEC_KEY_STAT. -/
def keyStatWord (s : State) : Nat :=
  2 ^ 28 * s.otp.progMask false + 2 ^ 24 * s.otp.revMask false + 2 ^ 20 * s.otp.progMask true + 2 ^ 16 * s.otp.revMask true + 2 ^ 14 * (s.sec.s1Key % 4)
    + 2 ^ 12 * (s.sec.libKey % 4) + 2 ^ 10 * (s.sec.schKey % 4)

/-- SEC_DBG_STAT. -/
def dbgStatWord (s : State) : Nat :=
  let g := match s.sec.grant with | some g => 2 ^ 31 * b2n (bitOf g.scope 1) + 2 ^ 30 * b2n (bitOf g.scope 0) + 2 ^ 29 * b2n g.vendor | none => 0
  g + 2 ^ 28 * b2n (challengeNow s).isSome

/-- HIF_STAT: the rings and the commands in flight over the stored W1C bits. -/
def hifStatWord (s : State) : Nat := 2 ^ 24 * (s.hif.rings.length % 256) + 2 ^ 15 * (s.hif.inflight.length % 512) + Nat.land (regGet s R.hifStat) 15

/-- The code of a ring type (R484). -/
def RingKind.code : RingKind → Nat
  | .cmd => 0 | .cpl => 1 | .evt => 2 | .record => 3 | .svt => 4 | .log => 5

/-- HIF_RING_STAT of the selected ring. -/
def ringStatWord (s : State) : Nat :=
  match tget? s.hif.rings (fld s R.hifRingSel 6 0) with
  | some r => 2 ^ 29 * r.kind.code + 2 ^ 25 * r.n + 2 ^ 24 * b2n r.phase + 2 ^ 23 * b2n r.halted + 2 ^ 15 * (r.vec % 256)
  | none => 7 * 2 ^ 29 + 2 ^ 15 * 255

/-- HIF_RING_IDX of the selected ring. -/
def ringIdxWord (s : State) : Nat := match tget? s.hif.rings (fld s R.hifRingSel 6 0) with | some r => 2 ^ 16 * r.host + r.part | none => 0

/-- The words of the DEV and PWR blocks that follow the state. -/
def readDev (s : State) (a : Nat) : Option Nat :=
  if a = R.devId then some (partNum s * 2 ^ 16 + Config.vendorId % 2 ^ 16)
  else if a = R.devRev then some (0xA1 * 2 ^ 24 + Config.romVersion % 2 ^ 16)
  else if a = R.devCap0 then some (nBays s * 2 ^ 24 + nGroups s * 2 ^ 16 + nClusters s * 2 ^ 8)
  else if a = R.devCap1 then some (nCells s * 2 ^ 16 + 128 * 2 ^ 8 + 8 * 16)
  else if a = R.modeStat then some (modeStatWord s)
  else if a = R.modeCtl then some (b2n s.dev.dtoEn)
  else if a = R.devBridgeCnt then
    let n := fld s R.devBridgeSel 5 0
    some (capN 65535 (tget 0 s.dev.bridgeUe n) * 2 ^ 16 + capN 65535 (tget 0 s.dev.bridgeCe n))
  else if a = R.health then some (healthWord s)
  else if a = R.pwrStat then some (pwrStatWord s)
  else if a = R.pwrTval then some (ofSigned 16 (tget 0 s.pwr.temps (fld s R.pwrTsel 5 0)))
  else none

/-- The words of the ALM block that follow the state. DESIGN CHOICE (log entry 89): ALM_RESTEP_STAT.persist_s reads 0 outside the disputed state. -/
def readAlm (s : State) (a : Nat) : Option Nat :=
  if a = R.almStat then some (almStatWord s)
  else if a = R.almUtcOffset then some (2 ^ 31 * b2n s.alm.srcPtp + 2 ^ 30 * b2n s.alm.utcValid + fld s R.almUtcOffset 15 0)
  else if a = R.almOffset then some (ofSigned 32 (clampI (-(2 ^ 31)) (2 ^ 31 - 1) (ofsNs s.alm.lastOfs)))
  else if a = R.almRate then some (rateWord s)
  else if a = R.almGmIdLo then some ((s.alm.gm.map Grandmaster.id).getD 0 % 2 ^ 32)
  else if a = R.almGmIdHi then some ((s.alm.gm.map Grandmaster.id).getD 0 / 2 ^ 32)
  else if a = R.almCandOfsLo then some (candWord s % 2 ^ 32)
  else if a = R.almCandOfsHi then some (candWord s / 2 ^ 32)
  else if a = R.almRestepStat then some (if s.alm.lock = .disputed then capN 4095 ((now s - s.alm.candSince) / secI) else 0)
  else if a = R.almSchedUsedLo then some (slotMask s % 2 ^ 32)
  else if a = R.almSchedUsedHi then some (slotMask s / 2 ^ 32)
  else if a = R.almEra then some (s.alm.era % 65536)
  else none

/-- The words of the SVI, CFG, LKS and MIR blocks that follow the state; CFG_BAY_GRPn of a bay beyond the part reads 0 (R209). The SVI counters are those of the stream in SVI_SEL. -/
def readMid (s : State) (a : Nat) : Option Nat :=
  if R.sviScAccept ≤ a ∧ a < R.sviScAccept + 40 then some (tget 0 s.svi.cnts (fld s R.sviSel 6 0 * 16 + (a - R.sviScAccept) / 4))
  else if 0x2100 ≤ a ∧ a < 0x2300 then let n := (a - 0x2100) / 4; some (svStatWord s n (strm s n) (fallbackInUse s n))
  else if 0x2900 + 4 * nBays s ≤ a ∧ a < 0x2B00 then some 0
  else if 0x2B00 ≤ a ∧ a < 0x2B90 then (let c := (a - 0x2B00) / 4; some (if c < nClusters s then cluStatWord s c else 0))
  else if a = R.lksGrpStat then some (grpStatWord s (fld s R.lksSel 7 0))
  else if a = R.lksGrpCnt then
    let x := grp s (fld s R.lksSel 7 0)
    some (capN 65535 x.mism * 2 ^ 16 + capN 65535 x.latent)
  else if 0x5000 ≤ a ∧ a < 0x5050 then
    if !paired s then some 0 else if a = R.mirHoldoffLeft then some (holdoffLeft s) else none
  else none

/-- The words of the BEL block that follow the state, with the windows of its tables. -/
def readBel (s : State) (a : Nat) : Option Nat :=
  let u := goSub s (fld s R.belGsSel 8 0)
  let p := goPub s (fld s R.belGpSel 7 0)
  if a = R.belVlanCfg ∨ a = R.belMcMacLo ∨ a = R.belMcMacHi ∨ a = R.belMcPorts then some (shownWord s a)
  else if a = R.belGsStat then some (2 ^ 31 * b2n (u.validAt (nowQ s)) + 2 ^ 30 * b2n (decide (u.accept ≠ 0)))
  else if a = R.belGsAccept then some u.accept
  else if a = R.belGsDup then some u.dup
  else if a = R.belGsStale then some u.stale
  else if a = R.belGsTal then some u.tal
  else if a = R.belGsRej then some u.rej
  else if a = R.belGpStnum then some p.st
  else if a = R.belGpSqnum then some p.sq
  else if 0x4B80 ≤ a ∧ a < 0x4BA0 then some (giAt s (nowQ s) / 2 ^ (8 * (a - 0x4B80)) % 2 ^ 32)
  else if 0x4BA0 ≤ a ∧ a < 0x4BE0 then some (maskOf 32 (fun j => (goSub s (8 * (a - 0x4BA0) + j)).validAt (nowQ s)))
  else none

/-- The words of the HIF and SEC blocks that follow the state. -/
def readHost (s : State) (a : Nat) : Option Nat :=
  if a = R.hifStat then some (hifStatWord s)
  else if a = R.hifRingStat then some (ringStatWord s)
  else if a = R.hifRingIdx then some (ringIdxWord s)
  else if a = R.hifLogSeqLo then some (s.hif.logSeq % 2 ^ 32)
  else if a = R.hifLogSeqHi then some (s.hif.logSeq / 2 ^ 32)
  else if a = R.secStat then some (secStatWord s)
  else if a = R.secBootStat then
    some (2 ^ 24 * s.sec.cause + 2 ^ 20 * s.sec.stage + 2 ^ 19 * b2n s.sec.s1Slot + 2 ^ 18 * b2n s.sec.libSlot + 2 ^ 17 * b2n s.sec.schSlot)
  else if a = R.secKeyStat then some (keyStatWord s)
  else if a = R.secRollback then some (2 ^ 8 * capN 128 (s.otp.counter true) + capN 128 (s.otp.counter false))
  else if a = R.secDbgStat then some (dbgStatWord s)
  else if a = R.secDbgExp then some (match s.sec.grant with | some g => g.notAfter % 2 ^ 32 | none => 0)
  else if a = R.secTokSerialLo then some (s.flash.serial % 2 ^ 32)
  else if a = R.secTokSerialHi then some (s.flash.serial / 2 ^ 32)
  else if R.secUid 0 ≤ a ∧ a ≤ R.secUid 3 then some (s.otp.uid / 2 ^ (8 * (a - R.secUid 0)) % 2 ^ 32)
  else if a = R.secUnitId then some (2 ^ 31 * b2n (bitOf s.otp.unitField 31) + s.otp.unitId % 2 ^ 20)
  else if a = R.secOtpProgCtl then some (2 * b2n s.sec.otpBusy.isSome)
  else none

/-- What a read of a SETUP address answers (R561): 0 for a reserved one. Registers that belong only to what the DX-7264-E1 lacks hold 0 (R564). -/
def readReg (s : State) (a : Nat) : Nat :=
  if (regAt a).isNone then 0
  else
    (((((readDev s a).orElse fun _ => readAlm s a).orElse fun _ => readMid s a).orElse fun _ => readBel s a).orElse fun _ => readHost s a).getD (regGet s a)

/-- A read of the SETUP window with its byte enables: what it answers, and the state after it. Partial byte enables answer 0 and are counted (R6). The table has no row for a read. -/
def setupRead (addr be : Nat) (s : State) : Nat × State :=
  if !hostReach s then (0, s) else if be ≠ 15 ∨ addr % 4 ≠ 0 then (0, bump s R.hifBadAccess) else (readReg s addr, s)

end Sys2Proof.Machine
end

