-- ==== Sys2Proof/WellFormed.lean ====
section
/-! DEFINITION. When the operands of a command are values that the part can meet: numbers of bays, rings, channels and ports within the whole part's ranges, fields within their widths (R1, R2, R484, R490, R567). A meaning is total: a command with another operand changes nothing, or is answered as the owning rule says. -/

namespace Sys2Proof

/-- The fields of a command entry within their widths (R490). -/
def CmdEntry.wf (e : CmdEntry) : Bool :=
  decide (e.ring < 128) && decide (e.idx < 2 ^ 14) && decide (e.flags < 256) && decide (e.tag < 2 ^ 16) && decide (e.cpl < 256) && decide (e.rsvd < 2 ^ 24)
    && decide (e.token < 2 ^ 64) && decide (e.params.length = 48)

/-- A GOOSE frame from one of the six ports (R409). -/
def GooseFrame.wf (f : GooseFrame) : Bool := decide (f.port < 6) && decide (f.st < 2 ^ 32) && decide (f.sq < 2 ^ 32)

/-- A sampled-value frame from a process-bus port (R148). -/
def SvFrame.wf (f : SvFrame) : Bool := decide (f.port < 4) && f.asdus.all (fun u => decide (u.smpCnt < 2 ^ 16))

/-- A link frame of one of the two lanes (R451). -/
def LinkHead.wf (h : LinkHead) : Bool := decide (h.lane < 2) && decide (h.seq < 2 ^ 32)

/-- A SAMPLES payload of one of the 32 channels, or of none, 0xFFFF (R454). -/
def MirSamples.wf (m : MirSamples) : Bool := (decide (m.ch < 32) || decide (m.ch = 0xFFFF)) && decide (m.k < 14400)

/-- A Sync with nanoseconds below a second (R53). -/
def PtpSync.wf (m : PtpSync) : Bool := decide (m.port < 6) && decide (m.domain < 256) && decide (m.originNs < 10 ^ 9)

/-- An Announce from one of the six ports (R47). -/
def PtpAnnounce.wf (m : PtpAnnounce) : Bool := decide (m.port < 6) && decide (m.domain < 256)

/-- Whether the operands of a command are in their ranges. -/
def Instr.wf (i : Instr) : Bool :=
  match i with
  | .nop e => e.wf
  | .identify e => e.wf
  | .modeSet e => e.wf
  | .ringCreate e => e.wf
  | .ringDestroy e => e.wf
  | .imageLoad e => e.wf
  | .imageCommit e => e.wf
  | .attest e => e.wf
  | .debugUnlock e => e.wf
  | .timeRestep e => e.wf
  | .schedAdd e => e.wf
  | .schedCancel e => e.wf
  | .afeSnap e => e.wf
  | .afeCal e => e.wf
  | .bayStart e => e.wf
  | .bayStop e => e.wf
  | .groupSelect e => e.wf
  | .bayStateRead e => e.wf
  | .targetReset e => e.wf
  | .cellSplit e => e.wf
  | .cellJoin e => e.wf
  | .cellMigrate e => e.wf
  | .selftest e => e.wf
  | .recForce e => e.wf
  | .recFetch e => e.wf
  | .recRelease e => e.wf
  | .histSnapshot e => e.wf
  | .mirRole e => e.wf
  | .mirSync e => e.wf
  | .metIntervalPost e => e.wf
  | .metRead e => e.wf
  | .belTestPublish e => e.wf
  | .cmdDoorbell ring value => decide (ring < 128) && decide (value < 2 ^ 64)
  | .headDoorbell ring value => decide (ring < 128) && decide (value < 2 ^ 64)
  | .commandFetch _ => true
  | .dmaCompletionTimeout _ => true
  | .msixModerationExpiry ring => decide (ring < 128)
  | .msixVectorUnmask vec => decide (vec < 128)
  | .dportRead _ _ => true
  | .dportWrite _ _ => true
  | .dportUnderrun _ => true
  | .dpcAddrWrite _ value => decide (value < 2 ^ 32)
  | .registerWrite addr data be => decide (addr < 2 ^ 16) && decide (data < 2 ^ 32) && decide (be < 16)
  | .almPreset => true
  | .almSnap => true
  | .rotNow => true
  | .fltSyncReset ch => decide (ch < 32)
  | .fltSwapRequest ch s3 s4 => decide (ch < 32) && decide (s3 < 4) && decide (s4 < 4)
  | .adminEn => true
  | .adminReset => true
  | .cupRearm bay => decide (bay < 128)
  | .lksDbgAttach cell => decide (cell < 432)
  | .lksDbgDetach => true
  | .otpProgGo => true
  | .otpProgDone readback => decide (readback < 2 ^ 32)
  | .dtoEnWrite _ => true
  | .dtoEnEffect => true
  | .afeCfgEffect => true
  | .fastPathStop => true
  | .powerGood => true
  | .bootStageVerified _ _ => true
  | .dramTrainingDone _ _ => true
  | .resetNAssert => true
  | .pwrFailAssert => true
  | .protHoldEnd => true
  | .dyingBlockWritten _ _ => true
  | .pwrFailRelease => true
  | .railFault _ => true
  | .pllLockLoss => true
  | .d2dFailure => true
  | .thermalSafe sensor _ => decide (sensor < 40)
  | .thermalShutdown sensor _ => decide (sensor < 40)
  | .thermalShutdownRelease _ => true
  | .thermalThrottle sensor _ => decide (sensor < 40)
  | .thermalRelease _ => true
  | .dramCeHigh _ => true
  | .dramCeHourEnd _ => true
  | .pcieFlr => true
  | .perstAssert _ => true
  | .almanacStep _ ns _ => decide (ns < 10 ^ 9)
  | .ptpSyncRx m => m.wf
  | .ptpAnnounceRx m => m.wf
  | .ptpPdelayRx _ => true
  | .tcEventForward _ ingress egress_ _ => decide (ingress < 6) && decide (egress_ < 6)
  | .tcFollowUpForward _ ingress egress_ => decide (ingress < 6) && decide (egress_ < 6)
  | .tcEntryExpiry => true
  | .ppsInEdge => true
  | .irigbFrame _ => true
  | .sourceLost src => decide (src < 3)
  | .disputeHoldExpiry => true
  | .restepReady => true
  | .restepLanding => true
  | .presetLanding => true
  | .holdoverTraceLoss => true
  | .leapApply => true
  | .ppsOutPulse => true
  | .schedExecute => true
  | .sampleSyncEdge _ _ => true
  | .latchedConversionStart => true
  | .syncLost => true
  | .syncRestored => true
  | .syncRateCheck => true
  | .conversionComplete ch _ _ _ => decide (ch < 32)
  | .snapshotTake => true
  | .snapshotResult _ => true
  | .displacedConversion ch => decide (ch < 32)
  | .spareStepDue => true
  | .sparePhaseDone _ _ _ _ _ => true
  | .afeCalDone => true
  | .refFault group => decide (group < 4)
  | .refRestored group => decide (group < 4)
  | .metBoundary trk _ => decide (trk < 8)
  | .metNegCrossing trk => decide (trk < 8)
  | .trkFreeRunBoundary trk _ => decide (trk < 8)
  | .metCycleBlock trk => decide (trk < 8)
  | .metIntervalClose bay => decide (bay < 128)
  | .postMissing bay => decide (bay < 128)
  | .filterOutput ch => decide (ch < 32) || decide (ch = 0xFFFF)
  | .fadeStart ch _ => decide (ch < 32)
  | .svFrameRx f => f.wf
  | .svReorderExpiry stream => decide (stream < 128)
  | .svDeadlineExpiry stream => decide (stream < 128)
  | .ddEntryForget => true
  | .svPublishFrame stream => decide (stream < 8)
  | .bayTaskStart bay _ => decide (bay < 128)
  | .taskWatchdog bay => decide (bay < 128)
  | .earlyWindowClose bay _ => decide (bay < 128)
  | .windowClose bay _ => decide (bay < 128)
  | .resyncCheckDone group pos _ => decide (group < 144) && decide (pos < 3)
  | .dtoDemandFall pin => decide (pin < 8)
  | .dtoFault pin => decide (pin < 8)
  | .migrationPrecopyDone => true
  | .migrationRedirect => true
  | .rotationStepDue => true
  | .logicSelftestDone group failMask _ => decide (group < 144) && decide (failMask < 8)
  | .eccUncorrectable cluster _ _ => decide (cluster < 36)
  | .eccHourEnd => true
  | .bridgeUncorrectable island _ => decide (island < 44)
  | .modeSetEffect => true
  | .imageApply => true
  | .bayStartEffect bay => decide (bay < 128)
  | .bayStopEffect bay => decide (bay < 128)
  | .groupSwitchEffect bay => decide (bay < 128)
  | .targetResetEffect bay => decide (bay < 128)
  | .cellFormChange grp _ => decide (grp < 144)
  | .debugAttachEffect _ => true
  | .binAccept input _ _ _ => decide (input < 16)
  | .binChatterRelease input _ => decide (input < 16)
  | .recordLine bay => decide (bay < 128)
  | .recordT0Refined bay => decide (bay < 128)
  | .recordPostEnd bay => decide (bay < 128)
  | .recordSealed bay => decide (bay < 128)
  | .recordTailEnd num => decide (num < 2 ^ 32)
  | .autoTrigger bay => decide (bay < 128)
  | .indexFlashCopy => true
  | .ethFrameRx port _ _ => decide (port < 6)
  | .belfryFrameRx _ => true
  | .gooseFrameRx f => f.wf
  | .gooseTalExpiry sub => decide (sub < 512)
  | .gooseRetransmit block => decide (block < 256)
  | .beaconSend => true
  | .linkStateChange port _ speed => decide (port < 6) && decide (speed < 6)
  | .lanFaultTimeout pair => decide (pair < 2)
  | .prpSupervisionSend => true
  | .macAgeOut => true
  | .heartbeatSend => true
  | .heartbeatRx h _ => h.wf
  | .samplesRx h m => h.wf && m.wf
  | .mirrorDeadline => true
  | .eventRx h _ => h.wf
  | .snapshotSend => true
  | .snapshotPartRx h _ _ _ => h.wf
  | .snapshotTimeout => true
  | .laneDownTimeout lane => decide (lane < 2)
  | .fullResyncStart => true
  | .bayResyncStep => true
  | .baystateRx h bay _ _ _ => h.wf && decide (bay < 128)
  | .bayResyncTimeout bay => decide (bay < 128)
  | .partnerLoss => true
  | .takeoverEffect => true
  | .revertHoldoffExpiry => true
  | .quietInstant => true
  | .handoverEffect => true
  | .contentionEffect => true
  | .logCheckpoint => true
  | .svtEntryTimeout => true
  | .tokenLockExpiry => true
  | .debugGrantExpiry => true
  | .challengeExpiry => true
  | .ptpIntervalSend _ port => decide (port < 6)
  | .scrubCorrected cluster _ => decide (cluster < 36)
  | .imageLoadDone _ => true
  | .selftestDone _ _ => true
  | .recFetchDone => true
  | .thermalMarginClear => true
  | .handoverTimeout => true
  | .mirRoleQuietTimeout => true
  | .mirFrameTimeout lane => decide (lane < 2)
  | .bayResyncRetry bay => decide (bay < 128)
  | .pcieLinkUp => true
  | .pciePowerStateChange _ => true

end Sys2Proof
end

