-- ==== Sys2Proof/Tests/Slice0.lean ====
section
/-! SUPPORT. Tests of single steps on small states, the WellFormed smoke, and for every statement with hypotheses a witness that meets them. -/

namespace Sys2Proof.Machine

/-- A small state for tests: admin rings 0 (CMD) and 1 (CPL), the link up, the given mode. -/
def wHost (m : Mode) : State :=
  { State.reset with
    dev := { Dev.reset with mode := m }
    hif := { State.reset.hif with rings := [(0, HostRing.new .cmd 4 0x10000 0xFF 1 0 1 0), (1, HostRing.new .cpl 4 0x20000 0xFF 1 0 0 0)] } }

/-- An entry at index 0 of ring 0 that completes on ring 1, with a parameter area. -/
def wCmd (ps : List Byte) : CmdEntry := ⟨0, 0, 0, 7, 0xFF, 0, 0, ps ++ List.replicate (48 - ps.length) 0⟩

/-! ### WellFormed: each check refuses an operand out of its range -/

/-- A command entry with one field changed is the ill-formed term of its check. -/
theorem test_wf_entry : (Instr.nop (wCmd [])).wf = true ∧ (Instr.nop { wCmd [] with ring := 128 }).wf = false ∧ (Instr.nop { wCmd [] with idx := 2 ^ 14 }).wf = false ∧
    (Instr.nop { wCmd [] with flags := 256 }).wf = false ∧ (Instr.nop { wCmd [] with tag := 2 ^ 16 }).wf = false ∧ (Instr.nop { wCmd [] with cpl := 256 }).wf = false ∧
    (Instr.nop { wCmd [] with rsvd := 2 ^ 24 }).wf = false ∧ (Instr.nop { wCmd [] with token := 2 ^ 64 }).wf = false ∧ (Instr.nop { wCmd [] with params := [0] }).wf = false := by decide

theorem test_wf_host : (Instr.cmdDoorbell 127 0).wf = true ∧ (Instr.cmdDoorbell 128 0).wf = false ∧ (Instr.headDoorbell 0 (2 ^ 64)).wf = false ∧ (Instr.msixModerationExpiry 128).wf = false ∧
    (Instr.msixVectorUnmask 128).wf = false ∧ (Instr.dpcAddrWrite true (2 ^ 32)).wf = false ∧ (Instr.registerWrite (2 ^ 16) 0 15).wf = false ∧ (Instr.registerWrite 0 (2 ^ 32) 15).wf = false ∧
    (Instr.registerWrite 0 0 16).wf = false ∧ (Instr.registerWrite 0 0 15).wf = true ∧ (Instr.otpProgDone (2 ^ 32)).wf = false := by decide

theorem test_wf_front : (Instr.fltSyncReset 32).wf = false ∧ (Instr.fltSwapRequest 0 4 0).wf = false ∧ (Instr.fltSwapRequest 0 0 4).wf = false ∧ (Instr.fltSwapRequest 31 3 3).wf = true ∧
    (Instr.conversionComplete 32 0 0 false).wf = false ∧ (Instr.displacedConversion 32).wf = false ∧ (Instr.refFault 4).wf = false ∧ (Instr.refRestored 4).wf = false ∧
    (Instr.filterOutput 32).wf = false ∧ (Instr.filterOutput 0xFFFF).wf = true ∧ (Instr.fadeStart 32 false).wf = false ∧ (Instr.metNegCrossing 8).wf = false ∧ (Instr.metCycleBlock 8).wf = false := by decide

theorem test_wf_time : (Instr.almanacStep 0 (10 ^ 9) .preset).wf = false ∧ (Instr.ptpSyncRx ⟨6, 0, 0, 0, 0, 0, 0⟩).wf = false ∧ (Instr.ptpSyncRx ⟨0, 0, 0, 256, 0, 0, 0⟩).wf = false ∧
    (Instr.ptpSyncRx ⟨0, 0, 0, 0, 0, 10 ^ 9, 0⟩).wf = false ∧ (Instr.ptpSyncRx ⟨5, 0, 0, 0, 0, 0, 0⟩).wf = true ∧ (Instr.sourceLost 3).wf = false := by decide

theorem test_wf_bays : (Instr.bayStopEffect 128).wf = false ∧ (Instr.bayStartEffect 128).wf = false ∧ (Instr.dtoDemandFall 8).wf = false ∧ (Instr.dtoFault 8).wf = false ∧
    (Instr.binAccept 16 true 0 0).wf = false ∧ (Instr.binChatterRelease 16 0).wf = false ∧ (Instr.cellFormChange 144 true).wf = false ∧ (Instr.resyncCheckDone 0 3 true).wf = false ∧
    (Instr.lksDbgAttach 432).wf = false ∧ (Instr.logicSelftestDone 0 8 true).wf = false ∧ (Instr.scrubCorrected 36 0).wf = false ∧ (Instr.bridgeUncorrectable 44 ⟨0, none⟩).wf = false := by decide

theorem test_wf_wire : (Instr.ethFrameRx 6 [] true).wf = false ∧ (Instr.gooseTalExpiry 512).wf = false ∧ (Instr.gooseRetransmit 256).wf = false ∧ (Instr.linkStateChange 0 true 6).wf = false ∧
    (Instr.lanFaultTimeout 2).wf = false ∧ (Instr.laneDownTimeout 2).wf = false ∧ (Instr.mirFrameTimeout 2).wf = false ∧ (Instr.svReorderExpiry 128).wf = false ∧ (Instr.svPublishFrame 8).wf = false ∧
    (Instr.recordTailEnd (2 ^ 32)).wf = false ∧ (Instr.eventRx ⟨2, 0, true⟩ []).wf = false ∧ (Instr.eventRx ⟨0, 2 ^ 32, true⟩ []).wf = false ∧
    (Instr.samplesRx ⟨0, 0, true⟩ ⟨32, 0, 0, 0, none, none, []⟩).wf = false ∧ (Instr.samplesRx ⟨0, 0, true⟩ ⟨0xFFFF, 0, 14399, 0, none, none, []⟩).wf = true ∧
    (Instr.samplesRx ⟨0, 0, true⟩ ⟨0, 0, 14400, 0, none, none, []⟩).wf = false := by decide

theorem test_wf_numbers : (Instr.cupRearm 128).wf = false ∧ (Instr.thermalSafe 40 0).wf = false ∧ (Instr.thermalShutdown 40 0).wf = false ∧ (Instr.thermalThrottle 40 0).wf = false ∧
    (Instr.tcEventForward [] 6 0 0).wf = false ∧ (Instr.tcEventForward [] 0 6 0).wf = false ∧ (Instr.tcFollowUpForward [] 6 0).wf = false ∧ (Instr.tcFollowUpForward [] 0 6).wf = false ∧
    (Instr.ptpIntervalSend 0 6).wf = false ∧ (Instr.metBoundary 8 ⟨0, 0, []⟩).wf = false ∧
    (Instr.trkFreeRunBoundary 8 ⟨0, 0, []⟩).wf = false ∧ (Instr.metIntervalClose 128).wf = false ∧ (Instr.postMissing 128).wf = false ∧ (Instr.svDeadlineExpiry 128).wf = false ∧
    (Instr.bayTaskStart 128 []).wf = false ∧ (Instr.taskWatchdog 128).wf = false ∧ (Instr.groupSwitchEffect 128).wf = false ∧ (Instr.targetResetEffect 128).wf = false ∧
    (Instr.eccUncorrectable 36 0 none).wf = false ∧ (Instr.resyncCheckDone 144 0 true).wf = false ∧ (Instr.logicSelftestDone 144 0 true).wf = false ∧ (Instr.recordLine 128).wf = false ∧
    (Instr.recordT0Refined 128).wf = false ∧ (Instr.recordPostEnd 128).wf = false ∧ (Instr.recordSealed 128).wf = false ∧ (Instr.autoTrigger 128).wf = false ∧
    (Instr.linkStateChange 6 true 0).wf = false ∧ (Instr.bayResyncTimeout 128).wf = false ∧ (Instr.bayResyncRetry 128).wf = false ∧ (Instr.snapshotPartRx ⟨2, 0, true⟩ 0 0 []).wf = false := by decide

/-! ### Single steps with results taken from the spec -/

/-- The state a step answers. -/
def wAfter (s : State) : State := match step s with | .next t => t | _ => s

/-- R37: with the last of the five phases of a tick the counter gains 1.25 ns. -/
theorem test_tick : (wAfter { State.reset with dev := { State.reset.dev with phase := 4 } }).alm.ns = 1 ∧
    (wAfter { State.reset with dev := { State.reset.dev with phase := 4 } }).alm.frac = 2 ^ 46 ∧ (wAfter State.reset).alm.ns = 0 := by decide

/-- R37: the nanoseconds carry into the seconds. -/
theorem test_tick_carry : (wAfter { State.reset with dev := { State.reset.dev with phase := 4 }, alm := { Alm.reset with ns := 999999999 } }).alm.sec = 1 ∧
    (wAfter { State.reset with dev := { State.reset.dev with phase := 4 }, alm := { Alm.reset with ns := 999999999 } }).alm.ns = 0 := by decide

/-- R485: a command doorbell moves the host index; a value beyond the ring is counted. -/
theorem test_doorbell : ((tget? (wAfter { wHost .service with pending := [.cmdDoorbell 0 3] }).hif.rings 0).map HostRing.host) = some 3 ∧
    regGet (wAfter { wHost .service with pending := [.cmdDoorbell 5 3] }) R.hifBadDb = 1 := by decide

/-- R6, R561: a write with partial byte enables and one to a reserved address are counted. -/
theorem test_register_write : regGet (wAfter { wHost .service with pending := [.registerWrite 0x5830 1 7] }) R.hifBadAccess = 1 ∧
    regGet (wAfter { wHost .service with pending := [.registerWrite 0x0028 1 15] }) R.hifBadAccess = 1 ∧
    regGet (wAfter { wHost .service with pending := [.registerWrite 0x5830 1 15] }) R.hifRingSel = 1 := by decide

/-- R30: the instant at least 100 us from 0 s on the 14,400 S/s grid is number 2, since 1/14400 s is 69.4 us. -/
theorem test_effect : effectInst State.reset = gridInst 14400 0 2 := by decide

/-- R498: MODE_SET in SERVICE for BOOT's code is BAD_PARAM: status byte 0x11 in entry 0 of ring 1. -/
theorem test_mode_set_bad : memRead (wAfter { wHost .service with pending := [.modeSet (wCmd [0])] }).hostMem 0x20001 = 0x11 := by decide +kernel

/-! `Obligations.EmptyQueueTicksTheClock` -/

theorem wit_EmptyQueueTicksTheClock : State.reset.pending = [] ∧ State.reset.dev.phase < 4 ∧
    (({ State.reset with dev := { State.reset.dev with phase := 4 } } : State).pending = [] ∧ 4 ≤ ({ State.reset with dev := { State.reset.dev with phase := 4 } } : State).dev.phase) := by decide

/-! `Obligations.NopAndIdentifyWriteOneEntry` -/

theorem wit_NopAndIdentifyWriteOneEntry : tget? (wHost .boot).hif.rings 1 = some (HostRing.new .cpl 4 0x20000 0xFF 1 0 0 0) ∧ linkOk (wHost .boot) = true ∧
    Taken (wHost .boot) (wCmd []) usedNop 1 ∧ Taken (wHost .boot) (wCmd []) usedIdentify 1 :=
  ⟨by decide, by decide, ⟨by decide, by decide, by decide⟩, ⟨by decide, by decide, by decide⟩⟩

/-! `Obligations.RingEntryCarriesPhaseBit` -/

theorem wit_RingEntryCarriesPhaseBit : tget? (wHost .boot).hif.rings 1 = some (HostRing.new .cpl 4 0x20000 0xFF 1 0 0 0) ∧ linkOk (wHost .boot) = true ∧
    (wHost .boot).hostMem.wf = true := ⟨by decide, by decide, by decide⟩

/-! `Obligations.CommandChecksRefuse` -/

theorem wit_CommandChecksRefuse : cplRingOf (wHost .boot) (wCmd []) = some (1, true) ∧ cmdReady (wHost .boot) (wCmd []) = true ∧
    (∃ c, cmdRule 0x01 = some c ∧ rsvdZero (wCmd [1]) c.used = false) ∧ cmdRule 0x06 = none ∧
    cplRingOf (wHost .boot) { wCmd [] with cpl := 5 } = some (1, false) :=
  ⟨by decide, by decide, ⟨_, rfl, by decide⟩, rfl, by decide⟩

/-! `Obligations.RingCreateAndDestroyComplete` -/

theorem wit_RingCreate : Taken (wHost .boot) (wCmd [2, 2, 4, 255, 1]) usedRingCreate 1 ∧ tget? (wHost .boot).hif.rings 2 = none ∧
    (ringOf (accepted (wHost .boot) 0x04 (wCmd [2, 2, 4, 255, 1]) 1) (wCmd [2, 2, 4, 255, 1]).params).isSome = true ∧ field (wCmd [2, 2, 4, 255, 1]).params 0 1 = 2 :=
  ⟨⟨by decide, by decide, by decide⟩, by decide, by decide, by decide⟩

/-- The test state with an SVT ring 2. -/
def wRing2 : State := { wHost .boot with hif := { (wHost .boot).hif with rings := (wHost .boot).hif.rings ++ [(2, HostRing.new .svt 4 0x30000 0xFF 1 0 0 0)] } }

theorem wit_RingDestroy : Taken wRing2 (wCmd [2]) usedRingDestroy 1 ∧ tget? (accepted wRing2 0x05 (wCmd [2]) 1).hif.rings 2 = some (HostRing.new .svt 4 0x30000 0xFF 1 0 0 0) ∧
    (∀ f ∈ wRing2.hif.inflight, f.cid ≠ wRing2.hif.nextCid) ∧
    ringBusy (accepted wRing2 0x05 (wCmd [2]) 1) wRing2.hif.nextCid 2 (HostRing.new .svt 4 0x30000 0xFF 1 0 0 0) = false :=
  ⟨⟨by decide, by decide, by decide⟩, by decide, by decide, by decide⟩

/-! `Obligations.FlrResetsRingStateOnly` -/

theorem wit_FlrResetsRingStateOnly : hostReach (wHost .vigil) = true ∧ hostReach { wHost .vigil with pwr := { Pwr.reset with powerGood := false } } = false := ⟨by decide, by decide⟩

/-! `Obligations.AdminRingsAndLinkComplete` -/

/-- The test state before any ring is created. -/
def wBare (m : Mode) : State := { State.reset with dev := { Dev.reset with mode := m } }

theorem wit_AdminRings : hostReach (wBare .boot) = true ∧ tget? (wBare .boot).hif.rings 0 = none ∧ tget? (wBare .boot).hif.rings 1 = none := ⟨by decide, by decide, by decide⟩

theorem wit_LinkUp : let s : State := { wBare .boot with hif := { (wBare .boot).hif with linkUp := false } }
    s.hif.linkUp = false ∧ partRuns s = true := ⟨by decide, by decide⟩

/-! `Obligations.DoorbellsTakenOrCounted` -/

/-- The test state with an entry written to the CPL ring. -/
def wUsed : State := { wHost .boot with hif := { (wHost .boot).hif with rings := [(0, HostRing.new .cmd 4 0x10000 0xFF 1 0 1 0), (1, { HostRing.new .cpl 4 0x20000 0xFF 1 0 0 0 with part := 1, used := 1 })] } }

theorem wit_DoorbellsTakenOrCounted : hostReach wUsed = true ∧ (tget? wUsed.hif.rings 0).map HostRing.kind = some .cmd ∧ 15 % 65536 < 2 ^ 4 ∧
    (tget? wUsed.hif.rings 1).map HostRing.used = some 1 ∧ (1 % 65536 + 2 ^ 4 - 0) % 2 ^ 4 ≤ 1 ∧ wUsed.hif.waiting = [] ∧ tget? wUsed.hif.rings 127 = none ∧
    2 ^ 4 ≤ 16 % 65536 ∧ 1 < (2 % 65536 + 2 ^ 4 - 0) % 2 ^ 4 := by decide

/-! `Obligations.MsixFiresOrPends` -/

/-- The test state with vector 3 on ring 1, one entry unsignalled, its moderation time 0. -/
def wVec (masked : Nat) : State :=
  { wHost .boot with hif := { (wHost .boot).hif with
      rings := [(0, HostRing.new .cmd 4 0x10000 0xFF 1 0 1 0), (1, { HostRing.new .cpl 4 0x20000 3 1 0 0 0 with unsig := 1 })]
      msixMasked := masked, msixPending := masked } }

theorem wit_MsixFiresOrPends : (∃ r, tget? (wVec 8).hif.rings 1 = some r ∧ r.asks (wVec 8).dev.ticks = true ∧ bitOf (wVec 8).hif.msixMasked r.vec = true ∧
    bitOf (wVec 0).hif.msixMasked r.vec = false) ∧ linkOk (wVec 8) = true ∧ hostReach (wVec 8) = true ∧ (wVec 8).hif.msixPending = 2 ^ 3 ∧ bitOf (wVec 8).hif.msixMasked 3 = true ∧ bitOf (wVec 0).hif.msixMasked 3 = false ∧
    tget? (wVec 0).hif.rings 7 = none ∧ (∃ r, tget? (wHost .boot).hif.rings 1 = some r ∧ r.asks (wHost .boot).dev.ticks = false) :=
  ⟨⟨_, rfl, by decide, by decide, by decide⟩, by decide, by decide, by decide, by decide, by decide, by decide, ⟨_, rfl, by decide⟩⟩

/-! `Obligations.UnderrunKeepsTheAddress` -/

theorem wit_UnderrunKeepsTheAddress : hostReach (wHost .vigil) = true ∧ 0 < 256 ∧ 256 ≤ 256 ∧ 256 % 4 = 0 := by decide

/-! `Obligations.DataPortAddressAdvances` -/

/-- The test state in TEST with DRAM trained to 4 GiB and the data port at the first byte of DRAM. -/
def wDram : State := { wHost .test with regs := [(R.devCap2, 0x10000000), (R.dpcAddrHi, 0x10)] }

/-- The same with the data port at another address. -/
def wDpc (m : Mode) (hi lo : Nat) : State := { wHost m with regs := [(R.devCap2, 0x10000000), (R.dpcAddrLo, BitVec.ofNat 32 lo), (R.dpcAddrHi, BitVec.ofNat 32 hi)] }

theorem wit_DataPort_regions : regionOf (wDpc .test 2 0x200100) (dpcAddr (wDpc .test 2 0x200100)) = .coef 0x100 ∧ isSealed (wDpc .test 2 0x200100) = false ∧
    bankBusy (fltCh (wDpc .test 2 0x200100) 0).b3 true = false ∧ regionOf (wDpc .test 2 0) (dpcAddr (wDpc .test 2 0)) = .afe 0 ∧ regionOf (wDpc .test 3 4) (dpcAddr (wDpc .test 3 4)) = .otp 4 ∧
    regionOf (wDpc .test 1 0x800000) (dpcAddr (wDpc .test 1 0x800000)) = .descr 0 0 ∧ (wDpc .service 0x10 0).dev.mode ≠ .test ∧ regionOf (wDpc .service 0x10 0) (dpcAddr (wDpc .service 0x10 0)) = .dram 0 ∧
    regionOf (wDpc .test 0 8) (dpcAddr (wDpc .test 0 8)) = .cluster 0 8 ∧ regionOf (wDpc .test 0 0xA0000) (dpcAddr (wDpc .test 0 0xA0000)) = .none_ ∧ hostReach (wDpc .test 0 0) = true ∧
    hostReach { wHost .boot with pwr := { Pwr.reset with powerGood := false } } = false := by
  refine ⟨by decide, by decide, by decide, by decide, by decide, by decide, by decide, by decide, by decide, by decide, by decide, by decide⟩

theorem wit_DataPort : hostReach wDram = true ∧ dpcTakes 4 true = true ∧ (∀ a ∈ dpcWords wDram 4, dramEnd wDram ≠ 0) ∧ wDram.dev.mode = .test ∧
    regionOf wDram (dpcAddr wDram) = .dram 0 ∧ dpcTakes 260 true = false ∧ dpcTakes 4 false = false := by decide

/-! `Obligations.CommandFetchTakesOrHalts` -/

/-- The test state with one NOP of index 0 in ring 0, in host memory. -/
def wFetch : State := { wHost .boot with hif := { (wHost .boot).hif with rings := [(0, { HostRing.new .cmd 4 0x10000 0xFF 1 0 1 0 with host := 1 }), (1, HostRing.new .cpl 4 0x20000 0xFF 1 0 0 0)] }, hostMem := [(0x10000, 1), (0x10004, 0xFF)] }

theorem wit_CommandFetch : linkOk wFetch = true ∧ partRuns wFetch = true ∧ wFetch.hif.inflight.length < 256 ∧ nextRing wFetch = some 0 ∧ (readEntry wFetch 0 { HostRing.new .cmd 4 0x10000 0xFF 1 0 1 0 with host := 1 }).1 = 0x01 ∧ Taken wFetch (wCmd [9, 9]) [(0, 48)] 1 :=
  ⟨by decide, by decide, by decide, by decide, by decide, ⟨by decide, by decide, by decide⟩⟩

/-! `Obligations.BadRegisterWritesAreCounted` -/

theorem wit_BadRegisterWritesAreCounted : hostReach (wHost .service) = true ∧ regAt 0x0030 = none ∧ (wHost .service).hif.linkUp = true := by decide

/-! `Obligations.LogIsAHashChain` -/

theorem wit_LogIsAHashChain : (wHost .boot).hif.logHold.length < 1024 ∧ (∃ s : State, 1024 ≤ s.hif.logHold.length ∧ 1015 < s.hif.logHold.length) ∧ (wHost .boot).hif.logHold.length ≤ 1015 ∧
    (let s : State := { wHost .boot with dev := { (wHost .boot).dev with ticks := 10 * secT } }; s.hif.logSince = some 0 ∧ 0 + 10 * secT ≤ s.dev.ticks) :=
  ⟨by decide, ⟨{ wHost .boot with hif := { (wHost .boot).hif with logHold := List.replicate 1024 [] } }, Nat.le_of_eq List.length_replicate.symm, Nat.lt_of_lt_of_eq (by decide) List.length_replicate.symm⟩, by decide, by decide⟩

/-! `Obligations.ModeSetAnswersByR29` -/

theorem wit_ModeSetAnswersByR29 : Taken (wHost .service) (wCmd [2]) usedModeSet 1 ∧ Mode.ofCode (field (wCmd [2]).params 0 1) = some .service ∧
    Taken (wHost .boot) (wCmd [0]) usedModeSet 1 ∧ Mode.ofCode (field (wCmd [3]).params 0 1) = some .vigil ∧ modeListed .boot .service = false ∧
    modeListed .service .test = true ∧ isSealed (wHost .service) = true ∧ modeListed .commission .test = true ∧ isSealed (wHost .commission) = false :=
  ⟨⟨by decide, by decide, by decide⟩, by decide, ⟨by decide, by decide, by decide⟩, by decide, by decide, by decide, by decide, by decide, by decide⟩

/-- A MODE_SET to TEST in SERVICE with no token: the token fails. -/
theorem wit_ModeSet_auth : Taken (wHost .service) (wCmd [4]) usedModeSet 1 ∧ (takeToken (accepted (wHost .service) 0x03 (wCmd [4]) 1) (wCmd [4]) 0x03 4 (fun _ => true)).2 = none :=
  ⟨⟨by decide, by decide, by decide⟩, rfl⟩

theorem wit_ModeSet_busy : let s : State := { wHost .commission with dev := { (wHost .commission).dev with pend := some ⟨.test, 0, 0⟩ } }
    Taken s (wCmd [4]) usedModeSet 1 ∧ isSealed s = false ∧ (accepted s 0x03 (wCmd [4]) 1).dev.pend.isSome = true := ⟨⟨by decide, by decide, by decide⟩, by decide, by decide⟩

/-- A MODE_SET to COMMISSION in SAFE while a die is at 150 °C. -/
theorem wit_ModeSet_persists : let s : State := { wHost .safe with pwr := { Pwr.reset with temps := [(0, 2400)] } }
    Taken s (wCmd [1]) usedModeSet 1 ∧ Mode.ofCode (field (wCmd [1]).params 0 1) = some .commission ∧ s.dev.mode = .safe ∧ safePersists (accepted s 0x03 (wCmd [1]) 1) = true :=
  ⟨⟨by decide, by decide, by decide⟩, by decide, by decide, by decide⟩

/-! `Obligations.ModeSetDefersAndTakesEffect` -/

theorem wit_ModeSetDefers : Taken (wHost .commission) (wCmd [4]) usedModeSet 1 ∧ Mode.ofCode (field (wCmd [4]).params 0 1) = some .test ∧ Mode.test ≠ (wHost .commission).dev.mode ∧
    modeListed (wHost .commission).dev.mode .test = true ∧ isSealed (wHost .commission) = false ∧ (accepted (wHost .commission) 0x03 (wCmd [4]) 1).dev.pend = none ∧
    (accepted (wHost .commission) 0x03 (wCmd [4]) 1).mir.takeover = none ∧ (accepted (wHost .commission) 0x03 (wCmd [4]) 1).mir.hand = none ∧
    (accepted (wHost .commission) 0x03 (wCmd [4]) 1).mir.role = none ∧ (accepted (wHost .commission) 0x03 (wCmd [4]) 1).mir.contention = none :=
  ⟨⟨by decide, by decide, by decide⟩, by decide, by decide, by decide, by decide, by decide, by decide, by decide, by decide, by decide⟩

theorem wit_ModeSetEffect : let s : State := { wHost .commission with dev := { (wHost .commission).dev with pend := some ⟨.test, 0, 0⟩ } }
    s.dev.pend = some ⟨.test, 0, 0⟩ ∧ (0 : Nat) ≤ now s ∧ s.dev.mode ≠ .test := by decide

/-! `Obligations.TokenSerialOnlyRises` -/

theorem wit_TokenSerialOnlyRises : (takeToken (wHost .service) (wCmd []) 0x03 4 (fun _ => true)).2 = none ∧ tokenLocked (wHost .service) = false ∧
    tokenLocked { wHost .service with sec := { (wHost .service).sec with lockUntil := some 1 } } = true := ⟨rfl, by decide, by decide⟩

/-! `Obligations.RestepImageAndAttestComplete` -/

/-- The test state, disputed for longer than confirm_s. -/
def wDisputed : State := { wHost .commission with alm := { Alm.reset with lock := .disputed, sec := 1000, candSince := 0 } }

theorem wit_TimeRestep : Taken wDisputed (wCmd []) usedTimeRestep 1 ∧ wDisputed.dev.mode = .commission ∧ wDisputed.alm.lock = .disputed ∧
    wDisputed.alm.candSince + fld wDisputed R.almRestepCfg 11 0 * secI ≤ now wDisputed ∧ wDisputed.alm.restep = none ∧ wDisputed.alm.preset = none :=
  ⟨⟨by decide, by decide, by decide⟩, by decide, by decide, by decide, by decide, by decide⟩

theorem wit_ImageLoad : Taken (wHost .boot) (wCmd [1, 0, 0, 0, 0x88, 3]) usedImageLoad 1 ∧ field (wCmd [1, 0, 0, 0, 0x88, 3]).params 4 4 = 904 ∧ (904 : Nat) ≤ imgMost 1 ∧
    (wHost .boot).sec.load = none ∧ (wHost .boot).sec.apply = none := ⟨⟨by decide, by decide, by decide⟩, by decide, by decide, by decide, by decide⟩

/-- The test state with a pending library image that names vendor key slot 0, and slots 0 and 1 programmed. -/
def wPending : State :=
  { wHost .commission with
    sec := { Sec.reset with libPend := true }
    otp := { Otp.reset with vend := [(0, [1]), (1, [1])] }
    flash := { Flash.reset with libB := some (List.replicate 32 0) } }

theorem wit_ImageCommit : Taken wPending (wCmd [1, 0, 2]) usedImageCommit 1 ∧ wPending.sec.pends 1 = true ∧ wPending.flash.slot 1 (!wPending.flash.sel 1) = some (List.replicate 32 0) ∧
    revokeBad wPending.otp false (imgKey (List.replicate 32 0)) 2 = false ∧ wPending.sec.load = none ∧ wPending.sec.apply = none :=
  ⟨⟨by decide, by decide, by decide⟩, by decide, by decide, by decide, by decide, by decide⟩

theorem wit_Attest : Taken (wHost .boot) (wCmd (List.replicate 32 0 ++ [2, 0, 0, 0, 0, 0, 0, 0, 0, 0, 1])) usedAttest 1 ∧ field (wCmd (List.replicate 32 0 ++ [2, 0, 0, 0, 0, 0, 0, 0, 0, 0, 1])).params 32 1 = 2 ∧
    addrOk (field (wCmd (List.replicate 32 0 ++ [2, 0, 0, 0, 0, 0, 0, 0, 0, 0, 1])).params 40 8) = true := ⟨⟨by decide, by decide, by decide⟩, by decide, by decide⟩

theorem wit_ImageApply : let s : State := { wHost .commission with sec := { Sec.reset with apply := some ⟨0⟩ }, flash := { Flash.reset with schA := some [] } }
    s.sec.apply = some ⟨0⟩ ∧ s.flash.slot 2 s.flash.schSel = some [] ∧ 0 ≤ now s := by decide

/-! `Obligations.ImageLoadDoneStoresOrRefuses` -/

theorem wit_ImageLoadDone : let s : State := { wHost .commission with sec := { Sec.reset with load := some ⟨1, [], 0⟩ } }
    s.sec.load = some ⟨1, [], 0⟩ ∧ (∃ d, verifyErr { s with sec := { s.sec with load := none } } 1 [] = some (.shape d)) := ⟨by decide, ⟨_, rfl⟩⟩

/-! `Obligations.DebugGrantsAndOtpComplete` -/

theorem wit_DebugUnlock : Taken (wHost .test) (wCmd [0]) usedDebugUnlock 1 ∧ Taken (wHost .commission) (wCmd [2]) usedDebugUnlock 1 ∧ Taken (wHost .commission) (wCmd [7]) usedDebugUnlock 1 ∧
    Taken (wHost .service) (wCmd [0]) usedDebugUnlock 1 ∧ Taken (wHost .test) (wCmd [1]) usedDebugUnlock 1 ∧ challengeNow (wHost .test) = none ∧
    field (wCmd [0]).params 0 1 = 0 ∧ field (wCmd [1]).params 0 1 = 1 ∧ field (wCmd [2]).params 0 1 = 2 ∧ 2 < field (wCmd [7]).params 0 1 :=
  ⟨⟨by decide, by decide, by decide⟩, ⟨by decide, by decide, by decide⟩, ⟨by decide, by decide, by decide⟩, ⟨by decide, by decide, by decide⟩, ⟨by decide, by decide, by decide⟩,
    by decide, by decide, by decide, by decide, by decide⟩

/-- A state in TEST whose security island holds a challenge, a grant and a lockout, with the first unit-ID word to program. -/
def wSec (busy : Option (Nat × Nat)) (addr : Word) : State :=
  { wHost .test with sec := { Sec.reset with challenge := some (0, 0), grant := some ⟨1, 0, false⟩, lockUntil := some 0, otpBusy := busy }, regs := [(R.secOtpProgAddr, addr)] }

theorem wit_OtpAndExpiries : challengeNow (wSec none 0x10) = some 0 ∧ (wSec none 0x10).sec.challenge = some (0, 0) ∧ (wSec none 0x10).sec.grant = some ⟨1, 0, false⟩ ∧ (wSec none 0x10).sec.lockUntil = some 0 ∧
    (wSec none 0x10).sec.otpBusy = none ∧ otpMay (wSec none 0x10) (regGet (wSec none 0x10) R.secOtpProgAddr) = true ∧
    otpMay (wSec none 0x20) (regGet (wSec none 0x20) R.secOtpProgAddr) = false ∧ (wSec (some (16, 1)) 0x10).sec.otpBusy = some (16, 1) := by decide

/-! `Obligations.FailedStageHaltsInBoot` -/

theorem makeIdentity_bootCal_flash (s : State) : (makeIdentity (bootCal s)).flash = s.flash := by
  have hs : ∀ (u : State) (n : Nat) (a b c : Nat), (setTerms u n a b c).flash = u.flash := fun _ _ _ _ _ => rfl
  have hb : (bootCal s).flash = s.flash := by
    unfold bootCal
    generalize List.range 32 = l
    induction l generalizing s with
    | nil => rfl
    | cons x xs ih => rw [List.foldl_cons, ih, hs]
  generalize bootCal s = u at hb
  unfold makeIdentity; split
  · exact hb
  · exact hb

theorem wit_FailedStageHaltsInBoot : (wHost .boot).dev.mode = .boot ∧ (wHost .boot).sec.halted = false ∧ (wHost .boot).sec.chainDone = false ∧ partRuns (wHost .boot) = true ∧
    (wHost .boot).pwr.failLow = false ∧ (wHost .boot).sec.stage = 0 ∧ (wHost .boot).flash.bcbOk = true ∧ pickVendor (makeIdentity (bootCal (wHost .boot))) 0 = .inl .key ∧ pickVendor (wHost .boot) 1 = .inl .key ∧
    (wHost .boot).flash.slot 2 (wHost .boot).flash.schSel = none ∧ (∃ x, verifyErr (wHost .boot) 2 [] = some x) ∧ (wHost .boot).sec.dramDone = false :=
  ⟨by decide, by decide, by decide, by decide, by decide, by decide, by decide, by
      have h := makeIdentity_bootCal_flash (wHost .boot)
      unfold pickVendor; rw [h]; rfl, rfl, by decide, ⟨_, rfl⟩, by decide⟩

/-! `Obligations.BootChainAdvances` -/

theorem wit_BootChainAdvances : (let s : State := { wHost .boot with sec := { Sec.reset with stage := 4, dramDone := true } };
      s.dev.mode = .boot ∧ s.sec.halted = false ∧ s.sec.chainDone = false ∧ partRuns s = true ∧ s.pwr.failLow = false ∧ 3 ≤ s.sec.stage) ∧
    (let s : State := { wHost .boot with sec := { Sec.reset with stage := 1 } };
      s.sec.stage ≠ 0 ∧ s.sec.dramDone = false ∧ s.sec.halted = false ∧ partRuns s = true) := by decide

/-! `Obligations.SafeConditionsEnterSafe` -/

theorem wit_SafeConditionsEnterSafe : partRuns (wHost .service) = true ∧ (wHost .service).pwr.dying = none ∧ (wHost .service).dev.mode ≠ .boot ∧ (wHost .service).dev.mode ≠ .safe ∧
    (wHost .service).pwr.failLow = false ∧ (wHost .safe).dev.mode = .safe ∧ (wHost .boot).dev.mode = .boot ∧
    partRuns { wHost .service with pwr := { Pwr.reset with failLow := true } } = true ∧ partRuns { wHost .service with pwr := { Pwr.reset with powerGood := false } } = false := by decide

theorem wit_SafeConditions_dying : (let s : State := { wHost .service with pwr := { Pwr.reset with failLow := true, dying := some ⟨Att.zero, 0, .hold, .service, 0, true, []⟩ } };
      partRuns s = true ∧ s.pwr.dying = some ⟨Att.zero, 0, .hold, .service, 0, true, []⟩ ∧ s.dev.ticks = 0 ∧ s.dev.mode ≠ .boot ∧ s.dev.mode ≠ .safe) ∧
    (let s : State := { wHost .service with pwr := { Pwr.reset with failLow := true, dying := some ⟨Att.zero, 0, .writing, .service, 0, true, []⟩ } };
      partRuns s = true ∧ s.pwr.dying = some ⟨Att.zero, 0, .writing, .service, 0, true, []⟩) := by decide

/-! `Obligations.PowerLossWritesTheDyingBlock` -/

theorem wit_PwrFail : (wHost .service).pwr.failLow = false ∧ (wHost .service).dev.mode ≠ .boot ∧ (wHost .service).pwr.dying = none ∧ partRuns (wHost .service) = true ∧
    (wHost .service).pwr.shutdown = false ∧ (wHost .boot).dev.mode = .boot ∧
    (let s : State := { wHost .boot with pwr := { Pwr.reset with failLow := true } }; s.pwr.dying = none ∧ s.dev.mode = .boot ∧ s.pwr.failLow = true ∧ s.pwr.resetLow = false) := by decide

/-- The test state in a phase of the dying sequence, long after t_d. -/
def wDying (p : DyingPhase) : State :=
  { wHost .service with dev := { (wHost .service).dev with ticks := 10 * msT }, pwr := { Pwr.reset with failLow := true, dying := some ⟨Att.zero, 0, p, .service, 0, true, []⟩ } }

theorem wit_Dying : (wDying .hold).pwr.dying = some ⟨Att.zero, 0, .hold, .service, 0, true, []⟩ ∧ 0 + fld (wDying .hold) R.pwrDyingCfg 2 0 * msT ≤ (wDying .hold).dev.ticks ∧
    (wDying .writing).pwr.dying = some ⟨Att.zero, 0, .writing, .service, 0, true, []⟩ ∧ (wDying .halted).pwr.dying = some ⟨Att.zero, 0, .halted, .service, 0, true, []⟩ ∧ (wDying .halted).pwr.resetLow = false ∧ (wDying .halted).pwr.shutdown = false ∧
    (let s : State := { wHost .boot with pwr := { Pwr.reset with shutdown := true } }; s.pwr.shutdown = true ∧ allBelow (setTemps s [0]) 140 = true ∧ allBelow (setTemps s [3000]) 140 = false) := by decide

/-! `Obligations.ThermalAndDramHealth` -/

theorem wit_ThermalAndDramHealth : (wHost .service).pwr.throttle = false ∧ partRuns (wHost .service) = true ∧ fld (wHost .service) R.pwrDramCfg 7 0 < 2 ^ 20 ∧ 0 ≤ fld (wHost .service) R.pwrDramCfg 7 0 ∧ (wHost .service).dev.mode ≠ .boot ∧
    (let s : State := { wHost .service with dev := { (wHost .service).dev with ticks := 10 * secT }, pwr := { Pwr.reset with throttle := true } };
      s.pwr.throttle = true ∧ allBelow (setTemps s [0]) 135 = true ∧ s.pwr.hotAt + 10 * secT ≤ s.dev.ticks) := by decide

/-! `Obligations.SchedAddByLateness` -/

/-- SCHED_ADD of a forced record (action 7) on bay 0 in the lowest free slot at second `sec`. -/
def wSchedAdd (sec : Byte) : CmdEntry := wCmd [0xFF, 0xFF, 7, 0, 0, 0, 0, 0, sec]

/-- The test state in SERVICE with a scheme of four bays in force. -/
def wSched : State := { wHost .service with alm := { Alm.reset with sec := 5 } }

theorem wit_SchedAdd : Taken wSched (wSchedAdd 9) usedSchedAdd 1 ∧ slotFor wSched (field (wSchedAdd 9).params 0 2) = some 0 ∧
    schedBad wSched (wCmd [0, 0, 0]).params = true ∧ (now wSched : Int) + 10 * usI - schedAtt (wSchedAdd 9).params ≤ 0 ∧
    0 < (now wSched : Int) + 10 * usI - schedAtt (wSchedAdd 5).params ∧ (now wSched : Int) + 10 * usI - schedAtt (wSchedAdd 5).params ≤ fld wSched R.almSchedCfg 15 0 * msI ∧
    (fld wSched R.almSchedCfg 15 0 * msI : Nat) < (now wSched : Int) + 10 * usI - schedAtt (wSchedAdd 0).params ∧
    slotFor { wSched with alm := { Alm.reset with slots := [(0, schedOf [])] } } 0 = none :=
  ⟨⟨by decide, by decide, by decide⟩, by decide, by decide, by decide, by decide, by decide, by decide, by decide⟩

theorem wit_SchedAdd_good : schedBad wSched (wSchedAdd 9).params = false := by decide

/-! `Obligations.SchedCancelFreesUnlessNear` -/

theorem wit_SchedCancel : Taken wSched (wCmd [0]) usedSchedCancel 1 ∧ tget? wSched.alm.slots 0 = none := ⟨⟨by decide, by decide, by decide⟩, by decide⟩

/-- The test state with a forced record in slot 0 for second 5 or 9. -/
def wSlot (sec : Byte) : State := { wSched with alm := { wSched.alm with slots := [(0, schedOf (wSchedAdd sec).params)] } }

theorem wit_SchedCancel_held : (schedOf (wSchedAdd 5).params).instant (wSlot 5) < now (wSlot 5) + 10 * usI ∧ now (wSlot 9) + 10 * usI ≤ (schedOf (wSchedAdd 9).params).instant (wSlot 9) ∧
    Taken (wSlot 9) (wCmd [0]) usedSchedCancel 1 := ⟨by decide, by decide, ⟨by decide, by decide, by decide⟩⟩

/-! `Obligations.AfeSnapIsQueuedOrSlotted` -/

/-- The same with channel 0 enabled. -/
def wChan : State := { wSched with afe := { Afe.reset with chEn := 1 } }

theorem wit_AfeSnap : Taken wChan (wCmd [1]) usedAfeSnap 1 ∧ field (wCmd [1]).params 0 4 ≠ 0 ∧ field (wCmd [1]).params 4 1 = 0 ∧ field (wCmd [1]).params 8 8 = 0 ∧
    (∀ c ∈ setBits 32 (field (wCmd [1]).params 0 4), chHasPath wChan c = true) ∧ field (wCmd [1, 0, 0, 0, 1]).params 4 1 = 1 ∧ slotFor wChan 0xFFFF = some 0 ∧
    lateness wChan (schedAtt (wCmd [1, 0, 0, 0, 1]).params) = 2 ∧ lateness wChan (schedAtt (wCmd [1, 0, 0, 0, 1, 0, 0, 0, 9]).params) ≠ 2 :=
  ⟨⟨by decide, by decide, by decide⟩, by decide, by decide, by decide, by decide, by decide, by decide, by decide, by decide⟩

/-! `Obligations.ScheduledActionsRunInOrder` -/

theorem wit_SchedExecute : keysFrom 0 (wSlot 5).alm.slots = true ∧ ((0, schedOf (wSchedAdd 5).params) ∈ (wSlot 5).alm.slots) ∧
    (schedOf (wSchedAdd 5).params).instant (wSlot 5) ≤ now (wSlot 5) ∧ skipReason (wSlot 5) (schedOf (wSchedAdd 5).params) ((schedOf (wSchedAdd 5).params).instant (wSlot 5)) = none ∧
    (∀ p ∈ (wSlot 9).alm.slots, now (wSlot 9) < p.2.instant (wSlot 9)) := by decide

theorem wit_SchedExecute_skip : skipReason { wSlot 5 with dev := { Dev.reset with mode := .vigil } } { schedOf (wSchedAdd 5).params with action := 1 } 0 = some 1 := by decide

/-! `Obligations.PresetsAndStepsLoadTheCounter` -/

/-- The test state with a preset for second 100 in the registers and one that waits for `due`. -/
def wPreset (l : Lock) (due : Nat) : State :=
  { wSched with alm := { wSched.alm with lock := l, preset := some (100, due) }, regs := [(R.almPresetSecLo, 100)] }

theorem wit_Preset : (wPreset .freeRun 5).alm.lock = .freeRun ∧ (wPreset .freeRun 5).alm.sec < regGet (wPreset .freeRun 5) R.almPresetSecLo + regGet (wPreset .freeRun 5) R.almPresetSecHi * 2 ^ 32 ∧
    5 * secI ≤ now (wPreset .freeRun 5) ∧ now (wPreset .freeRun 6) < 6 * secI ∧ (wPreset .locked 5).alm.lock = .locked ∧ (wPreset .acquiring 5).alm.lock = .acquiring ∧
    now (wPreset .acquiring 5) ≤ 7 * secI + 1 % 10 ^ 9 * nsI ∧ 4 * secI + 1 % 10 ^ 9 * nsI < now (wPreset .acquiring 5) ∧ (wPreset .freeRun 5).alm.preset.map Prod.fst = some 100 ∧ wSched.alm.preset = none := by decide

/-! `Obligations.MeasurementsSteerTheAlmanac` -/

/-- The test state disputed since second 0, 10 s behind its source, with a re-step waiting for second 12. -/
def wDisp (sec : Nat) : State :=
  { wSched with alm := { wSched.alm with sec := sec, lock := .disputed, lastOfs := 10 * secI, cand := 10 * secI, restep := some (3, 12 * secI) } }

theorem wit_DisputeAndReStep : (wDisp 5).alm.lock = .disputed ∧ (wDisp 5).alm.slewing = false ∧ (wDisp 5).alm.holdUntil ≤ now (wDisp 5) ∧ (wDisp 100).alm.restepReady = false ∧
    (wDisp 100).alm.candSince + fld (wDisp 100) R.almRestepCfg 11 0 * secI ≤ now (wDisp 100) ∧ ((12 * secI : Nat) : Int) ≤ candTime (wDisp 5) ∧
    candTime (wDisp 1) < (12 * secI : Nat) := by decide

theorem wit_Measurements : rateOk wSched.alm.inc ∧ rateOk (wDisp 5).alm.inc ∧ fld wSched R.almServoCfg 15 0 * 100 * nsI < (secI : Int).natAbs ∧
    (0 : Int).natAbs ≤ fld wSched R.almServoCfg 15 0 * 100 * nsI ∧ ({ wSched with alm := { wSched.alm with lock := .locked } } : State).alm.lock = .locked ∧
    wSched.alm.lock = .freeRun := by unfold rateOk; decide

/-! `Obligations.TimeIsMeasuredAndForwarded` -/

/-- The test state that follows grandmaster 7 on port 0, one bad IRIG-B frame seen. -/
def wPtp : State :=
  { wSched with alm := { wSched.alm with gm := some ⟨7, 0, 7, 6, 0, 0, 128, 128, 0, true, true, none, none, 0, 0⟩, selPort := 0, source := .ptp, irigBad := 1 }, regs := [(R.almPtpCfg, 0x10000)] }

theorem wit_TimeSources : ptpHears wPtp 0 0 = true ∧ ptpHears wPtp 1 0 = false ∧ (wPtp.alm.gm.map Grandmaster.id) = some 7 ∧ wPtp.alm.selPort = 0 ∧ wPtp.alm.source = .ptp ∧ 2 ≤ wPtp.alm.irigBad + 1 ∧ pdelayLogOk 0 = true := by decide

/-- A PTP frame of a message type with or without the two-step flag. -/
def wPtpFrame (ty flags : Byte) : List Byte := List.replicate 14 0 ++ [ty, 2, 0, 44, 0, 0, flags] ++ List.replicate 27 0

theorem wit_TransparentClock : fieldBE (wPtpFrame 0 0) (ptpAt (wPtpFrame 0 0)) 1 % 16 = 0 ∧ bitOf (fieldBE (wPtpFrame 0 0) (ptpAt (wPtpFrame 0 0) + 6) 1) 1 = false ∧
    bitOf (fieldBE (wPtpFrame 0 2) (ptpAt (wPtpFrame 0 2) + 6) 1) 1 = true ∧ fieldBE (wPtpFrame 1 0) (ptpAt (wPtpFrame 1 0)) 1 % 16 = 1 ∧
    1 < fieldBE (wPtpFrame 2 0) (ptpAt (wPtpFrame 2 0)) 1 % 16 ∧ wSched.alm.tc = [] ∧ ([⟨0, 0, 0, 1, 5, 0⟩] : List TcEntry).find? (fun x => decide (x.egress = 1)) = some ⟨0, 0, 0, 1, 5, 0⟩ ∧
    64 ≤ (List.replicate 64 (⟨0, 0, 0, 1, 5, 0⟩ : TcEntry)).length := by decide

/-! `Obligations.LeapPpsOutAndPtpIntervals` -/

theorem wit_LeapPps : ({ wSched with alm := { wSched.alm with leapPending := true, sec := 86401 } } : State).alm.leapPending = true ∧
    ((0 : Int) + 1) * 86400 + 0 + 1 ≤ (now { wSched with alm := { wSched.alm with sec := 86401 } } / secI : Nat) ∧ wSched.alm.ppsOut = none ∧ wSched.alm.ppsSec < now wSched / secI ∧ now wSched % secI ≤ 5 * nsI ∧
    flag { wSched with regs := [(R.almPpsCfg, 1)] } R.almPpsCfg 0 = true ∧ flag { wSched with regs := [(R.almPpsCfg, 1)] } R.almPpsCfg 1 = false ∧ wSched.dev.mode ≠ .boot ∧
    flag { wSched with regs := [(R.almPtpCfg, 0x310000)] } R.almPtpCfg 20 = true ∧ flag { wSched with regs := [(R.almPtpCfg, 0x310000)] } R.almPtpCfg (16 + 0) = true := by decide

/-- The test state in holdover and traceable with an error estimate of 10 s. -/
def wHold : State := { wSched with alm := { wSched.alm with lock := .holdover, traceable := true, holdE0 := 10 * secI } }

theorem wit_HoldoverTraceLoss : wHold.alm.lock = .holdover ∧ wHold.alm.traceable = true ∧ fld wHold R.almHoldCfg 23 16 < (refreshErr wHold).alm.errClass := by decide

/-! `Obligations.SampleSyncEdgesConvert` -/

/-- The test state with edge_src 1 and edge_pol 0, in an edge-source state. -/
def wSync (y : SyncIn) : State :=
  { wSched with afe := { Afe.reset with running := true, sync := y, chEn := 1 }, regs := [(R.afeCtl, 8)] }

theorem wit_SampleSync : let s := wSync ⟨true, none, none, none, 5, false, 0, false, false⟩
    syncRate s = s ∧ flag s R.afeCtl 3 = true ∧ s.afe.running = true ∧ true ≠ flag s R.afeCtl 4 ∧ s.afe.sync.active = true ∧ s.afe.sync.latched = none ∧ s.afe.sync.hold = none := by
  exact ⟨rfl, by decide, by decide, by decide, by decide, by decide, by decide⟩

theorem wit_SampleSync_busy : let s := wSync ⟨true, none, some (5 * secQ, 5 * secQ), none, 5, false, 0, false, false⟩
    syncRate s = s ∧ s.afe.sync.hold = some (5 * secQ, 5 * secQ) ∧ syncTag s < 5 * secQ + 640 ∧
    (wSync ⟨true, none, some (5, 5), some 8, 5, false, 0, false, false⟩).afe.sync.latched = some 8 ∧
    (let u := wSync ⟨true, some 0, none, none, 5, false, 0, false, false⟩; u.afe.sync.lastEdge = some 0 ∧ 0 * 16384 + 1929 * nsI ≤ now u) := by
  exact ⟨rfl, by decide, by decide, by decide, by decide⟩

theorem wit_SyncRestored : let s := wSync ⟨false, some 0, none, none, 5, true, 0, false, true⟩
    syncRate s = s ∧ s.afe.sync.ready = true ∧ s.afe.sync.active = false ∧ eventQ s % secQ < 1929 := by
  exact ⟨rfl, by decide, by decide, by decide⟩

theorem wit_SyncRateCheck : let s := wSync ⟨false, some 0, none, none, 4, true, 2073600, false, false⟩
    s.afe.sync.sec < now s / secI ∧ s.afe.sync.whole = true := by decide

/-! `Obligations.ConversionsAndSnapshotsAreStored` -/

/-- The test state with channel 0 running, a displaced conversion, and a snapshot requested for `at_` quarter-nanoseconds. -/
def wConv (at_ : Nat) : State :=
  { wSched with alm := { wSched.alm with ns := 1000 },
                afe := { Afe.reset with running := true, chEn := 1, chans := [(1, { AfeCh.empty with aborted := some (100, 740) })], snaps := [⟨1, at_, 0, some 3, false⟩],
                                        snapRun := [(⟨1, 0, 0, some 2, false⟩, 1)] } }

theorem wit_Conversions : chConverts (wConv 0) 0 = true ∧ convDone (wConv 0) 0 (5 * secQ) = true ∧ (afeCh (wConv 0) 0).aborted.map Prod.fst ≠ some (5 * secQ) ∧ (afeCh (wConv 0) 0).ignored = [] ∧
    convDone (wConv 0) 0 7 = false ∧ chConverts (wConv 0) 1 = false ∧ (afeCh (wConv 0) 1).aborted = some (100, 740) ∧ (afeCh (wConv 0) 0).aborted = none ∧
    (wConv 0).afe.snaps.find? (fun x => decide (x.at_ * 16384 ≤ now (wConv 0))) = some ⟨1, 0, 0, some 3, false⟩ ∧
    (∀ x ∈ (wConv (6 * secQ)).afe.snaps, now (wConv (6 * secQ)) < x.at_ * 16384) ∧ (wConv 0).afe.snapRun = [(⟨1, 0, 0, some 2, false⟩, 1)] ∧ wSched.afe.snapRun = [] := by decide

/-! `Obligations.SpareAndCalibrationSteps` -/

/-- The test state in a mode with channel 0 running and the spare in a phase. -/
def wSpare (m : Mode) (p : SparePhase) : State :=
  { wHost m with dev := { (wHost m).dev with mode := m, ticks := 4000 * secT },
                 afe := { Afe.reset with running := true, chEn := 1, refFault := 2, cal := some ⟨1, 1, some 4⟩, spare := { Afe.reset.spare with phase := p } }, regs := [(R.afeCtl, 4)] }

theorem wit_AfeCal : Taken (wHost .service) (wCmd [1]) usedAfeCal 1 ∧ Taken (wHost .test) (wCmd [1, 0, 0, 0, 0, 0, 0, 0, 1]) usedAfeCal 1 ∧ (wHost .service).afe.cal = none ∧
    flag (wHost .service) R.afeStat 12 = false ∧ (wSpare .test .idle).afe.cal = some ⟨1, 1, some 4⟩ ∧ Taken (wHost .boot) (wCmd [1]) usedAfeCal 1 ∧
    Taken (wHost .test) (wCmd [1, 0, 0, 0, 0, 0, 0, 0, 3]) usedAfeCal 1 ∧ 2 < field (wCmd [1, 0, 0, 0, 0, 0, 0, 0, 3]).params 8 1 :=
  ⟨⟨by decide, by decide, by decide⟩, ⟨by decide, by decide, by decide⟩, by decide, by decide, by decide, ⟨by decide, by decide, by decide⟩, ⟨by decide, by decide, by decide⟩, by decide⟩

theorem wit_Spare : isDying (wSpare .service .idle) = false ∧ flag (wSpare .service .idle) R.afeCtl 2 = true ∧ (wSpare .service .idle).afe.spare.perm = none ∧
    (wSpare .service .idle).afe.spare.queued = [] ∧ elapsed (wSpare .service .idle) (wSpare .service .idle).afe.spare.since (fld (wSpare .service .idle) R.afeSpareCfg 19 8 * secT / 32) = true ∧
    chConverts (wSpare .service .idle) (wSpare .service .idle).afe.spare.next = true ∧ (wSpare .service .shadow).afe.spare.phase = .shadow ∧
    (wSpare .service .handBack).afe.spare.phase = .handBack ∧ (wSpare .service .inPlace).afe.spare.phase = .inPlace ∧ (wSpare .service .selfCal).afe.spare.phase = .selfCal ∧
    bitOf (wSpare .service .idle).afe.refFault 0 = false ∧ bitOf (wSpare .service .idle).afe.refFault 1 = true := by decide

/-! `Obligations.TrackersEnablesAndFilters` -/

/-- The test state with tracker 0 enabled, in a state, a boundary at 0 and a crossing at `b`. -/
def wTrk (st : TrkState) (b : Nat) : State :=
  { wSched with afe := { Afe.reset with chEn := 1, running := true, pendCh := some 3, stopAt := some 5, trks := [(0, { Tracker.empty with st := st, lastB := some 0, pos := some b, wr := 1, peak := 2 ^ 22 })],
                                        chans := [(0, { AfeCh.empty with cnt := 2, buf := [(0, ⟨1, 0, 0, 0⟩), (1, ⟨1, 0, 0, 1929⟩)] })] },
                flt := ⟨[(0, { FltCh.empty with b3 := ⟨false, some ⟨true, 0, 0, 0⟩, none⟩ })]⟩, regs := [(R.afeCtl, 2), (R.afeTrkCfg 0, 0x80000000)] }

theorem wit_Trackers : flag (wTrk .tracking 9) (R.afeTrkCfg 0) 31 = true ∧ flag (wTrk .tracking 9) R.afeCtl 1 = true ∧ (trk (wTrk .tracking 9) 0).pos = some 9 ∧ refLow (wTrk .tracking 9) 0 = false ∧
    refLow { wTrk .tracking 9 with regs := [(R.afeCtl, 2), (R.afeTrkCfg 0, 0x800000FF)], afe := { Afe.reset with trks := [(0, { Tracker.empty with pos := some 9 })] } } 0 = true ∧
    (trk (wTrk .freeRun 9) 0).st = .freeRun ∧ (trk (wTrk .freeRun 9) 0).lastB = some 0 ∧ (0 + nominalNs (wTrk .freeRun 9) 0) * nsI ≤ now (wTrk .freeRun 9) ∧ (trk (wTrk .tracking 9) 0).rd < (trk (wTrk .tracking 9) 0).wr ∧
    (wTrk .tracking 9).afe.cfgAt * secI ≤ now (wTrk .tracking 9) ∧ (wTrk .tracking 9).afe.stopAt = some 5 ∧ isSealed (wHost .service) = true ∧ isSealed (wHost .test) = false ∧
    (fltCh (wTrk .tracking 9) 0).b3.fade = some ⟨true, 0, 0, 0⟩ ∧ (fltCh wSched 0).b3.fade = none ∧ (fltCh wSched 0).b3.deferred = none ∧ (fltCh wSched 0).b3.actB ≠ decide (3 = 3) ∧
    chHasPath (wTrk .tracking 9) 0 = true ∧ (afeCh (wTrk .tracking 9) 0).result? (fltCh (wTrk .tracking 9) 0).rd = some ⟨1, 0, 0, 0⟩ ∧
    (afeCh (wTrk .tracking 9) 0).result? ((fltCh (wTrk .tracking 9) 0).rd + 1) = some ⟨1, 0, 0, 1929⟩ :=
  ⟨by decide, by decide, by decide, by decide, by decide, by decide, by decide, by decide, by decide, by decide, by decide, by decide, by decide, by decide, by decide, by decide, by decide, by decide, by decide, by decide⟩

theorem wit_SwapSymmetric : (fltCh wSched 0).coef false true = ((fltCh wSched 0).coef false true).reverse ∧
    ({ FltCh.empty with b3B := [1, 2] }).coef false true ≠ (({ FltCh.empty with b3B := [1, 2] }).coef false true).reverse := by decide

/-! `Obligations.SampledValuesAreAcceptedOrDiscarded` -/

/-- A scheme with stream 2 subscribed at destination MAC 7, APPID 0x4000, svID "A", two members, revision 5, and stream 1 published. -/
def wScheme : Scheme :=
  ⟨[], [⟨6, 0, [leBytes 2 2 ++ [0, 2] ++ beBytes 6 7 ++ beBytes 6 0 ++ leBytes 2 0x4000 ++ [0, 0] ++ leBytes 4 5 ++ leBytes 4 0 ++ [1, 1, 0, 0, 0x41]]⟩, ⟨7, 0, [[1, 0, 1, 0]]⟩], []⟩

/-- The test state with stream 2 of that scheme enabled, in a state, `staged` samples waiting. -/
def wSv (staged : List SvSample) : State :=
  { wSched with scheme := some wScheme, regs := [(R.sviCtl, 1), (R.sviPubCtl, 2)], dev := { (wHost .service).dev with ticks := secT },
                svi := { streams := [(2, { SvStream.empty with st := .ok, en := true, exp := 3, wrote := some 2, staged := staged })], cnts := [], pubs := [(1, ⟨true, 0⟩)], outs := [], dd01 := [], dd23 := [] },
                afe := { Afe.reset with taps := [(0, ⟨0, [⟨0, 0, 0, 0⟩], 0⟩)] } }

/-- A frame of that stream on port 0 with one ASDU of two values. -/
def wSvFrame (dst rev synch : Nat) : SvFrame := ⟨0, 100, 9, dst, none, 0x4000, [0x41], rev, synch, none, none, false, [⟨0, [(1, 0), (2, 0)]⟩]⟩

theorem wit_SvFrame : flag (wSv []) R.sviCtl 0 = true ∧ svMatch (wSv []) (wSvFrame 7 5 2) = some 2 ∧ svMatch (wSv []) (wSvFrame 8 5 2) = none ∧ 5 = field (svRec (wSv []) 2) 20 4 ∧
    svCfg (wSv []) 2 30 29 ≤ 2 ∧ (∀ u ∈ (wSvFrame 7 5 2).asdus, u.smpCnt < svRate (wSv []) 2 ∧ u.vals.length = field (svRec (wSv []) 2) 3 1) ∧
    0 ≤ svLatency (wSv []) 2 (svSecond (wSv []) 2 0 (nowQ (wSv []))) (nowQ (wSv [])) ∧ 100 ≤ (if pairModeOf (wSv []) 0 = 0 then 1522 else 1528) :=
  ⟨by decide, by decide, by decide, by decide, by decide, by decide, by decide, by decide⟩

theorem wit_SvAccept : (∃ z ∈ svSamples (wSv []) 2 9 (nowQ (wSv [])) 0 (wSvFrame 7 5 2), svRefused (strm (wSv []) 2) z = none) ∧
    ((strm (wSv []) 2).staged.map SvSample.frame).eraseDups.length < 64 ∧
    (∃ z ∈ svSamples (wSv [⟨0, 0, 0, 0, []⟩]) 2 0 (nowQ (wSv [])) 0 (wSvFrame 7 5 2), (svRefused (strm (wSv [⟨0, 0, 0, 0, []⟩]) 2) z).isSome = true) ∧
    64 ≤ ((strm (wSv ((List.range 64).map (fun k => ⟨k + 9, 0, 0, k, []⟩))) 2).staged.map SvSample.frame).eraseDups.length ∧
    svLatency (wSv []) 2 (svRate (wSv []) 2 * 9) (nowQ (wSv [])) < 0 :=
  ⟨by decide, by decide, by decide, by decide +kernel, by decide⟩

/-- That state with pair 0 in PRP mode and one key in its table. -/
def wDd : State := { wSv [] with regs := [(R.sviCtl, 1), (R.belPairMode, 1)], svi := { (wSv []).svi with dd01 := [⟨9, 4, 0⟩] } }

theorem wit_SvDup : pairModeOf wDd 0 ≠ 0 ∧ (ddLookup wDd false 9 4).2 = true ∧ (ddLookup wDd false 9 5).2 = false ∧ pairModeOf (wSv []) 0 = 0 ∧ 1528 < (1600 : Nat) ∧
    flag { wSv [] with regs := [] } R.sviCtl 0 = false ∧ (8 < (List.replicate 9 (SvAsdu.mk 0 [])).length) :=
  ⟨by decide, by decide, by decide, by decide, by decide, by decide, by decide⟩

theorem wit_SvTimers : (strm (wSv [⟨9, 0, 0, 0, []⟩]) 2).first? = some ⟨9, 0, 0, 0, []⟩ ∧ (0 + svCfg (wSv []) 2 21 16 * 40000) * 16384 ≤ now (wSv []) ∧ (strm (wSv []) 2).exp < 9 ∧
    (strm (wSv []) 2).wrote.isSome = true ∧ deadlinePassed (wSv []) 2 (strm (wSv []) 2).exp = true ∧ (tget ⟨0, [], 0⟩ (wSv []).afe.taps 0).words ≠ [] ∧
    (tget ⟨0, [], 0⟩ (wSv []).afe.taps 1).words = [] ∧ 0 + 100 * usT ≤ (wSv []).dev.ticks ∧ (strm (wSv []) 3).en = false ∧
    (wSv []).scheme.bind (fun c => c.svpub? 1) = some [1, 0, 1, 0] ∧ (svPub (wSv []) 1).run = true ∧ flag (wSv []) R.sviPubCtl 1 = true ∧ isDying (wSv []) = false ∧ (svPub (wSv []) 0).run = false :=
  ⟨by decide, by decide, by decide, by decide, by decide, by decide, by decide, by decide, by decide, by decide, by decide, by decide, by decide, by decide⟩

theorem wit_SvUnsync : 0 < svCfg { wSv [] with regs := [(R.sviCtl, 1), (0x2308, 0x20000000)] } 2 30 29 := by decide

/-! `Obligations.BayStartAndStopComplete` -/

/-- A bay with a BAY record whose groups are the given bytes, in a run state. -/
def wBay (run : Nat) (recd set : List Byte) : Bay :=
  { recd := recd, els := [], groups := [(0, set)], form := 0, grp := 0, ctx := { startCtx recd [] set 0 0 ⟨0, 0⟩ with run := run }, slot := Slot.fresh [] ⟨5, 0⟩, work := [] }

/-- The test state with bay 0 placed. -/
def wBays (m : Mode) (run : Nat) (set : List Byte) (reqs : List BayReq) : State :=
  { wHost m with alm := { Alm.reset with sec := 5 }, bays := [(0, wBay run (List.replicate 64 0) set)], cfg := { Cfg.reset with reqs := [(0, reqs)] } }

theorem wit_BayStart : Taken (wBays .service 0 [] []) (wCmd [0]) usedBayRun 1 ∧ Taken (wBays .boot 0 [] []) (wCmd [0]) usedBayRun 1 ∧ (wBay 0 (List.replicate 64 0) []).runs = false ∧
    (wBay 1 (List.replicate 64 0) []).runs = true ∧ tget? (wBays .service 0 [] []).bays 1 = none ∧ (∃ r ∈ reqsOf (wBays .service 0 [] [⟨.start, ⟨0, 0⟩, true⟩]) 0, r.kind = .start) :=
  ⟨⟨by decide, by decide, by decide⟩, ⟨by decide, by decide, by decide⟩, by decide, by decide, by decide, ⟨⟨.start, ⟨0, 0⟩, true⟩, by decide, rfl⟩⟩

/-- A settings group with legal constants. -/
def wSet : List Byte := [1, 0, 0, 0, 2, 0, 0, 0, 1, 0, 0, 0, 1, 0, 0, 0] ++ List.replicate 16 0 ++ (List.replicate 8 [0, 0, 0, 0, 0, 0, 0, 0, 1, 1, 0, 0, 1, 0, 0, 0]).flatten

theorem wit_BayConst : constOk ((wBay 0 (List.replicate 64 0) wSet).setOf (brInit (List.replicate 64 0))) = true ∧
    constOk ((wBay 0 (List.replicate 64 0) []).setOf (brInit (List.replicate 64 0))) = false ∧ Taken (wBays .service 0 wSet []) (wCmd [0]) usedBayRun 1 :=
  ⟨by decide, by decide, ⟨by decide, by decide, by decide⟩⟩

/-! `Obligations.GroupSelectReadAndResetComplete` -/

/-- The test state with bay 0 running on a BAY record whose present mask is 0xFF. -/
def wRun (m : Mode) : State := { wBays m 1 wSet [] with bays := [(0, wBay 1 ((List.replicate 64 0).set 7 0xFF) wSet)] }

/-- That state with requests of bay 0 pending. -/
def wRunReq (reqs : List BayReq) : State := { wRun .service with cfg := { Cfg.reset with reqs := [(0, reqs)] } }

theorem wit_GroupSelect : Taken (wRun .service) (wCmd [0, 0, 0]) usedGroupSelect 1 ∧ Taken (wRun .safe) (wCmd [0, 0, 0]) usedGroupSelect 1 ∧ (bay? (wRun .service) 0).map Bay.runs = some true ∧
    (bay? (wBays .service 0 [] []) 0).map Bay.runs = some false ∧ stopAt? (wRun .service) 0 = none ∧ Taken (wRun .service) (wCmd [0]) usedTargetReset 1 ∧ Taken (wRun .vigil) (wCmd [0]) usedTargetReset 1 ∧
    Taken (wRun .service) (wCmd [0, 0, 1, 0, 0, 0, 0, 0, 64]) usedBayStateRead 1 ∧ Taken (wRun .boot) (wCmd [0]) usedBayStateRead 1 ∧ field (wCmd [0, 0, 1, 0, 0, 0, 0, 0, 64]).params 8 8 = 64 :=
  ⟨⟨by decide, by decide, by decide⟩, ⟨by decide, by decide, by decide⟩, by decide, by decide, by decide, ⟨by decide, by decide, by decide⟩, ⟨by decide, by decide, by decide⟩,
   ⟨by decide, by decide, by decide⟩, ⟨by decide, by decide, by decide⟩, by decide⟩

theorem wit_GroupMask : (bay? (wRun .service) 0).map (fun b => bitOf (brMask b.recd) 0 && bitOf (brMask b.recd) 1) = some true ∧ reqsOf (wRun .service) 0 = [] ∧ 0 < nBays (wRun .service) ∧
    (bay? (wRun .service) 0).map (fun b => b.ctx.sg) = some 0 ∧ bay? (wRun .service) 1 = none := by decide

theorem wit_GroupWaits : Taken (wRunReq [⟨.switch 1, ⟨6, 0⟩, true⟩]) (wCmd [0, 0, 1]) usedGroupSelect 1 ∧ (∃ r ∈ reqsOf (wRunReq [⟨.switch 1, ⟨6, 0⟩, true⟩]) 0, r.cmd = true ∧ r.kind.isSwitch = true) ∧
    stopAt? (wRunReq [⟨.stop, ⟨5, 0⟩, true⟩]) 0 = some ⟨5, 0⟩ ∧ (⟨5, 0⟩ : EvalAt).le (evalFrom 14400 (now (wRun .service) + 100 * usI)) = true ∧ (wRun .service).bays.map Prod.fst = [0] ∧
    (∃ r ∈ reqsOf (wRunReq [⟨.reset, ⟨5, 0⟩, true⟩]) 0, r.kind.isReset = true) ∧ Taken (wRun .service) (wCmd [0xFF, 0xFF]) usedTargetReset 1 ∧ Taken (wRun .service) (wCmd [0, 1]) usedTargetReset 1 :=
  ⟨⟨by decide, by decide, by decide⟩, ⟨⟨.switch 1, ⟨6, 0⟩, true⟩, by decide, rfl, rfl⟩, by decide, by decide, by decide, ⟨⟨.reset, ⟨5, 0⟩, true⟩, by decide, rfl⟩, ⟨by decide, by decide, by decide⟩, ⟨by decide, by decide, by decide⟩⟩

/-! `Obligations.BayRequestsTakeEffect` -/

theorem wit_BayEffects : keysFrom 0 (wBays .service 2 wSet [⟨.start, ⟨5, 0⟩, true⟩]).cfg.reqs = true ∧ pendAt (wBays .service 2 wSet [⟨.start, ⟨5, 0⟩, true⟩]) 0 (fun k => decide (k = .start)) = some ⟨.start, ⟨5, 0⟩, true⟩ ∧
    (⟨5, 0⟩ : EvalAt).inst (wBay 2 (List.replicate 64 0) wSet).rate ≤ now (wBays .service 2 wSet []) ∧ now (wBays .service 2 wSet []) < (⟨6, 0⟩ : EvalAt).inst (wBay 2 (List.replicate 64 0) wSet).rate ∧
    pendAt (wBays .service 3 wSet [⟨.stop, ⟨5, 0⟩, true⟩]) 0 (fun k => decide (k = .stop)) = some ⟨.stop, ⟨5, 0⟩, true⟩ ∧ tget? (wBays .service 3 wSet []).cfg.tasks 0 = none ∧
    (wBay 3 (List.replicate 64 0) wSet).slot.queue = [] ∧
    ((reqsOf (wBays .service 1 wSet [⟨.switch 0, ⟨5, 0⟩, true⟩]) 0).filter (fun r => r.kind.isSwitch && decide (r.at_.inst 14400 ≤ 5 * secI))).getLast? = some ⟨.switch 0, ⟨5, 0⟩, true⟩ ∧
    ((reqsOf (wBays .service 1 wSet [⟨.reset, ⟨5, 0⟩, true⟩]) 0).filter (fun r => r.kind.isReset && decide (r.at_.inst 14400 ≤ 5 * secI))).getLast? = some ⟨.reset, ⟨5, 0⟩, true⟩ := by decide

/-! `Obligations.TasksAndWindowsClose` -/

/-- The test state with bay 0 running and the instant ⟨5, 0⟩ sealed. -/
def wSealed : State :=
  { wRun .service with bays := [(0, { wBay 1 (List.replicate 64 0) wSet with slot := { Slot.fresh [] ⟨5, 1⟩ with queue := [⟨⟨5, 0⟩, [], []⟩] } })] }

theorem wit_Tasks : partRuns wSealed = true ∧ tget? wSealed.mir.brs 0 = none ∧ ((bay? wSealed 0).bind (fun b => taskReady wSealed 0 b)).isSome = true ∧ tget? wSealed.cfg.tasks 0 = none ∧
    ((bay? (wRun .service) 0).bind (fun b => taskReady (wRun .service) 0 b)) = none ∧ (tget? (startTask wSealed 0).cfg.tasks 0).isSome = true := by decide

/-! `Obligations.PinsFollowDemandAndDebounce` -/

theorem wit_Dto : (wHost .test).pwr.dying = none ∧ hostReach (wHost .test) = true ∧ (wHost .test).dev.dtoEn = false ∧ (wHost .test).dev.dtoActive = false ∧ partRuns (wHost .test) = true ∧
    ({ wHost .test with dev := { (wHost .test).dev with dtoEn := true, dtoAt := some 0 } } : State).dev.dtoAt = some 0 ∧ 0 ≤ now (wHost .test) ∧ (wHost .service).dev.mode ≠ .commission := by decide

theorem wit_Dto_waits : now (wHost .test) < secI := by decide

/-- The test state in SERVICE in second 5 with BIN 0 in a state. -/
def wBin (b : Bin) : State := { wSched with cfg := { Cfg.reset with bins := [(0, b)] } }

theorem wit_Bin : (bin (wBin ⟨false, [(0, false)], 0, 0, none, 0⟩) 0).level ≠ true ∧ binTag 4 (7 + debounceN (wBin ⟨false, [(0, false)], 0, 0, none, 0⟩) - 1) * 16384 ≤ now wSched ∧ partRuns wSched = true ∧
    (bin (wBin ⟨false, [], 0, 0, some 3, 0⟩) 0).frozen = some 3 ∧ 3 + 2 ≤ now (wBin ⟨false, [], 0, 0, some 3, 0⟩) / secI ∧ now (wBin ⟨false, [], 0, 0, some 4, 0⟩) / secI < 4 + 2 ∧
    0 ≤ fld wSched R.bayBinCfg 15 8 ∧ 0 < binTag 4 7 ∧ wSched.afe.minTag ≤ binTag 4 7 := by decide

/-! `Obligations.CellsLeaveAndRejoinTheirGroup` -/

/-- The test state with bay 0 running as TMR on group 0, in a state. -/
def wGrp (m : Mode) (x : Grp) : State := { wRun m with cfg := { Cfg.reset with grps := [(0, x)] } }

theorem wit_CellForms : Taken (wGrp .test Grp.blank) (wCmd [0, 0, 2]) usedCellSplit 1 ∧ Taken (wGrp .test { Grp.blank with lost := 4 }) (wCmd [0, 0, 2]) usedCellJoin 1 ∧
    Taken (wGrp .boot Grp.blank) (wCmd [0, 0, 2]) usedCellSplit 1 ∧ (hostOf (wGrp .test Grp.blank) 0).isSome = true ∧ (2 ∈ setBits 3 (memberMask (wGrp .test Grp.blank) 0)) ∧
    1 < (setBits 3 (memberMask (wGrp .test Grp.blank) 0)).length ∧ formBusy (wGrp .test Grp.blank) 0 = false ∧ formBusy (wGrp .test { Grp.blank with resync := 2 }) 0 = true ∧
    bitOf (memberMask (wGrp .test { Grp.blank with lost := 4 }) 0) 2 = false ∧ isSealed (wGrp .test Grp.blank) = false ∧ hostOf (wGrp .test Grp.blank) 1 = none ∧
    (isSealed (wGrp .service { Grp.blank with lost := 4 }) = true ∧ 0 < nGroups (wGrp .service Grp.blank) ∧ (setBits 3 (memberMask (wGrp .service { Grp.blank with lost := 4 }) 0)).length = 2) :=
  ⟨⟨by decide, by decide, by decide⟩, ⟨by decide, by decide, by decide⟩, ⟨by decide, by decide, by decide⟩, by decide, by decide, by decide, by decide, by decide, by decide, by decide, by decide, by decide⟩

theorem wit_FormChange : (grp (wGrp .test { Grp.blank with form := some ⟨false, 2, false, 0, 3⟩, resync := 2 }) 0).form = some ⟨false, 2, false, 0, 3⟩ ∧
    ((hostOf (wGrp .test { Grp.blank with form := some ⟨false, 2, false, 0, 3⟩ }) 0).bind (bay? (wGrp .test Grp.blank))).isSome = true ∧
    groupBusy (wGrp .test { Grp.blank with form := some ⟨false, 2, false, 0, 3⟩ }) 0 = false ∧ 0 ≤ now (wGrp .test Grp.blank) ∧ now (wGrp .test Grp.blank) < 6 * secI ∧
    bitOf (grp (wGrp .test { Grp.blank with resync := 2 }) 0).resync 1 = true ∧ partRuns (wGrp .test Grp.blank) = true ∧ (grp (wGrp .test Grp.blank) 0).form = none := by decide

/-- The test state in TEST under a grant, with an attached cell and a request. -/
def wDbg (cell : Option Nat) (req : Option (Bool × Nat)) : State :=
  { wHost .test with sec := { Sec.reset with grant := some ⟨1, 0, false⟩ }, cfg := { Cfg.reset with dbgCell := cell, dbgReq := req } }

theorem wit_Debug : hostReach (wDbg none none) = true ∧ (wDbg none none).dev.mode = .test ∧ (wDbg none none).sec.grant = some ⟨1, 0, false⟩ ∧ bitOf 1 0 = true ∧ 5 < nCells (wDbg none none) ∧
    (wDbg (some 5) none).cfg.dbgCell.isSome = true ∧ groupBusy (wDbg none (some (true, 5))) (5 / 3) = false ∧ (grp (wDbg none (some (true, 5))) (5 / 3)).form = none ∧
    (wDbg (some 5) (some (false, 5))).cfg.dbgReq = some (false, 5) ∧ hostReach { wDbg none none with hif := { (wDbg none none).hif with linkUp := false } } = false ∧
    dbgMay (wDbg none none) = true ∧ dbgMay (wHost .test) = false := by decide

/-! `Obligations.MigrationsAndRotationAdvance` -/

/-- The test state with bay 0 stopped on group 0, a migration of it in a step and group 7 under test. -/
def wMig (m : Mode) (l : List Mig) : State :=
  { wBays m 0 wSet [] with cfg := { Cfg.reset with migs := l, rot := some ⟨7, .regular, true⟩ }, dev := { (wHost m).dev with ticks := 10 ^ 6 * secT }, regs := [(R.cfgCtl, 1)] }

theorem wit_Migration : Taken (wMig .service []) (wCmd [0, 0, 0xFF, 0xFF]) usedCellMigrate 1 ∧ Taken (wMig .boot []) (wCmd [0, 0, 0xFF, 0xFF]) usedCellMigrate 1 ∧
    (bay? (wMig .service []) 0).isSome = true ∧ isSpare (wMig .service []) 9 = true ∧ isSpare (wMig .service []) 0 = false ∧ migOf? (wMig .service []) 0 = none ∧
    migRun? (wMig .service [⟨0, .command, some 9, .precopy, none, 0, false⟩]) = some ⟨0, .command, some 9, .precopy, none, 0, false⟩ ∧
    (wMig .service []).cfg.preAt < (wMig .service []).dev.ticks ∧ ((bay? (wMig .service []) 0).map (fun b => !b.runs)).getD false = true ∧
    migRun? (wMig .service [⟨0, .command, some 9, .copy, none, 0, false⟩]) = some ⟨0, .command, some 9, .copy, none, 0, false⟩ ∧ underTest (wMig .service []) 7 = true ∧
    underTest (wMig .service []) 8 = false ∧ hostReach (wMig .service []) = true ∧ migRun? (wMig .service []) = none :=
  ⟨⟨by decide, by decide, by decide⟩, ⟨by decide, by decide, by decide⟩, by decide, by decide, by decide, by decide, by decide, by decide, by decide, by decide, by decide, by decide, by decide, by decide⟩

theorem wit_Rotation : flag (wMig .service []) R.cfgCtl 0 = true ∧ isDying (wMig .service []) = false ∧
    (wMig .service []).cfg.rotDue + 3600 * fld (wMig .service []) R.cfgRotCfg 15 0 * secT / nGroups (wMig .service []) ≤ (wMig .service []).dev.ticks ∧
    (9 ∈ spares (wMig .service [])) := by decide

/-! `Obligations.SelfTestsAndMemoryErrors` -/

theorem wit_Selftest : Taken (wMig .test []) (wCmd [4, 0, 0]) usedSelftest 1 ∧ Taken (wMig .service []) (wCmd [3, 0, 0]) usedSelftest 1 ∧ Taken (wMig .boot []) (wCmd [3, 0, 0]) usedSelftest 1 ∧
    Taken (wMig .test []) (wCmd [9, 0, 0]) usedSelftest 1 ∧ Taken (wMig .service []) (wCmd [1, 0, 3]) usedSelftest 1 ∧
    targetOk (wMig .test []) 4 0 = true ∧ targetOk (wMig .test []) 1 33 = false ∧ (wMig .test []).pwr.selftest = none ∧ (0 : Nat) < nClusters (wMig .test []) ∧ isDying (wMig .test []) = false ∧
    partRuns (wMig .test []) = true ∧ ({ wMig .test [] with pwr := { Pwr.reset with selftest := some ⟨3, 0, 2, [], 0⟩ } } : State).pwr.selftest = some ⟨3, 0, 2, [], 0⟩ ∧ nClusters (wMig .test []) ≤ 36 :=
  ⟨⟨by decide, by decide, by decide⟩, ⟨by decide, by decide, by decide⟩, ⟨by decide, by decide, by decide⟩, ⟨by decide, by decide, by decide⟩, ⟨by decide, by decide, by decide⟩,
   by decide, by decide, by decide, by decide, by decide, by decide, by decide, by decide⟩

/-! `Obligations.RecordCommandsComplete` -/

/-- The test state with bay 0 running and recorded, and records and fetches. -/
def wCup (m : Mode) (cb : CupBay) (recs : List CupRec) (fetches : List RecFetch) : State :=
  { wRun m with cup := { Cup.reset with bays := [(0, cb)], recs := recs, fetches := fetches } }

/-- A record of bay 0 in a state. -/
def wRec (num : Nat) (st : RecSt) (final : Bool) : CupRec :=
  { num := num, bay := 0, st := st, t0i := 16, t0 := 0, t0q := 0, final := final, flags := 0, fired := 1, trigs := [], det := ⟨0, 0⟩, detAtt := Att.zero, nPre := 0,
    nPreReq := 0, last := ⟨0, 0⟩, rmsEnd := ⟨0, 0⟩, raw := [], tailE := [], ir := [], hr := [], mode := 2, era := 0, taiUtc := 37, hz60 := false, sg := 0, rate := 4800,
    chans := [], leap := 0, ovr := none, summary := [], units := 1, cids := [], sealAt := none, xgroup := none, entry := [] }

theorem wit_RecordCommands : Taken (wCup .service (CupBay.blank []) [wRec 1 .complete true] []) (wCmd [0, 0]) usedRecForce 1 ∧
    Taken (wCup .service (CupBay.blank []) [wRec 1 .complete true] []) (wCmd [1, 0, 0, 0, 1, 7, 0xFF, 0, 0x40, 0, 0, 0, 0, 0, 0, 0, 0, 0, 0, 0, 0, 0, 0, 0, 0, 0x40]) usedRecFetch 1 ∧
    Taken (wCup .service (CupBay.blank []) [wRec 1 .complete true] []) (wCmd [1, 0, 0, 0, 4]) usedRecFetch 1 ∧
    Taken (wCup .service (CupBay.blank []) [wRec 1 .complete true] []) (wCmd [1]) usedRecRelease 1 ∧
    Taken (wCup .service (CupBay.blank []) [wRec 1 .complete true] []) (wCmd [0xFF, 0xFF, 0xFF, 0xFF]) usedRecRelease 1 ∧
    Taken (wCup .service (CupBay.blank []) [] []) (wCmd [0, 0, 7, 1, 0, 0, 0, 0, 0x40]) usedHistSnapshot 1 ∧
    Taken (wCup .service (CupBay.blank []) [] []) (wCmd [0, 0, 8, 0, 0, 0, 0, 0, 0x40]) usedHistSnapshot 1 ∧
    Taken (wCup .boot (CupBay.blank []) [] []) (wCmd [0, 0]) usedRecForce 1 :=
  ⟨⟨by decide, by decide, by decide⟩, ⟨by decide, by decide, by decide⟩, ⟨by decide, by decide, by decide⟩, ⟨by decide, by decide, by decide⟩, ⟨by decide, by decide, by decide⟩,
    ⟨by decide, by decide, by decide⟩, ⟨by decide, by decide, by decide⟩, ⟨by decide, by decide, by decide⟩⟩

theorem wit_RecordCommands_state : (bay? (wCup .service (CupBay.blank []) [] []) 0).map Bay.runs = some true ∧ (cupBay? (wCup .service (CupBay.blank []) [] []) 0).isSome = true ∧
    cupBay? (wCup .service (CupBay.blank []) [] []) 1 = none ∧ (rec? (wCup .service (CupBay.blank []) [wRec 1 .complete true] []) 1).map (fun r => r.st.live) = some false ∧
    (rec? (wCup .service (CupBay.blank []) [wRec 1 .open_ true] []) 1).map (fun r => r.st.live) = some true ∧
    (rec? (wCup .service (CupBay.blank []) [wRec 1 .lost true] []) 1).map CupRec.st = some .lost ∧
    isDying (wCup .service (CupBay.blank []) [] [⟨1, 0, 0, 0xFF, 0x40, 0, 64, 3⟩]) = false ∧ tget? (wCup .service (CupBay.blank []) [] []).hif.rings 0xFF = none ∧
    (∃ r ∈ (wCup .service (CupBay.blank []) [wRec 1 .complete true] [⟨1, 0, 0, 0xFF, 0x40, 0, 64, 3⟩]).cup.recs, r.st.live = false ∧
      ∃ f ∈ (wCup .service (CupBay.blank []) [wRec 1 .complete true] [⟨1, 0, 0, 0xFF, 0x40, 0, 64, 3⟩]).cup.fetches, f.num = r.num) :=
  ⟨by decide, by decide, by decide, by decide, by decide, by decide, by decide, by decide, ⟨_, List.mem_cons_self, by decide, ⟨_, List.mem_cons_self, rfl⟩⟩⟩

/-! `Obligations.RecordsRunTheirCourse` -/

theorem wit_RecordCourse : (wCup .service (CupBay.blank []) [wRec 1 .open_ true, wRec 2 .sealing true] []).cup.recs.find? (fun x => decide (x.bay = 0 ∧ x.st = .open_ ∧ x.final = true)) = some (wRec 1 .open_ true) ∧
    (wCup .service (CupBay.blank []) [wRec 2 .sealing true] []).cup.recs.find? (fun x => decide (x.bay = 0 ∧ x.st = .sealing ∧ x.final = true)) = some (wRec 2 .sealing true) ∧
    (wCup .service (CupBay.blank []) [wRec 3 .open_ false] []).cup.recs.find? (fun x => decide (x.bay = 0 ∧ x.final = false)) = some (wRec 3 .open_ false) ∧
    reached (wCup .service { CupBay.blank [] with ring := [⟨⟨0, 1⟩, [], [], 0, 0, 0, 0, none, false, false⟩] } [] []) 0 ⟨0, 0⟩ = true ∧
    newestOf (wCup .service { CupBay.blank [] with ring := [⟨⟨0, 1⟩, [], [], 0, 0, 0, 0, none, false, false⟩] } [] []) 0 = some ⟨0, 1⟩ ∧ (CupBay.blank []).queue = [] ∧
    (CupBay.blank []).lines = [] ∧ (wCup .service (CupBay.blank []) [] []).cup.flash = [] ∧ cupBay? (wCup .service (CupBay.blank []) [] []) 1 = none ∧
    rec? (wCup .service (CupBay.blank []) [] []) 1 = none := by decide

theorem wit_AutoTrigger : flag { wCup .service (CupBay.blank []) [] [] with regs := [(R.cupCtl, 1), (R.cupBayCtl 0, 8)] } R.cupCtl 0 = true ∧
    fld { wCup .service (CupBay.blank []) [] [] with regs := [(R.cupCtl, 1), (R.cupBayCtl 0, 8)] } (R.cupBayCtl 0) 3 2 = 2 ∧
    (CupBay.blank []).autoAt + field (CupBay.blank []).recd 24 4 * secI ≤ (⟨0, 1⟩ : EvalAt).inst 4800 ∧ (bay? (wCup .service (CupBay.blank []) [] []) 0).map Bay.runs = some true := by decide

/-! `Obligations.IntervalsClosePostAndRead` -/

/-- The test state with bay 0 metered in a state, second 5. -/
def wMet (m : Mode) (b : MetBay) : State := { wHost m with alm := { Alm.reset with sec := 5000 }, dev := { (wHost m).dev with ticks := 10 ^ 15 }, met := ⟨[(0, b)]⟩ }

/-- A metered bay with one held interval of second 3600. -/
def wMetBay (done : List (MetOpen × Nat)) : MetBay :=
  { recd := [], open_ := MetOpen.at_ 0, lifeImp := 0, lifeExp := 0, lastClose := 0, alarm := false, step := false, bypass := false, sec := (0, 0, []),
    held := [⟨⟨0, 0, 65536, 3600, 900, 5, 1, [0, 0, 0, 0], 0, 0, 0, 0, 0, 0, 0, 0, 0, 0⟩, 0, false⟩], done := done }

theorem wit_Intervals : Taken (wMet .service (wMetBay [])) (wCmd [0, 0, 0, 0, 2, 0, 0, 0, 0x10, 0x0E]) usedMetIntervalPost 1 ∧ Taken (wMet .boot (wMetBay [])) (wCmd [0, 0]) usedMetIntervalPost 1 ∧
    Taken (wMet .service (wMetBay [])) (wCmd [0, 0, 1, 0, 0, 0, 0, 0, 0x10, 0x0E, 0, 0, 0, 0, 0, 0, 0x40]) usedMetRead 1 ∧
    Taken (wMet .service (wMetBay [])) (wCmd [0, 0, 0, 0, 0, 0, 0, 0, 0, 0, 0, 0, 0, 0, 0, 0, 0x40]) usedMetRead 1 ∧
    ((wMetBay []).find 3600).isSome = true ∧ (wMetBay []).find 3601 = none ∧ (wMetBay []).gone 3601 = false ∧ metBay? (wMet .service (wMetBay [])) 0 = some (wMetBay []) ∧
    (wMetBay [(MetOpen.at_ 0, 5)]).done = [(MetOpen.at_ 0, 5)] ∧ metBay? (wMet .service (wMetBay [])) 1 = none ∧
    ((wMetBay []).held.filter (fun h => !h.missing && !h.rec_.has 9 && elapsed (wMet .service (wMetBay [])) h.closed (fld (wMet .service (wMetBay [])) R.metJudgeCfg 10 0 * 60 * secT))).length = 1 :=
  ⟨⟨by decide, by decide, by decide⟩, ⟨by decide, by decide, by decide⟩, ⟨by decide, by decide, by decide⟩, ⟨by decide, by decide, by decide⟩, by decide, by decide, by decide, by decide, by decide,
    by decide, by decide⟩

/-! `Obligations.MirrorLinkCarriesThePair` -/

/-- A PAIR record of unit B with mirrored samples. -/
def wPairRec : List Byte := [1, 0, 0, 0, 1, 1, 0, 0, 5, 0, 0, 0]

/-- The test state of a paired part, both lanes on, with link state and clock at second 5. -/
def wPair (m : Mode) (x : Mir) : State :=
  { wSched with dev := { (wHost m).dev with ticks := 10 ^ 10 }, scheme := some { hdr := [], trailer := [], secs := [⟨11, 0, [wPairRec]⟩] }, mir := x, regs := [(R.mirCtl, 3)] }

/-- Link state with both lanes up. -/
def wUp : Mir := { Mir.reset with laneA := ⟨true, 10, 0, 0, []⟩, laneB := ⟨true, 10, 0, 0, []⟩ }

theorem wit_Link : paired (wPair .vigil wUp) = true ∧ isActive (wPair .service wUp) = true ∧ linkUp (wPair .vigil wUp) = true ∧ pairBad (wPair .vigil wUp) = false ∧
    pairFlag (wPair .vigil wUp) 0 = true ∧ flag (wPair .vigil wUp) R.mirCtl 1 = true ∧ wUp.hbAt ≤ now (wPair .vigil wUp) ∧ (tget [] wUp.rxSeq 1).contains 0 = false ∧
    (tget [] ({ wUp with rxSeq := [(1, [0])] } : Mir).rxSeq 1).contains 0 = true ∧
    (lane (wPair .vigil wUp) 0).lastHb + msT ≤ (wPair .vigil wUp).dev.ticks ∧ snapDue (wPair .service wUp) ≠ none ∧ wUp.full = none ∧
    wUp.syncSince.getD 0 + 10 * msT ≤ (wPair .service wUp).dev.ticks ∧ paired (wHost .service) = false := by decide

theorem wit_Resync : now (wPair .service wUp) / msI ≠ 3 ∧ tget? ({ wUp with brs := [(0, ⟨⟨5, 0⟩, [], 0, none, some 0⟩)] } : Mir).brs 0 = some ⟨⟨5, 0⟩, [], 0, none, some 0⟩ ∧
    0 + 200 * usT ≤ (wPair .vigil wUp).dev.ticks ∧ tget? ({ wUp with retry := [(0, 0)] } : Mir).retry 0 = some 0 ∧ 0 + 10 * msT ≤ (wPair .vigil wUp).dev.ticks ∧
    wUp.rxSince = none ∧ (tget? wUp.brs 0).isSome = false := by decide

theorem wit_MirSync : Taken (wPair .service wUp) (wCmd [0xFF, 0xFF]) usedMirSync 1 ∧ Taken (wPair .vigil wUp) (wCmd [0xFF, 0xFF]) usedMirSync 1 ∧ Taken (wPair .safe wUp) (wCmd [0, 0]) usedMirSync 1 ∧
    (bay? (wPair .service wUp) 0).map Bay.runs ≠ some true := ⟨⟨by decide, by decide, by decide⟩, ⟨by decide, by decide, by decide⟩, ⟨by decide, by decide, by decide⟩, by decide⟩

/-- A paired standby with bay 0 running, its channel 0 on AIN 0 at 4,800 S/s, and an own output of AIN 0 aside since tick 0. -/
def wOwed : State :=
  { wPair .vigil { wUp with inUse := true, aside := [(1, [(⟨0, 0, 0, 10 ^ 9⟩, 0)])] } with bays := [(0, wBay 1 (((List.replicate 64 0).set 2 1).set 8 1) wSet)] }

theorem wit_Overdue : wOwed.mir.inUse = true ∧ overdue wOwed = some ⟨0, 0, 0, 10 ^ 9⟩ ∧ overdue (wPair .vigil { wUp with inUse := true }) = none := by decide

/-! `Obligations.RolesMoveBetweenTheUnits` -/

theorem wit_Roles : (wPair .vigil { wUp with lastHb := some 0, lastBcn := some 0 }).dev.since + 3 * msI < now (wPair .vigil wUp) ∧ (0 : Nat) + 3 * msT < (wPair .vigil wUp).dev.ticks ∧
    (10 ^ 10 : Nat) ≤ (10 ^ 10 - 3 * msT) + 3 * msT ∧ isUnitB (wPair .vigil wUp) = true ∧ isUnitB (wHost .vigil) = false ∧ quietNow (wPair .service wUp) = true ∧
    quietNow (wPair .service { wUp with one := [(0, [1])] }) = false ∧ (0 : Inst) ≤ now (wPair .vigil wUp) ∧ now (wPair .vigil wUp) < 6 * secI ∧
    isUnitB { wPair .vigil wUp with scheme := some { hdr := [], trailer := [], secs := [⟨11, 0, [[1, 0, 0, 0, 0, 1, 0, 0, 5, 0, 0, 0]]⟩] } } = false ∧
    paired { wPair .vigil wUp with scheme := some { hdr := [], trailer := [], secs := [⟨11, 0, [[1, 0, 0, 0, 0, 1, 0, 0, 5, 0, 0, 0]]⟩] } } = true ∧
    flag { wPair .vigil wUp with regs := [(R.mirCfg, 2 ^ 31)] } R.mirCfg 31 = true := by decide

theorem wit_MirRole : Taken (wPair .service { wUp with pstate := 3 }) (wCmd [1, 0]) usedMirRole 1 ∧ Taken (wPair .vigil { wUp with pstate := 3 }) (wCmd [0, 1]) usedMirRole 1 ∧
    Taken (wPair .safe wUp) (wCmd [0, 0]) usedMirRole 1 ∧ Taken (wPair .service wUp) (wCmd [2, 0]) usedMirRole 1 ∧ Taken (wPair .service wUp) (wCmd [3, 0]) usedMirRole 1 :=
  ⟨⟨by decide, by decide, by decide⟩, ⟨by decide, by decide, by decide⟩, ⟨by decide, by decide, by decide⟩, ⟨by decide, by decide, by decide⟩, ⟨by decide, by decide, by decide⟩⟩

/-! `Obligations.PortsSwitchAndSupervise` -/

/-- A port whose link is up at a speed, with a frame heard at a tick. -/
def wPort (up : Bool) (lastRx : Nat) : Port := { Port.down with up := up, speed := 2, lastRx := lastRx, got := up }

/-- The test state with ports and Belfry's registers, at tick 10^10. -/
def wBel (ports : Tab Port) (regs : Tab Word) : State :=
  { wSched with dev := { (wHost .service).dev with ticks := 10 ^ 10 }, bel := { Bel.reset with ports := ports }, regs := regs }

theorem wit_Ports : speedOk (fld (wBel [] [(R.belPCfg 4, 0x30000000)]) (R.belPCfg 4) 31 28) 2 = true ∧ speedOk (fld (wBel [] []) (R.belPCfg 4) 31 28) 2 = false ∧
    (port (wBel [(0, wPort true 0)] []) 0).up = true ∧ (port (wBel [(0, wPort true 0)] []) 1).up = false ∧ isDying (wBel [] []) = false ∧
    vlanEntry (wBel [(0, wPort true 0)] []) 5 = none ∧ vlanEntry (wBel [] []) 1 = some (2 ^ 31 + 0x3F * 2 ^ 25 + 0x7F * 2 ^ 18 + 1) ∧
    lanBad (wBel [(1, wPort true (10 ^ 10))] [(R.belPairMode, 1)]) 0 = true ∧ pairMode (wBel [] [(R.belPairMode, 1)]) (2 * 0) = 1 ∧
    heard (wBel [(0, wPort true (10 ^ 10)), (1, wPort true (10 ^ 10))] [(R.belPairMode, 1), (R.belStat, 4)]) (2 * 0) = true ∧
    heard (wBel [(0, wPort true (10 ^ 10)), (1, wPort true (10 ^ 10))] [(R.belPairMode, 1), (R.belStat, 4)]) (2 * 0 + 1) = true ∧ sends (wBel [] []) = true ∧
    (wBel [] []).bel.supAt + 2 * secT ≤ (wBel [] []).dev.ticks ∧ (0 : Nat) < 10 ^ 10 + 2 * secT := by decide

/-! `Obligations.BelfryFramesAndGoose` -/

/-- A GOOSE section of one publication, block 7, and one subscription, number 3. -/
def wGoose : Scheme :=
  { hdr := [], trailer := [], secs := [⟨8, 0, [[0, 0, 7, 0, 0, 0] ++ List.replicate 218 0, [1, 0, 3, 0] ++ List.replicate 14 0 ++ [1] ++ List.replicate 200 0]⟩] }

/-- A frame that matches subscription 3. -/
def wGooseRx (st sq : Nat) : GooseFrame :=
  { port := 0, dst := 0, src := 0, red := none, appid := 0, gocbRef := [], goId := none, tal := 1000, st := st, sq := sq, sim := false, test := false, confRev := 0, ndsCom := false, entries := 0,
    vals := [], wellFormed := true }

/-- The test state with the GOOSE section and publications on. -/
def wGo (m : Mode) (subs : Tab GoSub) (pubs : Tab GoPub) : State :=
  { wSched with dev := (wHost m).dev, scheme := some wGoose, regs := [(R.belCtl, 3)], bel := { Bel.reset with subs := subs, pubs := pubs } }

theorem wit_Belfry : sends wSched = true ∧ now wSched / msI ≠ wSched.bel.bcnAt ∧ bfDmac wSched = 0 ∧ bfDmac { wSched with regs := [(R.belBfDmacLo, 1)] } ≠ 0 ∧
    sends (wHost .boot) = false ∧ belCrcOk [] = false ∧ (wHost .service).dev.mode ≠ .boot := by decide

theorem wit_BelfryCrc : belCrcOk (belPayload wSched 2 (leBytes 4 5)) = true ∧ field (belPayload wSched 2 (leBytes 4 5)) 0 1 = 1 ∧ field (belPayload wSched 2 (leBytes 4 5)) 2 2 = 48 ∧
    field (belPayload wSched 2 (leBytes 4 5)) 4 4 = regGet wSched R.belPairId ∧ field (belPayload wSched 2 (leBytes 4 5)) 8 4 % 2 ^ 20 ≠ wSched.otp.unitId % 2 ^ 20 := by decide +kernel

theorem wit_Subscription : ((subRecs (wGo .service [] [])).filter (fun r => subMatch r (wGooseRx 1 0))).length = 1 ∧ flag (wGo .service [] []) R.belCtl 1 = true ∧
    (goSub (wGo .service [] []) 3).frames = [] ∧ (goSub (wGo .service [] []) 3).valid = false := by decide +kernel

theorem wit_GooseStops : (ddLookup { wGo .service [] [] with svi := { (wGo .service [] []).svi with dd01 := [⟨0, 4, 0⟩] } } false 0 4).2 = true ∧
    pairMode { wGo .service [] [] with regs := [(R.belCtl, 3), (R.belPairMode, 1)] } 0 ≠ 0 ∧ (goPub (wGo .service [] []) 7).first = true ∧ (goPub (wGo .service [] []) 7).full = [] := by decide

theorem wit_TestPublish : Taken (wGo .test [] []) (wCmd [7, 0]) usedBelTestPublish 1 ∧ Taken (wGo .service [] []) (wCmd [7, 0]) usedBelTestPublish 1 :=
  ⟨⟨by decide, by decide, by decide⟩, ⟨by decide, by decide, by decide⟩⟩

theorem wit_TestPublish_block : ((pubRecs (wGo .test [] [])).find? (fun x => field x 2 2 = 7)).isSome = true ∧ (pubRecs (wGo .test [] [])).find? (fun x => field x 2 2 = 8) = none := by decide +kernel

/-! `Obligations.EveryStepKeepsInv` -/

theorem wit_Inv : Inv State.reset ∧ ∃ t, step State.reset = .next t :=
  ⟨⟨by decide, by decide, by decide, by decide, by unfold rateOk; decide, by unfold rateOk; decide, (fun p hp => by cases hp), by decide⟩, ⟨_, rfl⟩⟩

/-! `Obligations.NoStepForgetsKeysOrTokens` -/

theorem wit_Lasting : ∃ t, step { State.reset with pending := [.macAgeOut] } = .next t := ⟨_, rfl⟩

end Sys2Proof.Machine
end

namespace Sys2Proof.Machine

/-! ### What every step keeps: `Obligations.EveryStepKeepsInv` and `Obligations.NoStepForgetsKeysOrTokens` -/

/-- Every command answers a next state that the relation of `Kept` reaches: one arm per constructor, as the dispatch has them. -/
theorem exec_kept {o s : State} (c : Instr) (h : Kept o s) : KeptOut o (exec c s) :=
  match c with
  | .nop _ => execNop_kept h
  | .identify _ => execIdentify_kept h
  | .modeSet _ => execModeSet_kept h
  | .ringCreate _ => execRingCreate_kept h
  | .ringDestroy _ => execRingDestroy_kept h
  | .imageLoad _ => execImageLoad_kept h
  | .imageCommit _ => execImageCommit_kept h
  | .attest _ => execAttest_kept h
  | .debugUnlock _ => execDebugUnlock_kept h
  | .timeRestep _ => execTimeRestep_kept h
  | .schedAdd _ => execSchedAdd_kept h
  | .schedCancel _ => execSchedCancel_kept h
  | .afeSnap _ => execAfeSnap_kept h
  | .afeCal _ => execAfeCal_kept h
  | .bayStart _ => execBayStart_kept h
  | .bayStop _ => execBayStop_kept h
  | .groupSelect _ => execGroupSelect_kept h
  | .bayStateRead _ => execBayStateRead_kept h
  | .targetReset _ => execTargetReset_kept h
  | .cellSplit _ => execCellSplit_kept h
  | .cellJoin _ => execCellJoin_kept h
  | .cellMigrate _ => execCellMigrate_kept h
  | .selftest _ => execSelftest_kept h
  | .recForce _ => execRecForce_kept h
  | .recFetch _ => execRecFetch_kept h
  | .recRelease _ => execRecRelease_kept h
  | .histSnapshot _ => execHistSnapshot_kept h
  | .mirRole _ => execMirRole_kept h
  | .mirSync _ => execMirSync_kept h
  | .metIntervalPost _ => execMetIntervalPost_kept h
  | .metRead _ => execMetRead_kept h
  | .belTestPublish _ => execBelTestPublish_kept h
  | .cmdDoorbell _ _ => execCmdDoorbell_kept h
  | .headDoorbell _ _ => execHeadDoorbell_kept h
  | .commandFetch _ => execCommandFetch_kept h
  | .dmaCompletionTimeout _ => execDmaCompletionTimeout_kept h
  | .msixModerationExpiry _ => execMsixModerationExpiry_kept h
  | .msixVectorUnmask _ => execMsixVectorUnmask_kept h
  | .dportRead _ _ => execDportRead_kept h
  | .dportWrite _ _ => execDportWrite_kept h
  | .dportUnderrun _ => execDportUnderrun_kept h
  | .dpcAddrWrite _ _ => execDpcAddrWrite_kept h
  | .registerWrite _ _ _ => execRegisterWrite_kept h
  | .almPreset => execAlmPreset_kept h
  | .almSnap => execAlmSnap_kept h
  | .rotNow => execRotNow_kept h
  | .fltSyncReset _ => execFltSyncReset_kept h
  | .fltSwapRequest _ _ _ => execFltSwapRequest_kept h
  | .adminEn => execAdminEn_kept h
  | .adminReset => execAdminReset_kept h
  | .cupRearm _ => execCupRearm_kept h
  | .lksDbgAttach _ => execLksDbgAttach_kept h
  | .lksDbgDetach => execLksDbgDetach_kept h
  | .otpProgGo => execOtpProgGo_kept h
  | .otpProgDone _ => execOtpProgDone_kept h
  | .dtoEnWrite _ => execDtoEnWrite_kept h
  | .dtoEnEffect => execDtoEnEffect_kept h
  | .afeCfgEffect => execAfeCfgEffect_kept h
  | .fastPathStop => execFastPathStop_kept h
  | .powerGood => execPowerGood_kept h
  | .bootStageVerified _ _ => execBootStageVerified_kept h
  | .dramTrainingDone _ _ => execDramTrainingDone_kept h
  | .resetNAssert => execResetNAssert_kept h
  | .pwrFailAssert => execPwrFailAssert_kept h
  | .protHoldEnd => execProtHoldEnd_kept h
  | .dyingBlockWritten _ _ => execDyingBlockWritten_kept h
  | .pwrFailRelease => execPwrFailRelease_kept h
  | .railFault _ => execRailFault_kept h
  | .pllLockLoss => execPllLockLoss_kept h
  | .d2dFailure => execD2dFailure_kept h
  | .thermalSafe _ _ => execThermalSafe_kept h
  | .thermalShutdown _ _ => execThermalShutdown_kept h
  | .thermalShutdownRelease _ => execThermalShutdownRelease_kept h
  | .thermalThrottle _ _ => execThermalThrottle_kept h
  | .thermalRelease _ => execThermalRelease_kept h
  | .dramCeHigh _ => execDramCeHigh_kept h
  | .dramCeHourEnd _ => execDramCeHourEnd_kept h
  | .pcieFlr => execPcieFlr_kept h
  | .perstAssert _ => execPerstAssert_kept h
  | .almanacStep _ _ _ => execAlmanacStep_kept h
  | .ptpSyncRx _ => execPtpSyncRx_kept h
  | .ptpAnnounceRx _ => execPtpAnnounceRx_kept h
  | .ptpPdelayRx _ => execPtpPdelayRx_kept h
  | .tcEventForward _ _ _ _ => execTcEventForward_kept h
  | .tcFollowUpForward _ _ _ => execTcFollowUpForward_kept h
  | .tcEntryExpiry => execTcEntryExpiry_kept h
  | .ppsInEdge => execPpsInEdge_kept h
  | .irigbFrame _ => execIrigbFrame_kept h
  | .sourceLost _ => execSourceLost_kept h
  | .disputeHoldExpiry => execDisputeHoldExpiry_kept h
  | .restepReady => execRestepReady_kept h
  | .restepLanding => execRestepLanding_kept h
  | .presetLanding => execPresetLanding_kept h
  | .holdoverTraceLoss => execHoldoverTraceLoss_kept h
  | .leapApply => execLeapApply_kept h
  | .ppsOutPulse => execPpsOutPulse_kept h
  | .schedExecute => execSchedExecute_kept h
  | .sampleSyncEdge _ _ => execSampleSyncEdge_kept h
  | .latchedConversionStart => execLatchedConversionStart_kept h
  | .syncLost => execSyncLost_kept h
  | .syncRestored => execSyncRestored_kept h
  | .syncRateCheck => execSyncRateCheck_kept h
  | .conversionComplete _ _ _ _ => execConversionComplete_kept h
  | .snapshotTake => execSnapshotTake_kept h
  | .snapshotResult _ => execSnapshotResult_kept h
  | .displacedConversion _ => execDisplacedConversion_kept h
  | .spareStepDue => execSpareStepDue_kept h
  | .sparePhaseDone _ _ _ _ _ => execSparePhaseDone_kept h
  | .afeCalDone => execAfeCalDone_kept h
  | .refFault _ => execRefFault_kept h
  | .refRestored _ => execRefRestored_kept h
  | .metBoundary _ _ => execMetBoundary_kept h
  | .metNegCrossing _ => execMetNegCrossing_kept h
  | .trkFreeRunBoundary _ _ => execTrkFreeRunBoundary_kept h
  | .metCycleBlock _ => execMetCycleBlock_kept h
  | .metIntervalClose _ => execMetIntervalClose_kept h
  | .postMissing _ => execPostMissing_kept h
  | .filterOutput _ => execFilterOutput_kept h
  | .fadeStart _ _ => execFadeStart_kept h
  | .svFrameRx _ => execSvFrameRx_kept h
  | .svReorderExpiry _ => execSvReorderExpiry_kept h
  | .svDeadlineExpiry _ => execSvDeadlineExpiry_kept h
  | .ddEntryForget => execDdEntryForget_kept h
  | .svPublishFrame _ => execSvPublishFrame_kept h
  | .bayTaskStart _ _ => execBayTaskStart_kept h
  | .taskWatchdog _ => execTaskWatchdog_kept h
  | .earlyWindowClose _ _ => execEarlyWindowClose_kept h
  | .windowClose _ _ => execWindowClose_kept h
  | .resyncCheckDone _ _ _ => execResyncCheckDone_kept h
  | .dtoDemandFall _ => execDtoDemandFall_kept h
  | .dtoFault _ => execDtoFault_kept h
  | .migrationPrecopyDone => execMigrationPrecopyDone_kept h
  | .migrationRedirect => execMigrationRedirect_kept h
  | .rotationStepDue => execRotationStepDue_kept h
  | .logicSelftestDone _ _ _ => execLogicSelftestDone_kept h
  | .eccUncorrectable _ _ _ => execEccUncorrectable_kept h
  | .eccHourEnd => execEccHourEnd_kept h
  | .bridgeUncorrectable _ _ => execBridgeUncorrectable_kept h
  | .modeSetEffect => execModeSetEffect_kept h
  | .imageApply => execImageApply_kept h
  | .bayStartEffect _ => execBayStartEffect_kept h
  | .bayStopEffect _ => execBayStopEffect_kept h
  | .groupSwitchEffect _ => execGroupSwitchEffect_kept h
  | .targetResetEffect _ => execTargetResetEffect_kept h
  | .cellFormChange _ _ => execCellFormChange_kept h
  | .debugAttachEffect _ => execDebugAttachEffect_kept h
  | .binAccept _ _ _ _ => execBinAccept_kept h
  | .binChatterRelease _ _ => execBinChatterRelease_kept h
  | .recordLine _ => execRecordLine_kept h
  | .recordT0Refined _ => execRecordT0Refined_kept h
  | .recordPostEnd _ => execRecordPostEnd_kept h
  | .recordSealed _ => execRecordSealed_kept h
  | .recordTailEnd _ => execRecordTailEnd_kept h
  | .autoTrigger _ => execAutoTrigger_kept h
  | .indexFlashCopy => execIndexFlashCopy_kept h
  | .ethFrameRx _ _ _ => execEthFrameRx_kept h
  | .belfryFrameRx _ => execBelfryFrameRx_kept h
  | .gooseFrameRx _ => execGooseFrameRx_kept h
  | .gooseTalExpiry _ => execGooseTalExpiry_kept h
  | .gooseRetransmit _ => execGooseRetransmit_kept h
  | .beaconSend => execBeaconSend_kept h
  | .linkStateChange _ _ _ => execLinkStateChange_kept h
  | .lanFaultTimeout _ => execLanFaultTimeout_kept h
  | .prpSupervisionSend => execPrpSupervisionSend_kept h
  | .macAgeOut => execMacAgeOut_kept h
  | .heartbeatSend => execHeartbeatSend_kept h
  | .heartbeatRx _ _ => execHeartbeatRx_kept h
  | .samplesRx _ _ => execSamplesRx_kept h
  | .mirrorDeadline => execMirrorDeadline_kept h
  | .eventRx _ _ => execEventRx_kept h
  | .snapshotSend => execSnapshotSend_kept h
  | .snapshotPartRx _ _ _ _ => execSnapshotPartRx_kept h
  | .snapshotTimeout => execSnapshotTimeout_kept h
  | .laneDownTimeout _ => execLaneDownTimeout_kept h
  | .fullResyncStart => execFullResyncStart_kept h
  | .bayResyncStep => execBayResyncStep_kept h
  | .baystateRx _ _ _ _ _ => execBaystateRx_kept h
  | .bayResyncTimeout _ => execBayResyncTimeout_kept h
  | .partnerLoss => execPartnerLoss_kept h
  | .takeoverEffect => execTakeoverEffect_kept h
  | .revertHoldoffExpiry => execRevertHoldoffExpiry_kept h
  | .quietInstant => execQuietInstant_kept h
  | .handoverEffect => execHandoverEffect_kept h
  | .contentionEffect => execContentionEffect_kept h
  | .logCheckpoint => execLogCheckpoint_kept h
  | .svtEntryTimeout => execSvtEntryTimeout_kept h
  | .tokenLockExpiry => execTokenLockExpiry_kept h
  | .debugGrantExpiry => execDebugGrantExpiry_kept h
  | .challengeExpiry => execChallengeExpiry_kept h
  | .ptpIntervalSend _ _ => execPtpIntervalSend_kept h
  | .scrubCorrected _ _ => execScrubCorrected_kept h
  | .imageLoadDone _ => execImageLoadDone_kept h
  | .selftestDone _ _ => execSelftestDone_kept h
  | .recFetchDone => execRecFetchDone_kept h
  | .thermalMarginClear => execThermalMarginClear_kept h
  | .handoverTimeout => execHandoverTimeout_kept h
  | .mirRoleQuietTimeout => execMirRoleQuietTimeout_kept h
  | .mirFrameTimeout _ => execMirFrameTimeout_kept h
  | .bayResyncRetry _ => execBayResyncRetry_kept h
  | .pcieLinkUp => execPcieLinkUp_kept h
  | .pciePowerStateChange _ => execPciePowerStateChange_kept h

/-- A step keeps the relation from the state before it without the command that it takes off the queue. -/
theorem step_kept (s : State) : KeptOut { s with pending := s.pending.tail } (step s) := by
  unfold step
  split
  · next hq =>
    have hs : { s with pending := s.pending.tail } = s := by rw [hq, List.tail_nil, ← hq]
    rw [hs]
    exact (clockTick_kept (Kept.rfl' s)).next
  · next c rest hq =>
    rw [hq]
    exact exec_kept c (Kept.rfl' _)

/-- What the relation of a step says of the state before it, whose queue neither the invariant nor the lasting facts read. -/
theorem step_lasts_and_inv {s t : State} (h : step s = .next t) : Lasting s t ∧ (Inv s → Inv t) := by
  obtain ⟨t', ht, hk⟩ := step_kept s
  cases ht.symm.trans h
  exact ⟨⟨hk.lasts.part, hk.lasts.serial, hk.lasts.revoked⟩, fun i => hk.inv ⟨i.mem, i.regs, i.ns, i.frac, i.inc, i.incBase, i.hist, i.held⟩⟩

/-- Settles O58: the invariant's half of what a step keeps. -/
theorem everyStepKeepsInv : Obligations.EveryStepKeepsInv := fun _ _ hi hs => (step_lasts_and_inv hs).2 hi

/-- Settles O59: the lasting facts' half of what a step keeps. -/
theorem noStepForgetsKeysOrTokens : Obligations.NoStepForgetsKeysOrTokens := fun _ _ hs => (step_lasts_and_inv hs).1

/-! ### Field values and words -/

theorem bitsOf_lt (v hi lo : Nat) : bitsOf v hi lo < 2 ^ (hi + 1 - lo) := Nat.mod_lt _ (by positivity)

/-- A field whose stated range is its whole width admits every value that a word gives it. -/
theorem Fld.admits_get (f : Fld) (v : Nat) (hl : f.least = 0) (hm : 2 ^ (f.hi + 1 - f.lo) ≤ f.most + 1) : f.admits (f.get v) = true := by
  have h := bitsOf_lt v f.hi f.lo
  simp only [Fld.admits, Fld.get, hl, Nat.zero_le, decide_true, Bool.true_and]
  exact decide_eq_true (by omega)

/-- Storing the word that a register holds changes no register. -/
theorem regGet_regSet_same (s : State) (a x : Nat) : regGet (regSet s a (regGet s a)) x = regGet s x := by
  rw [regGet_regSet]
  split
  · next h => rw [h, Nat.mod_eq_of_lt (regGet_lt s a)]
  · rfl

/-- A sealed write moves no register but the counters of its event and of its log entry. -/
theorem sealedWrite_regs (s : State) (a x : Nat) (inner : Bool) (he : x ∉ evtRegs) (hl : x ∉ [R.hifLogDrop]) :
    regGet (sealedWrite s a inner) x = regGet s x := by
  refine (appendLog_regs _ _ _ _ _ x hl).trans ?_
  split
  · exact raise_regs _ _ _ _ _ _ _ x he
  · exact raise_regs _ _ _ _ _ _ _ x he

/-! ### REGISTER_WRITE -/

theorem registerWrite_unreached {s : State} (addr data be : Nat) (hr : hostReach s = false) : exec (.registerWrite addr data be) s = .next s := by
  show execRegisterWrite addr data be s = _
  simp [execRegisterWrite, hr]

theorem registerWrite_bad {s : State} {addr data be : Nat} (hr : hostReach s = true)
    (hb : be ≠ 15 ∨ addr % 4 ≠ 0 ∨ 2 ^ 16 ≤ addr ∨ regAt addr = none) : exec (.registerWrite addr data be) s = .next (bump s R.hifBadAccess) := by
  show execRegisterWrite addr data be s = _
  simp only [execRegisterWrite, hr, Option.isNone_iff_eq_none, Bool.not_true, Bool.false_eq_true, if_false, if_pos hb]

theorem registerWrite_named {s : State} {addr data : Nat} {d : RegDesc} (hr : hostReach s = true) (ha : addr % 4 = 0) (hw : addr < 2 ^ 16)
    (hd : regAt addr = some d) : exec (.registerWrite addr data 15) s = .next (setupWrite s addr (data % 2 ^ 32)) := by
  have hb : ¬((15 : Nat) ≠ 15 ∨ addr % 4 ≠ 0 ∨ 2 ^ 16 ≤ addr ∨ (regAt addr).isNone = true) := by simp [ha, hd]; omega
  show execRegisterWrite addr data 15 s = _
  simp only [execRegisterWrite, hr, Bool.not_true, Bool.false_eq_true, if_false, if_neg hb]

/-! ### Registers whose write is a store -/

/-- A register whose write is the store of a word and no more: no row of its own, no window, no check and no effect beside the access codes of its fields. -/
structure StoreOnly (a : Nat) : Prop where
  aligned : a % 4 = 0
  inside : a < 2 ^ 16
  row : ∀ s v, setupWrite s a v = (regWrite true s a v).1
  flt : ¬ (0x1800 ≤ a ∧ a < 0x2000 ∧ a % 0x40 = 0)
  tap : ¬ (0x1030 ≤ a ∧ a ≤ 0x103C)
  shown : ∀ s, shownWord s a = regGet s a
  store : ∀ s w, storeWord s a w = regSet s a w
  rule : ∀ s w, ruleRefuses true s a w = false
  taken : ∀ s w, devIgnores s a w = false
  act : ∀ s old w v, regAct true s a old w v = s

theorem storeOnly_of_mem {a : Nat} (h : a ∈ [R.devScratch, R.hifRingSel, R.devId, R.pwrDramCfg]) : StoreOnly a := by
  simp only [List.mem_cons, List.not_mem_nil, or_false] at h
  rcases h with rfl | rfl | rfl | rfl <;>
    exact ⟨by decide, by decide, fun _ _ => rfl, by decide, by decide, fun _ => rfl, fun _ _ => rfl, fun _ _ => rfl, fun _ _ => rfl, fun _ _ _ _ => rfl⟩

/-- Whether a write would change an RWS field while the seal holds (R567). -/
def sealShuts (s : State) (d : RegDesc) (a v : Nat) : Bool := isSealed s && changesRws d.flds (regGet s a) v

/-- A write of such a register within its fields' ranges stores the written word, after the SEALED event and its log entry where the seal shuts. -/
theorem registerWrite_storeOnly {s : State} {a data : Nat} {d : RegDesc} (hs : StoreOnly a) (hd : regAt a = some d) (hr : hostReach s = true)
    (hv : inRanges d.flds (sealShuts s d a (data % 2 ^ 32)) (data % 2 ^ 32) = true) :
    exec (.registerWrite a data 15) s = .next (regSet (if sealShuts s d a (data % 2 ^ 32) then sealedWrite s a false else s) a
      (writtenWord d.flds (sealShuts s d a (data % 2 ^ 32)) (regGet s a) (data % 2 ^ 32))) := by
  rw [registerWrite_named hr hs.aligned hs.inside hd, hs.row, regWrite, hd]
  rw [sealShuts] at hv ⊢
  simp only [hs.flt, hs.tap, hs.shown, hs.store, hs.rule, hs.taken, hs.act, hv, Bool.true_and, Bool.not_true, Bool.or_self, Bool.false_eq_true, if_false]

/-- Where no field is sealed and the fields take every value of their widths, the write stores the written word and does no more. -/
theorem registerWrite_unsealed {s : State} {a : Nat} {d : RegDesc} (data : Nat) (hs : StoreOnly a) (hd : regAt a = some d) (hr : hostReach s = true)
    (hf : ∀ f ∈ d.flds, f.acc ≠ .rws ∧ f.least = 0 ∧ 2 ^ (f.hi + 1 - f.lo) ≤ f.most + 1) :
    exec (.registerWrite a data 15) s = .next (regSet s a (writtenWord d.flds false (regGet s a) (data % 2 ^ 32))) := by
  have hc : ∀ v, changesRws d.flds (regGet s a) v = false := fun v =>
    List.any_eq_false.mpr fun f hm => by simp [(hf f hm).1]
  have hv : inRanges d.flds false (data % 2 ^ 32) = true :=
    List.all_eq_true.mpr fun f hm => by simp [f.admits_get _ (hf f hm).2.1 (hf f hm).2.2]
  have h := registerWrite_storeOnly (data := data) hs hd hr
  simp only [sealShuts, hc, Bool.and_false, Bool.false_eq_true, if_false] at h
  exact h hv

theorem writtenWord_shut {flds : List Fld} (hf : ∀ f ∈ flds, f.acc = .rws) (old v : Nat) : writtenWord flds true old v = old := by
  unfold writtenWord
  induction flds with
  | nil => rfl
  | cons f fs ih =>
    rw [List.foldl_cons, hf f List.mem_cons_self]
    exact ih fun g hg => hf g (List.mem_cons_of_mem f hg)

/-- Where every field is sealed and the write would change one, the SEALED event and its log entry are all that it does: the word stored is the old one. -/
theorem registerWrite_sealed {s : State} {a data : Nat} {d : RegDesc} (hs : StoreOnly a) (hd : regAt a = some d) (hr : hostReach s = true)
    (hf : ∀ f ∈ d.flds, f.acc = .rws) (hc : sealShuts s d a (data % 2 ^ 32) = true) :
    exec (.registerWrite a data 15) s = .next (regSet (sealedWrite s a false) a (regGet s a)) := by
  have hv : inRanges d.flds true (data % 2 ^ 32) = true := List.all_eq_true.mpr fun f hm => by simp [hf f hm]
  have h := registerWrite_storeOnly (data := data) hs hd hr
  rw [hc, if_pos rfl, writtenWord_shut hf] at h
  exact h hv

/-! The rows of the register table for the four registers (R579). -/

theorem regAt_devScratch : regAt R.devScratch = some ⟨"DEV_SCRATCH", 0x001C, 0x4, 1, [⟨31, 0, .rw, 0, 0, 4294967295⟩]⟩ := by decide +kernel
theorem regAt_hifRingSel : regAt R.hifRingSel = some ⟨"HIF_RING_SEL", 0x5830, 0x4, 1, [⟨6, 0, .rw, 0, 0, 127⟩]⟩ := by decide +kernel
theorem regAt_devId : regAt R.devId = some ⟨"DEV_ID", 0x0000, 0x4, 1, [⟨31, 16, .ro, 0, 0, 65535⟩, ⟨15, 0, .ro, 0, 0, 65535⟩]⟩ := by decide +kernel
theorem regAt_pwrDramCfg : regAt R.pwrDramCfg = some ⟨"PWR_DRAM_CFG", 0x0414, 0x4, 1, [⟨7, 0, .rws, 16, 1, 255⟩]⟩ := by decide +kernel

/-! ### The clauses of `Obligations.BadRegisterWritesAreCounted` -/

theorem registerWrite_devScratch {s : State} (data : Nat) (hr : hostReach s = true) :
    exec (.registerWrite R.devScratch data 15) s = .next (regSet s R.devScratch (data % 2 ^ 32)) := by
  have hw : writtenWord [⟨31, 0, .rw, 0, 0, 4294967295⟩] false (regGet s R.devScratch) (data % 2 ^ 32) = data % 2 ^ 32 := by
    have hlt := regGet_lt s R.devScratch
    show Fld.put _ _ _ = _
    rw [Fld.put_eq _ _ _ (by decide)]
    simp only [Fld.get, bitsOf]
    omega
  rw [registerWrite_unsealed data (storeOnly_of_mem (by decide)) regAt_devScratch hr (by decide), hw]

theorem registerWrite_hifRingSel {s : State} (data : Nat) (hr : hostReach s = true) :
    ∃ t, exec (.registerWrite R.hifRingSel data 15) s = .next t ∧ fld t R.hifRingSel 6 0 = data % 2 ^ 7 ∧ t = { s with regs := t.regs } ∧
      ∀ a, a ≠ R.hifRingSel → regGet t a = regGet s a := by
  refine ⟨_, registerWrite_unsealed data (storeOnly_of_mem (by decide)) regAt_hifRingSel hr (by decide), ?_, rfl, fun a ha => regGet_regSet_ne s ha⟩
  show fld (fldSet s R.hifRingSel 6 0 (bitsOf (data % 2 ^ 32) 6 0)) R.hifRingSel 6 0 = _
  rw [fld_fldSet s (by decide) (by decide)]
  simp only [bitsOf]
  omega

theorem registerWrite_devId {s : State} (data : Nat) (hr : hostReach s = true) :
    ∃ t, exec (.registerWrite R.devId data 15) s = .next t ∧ t = { s with regs := t.regs } ∧ ∀ a, regGet t a = regGet s a :=
  ⟨_, registerWrite_unsealed data (storeOnly_of_mem (by decide)) regAt_devId hr (by decide), rfl, fun a => regGet_regSet_same s _ a⟩

theorem registerWrite_pwrDramCfg {s : State} {data : Nat} (hr : hostReach s = true) (hs : isSealed s = true) (hd : data % 2 ^ 8 ≠ fld s R.pwrDramCfg 7 0) :
    ∃ t u, exec (.registerWrite R.pwrDramCfg data 15) s = .next t ∧ t = { u with regs := t.regs } ∧
      u = appendLog (raise 0x0D01 s (items := [(4, R.pwrDramCfg)])) 4 0 0 R.pwrDramCfg ∧
      (∀ a, regGet t a = regGet u a) ∧ regGet t R.pwrDramCfg = regGet s R.pwrDramCfg := by
  have hc : sealShuts s ⟨"PWR_DRAM_CFG", 0x0414, 0x4, 1, [⟨7, 0, .rws, 16, 1, 255⟩]⟩ R.pwrDramCfg (data % 2 ^ 32) = true := by
    have hb : bitsOf (data % 2 ^ 32) 7 0 = data % 2 ^ 8 := by simp only [bitsOf]; omega
    rw [sealShuts, hs, Bool.true_and]
    exact List.any_eq_true.mpr ⟨_, List.mem_singleton_self _, Bool.and_eq_true_iff.mpr ⟨rfl, decide_eq_true fun h => hd (hb ▸ h.symm)⟩⟩
  have hu : regGet (sealedWrite s R.pwrDramCfg false) R.pwrDramCfg = regGet s R.pwrDramCfg := sealedWrite_regs s _ _ _ (by decide) (by decide)
  refine ⟨_, sealedWrite s R.pwrDramCfg false, registerWrite_sealed (storeOnly_of_mem (by decide)) regAt_pwrDramCfg hr (by decide) hc, rfl, rfl, ?_, ?_⟩
  · rw [← hu]
    exact regGet_regSet_same _ _
  · rw [← hu, regGet_regSet_same, hu]

/-- Settles O14, from one equation per kind of write: not reached, refused, taken as a store, and shut by the seal. -/
theorem badRegisterWritesAreCounted : Obligations.BadRegisterWritesAreCounted := by
  refine ⟨fun s addr data be => registerWrite_unreached addr data be, fun s addr data be hr => ⟨fun hb => ?_, ?_, ?_, ?_, ?_⟩⟩
  · exact ⟨_, registerWrite_bad hr hb, rfl, fun a ha => regGet_bump_ne s ha, regGet_bump s _⟩
  · exact registerWrite_devScratch data hr
  · exact registerWrite_hifRingSel data hr
  · exact registerWrite_devId data hr
  · exact registerWrite_pwrDramCfg hr

end Sys2Proof.Machine

namespace Sys2Proof.Machine

/-! ### Rounded division and the grids of R20 (R30, R42) -/

/-- A quotient rounded to nearest is the floor or one more. -/
theorem rdivN_bounds (n d : Nat) : n / d ≤ rdivN n d ∧ rdivN n d ≤ n / d + 1 := by
  simp only [rdivN]
  split
  · omega
  · split <;> omega

theorem le_rdivN {m n d : Nat} (hd : 0 < d) (h : m * d ≤ n) : m ≤ rdivN n d :=
  ((Nat.le_div_iff_mul_le hd).mpr h).trans (rdivN_bounds n d).1

theorem rdivN_mul (m : Nat) {d : Nat} (hd : 0 < d) : rdivN (m * d) d = m := by
  simp [rdivN, Nat.mul_div_cancel _ hd, hd]

theorem rdivN_zero {d : Nat} (hd : 0 < d) : rdivN 0 d = 0 := by
  simp [rdivN, hd]

theorem rdivN_mono {m n : Nat} (d : Nat) (h : m ≤ n) : rdivN m d ≤ rdivN n d := by
  rcases (Nat.div_le_div_right (c := d) h).lt_or_eq with hq | hq
  · exact (rdivN_bounds m d).2.trans (hq.trans_le (rdivN_bounds n d).1)
  · have hr : m % d ≤ n % d := by
      have hm := Nat.div_add_mod m d
      have hn := Nat.div_add_mod n d
      rw [hq] at hm
      omega
    simp only [rdivN, hq]
    split_ifs <;> omega

/-- A grid instant whose successor lies at or before `x` lies before `x`: a step of the grid is longer than the unit of time, so rounding joins no two. -/
theorem rdivN_lt_of_next_le {rate k x : Nat} (h0 : 0 < rate) (hr : rate ≤ secI) (h : (k + 1) * secI ≤ x * rate) : rdivN (k * secI) rate < x := by
  have hx : 1 ≤ x := by
    rcases Nat.eq_zero_or_pos x with rfl | hx
    · simp [secI] at h
    · exact hx
  have hk : k * secI ≤ (x - 1) * rate := by
    rw [Nat.sub_mul, one_mul]
    rw [Nat.add_mul, one_mul] at h
    omega
  calc rdivN (k * secI) rate ≤ rdivN ((x - 1) * rate) rate := rdivN_mono rate hk
    _ = x - 1 := rdivN_mul _ h0
    _ < x := by omega

theorem gridInst_mono (rate sec : Nat) {j k : Nat} (h : j ≤ k) : gridInst rate sec j ≤ gridInst rate sec k :=
  Nat.add_le_add_left (rdivN_mono rate (Nat.mul_le_mul_right _ h)) _

theorem gridInst_zero {rate : Nat} (h0 : 0 < rate) (sec : Nat) : gridInst rate sec 0 = sec * secI := by
  rw [gridInst, Nat.zero_mul, rdivN_zero h0, Nat.add_zero]

/-- The grid's instant number `rate` of a second is the top of the next. -/
theorem gridInst_rate {rate : Nat} (h0 : 0 < rate) (sec : Nat) : gridInst rate sec rate = gridInst rate (sec + 1) 0 := by
  rw [gridInst_zero h0, gridInst, mul_comm rate, rdivN_mul _ h0, Nat.add_mul, one_mul]

/-- Every grid instant of a second lies before the next second. -/
theorem gridInst_lt_next {rate k : Nat} (hr : rate ≤ secI) (hk : k < rate) (sec : Nat) : gridInst rate sec k < (sec + 1) * secI := by
  have h : rdivN (k * secI) rate < secI :=
    rdivN_lt_of_next_le (Nat.zero_lt_of_lt hk) hr (by rw [mul_comm secI]; exact Nat.mul_le_mul_right _ hk)
  rw [gridInst, Nat.add_mul, one_mul]
  exact Nat.add_lt_add_left h _

/-- The number of the first grid instant at or after `t`, counted from the second of `t`: `rate` where it is the top of the next second. -/
def gridIdx (rate : Nat) (t : Nat) : Nat :=
  if t ≤ gridInst rate (t / secI) ((t % secI) * rate / secI) then (t % secI) * rate / secI else (t % secI) * rate / secI + 1

theorem gridIdx_le {rate : Nat} (h0 : 0 < rate) (t : Nat) : gridIdx rate t ≤ rate := by
  have h : (t % secI) * rate / secI < rate :=
    Nat.div_lt_of_lt_mul (Nat.mul_lt_mul_of_pos_right (Nat.mod_lt t (by decide)) h0)
  rw [gridIdx]
  split <;> omega

/-- `gridAt` carries the number `rate` into the next second. -/
theorem gridAt_eq (rate t : Nat) : gridAt rate t = if gridIdx rate t < rate then (t / secI, gridIdx rate t) else (t / secI + 1, 0) := by
  rfl

/-- The instant that `firstGrid` gives, by its number. -/
theorem firstGrid_eq {rate : Nat} (h0 : 0 < rate) (t : Nat) : firstGrid rate t = gridInst rate (t / secI) (gridIdx rate t) := by
  rw [firstGrid, gridAt_eq]
  split
  · rfl
  · next h => rw [Nat.le_antisymm (gridIdx_le h0 t) (Nat.le_of_not_lt h), gridInst_rate h0]

theorem firstGrid_mem {rate : Nat} (h0 : 0 < rate) (t : Nat) : ∃ sec k, k < rate ∧ firstGrid rate t = gridInst rate sec k := by
  rw [firstGrid_eq h0]
  rcases (gridIdx_le h0 t).lt_or_eq with h | h
  · exact ⟨_, _, h, rfl⟩
  · exact ⟨_, 0, h0, by rw [h, gridInst_rate h0]⟩

theorem le_firstGrid {rate : Nat} (h0 : 0 < rate) (t : Nat) : t ≤ firstGrid rate t := by
  rw [firstGrid_eq h0, gridIdx]
  split
  · assumption
  · have hk : t % secI ≤ rdivN ((t % secI * rate / secI + 1) * secI) rate :=
      le_rdivN h0 (by rw [Nat.add_mul, one_mul]; exact (Nat.lt_div_mul_add (show 0 < secI by decide)).le)
    have ht := Nat.div_add_mod' t secI
    rw [gridInst]
    omega

/-- No grid instant at or after `t` lies before the one of that number. -/
theorem firstGrid_le {rate : Nat} (h0 : 0 < rate) (hr : rate ≤ secI) {t : Nat} {sec k : Nat} (hk : k < rate) (ht : t ≤ gridInst rate sec k) :
    firstGrid rate t ≤ gridInst rate sec k := by
  rw [firstGrid_eq h0]
  have hdiv := Nat.div_add_mod t secI
  rcases Nat.lt_trichotomy sec (t / secI) with hs | rfl | hs
  · have h1 := gridInst_lt_next hr hk sec
    have h2 : (sec + 1) * secI ≤ t := (Nat.mul_le_mul_right _ hs).trans (Nat.div_mul_le_self t secI)
    exact absurd (h1.trans_le (h2.trans ht)) (lt_irrefl _)
  · refine gridInst_mono rate _ ?_
    rw [gridIdx]
    split
    · by_contra hlt
      have h1 : rdivN (k * secI) rate < t % secI :=
        rdivN_lt_of_next_le h0 hr ((Nat.mul_le_mul_right _ (Nat.lt_of_not_le hlt)).trans (Nat.div_mul_le_self _ _))
      rw [gridInst, mul_comm] at ht
      omega
    · next hlate =>
      by_contra hlt
      exact hlate (ht.trans (gridInst_mono rate _ (by omega)))
  · calc gridInst rate (t / secI) (gridIdx rate t) ≤ gridInst rate (t / secI) rate := gridInst_mono rate _ (gridIdx_le h0 t)
      _ = (t / secI + 1) * secI := by rw [gridInst_rate h0, gridInst_zero h0]
      _ ≤ sec * secI := Nat.mul_le_mul_right _ hs
      _ ≤ gridInst rate sec k := Nat.le_add_right _ _

/-- Settles O17: the three properties of `firstGrid` at 14,400 S/s. -/
theorem effectInstantIsFirstGridInstant : Obligations.EffectInstantIsFirstGridInstant := fun s =>
  ⟨le_firstGrid (by decide) _, firstGrid_mem (by decide) _, fun _ _ hk ht => firstGrid_le (by decide) (by decide) hk ht⟩

end Sys2Proof.Machine

namespace Sys2Proof.Machine

/-! ### The resets of the host island's ring state: `Obligations.FlrResetsRingStateOnly` -/

/-- The registers of the host island that go back to reset with the rings (R565). -/
abbrev ringRegs : List Nat :=
  [R.hifCtl, R.hifAdminCfg, R.hifAdminCmdLo, R.hifAdminCmdHi, R.hifAdminCplLo, R.hifAdminCplHi, R.hifRingSel, R.dpcAddrLo, R.dpcAddrHi]

/-- The host island without its ring state, HOST_RESET due (R32, R501, R504). -/
def Hif.noRings (h : Hif) : Hif :=
  { h with rings := [], inflight := [], waiting := [], lastServed := 127, doorbells := [], gone := 0, hostResetDue := true }

/-- Registers written one after another change the registers alone. -/
theorem foldl_regSet_rest (f : Nat → Nat) (l : List Nat) (s : State) :
    l.foldl (fun st a => regSet st a (f a)) s = { s with regs := (l.foldl (fun st a => regSet st a (f a)) s).regs } := by
  induction l generalizing s with
  | nil => rfl
  | cons a l ih => exact ih (regSet s a (f a))

theorem foldl_regSet_regs {as l : List Nat} (hl : l ⊆ as) (f : Nat → Nat) (s : State) : RegsBut as s (l.foldl (fun st a => regSet st a (f a)) s) := by
  induction l generalizing s with
  | nil => exact .refl _ s
  | cons a l ih =>
    obtain ⟨ha, hl⟩ := List.cons_subset.mp hl
    exact RegsBut.trans (fun x hx => regGet_regSet_ne s (fun e => hx (e ▸ ha))) (ih hl _)

theorem resetHost_eq (s : State) :
    resetHost s = flagSet (ringRegs.foldl (fun st a => regSet st a (resetWordAt a)) { s with hif := s.hif.noRings }) R.hifStat 1 true := rfl

/-- The reset of the ring state changes the host island and registers alone. -/
theorem resetHost_rest (s : State) : resetHost s = { s with hif := s.hif.noRings, regs := (resetHost s).regs } := by
  rw [resetHost_eq]
  generalize hu : ringRegs.foldl _ _ = u
  rw [foldl_regSet_rest] at hu
  subst hu
  rfl

/-- Only HIF_STAT and the registers that go back to reset read otherwise than before. -/
theorem resetHost_regs (s : State) : RegsBut (ringRegs ++ [R.hifStat]) s (resetHost s) := by
  intro x hx
  rw [List.mem_append, not_or, List.mem_singleton] at hx
  rw [resetHost_eq, regGet_flagSet_ne _ hx.2, foldl_regSet_regs (List.Subset.refl _) _ _ x hx.1]
  rfl

/-- Settles O7: a reset that reaches the part is `resetHost`, one that does not is nothing. -/
theorem flrResetsRingStateOnly : Obligations.FlrResetsRingStateOnly := by
  intro s
  have hrest := resetHost_rest s
  have hregs := resetHost_regs s
  refine ⟨fun hr => ⟨resetHost s, congrArg next (if_pos hr), ?_⟩, fun hr => congrArg next (if_neg (Bool.not_eq_true _ ▸ hr))⟩
  generalize resetHost s = t at hrest hregs
  rw [hrest] at hregs ⊢
  exact ⟨rfl, rfl, rfl, rfl, rfl, rfl, hregs⟩

end Sys2Proof.Machine

namespace Sys2Proof.Machine

/-! ### The boot chain halts: `Obligations.FailedStageHaltsInBoot` -/

/-- What no step of a fold changes, the fold does not change. -/
theorem foldl_keeps {α β : Type} (g : State → β) {f : State → α → State} (hf : ∀ s x, g (f s x) = g s) (l : List α) (s : State) :
    g (l.foldl f s) = g s := by
  induction l generalizing s with
  | nil => rfl
  | cons x l ih => exact (ih (f s x)).trans (hf s x)

theorem bootCal_flash (s : State) : (bootCal s).flash = s.flash := by
  unfold bootCal
  refine foldl_keeps State.flash (fun u n => ?_) _ s
  simp [setTerms]

/-- The chain is under way: in BOOT, neither halted nor done, on a part that runs with PWR_FAIL_N high (R517, R523). -/
structure ChainRuns (s : State) : Prop where
  boot : s.dev.mode = .boot
  going : s.sec.halted = false
  more : s.sec.chainDone = false
  runs : partRuns s = true
  power : s.pwr.failLow = false

theorem bootStageVerified_halted {s : State} (h : s.sec.halted = true) (otpOk flashOk : Bool) : exec (.bootStageVerified otpOk flashOk) s = .next s :=
  congrArg next (if_pos (Or.inr (Or.inl h)))

theorem ChainRuns.stage0 {s : State} (h : ChainRuns s) (hs : s.sec.stage = 0) (otpOk flashOk : Bool) :
    exec (.bootStageVerified otpOk flashOk) s = .next (bootStage1 s otpOk flashOk) := by
  show execBootStageVerified otpOk flashOk s = _
  simp [execBootStageVerified, h.boot, h.going, h.more, h.runs, h.power, hs]

theorem ChainRuns.stage1 {s : State} (h : ChainRuns s) (hs : s.sec.stage = 1) (otpOk flashOk : Bool) :
    exec (.bootStageVerified otpOk flashOk) s = .next (bootLibrary s) := by
  show execBootStageVerified otpOk flashOk s = _
  simp [execBootStageVerified, h.boot, h.going, h.more, h.runs, h.power, hs]

theorem ChainRuns.stage2 {s : State} (h : ChainRuns s) (hs : s.sec.stage = 2) (otpOk flashOk : Bool) :
    exec (.bootStageVerified otpOk flashOk) s = .next (bootScheme s) := by
  show execBootStageVerified otpOk flashOk s = _
  simp [execBootStageVerified, h.boot, h.going, h.more, h.runs, h.power, hs]

theorem ChainRuns.trainingFails {s : State} (h : ChainRuns s) (hs : s.sec.stage ≠ 0) (hd : s.sec.dramDone = false) (eight : Bool) :
    exec (.dramTrainingDone false eight) s = .next (haltChain s 7) := by
  show execDramTrainingDone false eight s = _
  simp [execDramTrainingDone, h.boot, h.going, h.runs, h.power, hs, hd]

/-- A vendor stage without an image that verifies halts with the cause of its selected slot: its rollback or its key (R519, R520). -/
theorem vendorStage_failed {s : State} {kind : Nat} {x : VerErr} (h : pickVendor s kind = .inl x) (keyCause : Nat) (run : Bool → List Byte → State → State) :
    vendorStage s kind keyCause run = haltChain s (if x = .roll then keyCause + 1 else keyCause) := by
  unfold vendorStage
  rw [h]
  cases x <;> simp

/-- OTP sense and the flash come before any image (R517, R520). -/
theorem bootStage1_unread {s : State} {otpOk flashOk : Bool} {c : Nat}
    (h : otpOk = false ∧ c = 1 ∨ otpOk = true ∧ (flashOk = false ∨ s.flash.bcbOk = false) ∧ c = 2) :
    bootStage1 s otpOk flashOk = haltChain (bootCal s) c := by
  simp only [bootStage1, bootCal_flash]
  rcases h with ⟨rfl, rfl⟩ | ⟨rfl, rfl | hf, rfl⟩
  · rfl
  · rfl
  · simp [hf]

theorem bootStage1_read {s : State} (h : s.flash.bcbOk = true) {x : VerErr} (hp : pickVendor (makeIdentity (bootCal s)) 0 = .inl x) :
    bootStage1 s true true = haltChain (makeIdentity (bootCal s)) (if x = .roll then 4 else 3) := by
  simp only [bootStage1, bootCal_flash, h, Bool.not_true, Bool.or_self, Bool.false_eq_true, if_false]
  exact vendorStage_failed hp 3 _

theorem bootScheme_empty {s : State} (hd : s.sec.dramDone = true) (h : s.flash.slot 2 s.flash.schSel = none) : bootScheme s = haltChain s 8 := by
  simp [bootScheme, hd, h]

/-- The halt of a scheme image that fails its key, its rollback, or its shape (R519, R520). -/
def schemeHalt (s : State) : VerErr → State
  | .key => haltChain s 9
  | .roll => haltChain s 10
  | .shape e => haltChain (loadRejected s e) 11

theorem bootScheme_failed {s : State} (hd : s.sec.dramDone = true) {img : List Byte} (h : s.flash.slot 2 s.flash.schSel = some img) {x : VerErr}
    (hx : verifyErr s 2 img = some x) : bootScheme s = schemeHalt s x := by
  cases x <;> simp [bootScheme, hd, h, hx, schemeHalt]

/-- A chain that halts leaves its cause in BOOT with boot_err set, and the link alone. -/
theorem haltChain_state (s : State) (c : Nat) :
    (haltChain s c).dev = { s.dev with bootErr := true } ∧ (haltChain s c).sec = { s.sec with halted := true, cause := c } ∧
      (haltChain s c).hif.linkUp = s.hif.linkUp :=
  ⟨raise_dev .., raise_sec .., (raise_evt ..).linkUp⟩

theorem dtoHeld_boot {s : State} (h : s.dev.mode = .boot) (i : Nat) : dtoHeld s i = true := by
  simp [dtoHeld, h]

/-- Settles O23, stage by stage. -/
theorem failedStageHaltsInBoot : Obligations.FailedStageHaltsInBoot := by
  intro s hm hh hc hr hp
  have chain : ChainRuns s := ⟨hm, hh, hc, hr, hp⟩
  refine ⟨fun o f c hs h => ?_, fun x hs hb hx => ?_, fun o f x hs hx => ?_, fun o f hs hd he => ?_, fun o f img x hs hd hi hx => ?_,
    fun eight hs hd => chain.trainingFails hs hd eight, fun c i => ?_⟩
  · rw [chain.stage0 hs, bootStage1_unread h]
  · rw [chain.stage0 hs, bootStage1_read hb hx]
  · rw [chain.stage1 hs]
    exact congrArg next (vendorStage_failed hx 5 _)
  · rw [chain.stage2 hs, bootScheme_empty hd he]
  · rw [chain.stage2 hs, bootScheme_failed hd hi hx]
    cases x <;> rfl
  · obtain ⟨hdev, hsec, hlink⟩ := haltChain_state s c
    have hboot : (haltChain s c).dev.mode = .boot := by rw [hdev]; exact hm
    have hhalt : (haltChain s c).sec.halted = true := by rw [hsec]
    exact ⟨hboot, by rw [hdev], hhalt, by rw [hsec], ⟨_, rfl⟩, dtoHeld_boot hboot i, hlink, bootStageVerified_halted hhalt⟩

end Sys2Proof.Machine

namespace Sys2Proof.Machine

/-! ### MODE_SET by the checks of R29: `Obligations.ModeSetAnswersByR29` -/

/-- R27 lists no transition to BOOT or VIGIL that MODE_SET may ask for. -/
theorem modeListed_target {cur m : Mode} (h : modeListed cur m = true) : ¬(m = .boot ∨ m = .vigil) := by
  rintro (rfl | rfl) <;> cases cur <;> exact absurd h (by decide)

/-- What keeps an accepted MODE_SET waiting for another: a takeover, a role move, or an earlier MODE_SET (R29). -/
def modeBusy (s : State) : Bool := s.dev.pend.isSome || s.mir.takeover.isSome || s.mir.hand.isSome || s.mir.role.isSome || s.mir.contention.isSome

/-- The token that MODE_SET needs, judged: the state it leaves, and whether the command goes on (R29, R529). -/
def modeToken (s : State) (e : CmdEntry) (m : Mode) : State × Bool := if m = .safe then (s, true) else needToken s e 0x03 m.code

/-- What MODE_SET answers once its token is judged: AUTH_FAIL, BUSY, or the wait for its effect instant (R29, R30). -/
def modeSetGo (m : Mode) (cid : Nat) (r : State × Bool) : CmdOut :=
  if !r.2 then .rejAfter r.1 stAuthFail
  else if modeBusy r.1 then .rejAfter r.1 stBusy
  else .later { r.1 with dev := { r.1.dev with pend := some ⟨m, effectInst r.1, cid⟩ } }

section Own
variable {s : State} {e : CmdEntry} {m : Mode} {cid : Nat} (hm : Mode.ofCode (field e.params 0 1) = some m)
include hm

theorem modeSetOwn_current (h : m = s.dev.mode) : modeSetOwn e cid s = .ok s := by
  simp [modeSetOwn, hm, h]

theorem modeSetOwn_badParam (h : m ≠ s.dev.mode) (hb : m = .boot ∨ m = .vigil) : modeSetOwn e cid s = .rejAfter s stBadParam := by
  simp only [modeSetOwn, hm, if_neg h, if_pos hb, CmdOut.rej_eq]

theorem modeSetOwn_badMode (h : m ≠ s.dev.mode) (hb : ¬(m = .boot ∨ m = .vigil))
    (hl : modeListed s.dev.mode m = false ∨ s.dev.mode = .safe ∧ safePersists s = true) : modeSetOwn e cid s = .rejAfter s stBadMode := by
  have hc : (!modeListed s.dev.mode m) = true ∨ s.dev.mode = .safe ∧ safePersists s = true := by rwa [Bool.not_eq_true']
  simp only [modeSetOwn, hm, if_neg h, if_neg hb, if_pos hc, CmdOut.rej_eq]

/-- A listed transition goes by its token, then by what is pending. -/
theorem modeSetOwn_listed (h : m ≠ s.dev.mode) (hl : modeListed s.dev.mode m = true) (hp : s.dev.mode = .safe → safePersists s = false) :
    modeSetOwn e cid s = modeSetGo m cid (modeToken s e m) := by
  have hc : ¬((!modeListed s.dev.mode m) = true ∨ s.dev.mode = .safe ∧ safePersists s = true) := by
    rintro (hx | ⟨hx, hy⟩)
    · rw [hl] at hx; cases hx
    · rw [hp hx] at hy; cases hy
  simp only [modeSetOwn, hm, if_neg h, if_neg (modeListed_target hl), if_neg hc]
  rfl

end Own

theorem accepted_isSealed (s : State) (op : Nat) (e : CmdEntry) (i : Nat) : isSealed (accepted s op e i) = isSealed s := by
  simp only [isSealed, accepted_dev]

/-- No token is needed for SAFE, nor where the mode does not seal. -/
theorem modeToken_free {s : State} {m : Mode} (h : m = .safe ∨ isSealed s = false) (e : CmdEntry) : modeToken s e m = (s, true) := by
  unfold modeToken
  rcases h with h | h
  · exact if_pos h
  · simp [needToken, h]

theorem modeToken_needed {s : State} {m : Mode} (h : m ≠ .safe) (hs : isSealed s = true) (e : CmdEntry) :
    modeToken s e m = ((takeToken s e 0x03 m.code (fun _ => true)).1, (takeToken s e 0x03 m.code (fun _ => true)).2.isSome) := by
  simp [modeToken, needToken, h, hs]

/-- The state `u` in which a MODE_SET of `s` goes on: accepted, and its token taken where one is needed. -/
theorem modeToken_passed {s u : State} {e : CmdEntry} {i : Nat} {m : Mode}
    (hu : if m = .safe ∨ isSealed s = false then u = accepted s 0x03 e i
      else u = (takeToken (accepted s 0x03 e i) e 0x03 m.code (fun _ => true)).1 ∧ (takeToken (accepted s 0x03 e i) e 0x03 m.code (fun _ => true)).2.isSome) :
    modeToken (accepted s 0x03 e i) e m = (u, true) := by
  split at hu
  · next h => rw [modeToken_free (by rwa [accepted_isSealed]), hu]
  · next h =>
    obtain ⟨hu, ht⟩ := hu
    rw [not_or, Bool.not_eq_false] at h
    rw [modeToken_needed h.1 (by rw [accepted_isSealed]; exact h.2), ← hu, ht]

section Taken
variable {s : State} {e : CmdEntry} {i : Nat} (h : Taken s e usedModeSet i)
include h

theorem modeSet_rejected {u : State} {st : Nat} (hs : st ≠ stOk) (ho : modeSetOwn e s.hif.nextCid (accepted s 0x03 e i) = .rejAfter u st) :
    exec (.modeSet e) s = .next (badCpl s u 0x03 e i st) := congrArg next (submit_rej h hs ho)

theorem modeSet_deferred {u : State} (ho : modeSetOwn e s.hif.nextCid (accepted s 0x03 e i) = .later u) : exec (.modeSet e) s = .next u :=
  congrArg next (submit_later h ho)

end Taken

/-- Settles O16, check by check in the order of R29. -/
theorem modeSetAnswersByR29 : Obligations.ModeSetAnswersByR29 := by
  intro s e i m h hm
  have hdev : (accepted s 0x03 e i).dev = s.dev := accepted_dev ..
  refine ⟨fun hc => ?_, fun hc hb => ?_, fun hc hb hv hl => ?_, fun hc hs hp => ?_, fun hc hl hs hz ht => ?_, fun hc hl hp u hu hb => ?_⟩
  · exact congrArg next (submit_ok h (modeSetOwn_current hm (by rw [hdev]; exact hc)))
  · exact modeSet_rejected h (by decide) (modeSetOwn_badParam hm (by rwa [hdev]) hb)
  · exact modeSet_rejected h (by decide) (modeSetOwn_badMode hm (by rwa [hdev]) (not_or.mpr ⟨hb, hv⟩) (.inl (by rwa [hdev])))
  · subst hc
    exact modeSet_rejected h (by decide) (modeSetOwn_badMode hm (by rw [hdev, hs]; decide) (by decide) (.inr ⟨by rwa [hdev], hp⟩))
  · have hsafe : s.dev.mode ≠ .safe := fun hx => by simp [isSealed, hx] at hz
    refine modeSet_rejected h (by decide) ((modeSetOwn_listed hm (by rwa [hdev]) (by rwa [hdev]) fun hx => absurd (hdev ▸ hx) hsafe).trans ?_)
    rw [modeToken_needed hs (by rwa [accepted_isSealed]), ht]
    rfl
  · refine modeSet_rejected h (by decide) ((modeSetOwn_listed hm (by rwa [hdev]) (by rwa [hdev]) (by rwa [hdev])).trans ?_)
    have hbusy : modeBusy u = true := by simpa [modeBusy, or_assoc] using hb
    rw [modeToken_passed hu]
    simp [modeSetGo, hbusy]

end Sys2Proof.Machine

namespace Sys2Proof.Machine

/-! ### What the operations of bays, groups, records and the pair leave alone -/

/-- `t` is `s` in the device record, but for the count of free values, and in the power state, but for the degraded causes (R2, R25, R556). -/
structure Still (s t : State) : Prop where
  dev : t.dev = { s.dev with free := t.dev.free }
  pwr : t.pwr = { s.pwr with causes := t.pwr.causes, degraded := t.pwr.degraded }

/-- `t` is moreover `s` in the memory health of the clusters and in CFG_ECC_UE (R183, R186): what migrations, spares and rotation leave alone. -/
structure GroupsOnly (s t : State) : Prop extends Still s t where
  clus : t.cfg.clus = s.cfg.clus
  ecc : regGet t R.cfgEccUe = regGet s R.cfgEccUe

section Relations
variable {o s t u : State}

theorem Still.refl (s : State) : Still s s := ⟨rfl, rfl⟩
theorem Still.trans (h : Still o s) (k : Still s t) : Still o t := ⟨by rw [k.dev, h.dev], by rw [k.pwr, h.pwr]⟩
theorem Still.host (h : Still o s) (k : HostOnly s t) : Still o t := h.trans ⟨by rw [k.dev], by rw [k.pwr]⟩

/-- A change, written out, of nothing that the relation looks at. -/
theorem Still.same (h : Still o s) (hs : Still s t := by exact ⟨rfl, rfl⟩) : Still o t := h.trans hs

theorem Still.ite {c : Prop} [Decidable c] (h : Still o s) (k : Still o t) : Still o (if c then s else t) := by
  split
  · exact h
  · exact k

theorem Still.foldl {α : Type} {f : State → α → State} (hf : ∀ s x, Still o s → Still o (f s x)) : ∀ {l : List α} {s : State}, Still o s → Still o (l.foldl f s)
  | [], _, h => h
  | x :: _, s, h => Still.foldl (s := f s x) hf (hf s x h)

theorem GroupsOnly.refl (s : State) : GroupsOnly s s := ⟨.refl s, rfl, rfl⟩
theorem GroupsOnly.trans (h : GroupsOnly o s) (k : GroupsOnly s t) : GroupsOnly o t :=
  ⟨h.toStill.trans k.toStill, k.clus.trans h.clus, k.ecc.trans h.ecc⟩

/-- A change, written out, of nothing that the relation looks at. -/
theorem GroupsOnly.same (h : GroupsOnly o s) (hs : Still s t := by exact ⟨rfl, rfl⟩) (hc : t.cfg.clus = s.cfg.clus := by rfl) (hr : t.regs = s.regs := by rfl) :
    GroupsOnly o t := h.trans ⟨hs, hc, by simp only [regGet, hr]⟩

/-- A host-side operation whose registers do not include CFG_ECC_UE. -/
theorem GroupsOnly.host {as : List Nat} (h : GroupsOnly o s) (k : HostOnly s t) (hr : RegsBut as s t) (ha : R.cfgEccUe ∉ as) : GroupsOnly o t :=
  h.trans ⟨(Still.refl s).host k, congrArg Cfg.clus k.cfg, hr _ ha⟩

theorem GroupsOnly.ite {c : Prop} [Decidable c] (h : GroupsOnly o s) (k : GroupsOnly o t) : GroupsOnly o (if c then s else t) := by
  split
  · exact h
  · exact k

theorem GroupsOnly.foldl {α : Type} {f : State → α → State} (hf : ∀ s x, GroupsOnly o s → GroupsOnly o (f s x)) :
    ∀ {l : List α} {s : State}, GroupsOnly o s → GroupsOnly o (l.foldl f s)
  | [], _, h => h
  | x :: _, s, h => GroupsOnly.foldl (s := f s x) hf (hf s x h)

end Relations

/-! ### Migrations, spares and rotation (R193 to R199) -/

/-- CFG_ECC_UE is none of a row of registers that begins after it. -/
theorem eccUe_ne {a n : Nat} (h : R.cfgEccUe < a) : R.cfgEccUe ≠ a + n := Nat.ne_of_lt (Nat.lt_add_right n h)

section Groups
variable {o s : State} (h : GroupsOnly o s)
include h

theorem regSet_groups {a v : Nat} (ha : R.cfgEccUe ≠ a) : GroupsOnly o (regSet s a v) :=
  h.trans ⟨(Still.refl s).host (regSet_host s a v), rfl, regGet_regSet_ne s ha⟩

theorem fldSet_groups {a hi lo v : Nat} (ha : R.cfgEccUe ≠ a) : GroupsOnly o (fldSet s a hi lo v) := regSet_groups h ha
theorem flagSet_groups {a i : Nat} {v : Bool} (ha : R.cfgEccUe ≠ a) : GroupsOnly o (flagSet s a i v) := fldSet_groups h ha

theorem raise_groups {code bay idx : Nat} {items : List (Nat × Nat)} {att : Option Att} {att2 : Att} : GroupsOnly o (raise code s bay idx items att att2) :=
  h.host (raise_host ..) (fun _ => raise_regs _ _ _ _ _ _ _ _) (as := evtRegs) (by decide)

theorem complete_groups {cid status : Nat} {res : Att} {fields : List Byte} : GroupsOnly o (complete s cid status res fields) :=
  h.host (complete_host ..) (fun _ => complete_regs _ _ _ _ _ _) (as := [R.hifLogDrop]) (by decide)

theorem setCause_groups {bit : Nat} {v : Bool} : GroupsOnly o (setCause s bit v) := by
  unfold setCause
  split
  · exact h
  · extract_lets c p s1 q
    have h1 : GroupsOnly o s1 := raise_groups h.same
    exact .ite (raise_groups h1.same) h1

theorem showSpares_groups : GroupsOnly o (showSpares s) := by
  unfold showSpares
  split
  · exact h
  · extract_lets l s1 low was s2
    have h1 : GroupsOnly o s1 := .foldl (fun _ _ k => regSet_groups k (eccUe_ne (by decide))) h
    have h2 : GroupsOnly o s2 := flagSet_groups (fldSet_groups h1 (by decide)) (by decide)
    exact setCause_groups (.ite (raise_groups h2) h2)

theorem showBay_groups {n : Nat} : GroupsOnly o (showBay s n) := by
  unfold showBay
  split <;> exact regSet_groups h (eccUe_ne (by decide))

theorem showMig_groups {m : Mig} {src st : Nat} : GroupsOnly o (showMig s m src st) :=
  flagSet_groups (regSet_groups h (by decide)) (by decide)

theorem showNoSpare_groups : GroupsOnly o (showNoSpare s) := flagSet_groups h (by decide)

theorem modMig_groups {n : Nat} {f : Mig → Mig} : GroupsOnly o (modMig s n f) := h.same
theorem endMig_groups {n : Nat} {moved : Bool} : GroupsOnly o (endMig s n moved) := h.same

theorem dropMig_groups {m : Mig} : GroupsOnly o (dropMig s m) := by
  unfold dropMig
  extract_lets s1 s2 s3
  have h1 : GroupsOnly o s1 := endMig_groups h
  have h2 : GroupsOnly o s2 := .ite h1 (showMig_groups h1)
  have h3 : GroupsOnly o s3 := by
    unfold s3
    split
    · exact complete_groups h2
    · exact h2
  exact showNoSpare_groups (showBay_groups (.ite (h3.same) h3))

theorem stopTest_groups {g : Nat} : GroupsOnly o (stopTest s g) := by
  unfold stopTest
  exact .ite ((flagSet_groups (a := R.cfgStat) (fldSet_groups h (a := R.cfgRotStat) (by decide)) (by decide)).same) h

theorem startMig_groups : GroupsOnly o (startMig s) := by
  unfold startMig
  split
  · exact h
  · split
    · exact h
    · next m _ =>
      split
      · exact dropMig_groups h
      · split
        · next d _ =>
          extract_lets s1 c s2
          have h1 : GroupsOnly o s1 := stopTest_groups h
          have h2 : GroupsOnly o s2 := modMig_groups (h1.same)
          exact showNoSpare_groups (showBay_groups (showMig_groups h2))
        · split
          · exact .ite h (showNoSpare_groups (raise_groups (modMig_groups h)))
          · split
            · exact h
            · split
              · exact complete_groups (endMig_groups h)
              · exact h
          · exact h

theorem rotSkip_groups : GroupsOnly o (rotSkip s) := fldSet_groups h (by decide)

omit h in
theorem rotPick_groups : ∀ {n : Nat} {s : State} {g : Nat}, GroupsOnly o s → GroupsOnly o (rotPick n s g).1
  | 0, _, _, h => h
  | n + 1, s, g, h => by
    unfold rotPick
    extract_lets nx
    split
    · exact rotPick_groups h
    · split
      · exact rotPick_groups (rotSkip_groups h)
      · split
        · exact rotPick_groups h
        · exact h

theorem rotStart_groups {r : RotOrigin} {g : Nat} : GroupsOnly o (rotStart s r g) := by
  unfold rotStart
  split
  · exact .ite (rotSkip_groups h) (startMig_groups (h.same))
  · exact (flagSet_groups (a := R.cfgStat) (fldSet_groups h (a := R.cfgRotStat) (by decide)) (by decide)).same

theorem rotNextStep_groups {r : RotOrigin} : GroupsOnly o (rotNextStep s r) := by
  unfold rotNextStep
  have hp : GroupsOnly o (rotPick (nGroups s) s (fld s R.cfgRotStat 23 16)).1 := rotPick_groups h
  generalize rotPick (nGroups s) s (fld s R.cfgRotStat 23 16) = p at hp
  obtain ⟨s1, _ | g⟩ := p
  · exact hp
  · exact rotStart_groups (fldSet_groups hp (by decide))

theorem rotExtra_groups {s1 : State} (h1 : GroupsOnly o s1) {g : Nat} : GroupsOnly o (rotExtra s s1 g) :=
  .ite h1 (.ite h (rotStart_groups h1))

theorem tryRot_groups : GroupsOnly o (tryRot s) := by
  unfold tryRot
  refine .ite h (.ite (rotNextStep_groups (h.same)) (.ite (rotNextStep_groups (h.same)) ?_))
  split
  · exact rotExtra_groups h (h.same)
  · split
    · exact rotExtra_groups h (h.same)
    · exact h

/-- Migrations and rotation steps that start leave the relation's fields alone. -/
theorem cfgKick_groups : GroupsOnly o (cfgKick s) := tryRot_groups (startMig_groups h)

theorem askMig_groups {m : Mig} : GroupsOnly o (askMig s m) := by
  unfold askMig
  split
  · next x _ => exact .ite ((dropMig_groups h).same) (.ite (h.same) h)
  · exact h.same

theorem showClu_groups {c : Nat} : GroupsOnly o (showClu s c) := regSet_groups h (eccUe_ne (by decide))

theorem rerunTask_groups {n : Nat} : GroupsOnly o (rerunTask s n) := by
  unfold rerunTask
  split
  · split
    · exact h.same
    · exact h
  · exact h

end Groups
end Sys2Proof.Machine

namespace Sys2Proof.Machine

/-! ### Bays, records, Belfry frames and the pair leave the device record and the power state alone -/

section Host
variable {o s : State} (h : Still o s)
include h

theorem regSet_still {a v : Nat} : Still o (regSet s a v) := h.host (regSet_host ..)
theorem fldSet_still {a hi lo v : Nat} : Still o (fldSet s a hi lo v) := h.host (fldSet_host ..)
theorem flagSet_still {a i : Nat} {v : Bool} : Still o (flagSet s a i v) := h.host (flagSet_host ..)
theorem bump_still {a : Nat} : Still o (bump s a) := h.host (bump_host ..)
theorem bumpBy_still {a n : Nat} : Still o (bumpBy s a n) := h.host (bumpBy_host ..)

theorem raise_still {code bay idx : Nat} {items : List (Nat × Nat)} {att : Option Att} {att2 : Att} : Still o (raise code s bay idx items att att2) :=
  h.host (raise_host ..)

theorem complete_still {cid status : Nat} {res : Att} {fields : List Byte} : Still o (complete s cid status res fields) := h.host (complete_host ..)

theorem showSpares_still : Still o (showSpares s) := h.trans (showSpares_groups (.refl s)).toStill
theorem showBay_still {n : Nat} : Still o (showBay s n) := h.trans (showBay_groups (.refl s)).toStill
theorem dropMig_still {m : Mig} : Still o (dropMig s m) := h.trans (dropMig_groups (.refl s)).toStill
theorem cfgKick_still : Still o (cfgKick s) := h.trans (cfgKick_groups (.refl s)).toStill

theorem showRunning_still : Still o (showRunning s) := by
  unfold showRunning
  extract_lets s1 tg s2
  have h1 : Still o s1 := fldSet_still h
  exact fldSet_still (.foldl (fun _ _ k => regSet_still k) h1)

theorem showLks_still : Still o (showLks s) := by
  unfold showLks
  extract_lets gs un db red s1
  exact fldSet_still (fldSet_still (.foldl (fun _ _ k => regSet_still (regSet_still k)) h))

theorem showOut_still {n w : Nat} : Still o (showOut s n w) := regSet_still (regSet_still h)

theorem showDbg_still : Still o (showDbg s) := flagSet_still (regSet_still h)

theorem mirShow_still : Still o (mirShow s) := by
  unfold mirShow
  extract_lets m seen run s1 s2 s3 s4
  have h2 : Still o s2 := flagSet_still (flagSet_still (flagSet_still (fldSet_still h)))
  have h4 : Still o s4 := fldSet_still (flagSet_still (flagSet_still (flagSet_still h2)))
  exact .ite h (.foldl (fun _ _ k => regSet_still k) h4)

theorem setMir_still {f : Mir → Mir} : Still o (setMir s f) := mirShow_still h.same

theorem setEpoch_still {e : Nat} : Still o (setEpoch s e) := by
  unfold setEpoch
  extract_lets s1
  have h1 : Still o s1 := fldSet_still h
  exact .ite h h1.same

theorem dtoAll_still : Still o (dtoAll s) := by
  unfold dtoAll
  extract_lets frozen
  exact .ite h (fldSet_still (fldSet_still (.foldl (fun _ _ k => k.same) h)))

theorem leaveGroup_still {g : Nat} {fault : Bool} : Still o (leaveGroup s g fault) := by
  unfold leaveGroup
  extract_lets s0
  have h0 : Still o s0 := by
    unfold s0
    split
    · exact complete_still h
    · exact h
  exact h0.same

theorem setReqs_still {n : Nat} {l : List BayReq} : Still o (setReqs s n l) := h.same
theorem setBay_still {n : Nat} {b : Bay} : Still o (setBay s n b) := h.same
theorem setCup_still {n : Nat} {b : CupBay} : Still o (setCup s n b) := h.same
theorem modRec_still {n : Nat} {f : CupRec → CupRec} : Still o (modRec s n f) := h.same
theorem modPort_still {n : Nat} {f : Port → Port} : Still o (modPort s n f) := h.same

theorem modBay_still {n : Nat} {f : Bay → Bay} : Still o (modBay s n f) := by
  unfold modBay
  split
  · exact setBay_still h
  · exact h

theorem modCup_still {n : Nat} {f : CupBay → CupBay} : Still o (modCup s n f) := by
  unfold modCup
  split
  · exact setCup_still h
  · exact h

end Host

/-! ### Frames that a record sends (R361, R391 to R401) -/

section Frames
variable {o s : State} (h : Still o s)
include h

theorem drainPort_still {n : Nat} : Still o (drainPort s n) := by
  unfold drainPort
  extract_lets p
  split
  · split
    · exact bump_still h.same
    · exact h
  · exact h

theorem bellDrop_still {n : Nat} : Still o (bellDrop s n) := by
  unfold bellDrop
  extract_lets s1
  have h1 : Still o s1 := flagSet_still (bump_still h)
  exact .ite h1 (raise_still (modPort_still h1))

theorem bellPut_still {n : Nat} {f : NetFrame} : Still o (bellPut s n f) :=
  .ite (modPort_still h) (.ite (bellDrop_still (modPort_still h)) (bellDrop_still h))

theorem egress_still {n q : Nat} {bell : Bool} {f : NetFrame} : Still o (egress s n bell q f) :=
  .ite (drainPort_still (.ite (bellPut_still h) (modPort_still h))) h

theorem sendOwn_still {f : OwnFrame} : Still o (sendOwn s f) := .foldl (fun _ _ k => egress_still k) h.same

theorem sendBelfry_still {cfg ports ty : Nat} {bell rep usePair : Bool} {body : List Byte} : Still o (sendBelfry s cfg ports ty bell rep usePair body) :=
  .ite h (sendOwn_still h)

theorem sendXtrig_still {bay xgroup num : Nat} {test : Bool} {t0 : Att} : Still o (sendXtrig s bay xgroup num test t0) :=
  .ite h (bump_still (sendBelfry_still h))

end Frames

/-! ### Records (R341 to R364) -/

section Records
variable {o s : State} (h : Still o s)
include h

theorem cupStat_still : Still o (cupStat s) :=
  flagSet_still (regSet_still (fldSet_still (regSet_still (regSet_still h))))

theorem cupBayStat_still {n : Nat} : Still o (cupBayStat s n) := by
  unfold cupBayStat
  split
  · exact h
  · exact regSet_still h

theorem dropTrig_still {n : Nat} {fs : List Fire} : Still o (dropTrig s n fs) := by
  unfold dropTrig
  extract_lets s0 s1
  have h0 : Still o s0 := .foldl (fun _ _ k => by split; exacts [complete_still k, k]) h
  have h1 : Still o s1 := bump_still h0
  split
  · exact h1
  · exact .ite h1 (raise_still (setCup_still h1))

theorem freeRec_still {num : Nat} : Still o (freeRec s num) := cupStat_still (flagSet_still h.same)

omit h in
theorem overwriteFor_still {need : Nat} : ∀ {rs : List CupRec} {s : State}, Still o s → Still o (overwriteFor need rs s)
  | [], _, h => h
  | _ :: _, _, h => .ite h (.ite (overwriteFor_still (raise_still (bump_still (freeRec_still h)))) (overwriteFor_still h))

theorem makeRoom_still {need : Nat} : Still o (makeRoom s need).1 := by
  unfold makeRoom
  extract_lets s0 s1 idx area fresh s2
  have h0 : Still o s0 := cupStat_still h
  have h1 : Still o s1 := .ite (overwriteFor_still h0) h0
  have h2 : Still o s2 := flagSet_still (.ite (flagSet_still h1) h1)
  split
  · exact .ite (raise_still h2) h2
  · exact flagSet_still h1

theorem announceRec_still {num : Nat} : Still o (announceRec s num) := by
  unfold announceRec
  split
  · exact h
  · next r _ =>
    extract_lets s1 s2
    have h1 : Still o s1 := raise_still h
    have h2 : Still o s2 := by
      unfold s2
      split
      · exact .ite (sendXtrig_still h1) h1
      · exact h1
    exact .foldl (fun _ _ k => complete_still k) (modRec_still h2)

theorem openRec_still {n : Nat} {d : Detect} : Still o (openRec s n d) := by
  unfold openRec
  split
  · next cb b f0 _ _ _ _ =>
    extract_lets rate need level xg flags
    have hm : Still o (makeRoom s need).1 := makeRoom_still h
    generalize makeRoom s need = p at hm
    obtain ⟨s1, ok⟩ := p
    refine .ite (dropTrig_still hm) ?_
    extract_lets num r0 r1 mode c s2 s3 s4 s5
    have h4 : Still o s4 := modCup_still (regSet_still hm.same)
    have h5 : Still o s5 := .ite h4 (announceRec_still h4)
    exact cupBayStat_still (cupStat_still h5)
  · exact h

theorem extendRec_still {n num role : Nat} {d : Detect} : Still o (extendRec s n num role d) := by
  unfold extendRec
  split
  · extract_lets tr latest cap want upTo last es full capped s1
    have h1 : Still o s1 := modRec_still h
    refine .foldl (fun st f k => ?_) h1
    split
    · exact .ite (complete_still k) (modRec_still k)
    · exact k
  · exact h

theorem fireAt_still {n : Nat} {d : Detect} : Still o (fireAt s n d) := by
  unfold fireAt
  split
  · exact h
  · split
    · refine .ite (extendRec_still h) ?_
      split
      · exact .ite (cupBayStat_still (setCup_still h)) (dropTrig_still h)
      · exact h
    · exact openRec_still h

theorem clearRing_still {n : Nat} : Still o (clearRing s n) := modCup_still h

theorem refineRec_still {n : Nat} : Still o (refineRec s n) := by
  unfold refineRec
  split
  · exact cupStat_still (announceRec_still (modRec_still h))
  · exact h

theorem cutCup_still {n why : Nat} : Still o (cutCup s n why) := by
  unfold cutCup
  extract_lets s1 newest c s2
  have h1 : Still o s1 := refineRec_still h
  have h2 : Still o s2 := h1.same
  split
  · exact .foldl (fun _ _ k => dropTrig_still k) (setCup_still h2)
  · exact h2

theorem abortForced_still {n : Nat} : Still o (abortForced s n) := by
  unfold abortForced
  split
  · exact .foldl (fun _ _ k => complete_still k) (setCup_still h)
  · exact h

theorem cupStopped_still {n : Nat} : Still o (cupStopped s n) :=
  cupBayStat_still (cupStat_still (clearRing_still (abortForced_still (cutCup_still h))))

/-- A line taken may use a free value (R376). -/
theorem takeLine_still {n : Nat} {l : Line} : Still o (takeLine s n l) := by
  unfold takeLine
  split
  · next cb0 b _ _ =>
    extract_lets rate e ring mode inst
    generalize statsLine s n rate l ring cb0 = p
    obtain ⟨cb1, usedFree⟩ := p
    dsimp -zeta only
    generalize firesAt cb1 rate mode l ring = q
    obtain ⟨fs, held⟩ := q
    dsimp -zeta only
    extract_lets cb2 s1 c s2 off live s3
    have h1 : Still o s1 := setCup_still (.ite (h.same (t := bumpFree s)) h)
    have h2 : Still o s2 := h1.same
    exact .ite (cupStopped_still h2) (fireAt_still (bumpBy_still h2))
  · exact h

theorem recordLine_still {n : Nat} : Still o (recordLine s n) := by
  unfold recordLine
  split
  · exact h
  · split
    · exact h
    · next l ls _ =>
      extract_lets s1
      have h1 : Still o s1 := setCup_still h
      exact .ite (takeLine_still h1) (.ite (cupStopped_still h1) h1)

theorem drainLines_still {n : Nat} : Still o (drainLines s n) := .foldl (fun _ _ k => recordLine_still k) h

theorem startCup_still {n : Nat} {at_ : Inst} : Still o (startCup s n at_) := modCup_still (drainLines_still h)

theorem queueLine_still {n : Nat} {l : Line} : Still o (queueLine s n l) := modCup_still h

end Records

/-! ### Bays started and rebuilt (R296, R605) -/

section Bays
variable {o s : State} (h : Still o s)
include h

theorem startBay_still {n : Nat} {at_ : EvalAt} : Still o (startBay s n at_) := by
  unfold startBay
  split
  · exact h
  · next b _ =>
    extract_lets set att c st s1 cf m s2 s3
    have h2 : Still o s2 := h.same
    have h3 : Still o s3 := raise_still h2
    refine .ite (raise_still (setBay_still h)) ?_
    exact
      (cupBayStat_still (mirShow_still (dtoAll_still (showRunning_still (showBay_still (startCup_still h3))))))

theorem rebuildBay_still {sch : Scheme} {n g : Nat} {run : Bool} {at_ : Inst} : Still o (rebuildBay s sch n g run at_) := by
  unfold rebuildBay
  split
  · exact h
  · next r _ =>
    extract_lets s1 c s2 b s3
    have h1 : Still o s1 := by
      unfold s1
      split
      · exact drainLines_still (.ite (queueLine_still h) h)
      · exact h
    have h3 : Still o s3 := showOut_still (setBay_still (setReqs_still h1.same))
    exact .ite (startBay_still h3) (showBay_still h3)

/-- The rebuild of every bay on leaving TEST. -/
theorem rebuildAll_still {at_ : Inst} : Still o (rebuildAll s at_) := by
  unfold rebuildAll
  split
  · exact h
  · next sch _ =>
    extract_lets s1 moved s2 s3
    have h1 : Still o s1 := .foldl (fun _ _ k => dropMig_still k) h
    have h2 : Still o s2 := .foldl (fun _ _ k => leaveGroup_still k) h1
    have h3 : Still o s3 := .foldl (fun _ _ k => rebuildBay_still k) h2
    exact cfgKick_still (showLks_still (showSpares_still (showRunning_still (dtoAll_still h3))))

end Bays
end Sys2Proof.Machine

namespace Sys2Proof.Machine

/-! ### MODE_SET deferred and taking effect: `Obligations.ModeSetDefersAndTakesEffect` -/

/-- The part in mode `m` that was in `p`, with no MODE_SET waiting, and with dto_en clear where R572 clears it. -/
structure InMode (m p : Mode) (s : State) : Prop where
  mode : s.dev.mode = m
  prev : s.dev.prev = p
  pend : s.dev.pend = none
  dtoEn : m = .commission ∨ m = .test → s.dev.dtoEn = false

section InMode
variable {m p : Mode} {s t : State}

theorem changeMode_inMode (s : State) (m : Mode) (at_ : Inst) : InMode m s.dev.mode (changeMode s m at_) :=
  have ⟨hm, hp, hn, hd⟩ := changeMode_mode s m at_
  ⟨hm, hp, hn, hd⟩

theorem InMode.still (h : InMode m p s) (k : Still s t) : InMode m p t := by
  obtain ⟨hm, hp, hn, hd⟩ := h
  constructor <;> rw [k.dev] <;> assumption

end InMode

/-- A MODE_SET that takes effect: the part in its mode, before a SAFE condition that stands enters SAFE again. -/
theorem modeEffect_inMode (s : State) (p : ModeChange) :
    ∃ v, modeEffect s p = safeAgain v ∧
      InMode (if p.target = .service then resolveService { s with dev := { s.dev with pend := none } } else p.target) s.dev.mode v := by
  unfold modeEffect
  extract_lets dv s1 pw old s3 s2
  refine ⟨_, rfl, InMode.still (s := s2) ?_ (complete_still (.refl s2))⟩
  have h3 : InMode (if p.target = .service then resolveService s1 else p.target) s.dev.mode s3 := changeMode_inMode s1 _ p.at_
  have hsafe : ∀ u : State, u.dev.mode = s.dev.mode → InMode .safe s.dev.mode (raise 0x0102 (changeMode u .safe p.at_) (items := [(1, 1)])) :=
    fun u hu => hu ▸ (changeMode_inMode u .safe p.at_).still (raise_still (.refl _))
  by_cases ht : p.target = .safe
  · rw [show s2 = _ from if_pos ht, ht]
    exact hsafe _ rfl
  · rw [show s2 = _ from if_neg ht]
    exact h3.still (.ite (rebuildAll_still (.refl _)) (.refl _))

theorem modeSetGo_later {m : Mode} {cid : Nat} {u : State} (h : modeBusy u = false) :
    modeSetGo m cid (u, true) = .later { u with dev := { u.dev with pend := some ⟨m, effectInst u, cid⟩ } } := by
  simp [modeSetGo, h]

theorem execModeSetEffect_some {s : State} {p : ModeChange} (h : s.dev.pend = some p) :
    exec .modeSetEffect s = .next (if now s < p.at_ then s else modeEffect s p) := by
  show execModeSetEffect s = _
  simp only [execModeSetEffect, h]

theorem execModeSetEffect_none {s : State} (h : s.dev.pend = none) : exec .modeSetEffect s = .next s := by
  show execModeSetEffect s = _
  simp only [execModeSetEffect, h]

/-- Settles O18: the wait is what `modeSetGo` answers to a MODE_SET with nothing pending, and the effect is `modeEffect`. -/
theorem modeSetDefersAndTakesEffect : Obligations.ModeSetDefersAndTakesEffect := by
  refine ⟨fun s e i m h hm hc hl hp u hu h1 h2 h3 h4 h5 => ?_, fun s p h => ⟨fun hn => ?_, fun hn => ?_⟩, fun s h => execModeSetEffect_none h⟩
  · have hdev : (accepted s 0x03 e i).dev = s.dev := accepted_dev ..
    refine modeSet_deferred h ((modeSetOwn_listed hm (by rwa [hdev]) (by rwa [hdev]) (by rwa [hdev])).trans ?_)
    rw [modeToken_passed hu]
    exact modeSetGo_later (by simp [modeBusy, h1, h2, h3, h4, h5])
  · rw [execModeSetEffect_some h, if_pos hn]
  · obtain ⟨v, hv, hi⟩ := modeEffect_inMode s p
    refine ⟨_, v, by rw [execModeSetEffect_some h, if_neg (Nat.not_lt.mpr hn)], hv, hi.mode, hi.prev, hi.pend, fun ht => hi.dtoEn ?_⟩
    rcases ht with ht | ht <;> simp [ht]

end Sys2Proof.Machine

namespace Sys2Proof.Machine

/-! ### What a change of mode leaves in the power state -/

section Staging
variable {o s : State} (h : Still o s)
include h

theorem slotOverflow_still {n c : Nat} : Still o (slotOverflow s n c) := by
  unfold slotOverflow
  extract_lets s1
  have h1 : Still o s1 := flagSet_still (bump_still h)
  split
  · exact h1
  · exact .ite h1 (raise_still (setBay_still h1))

theorem stage_still {n c : Nat} {w : SampleWord} : Still o (stage s n c w) := by
  unfold stage
  split
  · exact h
  · refine .ite h (.ite (slotOverflow_still h) ?_)
    extract_lets x s1
    have h1 : Still o s1 := setBay_still h
    split
    · exact .ite h1.same h1
    · exact h1

theorem stageAfter_still {n c : Nat} {w : SampleWord} : Still o (stageAfter s n c w) := by
  unfold stageAfter
  split
  · exact .ite (stage_still h) h
  · exact h

theorem endSwitch_still {n c : Nat} : Still o (endSwitch s n c) := by
  unfold endSwitch
  split
  · exact .foldl (fun _ _ k => stageAfter_still k) (modBay_still h)
  · exact h

theorem stageNew_still {n c : Nat} {w : SampleWord} : Still o (stageNew s n c w) := by
  unfold stageNew
  split
  · exact .ite h (.ite (stageAfter_still (endSwitch_still h)) (modBay_still h))
  · exact stageAfter_still h

theorem stageOld_still {n c : Nat} {w : SampleWord} : Still o (stageOld s n c w) := by
  unfold stageOld
  split
  · exact .ite (stageAfter_still h) (endSwitch_still h)
  · exact h

theorem stageLocal_still {ch : Nat} {s4 : Bool} {w : SampleWord} : Still o (stageLocal s ch s4 w) := by
  refine .foldl (fun st p k => ?_) h
  split
  · exact .ite (.ite (stageOld_still k) (stageNew_still k)) k
  · exact k

theorem useOwn_still : Still o (useOwn s) :=
  .foldl (fun _ _ k => .foldl (fun _ _ k' => stageLocal_still k') k) (setMir_still h)

end Staging

section Pair
variable {o s : State} (h : Still o s)
include h

theorem endRole_still {status : Nat} {att : Att} : Still o (endRole s status att) := by
  unfold endRole
  split
  · next r _ =>
    extract_lets _ s1
    have h1 : Still o s1 := h.same
    split
    · exact complete_still h1
    · exact h1
  · exact h

theorem stopResync_still : Still o (stopResync s) := .foldl (fun _ _ k => complete_still k) (setMir_still h)

theorem pairLetGo_still : Still o (pairLetGo s) := by
  unfold pairLetGo
  exact .ite h (useOwn_still (setMir_still (endRole_still (stopResync_still h))))

theorem endGrant_still {cause : Nat} : Still o (endGrant s cause) := by
  unfold endGrant
  split
  · exact h
  · exact raise_still (showDbg_still h.same)

end Pair

theorem leaveTest_pwr (s : State) : (leaveTest s).pwr = s.pwr := by
  unfold leaveTest
  split
  · simp only [showDbg, flagSet_pwr, regSet_pwr]
  · rfl

theorem degraded_still (s : State) : Still s { s with pwr := { s.pwr with degraded := true } } := ⟨rfl, rfl⟩

/-- A mode entered changes nothing of the power state but the degraded causes (R556). -/
theorem enterMode_still (s : State) (m : Mode) (at_ : Inst) : ∃ v : State, v.pwr = s.pwr ∧ Still v (enterMode s m at_) := by
  unfold enterMode
  extract_lets s1 old clr d0 d s2 pw s3 s4 s5
  refine ⟨{ s1 with dev := d }, leaveTest_pwr s, ?_⟩
  have h2 : Still { s1 with dev := d } s2 := (raise_still (.refl _)).host (appendLog_host ..)
  have h3 : Still { s1 with dev := d } s3 := .ite (raise_still (h2.trans (degraded_still s2))) h2
  have h4 : Still { s1 with dev := d } s4 := .ite (endGrant_still h3) h3
  have h5 : Still { s1 with dev := d } s5 := .ite (setEpoch_still h4) h4
  exact mirShow_still (dtoAll_still h5)

/-- A change of mode changes nothing of the power state but the degraded causes. -/
theorem changeMode_pwr (s : State) (m : Mode) (at_ : Inst) :
    (changeMode s m at_).pwr = { s.pwr with causes := (changeMode s m at_).pwr.causes, degraded := (changeMode s m at_).pwr.degraded } := by
  obtain ⟨v, hv, h⟩ := enterMode_still (pairLetGo s) m at_
  have hs : Still v (changeMode s m at_) := .ite (setMir_still (flagSet_still h)) h
  rw [hs.pwr, hv, (pairLetGo_still (.refl s)).pwr]

/-! ### Conditions that enter SAFE: `Obligations.SafeConditionsEnterSafe` -/

section EnterSafe
variable {s : State} {cause : Nat}

theorem enterSafe_boot (h : s.dev.mode = .boot) : enterSafe s cause = s := by
  simp only [enterSafe, h]

theorem enterSafe_safe (h : s.dev.mode = .safe) : enterSafe s cause = { s with pwr := { s.pwr with safeCause := cause } } := by
  simp only [enterSafe, h]

/-- SAFE entered records its cause and leaves the dying sequence. -/
theorem enterSafe_pwr (hb : s.dev.mode ≠ .boot) : (enterSafe s cause).pwr.safeCause = cause ∧ (enterSafe s cause).pwr.dying = s.pwr.dying := by
  have k : ∀ u : State, u.pwr = { s.pwr with safeCause := cause } →
      (raise 0x0102 (changeMode u .safe (now s)) (items := [(1, cause)])).pwr.safeCause = cause ∧
      (raise 0x0102 (changeMode u .safe (now s)) (items := [(1, cause)])).pwr.dying = s.pwr.dying := by
    intro u hu
    rw [raise_pwr, changeMode_pwr, hu]
    exact ⟨rfl, rfl⟩
  unfold enterSafe
  extract_lets pw keep s1
  split
  · next h => exact absurd h hb
  · exact ⟨rfl, rfl⟩
  · have h1 : s1.pwr = { s.pwr with safeCause := cause } := by
      unfold s1
      split
      · exact complete_pwr ..
      · rfl
    exact k _ h1

end EnterSafe

/-! The four instructions, as what they hand to `safeUnlessDying`. -/

section Conditions
variable {s : State}

theorem exec_pllLockLoss (h : partRuns s = true) : exec .pllLockLoss s = .next (safeUnlessDying { s with pwr := { s.pwr with pllLost := some s.dev.ticks } } 4) :=
  congrArg next (if_pos h)

theorem exec_d2dFailure (h : partRuns s = true) : exec .d2dFailure s = .next (safeUnlessDying { s with pwr := { s.pwr with d2dOk := false } } 5) :=
  congrArg next (if_pos h)

theorem exec_thermalSafe {n : Nat} {temp : Int} (hr : partRuns s = true) (hn : n < 40) (ht : 155 * 16 ≤ temp) :
    exec (.thermalSafe n temp) s = .next (safeUnlessDying (setTemp s n temp) 2) := congrArg next (if_pos ⟨hn, ht, hr⟩)

theorem exec_thermalSafe_recorded {n : Nat} {temp : Int} (h : ¬(n < 40 ∧ 155 * 16 ≤ temp ∧ partRuns s = true)) :
    exec (.thermalSafe n temp) s = .next (setTemp s n temp) := congrArg next (if_neg h)

/-- A rail fault with PWR_FAIL_N high, recorded, counted, flagged and raised (R542). -/
def railNoted (s : State) (rail : Nat) : State :=
  raise 0x0209 (flagSet (bump { s with pwr := { s.pwr with railFault := tset s.pwr.railFault rail s.dev.ticks } } R.pwrSupplyFaultCnt) R.pwrStat 3 true) (items := [(1, rail)])

theorem railNoted_dev (rail : Nat) : (railNoted s rail).dev = s.dev := by
  simp only [railNoted, raise_dev, flagSet_dev, bump_dev]

theorem railNoted_dying (rail : Nat) : (railNoted s rail).pwr.dying = s.pwr.dying := by
  simp only [railNoted, raise_pwr, flagSet_pwr, bump_pwr]

theorem exec_railFault {rail : Nat} (hr : partRuns s = true) (hn : rail < 8) :
    exec (.railFault rail) s = .next (if s.pwr.failLow then { s with pwr := { s.pwr with railFault := tset s.pwr.railFault rail s.dev.ticks } }
      else safeUnlessDying (railNoted s rail) 3) := by
  have h : ¬(8 ≤ rail ∨ (!partRuns s) = true) := by simp [hr, hn]
  show execRailFault rail s = _
  unfold execRailFault
  rw [if_neg h]
  split <;> rfl

theorem setTemp_dev (n : Nat) (temp : Int) : (setTemp s n temp).dev = s.dev := by
  unfold setTemp; split <;> rfl

theorem setTemp_dying (n : Nat) (temp : Int) : (setTemp s n temp).pwr.dying = s.pwr.dying := by
  unfold setTemp; split <;> rfl

end Conditions

/-- Outside a dying sequence a condition enters SAFE, records its cause and the mode left, and drops a waiting MODE_SET. -/
theorem safeUnlessDying_enters {s u : State} {cause : Nat} (hu : u.dev = s.dev) (hd : u.pwr.dying = none) (hb : s.dev.mode ≠ .boot) (hs : s.dev.mode ≠ .safe) :
    let t := safeUnlessDying u cause
    t.dev.mode = .safe ∧ t.pwr.safeCause = cause ∧ t.dev.prev = s.dev.mode ∧ t.dev.pend = none := by
  rw [← hu] at hb hs ⊢
  obtain ⟨hm, hp, hn⟩ := enterSafe_mode (cause := cause) hb hs
  simp only [safeUnlessDying, hd]
  exact ⟨hm, (enterSafe_pwr hb).1, hp, hn⟩

theorem safeUnlessDying_safe {u : State} {cause : Nat} (hd : u.pwr.dying = none) (h : u.dev.mode = .safe) :
    safeUnlessDying u cause = { u with pwr := { u.pwr with safeCause := cause } } := by
  simp only [safeUnlessDying, hd, enterSafe_safe h]

theorem safeUnlessDying_boot {u : State} {cause : Nat} (hd : u.pwr.dying = none) (h : u.dev.mode = .boot) : safeUnlessDying u cause = u := by
  simp only [safeUnlessDying, hd, enterSafe_boot h]

/-- Later in a dying sequence than the moment it began, a condition changes nothing further. -/
theorem safeUnlessDying_later {u : State} {d : Dying} {cause : Nat} (hd : u.pwr.dying = some d) (h : d.since ≠ u.dev.ticks ∨ d.phase ≠ .hold) :
    safeUnlessDying u cause = u := by
  simp only [safeUnlessDying, hd]
  exact if_neg fun ⟨h1, h2⟩ => h.elim (· h1) (· h2)

/-- At that moment SAFE is entered, and the dying block names it and its cause. -/
theorem safeUnlessDying_atOnce {u : State} {d : Dying} {cause : Nat} (hd : u.pwr.dying = some d) (ht : d.since = u.dev.ticks) (hp : d.phase = .hold)
    (hb : u.dev.mode ≠ .boot) (hs : u.dev.mode ≠ .safe) :
    (safeUnlessDying u cause).dev.mode = .safe ∧ (safeUnlessDying u cause).pwr.dying = some { d with mode := .safe, cause := cause } := by
  have hm := (enterSafe_mode (cause := cause) hb hs).1
  simp only [safeUnlessDying, hd]
  rw [if_pos ⟨ht, hp⟩]
  refine ⟨hm, ?_⟩
  show some { d with mode := (enterSafe u cause).dev.mode, cause := (enterSafe u cause).pwr.safeCause } = _
  rw [hm, (enterSafe_pwr hb).1]

/-- Settles O25, from what each condition hands to `safeUnlessDying` and what that does in each mode. -/
theorem safeConditionsEnterSafe : Obligations.SafeConditionsEnterSafe := by
  refine ⟨fun s => ⟨fun hr => ⟨fun rail => ?_, ?_, ?_⟩, fun n temp h => ?_, fun d hd hr => ⟨fun h => ⟨?_, ?_⟩, fun ht hp hb hs => ?_⟩⟩,
    fun s hr hd => ⟨fun hb hs => ⟨fun rail hn hf => ?_, ?_, ?_, fun n temp hn ht => ?_⟩, fun rail hn hf => ?_,
      fun rail u hn hf hu => ⟨fun hm => ?_, fun hm => ?_⟩, fun hm => ⟨?_, ?_, fun n temp hn ht => ?_⟩, fun hm => ⟨?_, ?_, fun n temp => ?_⟩⟩⟩
  · exact if_pos (.inr (by rw [hr]; rfl))
  · exact congrArg next (if_neg (by simp [hr]))
  · exact congrArg next (if_neg (by simp [hr]))
  · refine exec_thermalSafe_recorded fun ⟨_, ht, hr⟩ => ?_
    rcases h with h | h
    · simp [h] at hr
    · exact absurd ht (Int.not_le.mpr h)
  · rw [exec_pllLockLoss hr, safeUnlessDying_later (u := { s with pwr := { s.pwr with pllLost := some s.dev.ticks } }) hd h]
  · rw [exec_d2dFailure hr, safeUnlessDying_later (u := { s with pwr := { s.pwr with d2dOk := false } }) hd h]
  · exact ⟨_, exec_pllLockLoss hr, safeUnlessDying_atOnce (u := { s with pwr := { s.pwr with pllLost := some s.dev.ticks } }) hd ht hp hb hs⟩
  · refine ⟨_, exec_railFault hr hn, ?_⟩
    rw [hf]
    exact safeUnlessDying_enters (railNoted_dev rail) ((railNoted_dying rail).trans hd) hb hs
  · exact ⟨_, exec_pllLockLoss hr, safeUnlessDying_enters rfl hd hb hs⟩
  · exact ⟨_, exec_d2dFailure hr, safeUnlessDying_enters rfl hd hb hs⟩
  · exact ⟨_, exec_thermalSafe hr hn ht, safeUnlessDying_enters (setTemp_dev n temp) ((setTemp_dying n temp).trans hd) hb hs⟩
  · rw [exec_railFault hr hn, hf]; rfl
  · subst hu
    rw [exec_railFault hr hn, hf]
    exact congrArg next (safeUnlessDying_safe ((railNoted_dying rail).trans hd) (by rw [railNoted_dev, hm]))
  · subst hu
    rw [exec_railFault hr hn, hf]
    exact congrArg next (safeUnlessDying_boot ((railNoted_dying rail).trans hd) (by rw [railNoted_dev, hm]))
  · rw [exec_pllLockLoss hr, safeUnlessDying_safe (by exact hd) (by exact hm)]
  · rw [exec_d2dFailure hr, safeUnlessDying_safe (by exact hd) (by exact hm)]
  · rw [exec_thermalSafe hr hn ht, safeUnlessDying_safe ((setTemp_dying n temp).trans hd) (by rw [setTemp_dev, hm])]
  · rw [exec_pllLockLoss hr, safeUnlessDying_boot (by exact hd) (by exact hm)]
  · rw [exec_d2dFailure hr, safeUnlessDying_boot (by exact hd) (by exact hm)]
  · by_cases h : n < 40 ∧ 155 * 16 ≤ temp
    · rw [exec_thermalSafe hr h.1 h.2, safeUnlessDying_boot ((setTemp_dying n temp).trans hd) (by rw [setTemp_dev, hm])]
    · exact exec_thermalSafe_recorded fun ⟨hn, ht, _⟩ => h ⟨hn, ht⟩

end Sys2Proof.Machine

namespace Sys2Proof.Machine

/-! ### SELFTEST (R555) -/

section Accepted
variable (s : State) (op : Nat) (e : CmdEntry) (i : Nat)

@[simp] theorem accepted_spares : spares (accepted s op e i) = spares s := by rw [accepted_eq]; rfl
@[simp] theorem accepted_targetOk (k t : Nat) : targetOk (accepted s op e i) k t = targetOk s k t := by rw [accepted_eq]; rfl
@[simp] theorem accepted_flag (a b : Nat) : flag (accepted s op e i) a b = flag s a b := by rw [accepted_eq]; rfl

end Accepted

/-- The kinds that run in TEST only, asked for elsewhere, and every kind in BOOT. -/
def selfBadMode (s : State) (k : Nat) : Prop := s.dev.mode = .boot ∨ 4 ≤ k ∧ k ≤ 7 ∧ s.dev.mode ≠ .test

/-- A kind without the spare that it tests. -/
def selfNoSpare (s : State) (k : Nat) : Prop := k = 0 ∧ spares s = [] ∨ k = 1 ∧ flag s R.afeStat 12 = true

/-- A SELFTEST under way, or a calibration in the way of a kind that calibrates. -/
def selfBusy (s : State) (k : Nat) : Prop := s.pwr.selftest.isSome = true ∨ (k = 1 ∨ k = 7) ∧ s.afe.cal.isSome = true

section Selftest
variable {s : State} {e : CmdEntry} {i k x : Nat} (h : Taken s e usedSelftest i) (hk : k = field e.params 0 1) (hx : x = field e.params 2 2)
include h hk

theorem selftest_badMode (hm : selfBadMode s k) : exec (.selftest e) s = .next (badCpl s (accepted s 0x53 e i) 0x53 e i stBadMode) := by
  subst hk
  refine congrArg next (submit_rej h (by decide) ?_)
  unfold selftestOwn
  rw [if_pos (by simpa [selfBadMode] using hm)]
  exact CmdOut.rej_eq ..

variable (hm : ¬selfBadMode s k)
include hx hm

theorem selftest_badParam (hp : 7 < k ∨ targetOk s k x = false) :
    exec (.selftest e) s = .next (badCpl s (accepted s 0x53 e i) 0x53 e i stBadParam) := by
  subst hk hx
  refine congrArg next (submit_rej h (by decide) ?_)
  unfold selftestOwn
  rw [if_neg (by simpa [selfBadMode] using hm), if_pos (by simpa using hp)]
  exact CmdOut.rej_eq ..

variable (hp : ¬(7 < k ∨ targetOk s k x = false))
include hp

theorem selftest_noResource (hr : selfNoSpare s k) : exec (.selftest e) s = .next (badCpl s (accepted s 0x53 e i) 0x53 e i stNoResource) := by
  subst hk hx
  refine congrArg next (submit_rej h (by decide) ?_)
  unfold selftestOwn
  rw [if_neg (by simpa [selfBadMode] using hm), if_neg (by simpa using hp),
    if_pos (by simpa [selfNoSpare] using hr)]
  exact CmdOut.rej_eq ..

variable (hr : ¬selfNoSpare s k)
include hr

theorem selftest_busy (hb : selfBusy s k) : exec (.selftest e) s = .next (badCpl s (accepted s 0x53 e i) 0x53 e i stBusy) := by
  subst hk hx
  refine congrArg next (submit_rej h (by decide) ?_)
  unfold selftestOwn
  rw [if_neg (by simpa [selfBadMode] using hm), if_neg (by simpa using hp),
    if_neg (by simpa [selfNoSpare] using hr), if_pos (by simpa [selfBusy] using hb)]
  exact CmdOut.rej_eq ..

theorem selftest_begins (hb : ¬selfBusy s k) : exec (.selftest e) s = .next (selfBegin (accepted s 0x53 e i) k x s.hif.nextCid) := by
  subst hk hx
  refine congrArg next (submit_later h ?_)
  unfold selftestOwn
  rw [if_neg (by simpa [selfBadMode] using hm), if_neg (by simpa using hp),
    if_neg (by simpa [selfNoSpare] using hr), if_neg (by simpa [selfBusy] using hb)]

end Selftest

end Sys2Proof.Machine

namespace Sys2Proof.Machine

section SelfBegin
variable {s : State} {k x cid : Nat}

/-- A SELFTEST that begins is under way, but for the sweep, which may end at once. -/
theorem selfBegin_selftest (h : k ≠ 2) : (selfBegin s k x cid).pwr.selftest = some ⟨k, x, cid, [], 0⟩ := by
  unfold selfBegin
  rw [if_neg h]
  extract_lets pw s1 af cal
  split
  · exact congrArg Pwr.selftest (cfgKick_still (s := { s1 with cfg := { s1.cfg with rotNow := true } }) (.refl _)).pwr
  · simp only [setSpare, regSet_pwr]
    exact congrArg Pwr.selftest (flagSet_pwr ..)
  · exact absurd rfl h
  · exact congrArg Pwr.selftest (flagSet_pwr ..)
  · rfl

theorem selfFinish_selftest (s : State) (n : Nat) : (selfFinish s n).pwr.selftest = none := by
  unfold selfFinish
  split
  · assumption
  · simp only [complete_pwr, raise_pwr, regSet_pwr]

end SelfBegin

/-! SELFTEST_DONE by the kind that is under way. -/

section SelftestDone
variable {s : State} {x : SelfTest} (hx : s.pwr.selftest = some x)
include hx

theorem selftestDone_eq (faults : Nat) (cells : List Nat) :
    exec (.selftestDone faults cells) s = .next (
      if x.kind = 3 then selfFinish s faults
      else if x.kind = 4 then selfFinish (bistCluster s x.target) faults
      else if x.kind = 5 then
        selfFinish (cfgKick (showSpares ((cells.filter (fun c => decide (c < nCells s))).foldl failCell s))) (cells.filter (fun c => decide (c < nCells s))).length
      else if x.kind = 6 then selfFinish (marchLoss s) faults
      else if selfEnded s x then selfFinish s 0 else s) := by
  show execSelftestDone faults cells s = _
  unfold execSelftestDone
  rw [hx]
  dsimp only
  split <;> simp_all

end SelftestDone

/-! ### Memory errors (R183 to R186) -/

theorem setCause_cfg (s : State) (bit : Nat) (v : Bool) : (setCause s bit v).cfg = s.cfg := by
  unfold setCause
  split
  · rfl
  · extract_lets c pw s1 qw
    have h1 : s1.cfg = s.cfg := raise_cfg ..
    split
    · exact (raise_cfg ..).trans h1
    · exact h1

theorem showClu_cfg (s : State) (c : Nat) : (showClu s c).cfg = s.cfg := regSet_cfg ..

theorem clu_modClu (s : State) (c : Nat) (f : Clu → Clu) : clu (modClu s c f) c = f (clu s c) := by
  simp only [clu, modClu, tget, tget_tset, if_true, Option.getD_some]

theorem GroupsOnly.clu_eq {s t : State} (h : GroupsOnly s t) (c : Nat) : clu t c = clu s c := by
  simp only [clu, h.clus]

/-- A corrected error counts one in its bank and changes no other memory health. -/
theorem correctedError_groups (s : State) (c bank : Nat) :
    GroupsOnly (modClu s c (fun x => { x with ce := tmod 0 x.ce bank (· + 1) })) (correctedError s c bank) := by
  unfold correctedError
  extract_lets s1 cf s2
  have h1 : GroupsOnly (modClu s c (fun x => { x with ce := tmod 0 x.ce bank (· + 1) })) s1 := showClu_groups (.refl _)
  have h2 : GroupsOnly (modClu s c (fun x => { x with ce := tmod 0 x.ce bank (· + 1) })) s2 := h1.same
  exact .ite (.ite h2 (setCause_groups (raise_groups (flagSet_groups h2 (by decide))))) h1

theorem correctedError_ce (s : State) (c bank : Nat) : tget 0 (clu (correctedError s c bank) c).ce bank = tget 0 (clu s c).ce bank + 1 := by
  rw [(correctedError_groups s c bank).clu_eq, clu_modClu]
  simp only [tmod, tget, tget_tset, if_true, Option.getD_some]

theorem exec_scrubCorrected {s : State} {c b : Nat} (h : c < nClusters s ∧ b < 20 ∧ s.dev.mode ≠ .boot ∧ (!isDying s) = true) :
    exec (.scrubCorrected c b) s = .next (correctedError s c b) := congrArg next (if_pos h)

theorem exec_scrubCorrected_not {s : State} {c b : Nat} (h : ¬(c < nClusters s ∧ b < 20 ∧ s.dev.mode ≠ .boot ∧ (!isDying s) = true)) :
    exec (.scrubCorrected c b) s = .next s := congrArg next (if_neg h)

/-- The hour's count of every cluster cleared. -/
def hourCleared (s : State) : Cfg := { s.cfg with clus := s.cfg.clus.map (fun p => (p.1, { p.2 with ce := [] })), ceOver := false }

theorem exec_eccHourEnd (s : State) : ∃ t, exec .eccHourEnd s = .next t ∧ t.cfg = hourCleared s := by
  refine ⟨_, rfl, ?_⟩
  have h2 : ((s.cfg.clus.map Prod.fst).foldl showClu { s with cfg := hourCleared s }).cfg = hourCleared s :=
    foldl_keeps State.cfg showClu_cfg _ _
  split
  · exact h2
  · split
    · rw [setCause_cfg, flagSet_cfg]
      exact h2
    · exact h2

theorem clu_hourCleared {s t : State} (h : t.cfg = hourCleared s) (c : Nat) : (clu t c).ce = [] := by
  have hm := tget_map (fun _ (x : Clu) => { x with ce := [] }) s.cfg.clus c
  simp only [clu, h, hourCleared, tget, hm]
  cases tget? s.cfg.clus c <;> rfl

/-- The memory health of a cluster with `t` its newest uncorrectable error, and CFG_ECC_UE at `n`. -/
def Noted (c : Nat) (t n : Nat) (s : State) : Prop := (clu s c).ue.head? = some t ∧ regGet s R.cfgEccUe = n

theorem Noted.groups {c t n : Nat} {s u : State} (h : Noted c t n s) (k : GroupsOnly s u) : Noted c t n u :=
  ⟨by rw [k.clu_eq, h.1], k.ecc.trans h.2⟩

theorem Noted.modClu {c t n : Nat} {s : State} (h : Noted c t n s) {f : Clu → Clu} (hf : ∀ x, (f x).ue = x.ue) : Noted c t n (modClu s c f) :=
  ⟨by rw [clu_modClu, hf, h.1], h.2⟩

/-- An uncorrectable error, counted, is the newest that its cluster notes. -/
theorem countUe_noted (s : State) (c : Nat) : Noted c s.dev.ticks (regGet s R.cfgEccUe) (countUe s c) := by
  unfold countUe
  extract_lets day s1 s3 s2
  have h1 : Noted c s.dev.ticks (regGet s R.cfgEccUe) s1 := ⟨by rw [clu_modClu]; rfl, rfl⟩
  have h3 : Noted c s.dev.ticks (regGet s R.cfgEccUe) s3 := (h1.modClu (f := fun x => { x with quar := true }) fun _ => rfl).groups (raise_groups (.refl _))
  have h2 : Noted c s.dev.ticks (regGet s R.cfgEccUe) s2 := by
    unfold s2
    split
    · exact h3.groups (.foldl (fun _ _ k => askMig_groups k) (.refl s3))
    · exact h1
  exact h2.groups (cfgKick_groups (showSpares_groups (showClu_groups (.refl s2))))

theorem capN_eq_min (hi v : Nat) : capN hi v = min hi v := by
  unfold capN
  split <;> omega

/-- The repair of the word that failed, where a bay owns it, and what was done (R185). -/
def eccRepaired (s : State) (c o : Nat) (met : Option Nat) : State × Nat :=
  let host := if o < 0x40000 then hostOf s (4 * c + o / 0x10000) else none
  match host, host.bind (bay? s) with
  | some n, some b => let r := repairBay s b (o % 0x10000) (decide (met = some n)); (setBay s n r.1, r.2)
  | _, _ => (s, if 0x40000 ≤ o ∧ (o < 0x60000 ∨ 0x80000 ≤ o) then 1 else 0)

/-- The error repaired, counted in CFG_ECC_UE and raised, and the task that met it run again (R185, R186). -/
def eccRaised (s : State) (c o : Nat) (met : Option Nat) : State :=
  let p := eccRepaired s c o met
  let t := raise 0x0706 (bump p.1 R.cfgEccUe) (idx := c) (items := [(4, o), (1, p.2)])
  match met with
  | some n => rerunTask t n
  | none => t

theorem exec_eccUncorrectable {s : State} {c o : Nat} {met : Option Nat} (h : ¬(nClusters s ≤ c ∨ 0xA0000 ≤ o ∨ s.dev.mode = .boot ∨ (met.isNone ∧ isDying s))) :
    exec (.eccUncorrectable c o met) s = .next (countUe (eccRaised s c o met) c) := if_neg h

theorem eccRepaired_same (s : State) (c o : Nat) (met : Option Nat) : GroupsOnly s (eccRepaired s c o met).1 := by
  unfold eccRepaired
  extract_lets host
  split
  · exact (GroupsOnly.refl s).same
  · exact .refl s

theorem eccRaised_groups (s : State) (c o : Nat) (met : Option Nat) : GroupsOnly (bump (eccRepaired s c o met).1 R.cfgEccUe) (eccRaised s c o met) := by
  unfold eccRaised
  extract_lets p t
  have ht : GroupsOnly (bump (eccRepaired s c o met).1 R.cfgEccUe) t := raise_groups (.refl _)
  split
  · exact rerunTask_groups ht
  · exact ht

theorem eccRaised_ticks (s : State) (c o : Nat) (met : Option Nat) : (eccRaised s c o met).dev.ticks = s.dev.ticks := by
  rw [(eccRaised_groups s c o met).dev, bump_dev, (eccRepaired_same s c o met).dev]

theorem eccRaised_ecc (s : State) (c o : Nat) (met : Option Nat) :
    regGet (eccRaised s c o met) R.cfgEccUe = min (2 ^ 32 - 1) (regGet s R.cfgEccUe + 1) := by
  rw [(eccRaised_groups s c o met).ecc, regGet_bump, (eccRepaired_same s c o met).ecc, capN_eq_min]

/-! ### Bridges (R18) -/

theorem lostQ_invalid (s : State) (n c : Nat) : qHas (lostQ s n c).toNat qVALID = false := by
  unfold lostQ
  split
  · split
    · decide
    · cases s.mir.inUse <;> decide
  · decide

/-- A word that a bridge lost, counted with the crossings that it corrected, and raised. -/
def bridgeRaised (s : State) (n : Nat) (x : Crossing) : State :=
  raise 0x0104 { s with dev := { s.dev with
      bridgeUe := tset s.dev.bridgeUe n (min 65535 (tget 0 s.dev.bridgeUe n + 1)), bridgeCe := tset s.dev.bridgeCe n (min 65535 (tget 0 s.dev.bridgeCe n + x.corrected)) } }
    (items := [(1, n)])

theorem exec_bridgeUncorrectable {s : State} {n : Nat} {x : Crossing} (h : ¬(44 ≤ n ∨ (nClusters s ≤ n ∧ n < 36) ∨ (!partRuns s) = true)) :
    exec (.bridgeUncorrectable n x) s = .next (match x.lost with
      | some (b, c, tag) => stage (bridgeRaised s n x) b (c % 8) ⟨0, lostQ (bridgeRaised s n x) b (c % 8), c % 8, tag⟩
      | none => bridgeRaised s n x) := by
  show execBridgeUncorrectable n x s = _
  unfold execBridgeUncorrectable
  rw [if_neg h]
  simp only [capN_eq_min]
  rfl

/-- Settles O48, from the checks of SELFTEST in their order, SELFTEST_DONE by its kind, and what each memory or bridge error counts. -/
theorem selfTestsAndMemoryErrors : Obligations.SelfTestsAndMemoryErrors := by
  intro s
  refine ⟨fun e i k x h hk hx => ⟨selftest_badMode h hk, fun hb hm => ?_⟩, fun x faults cells hx => ?_, fun faults cells hx => ?_, fun c b hc hb hm hd => ?_,
    fun c b h => ?_, ?_, fun c o met hc ho hm hd => ?_, fun c o met h => ?_, fun n x u hn hc hr hu => ?_, fun n x h => ?_⟩
  · have hm' : ¬selfBadMode s k := not_or.mpr ⟨hb, hm⟩
    refine ⟨selftest_badParam h hk hx hm', fun hk7 ht => ?_⟩
    have hp : ¬(7 < k ∨ targetOk s k x = false) := by simp [hk7, ht]
    refine ⟨selftest_noResource h hk hx hm' hp, fun h0 h1 => ?_⟩
    have hr : ¬selfNoSpare s k := by
      rintro (⟨h, hs⟩ | ⟨h, hf⟩)
      · exact h0 h hs
      · simp [h1 h] at hf
    refine ⟨selftest_busy h hk hx hm' hp hr, fun hs hc => ⟨selftest_begins h hk hx hm' hp hr ?_, fun h2 => selfBegin_selftest h2⟩⟩
    rintro (hs' | ⟨hk17, hc'⟩)
    · simp [hs] at hs'
    · simp [hc hk17] at hc'
  · rw [selftestDone_eq hx]
    refine ⟨fun h => ?_, fun h => ?_, fun bad h hb => ?_, fun h => ?_, fun h3 h4 h5 h6 => ?_, selfFinish_selftest s⟩
    · simp [h]
    · simp [h]
    · simp [h, hb]
    · simp [h]
    · simp [h3, h4, h5, h6]
  · show execSelftestDone faults cells s = _
    simp only [execSelftestDone, hx]
  · exact ⟨_, exec_scrubCorrected ⟨hc, hb, hm, by simp [hd]⟩, correctedError_ce s c b⟩
  · refine exec_scrubCorrected_not fun ⟨hc, hb, hm, hd⟩ => ?_
    rcases h with h | h | h | h
    · exact absurd hc (Nat.not_lt.mpr h)
    · exact absurd hb (Nat.not_lt.mpr h)
    · exact hm h
    · simp [h] at hd
  · obtain ⟨t, ht, hcfg⟩ := exec_eccHourEnd s
    exact ⟨t, ht, by rw [hcfg]; rfl, clu_hourCleared hcfg⟩
  · have hn := countUe_noted (eccRaised s c o met) c
    rw [eccRaised_ticks, eccRaised_ecc] at hn
    refine ⟨_, exec_eccUncorrectable ?_, hn.2, hn.1⟩
    rintro (h | h | h | ⟨hi, h⟩)
    · exact absurd hc (Nat.not_lt.mpr h)
    · exact absurd ho (Nat.not_lt.mpr h)
    · exact hm h
    · simp [hd (Option.isNone_iff_eq_none.mp hi)] at h
  · exact if_pos (by simpa using h)
  · have hx := exec_bridgeUncorrectable (s := s) (n := n) (x := x) (by simp [hr]; omega)
    subst hu
    refine ⟨fun hl => ?_, fun b c tag hl => ⟨?_, lostQ_invalid ..⟩⟩
    · rw [hx, hl]; rfl
    · rw [hx, hl]; rfl
  · exact if_pos (by simpa using h)

end Sys2Proof.Machine

namespace Sys2Proof.Machine

/-! ### The front end's tables after a change of one entry -/

theorem afeCh_modCh (s : State) (n m : Nat) (f : AfeCh → AfeCh) : afeCh (modCh s n f) m = if m = n then f (afeCh s n) else afeCh s m := by
  simp only [afeCh, modCh, tget, tget_tset]
  split <;> rfl

theorem afeCh_modCh_same (s : State) (n : Nat) (f : AfeCh → AfeCh) : afeCh (modCh s n f) n = f (afeCh s n) := by
  rw [afeCh_modCh, if_pos rfl]

theorem afeCh_congr {s t : State} (h : t.afe.chans = s.afe.chans) (n : Nat) : afeCh t n = afeCh s n := by
  simp only [afeCh, h]

theorem HostOnly.chans {s t : State} (h : HostOnly s t) : t.afe.chans = s.afe.chans := by rw [h.afe]

/-! ### Masks -/

theorem bitOf_eq_testBit (v i : Nat) : bitOf v i = v.testBit i := by
  rw [bitOf, Nat.testBit_eq_decide_div_mod_eq]
  rfl

theorem mem_setBits {n v i : Nat} : i ∈ setBits n v ↔ i < n ∧ bitOf v i = true := by
  simp [setBits]

theorem maskOf_succ (n : Nat) (p : Nat → Bool) : maskOf (n + 1) p = if p n then maskOf n p + 2 ^ n else maskOf n p := by
  simp only [maskOf, List.range_succ, List.foldl_append, List.foldl_cons, List.foldl_nil]

theorem maskOf_lt (n : Nat) (p : Nat → Bool) : maskOf n p < 2 ^ n := by
  induction n with
  | zero => exact Nat.one_pos
  | succ n ih =>
    rw [maskOf_succ, Nat.pow_succ]
    split <;> omega

/-- The bits of a mask are what it was made from. -/
theorem bitOf_maskOf {n : Nat} (p : Nat → Bool) {i : Nat} (h : i < n) : bitOf (maskOf n p) i = p i := by
  induction n with
  | zero => omega
  | succ n ih =>
    have hlt := maskOf_lt n p
    rw [bitOf_eq_testBit, maskOf_succ]
    rcases Nat.lt_succ_iff_lt_or_eq.mp h with hi | rfl
    · rw [← ih hi, bitOf_eq_testBit]
      split
      · rw [Nat.add_comm, Nat.testBit_two_pow_add_gt hi]
      · rfl
    · split
      · next hp => rw [Nat.add_comm, Nat.testBit_two_pow_add_eq, Nat.testBit_lt_two_pow hlt, hp]; rfl
      · next hp => rw [Nat.testBit_lt_two_pow hlt, Bool.eq_false_of_not_eq_true hp]

end Sys2Proof.Machine

namespace Sys2Proof.Machine

/-! ### Conversions and snapshots: `Obligations.ConversionsAndSnapshotsAreStored` -/

/-- What a channel's buffer says of its results but for their flags: how many there are, and the code and instant at each place. -/
def AfeCh.results (c : AfeCh) : Nat × (Nat → Option (Int × QInst)) := (c.cnt, fun i => (tget? c.buf i).map fun e => (e.code, e.at_))

/-- The results of channel `n`. -/
def chResults (n : Nat) (s : State) : Nat × (Nat → Option (Int × QInst)) := (afeCh s n).results

theorem AfeCh.put_results {c d : AfeCh} (h : d.results = c.results) (e : BufEntry) : (d.put e).results = (c.put e).results := by
  simp only [AfeCh.results, Prod.mk.injEq] at h
  obtain ⟨hc, hb⟩ := h
  simp only [AfeCh.results, AfeCh.put, hc, Prod.mk.injEq, true_and]
  funext i
  rw [tget_tset, tget_tset]
  split
  · rfl
  · exact congrFun hb i

/-- RECOVERING put on entries changes flags alone. -/
theorem AfeCh.markFrom_results (c : AfeCh) (h : QInst) : (c.markFrom h).results = c.results := by
  simp only [AfeCh.results, AfeCh.markFrom, Prod.mk.injEq, true_and]
  funext i
  have hm := tget_map (fun _ (e : BufEntry) => if h ≤ e.hold ∧ e.flags / 2 % 2 = 0 then { e with flags := e.flags + 2 } else e) c.buf i
  rw [hm, Option.map_map]
  congr 1
  funext e
  simp only [Function.comp_apply]
  split <;> rfl

/-- A channel changed in anything but its results. -/
theorem chResults_modCh (n m : Nat) (s : State) {f : AfeCh → AfeCh} (hf : ∀ c, (f c).results = c.results := by exact fun _ => rfl) :
    chResults n (modCh s m f) = chResults n s := by
  simp only [chResults, afeCh_modCh]
  split
  · next h => rw [hf, h]
  · rfl

theorem chResults_host {s t : State} (h : HostOnly s t) (n : Nat) : chResults n t = chResults n s := by
  simp only [chResults, afeCh_congr h.chans]

/-! The taps take words and leave the channels alone (R104). -/

theorem tapFlush_chans (s : State) (tap : Nat) : (tapFlush s tap).afe.chans = s.afe.chans := by
  unfold tapFlush
  extract_lets t i af s1
  split
  · rfl
  · split
    · split
      · exact (ringPut_host s1 i _).chans
      · exact (bumpBy_host s1 _ _).chans
    · exact (bumpBy_host s1 _ _).chans

theorem tapPut_chans (s : State) (tap : Nat) (w : SampleWord) : (tapPut s tap w).afe.chans = s.afe.chans := by
  unfold tapPut
  extract_lets t s1 t1 t2 af s2
  have h1 : s1.afe.chans = s.afe.chans := by
    unfold s1
    split
    · split
      · rfl
      · exact tapFlush_chans s tap
    · rfl
  split
  · exact (tapFlush_chans s2 tap).trans h1
  · exact h1

theorem tapResult_chans (s : State) (n : Nat) (e : BufEntry) : (tapResult s n e).afe.chans = s.afe.chans := by
  refine foldl_keeps (fun s => s.afe.chans) (fun st tap => ?_) _ s
  split
  · extract_lets t c d af st1
    split
    · exact tapPut_chans st1 tap _
    · rfl
  · rfl

/-- What is left of a channel once its results have been offered to the taps. -/
theorem afeCh_tapUp (s : State) (n m : Nat) : afeCh (tapUp s n) m = if m = n then { afeCh s n with tapped := (afeCh s n).cnt } else afeCh s m := by
  unfold tapUp
  extract_lets c s1
  have h1 : s1.afe.chans = s.afe.chans := by
    refine foldl_keeps (fun s => s.afe.chans) (fun st i => ?_) _ s
    split
    · exact tapResult_chans st _ _
    · rfl
  rw [afeCh_modCh, afeCh_congr h1, afeCh_congr h1]

/-! A result written, and what it may bring about (R87, R99 to R102). -/

theorem setCause_afe (s : State) (bit : Nat) (v : Bool) : (setCause s bit v).afe = s.afe := by
  unfold setCause
  split
  · rfl
  · extract_lets c pw s1 qw
    have h1 : s1.afe = s.afe := raise_afe ..
    split
    · exact (raise_afe ..).trans h1
    · exact h1

theorem substPerm_afe (s : State) (n reason : Nat) :
    (substPerm s n reason).afe = { s.afe with spare := { s.afe.spare with perm := some n, phase := .idle, queued := [] } } := by
  unfold substPerm
  extract_lets s1 s2
  rw [setCause_afe, raise_afe]
  exact (flagSet_afe ..).trans ((flagSet_afe ..).trans (regSet_afe ..))

theorem selfCheckFail_results (s : State) (n m : Nat) : chResults m (selfCheckFail s n) = chResults m s := by
  unfold selfCheckFail
  split
  · simp only [chResults, afeCh, substPerm_afe]
    exact chResults_modCh m n s
  · split
    · rfl
    · exact (chResults_host ((flagSet_host ..).trans (raise_host ..)) m).trans (chResults_modCh m n s)

theorem fillIgnored_results {s : State} {n : Nat} (h : (afeCh s n).ignored = []) (e : BufEntry) (m : Nat) :
    chResults m (fillIgnored s n e) = chResults m s := by
  unfold fillIgnored
  extract_lets c
  split
  · exact chResults_modCh m n s
  · extract_lets due
    have hd : due = [] := by simp only [due, c, h, List.filter_nil]
    rw [hd]
    exact chResults_modCh m n s

theorem episode_results (s : State) (n : Nat) (e : BufEntry) (ovr : Bool) (m : Nat) : chResults m (episode s n e ovr) = chResults m s := by
  unfold episode
  extract_lets c open_ tail start s1 s2
  have h1 : chResults m s1 = chResults m s :=
    (chResults_host (flagSet_host ..) m).trans (chResults_modCh m n s)
  have h2 : chResults m s2 = chResults m s :=
    (foldl_keeps (chResults m) (fun st k => chResults_modCh m k st fun c => c.markFrom_results _) _ s1).trans h1
  split
  · split
    · exact h2
    · have h3 : chResults m (raise 0x0406 (modCh s2 n (fun c => { c with ovrEvt := some s2.dev.ticks })) (idx := n) (att := some (attAt s2 (e.hold * 16384)))) =
          chResults m s := ((chResults_host (raise_host ..) m).trans (chResults_modCh m n s2)).trans h2
      split_ifs
      · exact h2
      · exact h3
  · split
    · exact chResults_modCh m n s
    · rfl

/-- A result that no snapshot displaced, with no ignored edge before it, is put at the channel's next place. -/
theorem writeResult_results {s : State} {n : Nat} {at_ : QInst} (ha : (afeCh s n).aborted.map Prod.fst ≠ some at_) (hi : (afeCh s n).ignored = [])
    (code : Int) (ok : Bool) :
    ∃ e : BufEntry, e.code = satI 16 code ∧ e.at_ = at_ ∧ chResults n (writeResult s n at_ code ok) = ((afeCh s n).put e).results := by
  unfold writeResult
  extract_lets c delay cd ovr fails e0 e s1 s2 s3
  rw [if_neg ha]
  refine ⟨e, rfl, rfl, ?_⟩
  have h1 : chResults n s1 = chResults n s := by
    simp only [s1, chResults, afeCh_tapUp, if_true]
    refine (fillIgnored_results (n := n) ?_ e n).trans (chResults_modCh n n s)
    rw [afeCh_modCh_same]
    exact hi
  have h2 : chResults n s2 = ((afeCh s n).put e).results := by
    simp only [s2, chResults, afeCh_modCh_same]
    exact AfeCh.put_results h1 e
  have h3 : chResults n s3 = ((afeCh s n).put e).results := (episode_results s2 _ e ovr n).trans h2
  split
  · exact (selfCheckFail_results s3 n n).trans h3
  · exact h3

theorem conversionComplete_writes {s : State} {ch at_ : Nat} (hc : ch < 32) (hr : chConverts s ch = true) (hd : convDone s ch at_ = true)
    (ha : (afeCh s ch).aborted.map Prod.fst ≠ some at_) (hi : (afeCh s ch).ignored = []) (code : Int) (ok : Bool) :
    ∃ t e, exec (.conversionComplete ch at_ code ok) s = .next t ∧ (afeCh t ch).cnt = (afeCh s ch).cnt + 1 ∧
      tget? (afeCh t ch).buf ((afeCh s ch).cnt % 4096) = some e ∧ e.code = satI 16 code ∧ e.at_ = at_ := by
  obtain ⟨e, he, hat, h⟩ := writeResult_results ha hi code ok
  simp only [chResults, AfeCh.results, AfeCh.put, Prod.mk.injEq] at h
  obtain ⟨hcnt, hbuf⟩ := h
  have hx := congrFun hbuf ((afeCh s ch).cnt % 4096)
  rw [tget_tset, if_pos rfl, Option.map_some, Option.map_eq_some_iff] at hx
  obtain ⟨x, hx, hxe⟩ := hx
  rw [Prod.mk.injEq] at hxe
  obtain ⟨h1, h2⟩ := hxe
  exact ⟨_, x, if_pos (by simp [hc, hr, hd]), hcnt, hx, h1.trans he, h2.trans hat⟩

theorem conversionComplete_not {s : State} {ch at_ : Nat}
    (h : 32 ≤ ch ∨ chConverts s ch = false ∨ convDone s ch at_ = false ∨ (afeCh s ch).aborted.map Prod.fst = some at_) (code : Int) (ok : Bool) :
    exec (.conversionComplete ch at_ code ok) s = .next s := by
  show execConversionComplete ch at_ code ok s = _
  unfold execConversionComplete
  split
  · next hc =>
    simp only [Bool.and_eq_true, decide_eq_true_eq] at hc
    obtain ⟨⟨h32, hr⟩, hd⟩ := hc
    have ha : (afeCh s ch).aborted.map Prod.fst = some at_ := by
      rcases h with h | h | h | h
      · omega
      · simp [h] at hr
      · simp [h] at hd
      · exact h
    exact congrArg next (if_pos ha)
  · rfl

/-! Snapshots (R92 to R94). -/

/-- A channel cannot be taken by a snapshot within the conversion period after its last one (R94). -/
theorem snapClash_not (p : Option QInst) (at_ : QInst) :
    (!match p with | some p => decide (p ≤ at_) && decide (at_ < p + 1929) | none => false) =
      (match p with | some p => decide (at_ < p) || decide (p + 1929 ≤ at_) | none => true) := by
  cases p with
  | none => rfl
  | some p => simp [Bool.not_and, ← decide_not]

/-- The channels that a snapshot takes: those selected that have a path and no snapshot in the conversion period before. -/
def snapTaken (s : State) (x : Snap) : List Nat :=
  ((setBits 32 x.mask).filter (fun n => chHasPath s n)).filter (fun n =>
    !match (afeCh s n).prevSnap with | some p => decide (p ≤ x.at_) && decide (x.at_ < p + 1929) | none => false)

/-- The state in which a due snapshot holds its channels, no longer waiting; the others selected are counted. -/
def snapHolds (s : State) (x : Snap) : State :=
  (snapTaken s x).foldl (fun st n => modCh st n (fun c => { c with prevSnap := some x.at_, aborted := (displace s n x.at_).orElse (fun _ => c.aborted) }))
    (bumpBy { s with afe := { s.afe with snaps := s.afe.snaps.erase x } } R.afeSnapCollide
      (((setBits 32 x.mask).filter (fun n => chHasPath s n)).length - (snapTaken s x).length))

theorem snapHolds_keeps {β : Type} (s : State) (x : Snap) (g : Afe → β) (hg : ∀ a c, g { a with chans := c } = g a) :
    g (snapHolds s x).afe = g { s.afe with snaps := s.afe.snaps.erase x } := by
  unfold snapHolds
  refine (foldl_keeps (fun s => g s.afe) (fun st n => ?_) _ _).trans (congrArg g (bumpBy_afe ..))
  exact hg _ _

theorem exec_snapshotTake {s : State} {x : Snap} (h : s.afe.snaps.find? (fun x => decide (x.at_ * 16384 ≤ now s)) = some x) :
    exec .snapshotTake s = .next { snapHolds s x with afe := { (snapHolds s x).afe with
      snapRun := (snapHolds s x).afe.snapRun ++ [(x, maskOf 32 (fun n => (snapTaken s x).contains n))] } } := by
  show execSnapshotTake s = _
  unfold execSnapshotTake
  rw [h]
  rfl

theorem contains_snapTaken (s : State) (x : Snap) {n : Nat} (hn : n < 32) : (snapTaken s x).contains n = (bitOf x.mask n && chHasPath s n &&
    (match (afeCh s n).prevSnap with | some p => decide (x.at_ < p) || decide (p + 1929 ≤ x.at_) | none => true)) := by
  rw [← snapClash_not, Bool.eq_iff_iff]
  simp only [snapTaken, List.contains_iff_mem, List.mem_filter, mem_setBits, Bool.and_eq_true, hn, true_and]

/-- The 32 words of a snapshot. -/
def snapWords (s : State) (x : Snap) (taken : Nat) (codes : List Int) : List SampleWord := (List.range 32).map (fun n => snapWord s x taken n (codes.getD n 0))

/-- The registers that show a snapshot written in turn: the codes, the instant, the channels taken and those at full scale (R93). -/
def snapLatch (st : State) (a : Att) (taken : Nat) (ws : List SampleWord) : State :=
  let s1 := (List.range 16).foldl (fun st k =>
    regSet st (R.afeSnapVal k) (ofSigned 16 ((ws.getD (2 * k) ⟨0, 0, 0, 0⟩).value) + 65536 * ofSigned 16 ((ws.getD (2 * k + 1) ⟨0, 0, 0, 0⟩).value))) st
  let s2 := regSet (regSet (regSet (regSet s1 R.afeSnapSecLo a.sec) R.afeSnapSecHi (a.sec / 2 ^ 32)) R.afeSnapNs a.ns) R.afeSnapFq (a.frac * 65536 + a.q.toNat)
  regSet (regSet s2 R.afeSnapValid taken) R.afeSnapOvr (maskOf 32 (fun n => bitOf ((ws.getD n ⟨0, 0, 0, 0⟩).q.toNat) 1))

theorem snapLatch_keeps {β : Type} (g : State → β) (hg : ∀ st a v, g (regSet st a v) = g st) (st : State) (a : Att) (taken : Nat) (ws : List SampleWord) :
    g (snapLatch st a taken ws) = g st := by
  unfold snapLatch
  simp only [hg]
  exact foldl_keeps g (fun _ _ => hg _ _ _) _ _

theorem snapLatch_valid (st : State) (a : Att) (taken : Nat) (ws : List SampleWord) : regGet (snapLatch st a taken ws) R.afeSnapValid = taken % 2 ^ 32 := by
  unfold snapLatch
  extract_lets s1 s2
  rw [regGet_regSet_ne _ (by decide), regGet_regSet, if_pos rfl]

/-- The snapshots held replaced. -/
def setSnapRun (s : State) (l : List (Snap × Nat)) : State := { s with afe := { s.afe with snapRun := l } }

/-- The oldest snapshot held, ended: its registers shown and its words written to the host address, if there is one. -/
def snapEnded (s : State) (x : Snap) (taken : Nat) (rest : List (Snap × Nat)) (codes : List Int) : State :=
  let s3 := snapLatch (setSnapRun s rest) (attAt s (x.at_ * 16384)) taken (snapWords s x taken codes)
  if x.host = 0 then s3 else hostWrite s3 x.host ((snapWords s x taken codes).map SampleWord.bytes).flatten

theorem snapEnded_state (s : State) (x : Snap) (taken : Nat) (rest : List (Snap × Nat)) (codes : List Int) :
    (snapEnded s x taken rest codes).afe.snapRun = rest ∧ regGet (snapEnded s x taken rest codes) R.afeSnapValid = taken % 2 ^ 32 ∧
    (snapEnded s x taken rest codes).hostMem = (if x.host = 0 then s else hostWrite s x.host ((snapWords s x taken codes).map SampleWord.bytes).flatten).hostMem := by
  unfold snapEnded
  extract_lets s3
  have hafe : s3.afe = (setSnapRun s rest).afe := snapLatch_keeps State.afe regSet_afe _ _ _ _
  have hmem : s3.hostMem = s.hostMem := snapLatch_keeps State.hostMem regSet_hostMem _ _ _ _
  have hlink : linkOk s3 = linkOk s := snapLatch_keeps linkOk (fun _ _ _ => rfl) _ _ _ _
  have hvalid : regGet s3 R.afeSnapValid = taken % 2 ^ 32 := snapLatch_valid _ _ _ _
  split
  · exact ⟨by rw [hafe]; rfl, hvalid, hmem⟩
  · refine ⟨by rw [hostWrite_afe, hafe]; rfl, ?_, ?_⟩
    · rw [← hvalid, regGet, regGet, hostWrite_regs]
    · simp only [hostWrite, hlink, apply_ite State.hostMem, hmem]

theorem exec_snapshotResult {s : State} {x : Snap} {taken : Nat} {rest : List (Snap × Nat)} (h : s.afe.snapRun = (x, taken) :: rest) (codes : List Int) :
    exec (.snapshotResult codes) s = .next (match x.cid with
      | some c => complete (snapEnded s x taken rest codes) c (if taken = 0 then stBusy else if x.late then stLate else stOk) (attAt s (x.at_ * 16384))
      | none => snapEnded s x taken rest codes) := by
  show execSnapshotResult codes s = _
  unfold execSnapshotResult
  rw [h]
  obtain ⟨mask, at_, host, cid, late⟩ := x
  cases cid <;> rfl

/-- Settles O37: what a conversion writes, what a snapshot takes, and what its result shows. -/
theorem conversionsAndSnapshotsAreStored : Obligations.ConversionsAndSnapshotsAreStored := by
  intro s
  refine ⟨fun ch at_ code ok hc hr hd ha hi => conversionComplete_writes hc hr hd ha hi code ok, fun ch at_ code ok h => conversionComplete_not h code ok,
    fun ch e h ha => ?_, fun ch ha => ?_, fun h => ?_, fun x h => ?_, fun x taken rest codes h => ?_, fun codes h => ?_⟩
  · show execDisplacedConversion ch s = _
    simp only [execDisplacedConversion, ha]
  · show execDisplacedConversion ch s = _
    simp only [execDisplacedConversion, ha]
  · have hn : s.afe.snaps.find? (fun x => decide (x.at_ * 16384 ≤ now s)) = none := List.find?_eq_none.mpr fun x hx => by simpa using h x hx
    show execSnapshotTake s = _
    unfold execSnapshotTake
    rw [hn]
  · refine ⟨_, _, exec_snapshotTake h, snapHolds_keeps s x Afe.snaps fun _ _ => rfl, congrArg (· ++ _) (snapHolds_keeps s x Afe.snapRun fun _ _ => rfl), fun n hn => ?_⟩
    exact (bitOf_maskOf _ hn).trans (contains_snapTaken s x hn)
  · obtain ⟨hrun, hvalid, hmem⟩ := snapEnded_state s x taken rest codes
    exact ⟨_, hrun, hvalid, hmem, exec_snapshotResult h codes⟩
  · show execSnapshotResult codes s = _
    simp only [execSnapshotResult, h]

end Sys2Proof.Machine

namespace Sys2Proof.Machine

/-! ### AFE_SNAP: `Obligations.AfeSnapIsQueuedOrSlotted` -/

theorem afeSnapOwn_noChannel {e : CmdEntry} (h : field e.params 0 4 = 0) (cid : Nat) (s : State) : afeSnapOwn e cid s = .rejAfter s stBadParam :=
  if_pos (.inl h)

/-- The slot that a timed AFE_SNAP takes (R91). -/
def snapSlot (s : State) (e : CmdEntry) (cid : Nat) : Sched :=
  ⟨5, false, 0xFFFF, 0, schedAtt e.params, field e.params 0 4, 0, none, if lateness s (schedAtt e.params) = 1 then now s + 10 * usI else 0, some (cid, field e.params 24 8)⟩

section Own
variable {s : State} {e : CmdEntry} {cid : Nat} (h0 : field e.params 0 4 ≠ 0) (h1 : field e.params 4 1 ≤ 1) (ha : field e.params 24 8 % 64 = 0)
  (hp : ∀ c ∈ setBits 32 (field e.params 0 4), chHasPath s c = true)
include h0 h1 ha hp

/-- The checks of the mask, the flags and the host address pass. -/
theorem afeSnap_good : ¬(field e.params 0 4 = 0 ∨ 1 < field e.params 4 1 ∨ field e.params 24 8 % 64 ≠ 0 ∨
    (setBits 32 (field e.params 0 4)).any (fun n => !chHasPath s n)) := by
  have hn : ¬(1 < field e.params 4 1) := Nat.not_lt.mpr h1
  simpa [h0, hn, ha] using hp

theorem afeSnapOwn_immediate (hf : field e.params 4 1 = 0) (hs : field e.params 8 8 = 0) (hns : field e.params 16 4 = 0) (hfr : field e.params 20 2 = 0) :
    afeSnapOwn e cid s = .later { s with
      afe := { s.afe with snaps := s.afe.snaps ++ [⟨field e.params 0 4, cdivN (now s + 10 * usI) 16384, field e.params 24 8, some cid, false⟩] } } := by
  have hb : bitOf (field e.params 4 1) 0 = false := by rw [hf]; rfl
  simp only [afeSnapOwn, if_neg (afeSnap_good h0 h1 ha hp), hb, hs, hns, hfr, Bool.false_eq_true, if_false, ne_eq, not_true_eq_false, or_self]

theorem afeSnapOwn_timed (hf : field e.params 4 1 = 1) (hns : field e.params 16 4 ≤ 999999999) {n : Nat} (hn : slotFor s 0xFFFF = some n) :
    afeSnapOwn e cid s = if lateness s (schedAtt e.params) = 2 then .rejAfter s stPast
      else .later { s with alm := { s.alm with slots := tset s.alm.slots n (snapSlot s e cid) } } := by
  have hb : bitOf (field e.params 4 1) 0 = true := by rw [hf]; rfl
  simp only [afeSnapOwn, if_neg (afeSnap_good h0 h1 ha hp), hb, if_true, if_neg (Nat.not_lt.mpr hns), hn, CmdOut.rej_eq]
  rfl

end Own

/-- Settles O30, form by form: no channel named, immediate, and timed by its lateness. -/
theorem afeSnapIsQueuedOrSlotted : Obligations.AfeSnapIsQueuedOrSlotted := by
  intro s e i h
  refine ⟨fun h0 => congrArg next (submit_rej h (by decide) (afeSnapOwn_noChannel h0 _ _)), fun h0 h1 ha hp => ?_⟩
  obtain ⟨u, hu⟩ : ∃ u, accepted s 0x30 e i = { s with hif := u } := ⟨_, accepted_eq s 0x30 e i⟩
  have hpu : ∀ c ∈ setBits 32 (field e.params 0 4), chHasPath (accepted s 0x30 e i) c = true := by rw [hu]; exact hp
  refine ⟨fun hf hs hns hfr => ?_, fun n hf hns hn => ?_⟩
  · refine congrArg next (submit_later h ((afeSnapOwn_immediate h0 h1 ha hpu hf hs hns hfr).trans ?_))
    rw [hu]
    rfl
  · have hown := afeSnapOwn_timed (cid := s.hif.nextCid) h0 h1 ha hpu hf hns (n := n) (by rw [hu]; exact hn)
    have hl : lateness (accepted s 0x30 e i) = lateness s := by rw [hu]; rfl
    rw [hl] at hown
    refine ⟨fun h2 => congrArg next (submit_rej h (by decide) (hown.trans (if_pos h2))), fun h2 => ?_⟩
    refine congrArg next (submit_later h ((hown.trans (if_neg h2)).trans ?_))
    rw [hu]
    rfl

end Sys2Proof.Machine

namespace Sys2Proof.Machine

/-! ### SAMPLE_SYNC: `Obligations.SampleSyncEdgesConvert` -/

theorem setFlt_afe (s : State) (n : Nat) (c : FltCh) : (setFlt s n c).afe = s.afe := regSet_afe ..

theorem syncReset_afe (s : State) (mask cause : Nat) : (syncReset s mask cause).afe = s.afe := by
  unfold syncReset
  extract_lets s1
  exact (raise_afe ..).trans (foldl_keeps State.afe (fun st n => (bump_afe ..).trans (setFlt_afe ..)) _ s)

theorem setSyncActive_active (s : State) (on : Bool) : (setSyncActive s on).afe.sync.active = on := by
  unfold setSyncActive
  extract_lets af sy s1
  rw [syncReset_afe, flagSet_afe]

/-! The second that is judged (R86, R88). -/

/-- Whether a TAI second with edge_src 1 on a running path has ended. -/
def secondEnded (s : State) : Prop := flag s R.afeCtl 3 = true ∧ s.afe.running = true ∧ s.afe.sync.sec < now s / secI

theorem syncRate_same {s : State} (h : ¬secondEnded s) : syncRate s = s := by
  refine if_pos ?_
  by_contra hc
  simp only [Bool.or_eq_true, Bool.not_eq_true', decide_eq_true_eq, not_or, Bool.not_eq_false, Nat.not_le] at hc
  obtain ⟨⟨h3, hr⟩, hs⟩ := hc
  exact h ⟨h3, hr, hs⟩

/-- The number of edges that a second within 200 ppm has. -/
def edgesGood (n : Nat) : Bool := decide (2073186 ≤ n) && decide (n ≤ 2074014)

theorem syncRate_judges {s : State} (h : secondEnded s) :
    (syncRate s).afe.sync.edges = 0 ∧ (syncRate s).afe.sync.sec = now s / secI ∧
    (s.afe.sync.whole = true → flag (syncRate s) R.afeStat 13 = !edgesGood s.afe.sync.edges) := by
  obtain ⟨h3, hr, hs⟩ := h
  unfold syncRate
  extract_lets y sec good quiet af s1 s2
  rw [if_neg (by simp [h3, hr, y, sec, hs])]
  have h2 : s2.afe = s1.afe := flagSet_afe ..
  have hf : flag s2 R.afeStat 13 = !good := flag_flagSet s1 (by decide)
  split
  · next hw => exact ⟨rfl, rfl, fun hw' => by simp [y, hw'] at hw⟩
  · split
    · refine ⟨by rw [raise_afe, h2], by rw [raise_afe, h2], fun _ => ?_⟩
      rw [flag, raise_regs _ _ _ _ _ _ _ _ (by decide)]
      exact hf
    · exact ⟨by rw [h2], by rw [h2], fun _ => hf⟩

/-! A conversion started, latched or ignored (R84, R87). -/

theorem chConverts_modCh (s : State) (n m : Nat) (f : AfeCh → AfeCh) : chConverts (modCh s n f) m = chConverts s m := rfl

/-- A change of every converting channel of a list changes nothing of the front end but its channels. -/
theorem foldl_converting_keeps {β : Type} (g : Afe → β) (hg : ∀ a c, g { a with chans := c } = g a) (f : AfeCh → AfeCh) (l : List Nat) (s : State) :
    g (l.foldl (fun st n => if chConverts st n then modCh st n f else st) s).afe = g s.afe := by
  refine foldl_keeps (fun s => g s.afe) (fun st n => ?_) l s
  split
  · exact hg _ _
  · rfl

theorem afeCh_foldl_converting (f : AfeCh → AfeCh) {l : List Nat} (hl : l.Nodup) (s : State) (m : Nat) :
    afeCh (l.foldl (fun st n => if chConverts st n then modCh st n f else st) s) m =
      if m ∈ l ∧ chConverts s m = true then f (afeCh s m) else afeCh s m := by
  induction l generalizing s with
  | nil => simp
  | cons k l ih =>
    obtain ⟨hk, hl⟩ := List.nodup_cons.mp hl
    rw [List.foldl_cons, ih hl]
    by_cases hc : chConverts s k = true <;> by_cases hmk : m = k <;> simp [hc, hmk, hk, chConverts_modCh, afeCh_modCh]

theorem deferEdge_sync (s : State) (e : QInst) : (deferEdge s e).afe.sync = s.afe.sync := by
  unfold deferEdge
  refine foldl_keeps (fun s => s.afe.sync) (fun st n => ?_) _ s
  extract_lets c
  split
  · split <;> rfl
  · rfl

theorem startConv_sync (s : State) (e delay : Nat) : (startConv s e delay).afe.sync = { s.afe.sync with hold := some (e + delay, e) } := by
  unfold startConv
  extract_lets af sy s1 s2
  rw [deferEdge_sync]
  unfold s2
  split
  · rfl
  · exact foldl_converting_keeps Afe.sync (fun _ _ => rfl) _ _ s1

/-- The state once an edge on SAMPLE_SYNC is counted. -/
def edgeCounted (v : State) (a : QInst) : State :=
  { v with afe := { v.afe with sync := { v.afe.sync with
      lastEdge := some a, edges := v.afe.sync.edges + 1, lost := v.afe.sync.lost || (match v.afe.sync.lastEdge with | some t => decide (t + 7716 < a) | none => false) } } }

/-- Whether the SARs are still busy with the last hold. -/
def sarsBusy (v : State) (a : QInst) : Bool := match v.afe.sync.hold with | some (h, _) => decide (a < h + 640) | none => false

/-- An edge that finds the SARs busy is latched. -/
def edgeLatched (u : State) (a : QInst) : State := { u with afe := { u.afe with sync := { u.afe.sync with latched := some a } } }

/-- An edge that finds one latched is ignored: kept for the channels that convert, and counted. -/
def edgeIgnored (u : State) (a : QInst) : State :=
  bump ((List.range 32).foldl (fun st n => if chConverts st n then modCh st n (fun c => { c with ignored := c.ignored ++ [a] }) else st) u) R.afeSyncOverrun

theorem edgeIgnored_sync (u : State) (a : QInst) : (edgeIgnored u a).afe.sync = u.afe.sync := by
  rw [edgeIgnored, bump_afe]
  exact foldl_converting_keeps Afe.sync (fun _ _ => rfl) _ _ u

theorem edgeIgnored_overrun (u : State) (a : QInst) : regGet (edgeIgnored u a) R.afeSyncOverrun = capN (2 ^ 32 - 1) (regGet u R.afeSyncOverrun + 1) := by
  rw [edgeIgnored, regGet_bump, foldl_keeps (fun s => regGet s R.afeSyncOverrun)]
  intro st n
  split <;> rfl

theorem edgeIgnored_ignored (u : State) (a : QInst) {n : Nat} (hn : n < 32) (hc : chConverts u n = true) :
    (afeCh (edgeIgnored u a) n).ignored = (afeCh u n).ignored ++ [a] := by
  rw [edgeIgnored, afeCh_congr (bump_host ..).chans, afeCh_foldl_converting _ List.nodup_range, if_pos ⟨List.mem_range.mpr hn, hc⟩]

section Edge
variable {s : State} {rising : Bool} {a : Nat}

theorem sampleSyncEdge_other (h : a ≠ syncTag s) : exec (.sampleSyncEdge rising a) s = .next s := if_pos h

variable (ha : a = syncTag s)
include ha

theorem sampleSyncEdge_unused
    (h : flag (syncRate s) R.afeCtl 3 = false ∨ (syncRate s).afe.running = false ∨ rising = flag (syncRate s) R.afeCtl 4) :
    exec (.sampleSyncEdge rising a) s = .next (syncRate s) := by
  refine (if_neg (not_not_intro ha)).trans (if_pos ?_)
  simpa [or_assoc] using h

/-- What an edge of the chosen polarity does, with edge_src 1 on a running path. -/
theorem sampleSyncEdge_used (h3 : flag (syncRate s) R.afeCtl 3 = true) (hr : (syncRate s).afe.running = true) (hp : rising ≠ flag (syncRate s) R.afeCtl 4) :
    exec (.sampleSyncEdge rising a) s = .next (
      if (syncRate s).afe.sync.active = false then edgeCounted (syncRate s) a
      else if (syncRate s).afe.sync.latched.isSome then edgeIgnored (edgeCounted (syncRate s) a) a
      else if sarsBusy (syncRate s) a then edgeLatched (edgeCounted (syncRate s) a) a
      else startConv (edgeCounted (syncRate s) a) a 0) := by
  refine (if_neg (not_not_intro ha)).trans ((if_neg (by simpa [h3, hr] using hp)).trans ?_)
  show (if (!(syncRate s).afe.sync.active) = true then next (edgeCounted (syncRate s) a)
    else if (!sarsBusy (syncRate s) a && (syncRate s).afe.sync.latched.isNone) = true then next (startConv (edgeCounted (syncRate s) a) a 0)
    else if (syncRate s).afe.sync.latched.isNone = true then next (edgeLatched (edgeCounted (syncRate s) a) a)
    else next (edgeIgnored (edgeCounted (syncRate s) a) a)) = _
  cases (syncRate s).afe.sync.active
  · rfl
  · cases (syncRate s).afe.sync.latched
    · cases sarsBusy (syncRate s) a <;> rfl
    · simp

end Edge

/-! The edge source lost and returned to (R88). -/

/-- Whether no edge has come for 1,929 ns while SAMPLE_SYNC edges are in use. -/
def edgesLost (s : State) : Prop := s.afe.sync.active = true ∧ s.afe.running = true ∧ ∃ t, s.afe.sync.lastEdge = some t ∧ t * 16384 + 1929 * nsI ≤ now s

theorem syncLost_lost {s : State} (h : edgesLost s) : exec .syncLost s = .next (raise 0x0403 (setSyncActive s false)) := by
  obtain ⟨ha, hr, t, ht, hd⟩ := h
  exact if_pos (by simp [ha, hr, ht, hd])

theorem syncLost_same {s : State} (h : ¬edgesLost s) : exec .syncLost s = .next s := by
  refine if_neg fun hc => h ?_
  simp only [Bool.and_eq_true] at hc
  obtain ⟨⟨ha, hr⟩, hd⟩ := hc
  cases ht : s.afe.sync.lastEdge with
  | none => simp [ht] at hd
  | some t => exact ⟨ha, hr, t, ht, by simpa [ht] using hd⟩

/-- Whether the top of a second that ends a full good one lets SAMPLE_SYNC return. -/
def edgesReturn (v : State) : Prop :=
  v.afe.sync.active = false ∧ v.afe.sync.ready = true ∧ flag v R.afeCtl 3 = true ∧ v.afe.running = true ∧ eventQ v % secQ < 1929

theorem syncRestored_returns {s : State} (h : edgesReturn (syncRate s)) : exec .syncRestored s = .next (raise 0x0404 (setSyncActive (syncRate s) true)) := by
  obtain ⟨ha, hrd, h3, hr, hq⟩ := h
  exact if_pos (by simp [ha, hrd, h3, hr, hq])

theorem syncRestored_same {s : State} (h : ¬edgesReturn (syncRate s)) : exec .syncRestored s = .next (syncRate s) := by
  refine if_neg fun hc => h ?_
  simp only [Bool.and_eq_true, Bool.not_eq_true', decide_eq_true_eq] at hc
  obtain ⟨⟨⟨⟨hq, ha⟩, hrd⟩, h3⟩, hr⟩ := hc
  exact ⟨ha, hrd, h3, hr, hq⟩

/-- Settles O36: the edge by its tag, its polarity and the state of the SARs; the latched conversion; loss, return and the second judged. -/
theorem sampleSyncEdgesConvert : Obligations.SampleSyncEdgesConvert := by
  intro s v hv
  subst hv
  refine ⟨fun rising a h => sampleSyncEdge_other h, fun rising a ha => ⟨sampleSyncEdge_unused ha, fun u h3 hr hp hu => ?_⟩, fun e h x hl hh => ?_, fun hl => ?_,
    fun hac hr ht => ⟨syncLost_lost ⟨hac, hr, ht⟩, setSyncActive_active s false⟩, fun h => syncLost_same ?_, fun hac hrd h3 hr hq => ⟨?_, setSyncActive_active _ true⟩,
    fun h => ?_, rfl, fun h => syncRate_same ?_, fun h3 hr hs => syncRate_judges ⟨h3, hr, hs⟩⟩
  · have hx := sampleSyncEdge_used ha h3 hr hp
    obtain rfl : u = edgeCounted (syncRate s) a := hu
    refine ⟨fun hac => ?_, fun hac hl hh => ⟨_, ?_, rfl, ?_⟩, fun h e hac hl hh hb => ?_, fun l hac hl => ?_⟩
    · rw [hx, if_pos hac]
    · have hb : sarsBusy (syncRate s) a = false := by
        unfold sarsBusy
        split
        · next h e hhe => exact decide_eq_false (Nat.not_lt.mpr (hh h e hhe))
        · rfl
      simpa [hac, hl, hb] using hx
    · rw [startConv_sync, Nat.add_zero]
    · have hb : sarsBusy (syncRate s) a = true := by simp [sarsBusy, hh, hb]
      exact hx.trans (by simp only [hac, hl, hb]; rfl)
    · refine ⟨_, by simpa [hac, hl] using hx, edgeIgnored_sync _ a, edgeIgnored_overrun _ a, fun n hn hc => edgeIgnored_ignored _ a hn hc⟩
  · refine ⟨startConv { s with afe := { s.afe with sync := { s.afe.sync with latched := none } } } e (h + 640 - e), ?_, ?_, ?_⟩
    · show execLatchedConversionStart s = _
      simp only [execLatchedConversionStart, hl, hh]
    · rw [startConv_sync]
    · rw [startConv_sync]
  · show execLatchedConversionStart s = _
    simp only [execLatchedConversionStart, hl]
  · rintro ⟨hac, hr, t, ht, hd⟩
    rcases h with h | h | h | ⟨t', ht', hd'⟩
    · simp [hac] at h
    · simp [hr] at h
    · simp [ht] at h
    · cases ht.symm.trans ht'
      exact absurd hd (Nat.not_le.mpr hd')
  · exact syncRestored_returns ⟨hac, hrd, h3, hr, hq⟩
  · refine syncRestored_same ?_
    rintro ⟨hac, hrd, h3, hr, hq⟩
    rcases h with h | h | h | h | h
    · simp [hac] at h
    · simp [hrd] at h
    · simp [h3] at h
    · simp [hr] at h
    · exact absurd hq (Nat.not_lt.mpr h)
  · rintro ⟨h3, hr, hs⟩
    rcases h with h | h | h
    · simp [h3] at h
    · simp [hr] at h
    · exact absurd hs (Nat.not_lt.mpr h)

end Sys2Proof.Machine

namespace Sys2Proof.Machine

/-! ### AFE_CAL (R100): `Obligations.SpareAndCalibrationSteps` -/

theorem setSpare_afe (s : State) (f : Spare → Spare) : (setSpare s f).afe = { s.afe with spare := f s.afe.spare } := regSet_afe ..

/-- A kind asked for in a mode that it does not run in. -/
def calBadMode (s : State) (k : Nat) : Prop := (k = 0 ∧ s.dev.mode = .boot) ∨ (k ≠ 0 ∧ s.dev.mode ≠ .test)

/-- The state in which a calibration is in progress, with cal_busy set; kind 0 queues the SARs of its mask for the spare. -/
def calBegun (s : State) (k mask cid : Nat) : State :=
  let s1 := flagSet { s with afe := { s.afe with cal := some ⟨k, mask, some cid⟩ } } R.afeStat 7 true
  if k = 0 then setSpare s1 (fun p => { p with queued := setBits 33 mask }) else s1

section AfeCal
variable {s : State} {e : CmdEntry} {cid k : Nat} (hk : k = field e.params 8 1)
include hk

theorem ownAfeCal_badParam (hp : 2 < k ∨ 2 ^ 33 ≤ field e.params 0 8) : ownAfeCal e cid s = .rejAfter s stBadParam := by
  subst hk
  exact if_pos hp

variable (hp : ¬(2 < k ∨ 2 ^ 33 ≤ field e.params 0 8))
include hp

theorem ownAfeCal_badMode (hm : calBadMode s k) : ownAfeCal e cid s = .rejAfter s stBadMode := by
  subst hk
  exact (if_neg hp).trans (if_pos hm)

variable (hm : ¬calBadMode s k)
include hm

theorem ownAfeCal_busy (hb : s.afe.cal.isSome = true) : ownAfeCal e cid s = .rejAfter s stBusy := by
  subst hk
  exact (if_neg hp).trans ((if_neg hm).trans (if_pos hb))

theorem ownAfeCal_noResource (hb : s.afe.cal = none) (hr : k = 0 ∧ flag s R.afeStat 12 = true) : ownAfeCal e cid s = .rejAfter s stNoResource := by
  subst hk
  exact (if_neg hp).trans ((if_neg hm).trans ((if_neg (by simp [hb])).trans (if_pos hr)))

theorem ownAfeCal_begins (hb : s.afe.cal = none) (hr : ¬(k = 0 ∧ flag s R.afeStat 12 = true)) :
    ownAfeCal e cid s = .later (calBegun s k (field e.params 0 8) cid) := by
  subst hk
  exact (if_neg hp).trans ((if_neg hm).trans ((if_neg (by simp [hb])).trans (if_neg hr)))

end AfeCal

theorem calBegun_state (s : State) (k mask cid : Nat) :
    (calBegun s k mask cid).afe.cal = some ⟨k, mask, some cid⟩ ∧ flag (calBegun s k mask cid) R.afeStat 7 = true ∧
    (k = 0 → (calBegun s k mask cid).afe.spare.queued = setBits 33 mask) := by
  unfold calBegun
  extract_lets af s1
  have hcal : s1.afe.cal = some ⟨k, mask, some cid⟩ := congrArg Afe.cal (flagSet_afe ..)
  have hflag : flag s1 R.afeStat 7 = true := flag_flagSet _ (by decide)
  split
  · rw [setSpare_afe]
    refine ⟨hcal, ?_, fun _ => rfl⟩
    rw [flag, setSpare, regGet_regSet_ne _ (by decide)]
    exact hflag
  · next h => exact ⟨hcal, hflag, fun h0 => absurd h0 h⟩

/-- Whether a calibration waits for its SARs, or the dying sequence holds it. -/
def calWaits (s : State) (c : AfeCal) : Prop :=
  (c.kind = 0 ∧ (s.afe.spare.queued ≠ [] ∨ s.afe.spare.phase ≠ .idle ∧ s.afe.spare.perm = none)) ∨ isDying s = true

section AfeCalDone
variable {s : State} {c : AfeCal} (hc : s.afe.cal = some c)
include hc

theorem afeCalDone_waits (h : calWaits s c) : exec .afeCalDone s = .next s := by
  show execAfeCalDone s = _
  unfold execAfeCalDone
  rw [hc]
  exact if_pos (by simpa [calWaits] using h)

theorem afeCalDone_ends (h : ¬calWaits s c) {i : Nat} (hi : c.cid = some i) :
    exec .afeCalDone s = .next (complete (flagSet (calResult { s with afe := { s.afe with cal := none } } c) R.afeStat 7 false) i stOk
      (attNow (flagSet (calResult { s with afe := { s.afe with cal := none } } c) R.afeStat 7 false))) := by
  show execAfeCalDone s = _
  unfold execAfeCalDone
  rw [hc]
  refine (if_neg (by simpa [calWaits] using h)).trans ?_
  rw [hi]

end AfeCalDone

/-! ### The spare's steps (R97 to R99) -/

/-- Whether the rotation's next step has come (R97, R552). -/
def spareDue (s : State) : Bool := elapsed s s.afe.spare.since ((if s.pwr.throttle then 3600 else fld s R.afeSpareCfg 19 8) * secT / 32)

/-- The spare's step on SAR `n`, with SAR `nxt` next in rotation: its shadow phase, or the calibration in place of one that does not convert. -/
def spareStep (s : State) (n nxt : Nat) : State :=
  setSpare s (fun p => { p with sar := n, next := nxt, since := s.dev.ticks, retried := false, phase := if chConverts s n then .shadow else .inPlace })

section SpareStep
variable {s : State}

theorem spareStepDue_waits (h : isDying s = true ∨ s.afe.spare.perm.isSome = true ∨ s.afe.spare.phase ≠ .idle ∨
    s.afe.spare.queued = [] ∧ (spareDue s = false ∨ flag s R.afeCtl 2 = false)) : exec .spareStepDue s = .next s := by
  refine if_pos ?_
  simpa [or_assoc, spareDue, imp_iff_not_or] using h

variable (hd : isDying s = false) (hp : s.afe.spare.perm = none) (hi : s.afe.spare.phase = .idle)
include hd hp hi

theorem spareStepDue_rotates (hq : s.afe.spare.queued = []) (hr : spareDue s = true) (hf : flag s R.afeCtl 2 = true) (hn : s.afe.spare.next < 32) :
    exec .spareStepDue s = .next (spareStep s s.afe.spare.next ((s.afe.spare.next + 1) % 32)) := by
  refine (if_neg ?_).trans ((if_neg ?_).trans ?_)
  · simpa [hd, hp, hi, hq, hf, spareDue] using hr
  · simpa [hq] using hn
  · simp only [hq, List.headD_nil, List.isEmpty_nil, if_true]
    rfl

theorem spareStepDue_queued {n : Nat} {l : List Nat} (hq : s.afe.spare.queued = n :: l) (hn : n < 32) :
    exec .spareStepDue s = .next (spareStep s n s.afe.spare.next) := by
  refine (if_neg ?_).trans ((if_neg ?_).trans ?_)
  · simp [hd, hp, hi, hq]
  · simpa [hq] using hn
  · simp only [hq, List.headD_cons, List.isEmpty_cons, Bool.false_eq_true, if_false]
    rfl

end SpareStep

/-- What SPARE_PHASE_DONE does by the phase that ends, outside the dying sequence (R97 to R99). -/
theorem sparePhaseDone_eq {s : State} (hd : isDying s = false) (mis : Nat) (ok : Bool) (gain ofs skew : Nat) :
    exec (.sparePhaseDone mis ok gain ofs skew) s = .next (match s.afe.spare.phase with
      | .idle => s
      | .shadow => if mis ≤ fld s R.afeSpareCfg 7 0 then setTerms (setSpare s (fun p => { p with phase := .substitute })) s.afe.spare.sar gain ofs skew
          else if s.afe.spare.retried then substPerm s s.afe.spare.sar 2 else setSpare s (fun p => { p with retried := true })
      | .substitute => if ok then setSpare s (fun p => { p with phase := .handBack }) else substPerm s s.afe.spare.sar 0
      | .handBack => if mis ≤ fld s R.afeSpareCfg 7 0 then spareEnd (setTerms s s.afe.spare.sar gain ofs skew) else substPerm s s.afe.spare.sar 1
      | .inPlace => if ok then spareEnd (setTerms s s.afe.spare.sar gain ofs skew) else substPerm s s.afe.spare.sar 0
      | .selfCal => setSpare s (fun p => { p with phase := .idle })) := by
  refine (if_neg (by simp [hd])).trans ?_
  cases s.afe.spare.phase with
  | idle | selfCal => rfl
  | substitute | inPlace => cases ok <;> rfl
  | shadow | handBack =>
    simp only [decide_eq_true_eq]
    split_ifs <;> rfl

/-! ### Reference faults (R83) -/

theorem bitOf_add_two_pow {v g : Nat} (h : bitOf v g = false) : bitOf (v + 2 ^ g) g = true := by
  rw [bitOf_eq_testBit] at h ⊢
  rw [Nat.add_comm, Nat.testBit_two_pow_add_eq, h]
  rfl

theorem bitOf_sub_two_pow {v g : Nat} (h : bitOf v g = true) : bitOf (v - 2 ^ g) g = false := by
  rw [bitOf_eq_testBit] at h ⊢
  have hle : 2 ^ g ≤ v := Nat.ge_two_pow_of_testBit h
  have hadd := Nat.testBit_two_pow_add_eq (v - 2 ^ g) g
  rw [Nat.add_sub_cancel' hle, h] at hadd
  simpa using hadd.symm

/-- The groups at fault shown in AFE_STAT, with the event of the change. -/
theorem refShown_state (s : State) (code g : Nat) :
    (raise code (fldSet s R.afeStat 11 8 s.afe.refFault) (idx := g)).afe = s.afe ∧
    fld (raise code (fldSet s R.afeStat 11 8 s.afe.refFault) (idx := g)) R.afeStat 11 8 = s.afe.refFault % 16 := by
  refine ⟨(raise_afe ..).trans (fldSet_afe ..), ?_⟩
  rw [fld, raise_regs _ _ _ _ _ _ _ _ (by decide)]
  exact fld_fldSet s (by decide) (by decide)

/-- The state in which group `g` is at fault, noted for the cycle under way of every tracker. -/
def refNoted (s : State) (g : Nat) : State :=
  { s with afe := { s.afe with refFault := s.afe.refFault + 2 ^ g, trks := s.afe.trks.map (fun (t, k) => (t, { k with refSeen := Nat.lor k.refSeen (2 ^ g) })) } }

/-- The state in which group `g` is no longer at fault. -/
def refCleared (s : State) (g : Nat) : State := { s with afe := { s.afe with refFault := s.afe.refFault - 2 ^ g } }

section RefFault
variable {s : State} {g : Nat}

theorem refFault_begins (hg : g < 4) (hb : bitOf s.afe.refFault g = false) :
    ∃ t, exec (.refFault g) s = .next t ∧ bitOf t.afe.refFault g = true ∧ fld t R.afeStat 11 8 = t.afe.refFault % 16 ∧ ∃ u, t = raise 0x0407 u (idx := g) := by
  obtain ⟨hafe, hfld⟩ := refShown_state (refNoted s g) 0x0407 g
  refine ⟨_, if_neg (by simp [hb, hg]), ?_, ?_, _, rfl⟩
  · exact (congrArg (fun a => bitOf a.refFault g) hafe).trans (bitOf_add_two_pow hb)
  · exact hfld.trans (congrArg (fun a => a.refFault % 16) hafe.symm)

theorem refRestored_ends (hg : g < 4) (hb : bitOf s.afe.refFault g = true) :
    ∃ t, exec (.refRestored g) s = .next t ∧ bitOf t.afe.refFault g = false ∧ fld t R.afeStat 11 8 = t.afe.refFault % 16 ∧ ∃ u, t = raise 0x0408 u (idx := g) := by
  obtain ⟨hafe, hfld⟩ := refShown_state (refCleared s g) 0x0408 g
  refine ⟨_, if_neg (by simp [hb, hg]), ?_, ?_, _, rfl⟩
  · exact (congrArg (fun a => bitOf a.refFault g) hafe).trans (bitOf_sub_two_pow hb)
  · exact hfld.trans (congrArg (fun a => a.refFault % 16) hafe.symm)

end RefFault

/-- Settles O38: the checks of AFE_CAL in their order and its end, the spare's steps and phases, and the references. -/
theorem spareAndCalibrationSteps : Obligations.SpareAndCalibrationSteps := by
  intro s
  refine ⟨fun e i h => ?_, fun c i hc hi h0 hd u hu => ?_, fun h => ?_, fun r hr => ?_, fun mis ok gain ofs skew hd => if_pos hd, fun mis ok gain ofs skew hd => ?_,
    fun n r => by rw [substPerm_afe]; exact ⟨rfl, rfl⟩, fun g => refFault_begins, fun g => refRestored_ends, fun g => ⟨fun h => if_pos h, fun h => if_pos (by simpa using h)⟩⟩
  · have rej : ∀ {st}, st ≠ stOk → ownAfeCal e s.hif.nextCid (accepted s 0x31 e i) = .rejAfter (accepted s 0x31 e i) st →
        exec (.afeCal e) s = .next (badCpl s (accepted s 0x31 e i) 0x31 e i st) := fun hs ho => congrArg next (submit_rej h hs ho)
    refine ⟨fun hp => rej (by decide) (ownAfeCal_badParam rfl hp), fun hk hmask => ?_⟩
    have hp : ¬(2 < field e.params 8 1 ∨ 2 ^ 33 ≤ field e.params 0 8) := by omega
    have hmode : calBadMode (accepted s 0x31 e i) (field e.params 8 1) ↔ calBadMode s (field e.params 8 1) := by rw [calBadMode, accepted_dev]; rfl
    refine ⟨fun hm => rej (by decide) (ownAfeCal_badMode rfl hp (hmode.mpr hm)), fun hm => ?_⟩
    have hm' : ¬calBadMode (accepted s 0x31 e i) (field e.params 8 1) := by
      rw [hmode, calBadMode]
      tauto
    refine ⟨fun hb => rej (by decide) (ownAfeCal_busy rfl hp hm' (by rwa [accepted_afe])),
      fun hb hk0 hf => rej (by decide) (ownAfeCal_noResource rfl hp hm' (by rwa [accepted_afe]) ⟨hk0, by rwa [accepted_flag]⟩), fun hb hf => ?_⟩
    refine ⟨_, congrArg next (submit_later h (ownAfeCal_begins rfl hp hm' (by rwa [accepted_afe]) ?_)), calBegun_state _ _ _ _⟩
    rintro ⟨hk0, hx⟩
    rw [accepted_flag, hf hk0] at hx
    cases hx
  · subst hu
    refine afeCalDone_ends hc ?_ hi
    rintro (⟨hk, hq⟩ | hx)
    · obtain ⟨hq0, hp⟩ := h0 hk
      rcases hq with hq | ⟨hph, hpm⟩
      · exact hq hq0
      · simp [hph, hpm] at hp
    · simp [hd] at hx
  · cases hc : s.afe.cal with
    | none =>
      show execAfeCalDone s = _
      simp only [execAfeCalDone, hc]
    | some c =>
      refine afeCalDone_waits hc ?_
      rcases h with h | h | ⟨c', hc', hk, hq⟩
      · simp [hc] at h
      · exact .inr h
      · cases hc.symm.trans hc'
        exact .inl ⟨hk, .inl hq⟩
  · subst hr
    refine ⟨spareStepDue_waits, fun hd hp hi => ⟨spareStepDue_rotates hd hp hi, fun n l => spareStepDue_queued hd hp hi⟩⟩
  · have hx := sparePhaseDone_eq hd mis ok gain ofs skew
    refine ⟨fun hp hm => ?_, fun hp hm => ?_, fun hp => ?_, fun hp => ?_, fun hp => ?_, fun hp => ?_, fun hp => ?_⟩ <;> rw [hx, hp]
    · exact congrArg _ (if_pos hm)
    · exact congrArg _ (if_neg (Nat.not_le.mpr hm))

end Sys2Proof.Machine

namespace Sys2Proof.Machine

/-! ### Cycle trackers (R105 to R113): `Obligations.TrackersEnablesAndFilters` -/

theorem trk_modTrk (s : State) (n : Nat) (f : Tracker → Tracker) : trk (modTrk s n f) n = f (trk s n) := by
  simp only [trk, modTrk, regSet_afe, tget, tget_tset, if_true, Option.getD_some]

theorem trk_congr {s t : State} (h : t.afe = s.afe) (n : Nat) : trk t n = trk s n := by
  simp only [trk, h]

theorem trk_freeRunStart (s : State) (n : Nat) : trk (freeRunStart s n) n = { trk s n with st := .freeRun, good := 0, bad := 0, lastX := none } :=
  (trk_congr (raise_afe ..) n).trans (trk_modTrk ..)

theorem trk_foldl_flagSet {α : Type} (f : α → Nat × Nat) (l : List α) (s : State) (n : Nat) :
    trk (l.foldl (fun st x => flagSet st (f x).1 (f x).2 true) s) n = trk s n :=
  foldl_keeps (trk · n) (fun _ _ => trk_congr (flagSet_afe ..) n) l s

/-- A block written changes the ring and its counts alone. -/
theorem trk_putBlock (s : State) (n : Nat) (b : CycleBlock) :
    trk (putBlock s n b) n = { trk s n with ring := tset (trk s n).ring ((trk s n).wr % 64) b, wr := (trk s n).wr + 1, seq := ((trk s n).seq + 1) % 2 ^ 32 } := by
  unfold putBlock
  extract_lets s1
  exact (trk_foldl_flagSet (fun c : CycleChan => (R.afeMetSat, c.ch)) _ s1 n).trans (trk_modTrk ..)

/-- A cycle that closes makes its boundary the last one and uses the crossing up; the tracker's state stays. -/
theorem closeCycle_trk (s : State) (n b base : Nat) (m : MetCycle) :
    (trk (closeCycle s n b base m) n).lastB = some b ∧ (trk (closeCycle s n b base m) n).pos = none ∧ (trk (closeCycle s n b base m) n).st = (trk s n).st := by
  unfold closeCycle
  extract_lets k
  split
  · rw [trk_modTrk]
    exact ⟨rfl, rfl, rfl⟩
  · split
    · rw [trk_foldl_flagSet (fun c => (R.afeMetSat, c)), trk_modTrk]
      exact ⟨rfl, rfl, rfl⟩
    · rw [trk_modTrk, trk_putBlock, trk_putBlock]
      exact ⟨rfl, rfl, rfl⟩
    · rw [trk_modTrk, trk_putBlock]
      exact ⟨rfl, rfl, rfl⟩

/-- Whether a tracker is one of the eight, enabled, with metering on. -/
def trkRuns (s : State) (n : Nat) : Prop := n < 8 ∧ flag s (R.afeTrkCfg n) 31 = true ∧ flag s R.afeCtl 1 = true

section Off
variable {s : State} {n : Nat} (h : 8 ≤ n ∨ flag s (R.afeTrkCfg n) 31 = false ∨ flag s R.afeCtl 1 = false) (m : MetCycle)
include h

theorem trkRuns_not : (!(decide (n < 8) && flag s (R.afeTrkCfg n) 31 && flag s R.afeCtl 1)) = true := by
  rcases h with h | h | h
  · simp [Nat.not_lt.mpr h]
  · simp [h]
  · simp [h]

theorem metBoundary_off : exec (.metBoundary n m) s = .next s := if_pos (trkRuns_not h)
theorem trkFreeRunBoundary_off : exec (.trkFreeRunBoundary n m) s = .next s := if_pos (trkRuns_not h)

end Off

section Boundary
variable {s : State} {n b : Nat} (h : trkRuns s n) (m : MetCycle)
include h

theorem trkRuns.on : ¬(!(decide (n < 8) && flag s (R.afeTrkCfg n) 31 && flag s R.afeCtl 1)) = true := by
  obtain ⟨hn, he, hc⟩ := h
  simp [hn, he, hc]

theorem metBoundary_none (hp : (trk s n).pos = none) : exec (.metBoundary n m) s = .next s := by
  refine (if_neg h.on).trans ?_
  rw [hp]

section Crossing
variable (hp : (trk s n).pos = some b)
include hp

/-- A crossing while the tracker tracks, with its reference at ref_min or more, closes the cycle. -/
theorem metBoundary_closes (hf : ¬((trk s n).st = .freeRun ∨ (trk s n).st = .relocking)) (hr : refLow s n = false) :
    ∃ t, exec (.metBoundary n m) s = .next t ∧ (trk t n).lastB = some b ∧ (trk t n).pos = none := by
  show ∃ t, execMetBoundary n m s = .next t ∧ _
  obtain ⟨hb, hpos, -⟩ := closeCycle_trk s n b 0 m
  unfold execMetBoundary
  extract_lets k
  rw [if_neg h.on, show k.pos = some b from hp]
  dsimp -zeta only
  rw [if_neg hf, if_neg (by simp [hr])]
  extract_lets bad s1
  have h1 : (trk s1 n).lastB = some b ∧ (trk s1 n).pos = none := by
    rw [trk_modTrk]
    exact ⟨hb, hpos⟩
  refine ⟨_, rfl, ?_⟩
  split
  · rw [trk_freeRunStart]
    exact h1
  · exact h1

/-- With the reference below ref_min the crossing is none, and the tracker free-runs. -/
theorem metBoundary_low (hf : ¬((trk s n).st = .freeRun ∨ (trk s n).st = .relocking)) (hr : refLow s n = true) :
    ∃ t, exec (.metBoundary n m) s = .next t ∧ (trk t n).st = .freeRun ∧ (trk t n).lastB = (trk s n).lastB ∧ (trk t n).pos = none := by
  refine ⟨freeRunStart (modTrk s n (fun k => { k with pos := none })) n, ?_, ?_⟩
  · refine (if_neg h.on).trans ?_
    rw [hp]
    exact (if_neg hf).trans (if_pos hr)
  · rw [trk_freeRunStart, trk_modTrk]
    exact ⟨rfl, rfl, rfl⟩

variable (hf : (trk s n).st = .freeRun ∨ (trk s n).st = .relocking)
include hf

theorem metBoundary_relocks (hg : 2 ≤ (trk s n).good) :
    ∃ t, exec (.metBoundary n m) s = .next t ∧ (trk t n).st = .tracking ∧ (trk t n).lastB = some b ∧ (trk t n).pos = none := by
  obtain ⟨hb, hpos, -⟩ := closeCycle_trk s n b 4 m
  refine ⟨raise 0x040B (modTrk (closeCycle s n b 4 m) n (fun k => { k with st := .tracking, good := 0, bad := 0, lastX := none })) (idx := n), ?_, ?_⟩
  · refine (if_neg h.on).trans ?_
    rw [hp]
    exact (if_pos hf).trans (if_pos hg)
  · rw [trk_congr (raise_afe ..), trk_modTrk]
    exact ⟨rfl, hb, hpos⟩

theorem metBoundary_waits (hg : (trk s n).good < 2) :
    ∃ t, exec (.metBoundary n m) s = .next t ∧ (trk t n).lastX = some b ∧ (trk t n).lastB = (trk s n).lastB ∧ (trk t n).pos = none := by
  show ∃ t, execMetBoundary n m s = .next t ∧ _
  unfold execMetBoundary
  extract_lets k
  rw [if_neg h.on, show k.pos = some b from hp]
  dsimp -zeta only
  rw [if_pos hf, if_neg (Nat.not_le.mpr hg)]
  refine ⟨_, rfl, ?_⟩
  rw [trk_modTrk]
  exact ⟨rfl, rfl, rfl⟩

end Crossing

/-- The boundary that a tracker places by itself: one nominal period after its last, or after the instant from which it runs. -/
def freeBoundary (s : State) (n : Nat) : Nat := (if (trk s n).stepped then (trk s n).startAt else (trk s n).lastB.getD (trk s n).startAt) + nominalNs s n

/-- Whether a tracker places boundaries by itself. -/
def freeRuns (s : State) (n : Nat) : Prop := (trk s n).st = .freeRun ∨ (trk s n).st = .relocking ∨ refLow s n = true

theorem trkFreeRunBoundary_same (hf : ¬freeRuns s n ∨ now s < freeBoundary s n * nsI) : exec (.trkFreeRunBoundary n m) s = .next s := by
  refine (if_neg h.on).trans (if_pos ?_)
  rcases hf with hf | hf
  · right
    simpa [freeRuns, and_assoc] using hf
  · exact .inl hf

theorem trkFreeRunBoundary_placed (hf : freeRuns s n) (ht : freeBoundary s n * nsI ≤ now s) :
    ∃ t, exec (.trkFreeRunBoundary n m) s = .next t ∧ (trk t n).lastB = some (freeBoundary s n) ∧
      (trk t n).st = (if (trk s n).st = .relocking then .relocking else .freeRun) := by
  show ∃ t, execTrkFreeRunBoundary n m s = .next t ∧ _
  unfold execTrkFreeRunBoundary
  extract_lets k b' runs s1
  have hruns : runs = true ↔ (trk s n).st = .freeRun ∨ (trk s n).st = .relocking := by simp [runs, k]
  have hr : (runs || refLow s n) = true := by
    rw [Bool.or_eq_true, hruns]
    exact or_assoc.mpr hf
  rw [if_neg h.on, if_neg (by rw [hr]; exact not_or.mpr ⟨Nat.not_lt.mpr ht, by decide⟩)]
  obtain ⟨hb, -, hst⟩ := closeCycle_trk s1 n b' 4 m
  refine ⟨_, rfl, hb, hst.trans ?_⟩
  unfold s1
  split
  · next hx => rcases hruns.mp hx with hx | hx <;> simp [hx]
  · next hx =>
    obtain ⟨-, hl⟩ := not_or.mp (mt hruns.mpr hx)
    rw [trk_freeRunStart, if_neg hl]

end Boundary

theorem metNegCrossing_used (s : State) (n : Nat) : ∃ t, exec (.metNegCrossing n) s = .next t ∧ (trk t n).neg = none ∧ (trk t n).lastB = (trk s n).lastB := by
  show ∃ t, execMetNegCrossing n s = .next t ∧ _
  have h1 : trk (modTrk s n (fun k => { k with neg := none })) n = { trk s n with neg := none } := trk_modTrk ..
  unfold execMetNegCrossing
  extract_lets k
  split
  · extract_lets hd diff
    split
    · refine ⟨_, rfl, ?_⟩
      rw [trk_congr (raise_afe ..), trk_modTrk, h1]
      exact ⟨rfl, rfl⟩
    · exact ⟨_, rfl, by rw [h1], by rw [h1]⟩
  · exact ⟨_, rfl, by rw [h1], by rw [h1]⟩

theorem metBlock_afe (s : State) (n : Nat) (b : CycleBlock) : (metBlock s n b).afe = s.afe := by
  unfold metBlock
  split
  · split <;> rfl
  · rfl

/-- The oldest block that a tracker's ring still holds. -/
def oldestBlock (s : State) (n : Nat) : Nat := if (trk s n).rd + 64 < (trk s n).wr then (trk s n).wr - 64 else (trk s n).rd

theorem metCycleBlock_consumes {s : State} {n : Nat} (hn : n < 8) (hw : oldestBlock s n < (trk s n).wr) (hm : s.dev.mode ≠ .boot) :
    ∃ t, exec (.metCycleBlock n) s = .next t ∧ (trk t n).rd = oldestBlock s n + 1 := by
  show ∃ t, execMetCycleBlock n s = .next t ∧ _
  unfold execMetCycleBlock
  extract_lets k rd s1
  have h1 : (trk s1 n).rd = oldestBlock s n + 1 := congrArg Tracker.rd (trk_modTrk ..)
  have hc : ¬(8 ≤ n ∨ k.wr ≤ rd ∨ s.dev.mode = .boot) := by
    rintro (h | h | h)
    · exact absurd hn (Nat.not_lt.mpr h)
    · exact absurd hw (Nat.not_lt.mpr h)
    · exact hm h
  rw [if_neg hc]
  split
  · split
    · exact ⟨_, rfl, (congrArg Tracker.rd (trk_congr (foldl_keeps State.afe (fun st i => metBlock_afe ..) _ s1) n)).trans h1⟩
    · exact ⟨_, rfl, h1⟩
  · exact ⟨_, rfl, h1⟩

theorem metCycleBlock_same {s : State} {n : Nat} (h : 8 ≤ n ∨ (trk s n).wr ≤ oldestBlock s n ∨ s.dev.mode = .boot) :
    exec (.metCycleBlock n) s = .next s := if_pos h

/-! ### Enables and the path's stop (R96, R114) -/

theorem skipTo_afe (s : State) (mask : Nat) : (skipTo s mask).afe = s.afe := foldl_keeps State.afe (fun _ _ => setFlt_afe ..) _ s

theorem applyChCfg_afe (s : State) (ch ilv : Nat) : (applyChCfg s ch ilv).afe = { s.afe with chEn := ch, ilv := ilv, pendCh := none, pendIlv := none } := by
  unfold applyChCfg
  extract_lets m af s1 s2
  have h2 : s2.afe = s1.afe := skipTo_afe ..
  split
  · rfl
  · split
    · rw [syncReset_afe, h2]
    · rw [h2]

/-- Enables that wait are taken up at their second. -/
theorem afeCfgEffect_takes {s : State} (hp : s.afe.pendCh.isSome = true ∨ s.afe.pendIlv.isSome = true) (ht : s.afe.cfgAt * secI ≤ now s) :
    exec .afeCfgEffect s = .next (applyChCfg s (s.afe.pendCh.getD s.afe.chEn) (s.afe.pendIlv.getD s.afe.ilv)) :=
  if_pos (Bool.and_eq_true_iff.mpr ⟨Bool.or_eq_true_iff.mpr hp, decide_eq_true ht⟩)

theorem afeCfgEffect_same {s : State} (h : (s.afe.pendCh = none ∧ s.afe.pendIlv = none) ∨ now s < s.afe.cfgAt * secI) :
    exec .afeCfgEffect s = .next s := by
  refine if_neg fun hc => ?_
  obtain ⟨hp, ht⟩ := Bool.and_eq_true_iff.mp hc
  rcases h with ⟨h1, h2⟩ | h
  · simp [h1, h2] at hp
  · exact Nat.not_le.mpr h (of_decide_eq_true ht)

/-- Taking the tap entries of a list of channels leaves every channel's buffer as it was. -/
theorem foldl_tapUp_buf (l : List Nat) (s : State) (n : Nat) : (afeCh (l.foldl tapUp s) n).buf = (afeCh s n).buf := by
  refine foldl_keeps (fun s => (afeCh s n).buf) (fun st k => ?_) l s
  rw [afeCh_tapUp]
  split
  · next hn => rw [hn]
  · rfl

theorem fastPathStop_stops {s : State} {x : Nat} (h : s.afe.stopAt = some x) (ht : x * secI ≤ now s) :
    ∃ t, exec .fastPathStop s = .next t ∧ t.afe.running = false ∧ t.afe.stopAt = none ∧ ∀ n, (afeCh t n).buf = (afeCh s n).buf := by
  show ∃ t, execFastPathStop s = .next t ∧ _
  unfold execFastPathStop
  rw [h]
  have hbuf := foldl_tapUp_buf (List.range 32) s
  extract_lets s1
  rw [show (List.range 32).foldl tapUp s = s1 from rfl] at hbuf
  clear_value s1
  exact ⟨_, if_pos ht, rfl, rfl, fun n => (congrArg AfeCh.buf (afeCh_congr rfl n)).trans (hbuf n)⟩

theorem fastPathStop_early {s : State} {x : Nat} (h : s.afe.stopAt = some x) (ht : now s < x * secI) : exec .fastPathStop s = .next s := by
  show execFastPathStop s = _
  unfold execFastPathStop
  rw [h]
  exact if_neg (Nat.not_le.mpr ht)

theorem fastPathStop_none {s : State} (h : s.afe.stopAt = none) : exec .fastPathStop s = .next s := by
  show execFastPathStop s = _
  unfold execFastPathStop
  rw [h]

/-! ### Filter resets, bank swaps and outputs (R121, R138, R140) -/

theorem fltCh_setFlt (s : State) (n m : Nat) (c : FltCh) : fltCh (setFlt s n c) m = if m = n then c else fltCh s m := by
  simp only [fltCh, setFlt, regSet_flt, tget, tget_tset]
  split <;> rfl

theorem fltCh_setFlt_same (s : State) (n : Nat) (c : FltCh) : fltCh (setFlt s n c) n = c :=
  (fltCh_setFlt ..).trans (if_pos rfl)

theorem fltCh_congr {s t : State} (h : t.flt = s.flt) (n : Nat) : fltCh t n = fltCh s n := by
  simp only [fltCh, h]

/-- A synchronising reset is ordered for the channels of its mask alone. -/
theorem fltCh_syncReset (s : State) (mask cause m : Nat) :
    fltCh (syncReset s mask cause) m = if m ∈ setBits 32 mask then { fltCh s m with resetDue := true } else fltCh s m := by
  have hl : ∀ (l : List Nat) (s : State), fltCh (l.foldl (fun st n => bump (setFlt st n { fltCh st n with resetDue := true }) (R.fltResetCnt n)) s) m =
      if m ∈ l then { fltCh s m with resetDue := true } else fltCh s m := fun l => by
    induction l with
    | nil => exact fun s => rfl
    | cons k l ih =>
      intro s
      rw [List.foldl_cons, ih, fltCh_congr (bump_flt ..), fltCh_setFlt]
      by_cases hk : m = k <;> by_cases hm : m ∈ l <;> simp [hk, hm]
  exact (fltCh_congr (raise_flt ..) m).trans (hl _ s)

theorem mem_setBits_two_pow {c ch : Nat} (h : ch < 32) : c ∈ setBits 32 (2 ^ ch) ↔ c = ch := by
  rw [mem_setBits, bitOf_eq_testBit, Nat.testBit_two_pow]
  simp only [decide_eq_true_eq]
  omega

section SyncReset
variable {s : State} {ch : Nat} (hch : ch < 32)
include hch

theorem fltSyncReset_sealed (hs : isSealed s = true) : exec (.fltSyncReset ch) s = .next (sealedWrite s (R.fltCtl ch) false) :=
  (if_neg (Nat.not_le.mpr hch)).trans (if_pos hs)

/-- The reset of one channel is ordered for that channel and no other. -/
theorem fltSyncReset_orders (hs : isSealed s = false) :
    ∃ t, exec (.fltSyncReset ch) s = .next t ∧ (fltCh t ch).resetDue = true ∧ ∀ c, c ≠ ch → fltCh t c = fltCh s c := by
  refine ⟨syncReset s (2 ^ ch) 0, (if_neg (Nat.not_le.mpr hch)).trans (if_neg (by simp [hs])), ?_, fun c hc => ?_⟩
  · rw [fltCh_syncReset, if_pos ((mem_setBits_two_pow hch).mpr rfl)]
  · rw [fltCh_syncReset, if_neg (mt (mem_setBits_two_pow hch).mp hc)]

end SyncReset

section Swap
variable {s : State} {ch code : Nat} (hch : ch < 32) (hm : s.dev.mode ≠ .boot)
include hch hm

/-- A request that names no bank of S4 is S3's alone. -/
theorem fltSwapRequest_s3 : exec (.fltSwapRequest ch code 0) s = .next (swapRequest s ch false code) := by
  refine (if_neg (not_or.mpr ⟨Nat.not_le.mpr hch, hm⟩)).trans ?_
  rfl

variable (hc : code = 2 ∨ code = 3) (ha : (fltCh s ch).b3.actB ≠ decide (code = 3))
include hc ha

theorem fltSwapRequest_unsymmetric (hs : (fltCh s ch).coef false (decide (code = 3)) ≠ ((fltCh s ch).coef false (decide (code = 3))).reverse) :
    exec (.fltSwapRequest ch code 0) s =
      .next (raise 0x0503 (flagSet s (R.fltStat ch) 14 true) (idx := ch) (items := [(1, 3), (1, b2n (decide (code = 3)))])) := by
  rw [fltSwapRequest_s3 hch hm]
  refine congrArg _ ((if_neg (by omega)).trans ((if_neg fun h => ?_).trans (if_pos hs)))
  exact ha h.1

/-- A swap to an inactive bank with symmetric coefficients, with no fade before it, schedules a fade. -/
theorem fltSwapRequest_symmetric (hf : (fltCh s ch).b3.fade = none) (hs : (fltCh s ch).coef false (decide (code = 3)) = ((fltCh s ch).coef false (decide (code = 3))).reverse) :
    exec (.fltSwapRequest ch code 0) s = .next (setFlt s ch ((fltCh s ch).setBank false { (fltCh s ch).b3 with
      fade := some ⟨decide (code = 3), 0, 0, cdivN (firstGrid 14400 (now s + 100 * usI)) 16384⟩ })) := by
  rw [fltSwapRequest_s3 hch hm]
  refine congrArg _ ((if_neg (by omega)).trans ((if_neg fun h => ?_).trans ((if_neg (not_not_intro hs)).trans (if_neg ?_))))
  · exact ha h.1
  · simp [FltCh.bank, hf]

end Swap

/-- A due fade that has formed no output begins, its length taken then. -/
theorem fadeStart_begins {s : State} {ch : Nat} {s4 : Bool} {f : Fade} (hf : ((fltCh s ch).bank s4).fade = some f) (hi : f.i = 0)
    (hd : f.start ≤ (if s4 then (fltCh s ch).tag4 else (fltCh s ch).tag3) + (if s4 then 833333 else 277778)) :
    exec (.fadeStart ch s4) s = .next (setFlt s ch ((fltCh s ch).setBank s4 { (fltCh s ch).bank s4 with
      fade := some { f with len := if s4 then fld s (R.fltFade ch) 28 16 else fld s (R.fltFade ch) 12 0 } })) := by
  show execFadeStart ch s4 s = _
  unfold execFadeStart
  extract_lets c b
  rw [show b.fade = some f from hf]
  refine (if_pos ⟨hi, hd⟩).trans ?_
  rw [Fade.begin, if_pos hi]

theorem fadeStart_none {s : State} {ch : Nat} {s4 : Bool} (hf : ((fltCh s ch).bank s4).fade = none) : exec (.fadeStart ch s4) s = .next s := by
  show execFadeStart ch s4 s = _
  unfold execFadeStart
  extract_lets c b
  rw [show b.fade = none from hf]

/-- A reset that is due leaves the chain's read index where it was. -/
theorem resetDue_rd (c : FltCh) : (if c.resetDue then c.reset else c).rd = c.rd := by
  split <;> rfl

/-- A sample taken through the chain moves its read index on by one. -/
theorem fltAdvance_rd {s : State} {ch : Nat} {e x : BufEntry} (hr : s.afe.running = true) (hp : chHasPath s ch = true)
    (he : (afeCh s ch).result? (fltCh s ch).rd = some e) (hx : (afeCh s ch).result? ((fltCh s ch).rd + 1) = some x) :
    (fltCh (fltAdvance s ch).s ch).rd = (fltCh s ch).rd + 1 := by
  unfold fltAdvance
  extract_lets c0 a
  rw [if_neg (by simp [hr, hp]), show a.result? c0.rd = some e from he, show a.result? (c0.rd + 1) = some x from hx]
  dsimp -zeta only
  extract_lets
  exact (congrArg FltCh.rd ((fltCh_setFlt ..).trans (if_pos rfl))).trans (congrArg (· + 1) (resetDue_rd c0))

/-- Settles O39: each event by the rule above for the branch of it that the clause names. -/
theorem trackersEnablesAndFilters : Obligations.TrackersEnablesAndFilters := by
  unfold Obligations.TrackersEnablesAndFilters
  intro s
  refine ⟨fun n m hn he hc => ?_, fun n m h => ⟨metBoundary_off h m, trkFreeRunBoundary_off h m⟩, metNegCrossing_used s,
    fun n rd hrd => ?_, fun hp ht => ⟨_, afeCfgEffect_takes hp ht, by simp only [applyChCfg_afe, and_self]⟩, afeCfgEffect_same,
    fun x hx => ⟨fastPathStop_stops hx, fastPathStop_early hx⟩, fastPathStop_none,
    fun ch hch => ⟨fltSyncReset_sealed hch, fltSyncReset_orders hch⟩,
    fun ch code hch hm hc hf _ ha => ⟨fun hs => ⟨_, fltSwapRequest_symmetric hch hm hc ha hf hs, ?_⟩, fltSwapRequest_unsymmetric hch hm hc ha⟩,
    fun ch s3 s4 => ?_, fun ch f => ⟨fun hf hi hd => ⟨_, fadeStart_begins (s4 := false) hf hi hd, ?_⟩, fun hf hi hd => ⟨_, fadeStart_begins (s4 := true) hf hi hd, ?_⟩⟩,
    fun ch => ⟨fadeStart_none (s4 := false), fadeStart_none (s4 := true)⟩, fun ch hch => if_pos hch, fun ch e x => fltAdvance_rd⟩
  · have h : trkRuns s n := ⟨hn, he, hc⟩
    refine ⟨fun b hp h1 h2 => ⟨metBoundary_closes h m hp (not_or.mpr ⟨h1, h2⟩), metBoundary_low h m hp (not_or.mpr ⟨h1, h2⟩)⟩,
      fun b hp hf => ⟨metBoundary_relocks h m hp hf, metBoundary_waits h m hp hf⟩, metBoundary_none h m, ?_⟩
    rintro b rfl
    refine ⟨trkFreeRunBoundary_placed h m, fun hf => trkFreeRunBoundary_same h m (hf.imp_left fun ⟨h1, h2, h3⟩ => ?_)⟩
    simp [freeRuns, h1, h2, h3]
  · subst hrd
    exact ⟨metCycleBlock_consumes, metCycleBlock_same⟩
  · rw [fltCh_setFlt_same]
    exact ⟨rfl, rfl⟩
  · show execFltSwapRequest ch s3 s4 s = _
    unfold execFltSwapRequest
    split <;> rfl
  · rw [fltCh_setFlt_same]
    rfl
  · rw [fltCh_setFlt_same]
    rfl

end Sys2Proof.Machine

namespace Sys2Proof.Machine

/-! ### Sampled-value ingest (R148 to R172): `Obligations.SampledValuesAreAcceptedOrDiscarded` -/

/-! Staging on the bay slots leaves the streams, their counters and the discard tables alone. -/

theorem slotOverflow_svi (s : State) (n c : Nat) : (slotOverflow s n c).svi = s.svi := by
  unfold slotOverflow
  extract_lets s1
  have h1 : s1.svi = s.svi := (flagSet_svi ..).trans (bump_svi ..)
  split
  · exact h1
  · split_ifs
    · exact h1
    · exact (raise_svi ..).trans h1

theorem stage_svi (s : State) (n c : Nat) (w : SampleWord) : (stage s n c w).svi = s.svi := by
  unfold stage
  split
  · rfl
  · split_ifs
    · rfl
    · exact slotOverflow_svi ..
    · extract_lets x s1
      split
      · split <;> rfl
      · rfl

theorem modBay_svi (s : State) (n : Nat) (f : Bay → Bay) : (modBay s n f).svi = s.svi := by
  unfold modBay
  split <;> rfl

theorem stageAfter_svi (s : State) (n c : Nat) (w : SampleWord) : (stageAfter s n c w).svi = s.svi := by
  unfold stageAfter
  split
  · split
    · exact stage_svi ..
    · rfl
  · rfl

theorem endSwitch_svi (s : State) (n c : Nat) : (endSwitch s n c).svi = s.svi := by
  unfold endSwitch
  split
  · exact (foldl_keeps State.svi (fun _ _ => stageAfter_svi ..) _ _).trans (modBay_svi ..)
  · rfl

theorem beginSwitch_svi (s : State) (n c : Nat) (t : QInst) : (beginSwitch s n c t).svi = s.svi :=
  (modBay_svi ..).trans (endSwitch_svi ..)

theorem stageNew_svi (s : State) (n c : Nat) (w : SampleWord) : (stageNew s n c w).svi = s.svi := by
  unfold stageNew
  split
  · split_ifs
    · rfl
    · exact (stageAfter_svi ..).trans (endSwitch_svi ..)
    · exact modBay_svi ..
  · exact stageAfter_svi ..

theorem stageOld_svi (s : State) (n c : Nat) (w : SampleWord) : (stageOld s n c w).svi = s.svi := by
  unfold stageOld
  split
  · split
    · exact stageAfter_svi ..
    · exact endSwitch_svi ..
  · rfl

/-- A change of source announced by its event. -/
theorem raise_switch_svi (s : State) (code b c v : Nat) (t : QInst) : (raise code (beginSwitch (setSrc s b c v) b c t) (bay := b) (idx := c)).svi = s.svi :=
  (raise_svi ..).trans ((beginSwitch_svi ..).trans (modBay_svi ..))

theorem fallbackOn_svi (s : State) (n : Nat) : (fallbackOn s n).svi = s.svi := by
  refine foldl_keeps State.svi (fun st x => ?_) _ s
  dsimp only
  split
  · exact raise_switch_svi ..
  · rfl

theorem svShow_svi (s : State) (n : Nat) : (svShow s n).svi = s.svi :=
  (fldSet_svi ..).trans ((fldSet_svi ..).trans (regSet_svi ..))

theorem svWrite_svi (s : State) (n : Nat) (tag : QInst) (vals : List (Int × Nat)) : (svWrite s n tag vals).svi = s.svi := by
  refine (svShow_svi ..).trans (foldl_keeps State.svi (fun st x => ?_) _ s)
  dsimp only
  split_ifs
  · exact (stageNew_svi ..).trans (raise_switch_svi ..)
  · exact stageOld_svi ..
  · exact stageNew_svi ..

/-! The streams and the counters of R176. -/

theorem setStrm_svi (s : State) (n : Nat) (x : SvStream) : (setStrm s n x).svi = { s.svi with streams := tset s.svi.streams n x } := svShow_svi ..

theorem setStrm_cnts (s : State) (n : Nat) (x : SvStream) : (setStrm s n x).svi.cnts = s.svi.cnts := by
  rw [setStrm_svi]

theorem strm_congr {s t : State} (h : t.svi = s.svi) (n : Nat) : strm t n = strm s n := congrArg (fun v : Svi => tget SvStream.empty v.streams n) h

theorem strm_setStrm (s : State) (n : Nat) (x : SvStream) : strm (setStrm s n x) n = x := by
  simp only [strm, setStrm_svi, tget, tget_tset, if_true, Option.getD_some]

/-- Counter `i` of stream `n` (R176). -/
def svCnt (s : State) (n i : Nat) : Nat := tget 0 s.svi.cnts (n * 16 + i)

theorem svCnt_congr {s t : State} (h : t.svi.cnts = s.svi.cnts) (n i : Nat) : svCnt t n i = svCnt s n i := congrArg (tget 0 · (n * 16 + i)) h

theorem svCnt_svCount_same (s : State) (n i : Nat) : svCnt (svCount s n i) n i = capN (2 ^ 32 - 1) (svCnt s n i + 1) := by
  simp only [svCnt, svCount, tmod, tget, tget_tset, if_true, Option.getD_some]

theorem svCnt_svCount_ne (s : State) (n : Nat) {i j : Nat} (h : i ≠ j) : svCnt (svCount s n j) n i = svCnt s n i := by
  simp only [svCnt, svCount, tmod, tget, tget_tset, if_neg (show n * 16 + i ≠ n * 16 + j by omega)]

/-- A count depends on the counter that it starts from alone. -/
theorem svCnt_svCount_congr {s t : State} {n i : Nat} (j : Nat) (h : svCnt t n i = svCnt s n i) : svCnt (svCount t n j) n i = svCnt (svCount s n j) n i := by
  by_cases hij : i = j
  · subst hij
    rw [svCnt_svCount_same, svCnt_svCount_same, h]
  · rw [svCnt_svCount_ne t n hij, svCnt_svCount_ne s n hij, h]

/-! What dispatches, fills and changes state counts nothing. -/

theorem svEnter_cnts (s : State) (n : Nat) (st : SvState) (tag : QInst) : (svEnter s n st tag).svi.cnts = s.svi.cnts := by
  unfold svEnter
  extract_lets x s1 code s2
  have h2 : s2.svi.cnts = s.svi.cnts := (congrArg Svi.cnts (raise_svi ..)).trans (setStrm_cnts ..)
  split_ifs
  · rfl
  · exact (congrArg Svi.cnts ((svShow_svi ..).trans (fallbackOn_svi ..))).trans h2
  · exact h2

theorem svConsume_cnts (s : State) (n i : Nat) (vals : List (Int × Nat)) : (svConsume s n i vals).svi.cnts = s.svi.cnts :=
  (setStrm_cnts ..).trans (congrArg Svi.cnts (svWrite_svi ..))

theorem svReceived_cnts (s : State) (n : Nat) (z : SvSample) : (svReceived s n z).svi.cnts = s.svi.cnts :=
  (setStrm_cnts ..).trans ((congrArg Svi.cnts (bumpBy_svi ..)).trans (svConsume_cnts ..))

theorem svDispatch_cnts (k : Nat) (s : State) (n : Nat) : (svDispatch k s n).svi.cnts = s.svi.cnts := by
  induction k generalizing s with
  | zero => rfl
  | succ k ih =>
    unfold svDispatch
    extract_lets x
    split
    · split
      · exact (ih _).trans (svReceived_cnts ..)
      · rfl
    · rfl

theorem svFrameState_cnts (s : State) (n first : Nat) (tag : QInst) (lat : Int) (sane fresh : Bool) :
    (svFrameState s n first tag lat sane fresh).svi.cnts = s.svi.cnts := by
  have hset : ∀ (st : SvState) (x : SvStream), (setStrm (svEnter s n st tag) n x).svi.cnts = s.svi.cnts :=
    fun _ _ => (setStrm_cnts ..).trans (svEnter_cnts ..)
  unfold svFrameState
  extract_lets x readmit s1 s2
  split
  · rfl
  · split
    · exact hset ..
    · rfl
  · split
    · exact hset ..
    · rfl
  · split_ifs
    · exact setStrm_cnts ..
    · exact setStrm_cnts ..
    · exact hset ..
    · exact setStrm_cnts ..

/-- A missing instant counts one SUBST. -/
theorem svMiss_subst (s : State) (n : Nat) : svCnt (svMiss s n) n 7 = capN (2 ^ 32 - 1) (svCnt s n 7 + 1) := by
  unfold svMiss
  extract_lets x cnt tag miss holdMax s1 keep s2 y
  have h1 : s1.svi.cnts = s.svi.cnts := by
    unfold s1
    split
    · split <;> exact svEnter_cnts ..
    · split
      · exact svEnter_cnts ..
      · rfl
    · rfl
    · exact setStrm_cnts ..
  have h2 : svCnt s2 n 7 = svCnt (svCount s1 n 7) n 7 := svCnt_congr (svConsume_cnts ..) n 7
  rw [svCnt_congr ((svDispatch_cnts ..).trans (setStrm_cnts ..)), h2, svCnt_svCount_same, svCnt_congr h1]

/-! Staging counts a refused sample as a duplicate or as stale, and nothing else (R152, R155). -/

theorem svRefused_code {x : SvStream} {z : SvSample} {c : Nat} (h : svRefused x z = some c) : c = 9 ∨ c = 1 := by
  unfold svRefused at h
  split_ifs at h
  · exact .inl (Option.some.inj h).symm
  · exact .inr (Option.some.inj h).symm

section Staging
variable {n i : Nat} (h1 : i ≠ 1) (h9 : i ≠ 9)
include h1 h9

theorem svCnt_svCount_refused {x : SvStream} {z : SvSample} {c : Nat} (h : svRefused x z = some c) (s : State) : svCnt (svCount s n c) n i = svCnt s n i := by
  rcases svRefused_code h with rfl | rfl
  · exact svCnt_svCount_ne s n h9
  · exact svCnt_svCount_ne s n h1

theorem svCnt_svStage (s : State) (z : SvSample) : svCnt (svStage s n z) n i = svCnt s n i := by
  unfold svStage
  extract_lets x
  split
  · next c h => exact svCnt_svCount_refused h1 h9 h s
  · exact svCnt_congr (setStrm_cnts ..) n i

theorem svCnt_stageAll (zs : List SvSample) (s : State) : svCnt (zs.foldl (fun st z => svStage st n z) s) n i = svCnt s n i :=
  foldl_keeps (svCnt · n i) (fun _ _ => svCnt_svStage h1 h9 _ _) zs s

theorem svCnt_countRefused (x : SvStream) (zs : List SvSample) (s : State) :
    svCnt (zs.foldl (fun st z => match svRefused x z with | some c => svCount st n c | none => st) s) n i = svCnt s n i := by
  refine foldl_keeps (svCnt · n i) (fun st z => ?_) zs s
  split
  · next c h => exact svCnt_svCount_refused h1 h9 h st
  · rfl

end Staging

/-! ### Accepting a frame (R153 to R158) -/

/-- What refusing a sample looks at: the samples written as received, those staged, and the newest consumed instant. -/
def SvStream.known (x : SvStream) : List Nat × List SvSample × Option QInst := (x.got, x.staged, x.newest)

theorem svRefused_congr {x y : SvStream} {z w : SvSample} (hx : x.known = y.known) (hi : z.idx = w.idx) (ht : z.tag = w.tag) : svRefused x z = svRefused y w := by
  simp only [SvStream.known, Prod.mk.injEq] at hx
  obtain ⟨hg, hs, hn⟩ := hx
  simp only [svRefused, hg, hs, hn, hi, ht]

/-- A frame's samples have the indexes and tags that the scheme gives them: whether all are refused rests on nothing else of the state. -/
theorem allRefused_congr {s t : State} {n : Nat} {x y : SvStream} (hs : t.scheme = s.scheme) (hx : y.known = x.known) (i : Nat) (a : QInst) (fr fr' : Nat) (f : SvFrame) :
    (svSamples t n i a fr f).all (fun z => (svRefused y z).isSome) = (svSamples s n i a fr' f).all (fun z => (svRefused x z).isSome) := by
  have hrec : svRec t n = svRec s n := by rw [svRec, svRec, hs]
  have hrate : svRate t n = svRate s n := by rw [svRate, svRate, hrec]
  have hdelay : svDelay t n = svDelay s n := by rw [svDelay, svDelay, hrec]
  simp only [svSamples, List.all_map, hrate, hdelay]
  refine congrArg (f.asdus.all ·) (funext fun u => congrArg Option.isSome ?_)
  exact svRefused_congr hx rfl rfl

/-- A latency above lat_max noted: counted as LATE, with LATENCY_EXCEEDED at most once a second (R154). -/
def lateNoted (s : State) (n : Nat) (late : Bool) : State :=
  if late then
    let s2 := svCount s n 5
    if mayRaise s2 (strm s2 n).lateEvt then raise 0x0606 (setStrm s2 n { strm s2 n with lateEvt := some s2.dev.ticks }) (idx := n) else s2
  else s

theorem lateNoted_scheme (s : State) (n : Nat) (late : Bool) : (lateNoted s n late).scheme = s.scheme := by
  unfold lateNoted
  split
  · extract_lets s2
    split
    · exact raise_scheme ..
    · rfl
  · rfl

theorem lateNoted_known (s : State) (n : Nat) (late : Bool) : (strm (lateNoted s n late) n).known = (strm s n).known := by
  unfold lateNoted
  split
  · extract_lets s2
    split
    · rw [strm_congr (raise_svi ..), strm_setStrm]
      rfl
    · rfl
  · rfl

theorem lateNoted_svCnt (s : State) (n : Nat) (late : Bool) {i : Nat} (h : i ≠ 5) : svCnt (lateNoted s n late) n i = svCnt s n i := by
  unfold lateNoted
  split
  · extract_lets s2
    have h2 : svCnt s2 n i = svCnt s n i := svCnt_svCount_ne s n h
    split
    · exact (svCnt_congr ((congrArg Svi.cnts (raise_svi ..)).trans (setStrm_cnts ..)) n i).trans h2
    · exact h2
  · rfl

section Accept
variable {s : State} {n i : Nat} {f : SvFrame} (hi : i = svSecond s n ((f.asdus.getLast?.map SvAsdu.smpCnt).getD 0) (nowQ s))
include hi

/-- A negative latency is counted as TAGERR, and that is all that is counted. -/
theorem svAccept_negative (h : svLatency s n i (nowQ s) < 0) : (svAccept s n f).svi.cnts = (svCount s n 4).svi.cnts := by
  subst hi
  unfold svAccept
  extract_lets rate a i lat late s0 x0 s1
  have h1 : s1.svi.cnts = s0.svi.cnts := by
    unfold s1
    split
    · exact setStrm_cnts ..
    · rfl
  rw [if_pos h]
  split
  · exact (congrArg Svi.cnts (raise_svi ..)).trans ((setStrm_cnts ..).trans h1)
  · exact h1

/-- Of the counters that neither a refused sample nor a late frame moves, a frame with a latency of 0 or more counts none where every sample is refused, OVF where the buffer is full, and else ACCEPT. -/
theorem svAccept_svCnt (h0 : 0 ≤ svLatency s n i (nowQ s)) {j : Nat} (h1 : j ≠ 1) (h9 : j ≠ 9) (h5 : j ≠ 5) :
    svCnt (svAccept s n f) n j =
      if (svSamples s n i (nowQ s) (strm s n).frames f).all (fun z => (svRefused (strm s n) z).isSome) then svCnt s n j
      else svCnt (svCount s n (if 64 ≤ ((strm s n).staged.map SvSample.frame).eraseDups.length then 8 else 0)) n j := by
  subst hi
  unfold svAccept
  extract_lets rate a i lat late s0 x0 s0' x0' s2 x2 s1 x used zs first tag fresh s3 y s4
  have hknown : x.known = (strm s n).known := lateNoted_known s n late
  have hs1 : svCnt s1 n j = svCnt s n j := lateNoted_svCnt s n late h5
  have hall := allRefused_congr (n := n) (lateNoted_scheme s n late) hknown i a x.frames (strm s n).frames f
  have hused : x.staged = (strm s n).staged := congrArg (fun k => k.2.1) hknown
  rw [if_neg (Int.not_lt.mpr h0)]
  split
  · next hz => rw [if_pos (hall.symm.trans hz), svCnt_stageAll h1 h9, hs1]
  · next hz =>
    rw [if_neg (fun h => hz (hall.trans h)), ← hused]
    split
    · exact svCnt_svCount_congr 8 ((svCnt_countRefused h1 h9 x zs s1).trans hs1)
    · have hs3 : svCnt s3 n j = svCnt s n j := (svCnt_congr (svFrameState_cnts ..) n j).trans hs1
      calc svCnt (svDispatch 512 (zs.foldl (fun st z => svStage st n z) s4) n) n j
        _ = svCnt s4 n j := (svCnt_congr (svDispatch_cnts ..) n j).trans (svCnt_stageAll h1 h9 zs s4)
        _ = svCnt (svCount s3 n 0) n j := svCnt_congr (setStrm_cnts ..) n j
        _ = svCnt (svCount s n 0) n j := svCnt_svCount_congr 0 hs3

theorem svAccept_tagError (h : svLatency s n i (nowQ s) < 0) :
    svCnt (svAccept s n f) n 4 = capN (2 ^ 32 - 1) (svCnt s n 4 + 1) ∧ svCnt (svAccept s n f) n 0 = svCnt s n 0 := by
  have hc := svAccept_negative hi h
  exact ⟨(svCnt_congr hc n 4).trans (svCnt_svCount_same s n 4), (svCnt_congr hc n 0).trans (svCnt_svCount_ne s n (by decide))⟩

section Tagged
variable (h0 : 0 ≤ svLatency s n i (nowQ s))
include h0

theorem svAccept_allRefused (h : ∀ z ∈ svSamples s n i (nowQ s) (strm s n).frames f, (svRefused (strm s n) z).isSome = true) :
    svCnt (svAccept s n f) n 0 = svCnt s n 0 :=
  (svAccept_svCnt hi h0 (by decide) (by decide) (by decide)).trans (if_pos (List.all_eq_true.mpr h))

variable (h : ∃ z ∈ svSamples s n i (nowQ s) (strm s n).frames f, svRefused (strm s n) z = none)
include h

/-- A frame with a sample that is not refused counts OVF or ACCEPT. -/
theorem svAccept_someTaken {j : Nat} (h1 : j ≠ 1) (h9 : j ≠ 9) (h5 : j ≠ 5) : svCnt (svAccept s n f) n j =
    svCnt (svCount s n (if 64 ≤ ((strm s n).staged.map SvSample.frame).eraseDups.length then 8 else 0)) n j := by
  rw [svAccept_svCnt hi h0 h1 h9 h5]
  refine if_neg fun hall => ?_
  obtain ⟨z, hz, hn⟩ := h
  have hsome := List.all_eq_true.mp hall z hz
  rw [hn] at hsome
  cases hsome

theorem svAccept_overflow (hu : 64 ≤ ((strm s n).staged.map SvSample.frame).eraseDups.length) :
    svCnt (svAccept s n f) n 8 = capN (2 ^ 32 - 1) (svCnt s n 8 + 1) ∧ svCnt (svAccept s n f) n 0 = svCnt s n 0 := by
  constructor
  · rw [svAccept_someTaken hi h0 h (by decide) (by decide) (by decide), if_pos hu, svCnt_svCount_same]
  · rw [svAccept_someTaken hi h0 h (by decide) (by decide) (by decide), if_pos hu, svCnt_svCount_ne s n (by decide)]

theorem svAccept_accepts (hu : ((strm s n).staged.map SvSample.frame).eraseDups.length < 64) :
    svCnt (svAccept s n f) n 0 = capN (2 ^ 32 - 1) (svCnt s n 0 + 1) := by
  rw [svAccept_someTaken hi h0 h (by decide) (by decide) (by decide), if_neg (Nat.not_le.mpr hu), svCnt_svCount_same]

end Tagged
end Accept

/-! Frames received (R148 to R154) -/

/-- The discard table as R151 has a frame meet it: only a redundant frame on a paired port is looked up. -/
def svDiscard (s : State) (f : SvFrame) : State × Bool :=
  match f.red with
  | some q => if pairModeOf s f.port = 0 then (s, false) else ddLookup s (decide (2 ≤ f.port)) f.src q
  | none => (s, false)

theorem svDiscard_eq {s : State} {f : SvFrame} {p : State × Bool} (h : (f.red = none ∨ pairModeOf s f.port = 0) ∧ p = (s, false) ∨
    ∃ q, f.red = some q ∧ pairModeOf s f.port ≠ 0 ∧ p = ddLookup s (decide (2 ≤ f.port)) f.src q) : svDiscard s f = p := by
  unfold svDiscard
  rcases h with ⟨hn | hm, rfl⟩ | ⟨q, hq, hm, rfl⟩
  · rw [hn]
  · split
    · exact if_pos hm
    · rfl
  · rw [hq]
    exact if_neg hm

/-- Whether a frame's ASDUs, smpRate or smpMod are not the stream's (R148). -/
def svTagBad (u : State) (n : Nat) (f : SvFrame) : Bool :=
  f.asdus.isEmpty || decide (8 < f.asdus.length) || f.asdus.any (fun u' => decide (svRate u n ≤ u'.smpCnt) || decide (u'.vals.length ≠ field (svRec u n) 3 1))
    || f.smpRate.any (fun v => decide (v ≠ svRate u n)) || f.smpMod.any (fun v => decide (v ≠ 1))

theorem svTagBad_iff {u : State} {n : Nat} {f : SvFrame} : svTagBad u n f = true ↔
    (f.asdus = [] ∨ 8 < f.asdus.length ∨ (∃ x ∈ f.asdus, svRate u n ≤ x.smpCnt ∨ x.vals.length ≠ field (svRec u n) 3 1) ∨
      (∃ v, f.smpRate = some v ∧ v ≠ svRate u n) ∨ (∃ v, f.smpMod = some v ∧ v ≠ 1)) := by
  simp [svTagBad, Option.any_eq_true, or_assoc]

theorem svTagBad_not {u : State} {n : Nat} {f : SvFrame} (hne : f.asdus ≠ []) (hlen : f.asdus.length ≤ 8)
    (has : ∀ x ∈ f.asdus, x.smpCnt < svRate u n ∧ x.vals.length = field (svRec u n) 3 1) (hr : ∀ v, f.smpRate = some v → v = svRate u n)
    (hm : ∀ v, f.smpMod = some v → v = 1) : ¬svTagBad u n f = true := by
  rw [svTagBad_iff]
  rintro (h | h | ⟨x, hx, h⟩ | ⟨v, hv, h⟩ | ⟨v, hv, h⟩)
  · exact hne h
  · exact absurd hlen (Nat.not_le.mpr h)
  · obtain ⟨hlt, hl⟩ := has x hx
    exact h.elim (Nat.not_le.mpr hlt) (· hl)
  · exact h (hr v hv)
  · exact h (hm v hv)

/-- What becomes of a frame of stream `n`: refused for its revision, its synchronisation or its tags, in that order, or accepted (R148, R150, R153). -/
def svChecked (u : State) (n : Nat) (f : SvFrame) : Host.Outcome State Fault Refusal :=
  if f.confRev ≠ field (svRec u n) 20 4 then
    next (if mayRaise u (strm u n).confEvt then raise 0x0605 (setStrm (svCount u n 2) n { strm u n with confEvt := some u.dev.ticks }) (idx := n) else svCount u n 2)
  else if f.synch < svCfg u n 30 29 then next (svCount u n 3)
  else if svTagBad u n f then next (svCount u n 4)
  else next (svAccept u n f)

/-- What becomes of a frame behind the discard table: dropped as a duplicate, counted as unmatched, or checked against its stream (R148, R149, R151). -/
def svJudged (p : State × Bool) (f : SvFrame) : Host.Outcome State Fault Refusal :=
  if p.2 then next p.1
  else match (if 0x4000 ≤ f.appid ∧ f.appid ≤ 0x7FFF then svMatch p.1 f else none) with
  | none => next (bump p.1 R.sviUnmatched)
  | some n => svChecked p.1 n f

theorem exec_svFrameRx (s : State) (f : SvFrame) : exec (.svFrameRx f) s =
    if !flag s R.sviCtl 0 || decide (3 < f.port) then next s
    else if (if pairModeOf s f.port = 0 then 1522 else 1528) < f.len then next (bump s (R.belPRxLen f.port))
    else svJudged (svDiscard s f) f := rfl

theorem svFrameRx_off {s : State} {f : SvFrame} (h : flag s R.sviCtl 0 = false ∨ 3 < f.port) : exec (.svFrameRx f) s = .next s :=
  if_pos (by simpa using h)

theorem svFrameRx_long {s : State} {f : SvFrame} (hon : flag s R.sviCtl 0 = true) (hport : f.port ≤ 3) (hlen : (if pairModeOf s f.port = 0 then 1522 else 1528) < f.len) :
    exec (.svFrameRx f) s = .next (bump s (R.belPRxLen f.port)) := by
  rw [exec_svFrameRx, if_neg (by simp [hon, hport]), if_pos hlen]

theorem svFrameRx_fits {s : State} {f : SvFrame} (hon : flag s R.sviCtl 0 = true) (hport : f.port ≤ 3) (hlen : f.len ≤ if pairModeOf s f.port = 0 then 1522 else 1528) :
    exec (.svFrameRx f) s = svJudged (svDiscard s f) f := by
  rw [exec_svFrameRx, if_neg (by simp [hon, hport]), if_neg (Nat.not_lt.mpr hlen)]

theorem svJudged_unmatched {p : State × Bool} {f : SvFrame} (hd : p.2 = false) (h : f.appid < 0x4000 ∨ 0x7FFF < f.appid ∨ svMatch p.1 f = none) :
    svJudged p f = next (bump p.1 R.sviUnmatched) := by
  have hm : (if 0x4000 ≤ f.appid ∧ f.appid ≤ 0x7FFF then svMatch p.1 f else none) = none := by
    rcases h with h | h | h
    · exact if_neg fun ⟨ha, _⟩ => Nat.not_lt.mpr ha h
    · exact if_neg fun ⟨_, ha⟩ => Nat.not_lt.mpr ha h
    · rw [h, ite_self]
  rw [svJudged, if_neg (Bool.eq_false_iff.mp hd), hm]

theorem svJudged_matched {p : State × Bool} {f : SvFrame} {n : Nat} (hd : p.2 = false) (h4 : 0x4000 ≤ f.appid) (h7 : f.appid ≤ 0x7FFF) (hm : svMatch p.1 f = some n) :
    svJudged p f = svChecked p.1 n f := by
  rw [svJudged, if_neg (Bool.eq_false_iff.mp hd), if_pos ⟨h4, h7⟩, hm]

section Checked
variable {u : State} {n : Nat} {f : SvFrame} (hc : f.confRev = field (svRec u n) 20 4)
include hc

theorem svChecked_unsync (hs : f.synch < svCfg u n 30 29) : svChecked u n f = next (svCount u n 3) :=
  (if_neg (not_not.mpr hc)).trans (if_pos hs)

theorem svChecked_tags (hs : svCfg u n 30 29 ≤ f.synch) : svChecked u n f = if svTagBad u n f then next (svCount u n 4) else next (svAccept u n f) :=
  (if_neg (not_not.mpr hc)).trans (if_neg (Nat.not_lt.mpr hs))

end Checked

/-! The timers (R151, R159, R164, R507) and publication (R172) -/

theorem svReorderExpiry_fills {s : State} {n : Nat} {z : SvSample} (hz : (strm s n).first? = some z) (hdue : (z.arr + svCfg s n 21 16 * 40000) * 16384 ≤ now s)
    (hen : (strm s n).en = true) (hw : (strm s n).wrote.isSome = true) (hx : (strm s n).exp < z.idx) (hst : (strm s n).st = .ok ∨ (strm s n).st = .hold) :
    exec (.svReorderExpiry n) s = .next (svDispatch 512 (svFill z (strm s n) (z.idx - (strm s n).exp) s n) n) := by
  show execSvReorderExpiry n s = _
  unfold execSvReorderExpiry
  extract_lets x
  rw [show x.first? = some z from hz]
  exact if_pos (by simp [x, hen, hw, hdue, hx, hst])

theorem svReorderExpiry_same {s : State} {n : Nat} (h : (∀ z, (strm s n).first? = some z → now s < (z.arr + svCfg s n 21 16 * 40000) * 16384 ∨ z.idx ≤ (strm s n).exp) ∨
    (strm s n).en = false ∨ (strm s n).wrote = none ∨ (strm s n).st = .invalid ∨ (strm s n).st = .resync) : exec (.svReorderExpiry n) s = .next s := by
  show execSvReorderExpiry n s = _
  unfold execSvReorderExpiry
  extract_lets x
  split
  · next z hz =>
    extract_lets due
    refine if_neg fun hg => ?_
    simp only [due, Bool.and_eq_true, Bool.or_eq_true, decide_eq_true_eq] at hg
    obtain ⟨⟨⟨⟨hen, hw⟩, hdue⟩, hx⟩, hst⟩ := hg
    rcases h with h | h | h | h | h
    · rcases h z hz with h | h
      · exact absurd hdue (Nat.not_le.mpr h)
      · exact absurd hx (Nat.not_lt.mpr h)
    · simp [x, h] at hen
    · simp [x, h] at hw
    · simp [x, h] at hst
    · simp [x, h] at hst
  · rfl

theorem svDeadlineExpiry_misses {s : State} {n : Nat} (hn : n < 128) (hen : (strm s n).en = true) (hon : flag s R.sviCtl 0 = true)
    (hd : deadlinePassed s n (strm s n).exp = true) (hs : ∀ z ∈ (strm s n).staged, z.idx ≠ (strm s n).exp) : exec (.svDeadlineExpiry n) s = .next (svMiss s n) :=
  if_pos (by simpa [hn, hen, hon, hd] using hs)

theorem svDeadlineExpiry_same {s : State} {n : Nat} (h : 128 ≤ n ∨ (strm s n).en = false ∨ flag s R.sviCtl 0 = false ∨ deadlinePassed s n (strm s n).exp = false ∨
    ∃ z ∈ (strm s n).staged, z.idx = (strm s n).exp) : exec (.svDeadlineExpiry n) s = .next s := by
  refine if_neg fun hg => ?_
  simp only [Bool.and_eq_true, decide_eq_true_eq, Bool.not_eq_true', List.any_eq_false] at hg
  obtain ⟨⟨⟨⟨hen, hn⟩, hon⟩, hd⟩, hs⟩ := hg
  rcases h with h | h | h | h | ⟨z, hz, h⟩
  · exact absurd hn (Nat.not_lt.mpr h)
  · simp [h] at hen
  · simp [h] at hon
  · simp [h] at hd
  · exact hs z hz h

theorem ddEntryForget_due (s : State) : exec .ddEntryForget s = .next { s with svi := { s.svi with
    dd01 := s.svi.dd01.filter (fun e => decide (s.dev.ticks < e.since + fld s R.sviCtl 15 8 * 10 * msT)), dd23 := s.svi.dd23.filter (fun e => decide (s.dev.ticks < e.since + fld s R.sviCtl 15 8 * 10 * msT)) } } := by
  have hkeep : (fun e : DdEntry => !elapsed s e.since (fld s R.sviCtl 15 8 * 10 * msT)) = fun e => decide (s.dev.ticks < e.since + fld s R.sviCtl 15 8 * 10 * msT) := by
    funext e
    simp only [elapsed, ← decide_not, Nat.not_le]
  show execDdEntryForget s = _
  rw [execDdEntryForget, hkeep]

theorem svPublishFrame_sends {s : State} {n : Nat} {r : List Byte} (hr : s.scheme.bind (fun c => c.svpub? n) = some r) (hn : n < 8) (hrun : (svPub s n).run = true)
    (hon : flag s R.sviPubCtl n = true) (hb : s.dev.mode ≠ .boot) (hd : isDying s = false) : exec (.svPublishFrame n) s = .next (pubFrame s n r) := by
  show execSvPublishFrame n s = _
  rw [execSvPublishFrame, hr]
  exact if_pos (by simp [hn, hrun, hon, hb, hd])

theorem svPublishFrame_same {s : State} {n : Nat} (h : s.scheme.bind (fun c => c.svpub? n) = none ∨ 8 ≤ n ∨ (svPub s n).run = false ∨ flag s R.sviPubCtl n = false ∨
    s.dev.mode = .boot ∨ isDying s = true) : exec (.svPublishFrame n) s = .next s := by
  show execSvPublishFrame n s = _
  unfold execSvPublishFrame
  split
  · next r hr =>
    refine if_neg fun hg => ?_
    simp only [Bool.and_eq_true, decide_eq_true_eq, Bool.not_eq_true'] at hg
    obtain ⟨⟨⟨⟨hn, hrun⟩, hon⟩, hb⟩, hd⟩ := hg
    rcases h with h | h | h | h | h | h
    · simp [h] at hr
    · exact absurd hn (Nat.not_lt.mpr h)
    · simp [h] at hrun
    · simp [h] at hon
    · exact hb h
    · simp [h] at hd
  · rfl

/-! Tap entries (R104, R507) -/

/-- The entry of a tap. -/
def tapOf (s : State) (tap : Nat) : TapBuf := tget ⟨0, [], 0⟩ s.afe.taps tap

/-- A tap's entry at a tick, written where 100 µs have passed since its first word. -/
def TapBuf.timed (t : TapBuf) (ticks : Ticks) : TapBuf := if t.words ≠ [] ∧ t.since + 100 * usT ≤ ticks then { t with words := [] } else t

theorem TapBuf.timed_timed (t : TapBuf) (ticks : Ticks) : (t.timed ticks).timed ticks = t.timed ticks := by
  by_cases h : t.words ≠ [] ∧ t.since + 100 * usT ≤ ticks
  · have hw : t.timed ticks = { t with words := [] } := if_pos h
    rw [hw]
    exact if_neg fun ⟨hne, _⟩ => hne rfl
  · have hs : t.timed ticks = t := if_neg h
    rw [hs, hs]

/-- A tap's words taken out of its entry. -/
def tapClear (s : State) (tap : Nat) : State := { s with afe := { s.afe with taps := tset s.afe.taps tap { tapOf s tap with words := [] } } }

/-- A tap written is cleared; nothing else but the host's side changes. -/
theorem tapFlush_clears (s : State) (tap : Nat) : HostOnly (tapClear s tap) (tapFlush s tap) := by
  unfold tapFlush
  extract_lets t i af s1
  split
  · exact .refl s1
  · split
    · split
      · exact ringPut_host ..
      · exact bumpBy_host ..
    · exact bumpBy_host ..

theorem tapOf_tapFlush (s : State) (tap k : Nat) : tapOf (tapFlush s tap) k = if k = tap then { tapOf s tap with words := [] } else tapOf s k := by
  rw [tapOf, (tapFlush_clears s tap).afe, tapClear, tget, tget_tset]
  split <;> rfl

/-- One tap's step of SVT_ENTRY_TIMEOUT. -/
def tapTimeout (s : State) (tap : Nat) : State := if !(tapOf s tap).words.isEmpty && elapsed s (tapOf s tap).since (100 * usT) then tapFlush s tap else s

theorem tapTimeout_dev (s : State) (tap : Nat) : (tapTimeout s tap).dev = s.dev := by
  unfold tapTimeout
  split
  · exact (tapFlush_clears s tap).dev
  · rfl

theorem tapOf_tapTimeout (s : State) (tap k : Nat) : tapOf (tapTimeout s tap) k = if k = tap then (tapOf s k).timed s.dev.ticks else tapOf s k := by
  have hc : (!(tapOf s tap).words.isEmpty && elapsed s (tapOf s tap).since (100 * usT)) = true ↔ (tapOf s tap).words ≠ [] ∧ (tapOf s tap).since + 100 * usT ≤ s.dev.ticks := by
    simp [elapsed]
  unfold tapTimeout
  by_cases hk : k = tap
  · subst hk
    rw [if_pos rfl, TapBuf.timed]
    by_cases h : (tapOf s k).words ≠ [] ∧ (tapOf s k).since + 100 * usT ≤ s.dev.ticks
    · rw [if_pos (hc.mpr h), if_pos h, tapOf_tapFlush, if_pos rfl]
    · rw [if_neg (mt hc.mp h), if_neg h]
  · rw [if_neg hk]
    split
    · rw [tapOf_tapFlush, if_neg hk]
    · rfl

/-- The taps of a list taken in turn: each of them is timed, whatever the others do. -/
theorem tapOf_foldl_tapTimeout (l : List Nat) (s : State) (k : Nat) : tapOf (l.foldl tapTimeout s) k = if k ∈ l then (tapOf s k).timed s.dev.ticks else tapOf s k := by
  induction l generalizing s with
  | nil => rfl
  | cons x l ih =>
    rw [List.foldl_cons, ih, tapTimeout_dev, tapOf_tapTimeout]
    by_cases hx : k = x
    · simp only [hx, if_true, List.mem_cons, true_or, TapBuf.timed_timed, ite_self]
    · simp only [hx, if_false, List.mem_cons, false_or]

theorem svtEntryTimeout_writes (s : State) : ∃ t, exec .svtEntryTimeout s = .next t ∧ ∀ tap, tap < 4 →
    ((tapOf s tap).words ≠ [] → (tapOf s tap).since + 100 * usT ≤ s.dev.ticks → (tapOf t tap).words = []) ∧
    ((tapOf s tap).words = [] ∨ s.dev.ticks < (tapOf s tap).since + 100 * usT → tapOf t tap = tapOf s tap) := by
  refine ⟨(List.range 4).foldl tapTimeout s, rfl, fun tap htap => ?_⟩
  rw [tapOf_foldl_tapTimeout, if_pos (List.mem_range.mpr htap)]
  refine ⟨fun hw hd => congrArg TapBuf.words (if_pos ⟨hw, hd⟩), fun h => if_neg fun ⟨hw, hd⟩ => ?_⟩
  rcases h with h | h
  · exact hw h
  · exact absurd hd (Nat.not_le.mpr h)

/-- Settles O40: each frame by the check that answers it, what an accepted one counts, then each timer and publication by its rule above. -/
theorem sampledValuesAreAcceptedOrDiscarded : Obligations.SampledValuesAreAcceptedOrDiscarded := by
  unfold Obligations.SampledValuesAreAcceptedOrDiscarded
  intro s
  refine ⟨fun f => svFrameRx_off, fun f => svFrameRx_long, fun f p hon hport hlen hp => ?_, fun f n i zs hi hzs => ?_,
    fun n z => svReorderExpiry_fills, fun n => svReorderExpiry_same, fun n hn hen hon hd hs => ⟨svDeadlineExpiry_misses hn hen hon hd hs, svMiss_subst s n⟩,
    fun n => svDeadlineExpiry_same, ddEntryForget_due s, svtEntryTimeout_writes s, fun n r => svPublishFrame_sends, fun n => svPublishFrame_same⟩
  · rw [svFrameRx_fits hon hport hlen, svDiscard_eq hp]
    refine ⟨fun hd => if_pos hd, fun hd => ⟨svJudged_unmatched hd, fun n h4 h7 hm => ?_⟩⟩
    rw [svJudged_matched hd h4 h7 hm]
    refine ⟨fun hc => if_pos hc, svChecked_unsync, fun hc hs => ?_⟩
    rw [svChecked_tags hc hs]
    exact ⟨fun hb => if_pos (svTagBad_iff.mpr hb), fun hne hlen8 has hr hmod => if_neg (svTagBad_not hne hlen8 has hr hmod)⟩
  · subst hzs
    exact ⟨svAccept_tagError hi, svAccept_allRefused hi, svAccept_overflow hi, svAccept_accepts hi⟩

end Sys2Proof.Machine

namespace Sys2Proof.Machine

/-! ### What the status registers show of bays, groups, records and the pair: host-side changes (R210, R318, R382, R447, R479) -/

theorem showBay_host (s : State) (n : Nat) : HostOnly s (showBay s n) := by
  unfold showBay
  split <;> exact regSet_host ..

theorem showRunning_host (s : State) : HostOnly s (showRunning s) :=
  ((fldSet_host ..).trans (.foldl (fun _ _ => regSet_host ..) _ _)).trans (fldSet_host ..)

theorem showLks_host (s : State) : HostOnly s (showLks s) :=
  ((HostOnly.foldl (fun _ _ => (regSet_host ..).trans (regSet_host ..)) _ _).trans (fldSet_host ..)).trans (fldSet_host ..)

theorem showMig_host (s : State) (m : Mig) (src st : Nat) : HostOnly s (showMig s m src st) := (regSet_host ..).trans (flagSet_host ..)
theorem showNoSpare_host (s : State) : HostOnly s (showNoSpare s) := flagSet_host ..
theorem showOut_host (s : State) (n w : Nat) : HostOnly s (showOut s n w) := (regSet_host ..).trans (regSet_host ..)

theorem cupStat_host (s : State) : HostOnly s (cupStat s) :=
  ((((regSet_host ..).trans (regSet_host ..)).trans (fldSet_host ..)).trans (regSet_host ..)).trans (flagSet_host ..)

theorem cupBayStat_host (s : State) (n : Nat) : HostOnly s (cupBayStat s n) := by
  unfold cupBayStat
  split
  · exact .refl s
  · exact regSet_host ..

theorem mirShow_host (s : State) : HostOnly s (mirShow s) := by
  unfold mirShow
  extract_lets m seen run s1 s2 s3 s4
  have h2 : HostOnly s s2 := (((fldSet_host ..).trans (flagSet_host ..)).trans (flagSet_host ..)).trans (flagSet_host ..)
  have h4 : HostOnly s s4 := (((h2.trans (flagSet_host ..)).trans (flagSet_host ..)).trans (flagSet_host ..)).trans (fldSet_host ..)
  split
  · exact .refl s
  · exact h4.trans (.foldl (fun _ _ => regSet_host ..) _ _)

/-! ### Properties of a state that do not see some of its parts

Such a property carries over from a state to what an operation on those parts leaves; each operation is walked through once, for every property at a time. -/

/-- `P` sees neither the host island, the registers nor host memory. -/
structure HostBlind (P : State → Prop) : Prop where
  host : ∀ {s t : State}, P s → HostOnly s t → P t

/-- `P` sees moreover nothing of Cupola and Belfry, nor the count of free values. -/
structure FrameBlind (P : State → Prop) : Prop extends HostBlind P where
  cup : ∀ {s t : State}, P s → t = { s with cup := t.cup } → P t
  bel : ∀ {s t : State}, P s → t = { s with bel := t.bel } → P t
  free : ∀ {s : State}, P s → P (bumpFree s)

/-- `P` sees moreover nothing of the pair. -/
structure PairBlind (P : State → Prop) : Prop extends HostBlind P where
  mir : ∀ {s t : State}, P s → t = { s with mir := t.mir } → P t

/-- `s` with the migrations and the rotation of `t`. -/
def withMigs (s t : State) : State :=
  { s with cfg := { s.cfg with
      migs := t.cfg.migs, after := t.cfg.after, preAt := t.cfg.preAt,
      rot := t.cfg.rot, rotNow := t.cfg.rotNow, rotReg := t.cfg.rotReg, rotLat := t.cfg.rotLat, rotAgain := t.cfg.rotAgain } }

/-- `P` sees moreover neither migrations, the rotation nor the degraded causes. -/
structure MigBlind (P : State → Prop) : Prop extends HostBlind P where
  migs : ∀ {s t : State}, P s → t = withMigs s t → P t
  causes : ∀ {s t : State}, P s → t = { s with pwr := { s.pwr with causes := t.pwr.causes, degraded := t.pwr.degraded } } → P t

section Host
variable {P : State → Prop} (hP : HostBlind P) {s : State} (h : P s)
include hP h

theorem HostBlind.to_regSet {a v : Nat} : P (regSet s a v) := hP.host h (regSet_host ..)
theorem HostBlind.to_fldSet {a hi lo v : Nat} : P (fldSet s a hi lo v) := hP.host h (fldSet_host ..)
theorem HostBlind.to_flagSet {a i : Nat} {v : Bool} : P (flagSet s a i v) := hP.host h (flagSet_host ..)
theorem HostBlind.to_bump {a : Nat} : P (bump s a) := hP.host h (bump_host ..)
theorem HostBlind.to_bumpBy {a n : Nat} : P (bumpBy s a n) := hP.host h (bumpBy_host ..)

theorem HostBlind.to_raise {code bay idx : Nat} {items : List (Nat × Nat)} {att : Option Att} {att2 : Att} : P (raise code s bay idx items att att2) :=
  hP.host h (raise_host ..)

theorem HostBlind.to_complete {cid status : Nat} {res : Att} {fields : List Byte} : P (complete s cid status res fields) := hP.host h (complete_host ..)

/-- A completion owed only where there is a command. -/
theorem HostBlind.to_completeSome {c : Option Nat} {status : Nat} {res : Att} {fields : List Byte} :
    P (match c with | some c => complete s c status res fields | none => s) := by
  split
  · exact hP.to_complete h
  · exact h

end Host

/-! The pair (R451 to R479) -/

section Pair
variable {P : State → Prop} (hP : PairBlind P) {s : State} (h : P s)
include hP h

theorem PairBlind.to_setMir {f : Mir → Mir} : P (setMir s f) := hP.host (hP.mir h rfl) (mirShow_host _)

theorem PairBlind.to_setPstate {v : Nat} : P (setPstate s v) := iteInduction (fun _ => h) (fun _ => hP.to_setMir (iteInduction (fun _ => h) (fun _ => hP.to_flagSet h)))

theorem PairBlind.to_endFull : P (endFull s) := by
  unfold endFull
  split
  · exact h
  · exact iteInduction (fun _ => hP.to_completeSome (hP.to_raise (hP.to_setPstate (hP.to_setMir h)))) (fun _ => h)

/-- A bay that stops leaves the resynchronisation, which its end may complete. -/
theorem PairBlind.to_bayLeft {n : Nat} : P (bayLeft s n) :=
  iteInduction (fun _ => h) (fun _ => hP.to_endFull (hP.to_setMir (List.foldlRecOn _ _ (hP.mir h rfl) fun _ k _ _ => hP.to_complete k)))

theorem PairBlind.to_drainLane {l : Nat} : P (drainLane s l) := by
  unfold drainLane
  extract_lets x
  split
  · exact iteInduction (fun _ => hP.mir h rfl) (fun _ => h)
  · exact h

theorem PairBlind.to_linkSend {ty part count : Nat} {payload : List Byte} : P (linkSend s ty part count payload) :=
  iteInduction (fun _ => h) (fun _ => List.foldlRecOn _ _ (hP.mir h rfl) fun _ k _ _ => hP.to_drainLane (hP.mir k rfl))

theorem PairBlind.to_forward {kind n arg : Nat} {e : EvalAt} : P (forward s kind n e arg) := iteInduction (fun _ => hP.to_linkSend h) (fun _ => h)

end Pair

/-! Frames sent (R314, R361, R391 to R408) -/

section Frames
variable {P : State → Prop} (hP : FrameBlind P) {s : State} (h : P s)
include hP h

theorem FrameBlind.to_drainPort {n : Nat} : P (drainPort s n) := by
  unfold drainPort
  refine iteInduction (fun _ => ?_) (fun _ => h)
  split
  · exact hP.to_bump (hP.bel h rfl)
  · exact h

theorem FrameBlind.to_bellDrop {n : Nat} : P (bellDrop s n) :=
  have h1 := hP.to_flagSet (hP.to_bump h)
  iteInduction (fun _ => h1) (fun _ => hP.to_raise (hP.bel h1 rfl))

theorem FrameBlind.to_bellPut {n : Nat} {f : NetFrame} : P (bellPut s n f) :=
  iteInduction (fun _ => hP.bel h rfl) (fun _ => iteInduction (fun _ => hP.to_bellDrop (hP.bel h rfl)) (fun _ => hP.to_bellDrop h))

theorem FrameBlind.to_egress {n q : Nat} {bell : Bool} {f : NetFrame} : P (egress s n bell q f) :=
  iteInduction (fun _ => hP.to_drainPort (iteInduction (fun _ => hP.to_bellPut h) (fun _ => hP.bel h rfl))) (fun _ => h)

theorem FrameBlind.to_sendOwn {f : OwnFrame} : P (sendOwn s f) := List.foldlRecOn _ _ (hP.bel h rfl) fun _ k _ _ => hP.to_egress k

theorem FrameBlind.to_sendBelfry {cfg ports ty : Nat} {bell rep usePair : Bool} {body : List Byte} : P (sendBelfry s cfg ports ty bell rep usePair body) :=
  iteInduction (fun _ => h) (fun _ => hP.to_sendOwn h)

theorem FrameBlind.to_sendXtrig {bay xgroup num : Nat} {test : Bool} {t0 : Att} : P (sendXtrig s bay xgroup num test t0) :=
  iteInduction (fun _ => h) (fun _ => hP.to_bump (hP.to_sendBelfry h))

theorem FrameBlind.to_sendTrip {bay word : Nat} {rep : Bool} {att : Att} : P (sendTrip s bay rep att word) :=
  iteInduction (fun _ => h) (fun _ => hP.to_sendBelfry (hP.bel h rfl))

theorem FrameBlind.to_tripFrames {bay old word : Nat} {att : Att} : P (tripFrames s bay old word att) := by
  unfold tripFrames
  extract_lets trips n c s1
  have h1 : P s1 := hP.bel h rfl
  exact iteInduction (fun _ => iteInduction (fun _ => hP.to_sendTrip h1) (fun _ => iteInduction (fun _ => hP.to_sendTrip h1) (fun _ => h1))) (fun _ => h1)

theorem FrameBlind.to_sendGoose {r : List Byte} {p : GoPub} {tal : Nat} {bell : Bool} : P (sendGoose s r p tal bell) := hP.to_bump (hP.to_sendOwn h)

theorem FrameBlind.to_retransmit {r : List Byte} {test : Bool} {at_ : Inst} : P (retransmit s r test at_) :=
  iteInduction (fun _ => h) (fun _ => hP.to_sendGoose (hP.bel h rfl))

theorem FrameBlind.to_gooseFrames {bay word bins : Nat} {att : Att} : P (gooseFrames s bay word bins att) :=
  iteInduction (fun _ => List.foldlRecOn _ _ h fun _ k _ _ => iteInduction (fun _ => hP.to_sendGoose (hP.bel k rfl)) (fun _ => hP.to_retransmit k)) (fun _ => h)

theorem FrameBlind.to_handOff {n old pub bins : Nat} {att : Att} : P (handOff s n old pub bins att) :=
  hP.to_gooseFrames (hP.to_tripFrames (hP.host h (showOut_host ..)))

end Frames

/-! Records (R341 to R364) -/

section Records
variable {P : State → Prop} (hP : FrameBlind P) {s : State} (h : P s)
include hP h

theorem FrameBlind.to_cupStat : P (cupStat s) := hP.host h (cupStat_host s)
theorem FrameBlind.to_cupBayStat {n : Nat} : P (cupBayStat s n) := hP.host h (cupBayStat_host s n)

theorem FrameBlind.to_modCup {n : Nat} {f : CupBay → CupBay} : P (modCup s n f) := by
  unfold modCup
  split
  · exact hP.cup h rfl
  · exact h

theorem FrameBlind.to_dropTrig {n : Nat} {fs : List Fire} : P (dropTrig s n fs) := by
  unfold dropTrig
  extract_lets s0 s1
  have h1 : P s1 := hP.to_bump (List.foldlRecOn _ _ h fun _ k _ _ => hP.to_completeSome k)
  split
  · exact h1
  · exact iteInduction (fun _ => h1) (fun _ => hP.to_raise (hP.cup h1 rfl))

omit h in
theorem FrameBlind.to_overwriteFor {need : Nat} : ∀ {rs : List CupRec} {s : State}, P s → P (overwriteFor need rs s)
  | [], _, h => h
  | _ :: _, _, h => iteInduction (fun _ => h) (fun _ => iteInduction
      (fun _ => FrameBlind.to_overwriteFor (hP.to_raise (hP.to_bump (hP.to_cupStat (hP.to_flagSet (hP.cup h rfl)))))) (fun _ => FrameBlind.to_overwriteFor h))

theorem FrameBlind.to_makeRoom {need : Nat} : P (makeRoom s need).1 := by
  unfold makeRoom
  extract_lets s0 s1 idx area fresh s2
  have h0 : P s0 := hP.to_cupStat h
  have h1 : P s1 := iteInduction (fun _ => hP.to_overwriteFor h0) (fun _ => h0)
  have h2 : P s2 := hP.to_flagSet (iteInduction (fun _ => hP.to_flagSet h1) (fun _ => h1))
  split
  · exact iteInduction (fun _ => hP.to_raise h2) (fun _ => h2)
  · exact hP.to_flagSet h1

theorem FrameBlind.to_announceRec {num : Nat} : P (announceRec s num) := by
  unfold announceRec
  split
  · exact h
  · extract_lets s1 s2
    have h1 : P s1 := hP.to_raise h
    have h2 : P s2 := by
      unfold s2
      split
      · exact iteInduction (fun _ => hP.to_sendXtrig h1) (fun _ => h1)
      · exact h1
    exact List.foldlRecOn _ _ (hP.cup h2 rfl) fun _ k _ _ => hP.to_complete k

theorem FrameBlind.to_openRec {n : Nat} {d : Detect} : P (openRec s n d) := by
  unfold openRec
  split
  · next cb b f0 _ _ _ _ =>
    extract_lets rate need level xg flags
    have hm : P (makeRoom s need).1 := hP.to_makeRoom h
    generalize makeRoom s need = p at hm
    obtain ⟨s1, ok⟩ := p
    refine iteInduction (fun _ => hP.to_dropTrig hm) (fun _ => ?_)
    extract_lets num r0 r1 mode c s2 s3 s4 s5
    have h4 : P s4 := hP.to_modCup (hP.to_regSet (hP.cup hm rfl))
    have h5 : P s5 := iteInduction (fun _ => h4) (fun _ => hP.to_announceRec h4)
    exact hP.to_cupBayStat (hP.to_cupStat h5)
  · exact h

theorem FrameBlind.to_extendRec {n num role : Nat} {d : Detect} : P (extendRec s n num role d) := by
  unfold extendRec
  split
  · refine List.foldlRecOn _ _ (hP.cup h rfl) fun st k f _ => ?_
    split
    · exact iteInduction (fun _ => hP.to_complete k) (fun _ => hP.cup k rfl)
    · exact k
  · exact h

theorem FrameBlind.to_fireAt {n : Nat} {d : Detect} : P (fireAt s n d) := by
  unfold fireAt
  refine iteInduction (fun _ => h) (fun _ => ?_)
  split
  · refine iteInduction (fun _ => hP.to_extendRec h) (fun _ => ?_)
    split
    · exact iteInduction (fun _ => hP.to_cupBayStat (hP.cup h rfl)) (fun _ => hP.to_dropTrig h)
    · exact h
  · exact hP.to_openRec h

theorem FrameBlind.to_refineRec {n : Nat} : P (refineRec s n) := by
  unfold refineRec
  split
  · exact hP.to_cupStat (hP.to_announceRec (hP.cup h rfl))
  · exact h

theorem FrameBlind.to_cutCup {n why : Nat} : P (cutCup s n why) := by
  unfold cutCup
  extract_lets s1 newest c s2
  have h2 : P s2 := hP.cup (hP.to_refineRec h) rfl
  split
  · exact List.foldlRecOn _ _ (hP.cup h2 rfl) fun _ k _ _ => hP.to_dropTrig k
  · exact h2

theorem FrameBlind.to_abortForced {n : Nat} : P (abortForced s n) := by
  unfold abortForced
  split
  · exact List.foldlRecOn _ _ (hP.cup h rfl) fun _ k _ _ => hP.to_complete k
  · exact h

theorem FrameBlind.to_cupStopped {n : Nat} : P (cupStopped s n) :=
  hP.to_cupBayStat (hP.to_cupStat (hP.to_modCup (hP.to_abortForced (hP.to_cutCup h))))

/-- A line taken into the ring of its bay, with the records that it opens, goes on with or ends. -/
theorem FrameBlind.to_takeLine {n : Nat} {l : Line} : P (takeLine s n l) := by
  unfold takeLine
  split
  · next cb0 b _ _ =>
    extract_lets rate e ring mode inst
    generalize statsLine s n rate l ring cb0 = p
    obtain ⟨cb1, usedFree⟩ := p
    dsimp -zeta only
    generalize firesAt cb1 rate mode l ring = q
    obtain ⟨fs, held⟩ := q
    dsimp -zeta only
    extract_lets cb2 s1 c s2 off live s3
    have h2 : P s2 := hP.cup (iteInduction (fun _ => hP.free h) (fun _ => h)) rfl
    exact iteInduction (fun _ => hP.to_cupStopped h2) (fun _ => hP.to_fireAt (hP.to_bumpBy h2))
  · exact h

theorem FrameBlind.to_recordLine {n : Nat} : P (recordLine s n) := by
  unfold recordLine
  split
  · exact h
  · split
    · exact h
    · extract_lets s1
      have h1 : P s1 := hP.cup h rfl
      exact iteInduction (fun _ => hP.to_takeLine h1) (fun _ => iteInduction (fun _ => hP.to_cupStopped h1) (fun _ => h1))

theorem FrameBlind.to_startCup {n : Nat} {at_ : Inst} : P (startCup s n at_) :=
  hP.to_modCup (List.foldlRecOn _ _ h fun _ k _ _ => hP.to_recordLine k)

theorem FrameBlind.to_queueLine {n : Nat} {l : Line} : P (queueLine s n l) := hP.to_modCup h

end Records

/-! Migrations, spares and rotation (R193 to R199) -/

section Migrations
variable {P : State → Prop} (hP : MigBlind P) {s : State} (h : P s)
include hP h

theorem MigBlind.to_setCause {bit : Nat} {v : Bool} : P (setCause s bit v) := by
  unfold setCause
  extract_lets c p s1 q
  have h1 : P s1 := hP.to_raise (hP.causes h rfl)
  exact iteInduction (fun _ => h) (fun _ => iteInduction (fun _ => hP.to_raise (hP.causes h1 rfl)) (fun _ => h1))

theorem MigBlind.to_showSpares : P (showSpares s) := by
  unfold showSpares
  extract_lets l s1 low was s2
  have h2 : P s2 := hP.to_flagSet (hP.to_fldSet (List.foldlRecOn _ _ h fun _ k _ _ => hP.to_regSet k))
  exact iteInduction (fun _ => h) (fun _ => hP.to_setCause (iteInduction (fun _ => hP.to_raise h2) (fun _ => h2)))

theorem MigBlind.to_showBay {n : Nat} : P (showBay s n) := hP.host h (showBay_host s n)
theorem MigBlind.to_showMig {m : Mig} {src st : Nat} : P (showMig s m src st) := hP.host h (showMig_host ..)
theorem MigBlind.to_showNoSpare : P (showNoSpare s) := hP.host h (showNoSpare_host s)
theorem MigBlind.to_modMig {n : Nat} {f : Mig → Mig} : P (modMig s n f) := hP.migs h rfl
theorem MigBlind.to_endMig {n : Nat} {moved : Bool} : P (endMig s n moved) := hP.migs h rfl

theorem MigBlind.to_dropMig {m : Mig} : P (dropMig s m) := by
  unfold dropMig
  extract_lets s1 s2 s3
  have h1 : P s1 := hP.to_endMig h
  have h3 : P s3 := hP.to_completeSome (iteInduction (fun _ => h1) (fun _ => hP.to_showMig h1))
  exact hP.to_showNoSpare (hP.to_showBay (iteInduction (fun _ => hP.migs h3 rfl) (fun _ => h3)))

theorem MigBlind.to_cancelMigs {n : Nat} : P (cancelMigs s n) := by
  unfold cancelMigs
  extract_lets c s1
  have h1 : P s1 := hP.migs h rfl
  split
  · exact hP.to_dropMig h1
  · exact h1

theorem MigBlind.to_stopTest {g : Nat} : P (stopTest s g) := iteInduction (fun _ => hP.migs (hP.to_flagSet (hP.to_fldSet h)) rfl) (fun _ => h)

theorem MigBlind.to_startMig : P (startMig s) := by
  unfold startMig
  refine iteInduction (fun _ => h) (fun _ => ?_)
  split
  · exact h
  · split
    · exact hP.to_dropMig h
    · split
      · exact hP.to_showNoSpare (hP.to_showBay (hP.to_showMig (hP.to_modMig (hP.migs (hP.to_stopTest h) rfl))))
      · split
        · exact iteInduction (fun _ => h) (fun _ => hP.to_showNoSpare (hP.to_raise (hP.to_modMig h)))
        · refine iteInduction (fun _ => h) (fun _ => ?_)
          split
          · exact hP.to_complete (hP.to_endMig h)
          · exact h
        · exact h

omit h in
theorem MigBlind.to_rotPick : ∀ {n : Nat} {s : State} {g : Nat}, P s → P (rotPick n s g).1
  | 0, _, _, h => h
  | n + 1, s, g, h => by
    unfold rotPick
    extract_lets nx
    split
    · exact MigBlind.to_rotPick h
    · split
      · exact MigBlind.to_rotPick (hP.to_fldSet h)
      · split
        · exact MigBlind.to_rotPick h
        · exact h

theorem MigBlind.to_rotStart {r : RotOrigin} {g : Nat} : P (rotStart s r g) := by
  unfold rotStart
  split
  · exact iteInduction (fun _ => hP.to_fldSet h) (fun _ => hP.to_startMig (hP.migs h rfl))
  · exact hP.migs (hP.to_flagSet (hP.to_fldSet h)) rfl

theorem MigBlind.to_rotNextStep {r : RotOrigin} : P (rotNextStep s r) := by
  unfold rotNextStep
  have hp : P (rotPick (nGroups s) s (fld s R.cfgRotStat 23 16)).1 := hP.to_rotPick h
  generalize rotPick (nGroups s) s (fld s R.cfgRotStat 23 16) = p at hp
  obtain ⟨s1, _ | g⟩ := p
  · exact hp
  · exact hP.to_rotStart (hP.to_fldSet hp)

theorem MigBlind.to_rotExtra {s1 : State} (h1 : P s1) {g : Nat} : P (rotExtra s s1 g) :=
  iteInduction (fun _ => h1) (fun _ => iteInduction (fun _ => h) (fun _ => hP.to_rotStart h1))

theorem MigBlind.to_tryRot : P (tryRot s) := by
  unfold tryRot
  refine iteInduction (fun _ => h) (fun _ => iteInduction (fun _ => hP.to_rotNextStep (hP.migs h rfl)) (fun _ => iteInduction (fun _ => hP.to_rotNextStep (hP.migs h rfl)) (fun _ => ?_)))
  split
  · exact hP.to_rotExtra h (hP.migs h rfl)
  · split
    · exact hP.to_rotExtra h (hP.migs h rfl)
    · exact h

/-- The migrations and rotation steps that can start do. -/
theorem MigBlind.to_cfgKick : P (cfgKick s) := hP.to_tryRot (hP.to_startMig h)

end Migrations

end Sys2Proof.Machine

namespace Sys2Proof.Machine

/-! ### What a bay's start or stop shows and sends besides the bay itself -/

/-- `P` sees nothing that the start or the stop of a bay shows, sends or lets go on: registers, records, frames, the pair, migrations and rotation, and the output pins. -/
structure BayBlind (P : State → Prop) : Prop extends FrameBlind P, PairBlind P, MigBlind P where
  pins : ∀ {s t : State}, P s → t = { s with cfg := { s.cfg with dtos := t.cfg.dtos } } → P t

theorem BayBlind.to_dtoAll {P : State → Prop} (hP : BayBlind P) {s : State} (h : P s) : P (dtoAll s) := by
  unfold dtoAll
  extract_lets frozen
  exact iteInduction (fun _ => h) (fun _ => hP.to_fldSet (hP.to_fldSet (List.foldlRecOn _ _ h fun _ k _ _ => hP.pins k rfl)))

/-- `s` is `o` in the placed bays, in what is asked of them, in the groups and in the failed cells. -/
structure SamePlaces (o s : State) : Prop where
  bays : s.bays = o.bays
  reqs : s.cfg.reqs = o.cfg.reqs
  grps : s.cfg.grps = o.cfg.grps
  fails : s.cfg.cellFail = o.cfg.cellFail

theorem SamePlaces.refl (o : State) : SamePlaces o o := ⟨rfl, rfl, rfl, rfl⟩

/-- A state with the bays and the configuration of another, but for parts that the relation does not see. -/
theorem SamePlaces.of_eq {o s t : State} (h : SamePlaces o s) (hb : t.bays = s.bays) (hc : t.cfg = { (withMigs s t).cfg with dtos := t.cfg.dtos }) : SamePlaces o t :=
  ⟨hb.trans h.bays, by rw [hc]; exact h.reqs, by rw [hc]; exact h.grps, by rw [hc]; exact h.fails⟩

theorem samePlaces_blind (o : State) : BayBlind (SamePlaces o) where
  host h k := ⟨k.bays.trans h.bays, by rw [k.cfg, h.reqs], by rw [k.cfg, h.grps], by rw [k.cfg, h.fails]⟩
  cup h e := h.of_eq (by rw [e]) (by rw [e]; rfl)
  bel h e := h.of_eq (by rw [e]) (by rw [e]; rfl)
  free h := h.of_eq rfl rfl
  mir h e := h.of_eq (by rw [e]) (by rw [e]; rfl)
  migs h e := h.of_eq (by rw [e]; rfl) (by rw [e]; rfl)
  causes h e := h.of_eq (by rw [e]) (by rw [e]; rfl)
  pins h e := h.of_eq (by rw [e]) (by rw [e]; rfl)

theorem SamePlaces.bay {o s : State} (h : SamePlaces o s) (n : Nat) : bay? s n = bay? o n := by simp only [bay?, h.bays]
theorem SamePlaces.reqsOf {o s : State} (h : SamePlaces o s) (n : Nat) : reqsOf s n = reqsOf o n := by simp only [Machine.reqsOf, h.reqs]
theorem SamePlaces.grp {o s : State} (h : SamePlaces o s) (g : Nat) : grp s g = grp o g := by simp only [Machine.grp, h.grps]

/-! ### Tables with rising keys, an entry erased -/

theorem tget_of_keysFrom {α : Type} : ∀ {t : Tab α} {lo k : Nat}, keysFrom lo t = true → k < lo → tget? t k = none
  | [], _, _, _, _ => rfl
  | (j, a) :: t, lo, k, h, hk => by
    simp only [keysFrom, Bool.and_eq_true, decide_eq_true_eq] at h
    rw [tget?, if_neg (by omega), tget_of_keysFrom h.2 (by omega)]

theorem keysFrom_mono {α : Type} {t : Tab α} {lo lo' : Nat} (h : keysFrom lo t = true) (hle : lo' ≤ lo) : keysFrom lo' t = true := by
  cases t with
  | nil => rfl
  | cons p t =>
    simp only [keysFrom, Bool.and_eq_true, decide_eq_true_eq] at h ⊢
    exact ⟨hle.trans h.1, h.2⟩

theorem terase_keysFrom {α : Type} : ∀ {t : Tab α} {lo k : Nat}, keysFrom lo t = true → keysFrom lo (terase t k) = true
  | [], _, _, _ => rfl
  | (j, a) :: t, lo, k, h => by
    simp only [keysFrom, Bool.and_eq_true, decide_eq_true_eq] at h
    rw [terase]
    split
    · exact keysFrom_mono h.2 (by omega)
    · simp only [keysFrom, Bool.and_eq_true, decide_eq_true_eq]
      exact ⟨h.1, terase_keysFrom h.2⟩

/-- The erased key of a table with rising keys is gone. -/
theorem tget_terase_same {α : Type} : ∀ {t : Tab α} {lo k : Nat}, keysFrom lo t = true → tget? (terase t k) k = none
  | [], _, _, _ => rfl
  | (j, a) :: t, lo, k, h => by
    simp only [keysFrom, Bool.and_eq_true, decide_eq_true_eq] at h
    rw [terase]
    split
    · next e => exact tget_of_keysFrom h.2 (by omega)
    · next e => rw [tget?, if_neg e, tget_terase_same h.2]

/-! ### Bays and their requests, replaced (R200 to R207) -/

theorem bay_setBay (s : State) (n : Nat) (b : Bay) : bay? (setBay s n b) n = some b := by simp [bay?, setBay, tget_tset]

theorem reqsOf_congr {s t : State} (h : t.cfg.reqs = s.cfg.reqs) (n : Nat) : reqsOf t n = reqsOf s n := by simp only [reqsOf, h]

theorem setReqs_keys {s : State} (h : keysFrom 0 s.cfg.reqs = true) (n : Nat) (l : List BayReq) : keysFrom 0 (setReqs s n l).cfg.reqs = true := by
  simp only [setReqs]
  split
  · exact terase_keysFrom h
  · exact tset_keysFrom h (Nat.zero_le n)

theorem reqsOf_setReqs {s : State} (h : keysFrom 0 s.cfg.reqs = true) (n : Nat) (l : List BayReq) : reqsOf (setReqs s n l) n = l := by
  simp only [reqsOf, tget, setReqs]
  split
  · next hl => rw [tget_terase_same h, List.isEmpty_iff.mp hl]; rfl
  · rw [tget_tset, if_pos rfl]; rfl

/-- A command's request stands among the bay's requests. -/
theorem mem_reqsOf_addReq (s : State) (n : Nat) {r : BayReq} (hr : r.cmd = true) : r ∈ reqsOf (addReq s n r) n := by
  simp [addReq, hr, setReqs, reqsOf, tget, tget_tset]

/-! ### A bay starts (R296, R304) -/

/-- What the begun elements of a bay leave of its context: that it runs, its active group and its first instant. -/
def Ctx.begun (c : Ctx) : Nat × Nat × EvalAt := (c.run, c.sg, c.start)

theorem zeroInteg_begun (c : Ctx) (i n : Nat) : (c.zeroInteg i n).begun = c.begun :=
  List.foldlRecOn (motive := fun x : Ctx => x.begun = c.begun) _ _ rfl fun _ k _ _ => k

theorem setEl_begun (c : Ctx) (slot out ty : Nat) (p : Tab Int) : (c.setEl slot out ty p).begun = c.begun := rfl

theorem setRc_begun (c : Ctx) (x : Reclose) : ({ c with rc := x } : Ctx).begun = c.begun := rfl

theorem clearEl_begun (c : Ctx) (r : List Byte) : (clearEl c r).begun = c.begun := by
  unfold clearEl
  extract_lets c1
  have h1 : c1.begun = c.begun := List.foldlRecOn (motive := fun x : Ctx => x.begun = c.begun) _ _ rfl fun _ k _ _ => k
  exact (zeroInteg_begun c1 _ _).trans h1

theorem startEl_begun (c : Ctx) (bins gi : Nat) (at_ : EvalAt) (set r : List Byte) : (startEl c bins gi at_ set r).begun = c.begun := by
  unfold startEl
  extract_lets c1 b
  have h1 : c1.begun = c.begun := clearEl_begun c r
  clear_value c1
  split
  · rw [setEl_begun, setRc_begun, h1]
  · exact (setEl_begun ..).trans h1
  · exact h1

theorem beginEl_begun (bins gi : Nat) (at_ : EvalAt) (set : List Byte) (c : Ctx) (r : List Byte) : (beginEl bins gi at_ set c r).begun = c.begun := by
  unfold beginEl
  extract_lets c1
  have h1 : c1.begun = c.begun := startEl_begun ..
  clear_value c1
  split
  · split <;> exact h1
  · exact h1

/-- The context that BAY_START builds runs on the initial group from its first instant on. -/
theorem startCtx_begun (recd : List Byte) (els : List (List Byte)) (set : List Byte) (bins gi : Nat) (at_ : EvalAt) :
    (startCtx recd els set bins gi at_).begun = (1, brInit recd, at_) :=
  List.foldlRecOn (motive := fun x : Ctx => x.begun = (1, brInit recd, at_)) _ _ rfl fun _ k _ _ => (beginEl_begun ..).trans k

/-- The bay that a start at an instant makes of `b` (R304). -/
def startedBay (s : State) (b : Bay) (at_ : EvalAt) : Bay :=
  { b with ctx := startCtx b.recd b.els (b.setOf (brInit b.recd)) (binLevels s b.rate at_) (giAt s (at_.q b.rate)) at_, slot := Slot.fresh (initSrc s b.recd) at_ }

section Start
variable {s : State} {n : Nat} {b : Bay} {at_ : EvalAt} (hb : bay? s n = some b)
include hb

/-- Legal constants start the bay (R296). -/
theorem startBay_legal (hc : constOk (b.setOf (brInit b.recd)) = true) : SamePlaces (setBay s n (startedBay s b at_)) (startBay s n at_) := by
  simp only [startBay, hb, hc, Bool.not_true, Bool.false_eq_true, if_false]
  have hP := samePlaces_blind (setBay s n (startedBay s b at_))
  refine hP.to_cupBayStat (hP.host (hP.to_dtoAll (hP.host (hP.to_showBay (hP.to_startCup (hP.to_raise ?_))) (showRunning_host _))) (mirShow_host _))
  exact ⟨rfl, rfl, rfl, rfl⟩

/-- Constants out of their ranges leave it stopped (R296). -/
theorem startBay_illegal (hc : constOk (b.setOf (brInit b.recd)) = false) :
    SamePlaces (setBay s n { b with ctx := { b.ctx with run := 0 } }) (startBay s n at_) := by
  simp only [startBay, hb, hc, Bool.not_false, if_true]
  exact (samePlaces_blind _).to_raise (.refl _)

theorem startBay_reqs : reqsOf (startBay s n at_) n = reqsOf s n := by
  cases hc : constOk (b.setOf (brInit b.recd)) with
  | true => exact (startBay_legal hb hc).reqsOf n
  | false => exact (startBay_illegal hb hc).reqsOf n

end Start

/-! ### Switches and target resets take effect (R200, R201, R302) -/

/-- One request looked at while the switches up to an instant take effect: `acc` holds the state, the active group and the requests so far. -/
def switchStep (n : Nat) (b : Bay) (upTo : EvalAt) (acc : State × Nat × List BayReq) (r : BayReq) : State × Nat × List BayReq :=
  if r.at_.le upTo then ((switchOne acc.1 n b acc.2.1 r).1, (switchOne acc.1 n b acc.2.1 r).2.1, acc.2.2 ++ [(switchOne acc.1 n b acc.2.1 r).2.2])
  else (acc.1, acc.2.1, acc.2.2 ++ [r])

theorem switchesDue_eq {s : State} {n : Nat} {b : Bay} (hb : bay? s n = some b) (upTo : EvalAt) :
    switchesDue s n upTo = setReqs ((reqsOf s n).foldl (switchStep n b upTo) (s, b.ctx.sg, [])).1 n ((reqsOf s n).foldl (switchStep n b upTo) (s, b.ctx.sg, [])).2.2 := by
  simp only [switchesDue, hb]
  rfl

theorem switchOne_host (s : State) (n : Nat) (b : Bay) (cur : Nat) (r : BayReq) : HostOnly s (switchOne s n b cur r).1 := by
  unfold switchOne
  split
  · exact iteInduction (motive := HostOnly s) (fun _ => .refl s) (fun _ => raise_host ..)
  · exact .refl s
  · exact .refl s

/-- A request that has taken effect is no switch that waits. -/
theorem switchOne_waits (s : State) (n : Nat) (b : Bay) (cur : Nat) (r : BayReq) : (switchOne s n b cur r).2.2.kind.isSwitch = false := by
  unfold switchOne
  split
  · rfl
  · next h => simp only [h]; rfl
  · next h _ =>
    cases hk : r.kind with
    | switch g => exact absurd hk (h g)
    | _ => rfl

/-- So far the host island has seen events at most, and no switch up to the instant waits. -/
structure Switched (s : State) (upTo : EvalAt) (acc : State × Nat × List BayReq) : Prop where
  host : HostOnly s acc.1
  late : ∀ x ∈ acc.2.2, x.kind.isSwitch = true → x.at_.le upTo = false

theorem switchStep_switched {s : State} {n : Nat} {b : Bay} {upTo : EvalAt} {acc : State × Nat × List BayReq} (h : Switched s upTo acc) (r : BayReq) :
    Switched s upTo (switchStep n b upTo acc r) := by
  unfold switchStep
  split
  · refine ⟨h.host.trans (switchOne_host ..), fun x hx hs => ?_⟩
    rcases List.mem_append.mp hx with hx | hx
    · exact h.late x hx hs
    · rw [List.mem_singleton.mp hx, switchOne_waits] at hs
      cases hs
  · next hr =>
    refine ⟨h.host, fun x hx hs => ?_⟩
    rcases List.mem_append.mp hx with hx | hx
    · exact h.late x hx hs
    · rw [List.mem_singleton.mp hx]
      exact Bool.eq_false_of_not_eq_true hr

/-- No switch waits whose instant has come. -/
theorem switchesDue_late {s : State} {n : Nat} {b : Bay} (hb : bay? s n = some b) (hk : keysFrom 0 s.cfg.reqs = true) (upTo : EvalAt) :
    ∀ x ∈ reqsOf (switchesDue s n upTo) n, x.kind.isSwitch = true → x.at_.le upTo = false := by
  have h : Switched s upTo ((reqsOf s n).foldl (switchStep n b upTo) (s, b.ctx.sg, [])) :=
    List.foldlRecOn _ _ ⟨.refl s, fun _ hx => nomatch hx⟩ fun _ k r _ => switchStep_switched k r
  rw [switchesDue_eq hb, reqsOf_setReqs (by rw [h.host.cfg]; exact hk)]
  exact h.late

/-- What is left of a bay's requests once its resets have taken effect: no reset up to the instant waits, and no request is new but a reset in effect. -/
theorem resetsDue_mem {s : State} {n : Nat} {b : Bay} (hb : bay? s n = some b) (hk : keysFrom 0 s.cfg.reqs = true) {upTo : EvalAt} {x : BayReq}
    (hx : x ∈ reqsOf (resetsDue s n upTo) n) : (x.kind = .reset → x.at_.le upTo = false) ∧ (x.kind = .cleared ∨ x ∈ reqsOf s n) := by
  simp only [resetsDue, hb] at hx
  split at hx
  · next he =>
    refine ⟨fun hr => ?_, .inr hx⟩
    simpa [hr] using List.filter_eq_nil_iff.mp (List.isEmpty_iff.mp he) x hx
  · split at hx
    · rw [reqsOf_setReqs (by rw [raise_cfg]; exact hk)] at hx
      obtain ⟨y, hy, rfl⟩ := List.mem_map.mp hx
      by_cases hn : y.kind = .reset ∧ y.at_.le upTo = true
      · rw [if_pos hn]
        exact ⟨fun h => (nomatch h), .inl rfl⟩
      · rw [if_neg hn]
        exact ⟨fun hr => Bool.eq_false_of_not_eq_true fun hl => hn ⟨hr, hl⟩, .inr hy⟩
    · rw [reqsOf_congr (congrArg Cfg.reqs (showRunning_host _).cfg)] at hx
      change x ∈ reqsOf (setReqs _ n _) n at hx
      rw [reqsOf_setReqs (by rw [raise_cfg]; exact hk)] at hx
      obtain ⟨hy, hn⟩ := List.mem_filter.mp hx
      exact ⟨fun hr => by simpa [hr] using hn, .inr hy⟩

/-! ### A bay stops (R305, R306) -/

/-- The requests that a stop leaves: starts, target resets and reloads that wait. -/
def outlivesStop (r : BayReq) : Bool :=
  match r.kind with | .switch _ => false | .switched _ => false | .stop => false | .cleared => false | .reloaded _ => false | _ => true

theorem not_stop_of_outlivesStop {r : BayReq} (h : outlivesStop r = true) : r.kind ≠ .stop := fun hs => by simp [outlivesStop, hs] at h

/-- A bay stopped: out of its run state, without its task and its emptied slot, and without the requests that end with the stop. -/
def stoppedBay (s : State) (n : Nat) (b : Bay) : State :=
  let s1 := setBay s n { b with ctx := { b.ctx with run := 0 }, slot := Slot.fresh b.slot.src b.slot.next }
  setReqs { s1 with cfg := { s1.cfg with tasks := terase s1.cfg.tasks n } } n ((reqsOf s n).filter outlivesStop)

/-- A stop leaves of the bays and their requests what the stopped bay and the resets up to its instant leave. -/
theorem stopBay_places {s : State} {n : Nat} {b : Bay} (hb : bay? s n = some b) (at_ : EvalAt) :
    ∃ u, SamePlaces (stoppedBay s n b) u ∧ SamePlaces (resetsDue u n at_) (stopBay s n at_) := by
  unfold stopBay
  rw [hb]
  dsimp -zeta only
  extract_lets att w pub x s1 c s2 s3 s4 s5 s6
  have h2 : SamePlaces (stoppedBay s n b) s2 := .refl _
  have hP := samePlaces_blind (stoppedBay s n b)
  have h3 : SamePlaces (stoppedBay s n b) s3 := by
    unfold s3
    split
    · exact iteInduction (fun _ => h2) (fun _ => hP.to_cancelMigs h2)
    · exact h2
  refine ⟨s6, hP.to_raise (hP.to_queueLine (hP.to_handOff h3)), ?_⟩
  have hQ := samePlaces_blind (resetsDue s6 n at_)
  exact hQ.to_cfgKick (hQ.host (hQ.host (hQ.to_dtoAll (hQ.host (hQ.to_showBay (.refl _)) (showRunning_host _))) (mirShow_host _)) (showLks_host _))

/-- No stop of a bay that has stopped waits. -/
theorem stopBay_reqs {s : State} {n : Nat} {b : Bay} (hb : bay? s n = some b) (hk : keysFrom 0 s.cfg.reqs = true) (at_ : EvalAt) :
    ∀ x ∈ reqsOf (stopBay s n at_) n, x.kind ≠ .stop := by
  intro x hx
  obtain ⟨u, hu, ht⟩ := stopBay_places hb at_
  have hub : bay? u n = some { b with ctx := { b.ctx with run := 0 }, slot := Slot.fresh b.slot.src b.slot.next } := (hu.bay n).trans (bay_setBay s n _)
  have huk : keysFrom 0 u.cfg.reqs = true := by rw [hu.reqs]; exact setReqs_keys hk n _
  rw [ht.reqsOf n] at hx
  rcases (resetsDue_mem hub huk hx).2 with hc | hm
  · simp [hc]
  · rw [hu.reqsOf n, stoppedBay, reqsOf_setReqs (by exact hk)] at hm
    exact not_stop_of_outlivesStop (List.mem_filter.mp hm).2

/-! ### The four effects: `Obligations.BayRequestsTakeEffect` -/

section Effects
variable {s : State} {n : Nat}

/-- Effects on a bay that is not there. -/
theorem effects_absent (hb : bay? s n = none) :
    exec (.bayStartEffect n) s = .next s ∧ exec (.bayStopEffect n) s = .next s ∧ exec (.groupSwitchEffect n) s = .next s ∧ exec (.targetResetEffect n) s = .next s := by
  refine ⟨?_, ?_, ?_, ?_⟩
  · show execBayStartEffect n s = _
    simp only [execBayStartEffect, hb]
  · show execBayStopEffect n s = _
    simp only [execBayStopEffect, hb]
  · show execGroupSwitchEffect n s = _
    simp only [execGroupSwitchEffect, hb]
  · show execTargetResetEffect n s = _
    simp only [execTargetResetEffect, hb]

theorem startEffect_none (h : pendAt s n (fun k => decide (k = .start)) = none) : exec (.bayStartEffect n) s = .next s := by
  show execBayStartEffect n s = _
  simp only [execBayStartEffect, h]
  cases bay? s n <;> rfl

theorem stopEffect_none (h : pendAt s n (fun k => decide (k = .stop)) = none) : exec (.bayStopEffect n) s = .next s := by
  show execBayStopEffect n s = _
  simp only [execBayStopEffect, h]
  cases bay? s n <;> rfl

variable {b : Bay} (hb : bay? s n = some b)
include hb

section Start
variable {r : BayReq} (hr : pendAt s n (fun k => decide (k = .start)) = some r)
include hr

theorem startEffect_pending : exec (.bayStartEffect n) s = next (if instCome s b r.at_ then
    startBay (setReqs s n ((reqsOf s n).filter (fun x => decide (x.kind ≠ .start)))) n r.at_ else s) := by
  show execBayStartEffect n s = _
  simp only [execBayStartEffect, hb, hr]
  exact (apply_ite next _ _ _).symm

theorem startEffect_early (h : now s < r.at_.inst b.rate) : exec (.bayStartEffect n) s = .next s := by
  rw [startEffect_pending hb hr, if_neg (by simpa [instCome] using h)]

theorem startEffect_due (h : r.at_.inst b.rate ≤ now s) :
    exec (.bayStartEffect n) s = .next (startBay (setReqs s n ((reqsOf s n).filter (fun x => decide (x.kind ≠ .start)))) n r.at_) := by
  rw [startEffect_pending hb hr, if_pos (by simpa [instCome] using h)]

end Start

/-- A bay started at its instant with legal constants runs on its initial group, its next instant the first; with illegal ones it is stopped. -/
theorem started_run (l : List BayReq) (at_ : EvalAt) :
    (constOk (b.setOf (brInit b.recd)) = true → (bay? (startBay (setReqs s n l) n at_) n).map (fun x => (x.ctx.run, x.ctx.sg, x.ctx.start, x.slot.next)) = some (1, brInit b.recd, at_, at_)) ∧
    (constOk (b.setOf (brInit b.recd)) = false → (bay? (startBay (setReqs s n l) n at_) n).map (fun x => x.ctx.run) = some 0) := by
  have hb' : bay? (setReqs s n l) n = some b := hb
  refine ⟨fun hc => ?_, fun hc => ?_⟩
  · rw [(startBay_legal hb' hc).bay n, bay_setBay]
    have hbeg : (startedBay (setReqs s n l) b at_).ctx.begun = (1, brInit b.recd, at_) := startCtx_begun ..
    simp only [Ctx.begun, Prod.mk.injEq] at hbeg
    obtain ⟨hrun, hsg, hstart⟩ := hbeg
    simp only [Option.map_some, hrun, hsg, hstart]
    rfl
  · rw [(startBay_illegal hb' hc).bay n, bay_setBay]
    rfl

section Stop
variable {r : BayReq} (hr : pendAt s n (fun k => decide (k = .stop)) = some r)
include hr

/-- A stop waits for a task under way and for the instants before its own. -/
def stopWaits (s : State) (n : Nat) (b : Bay) (at_ : EvalAt) : Bool := (tget? s.cfg.tasks n).isSome || b.slot.queue.any (fun z => !at_.le z.at_)

theorem stopEffect_pending : exec (.bayStopEffect n) s = next (if instCome s b r.at_ && !stopWaits s n b r.at_ then bayLeft (stopBay s n r.at_) n else s) := by
  show execBayStopEffect n s = _
  simp only [execBayStopEffect, hb, hr]
  exact (apply_ite next _ _ _).symm

theorem stopEffect_due (h : r.at_.inst b.rate ≤ now s) (ht : tget? s.cfg.tasks n = none) (hq : ∀ z ∈ b.slot.queue, r.at_.le z.at_ = true) :
    exec (.bayStopEffect n) s = .next (bayLeft (stopBay s n r.at_) n) := by
  have hw : stopWaits s n b r.at_ = false := by
    simp only [stopWaits, ht, Option.isSome_none, Bool.false_or, List.any_eq_false, Bool.not_eq_true', Bool.not_eq_false]
    exact hq
  rw [stopEffect_pending hb hr, hw, if_pos (by simpa [instCome] using h)]

theorem stopEffect_waits (h : now s < r.at_.inst b.rate ∨ (tget? s.cfg.tasks n).isSome = true ∨ ∃ z ∈ b.slot.queue, r.at_.le z.at_ = false) :
    exec (.bayStopEffect n) s = .next s := by
  rw [stopEffect_pending hb hr, if_neg]
  simpa [instCome, stopWaits, imp_iff_not_or, Option.isSome_iff_ne_none] using h

end Stop

/-- The last of the switches that are due says up to which instant they take effect. -/
theorem switchEffect_eq : exec (.groupSwitchEffect n) s =
    next (((reqsOf s n).filter (fun r => r.kind.isSwitch && instCome s b r.at_)).getLast?.elim s (fun r => switchesDue s n r.at_)) := by
  show execGroupSwitchEffect n s = _
  simp only [execGroupSwitchEffect, hb]
  cases ((reqsOf s n).filter (fun r => r.kind.isSwitch && instCome s b r.at_)).getLast? <;> rfl

/-- The last of the resets that are due says up to which instant they take effect. -/
theorem resetEffect_eq : exec (.targetResetEffect n) s =
    next (((reqsOf s n).filter (fun r => r.kind.isReset && instCome s b r.at_)).getLast?.elim s (fun r => resetsDue s n r.at_)) := by
  show execTargetResetEffect n s = _
  simp only [execTargetResetEffect, hb]
  cases ((reqsOf s n).filter (fun r => r.kind.isReset && instCome s b r.at_)).getLast? <;> rfl

theorem switchEffect_due {r : BayReq} (hr : ((reqsOf s n).filter (fun r => r.kind.isSwitch && instCome s b r.at_)).getLast? = some r) :
    exec (.groupSwitchEffect n) s = .next (switchesDue s n r.at_) := by
  rw [switchEffect_eq hb, hr]; rfl

theorem resetEffect_due {r : BayReq} (hr : ((reqsOf s n).filter (fun r => r.kind.isReset && instCome s b r.at_)).getLast? = some r) :
    exec (.targetResetEffect n) s = .next (resetsDue s n r.at_) := by
  rw [resetEffect_eq hb, hr]; rfl

omit hb in
/-- Where every request of a kind lies ahead, none is due. -/
theorem due_eq_nil {p : BayReqKind → Bool} (h : ∀ r ∈ reqsOf s n, p r.kind = true → now s < r.at_.inst b.rate) :
    (reqsOf s n).filter (fun r => p r.kind && instCome s b r.at_) = [] :=
  List.filter_eq_nil_iff.mpr fun r hr => by simpa [instCome] using h r hr

theorem switchEffect_none (h : ∀ r ∈ reqsOf s n, r.kind.isSwitch = true → now s < r.at_.inst b.rate) : exec (.groupSwitchEffect n) s = .next s := by
  rw [switchEffect_eq hb, due_eq_nil h]; rfl

theorem resetEffect_none (h : ∀ r ∈ reqsOf s n, r.kind.isReset = true → now s < r.at_.inst b.rate) : exec (.targetResetEffect n) s = .next s := by
  rw [resetEffect_eq hb, due_eq_nil h]; rfl

end Effects

/-- Settles O43: each effect by its equation, and what it leaves of the requests by the lemma on the operation it applies. -/
theorem bayRequestsTakeEffect : Obligations.BayRequestsTakeEffect := by
  unfold Obligations.BayRequestsTakeEffect
  intro s n
  refine ⟨effects_absent, startEffect_none, stopEffect_none, fun b hb hk => ⟨?start, ?stop, switchEffect_none hb, ?switch, resetEffect_none hb, ?reset⟩⟩
  case start =>
    refine fun r hr => ⟨startEffect_early hb hr, fun hd => ⟨startEffect_due hb hr hd, fun t ht => ?_⟩⟩
    rw [startEffect_due hb hr hd] at ht
    cases ht
    refine ⟨fun x hx => ?_, started_run hb _ _⟩
    rw [startBay_reqs (s := setReqs s n _) hb, reqsOf_setReqs hk] at hx
    simpa using (List.mem_filter.mp hx).2
  case stop =>
    refine fun r hr => ⟨fun hd ht hq => ⟨_, stopEffect_due hb hr hd ht hq, rfl, fun x hx => ?_⟩, stopEffect_waits hb hr⟩
    have hleft : SamePlaces (stopBay s n r.at_) (bayLeft (stopBay s n r.at_) n) := (samePlaces_blind _).to_bayLeft (.refl _)
    rw [hleft.reqsOf n] at hx
    exact stopBay_reqs hb hk r.at_ x hx
  case switch => exact fun r hr => ⟨_, switchEffect_due hb hr, rfl, switchesDue_late hb hk r.at_⟩
  case reset => exact fun r hr => ⟨_, resetEffect_due hb hr, rfl, fun x hx => (resetsDue_mem hb hk hx).1⟩

end Sys2Proof.Machine

namespace Sys2Proof.Machine

/-! ### An accepted command sees the bays, their requests and the time as they were -/

section Accepted
variable (s : State) (op : Nat) (e : CmdEntry) (i : Nat)

@[simp] theorem accepted_bay (n : Nat) : bay? (accepted s op e i) n = bay? s n := by rw [accepted_eq]; rfl
@[simp] theorem accepted_reqsOf (n : Nat) : reqsOf (accepted s op e i) n = reqsOf s n := by rw [accepted_eq]; rfl
@[simp] theorem accepted_stopAt (n : Nat) : stopAt? (accepted s op e i) n = stopAt? s n := by rw [accepted_eq]; rfl
@[simp] theorem accepted_nBays : nBays (accepted s op e i) = nBays s := by rw [accepted_eq]; rfl
@[simp] theorem accepted_now : now (accepted s op e i) = now s := by rw [accepted_eq]; rfl
@[simp] theorem accepted_attAt (t : Inst) : attAt (accepted s op e i) t = attAt s t := by rw [accepted_eq]; rfl
@[simp] theorem accepted_att (at_ : EvalAt) (rate : Nat) : at_.att (accepted s op e i) rate = at_.att s rate := accepted_attAt ..

end Accepted

theorem evalFrom_inst (rate : Nat) (t : Inst) : (evalFrom rate t).inst rate = firstGrid rate t := rfl

/-- The first evaluation instant at least 100 µs on lies ahead. -/
theorem now_lt_bayEffect (s : State) (b : Bay) : now s < (bayEffect s b).inst b.rate := by
  have h0 : 0 < b.rate := by
    unfold Bay.rate brRate
    split <;> decide
  calc now s < now s + 100 * usI := Nat.lt_add_of_pos_right (by decide)
    _ ≤ firstGrid b.rate (now s + 100 * usI) := le_firstGrid h0 _
    _ = (bayEffect s b).inst b.rate := by rw [bayEffect, evalFrom_inst]

/-- A command's request forwarded to the standby stands among the bay's requests (R459). -/
theorem mem_reqsOf_forward (s : State) (n : Nat) {r : BayReq} (hc : r.cmd = true) (kind bay arg : Nat) (at_ : EvalAt) :
    r ∈ reqsOf (forward (addReq s n r) kind bay at_ arg) n := by
  have h : SamePlaces (addReq s n r) (forward (addReq s n r) kind bay at_ arg) := (samePlaces_blind _).to_forward (.refl _)
  rw [h.reqsOf n]
  exact mem_reqsOf_addReq s n hc

/-! ### GROUP_SELECT (R200, R306) -/

section GroupSelect
variable {s : State} {e : CmdEntry} {cid : Nat}

theorem groupSelectOwn_badMode (h : s.dev.mode = .boot ∨ s.dev.mode = .vigil ∨ s.dev.mode = .safe) : groupSelectOwn e cid s = .rejAfter s stBadMode := if_pos h

variable (hm : ¬(s.dev.mode = .boot ∨ s.dev.mode = .vigil ∨ s.dev.mode = .safe))
include hm

theorem groupSelectOwn_noBay (h : bay? s (field e.params 0 2) = none) : groupSelectOwn e cid s = .rejAfter s stBadParam := by
  simp only [groupSelectOwn, if_neg hm, h, CmdOut.rej_eq]

variable {b : Bay} (hb : bay? s (field e.params 0 2) = some b)
include hb

theorem groupSelectOwn_badParam (h : b.runs = false ∨ 7 < field e.params 2 1 ∨ bitOf (brMask b.recd) (field e.params 2 1) = false) :
    groupSelectOwn e cid s = .rejAfter s stBadParam := by
  have hc : (!b.runs || decide (7 < field e.params 2 1) || !bitOf (brMask b.recd) (field e.params 2 1)) = true := by simpa [or_assoc] using h
  simp only [groupSelectOwn, if_neg hm, hb, if_pos hc, CmdOut.rej_eq]

variable {a : EvalAt} (ha : bayEffect s b = a) (hr : b.runs = true) (hg : field e.params 2 1 ≤ 7) (hp : bitOf (brMask b.recd) (field e.params 2 1) = true)
include ha hr hg hp

/-- A present group of a running bay goes by what the bay has pending. -/
theorem groupSelectOwn_present : groupSelectOwn e cid s =
    if (reqsOf s (field e.params 0 2)).any (fun r => r.cmd && r.kind.isSwitch) then .rejAfter s stBusy
    else if field e.params 2 1 = b.ctx.sg then .ok s (a.att s b.rate)
    else if (stopAt? s (field e.params 0 2)).any (fun x => x.le a) then .rejAfter s stAborted
    else .ok (forward (putReq s (field e.params 0 2) (.switch (field e.params 2 1)) a true) 1 (field e.params 0 2) a (field e.params 2 1)) (a.att s b.rate) := by
  have hc : (!b.runs || decide (7 < field e.params 2 1) || !bitOf (brMask b.recd) (field e.params 2 1)) = false := by simpa [hr, hp] using hg
  simp only [groupSelectOwn, if_neg hm, hb, ha, hc, CmdOut.rej_eq, Bool.false_eq_true, if_false]
  cases stopAt? s (field e.params 0 2) <;> rfl

theorem groupSelectOwn_busy (h : ∃ r ∈ reqsOf s (field e.params 0 2), r.cmd = true ∧ r.kind.isSwitch = true) : groupSelectOwn e cid s = .rejAfter s stBusy := by
  rw [groupSelectOwn_present hm hb ha hr hg hp, if_pos (by simpa using h)]

variable (hw : ∀ r ∈ reqsOf s (field e.params 0 2), r.cmd = true → r.kind.isSwitch = false)
include hw

theorem groupSelectOwn_active (h : field e.params 2 1 = b.ctx.sg) : groupSelectOwn e cid s = .ok s (a.att s b.rate) := by
  rw [groupSelectOwn_present hm hb ha hr hg hp, if_neg (by simpa using hw), if_pos h]

variable (hn : field e.params 2 1 ≠ b.ctx.sg)
include hn

theorem groupSelectOwn_aborted {x : EvalAt} (hs : stopAt? s (field e.params 0 2) = some x) (hx : x.le a = true) :
    groupSelectOwn e cid s = .rejAfter s stAborted := by
  rw [groupSelectOwn_present hm hb ha hr hg hp, if_neg (by simpa using hw), if_neg hn, if_pos (by simpa [hs] using hx)]

theorem groupSelectOwn_waits (hs : ∀ x, stopAt? s (field e.params 0 2) = some x → x.le a = false) :
    groupSelectOwn e cid s = .ok (forward (putReq s (field e.params 0 2) (.switch (field e.params 2 1)) a true) 1 (field e.params 0 2) a (field e.params 2 1))
      (a.att s b.rate) := by
  rw [groupSelectOwn_present hm hb ha hr hg hp, if_neg (by simpa using hw), if_neg hn, if_neg]
  simpa [Option.any_eq_true] using hs

end GroupSelect

/-! ### TARGET_RESET (R302, R306) -/

/-- One bay asked to reset its targets, after others; the latest of their instants is kept. -/
def resetStep (acc : State × Inst) (j : Nat) : State × Inst := ((askReset acc.1 j).1, if acc.2 < (askReset acc.1 j).2 then (askReset acc.1 j).2 else acc.2)

/-- The bays that a TARGET_RESET names. -/
def resetBays (s : State) (n : Nat) : List Nat := if n = 0xFFFF then s.bays.map Prod.fst else [n]

section TargetReset
variable {s : State} {e : CmdEntry} {cid : Nat}

theorem targetResetOwn_badMode (h : s.dev.mode = .boot ∨ s.dev.mode = .vigil) : targetResetOwn e cid s = .rejAfter s stBadMode := if_pos h

variable (hm : ¬(s.dev.mode = .boot ∨ s.dev.mode = .vigil))
include hm

theorem targetResetOwn_badParam (h : field e.params 0 2 ≠ 0xFFFF ∧ nBays s ≤ field e.params 0 2) : targetResetOwn e cid s = .rejAfter s stBadParam := by
  simp only [targetResetOwn, if_neg hm, if_pos h, CmdOut.rej_eq]

variable (hn : ¬(field e.params 0 2 ≠ 0xFFFF ∧ nBays s ≤ field e.params 0 2))
include hn

theorem targetResetOwn_named : targetResetOwn e cid s =
    if (resetBays s (field e.params 0 2)).any (fun j => pendReq s j BayReqKind.isReset) then .rejAfter s stBusy
    else .ok ((resetBays s (field e.params 0 2)).foldl resetStep (s, now s)).1 (attAt s ((resetBays s (field e.params 0 2)).foldl resetStep (s, now s)).2) := by
  simp only [targetResetOwn, if_neg hm, if_neg hn, CmdOut.rej_eq]
  rfl

theorem targetResetOwn_busy (h : ∃ j ∈ resetBays s (field e.params 0 2), ∃ r ∈ reqsOf s j, r.kind.isReset = true) : targetResetOwn e cid s = .rejAfter s stBusy := by
  rw [targetResetOwn_named hm hn, if_pos (by simpa [pendReq] using h)]

theorem targetResetOwn_asked (h : ∀ j ∈ resetBays s (field e.params 0 2), ∀ r ∈ reqsOf s j, r.kind.isReset = false) : targetResetOwn e cid s =
    .ok ((resetBays s (field e.params 0 2)).foldl resetStep (s, now s)).1 (attAt s ((resetBays s (field e.params 0 2)).foldl resetStep (s, now s)).2) := by
  rw [targetResetOwn_named hm hn, if_neg (by simpa [pendReq] using h)]

end TargetReset

/-- A running bay waits for its instant, which lies ahead. -/
theorem resetStep_runs {s : State} {n : Nat} {b : Bay} (hb : bay? s n = some b) (hr : b.runs = true) :
    resetStep (s, now s) n = (forward (addReq s n ⟨.reset, bayEffect s b, true⟩) 4 n (bayEffect s b) 0, (bayEffect s b).inst b.rate) := by
  have ha : askReset s n = (forward (addReq s n ⟨.reset, bayEffect s b, true⟩) 4 n (bayEffect s b) 0, (bayEffect s b).inst b.rate) := by
    simp only [askReset, hb, hr, if_true]
    rfl
  rw [resetStep, ha, if_pos (now_lt_bayEffect s b)]

theorem isReset_iff {k : BayReqKind} : k.isReset = true ↔ k = .reset := by cases k <;> simp [BayReqKind.isReset]

/-! ### BAY_STATE_READ (R307) -/

section StateRead
variable {s : State} {e : CmdEntry} {cid : Nat}

theorem bayStateReadOwn_badMode (h : s.dev.mode = .boot) : bayStateReadOwn e cid s = .rejAfter s stBadMode := if_pos h

variable (hm : s.dev.mode ≠ .boot)
include hm

theorem bayStateReadOwn_badParam (h : field e.params 2 1 % 16 = 0 ∨ field e.params 8 8 = 0 ∨ field e.params 8 8 % 64 ≠ 0 ∨ nBays s ≤ field e.params 0 2 ∨ bay? s (field e.params 0 2) = none) :
    bayStateReadOwn e cid s = .rejAfter s stBadParam := by
  simp only [bayStateReadOwn, if_neg hm, Option.isNone_iff_eq_none, if_pos h, CmdOut.rej_eq]

/-- A read of a bay queued after the reads that it has. -/
def readQueued (s : State) (n mask host cid : Nat) : State :=
  { s with cfg := { s.cfg with reads := tset s.cfg.reads n (tget [] s.cfg.reads n ++ [⟨mask % 16, host, 8, cid⟩]) } }

omit hm in
/-- A read of a bay that is there is pending while it runs, and else taken at once. -/
theorem queuedRead_placed {n : Nat} {b : Bay} (hb : bay? s n = some b) :
    (match bay? s n with | some b => if b.runs then s else takeReads s n false | none => s) = if b.runs then s else takeReads s n false := by
  rw [hb]

theorem bayStateReadOwn_queued {b : Bay} (h : field e.params 2 1 % 16 ≠ 0) (h0 : field e.params 8 8 ≠ 0) (h64 : field e.params 8 8 % 64 = 0) (hn : field e.params 0 2 < nBays s)
    (hb : bay? s (field e.params 0 2) = some b) : bayStateReadOwn e cid s =
      .later (if b.runs then readQueued s (field e.params 0 2) (field e.params 2 1) (field e.params 8 8) cid
        else takeReads (readQueued s (field e.params 0 2) (field e.params 2 1) (field e.params 8 8) cid) (field e.params 0 2) false) := by
  have hc : ¬(field e.params 2 1 % 16 = 0 ∨ field e.params 8 8 = 0 ∨ field e.params 8 8 % 64 ≠ 0 ∨ nBays s ≤ field e.params 0 2 ∨ (bay? s (field e.params 0 2)).isNone = true) := by
    simp [h, h0, h64, hn, hb]
  have hb' : bay? (readQueued s (field e.params 0 2) (field e.params 2 1) (field e.params 8 8) cid) (field e.params 0 2) = some b := hb
  unfold bayStateReadOwn
  rw [if_neg hm, if_neg hc]
  exact congrArg CmdOut.later (queuedRead_placed hb')

end StateRead

/-- Settles O42: each command by its owning rule, refusal by refusal in the order of the rule. -/
theorem groupSelectReadAndResetComplete : Obligations.GroupSelectReadAndResetComplete := by
  unfold Obligations.GroupSelectReadAndResetComplete
  rintro s e i n rfl
  refine ⟨fun h => ?groupSelect, fun h => ?targetReset, fun h => ?stateRead⟩
  case groupSelect =>
    refine ⟨fun hm => ?_, fun h1 h2 h3 hb => ?_, ?_⟩
    · exact congrArg next (submit_rej h (by decide) (groupSelectOwn_badMode (by simpa using hm)))
    · exact congrArg next (submit_rej h (by decide) (groupSelectOwn_noBay (by simp [h1, h2, h3]) (by simpa using hb)))
    · rintro b g a h1 h2 h3 hb rfl rfl
      have hm : ¬((accepted s 0x42 e i).dev.mode = .boot ∨ (accepted s 0x42 e i).dev.mode = .vigil ∨ (accepted s 0x42 e i).dev.mode = .safe) := by simp [h1, h2, h3]
      have hba : bay? (accepted s 0x42 e i) (field e.params 0 2) = some b := by simpa using hb
      have ha : bayEffect (accepted s 0x42 e i) b = evalFrom b.rate (now s + 100 * usI) := by simp [bayEffect]
      refine ⟨fun hbad => congrArg next (submit_rej h (by decide) (groupSelectOwn_badParam hm hba hbad)), fun hr hg hp => ⟨fun hw => ?_, fun hw => ?_⟩⟩
      · exact congrArg next (submit_rej h (by decide) (groupSelectOwn_busy hm hba ha hr hg hp (by simpa using hw)))
      · have hwa : ∀ r ∈ reqsOf (accepted s 0x42 e i) (field e.params 0 2), r.cmd = true → r.kind.isSwitch = false := by simpa using hw
        refine ⟨fun hn => ?_, fun x hn hs hx => ?_, fun hn hs => ?_⟩
        · have ho := groupSelectOwn_active (cid := s.hif.nextCid) hm hba ha hr hg hp hwa hn
          rw [accepted_att] at ho
          exact congrArg next (submit_ok h ho)
        · exact congrArg next (submit_rej h (by decide) (groupSelectOwn_aborted hm hba ha hr hg hp hwa hn (by simpa using hs) hx))
        · have ho := groupSelectOwn_waits (cid := s.hif.nextCid) hm hba ha hr hg hp hwa hn (by simpa using hs)
          rw [accepted_att] at ho
          exact ⟨_, congrArg next (submit_ok h ho), mem_reqsOf_forward _ _ rfl _ _ _ _⟩
  case targetReset =>
    refine ⟨fun hm => ?_, fun h1 h2 hn hle => ?_, fun todo h1 h2 ht => ?_, fun b h1 h2 hf hlt hb hr hw => ?_⟩
    · exact congrArg next (submit_rej h (by decide) (targetResetOwn_badMode (by simpa using hm)))
    · exact congrArg next (submit_rej h (by decide) (targetResetOwn_badParam (by simp [h1, h2]) (by simpa using ⟨hn, hle⟩)))
    · have hm : ¬((accepted s 0x44 e i).dev.mode = .boot ∨ (accepted s 0x44 e i).dev.mode = .vigil) := by simp [h1, h2]
      have hn : ¬(field e.params 0 2 ≠ 0xFFFF ∧ nBays (accepted s 0x44 e i) ≤ field e.params 0 2) := by
        rw [accepted_nBays]
        omega
      have hto : resetBays (accepted s 0x44 e i) (field e.params 0 2) = todo := by
        rcases ht with ⟨hf, rfl⟩ | ⟨hf, -, rfl⟩ <;> simp [resetBays, hf]
      refine ⟨fun hw => ?_, fun hw q hq => ?_⟩
      · exact congrArg next (submit_rej h (by decide) (targetResetOwn_busy hm hn (by simpa [hto] using hw)))
      · have ho := targetResetOwn_asked (cid := s.hif.nextCid) hm hn (by simpa [hto] using hw)
        rw [hto, accepted_attAt, accepted_now, show todo.foldl resetStep (accepted s 0x44 e i, now s) = q from hq.symm] at ho
        exact congrArg next (submit_ok h ho)
    · have ho := targetResetOwn_asked (s := accepted s 0x44 e i) (e := e) (cid := s.hif.nextCid) (by simp [h1, h2]) (by simp [hlt])
        (by simpa [resetBays, hf, isReset_iff, ← Bool.not_eq_true] using hw)
      rw [resetBays, if_neg hf, List.foldl_cons, List.foldl_nil, resetStep_runs (by simpa using hb) hr, accepted_attAt] at ho
      simp only [bayEffect, accepted_now] at ho
      exact ⟨_, congrArg next (submit_ok h ho), mem_reqsOf_forward _ _ rfl _ _ _ _⟩
  case stateRead =>
    refine ⟨fun hm => ?_, fun hm hbad => ?_, ?_⟩
    · exact congrArg next (submit_rej h (by decide) (bayStateReadOwn_badMode (by simpa using hm)))
    · exact congrArg next (submit_rej h (by decide) (bayStateReadOwn_badParam (by simpa using hm) (by simpa using hbad)))
    · rintro b hm hk h0 h64 hlt hb u rfl
      have ho := bayStateReadOwn_queued (s := accepted s 0x43 e i) (cid := s.hif.nextCid) (by simpa using hm) hk h0 h64 (by simpa using hlt) (by simpa using hb)
      simp only [readQueued, accepted_cfg] at ho
      exact congrArg next (submit_later h ho)

end Sys2Proof.Machine

namespace Sys2Proof.Machine

/-! ### CELL_MIGRATE (R196) -/

section Accepted
variable (s : State) (op : Nat) (e : CmdEntry) (i : Nat)

@[simp] theorem accepted_isSpare (g : Nat) : isSpare (accepted s op e i) g = isSpare s g := by rw [accepted_eq]; rfl
@[simp] theorem accepted_migOf (n : Nat) : migOf? (accepted s op e i) n = migOf? s n := by rw [accepted_eq]; rfl

end Accepted

section CellMigrate
variable {s : State} {e : CmdEntry} {cid : Nat}

theorem cellMigrateOwn_badMode (h : s.dev.mode = .boot) : cellMigrateOwn e cid s = .rejAfter s stBadMode := if_pos h

variable (hm : s.dev.mode ≠ .boot)
include hm

theorem cellMigrateOwn_badParam (h : nBays s ≤ field e.params 0 2 ∨ bay? s (field e.params 0 2) = none ∨ field e.params 2 2 ≠ 0xFFFF ∧ isSpare s (field e.params 2 2) = false) :
    cellMigrateOwn e cid s = .rejAfter s stBadParam := by
  have hc : nBays s ≤ field e.params 0 2 ∨ (bay? s (field e.params 0 2)).isNone = true ∨ (field e.params 2 2 ≠ 0xFFFF ∧ (!isSpare s (field e.params 2 2)) = true) := by simpa using h
  simp only [cellMigrateOwn, if_neg hm, if_pos hc, CmdOut.rej_eq]

variable (hn : field e.params 0 2 < nBays s) (hb : (bay? s (field e.params 0 2)).isSome = true) (hd : field e.params 2 2 = 0xFFFF ∨ isSpare s (field e.params 2 2) = true)
include hn hb hd

/-- The migration that a command for a bay and a destination group, 0xFFFF for any, asks for. -/
def commanded (n d cid : Nat) : Mig := ⟨n, .command, if d = 0xFFFF then none else some d, .waiting, some cid, 0, false⟩

theorem cellMigrateOwn_placed : cellMigrateOwn e cid s =
    if (spares s).isEmpty then .rejAfter s stNoResource
    else if (migOf? s (field e.params 0 2)).isSome then .rejAfter s stBusy
    else .later (cfgKick (askMig s (commanded (field e.params 0 2) (field e.params 2 2) cid))) := by
  have hc : ¬(nBays s ≤ field e.params 0 2 ∨ (bay? s (field e.params 0 2)).isNone = true ∨ (field e.params 2 2 ≠ 0xFFFF ∧ (!isSpare s (field e.params 2 2)) = true)) := by
    simpa [Option.isNone_eq_false_iff.mpr hb, imp_iff_not_or, hn] using hd
  simp only [cellMigrateOwn, if_neg hm, if_neg hc, CmdOut.rej_eq, commanded]

theorem cellMigrateOwn_noSpare (h : spares s = []) : cellMigrateOwn e cid s = .rejAfter s stNoResource := by
  rw [cellMigrateOwn_placed hm hn hb hd, if_pos (by simp [h])]

theorem cellMigrateOwn_busy (h : spares s ≠ []) (hp : (migOf? s (field e.params 0 2)).isSome = true) : cellMigrateOwn e cid s = .rejAfter s stBusy := by
  rw [cellMigrateOwn_placed hm hn hb hd, if_neg (by simpa using h), if_pos hp]

theorem cellMigrateOwn_asked (h : spares s ≠ []) (hp : migOf? s (field e.params 0 2) = none) : cellMigrateOwn e cid s =
    .later (cfgKick { s with cfg := { s.cfg with migs := s.cfg.migs ++ [commanded (field e.params 0 2) (field e.params 2 2) cid] } }) := by
  have ha : askMig s (commanded (field e.params 0 2) (field e.params 2 2) cid) =
      { s with cfg := { s.cfg with migs := s.cfg.migs ++ [commanded (field e.params 0 2) (field e.params 2 2) cid] } } := by
    simp only [askMig, show (commanded (field e.params 0 2) (field e.params 2 2) cid).bay = field e.params 0 2 from rfl, hp]
  rw [cellMigrateOwn_placed hm hn hb hd, if_neg (by simpa using h), if_neg (by simp [hp]), ha]

end CellMigrate

/-! ### MIGRATION_PRECOPY_DONE and MIGRATION_REDIRECT (R194) -/

/-- The group that a bay runs on. -/
def srcOf (s : State) (n : Nat) : Nat := ((bay? s n).map Bay.grp).getD 0xFF

/-- Whether a bay is there and stopped. -/
def isStopped (s : State) (n : Nat) : Bool := ((bay? s n).map (fun b => !b.runs)).getD false

section Migration
variable {s : State} {m : Mig} (hr : migRun? s = some m)
include hr

/-- The precopy done with its destination still spare: the boundary is waited for, which a stopped bay has at once. -/
theorem precopyDone_boundary {d : Nat} (hs : m.step = .precopy) (ht : s.cfg.preAt < s.dev.ticks) (hd : m.dst = some d) (hsp : isSpare s d = true) :
    exec .migrationPrecopyDone s = .next (if isStopped s m.bay then takeBoundary (showMig (modMig s m.bay (fun x => { x with step := .boundary })) m (srcOf s m.bay) 2) m.bay
      else showMig (modMig s m.bay (fun x => { x with step := .boundary })) m (srcOf s m.bay) 2) := by
  show execMigrationPrecopyDone s = _
  cases hb : bay? s m.bay <;> simp [execMigrationPrecopyDone, hr, hb, hs, ht, hd, hsp, srcOf, isStopped]

/-- The precopy done with its destination lost: the migration waits to choose anew. -/
theorem precopyDone_anew (hs : m.step = .precopy) (ht : s.cfg.preAt < s.dev.ticks) (hd : ∀ d, m.dst = some d → isSpare s d = false) :
    exec .migrationPrecopyDone s =
      .next (cfgKick (showBay (showMig (modMig s m.bay (fun x => { x with step := .waiting, dst := if m.cause = .command then m.dst else none })) m (srcOf s m.bay) 0) m.bay)) := by
  show execMigrationPrecopyDone s = _
  have hd' : (m.dst.map (fun d => isSpare s d)).getD false = false := by
    cases h : m.dst with
    | none => rfl
    | some d => exact hd d h
  simp only [execMigrationPrecopyDone, hr, if_pos (And.intro hs ht), hd', Bool.false_eq_true, if_false, srcOf]

theorem precopyDone_waits (hs : m.step = .boundary) : exec .migrationPrecopyDone s = .next (if isStopped s m.bay then takeBoundary s m.bay else s) := by
  show execMigrationPrecopyDone s = _
  cases hb : bay? s m.bay <;> simp [execMigrationPrecopyDone, hr, hb, hs, isStopped]

theorem precopyDone_same (h : (m.step = .precopy ∧ s.dev.ticks ≤ s.cfg.preAt) ∨ (m.step ≠ .precopy ∧ m.step ≠ .boundary)) : exec .migrationPrecopyDone s = .next s := by
  show execMigrationPrecopyDone s = _
  have hp : ¬(m.step = .precopy ∧ s.cfg.preAt < s.dev.ticks) := by
    rcases h with ⟨-, ht⟩ | ⟨hs, -⟩
    · exact fun h => absurd h.2 (Nat.not_lt.mpr ht)
    · exact fun h => hs h.1
  have hb : m.step ≠ .boundary := by
    rcases h with ⟨hs, -⟩ | ⟨-, hs⟩
    · simp [hs]
    · exact hs
  simp only [execMigrationPrecopyDone, hr, if_neg hp, if_neg hb]

theorem migRedirect_copy {b : Bay} (hs : m.step = .copy) (hb : bay? s m.bay = some b) : exec .migrationRedirect s = .next (cfgKick (redirect s m b)) := by
  show execMigrationRedirect s = _
  simp only [execMigrationRedirect, hr, hb, if_pos hs]

theorem migRedirect_same (h : m.step ≠ .copy ∨ bay? s m.bay = none) : exec .migrationRedirect s = .next s := by
  show execMigrationRedirect s = _
  simp only [execMigrationRedirect, hr]
  cases hb : bay? s m.bay with
  | none => rfl
  | some b => exact congrArg next (if_neg (h.resolve_right (by simp [hb])))

end Migration

theorem migration_none {s : State} (hr : migRun? s = none) : exec .migrationPrecopyDone s = .next s ∧ exec .migrationRedirect s = .next s := by
  constructor
  · show execMigrationPrecopyDone s = _
    simp only [execMigrationPrecopyDone, hr]
  · show execMigrationRedirect s = _
    simp only [execMigrationRedirect, hr]

/-- The bay stands on the destination group after a redirect, whatever starts next. -/
theorem redirect_bay (s : State) (m : Mig) (b : Bay) : bay? (cfgKick (redirect s m b)) m.bay = some { b with grp := m.dst.getD b.grp } := by
  have hP := samePlaces_blind (setBay (leaveGroup s b.grp (decide (m.cause = .fault))) m.bay { b with grp := m.dst.getD b.grp })
  have h : SamePlaces (setBay (leaveGroup s b.grp (decide (m.cause = .fault))) m.bay { b with grp := m.dst.getD b.grp }) (redirect s m b) := by
    unfold redirect
    extract_lets src d fault s1 s2 due s3 s4 s5 r c s6
    have h3 : SamePlaces s1 s3 := hP.to_raise (hP.to_endMig (.refl s1))
    have h4 : SamePlaces s1 s4 := iteInduction (fun _ => h3) (fun _ => hP.to_raise (hP.to_bump h3))
    have h5 : SamePlaces s1 s5 := hP.to_completeSome h4
    have h6 : SamePlaces s1 s6 := by
      unfold s6
      split
      · exact hP.migs (hP.to_flagSet (hP.to_fldSet h5)) rfl
      · exact h5
    exact hP.to_showSpares (hP.to_showNoSpare (hP.host (hP.to_showBay (hP.to_showMig h6)) (showLks_host _)))
  rw [(hP.to_cfgKick h).bay m.bay, bay_setBay]

/-! ### The rotation (R197) -/

theorem rotNow_asks {s : State} (hh : hostReach s = true) (hm : s.dev.mode ≠ .boot) : exec .rotNow s = .next (cfgKick { s with cfg := { s.cfg with rotNow := true } }) :=
  congrArg next (if_pos ⟨hh, hm⟩)

theorem rotNow_same {s : State} (h : hostReach s = false ∨ s.dev.mode = .boot) : exec .rotNow s = .next s := by
  refine congrArg next (if_neg ?_)
  rintro ⟨hh, hm⟩
  rcases h with h | h
  · rw [hh] at h; cases h
  · exact hm h

/-- The tick at which the rotation's next regular step falls due. -/
def nextDue (s : State) : Ticks := s.cfg.rotDue + 3600 * fld s R.cfgRotCfg 15 0 * secT / nGroups s

theorem rotationStepDue_eq (s : State) : exec .rotationStepDue s = next (if flag s R.cfgCtl 0 ∧ s.dev.mode ≠ .boot ∧ decide (nextDue s ≤ s.dev.ticks) ∧ !isDying s then
    cfgKick { s with cfg := { s.cfg with rotDue := nextDue s, rotReg := true } } else s) := rfl

theorem rotationStepDue_due {s : State} (hf : flag s R.cfgCtl 0 = true) (hm : s.dev.mode ≠ .boot) (hd : isDying s = false) (ht : nextDue s ≤ s.dev.ticks) :
    exec .rotationStepDue s = .next (cfgKick { s with cfg := { s.cfg with rotDue := nextDue s, rotReg := true } }) := by
  rw [rotationStepDue_eq, if_pos (by simp [hf, hm, hd, ht])]

theorem rotationStepDue_same {s : State} (h : flag s R.cfgCtl 0 = false ∨ s.dev.mode = .boot ∨ isDying s = true ∨ s.dev.ticks < nextDue s) :
    exec .rotationStepDue s = .next s := by
  rw [rotationStepDue_eq, if_neg]
  rintro ⟨hf, hm, ht, hd⟩
  rcases h with h | h | h | h
  · rw [hf] at h; cases h
  · exact hm h
  · rw [h] at hd; cases hd
  · exact absurd (of_decide_eq_true ht) (Nat.not_le.mpr h)

/-! ### Logic self-tests (R198, R199, R437) -/

/-- `t` is `s` in the groups, with the failed cells of `s` and perhaps more. -/
structure FailsMore (s t : State) : Prop where
  grps : t.cfg.grps = s.cfg.grps
  fails : ∀ c ∈ s.cfg.cellFail, c ∈ t.cfg.cellFail

theorem failCell_failsMore (s : State) (c : Nat) : FailsMore s (failCell s c) := by
  unfold failCell
  split
  · exact ⟨rfl, fun _ h => h⟩
  · extract_lets t cfg s1
    have h1 : (raise 0x0703 s1 (idx := c) (items := [(2, c / 3)])).cfg = s1.cfg := raise_cfg ..
    exact ⟨(congrArg Cfg.grps h1).trans rfl, fun x hx => by rw [h1]; exact List.mem_append_left _ hx⟩

theorem mem_failCell (s : State) (c : Nat) : c ∈ (failCell s c).cfg.cellFail := by
  unfold failCell
  split
  · next h => simpa using h
  · rw [raise_cfg]
    exact List.mem_append_right _ (List.mem_singleton_self c)

/-- A list of cells failed in turn: the groups stay, and every cell of the list is marked. -/
theorem foldl_failCell (g : Nat) : ∀ (l : List Nat) (s : State), FailsMore s (l.foldl (fun st p => failCell st (cellOf g p)) s) ∧
    ∀ p ∈ l, cellOf g p ∈ (l.foldl (fun st p => failCell st (cellOf g p)) s).cfg.cellFail
  | [], s => ⟨⟨rfl, fun _ h => h⟩, fun _ h => nomatch h⟩
  | q :: l, s => by
    obtain ⟨hm, hl⟩ := foldl_failCell g l (failCell s (cellOf g q))
    have hq := failCell_failsMore s (cellOf g q)
    refine ⟨⟨hm.grps.trans hq.grps, fun c hc => hm.fails c (hq.fails c hc)⟩, fun p hp => ?_⟩
    rcases List.mem_cons.mp hp with rfl | hp
    · exact hm.fails _ (mem_failCell s _)
    · exact hl p hp

theorem grp_modGrp (s : State) (g : Nat) (f : Grp → Grp) : grp (modGrp s g f) g = f (grp s g) := by
  simp [grp, modGrp, setGrp, tget, tget_tset]

/-- The end of a group's test: the test is noted, and each failed position is marked (R199). -/
theorem testDone_marks (s : State) (g mask : Nat) (ok : Bool) : (grp (testDone s g mask ok) g).tested = some s.dev.ticks ∧ (grp (testDone s g mask ok) g).faultTest = false ∧
    ∀ p, p < 3 → bitOf mask p = true → cellOf g p ∈ (testDone s g mask ok).cfg.cellFail := by
  unfold testDone
  extract_lets x s1 s2 r c s3 s4
  obtain ⟨-, hf⟩ := foldl_failCell g (setBits 3 mask) s
  have hP := samePlaces_blind s2
  have h3 : SamePlaces s2 s3 := iteInduction (fun _ => hP.migs (hP.to_flagSet (hP.to_fldSet (.refl s2))) rfl) (fun _ => .refl s2)
  have h4 : SamePlaces s2 s4 := iteInduction (fun _ => hP.to_fldSet h3) (fun _ => h3)
  have ht : SamePlaces s2 (cfgKick (showSpares s4)) := hP.to_cfgKick (hP.to_showSpares h4)
  have hg : grp s2 g = { grp s1 g with tested := some s.dev.ticks, broken := (grp s1 g).broken || (x.faultTest && !ok), faultTest := false } := grp_modGrp ..
  rw [ht.grp g, hg]
  refine ⟨rfl, rfl, fun p hp hb => ?_⟩
  rw [ht.fails]
  exact hf p (mem_setBits.mpr ⟨hp, hb⟩)

theorem selfFinish_dev (s : State) (n : Nat) : (selfFinish s n).dev = s.dev := by
  unfold selfFinish
  split
  · rfl
  · rw [complete_dev, raise_dev, regSet_dev]

/-- LOGIC_SELFTEST_DONE of a group under test, or tested after a fault migration: a self-test of kind 0 may end with it, and then the group's test does. -/
theorem logicDone_tested {s : State} {g : Nat} (h : underTest s g = true ∨ (grp s g).faultTest = true ∧ hostOf s g = none) (mask : Nat) (ok : Bool) :
    ∃ u, u.dev = s.dev ∧ exec (.logicSelftestDone g mask ok) s = .next (testDone u g mask ok) := by
  have hc : (underTest s g || ((grp s g).faultTest && (hostOf s g).isNone)) = true := by simpa using h
  refine ⟨_, ?_, if_pos hc⟩
  split
  · exact iteInduction (motive := fun t : State => t.dev = s.dev) (fun _ => selfFinish_dev s _) (fun _ => rfl)
  · rfl

theorem logicDone_same {s : State} {g : Nat} (hu : underTest s g = false) (h : (grp s g).faultTest = false ∨ (hostOf s g).isSome = true) (mask : Nat) (ok : Bool) :
    exec (.logicSelftestDone g mask ok) s = .next s := by
  refine if_neg ?_
  rcases h with h | h <;> simp [hu, h, Option.isNone_eq_false_iff.mpr]

/-- Settles O47: the command by its owning rule, each other instruction by its lemma above. -/
theorem migrationsAndRotationAdvance : Obligations.MigrationsAndRotationAdvance := by
  unfold Obligations.MigrationsAndRotationAdvance
  intro s
  refine ⟨?command, ?migration, migration_none, rotNow_asks, rotNow_same, ?rotation, ?tested, fun g mask ok hu h => logicDone_same hu h mask ok⟩
  case command =>
    rintro e i n d h rfl rfl
    refine ⟨fun hm => ?_, fun hm hbad => ?_, fun hm hn hb hd => ?_⟩
    · exact congrArg next (submit_rej h (by decide) (cellMigrateOwn_badMode (by simpa using hm)))
    · exact congrArg next (submit_rej h (by decide) (cellMigrateOwn_badParam (by simpa using hm) (by simpa using hbad)))
    · have hma : (accepted s 0x52 e i).dev.mode ≠ .boot := by simpa using hm
      have hna : field e.params 0 2 < nBays (accepted s 0x52 e i) := by simpa using hn
      have hba : (bay? (accepted s 0x52 e i) (field e.params 0 2)).isSome = true := by simpa using hb
      have hda : field e.params 2 2 = 0xFFFF ∨ isSpare (accepted s 0x52 e i) (field e.params 2 2) = true := by simpa using hd
      refine ⟨fun h0 => ?_, fun h0 hp => ?_, fun h0 hp => ?_⟩
      · exact congrArg next (submit_rej h (by decide) (cellMigrateOwn_noSpare hma hna hba hda (by simpa using h0)))
      · exact congrArg next (submit_rej h (by decide) (cellMigrateOwn_busy hma hna hba hda (by simpa using h0) (by simpa using hp)))
      · have ho := cellMigrateOwn_asked (cid := s.hif.nextCid) hma hna hba hda (by simpa using h0) (by simpa using hp)
        rw [accepted_cfg] at ho
        exact congrArg next (submit_later h ho)
  case migration =>
    rintro m src stopped hr rfl rfl
    refine ⟨?_, precopyDone_anew hr, precopyDone_waits hr, precopyDone_same hr, fun d b hs hd hb => ⟨_, migRedirect_copy hr hs hb, rfl, ?_⟩, migRedirect_same hr⟩
    · rintro d u hs ht hd hsp rfl
      exact precopyDone_boundary hr hs ht hd hsp
    · rw [redirect_bay, hd]
      rfl
  case rotation =>
    rintro w rfl
    exact ⟨rotationStepDue_due, rotationStepDue_same⟩
  case tested =>
    intro g mask ok h
    obtain ⟨u, hu, ht⟩ := logicDone_tested h mask ok
    obtain ⟨htested, hfault, hfails⟩ := testDone_marks u g mask ok
    exact ⟨_, ht, by rw [htested, hu], hfault, fun p hp hb => List.contains_iff_mem.mpr (hfails p hp hb)⟩

end Sys2Proof.Machine

namespace Sys2Proof.Machine

/-! ### Direct trip outputs (R311, R312, R572) -/

section Pins
variable {s : State} {i : Nat}

/-- What a pulse demands of an output (R311). -/
def pulseDemands (s : State) (i : Nat) : Bool := (dto s i).pulse.any (fun x => decide (s.dev.ticks < x))

/-- The minimum width of an active output runs (R311). -/
def widthRuns (s : State) (i : Nat) : Bool :=
  (dto s i).active && decide (s.dev.ticks < (dto s i).since + fld s (R.bayDtoCfg i) 13 0 * 100 * usT)

/-- Whether an output that follows its demand is active (R311, R312). -/
def pinActive (s : State) (i : Nat) : Bool := if dtoHeld s i then false else (dtoMapped s i || pulseDemands s i) || widthRuns s i

/-- A pin that follows its demand leaves every other as it was. -/
theorem dto_dtoStep_ne (s : State) {i j : Nat} (h : j ≠ i) : dto (dtoStep s i) j = dto s j := by
  simp [dto, dtoStep, tget, tget_tset, h]

theorem not_elapsed (s : State) (t n : Ticks) : (!elapsed s t n) = decide (s.dev.ticks < t + n) := by simp [elapsed, ← decide_not]

theorem dtoStep_active (s : State) (i : Nat) : (dto (dtoStep s i) i).active = pinActive s i := by
  have hd : dto (dtoStep s i) i = (tget? (dtoStep s i).cfg.dtos i).getD ⟨false, none, false, 0⟩ := rfl
  rw [hd]
  simp only [dtoStep, tget_tset, if_true, Option.getD_some, pinActive, pulseDemands, widthRuns, not_elapsed]
  cases (dto s i).pulse with
  | none => simp
  | some x => by_cases hx : s.dev.ticks < x <;> simp [hx]

/-- Whether a pin is active depends on no other pin. -/
theorem pinActive_dtoStep (s : State) {i j : Nat} (h : j ≠ i) : pinActive (dtoStep s i) j = pinActive s j := by
  simp only [pinActive, pulseDemands, widthRuns, dto_dtoStep_ne s h]
  rfl

/-- Pins that follow their demand in turn leave the others as they were. -/
theorem dto_foldl_of_notMem {l : List Nat} (h : i ∉ l) (s : State) : dto (l.foldl dtoStep s) i = dto s i := by
  induction l generalizing s with
  | nil => rfl
  | cons j l ih =>
    rw [List.mem_cons, not_or] at h
    rw [List.foldl_cons, ih h.2, dto_dtoStep_ne s h.1]

theorem dto_foldl_active {l : List Nat} (hnd : l.Nodup) (hi : i ∈ l) (s : State) : (dto (l.foldl dtoStep s) i).active = pinActive s i := by
  induction l generalizing s with
  | nil => cases hi
  | cons j l ih =>
    obtain ⟨hj, hnd⟩ := List.nodup_cons.mp hnd
    rw [List.foldl_cons]
    rcases List.mem_cons.mp hi with rfl | hi
    · rw [dto_foldl_of_notMem hj, dtoStep_active]
    · rw [ih hnd hi, pinActive_dtoStep s (ne_of_mem_of_not_mem hi hj)]

/-- The dying sequence has not frozen the pins (R544). -/
def PinsFree (s : State) : Prop := ∀ d, s.pwr.dying = some d → d.phase = .hold

theorem dtoAll_free (h : PinsFree s) : dtoAll s = dtoShow ((List.range 8).foldl dtoStep s) := by
  unfold dtoAll
  extract_lets frozen
  have hf : frozen = false := by
    unfold frozen
    split
    · next d hd => exact decide_eq_false (not_not.mpr (h d hd))
    · rfl
  exact if_neg (by rw [hf]; exact Bool.false_ne_true)

theorem dtoAll_frozen {d : Dying} (hd : s.pwr.dying = some d) (hp : d.phase ≠ .hold) : dtoAll s = s := by
  unfold dtoAll
  extract_lets frozen
  have hf : frozen = true := by
    unfold frozen
    rw [hd]
    exact decide_eq_true hp
  exact if_pos hf

theorem dto_dtoShow (s : State) (i : Nat) : dto (dtoShow s) i = dto s i := rfl

theorem dtoAll_active (h : PinsFree s) (hi : i < 8) : (dto (dtoAll s) i).active = pinActive s i := by
  rw [dtoAll_free h, dto_dtoShow, dto_foldl_active List.nodup_range (List.mem_range.mpr hi)]

/-- The pins, brought up to date, change the configuration island and the registers alone. -/
theorem dtoAll_frame (h : PinsFree s) : dtoAll s = { s with cfg := (dtoAll s).cfg, regs := (dtoAll s).regs } := by
  have hf : (List.range 8).foldl dtoStep s = { s with cfg := ((List.range 8).foldl dtoStep s).cfg } :=
    List.foldlRecOn (motive := fun t : State => t = { s with cfg := t.cfg }) _ _ rfl fun _ k _ _ => by rw [k]; rfl
  rw [dtoAll_free h]
  generalize (List.range 8).foldl dtoStep s = u at hf ⊢
  rw [hf]
  rfl

theorem dtoHeld_withoutEn (hm : s.dev.mode = .commission ∨ s.dev.mode = .test) (ha : s.dev.dtoActive = false) : dtoHeld s i = true := by
  rcases hm with hm | hm <;> simp [dtoHeld, hm, ha]

theorem dtoHeld_safe (h : s.dev.mode = .safe) : dtoHeld s i = true := by simp [dtoHeld, h]

end Pins

section DtoEn
variable {s : State}

theorem dtoEnWrite_unreached (h : hostReach s = false) (v : Bool) : exec (.dtoEnWrite v) s = .next s := congrArg next (if_neg (by simp [h]))

theorem dtoEnWrite_ignored {v : Bool} (h : ¬((s.dev.mode = .commission ∨ s.dev.mode = .test) ∧ s.dev.dtoEn ≠ v)) : exec (.dtoEnWrite v) s = .next s := by
  have hp : dtoEnPut s v = s := if_neg h
  exact congrArg next (by rw [hp, ite_self])

variable (hh : hostReach s = true) (hm : s.dev.mode = .commission ∨ s.dev.mode = .test)
include hh hm

theorem dtoEnWrite_set (h : s.dev.dtoEn = false) :
    exec (.dtoEnWrite true) s = .next { s with dev := { s.dev with dtoEn := true, dtoAt := some (effectInst s) } } :=
  congrArg next ((if_pos hh).trans (if_pos ⟨hm, by simp [h]⟩))

theorem dtoEnWrite_clear (h : s.dev.dtoEn = true) :
    exec (.dtoEnWrite false) s = .next (dtoAll { s with dev := { s.dev with dtoEn := false, dtoActive := false, dtoAt := none } }) :=
  congrArg next ((if_pos hh).trans (if_pos ⟨hm, by simp [h]⟩))

end DtoEn

section DtoEnEffect
variable {s : State}

theorem dtoEnEffect_none (h : s.dev.dtoAt = none) : exec .dtoEnEffect s = .next s := by
  show execDtoEnEffect s = _
  simp only [execDtoEnEffect, h]

variable {x : Inst} (h : s.dev.dtoAt = some x)
include h

theorem dtoEnEffect_pending : exec .dtoEnEffect s =
    next (if s.dev.dtoEn ∧ x ≤ now s then dtoAll { s with dev := { s.dev with dtoActive := true, dtoAt := none } } else s) := by
  show execDtoEnEffect s = _
  simp only [execDtoEnEffect, h]

theorem dtoEnEffect_due (he : s.dev.dtoEn = true) (hx : x ≤ now s) :
    exec .dtoEnEffect s = .next (dtoAll { s with dev := { s.dev with dtoActive := true, dtoAt := none } }) := by
  rw [dtoEnEffect_pending h, if_pos ⟨he, hx⟩]

theorem dtoEnEffect_same (hx : now s < x ∨ s.dev.dtoEn = false) : exec .dtoEnEffect s = .next s := by
  rw [dtoEnEffect_pending h, if_neg]
  rintro ⟨he, hle⟩
  rcases hx with hx | hx
  · exact absurd hle (Nat.not_le.mpr hx)
  · rw [he] at hx; cases hx

end DtoEnEffect

/-! ### Binary inputs (R308 to R310) -/

/-- The state with an input's record replaced. -/
def putBin (s : State) (i : Nat) (b : Bin) : State := { s with cfg := { s.cfg with bins := tset s.cfg.bins i b } }

theorem bin_putBin (s : State) (i : Nat) (b : Bin) (j : Nat) : bin (putBin s i b) j = if j = i then b else bin s j := by
  simp only [bin, putBin, tget, tget_tset]
  split <;> rfl

/-- An input is seen in the configuration island alone. -/
theorem bin_host {s t : State} (h : HostOnly s t) (j : Nat) : bin t j = bin s j := by simp only [bin, h.cfg]

theorem showBin_host (s : State) (i : Nat) : HostOnly s (showBin s i) := (flagSet_host ..).trans (flagSet_host ..)

/-- The changes of an input within the second of an acceptance, with that acceptance (R310). -/
def changesAt (s : State) (i : Nat) (accAt : QInst) : Nat := if (bin s i).sec = accAt / 4000000000 then (bin s i).chg + 1 else 1

/-- More changes than chatter_max freeze an input; with chatter_max 0 none do (R310). -/
def chatters (s : State) (chg : Nat) : Bool := decide (0 < fld s R.bayBinCfg 15 8) && decide (fld s R.bayBinCfg 15 8 < chg)

/-- The record of an input with a level accepted (R308, R310). -/
def acceptedBin (s : State) (i : Nat) (level : Bool) (accAt : QInst) : Bin :=
  { level := level, acc := ((accAt, level) :: (bin s i).acc).take 512, chg := changesAt s i accAt, sec := accAt / 4000000000,
    frozen := if chatters s (changesAt s i accAt) then some (accAt / 4000000000) else none, since := (bin s i).since }

/-- A level accepted changes the input's record; the rest is shown and raised. -/
theorem acceptBin_host (s : State) (i : Nat) (level : Bool) (first accAt : QInst) :
    HostOnly (putBin s i (acceptedBin s i level accAt)) (acceptBin s i level first accAt) := by
  unfold acceptBin
  extract_lets b sec chg most ovr b1 cfg s1 s2
  have h1 : HostOnly (putBin s i (acceptedBin s i level accAt)) s1 := showBin_host _ i
  have h2 : HostOnly (putBin s i (acceptedBin s i level accAt)) s2 :=
    iteInduction (motive := HostOnly _) (fun _ => h1.trans (raise_host ..)) (fun _ => h1)
  exact iteInduction (motive := HostOnly _) (fun _ => (h2.trans (flagSet_host ..)).trans (raise_host ..)) (fun _ => h2)

theorem bin_acceptBin (s : State) (i : Nat) (level : Bool) (first accAt : QInst) (j : Nat) :
    bin (acceptBin s i level first accAt) j = if j = i then acceptedBin s i level accAt else bin s j :=
  (bin_host (acceptBin_host s i level first accAt) j).trans (bin_putBin ..)

/-- When BIN_ACCEPT takes a level that sample `m` of a second has first shown (R308, R310). -/
structure Accepts (s : State) (i : Nat) (level : Bool) (sec m : Nat) : Prop where
  input : i < 16
  sample : m < 129600
  other : (bin s i).level ≠ level
  loose : (bin s i).frozen = none
  newer : ∀ p, (bin s i).acc.head? = some p → p.1 < binTag sec (m + debounceN s - 1)
  come : binTag sec (m + debounceN s - 1) * 16384 ≤ now s
  tagged : s.afe.minTag ≤ binTag sec m
  begun : (bin s i).since < binTag sec m
  runs : partRuns s = true
  booted : s.dev.mode ≠ .boot

/-- BIN_ACCEPT takes the level exactly where its conditions hold. -/
theorem binAccept_cases (s : State) (i : Nat) (level : Bool) (sec m : Nat) :
    (Accepts s i level sec m → exec (.binAccept i level sec m) s = .next (acceptBin s i level (binTag sec m) (binTag sec (m + debounceN s - 1)))) ∧
    (¬Accepts s i level sec m → exec (.binAccept i level sec m) s = .next s) := by
  show (_ → execBinAccept i level sec m s = _) ∧ (_ → execBinAccept i level sec m s = _)
  unfold execBinAccept
  extract_lets first accAt b newer
  have hn : newer = true ↔ ∀ p, (bin s i).acc.head? = some p → p.1 < accAt := by
    unfold newer b
    cases (bin s i).acc.head? <;> simp
  have hc : (decide (i < 16) && decide (m < 129600) && decide (b.level ≠ level) && b.frozen.isNone && newer && decide (accAt * 16384 ≤ now s) && decide (s.afe.minTag ≤ first)
      && decide (b.since < first) && partRuns s && decide (s.dev.mode ≠ .boot)) = true ↔ Accepts s i level sec m := by
    simp only [Bool.and_eq_true, decide_eq_true_eq, hn, Option.isNone_iff_eq_none]
    exact ⟨fun ⟨⟨⟨⟨⟨⟨⟨⟨⟨h1, h2⟩, h3⟩, h4⟩, h5⟩, h6⟩, h7⟩, h8⟩, h9⟩, h10⟩ => ⟨h1, h2, h3, h4, h5, h6, h7, h8, h9, h10⟩,
      fun ⟨h1, h2, h3, h4, h5, h6, h7, h8, h9, h10⟩ => ⟨⟨⟨⟨⟨⟨⟨⟨⟨h1, h2⟩, h3⟩, h4⟩, h5⟩, h6⟩, h7⟩, h8⟩, h9⟩, h10⟩⟩
  exact ⟨fun h => if_pos (hc.mpr h), fun h => if_neg fun k => h (hc.mp k)⟩

/-- An input frozen by an acceptance has had more changes in its second than a chatter_max that is not 0. -/
theorem acceptedBin_frozen (s : State) (i : Nat) (level : Bool) (accAt : QInst) :
    (acceptedBin s i level accAt).frozen.isSome = true ↔ 0 < fld s R.bayBinCfg 15 8 ∧ fld s R.bayBinCfg 15 8 < (acceptedBin s i level accAt).chg := by
  have hc : chatters s (changesAt s i accAt) = true ↔ 0 < fld s R.bayBinCfg 15 8 ∧ fld s R.bayBinCfg 15 8 < changesAt s i accAt := by simp [chatters]
  simp only [acceptedBin]
  rw [← hc]
  cases chatters s (changesAt s i accAt) <;> simp

section Release
variable {s : State} {i : Nat}

theorem binRelease_none (h : (bin s i).frozen = none) (c : Nat) : exec (.binChatterRelease i c) s = .next s := by
  show execBinChatterRelease i c s = _
  simp only [execBinChatterRelease, h]

variable {f c : Nat} (h : (bin s i).frozen = some f)
include h

theorem binRelease_ends (hf : f + 2 ≤ now s / secI) (hc : c ≤ fld s R.bayBinCfg 15 8) :
    exec (.binChatterRelease i c) s = .next (showBin (putBin s i { bin s i with frozen := none, since := now s / 16384 }) i) := by
  show execBinChatterRelease i c s = _
  simp only [execBinChatterRelease, h, if_pos (And.intro hf hc)]
  rfl

theorem binRelease_waits (hw : now s / secI < f + 2 ∨ fld s R.bayBinCfg 15 8 < c) : exec (.binChatterRelease i c) s = .next s := by
  show execBinChatterRelease i c s = _
  have hn : ¬(f + 2 ≤ now s / secI ∧ c ≤ fld s R.bayBinCfg 15 8) := fun ⟨hf, hc⟩ => hw.elim (Nat.not_lt.mpr hf) (Nat.not_lt.mpr hc)
  simp only [execBinChatterRelease, h, if_neg hn]

end Release

/-- Settles O45: the pins by what each follows, dto_en and the inputs by the equations of their instructions. -/
theorem pinsFollowDemandAndDebounce : Obligations.PinsFollowDemandAndDebounce := by
  unfold Obligations.PinsFollowDemandAndDebounce
  refine ⟨fun s => ⟨?demand, ?frozen, ?held, fun hh hm => ⟨dtoEnWrite_set hh hm, fun he => ⟨_, dtoEnWrite_clear hh hm he, dtoAll_dev _⟩⟩, ?ignored,
      fun x hx => ⟨fun he hle => ⟨_, dtoEnEffect_due hx he hle, dtoAll_dev _⟩, dtoEnEffect_same hx⟩, dtoEnEffect_none, ?fault, ?noFault⟩,
    fun s i => ⟨?accept, ?keep, ?release, fun f c hf hw => binRelease_waits hf hw, fun c hf => binRelease_none hf c⟩⟩
  case demand =>
    refine fun pin hp hd => ⟨dtoAll s, congrArg next (if_pos hp), dtoAll_frame hd, fun i hi => ?_⟩
    rw [dtoAll_active hd hi, pinActive, pulseDemands, widthRuns]
    cases (dto s i).pulse <;> rfl
  case frozen =>
    rintro pin d (hp | ⟨hd, hp⟩)
    · exact congrArg next (if_neg (Nat.not_lt.mpr hp))
    · exact congrArg next ((congrArg (fun t => if pin < 8 then t else s) (dtoAll_frozen hd hp)).trans (ite_self s))
  case held =>
    rintro i (h | h | ⟨hm, ha⟩)
    · exact dtoHeld_boot h i
    · exact dtoHeld_safe h
    · exact dtoHeld_withoutEn hm ha
  case ignored =>
    rintro v (h | ⟨h1, h2⟩ | h)
    · exact dtoEnWrite_unreached h v
    · exact dtoEnWrite_ignored fun ⟨hm, _⟩ => hm.elim h1 h2
    · exact dtoEnWrite_ignored fun ⟨_, hv⟩ => hv h
  case fault => exact fun pin hp hr => congrArg next (if_pos ⟨hp, hr⟩)
  case noFault =>
    refine fun pin h => congrArg next (if_neg ?_)
    rintro ⟨hp, hr⟩
    rcases h with h | h
    · exact absurd hp (Nat.not_lt.mpr h)
    · rw [hr] at h; cases h
  case accept =>
    intro level sec m h1 h2 h3 h4 h5 h6 h7 h8 h9 h10
    refine ⟨_, (binAccept_cases s i level sec m).1 ⟨h1, h2, h3, h4, h5, h6, h7, h8, h9, h10⟩, ?_, fun j hj => ?_, ?_⟩
    · rw [bin_acceptBin, if_pos rfl]; rfl
    · rw [bin_acceptBin, if_neg hj]
    · rw [bin_acceptBin, if_pos rfl]
      exact acceptedBin_frozen ..
  case keep =>
    refine fun level sec m h => (binAccept_cases s i level sec m).2 fun ⟨h1, h2, h3, h4, h5, h6, h7, h8, h9, h10⟩ => ?_
    rcases h with h | h | h | h | ⟨p, hp, h⟩ | h | h | h | h | h
    · exact absurd h1 (Nat.not_lt.mpr h)
    · exact absurd h2 (Nat.not_lt.mpr h)
    · exact h3 h
    · simp [h4] at h
    · exact absurd (h5 p hp) (Nat.not_lt.mpr h)
    · exact absurd h6 (Nat.not_le.mpr h)
    · exact absurd h7 (Nat.not_le.mpr h)
    · exact absurd h8 (Nat.not_lt.mpr h)
    · simp [h9] at h
    · exact h10 h
  case release =>
    refine fun f c hf h1 h2 => ⟨_, binRelease_ends hf h1 h2, ?_, fun j hj => ?_⟩
    · rw [bin_host (showBin_host ..), bin_putBin, if_pos rfl]
    · rw [bin_host (showBin_host ..), bin_putBin, if_neg hj]

end Sys2Proof.Machine

namespace Sys2Proof.Machine

/-! ### BAY_START and BAY_STOP (R296, R303) -/

theorem isRun_iff {k : BayReqKind} : k.isRun = true ↔ k = .start ∨ k = .stop := by cases k <;> simp [BayReqKind.isRun]

@[simp] theorem accepted_bayRunCheck (s : State) (op : Nat) (e : CmdEntry) (i n : Nat) : bayRunCheck (accepted s op e i) n = bayRunCheck s n := by rw [accepted_eq]; rfl

section Check
variable {s : State} {n : Nat}

theorem bayRunCheck_badMode (h : s.dev.mode = .boot ∨ s.dev.mode = .vigil) : bayRunCheck s n = some stBadMode := if_pos h

variable (hm : ¬(s.dev.mode = .boot ∨ s.dev.mode = .vigil))
include hm

theorem bayRunCheck_badParam (h : nBays s ≤ n ∨ bay? s n = none) : bayRunCheck s n = some stBadParam := by
  rw [bayRunCheck, if_neg hm, if_pos (by simpa using h)]

variable {b : Bay} (hn : n < nBays s) (hb : bay? s n = some b)
include hn hb

/-- A placed bay passes unless a start or a stop of it is pending. -/
theorem bayRunCheck_placed : bayRunCheck s n = if pendReq s n BayReqKind.isRun then some stBusy else none := by
  rw [bayRunCheck, if_neg hm, if_neg (by simp [hb, hn])]

theorem bayRunCheck_busy (h : ∃ r ∈ reqsOf s n, r.kind = .start ∨ r.kind = .stop) : bayRunCheck s n = some stBusy := by
  rw [bayRunCheck_placed hm hn hb, if_pos (by simpa [pendReq, isRun_iff] using h)]

theorem bayRunCheck_passes (h : ∀ r ∈ reqsOf s n, r.kind ≠ .start ∧ r.kind ≠ .stop) : bayRunCheck s n = none := by
  rw [bayRunCheck_placed hm hn hb, if_neg (by simpa [pendReq, isRun_iff] using h)]

end Check

/-- A refusal of the common check answers both commands. -/
theorem bayRun_refused {s : State} {e : CmdEntry} {i st : Nat} (h : Taken s e usedBayRun i) (hs : st ≠ stOk) (hc : bayRunCheck s (field e.params 0 2) = some st) :
    exec (.bayStart e) s = .next (badCpl s (accepted s 0x40 e i) 0x40 e i st) ∧ exec (.bayStop e) s = .next (badCpl s (accepted s 0x41 e i) 0x41 e i st) := by
  refine ⟨congrArg next (submit_rej h hs ?_), congrArg next (submit_rej h hs ?_)⟩
  · simp only [bayStartOwn, accepted_bayRunCheck, hc, CmdOut.rej_eq]
  · simp only [bayStopOwn, accepted_bayRunCheck, hc, CmdOut.rej_eq]

section Passed
variable {s : State} {e : CmdEntry} {cid : Nat} {b : Bay} (hc : bayRunCheck s (field e.params 0 2) = none) (hb : bay? s (field e.params 0 2) = some b)
include hc hb

theorem bayStartOwn_runs (hr : b.runs = true) : bayStartOwn e cid s = .ok s := by
  simp only [bayStartOwn, hc, hb, if_pos hr]

theorem bayStartOwn_illegal (hr : b.runs = false) (hk : constOk (b.setOf (brInit b.recd)) = false) :
    bayStartOwn e cid s = .rejAfter (raise 0x0903 s (bay := field e.params 0 2)) stBadParam := by
  simp only [bayStartOwn, hc, hb, hr, hk, Bool.false_eq_true, if_false, Bool.not_false, if_true]

theorem bayStartOwn_waits (hr : b.runs = false) (hk : constOk (b.setOf (brInit b.recd)) = true) : bayStartOwn e cid s =
    .ok (forward (putReq s (field e.params 0 2) .start (bayEffect s b) true) 2 (field e.params 0 2) (bayEffect s b) 0) ((bayEffect s b).att s b.rate) := by
  simp only [bayStartOwn, hc, hb, hr, hk, Bool.false_eq_true, if_false, Bool.not_true]

theorem bayStopOwn_stopped (hr : b.runs = false) : bayStopOwn e cid s = .ok s := by
  simp only [bayStopOwn, hc, hb, hr, Bool.not_false, if_true]

theorem bayStopOwn_waits (hr : b.runs = true) : bayStopOwn e cid s =
    .ok (forward (putReq s (field e.params 0 2) .stop (bayEffect s b) true) 3 (field e.params 0 2) (bayEffect s b) 0) ((bayEffect s b).att s b.rate) := by
  simp only [bayStopOwn, hc, hb, hr, Bool.false_eq_true, if_false, Bool.not_true]

end Passed

theorem bay_setRun {s : State} {n : Nat} {b : Bay} (hb : bay? s n = some b) (v : Nat) : bay? (setRun s n v) n = some { b with ctx := { b.ctx with run := v } } := by
  simp only [setRun, modBay, hb, bay_setBay]

theorem reqsOf_setRun (s : State) (n v j : Nat) : reqsOf (setRun s n v) j = reqsOf s j := by
  unfold setRun modBay
  split <;> rfl

/-- A command's start or stop forwarded to the standby waits among the bay's requests, and the run state shows it (R289, R303, R459). -/
theorem waits_forward {s : State} {n : Nat} {b : Bay} (hb : bay? s n = some b) {r : BayReq} (hr : r.cmd = true) (v kind arg : Nat) (at_ : EvalAt) :
    r ∈ reqsOf (forward (setRun (addReq s n r) n v) kind n at_ arg) n ∧ (bay? (forward (setRun (addReq s n r) n v) kind n at_ arg) n).map (fun x => x.ctx.run) = some v := by
  have h : SamePlaces (setRun (addReq s n r) n v) (forward (setRun (addReq s n r) n v) kind n at_ arg) := (samePlaces_blind _).to_forward (.refl _)
  have hb' : bay? (addReq s n r) n = some b := hb
  refine ⟨?_, ?_⟩
  · rw [h.reqsOf n, reqsOf_setRun]
    exact mem_reqsOf_addReq s n hr
  · rw [h.bay n, bay_setRun hb']
    rfl

/-- Settles O41: the common check refusal by refusal, then each command by its owning rule. -/
theorem bayStartAndStopComplete : Obligations.BayStartAndStopComplete := by
  unfold Obligations.BayStartAndStopComplete
  rintro s e i n h rfl
  refine ⟨fun hm => bayRun_refused h (by decide) (bayRunCheck_badMode hm),
    fun h1 h2 hn => bayRun_refused h (by decide) (bayRunCheck_badParam (by simp [h1, h2]) hn), fun b h1 h2 hn hb => ?_⟩
  have hm : ¬(s.dev.mode = .boot ∨ s.dev.mode = .vigil) := by simp [h1, h2]
  refine ⟨fun hw => bayRun_refused h (by decide) (bayRunCheck_busy hm hn hb hw), fun hw => ?_⟩
  have hc (op : Nat) : bayRunCheck (accepted s op e i) (field e.params 0 2) = none := by rw [accepted_bayRunCheck, bayRunCheck_passes hm hn hb hw]
  have hba (op : Nat) : bay? (accepted s op e i) (field e.params 0 2) = some b := by rwa [accepted_bay]
  have ha (op : Nat) : bayEffect (accepted s op e i) b = evalFrom b.rate (now s + 100 * usI) := by rw [bayEffect, accepted_now]
  refine ⟨fun hr => ?_, fun hr => ?_, fun hr hk => ?_, fun hr hk => ?_, fun hr => ?_⟩
  · exact congrArg next (submit_ok h (bayStartOwn_runs (hc _) (hba _) hr))
  · exact congrArg next (submit_ok h (bayStopOwn_stopped (hc _) (hba _) hr))
  · have ho := bayStartOwn_waits (cid := s.hif.nextCid) (hc 0x40) (hba _) hr hk
    rw [ha, accepted_att] at ho
    exact ⟨_, congrArg next (submit_ok h ho), waits_forward (hba _) rfl 2 _ _ _⟩
  · exact congrArg next (submit_rej h (by decide) (bayStartOwn_illegal (hc _) (hba _) hr hk))
  · have ho := bayStopOwn_waits (cid := s.hif.nextCid) (hc 0x41) (hba _) hr
    rw [ha, accepted_att] at ho
    exact ⟨_, congrArg next (submit_ok h ho), waits_forward (hba _) rfl 3 _ _ _⟩

end Sys2Proof.Machine

namespace Sys2Proof.Machine

/-! ### Metered bays: what writing one, showing them and accepting a command leave (R320, R329) -/

theorem metBay_setMet (s : State) (n : Nat) (b : MetBay) : metBay? (setMet s n b) n = some b := by simp [metBay?, setMet, tget_tset]

theorem HostOnly.metBay {s t : State} (h : HostOnly s t) (n : Nat) : metBay? t n = metBay? s n := by rw [metBay?, metBay?, h.met]

theorem showMet_host (s : State) : HostOnly s (showMet s) :=
  (HostOnly.foldl (fun _ _ => (regSet_host ..).trans (regSet_host ..)) _ _).trans ((fldSet_host ..).trans (fldSet_host ..))

section Accepted
variable (s : State) (op : Nat) (e : CmdEntry) (i n : Nat)

@[simp] theorem accepted_metBay : metBay? (accepted s op e i) n = metBay? s n := by rw [accepted_eq]; rfl
@[simp] theorem accepted_metOpenBytes (b : MetBay) : metOpenBytes (accepted s op e i) n b = metOpenBytes s n b := by rw [accepted_eq]; rfl

end Accepted

/-! ### Judging a posted record (R333 to R335) -/

theorem bitOf_add_mul_two_pow (v m : Nat) {i j : Nat} (h : i < j) : bitOf (v + 2 ^ j * m) i = bitOf v i := by
  have hm : (v + 2 ^ j * m).testBit i = ((v + 2 ^ j * m) % 2 ^ j).testBit i := by
    rw [Nat.testBit_mod_two_pow, decide_eq_true h, Bool.true_and]
  rw [bitOf_eq_testBit, bitOf_eq_testBit, hm, Nat.add_mul_mod_self_left, Nat.testBit_mod_two_pow, decide_eq_true h, Bool.true_and]

/-- Judging sets PARTIAL, judged and NT_ACTIVE alone: the flags below bit 10 stay. -/
theorem metJudge_has (s : State) (r : List Byte) (x : MetRec) {i : Nat} (h : i < 10) : (metJudge s r x).has i = x.has i := by
  have hk : i ∉ [10, 11, 12] := by simp only [List.mem_cons, List.not_mem_nil, or_false]; omega
  have hs (k a b c : Nat) : k + 2 ^ 10 * a + 2 ^ 11 * b + 2 ^ 12 * c = k + 2 ^ 10 * (a + 2 * b + 4 * c) := by ring
  simp only [metJudge, MetRec.has, hs, bitOf_add_mul_two_pow _ _ h]
  rw [bitOf_maskOf _ (by omega)]
  simp [metLoss, hk]

/-- The record of a held interval with a command's post in it, before it is judged: posted, and amended when it was posted before (R331). -/
def MetRec.withPost (x : MetRec) (e : CmdEntry) : MetRec :=
  { x with flags := Nat.lor x.flags (2 ^ 9 + (if x.has 9 then 2 ^ 14 else 0)), eds := field e.params 16 8, exp := field e.params 4 4, rcv := field e.params 24 4 }

theorem MetRec.withPost_posted (x : MetRec) (e : CmdEntry) : (x.withPost e).has 9 = true := by
  have hp (c : Bool) : (2 ^ 9 + (if c then 2 ^ 14 else 0)).testBit 9 = true := by cases c <;> decide
  rw [MetRec.has, bitOf_eq_testBit]
  show (x.flags ||| (2 ^ 9 + (if x.has 9 then 2 ^ 14 else 0))).testBit 9 = true
  rw [Nat.testBit_lor, hp, Bool.or_true]

/-- The held intervals of a bay once r_short and r_long are written: each with its start, flags and residual. -/
theorem mem_metShort {b : MetBay} {y : MetHeld} (hy : y ∈ b.held) (start : Nat) :
    ∃ z ∈ (metShort b start).held, z.rec_.start = y.rec_.start ∧ z.rec_.flags = y.rec_.flags ∧ z.rec_.nt = y.rec_.nt := by
  refine ⟨_, List.mem_map_of_mem hy, ?_⟩
  split <;> exact ⟨rfl, rfl, rfl⟩

theorem metShort_length (b : MetBay) (start : Nat) : (metShort b start).held.length = b.held.length := List.length_map _

theorem HostOnly.ite {c : Prop} [Decidable c] {o s t : State} (h : HostOnly o s) (k : HostOnly o t) : HostOnly o (if c then s else t) := by
  split
  · exact h
  · exact k

/-- An event raised under a condition. -/
theorem HostOnly.raised {c : Prop} [Decidable c] {o s : State} (h : HostOnly o s) {code bay idx : Nat} {items : List (Nat × Nat)} {att : Option Att} {att2 : Att} :
    HostOnly o (if c then raise code s bay idx items att att2 else s) := .ite (h.trans (raise_host ..)) h

/-- Evaluating the alarm moves the alarm and the step condition of the bay alone. -/
theorem metAlarm_metBay {s : State} {n : Nat} {b : MetBay} (hb : metBay? s n = some b) :
    ∃ al st, metBay? (metAlarm s n) n = some { b with alarm := al, step := st } := by
  simp only [metAlarm, hb]
  exact ⟨_, _, (HostOnly.metBay (.raised (.ite ((showMet_host _).trans (raise_host ..)) (.raised (showMet_host _)))) n).trans (metBay_setMet s n _)⟩

/-! ### MET_INTERVAL_POST (R331) -/

/-- The record that a post leaves in a held interval, judged. -/
def postRecord (s : State) (e : CmdEntry) (b : MetBay) (h : MetHeld) : MetRec := metJudge s b.recd (h.rec_.withPost e)

/-- A bay with another record in a held interval. -/
def MetBay.withRecord (b : MetBay) (h : MetHeld) (x : MetRec) : MetBay := { b with held := b.held.map (fun y => if y = h then { y with rec_ := x } else y) }

/-- The state after a post for a held interval, before the alarm is evaluated: the record in the bay, the post counted, and the amendment where it is one. -/
def postStored (s : State) (e : CmdEntry) (b : MetBay) (h : MetHeld) : State :=
  let s1 := setMet (bump s R.metPostCnt) (field e.params 0 2) (metShort (b.withRecord h (postRecord s e b h)) (field e.params 8 8))
  if h.rec_.has 9 then bump s1 R.metAmendCnt else s1

theorem postStored_metBay (s : State) (e : CmdEntry) (b : MetBay) (h : MetHeld) :
    metBay? (postStored s e b h) (field e.params 0 2) = some (metShort (b.withRecord h (postRecord s e b h)) (field e.params 8 8)) :=
  ((HostOnly.ite (bump_host ..) (.refl _)).metBay _).trans (metBay_setMet ..)

theorem MetBay.withRecord_length (b : MetBay) (h : MetHeld) (x : MetRec) : (b.withRecord h x).held.length = b.held.length := List.length_map _

theorem MetBay.mem_withRecord {b : MetBay} {h : MetHeld} (hh : h ∈ b.held) (x : MetRec) : { h with rec_ := x } ∈ (b.withRecord h x).held :=
  List.mem_map.mpr ⟨h, hh, if_pos rfl⟩

theorem MetBay.find_start {b : MetBay} {start : Nat} {h : MetHeld} (hf : b.find start = some h) : h.rec_.start = start := by
  simpa using List.find?_some hf

theorem MetBay.find_mem {b : MetBay} {start : Nat} {h : MetHeld} (hf : b.find start = some h) : h ∈ b.held := List.mem_of_find?_eq_some hf

/-- After a post the bay holds as many intervals, one of them with the flags and the residual of the judged record. -/
theorem metAlarm_postStored {s : State} {e : CmdEntry} {b : MetBay} {h : MetHeld} (hf : b.find (field e.params 8 8) = some h) :
    ∃ b', metBay? (metAlarm (postStored s e b h) (field e.params 0 2)) (field e.params 0 2) = some b' ∧ b'.held.length = b.held.length ∧
      ∃ y, y ∈ b'.held ∧ y.rec_.start = field e.params 8 8 ∧ y.rec_.flags = (postRecord s e b h).flags ∧ y.rec_.nt = (postRecord s e b h).nt := by
  obtain ⟨al, st, hb⟩ := metAlarm_metBay (postStored_metBay s e b h)
  obtain ⟨y, hy, hstart, hflags, hnt⟩ := mem_metShort (MetBay.mem_withRecord (MetBay.find_mem hf) (postRecord s e b h)) (field e.params 8 8)
  exact ⟨_, hb, (metShort_length ..).trans (b.withRecord_length ..), y, hy, Eq.trans (b := h.rec_.start) hstart (MetBay.find_start hf), hflags, hnt⟩

section Post
variable {s : State} {e : CmdEntry} {cid : Nat}

theorem metPostOwn_badMode (h : s.dev.mode = .boot) : metPostOwn e cid s = .rejAfter s stBadMode := if_pos h

variable (hm : s.dev.mode ≠ .boot)
include hm

theorem metPostOwn_badParam (h : metBay? s (field e.params 0 2) = none ∨ field e.params 4 4 < field e.params 24 4) : metPostOwn e cid s = .rejAfter s stBadParam := by
  simp only [metPostOwn, if_neg hm, CmdOut.rej_eq]
  split
  · rfl
  · next b hb => rw [if_pos (h.resolve_left (by simp [hb]))]

variable {b : MetBay} (hb : metBay? s (field e.params 0 2) = some b) (hr : field e.params 24 4 ≤ field e.params 4 4)
include hb hr

theorem metPostOwn_notHeld (h : b.find (field e.params 8 8) = none) : metPostOwn e cid s = .rejAfter s (if b.gone (field e.params 8 8) then stPast else stBadParam) := by
  simp only [metPostOwn, if_neg hm, hb, if_neg (Nat.not_lt.mpr hr), h, CmdOut.rej_eq]

/-- A post for a held interval puts its judged record into the bay, counts, evaluates the alarm, and answers flags and r. -/
theorem metPostOwn_held {h : MetHeld} (hf : b.find (field e.params 8 8) = some h) : metPostOwn e cid s =
    .ok (metAlarm (postStored s e b h) (field e.params 0 2)) Att.zero
      (leBytes 2 (postRecord s e b h).flags ++ leBytes 2 0 ++ leBytes 4 (ofSigned 32 (postRecord s e b h).r)) := by
  simp only [metPostOwn, if_neg hm, hb, if_neg (Nat.not_lt.mpr hr), hf]
  rfl

end Post

/-! ### MET_READ (R338) -/

theorem addrOk_iff {a : Nat} : addrOk a = true ↔ a ≠ 0 ∧ a % 64 = 0 := by simp [addrOk]

section Read
variable {s : State} {e : CmdEntry} {cid : Nat}

theorem metReadOwn_badMode (h : s.dev.mode = .boot) : metReadOwn e cid s = .rejAfter s stBadMode := if_pos h

variable (hm : s.dev.mode ≠ .boot)
include hm

theorem metReadOwn_badParam (h : metBay? s (field e.params 0 2) = none ∨ 2 < field e.params 2 1 ∨ addrOk (field e.params 16 8) = false) :
    metReadOwn e cid s = .rejAfter s stBadParam := by
  simp only [metReadOwn, if_neg hm, CmdOut.rej_eq]
  split
  · rfl
  · next b hb => rw [if_pos (by simpa [hb] using h)]

variable {b : MetBay} (hb : metBay? s (field e.params 0 2) = some b) (ha : addrOk (field e.params 16 8) = true)
include hb ha

theorem metReadOwn_open (hk : field e.params 2 1 = 0) : metReadOwn e cid s = .ok (hostWrite s (field e.params 16 8) (metOpenBytes s (field e.params 0 2) b)) := by
  simp [metReadOwn, hm, hb, ha, hk]

theorem metReadOwn_life (hk : field e.params 2 1 = 2) : metReadOwn e cid s = .ok (hostWrite s (field e.params 16 8) (metLifeBytes b)) := by
  simp [metReadOwn, hm, hb, ha, hk]

variable (hk : field e.params 2 1 = 1)
include hk

theorem metReadOwn_held {h : MetHeld} (hf : b.find (field e.params 8 8) = some h) : metReadOwn e cid s = .ok (hostWrite s (field e.params 16 8) h.rec_.bytes) := by
  simp [metReadOwn, hm, hb, ha, hk, hf]

theorem metReadOwn_past (hf : b.find (field e.params 8 8) = none) : metReadOwn e cid s = .rejAfter s stPast := by
  simp [metReadOwn, hm, hb, ha, hk, hf, CmdOut.rej_eq]

end Read

/-! ### MET_INTERVAL_CLOSE (R324, R329) -/

/-- A written interval is the newest of at most 96 held. -/
theorem metWrite_metBay {s : State} {n : Nat} {b : MetBay} (hb : metBay? s n = some b) (x : MetRec) (z : Nat) :
    ∃ v, metBay? (metWrite s n x z) n = some { b with held := (⟨x, s.dev.ticks, false⟩ :: b.held).take 96, lastClose := z / 10 ^ 9, bypass := v } := by
  simp only [metWrite, hb]
  exact ⟨_, (HostOnly.metBay (.raised ((showMet_host _).trans (raise_host ..))) n).trans (metBay_setMet s n _)⟩

theorem metIntervalClose_metered {s : State} {n : Nat} {b : MetBay} (hb : metBay? s n = some b) : exec (.metIntervalClose n) s =
    .next (b.done.foldl (fun st p => metWrite st n (metRecord st n b.recd p.1 p.2) p.2) (setMet s n { b with done := [] })) := by
  show execMetIntervalClose n s = _
  rw [execMetIntervalClose, metClose, hb]

theorem metIntervalClose_same {s : State} {n : Nat} (h : metBay? s n = none) : exec (.metIntervalClose n) s = .next s := by
  show execMetIntervalClose n s = _
  rw [execMetIntervalClose, metClose, h]

/-! ### POST_MISSING (R332) -/

/-- One missing post counted and raised. -/
def missedPost (n : Nat) (s : State) : State := raise 0x0F06 (bump s R.metMissingCnt) (bay := n)

theorem missedPost_host (n : Nat) (s : State) : HostOnly s (missedPost n s) := (bump_host ..).trans (raise_host ..)

theorem missedPost_count (n : Nat) (s : State) : regGet (missedPost n s) R.metMissingCnt = min (2 ^ 32 - 1) (regGet s R.metMissingCnt + 1) := by
  rw [missedPost, raise_regs _ _ _ _ _ _ _ _ (by decide), regGet_bump, capN_eq_min]

/-- The counter saturates over any number of missing posts. -/
theorem foldl_missedPost_count (n : Nat) (s : State) (k : Nat) :
    regGet ((List.range k).foldl (fun st _ => missedPost n st) s) R.metMissingCnt = min (2 ^ 32 - 1) (regGet s R.metMissingCnt + k) := by
  induction k with
  | zero =>
    have h := regGet_lt s R.metMissingCnt
    rw [List.range_zero, List.foldl_nil]
    omega
  | succ k ih =>
    rw [List.range_succ, List.foldl_append, List.foldl_cons, List.foldl_nil, missedPost_count, ih]
    omega

/-- A held interval for which POST_MISSING is due: neither raised nor posted, and closed for the wait. -/
def postDue (s : State) (h : MetHeld) : Bool := !h.missing && !h.rec_.has 9 && elapsed s h.closed (fld s R.metJudgeCfg 10 0 * 60 * secT)

theorem postMissing_metered {s : State} {n : Nat} {b : MetBay} (hb : metBay? s n = some b) : exec (.postMissing n) s =
    .next ((List.range (b.held.filter (postDue s)).length).foldl (fun st _ => missedPost n st)
      (setMet s n { b with held := b.held.map (fun h => if postDue s h then { h with missing := true } else h) })) := by
  show execPostMissing n s = _
  simp only [execPostMissing, hb]
  rfl

theorem postMissing_same {s : State} {n : Nat} (h : metBay? s n = none) : exec (.postMissing n) s = .next s := by
  show execPostMissing n s = _
  rw [execPostMissing, h]

/-- Settles O51: the commands by their owning rules, refusal by refusal, then the closing of an interval and the count of missing posts. -/
theorem intervalsClosePostAndRead : Obligations.IntervalsClosePostAndRead := by
  unfold Obligations.IntervalsClosePostAndRead
  refine fun s => ⟨?post, ?read, ?single, fun n b hb => metIntervalClose_metered hb, fun n h => ⟨metIntervalClose_same h, postMissing_same h⟩, ?missing⟩
  case post =>
    rintro e i n exp rcv start ht rfl rfl rfl rfl
    refine ⟨fun hm => ?_, fun hm hp => ?_, fun b hm hb hr hf => ?_, fun b h hm hb hr hf => ?_⟩
    · exact congrArg next (submit_rej ht (by decide) (metPostOwn_badMode (by simpa using hm)))
    · exact congrArg next (submit_rej ht (by decide) (metPostOwn_badParam (by simpa using hm) (by simpa using hp)))
    · exact congrArg next (submit_rej ht (by split <;> decide) (metPostOwn_notHeld (by simpa using hm) (by simpa using hb) hr hf))
    · refine ⟨_, postRecord (accepted s 0x80 e i) e b h, congrArg next (submit_ok ht (metPostOwn_held (by simpa using hm) (by simpa using hb) hr hf)), ?_,
        MetBay.find_start hf, rfl, rfl, rfl, rfl, rfl, rfl, metAlarm_postStored hf⟩
      rw [postRecord, metJudge_has _ _ _ (by decide), MetRec.withPost_posted]
  case read =>
    rintro e i n kind host ht rfl rfl rfl
    refine ⟨fun hm => ?_, fun hm hp => ?_, fun b hm hb h0 h64 => ?_⟩
    · exact congrArg next (submit_rej ht (by decide) (metReadOwn_badMode (by simpa using hm)))
    · refine congrArg next (submit_rej ht (by decide) (metReadOwn_badParam (by simpa using hm) ?_))
      rw [accepted_metBay, ← Bool.not_eq_true, addrOk_iff, not_and_or, not_not]
      exact hp
    · have hm' : (accepted s 0x81 e i).dev.mode ≠ .boot := by simpa using hm
      have hb' : metBay? (accepted s 0x81 e i) (field e.params 0 2) = some b := by simpa using hb
      have ha := addrOk_iff.mpr ⟨h0, h64⟩
      refine ⟨fun hk => ?_, fun hk => ?_, fun h hk hf => ?_, fun hk hf => ?_⟩
      · rw [← accepted_metOpenBytes s 0x81 e i]
        exact congrArg next (submit_ok ht (metReadOwn_open hm' hb' ha hk))
      · exact congrArg next (submit_ok ht (metReadOwn_life hm' hb' ha hk))
      · exact congrArg next (submit_ok ht (metReadOwn_held hm' hb' ha hk hf))
      · exact congrArg next (submit_rej ht (by decide) (metReadOwn_past hm' hb' ha hk hf))
  case single =>
    intro n b o z hb hd
    obtain ⟨v, hw⟩ := metWrite_metBay (metBay_setMet s n { b with done := [] }) (metRecord (setMet s n { b with done := [] }) n b.recd o z) z
    have hc := metIntervalClose_metered hb
    rw [hd] at hc
    exact ⟨_, _, hc, hw, rfl, rfl, rfl, rfl, rfl⟩
  case missing =>
    rintro n b due hb rfl
    refine ⟨_, postMissing_metered hb, ?_, foldl_missedPost_count ..⟩
    exact ((HostOnly.foldl (fun st _ => missedPost_host n st) _ _).metBay n).trans (metBay_setMet ..)

end Sys2Proof.Machine

namespace Sys2Proof.Machine

/-! ### Cupola's bays and records after its operations (R346, R355, R364) -/

theorem cupBay_setCup (s : State) (n : Nat) (b : CupBay) : cupBay? (setCup s n b) n = some b := by simp [cupBay?, setCup, tget_tset]

theorem modCup_recorded {s : State} {n : Nat} {b : CupBay} (h : cupBay? s n = some b) (f : CupBay → CupBay) : modCup s n f = setCup s n (f b) := by
  simp only [modCup, h]

theorem modCup_unrecorded {s : State} {n : Nat} (h : cupBay? s n = none) (f : CupBay → CupBay) : modCup s n f = s := by
  simp only [modCup, h]

theorem cupBay_congr {s t : State} (h : t.cup.bays = s.cup.bays) (n : Nat) : cupBay? t n = cupBay? s n := by rw [cupBay?, cupBay?, h]

theorem cupStat_cup (s : State) : (cupStat s).cup = s.cup := (cupStat_host s).cup
theorem cupBayStat_cup (s : State) (n : Nat) : (cupBayStat s n).cup = s.cup := (cupBayStat_host s n).cup

/-- `t` is `s` but for the registers. -/
def RegsOnly (s t : State) : Prop := t = { s with regs := t.regs }

theorem RegsOnly.trans {s t u : State} (h : RegsOnly s t) (k : RegsOnly t u) : RegsOnly s u := by
  rw [RegsOnly, k, h]

theorem RegsOnly.hostMem {s t : State} (h : RegsOnly s t) : t.hostMem = s.hostMem := by rw [h]

/-- Registers brought up to date after a change of Cupola. -/
theorem RegsOnly.cup_rest {s t u : State} (k : RegsOnly t u) (h : t = { s with cup := t.cup }) : u = { s with cup := u.cup, regs := u.regs } := by
  rw [k, h]

theorem regSet_regsOnly (s : State) (a v : Nat) : RegsOnly s (regSet s a v) := rfl
theorem fldSet_regsOnly (s : State) (a hi lo v : Nat) : RegsOnly s (fldSet s a hi lo v) := rfl
theorem flagSet_regsOnly (s : State) (a i : Nat) (v : Bool) : RegsOnly s (flagSet s a i v) := rfl

theorem cupStat_regsOnly (s : State) : RegsOnly s (cupStat s) :=
  ((((regSet_regsOnly ..).trans (regSet_regsOnly ..)).trans (fldSet_regsOnly ..)).trans (regSet_regsOnly ..)).trans (flagSet_regsOnly ..)

theorem cupBayStat_regsOnly (s : State) (n : Nat) : RegsOnly s (cupBayStat s n) := by
  unfold cupBayStat
  split
  · rfl
  · exact regSet_regsOnly ..

theorem freeRec_cup (s : State) (num : Nat) : (freeRec s num).cup =
    { s.cup with recs := s.cup.recs.filter (fun r => r.num ≠ num), flash := s.cup.flash.filter (fun f => f.1 ≠ num) ++ [(num, true, s.dev.ticks)] } :=
  (cupStat_cup _).trans (flagSet_cup ..)

theorem freeRec_hostMem (s : State) (num : Nat) : (freeRec s num).hostMem = s.hostMem :=
  (cupStat_regsOnly _).hostMem.trans (flagSet_hostMem ..)

/-- Freeing records one after another leaves those of other numbers. -/
theorem mem_foldl_freeRec {r : CupRec} {l : List CupRec} {s : State} (h : r ∈ (l.foldl (fun st x => freeRec st x.num) s).cup.recs) :
    r ∈ s.cup.recs ∧ ∀ x ∈ l, r.num ≠ x.num := by
  induction l generalizing s with
  | nil => exact ⟨h, fun _ hx => absurd hx List.not_mem_nil⟩
  | cons x l ih =>
    rw [List.foldl_cons] at h
    obtain ⟨hr, hl⟩ := ih h
    rw [freeRec_cup, List.mem_filter, decide_eq_true_iff] at hr
    exact ⟨hr.1, List.forall_mem_cons.mpr ⟨hr.2, hl⟩⟩

section Accepted
variable (s : State) (op : Nat) (e : CmdEntry) (i : Nat)

@[simp] theorem accepted_cupBay (n : Nat) : cupBay? (accepted s op e i) n = cupBay? s n := by rw [accepted_eq]; rfl
@[simp] theorem accepted_rec (num : Nat) : rec? (accepted s op e i) num = rec? s num := by rw [accepted_eq]; rfl
@[simp] theorem accepted_attNow : attNow (accepted s op e i) = attNow s := by rw [attNow, accepted_attAt, accepted_now, attNow]

@[simp] theorem accepted_ringKind (k : Nat) : (tget? (accepted s op e i).hif.rings k).map HostRing.kind = (tget? s.hif.rings k).map HostRing.kind := by
  simp only [accepted, reserve, modRing]
  split
  · next r hr =>
    simp only [tget_tset]
    split
    · next hk => rw [hk, hr]; rfl
    · rfl
  · rfl

end Accepted

/-! ### REC_FORCE (R373) -/

section Force
variable {s : State} {e : CmdEntry} {cid : Nat}

theorem recForceOwn_badMode (h : s.dev.mode = .boot) : recForceOwn e cid s = .rejAfter s stBadMode := if_pos h

variable (hm : s.dev.mode ≠ .boot)
include hm

theorem recForceOwn_badParam (h : nBays s ≤ field e.params 0 2 ∨ cupBay? s (field e.params 0 2) = none ∨ bay? s (field e.params 0 2) = none ∨
    ∃ b, bay? s (field e.params 0 2) = some b ∧ b.runs = false) : recForceOwn e cid s = .rejAfter s stBadParam := by
  simp only [recForceOwn, if_neg hm, CmdOut.rej_eq]
  split
  · next b cb hb hc =>
    refine if_neg fun hr => ?_
    rcases h with h | h | h | ⟨b', h, hb'⟩
    · exact absurd hr.2 (Nat.not_lt.mpr h)
    · rw [hc] at h; cases h
    · rw [hb] at h; cases h
    · rw [hb] at h; cases h; rw [hb'] at hr; cases hr.1
  · rfl

theorem recForceOwn_waits {b : Bay} {cb : CupBay} (hn : field e.params 0 2 < nBays s) (hb : bay? s (field e.params 0 2) = some b) (hr : b.runs = true)
    (hc : cupBay? s (field e.params 0 2) = some cb) :
    recForceOwn e cid s = .later (setCup s (field e.params 0 2) { cb with forced := cb.forced ++ [(now s + 10 * usI, cid)] }) := by
  simp only [recForceOwn, if_neg hm, hb, hc, modCup_recorded hc]
  exact if_pos ⟨hr, hn⟩

end Force

/-! ### REC_FETCH (R374) -/

/-- A kind, address, offset, length, ring or set mask that REC_FETCH does not take. -/
def fetchBad (s : State) (e : CmdEntry) : Prop :=
  3 < field e.params 4 1 ∨ field e.params 8 8 = 0 ∨ field e.params 8 8 % 64 ≠ 0 ∨ field e.params 16 8 % 64 ≠ 0 ∨ field e.params 24 4 % 64 ≠ 0 ∨ field e.params 24 4 < 64 ∨
    (field e.params 6 1 ≠ 0xFF ∧ (tget? s.hif.rings (field e.params 6 1)).map HostRing.kind ≠ some .record) ∨
    (field e.params 4 1 = 1 ∧ (field e.params 5 1 = 0 ∨ 7 < field e.params 5 1))

/-- The state with the fetch that a command asks for queued. -/
def fetchQueued (s : State) (e : CmdEntry) (cid : Nat) : State :=
  { s with cup := { s.cup with fetches := s.cup.fetches ++ [⟨field e.params 0 4, field e.params 4 1, field e.params 5 1, field e.params 6 1, field e.params 8 8, field e.params 16 8,
      field e.params 24 4, cid⟩] } }

section Fetch
variable {s : State} {e : CmdEntry} {cid : Nat}

theorem recFetchOwn_badMode (h : s.dev.mode = .boot) : recFetchOwn e cid s = .rejAfter s stBadMode := if_pos h

variable (hm : s.dev.mode ≠ .boot)
include hm

omit hm in
/-- The checks of the rule, as `fetchBad` names them. -/
theorem fetchBad_iff : (3 < field e.params 4 1 ∨ (!addrOk (field e.params 8 8)) = true ∨ field e.params 16 8 % 64 ≠ 0 ∨ field e.params 24 4 % 64 ≠ 0 ∨ field e.params 24 4 < 64 ∨
    (!(decide (field e.params 6 1 = 0xFF) || decide ((tget? s.hif.rings (field e.params 6 1)).map HostRing.kind = some .record))) = true ∨
    (field e.params 4 1 = 1 ∧ (field e.params 5 1 = 0 ∨ 7 < field e.params 5 1))) ↔ fetchBad s e := by
  rw [fetchBad, Bool.not_eq_true', ← Bool.not_eq_true (addrOk _), addrOk_iff, not_and_or, not_not]
  simp only [or_assoc, Bool.not_eq_true', Bool.or_eq_false_iff, decide_eq_false_iff_not, ne_eq]

theorem recFetchOwn_badParam (h : fetchBad s e) : recFetchOwn e cid s = .rejAfter s stBadParam := by
  simp only [recFetchOwn, if_neg hm]
  exact if_pos (fetchBad_iff.mpr h)

variable (h : ¬fetchBad s e)
include h

/-- With the parameters in order, the fetch goes by the record that it names. -/
theorem recFetchOwn_named : recFetchOwn e cid s =
    if field e.params 0 4 = 0xFFFFFFFF ∧ field e.params 4 1 = 3 then .later (fetchQueued s e cid)
    else match rec? s (field e.params 0 4) with
      | none => .rejAfter s stBadParam
      | some r => if r.st = .lost ∧ field e.params 4 1 ≤ 1 then .rejAfter s stBadParam
        else if r.st.live ∧ field e.params 4 1 ≤ 2 then .rejAfter s stBusy else .later (fetchQueued s e cid) := by
  simp only [recFetchOwn, if_neg hm, CmdOut.rej_eq, Bool.and_eq_true, decide_eq_true_eq]
  exact if_neg (fetchBad_iff.not.mpr h)

theorem recFetchOwn_all (ha : field e.params 0 4 = 0xFFFFFFFF ∧ field e.params 4 1 = 3) : recFetchOwn e cid s = .later (fetchQueued s e cid) := by
  rw [recFetchOwn_named hm h, if_pos ha]

theorem recFetchOwn_queued {r : CupRec} (hr : rec? s (field e.params 0 4) = some r) (hl : field e.params 4 1 ≤ 1 → r.st ≠ .lost)
    (hv : field e.params 4 1 ≤ 2 → r.st.live = false) : recFetchOwn e cid s = .later (fetchQueued s e cid) := by
  rw [recFetchOwn_named hm h]
  refine ite_eq_left_iff.mpr fun _ => ?_
  simp only [hr]
  rw [if_neg (fun hx => hl hx.2 hx.1), if_neg (fun hx => by simp [hv hx.2] at hx)]

theorem recFetchOwn_unknown (hr : rec? s (field e.params 0 4) = none) (ha : ¬(field e.params 0 4 = 0xFFFFFFFF ∧ field e.params 4 1 = 3)) :
    recFetchOwn e cid s = .rejAfter s stBadParam := by
  rw [recFetchOwn_named hm h, if_neg ha, hr]

variable {r : CupRec} (hr : rec? s (field e.params 0 4) = some r)
include hr

theorem recFetchOwn_lost (hl : r.st = .lost) (hk : field e.params 4 1 ≤ 1) : recFetchOwn e cid s = .rejAfter s stBadParam := by
  rw [recFetchOwn_named hm h, if_neg (fun ha => by omega), hr]
  exact if_pos ⟨hl, hk⟩

theorem recFetchOwn_live (hl : r.st.live = true) (hk : field e.params 4 1 ≤ 2) : recFetchOwn e cid s = .rejAfter s stBusy := by
  rw [recFetchOwn_named hm h, if_neg (fun ha => by omega), hr]
  refine (if_neg fun hx => ?_).trans (if_pos ⟨hl, hk⟩)
  rw [hx.1] at hl
  cases hl

end Fetch

/-! ### REC_FETCH_DONE (R374, R506) -/

/-- The items of a fetch that the part of the output that it asks for touches. -/
def fetchTouched (s : State) (f : RecFetch) : List (Nat × Nat × Nat × Nat × Nat × Nat) :=
  (fetchItems s f).filter (fun x => decide (x.1 < f.ofs + f.max) && decide (f.ofs < x.1 + x.2.2.2.2.2))

/-- Whether the ring that a fetch announces on has room for its items; a fetch that names no ring needs none. -/
def fetchRoom (s : State) (f : RecFetch) : Prop := ∀ r, tget? s.hif.rings f.ring = some r → r.used + r.reserved + (fetchTouched s f).length ≤ r.size

theorem recFetchDone_same {s : State} (h : s.cup.fetches = [] ∨ isDying s = true) : exec .recFetchDone s = .next s := by
  show execRecFetchDone s = _
  unfold execRecFetchDone recFetchDone
  rcases h with h | h <;> simp only [h, if_true, ite_self]

section FetchDone
variable {s : State} {f : RecFetch} {fs : List RecFetch} (hf : s.cup.fetches = f :: fs) (hd : isDying s = false)
include hf hd

theorem recFetchDone_waits {r : HostRing} (hr : tget? s.hif.rings f.ring = some r) (h : r.size < r.used + r.reserved + (fetchTouched s f).length) :
    exec .recFetchDone s = .next s := by
  have hc : decide (r.used + r.reserved + (fetchTouched s f).length ≤ r.size) = false := decide_eq_false (Nat.not_le.mpr h)
  show next (if isDying s = true then s else recFetchDone s) = _
  unfold fetchTouched at hc
  simp only [hd, recFetchDone, hf, hr, hc]
  rfl

/-- A fetch that finds room writes its part, announces its items on the ring that it names, and completes. -/
theorem recFetchDone_writes (h : fetchRoom s f) (part : List Byte) (hp : part = ((fetchOut s f.num f.kind f.sets).drop f.ofs).take f.max) (tag : Nat)
    (ht : tag = ((s.hif.inflight.find? (fun x => decide (x.cid = f.cid))).map InFlight.tag).getD 0) (u : State)
    (hu : u = hostWrite { s with cup := { s.cup with fetches := fs } } f.host part) :
    exec .recFetchDone s = .next (complete (if f.ring = 0xFF then u
      else (enumFrom0 (fetchTouched s f)).foldl (fun st (i, x) => ringPut st f.ring (recEntry f tag (decide (i + 1 = (fetchTouched s f).length)) x)) u)
      f.cid stOk Att.zero (leBytes 8 (fetchOut s f.num f.kind f.sets).length ++ leBytes 8 part.length)) := by
  show next (if isDying s = true then s else recFetchDone s) = _
  subst hu ht hp
  unfold recFetchDone
  simp only [hd, hf]
  refine congrArg next ((if_neg Bool.false_ne_true).trans (if_neg ?_))
  cases hr : tget? s.hif.rings f.ring with
  | none => simp
  | some r => simpa [fetchTouched] using h r hr

end FetchDone

/-! ### REC_RELEASE (R375) -/

section Release
variable {s : State} {e : CmdEntry} {cid : Nat}

theorem recReleaseOwn_badMode (h : s.dev.mode = .boot) : recReleaseOwn e cid s = .rejAfter s stBadMode := if_pos h

variable (hm : s.dev.mode ≠ .boot)
include hm

section One
variable (hn : field e.params 0 4 ≠ 0xFFFFFFFF)
include hn

theorem recReleaseOwn_unknown (hr : rec? s (field e.params 0 4) = none) : recReleaseOwn e cid s = .rejAfter s stBadParam := by
  simp only [recReleaseOwn, if_neg hm, if_neg hn, hr, CmdOut.rej_eq]

variable {r : CupRec} (hr : rec? s (field e.params 0 4) = some r)
include hr

theorem recReleaseOwn_busy (h : r.st.live = true ∨ ∃ f ∈ s.cup.fetches, f.num = r.num) : recReleaseOwn e cid s = .rejAfter s stBusy := by
  simp only [recReleaseOwn, if_neg hm, if_neg hn, hr, CmdOut.rej_eq]
  exact if_pos (by simpa using h)

theorem recReleaseOwn_freed (hl : r.st.live = false) (h : ∀ f ∈ s.cup.fetches, f.num ≠ r.num) : recReleaseOwn e cid s = .ok (freeRec s (field e.params 0 4)) := by
  simp only [recReleaseOwn, if_neg hm, if_neg hn, hr]
  exact if_neg (by simpa [hl] using h)

end One

section All
variable (hn : field e.params 0 4 = 0xFFFFFFFF)
include hn

theorem recReleaseOwn_allBusy (h : ∃ r ∈ s.cup.recs, r.st.live = false ∧ ∃ f ∈ s.cup.fetches, f.num = r.num) : recReleaseOwn e cid s = .rejAfter s stBusy := by
  obtain ⟨r, hr, hl, f, hf, hfr⟩ := h
  simp only [recReleaseOwn, if_neg hm, if_pos hn, CmdOut.rej_eq]
  refine if_pos (List.any_eq_true.mpr ⟨r, List.mem_filter.mpr ⟨hr, by simp [hl]⟩, ?_⟩)
  rw [Bool.or_eq_true]
  exact .inr (List.any_eq_true.mpr ⟨f, hf, decide_eq_true hfr⟩)

theorem recReleaseOwn_allFreed (h : ∀ r ∈ s.cup.recs, r.st.live = false → ∀ f ∈ s.cup.fetches, f.num ≠ r.num) :
    recReleaseOwn e cid s = .ok ((s.cup.recs.filter (fun r => !r.st.live)).foldl (fun st r => freeRec st r.num) s) := by
  simp only [recReleaseOwn, if_neg hm, if_pos hn]
  refine if_neg fun hb => ?_
  obtain ⟨r, hr, hb⟩ := List.any_eq_true.mp hb
  obtain ⟨hr, hl⟩ := List.mem_filter.mp hr
  rw [Bool.not_eq_true'] at hl
  rw [hl, Bool.false_or] at hb
  obtain ⟨f, hf, hfr⟩ := List.any_eq_true.mp hb
  exact h r hr hl f hf (of_decide_eq_true hfr)

end All

end Release

/-- Once every record that is not live is freed, those that stand are live. -/
theorem allFreed_live {s : State} {r : CupRec} (h : r ∈ ((s.cup.recs.filter (fun r => !r.st.live)).foldl (fun st r => freeRec st r.num) s).cup.recs) : r.st.live = true := by
  obtain ⟨hr, hl⟩ := mem_foldl_freeRec h
  by_contra hv
  exact hl r (List.mem_filter.mpr ⟨hr, by simpa using hv⟩) rfl

/-! ### HIST_SNAPSHOT (R379) -/

section Hist
variable {s : State} {e : CmdEntry} {cid : Nat}

theorem histOwn_badMode (h : s.dev.mode = .boot) : histOwn e cid s = .rejAfter s stBadMode := if_pos h

variable (hm : s.dev.mode ≠ .boot)
include hm

theorem histOwn_badParam (h : cupBay? s (field e.params 0 2) = none ∨ field e.params 2 1 = 0 ∨ 7 < field e.params 2 1 ∨ 1 < field e.params 3 1 ∨ addrOk (field e.params 8 8) = false) :
    histOwn e cid s = .rejAfter s stBadParam := by
  simp only [histOwn, if_neg hm, CmdOut.rej_eq]
  split
  · rfl
  · next cb hc => exact if_pos (by simpa [hc] using h)

/-- The parts of a bay's statistics that a snapshot clears: with its flag, those of its mask that the bay keeps. -/
def histClears (e : CmdEntry) (cb : CupBay) (k : Nat) : Bool := decide (field e.params 3 1 = 1) && bitOf (field e.params 2 1) k && bitOf (field cb.recd 3 1) (2 + k)

theorem histOwn_copied {cb : CupBay} (hc : cupBay? s (field e.params 0 2) = some cb) (h1 : 1 ≤ field e.params 2 1) (h7 : field e.params 2 1 ≤ 7) (hf : field e.params 3 1 ≤ 1)
    (ha : addrOk (field e.params 8 8) = true) : histOwn e cid s =
      .ok (setCup (hostWrite s (field e.params 8 8) (histOut (field e.params 0 2) (field e.params 2 1) cb)) (field e.params 0 2)
        { cb with ev := if histClears e cb 0 then [] else cb.ev, harm := if histClears e cb 1 then [] else cb.harm, pm := if histClears e cb 2 then [] else cb.pm,
                  clrAtt := if field e.params 3 1 = 1 then attNow s else cb.clrAtt }) := by
  simp only [histOwn, if_neg hm, hc]
  refine (if_neg ?_).trans rfl
  rw [ha]
  simp only [Bool.not_true, Bool.false_eq_true, or_false]
  omega

end Hist

/-- Settles O49: each command by its owning rule, refusal by refusal, and the oldest fetch by the room on its ring. -/
theorem recordCommandsComplete : Obligations.RecordCommandsComplete := by
  unfold Obligations.RecordCommandsComplete
  refine fun s => ⟨fun e i hm => ⟨fun h => ?_, fun h => ?_, fun h => ?_, fun h => ?_⟩, ?force, ?fetch, ?done, fun h => recFetchDone_same h, ?release, ?hist⟩
  · exact congrArg next (submit_rej h (by decide) (recForceOwn_badMode (by simpa using hm)))
  · exact congrArg next (submit_rej h (by decide) (recFetchOwn_badMode (by simpa using hm)))
  · exact congrArg next (submit_rej h (by decide) (recReleaseOwn_badMode (by simpa using hm)))
  · exact congrArg next (submit_rej h (by decide) (histOwn_badMode (by simpa using hm)))
  case force =>
    rintro e i n ht hm rfl
    refine ⟨fun h => ?_, fun b cb hn hb hr hc => ?_⟩
    · exact congrArg next (submit_rej ht (by decide) (recForceOwn_badParam (by simpa using hm) (by simpa using h)))
    · rw [← accepted_now s 0x60 e i]
      exact congrArg next (submit_later ht (recForceOwn_waits (by simpa using hm) (by simpa using hn) (by simpa using hb) hr (by simpa using hc)))
  case fetch =>
    rintro e i num kind sets ring host ofs max ht hm rfl rfl rfl rfl rfl rfl rfl
    have hm' : (accepted s 0x61 e i).dev.mode ≠ .boot := by simpa using hm
    refine ⟨fun h => ?_, fun hk h0 h64 ho hx h63 hr hs => ?_⟩
    · exact congrArg next (submit_rej ht (by decide) (recFetchOwn_badParam hm' (by simpa [fetchBad] using h)))
    · have hg : ¬fetchBad (accepted s 0x61 e i) e := by
        rw [fetchBad, accepted_ringKind]
        rintro (h | h | h | h | h | h | ⟨h, h'⟩ | ⟨h, h'⟩)
        · omega
        · exact h0 h
        · exact h h64
        · exact h ho
        · exact h hx
        · omega
        · exact hr.elim h h'
        · have := hs h
          omega
      refine ⟨?_, fun r hrec hl hk2 => ?_, fun r hrec hl hk1 => ?_, fun hrec ha => ?_⟩
      · rintro (ha | ⟨r, hrec, hl, hv⟩)
        · exact congrArg next (submit_later ht ((recFetchOwn_all hm' hg ha).trans (by rw [fetchQueued, accepted_cup])))
        · exact congrArg next (submit_later ht ((recFetchOwn_queued hm' hg (by simpa using hrec) hl hv).trans (by rw [fetchQueued, accepted_cup])))
      · exact congrArg next (submit_rej ht (by decide) (recFetchOwn_live hm' hg (by simpa using hrec) hl hk2))
      · exact congrArg next (submit_rej ht (by decide) (recFetchOwn_lost hm' hg (by simpa using hrec) hl hk1))
      · exact congrArg next (submit_rej ht (by decide) (recFetchOwn_unknown hm' hg (by simpa using hrec) ha))
  case done =>
    rintro f fs out part items tag hf hd rfl hp rfl ht
    refine ⟨fun r hr h => recFetchDone_waits hf hd hr h, fun h u hu => ⟨fun hr => ?_, fun hr => ?_⟩⟩ <;> refine (recFetchDone_writes hf hd h part hp tag ht u hu).trans ?_
    · exact congrArg (fun v => next (complete v _ _ _ _)) (if_pos hr)
    · exact congrArg (fun v => next (complete v _ _ _ _)) (if_neg hr)
  case release =>
    rintro e i num ht hm rfl
    have hm' : (accepted s 0x62 e i).dev.mode ≠ .boot := by simpa using hm
    refine ⟨fun hn hr => ?_, fun r hn hr h => ?_, fun r hn hr hl h => ?_, fun hn h => ?_, fun hn h => ?_⟩
    · exact congrArg next (submit_rej ht (by decide) (recReleaseOwn_unknown hm' hn (by simpa using hr)))
    · exact congrArg next (submit_rej ht (by decide) (recReleaseOwn_busy hm' hn (by simpa using hr) (by simpa using h)))
    · refine ⟨_, congrArg next (submit_ok ht (recReleaseOwn_freed hm' hn (by simpa using hr) hl (by simpa using h))), ?_, ?_⟩
      · rw [freeRec_cup, accepted_cup]
      · rw [freeRec_hostMem, accepted_hostMem]
    · exact congrArg next (submit_rej ht (by decide) (recReleaseOwn_allBusy hm' hn (by simpa using h)))
    · exact ⟨_, congrArg next (submit_ok ht (recReleaseOwn_allFreed hm' hn (by simpa using h))), fun r hr => allFreed_live hr⟩
  case hist =>
    rintro e i n mask flags host ht hm rfl rfl rfl rfl
    have hm' : (accepted s 0x63 e i).dev.mode ≠ .boot := by simpa using hm
    refine ⟨fun h => ?_, fun cb clr hc h1 h7 hf h0 h64 hclr => ?_⟩
    · refine congrArg next (submit_rej ht (by decide) (histOwn_badParam hm' ?_))
      rw [accepted_cupBay, ← Bool.not_eq_true, addrOk_iff, not_and_or, not_not]
      exact h
    · subst hclr
      rw [← accepted_attNow s 0x63 e i]
      exact congrArg next (submit_ok ht (histOwn_copied hm' (by simpa using hc) h1 h7 hf (addrOk_iff.mpr ⟨h0, h64⟩)))

end Sys2Proof.Machine

namespace Sys2Proof.Machine

/-! ### What frames sent leave alone (R391 to R401) -/

/-- Frames sent move ports, the counters of redundancy, the log of what was sent and the host side: Cupola, the publications and the beacon of `o` stay. -/
structure FramesSent (o t : State) : Prop where
  cup : t.cup = o.cup
  pubs : t.bel.pubs = o.bel.pubs
  bcn : t.bel.bcn = o.bel.bcn
  bcnAt : t.bel.bcnAt = o.bel.bcnAt

theorem FramesSent.refl (s : State) : FramesSent s s := ⟨rfl, rfl, rfl, rfl⟩

section Frames
variable {o s : State} (h : FramesSent o s)
include h

theorem FramesSent.host {t : State} (k : HostOnly s t) : FramesSent o t :=
  ⟨k.cup.trans h.cup, k.bel ▸ h.pubs, k.bel ▸ h.bcn, k.bel ▸ h.bcnAt⟩

theorem FramesSent.bump {a : Nat} : FramesSent o (bump s a) := h.host (bump_host ..)

theorem FramesSent.drainPort {n : Nat} : FramesSent o (drainPort s n) := by
  unfold Machine.drainPort
  refine iteInduction (fun _ => ?_) (fun _ => h)
  split
  · next f p' _ =>
    extract_lets s1
    have h1 : FramesSent o { s1 with bel := { s1.bel with sent := (n, f.bytes) :: s1.bel.sent } } := ⟨h.cup, h.pubs, h.bcn, h.bcnAt⟩
    exact h1.bump
  · exact h

theorem FramesSent.modPort {n : Nat} {f : Port → Port} : FramesSent o (modPort s n f) := ⟨h.cup, h.pubs, h.bcn, h.bcnAt⟩

theorem FramesSent.bellDrop {n : Nat} : FramesSent o (bellDrop s n) :=
  have h1 := h.bump.host (flagSet_host ..)
  iteInduction (fun _ => h1) (fun _ => h1.modPort.host (raise_host ..))

theorem FramesSent.bellPut {n : Nat} {f : NetFrame} : FramesSent o (bellPut s n f) :=
  iteInduction (fun _ => h.modPort) (fun _ => iteInduction (fun _ => h.modPort.bellDrop) (fun _ => h.bellDrop))

theorem FramesSent.egress {n q : Nat} {bell : Bool} {f : NetFrame} : FramesSent o (egress s n bell q f) :=
  iteInduction (fun _ => FramesSent.drainPort (iteInduction (fun _ => h.bellPut) (fun _ => h.modPort))) (fun _ => h)

theorem FramesSent.sendOwn {f : OwnFrame} : FramesSent o (sendOwn s f) :=
  List.foldlRecOn _ _ ⟨h.cup, h.pubs, h.bcn, h.bcnAt⟩ fun _ k _ _ => k.egress

theorem FramesSent.sendBelfry {cfg ports ty : Nat} {bell rep usePair : Bool} {body : List Byte} : FramesSent o (sendBelfry s cfg ports ty bell rep usePair body) :=
  iteInduction (fun _ => h) (fun _ => h.sendOwn)

theorem FramesSent.sendXtrig {bay xgroup num : Nat} {test : Bool} {t0 : Att} : FramesSent o (sendXtrig s bay xgroup num test t0) :=
  iteInduction (fun _ => h) (fun _ => h.sendBelfry.bump)

theorem FramesSent.sendGoose {r : List Byte} {p : GoPub} {tal : Nat} {bell : Bool} : FramesSent o (sendGoose s r p tal bell) :=
  h.sendOwn.bump

end Frames

/-! ### A record changed by number (R355) -/

theorem mem_modRec {s : State} {num : Nat} {f : CupRec → CupRec} {x : CupRec} (h : x ∈ (modRec s num f).cup.recs) (hx : x.num = num) :
    ∃ r ∈ s.cup.recs, r.num = num ∧ x = f r := by
  obtain ⟨r, hr, rfl⟩ := List.mem_map.mp h
  by_cases hn : r.num = num
  · exact ⟨r, hr, hn, if_pos hn⟩
  · rw [if_neg hn] at hx
    exact absurd hx hn

theorem modRec_length (s : State) (num : Nat) (f : CupRec → CupRec) : (modRec s num f).cup.recs.length = s.cup.recs.length := List.length_map _

/-- A change of a record that is not there changes nothing. -/
theorem modRec_absent {s : State} {num : Nat} (h : rec? s num = none) (f : CupRec → CupRec) : modRec s num f = s := by
  have hr : s.cup.recs.map (fun r => if r.num = num then f r else r) = s.cup.recs := by
    refine (List.map_congr_left fun r hr => ?_).trans s.cup.recs.map_id
    exact if_neg (by simpa using List.find?_eq_none.mp h r hr)
  rw [modRec, hr]

/-- Announcing a record moves, of Cupola, the commands that waited for its T0 alone. -/
theorem announceRec_cup (s : State) (num : Nat) : (announceRec s num).cup = (modRec s num (fun x => { x with cids := [] })).cup := by
  unfold announceRec
  split
  · next hr => rw [modRec_absent hr]
  · extract_lets s1 s2
    have h1 : FramesSent s s1 := (FramesSent.refl s).host (raise_host ..)
    have h2 : FramesSent s s2 := by
      unfold s2
      split
      · exact iteInduction (fun _ => h1.sendXtrig) (fun _ => h1)
      · exact h1
    refine (foldl_keeps State.cup (fun _ _ => complete_cup ..) _ _).trans ?_
    rw [modRec, modRec, h2.cup]

/-- A record that becomes COMPLETE changes, of Cupola, its state alone. -/
theorem completeRec_cup (s : State) (num : Nat) : (completeRec s num).cup = (modRec s num (fun x => { x with st := .complete })).cup := by
  unfold completeRec
  split
  · exact (cupBayStat_cup ..).trans ((cupStat_cup _).trans (raise_cup ..))
  · next hr => rw [modRec_absent hr]

/-! ### CUP_REARM and RECORD_LINE (R341, R352, R382) -/

theorem recordedBay_rearmed {s : State} {n : Nat} {cb : CupBay} (hc : cupBay? s n = some cb) :
    exec (.cupRearm n) s = .next (cupBayStat (setCup s n { cb with armed := true }) n) := by
  show execCupRearm n s = _
  rw [execCupRearm, modCup_recorded hc]

theorem unrecordedBay_rearmed {s : State} {n : Nat} (hc : cupBay? s n = none) : exec (.cupRearm n) s = .next s := by
  show execCupRearm n s = _
  rw [execCupRearm, modCup_unrecorded hc, cupBayStat, hc]

theorem recordLine_oldest {s : State} {n : Nat} {cb : CupBay} {l : Line} {ls : List Line} (hc : cupBay? s n = some cb) (hl : cb.lines = l :: ls) :
    exec (.recordLine n) s = .next (if flag s R.cupCtl 0 then takeLine (setCup s n { cb with lines := ls }) n l
      else if l.stop then cupStopped (setCup s n { cb with lines := ls }) n else setCup s n { cb with lines := ls }) := by
  show execRecordLine n s = _
  simp only [execRecordLine, recordLine, hc, hl]

theorem recordLine_same {s : State} {n : Nat} (h : (cupBay? s n).map CupBay.lines = some [] ∨ cupBay? s n = none) : exec (.recordLine n) s = .next s := by
  show next (recordLine s n) = _
  unfold recordLine
  split
  · rfl
  · next cb hc =>
    have hl : cb.lines = [] := by simpa [hc] using h
    rw [hl]

/-! ### RECORD_T0_REFINED (R350) -/

theorem fixT0_final {s : State} {n : Nat} {cb : CupBay} {b : Bay} (hc : cupBay? s n = some cb) (hb : bay? s n = some b) (r : CupRec) (t0 : Nat) (coarse : Bool) :
    (fixT0 s n r t0 coarse).final = true := by
  simp only [fixT0, hc, hb]
  rfl

/-- The record of a bay whose T0 waits for its refinement: T0 final, and the crossings of its other LEVEL_INST entries. -/
def refinedRec (s : State) (n : Nat) (r : CupRec) (recd : List Byte) : CupRec :=
  let r1 := fixT0 s n r ((refineT0 s n r.t0i r.det).getD r.t0) (refineT0 s n r.t0i r.det).isNone
  { r1 with trigs := r1.trigs.map (fun x => if x.role = 0 then { x with refined := refinedField s n x.idx r.rate r.det recd } else x) }

theorem recordT0Refined_refines {s : State} {n : Nat} {r : CupRec} {cb : CupBay} (hr : s.cup.recs.find? (fun x => decide (x.bay = n ∧ x.final = false)) = some r)
    (hc : cupBay? s n = some cb) : exec (.recordT0Refined n) s = .next (cupStat (announceRec (modRec s r.num (fun _ => refinedRec s n r cb.recd)) r.num)) := by
  show execRecordT0Refined n s = _
  simp only [execRecordT0Refined, refineRec, hr, hc]
  rfl

theorem recordT0Refined_same {s : State} {n : Nat} (h : s.cup.recs.find? (fun x => decide (x.bay = n ∧ x.final = false)) = none ∨ cupBay? s n = none) :
    exec (.recordT0Refined n) s = .next s := by
  show next (refineRec s n) = _
  unfold refineRec
  split
  · next r cb hr hc =>
    rcases h with h | h
    · rw [hr] at h; cases h
    · rw [hc] at h; cases h
  · rfl

/-! ### RECORD_POST_END (R355) -/

section PostEnd
variable {s : State} {n : Nat} {r : CupRec} (hr : s.cup.recs.find? (fun x => decide (x.bay = n ∧ x.st = .open_ ∧ x.final = true)) = some r)
include hr

theorem recordPostEnd_seals (h : reached s n r.last = true) : exec (.recordPostEnd n) s =
    .next (cupBayStat (cupStat (modRec s r.num (fun x => { x with st := .sealing, sealAt := some s.dev.ticks }))) n) := by
  show execRecordPostEnd n s = _
  simp only [execRecordPostEnd, hr, h, if_true]

theorem recordPostEnd_early (h : reached s n r.last = false) : exec (.recordPostEnd n) s = .next s := by
  show execRecordPostEnd n s = _
  simp only [execRecordPostEnd, hr, h, Bool.false_eq_true, if_false]

end PostEnd

theorem recordPostEnd_none {s : State} {n : Nat} (hr : s.cup.recs.find? (fun x => decide (x.bay = n ∧ x.st = .open_ ∧ x.final = true)) = none) :
    exec (.recordPostEnd n) s = .next s := by
  show execRecordPostEnd n s = _
  simp only [execRecordPostEnd, hr]

/-! ### RECORD_SEALED (R355, R357, R364, R366) -/

/-- Whether the RMS span of a record of the bay is over, or the bay's ring holds no instant. -/
def spanOver (s : State) (n : Nat) (r : CupRec) : Bool := match newestOf s n with | some e => r.rmsEnd.le e | none => true

/-- The triggers that waited for the seal: the oldest opens a record that the others extend (R357). -/
def openQueued (s : State) (n : Nat) : List Detect → State
  | [] => s
  | d :: ds =>
    let u := openRec (modCup s n (fun x => { x with queue := [] })) n d
    match rawRec u n with
    | some q => ds.foldl (fun st x => extendRec st n q.num 2 x) u
    | none => ds.foldl (fun st x => dropTrig st n x.fires) u

/-- Cupola once record `r` of `s` is sealed, in state `st`, before the bay's queued triggers leave the queue. -/
structure SealedRec (s : State) (r : CupRec) (st : RecSt) (t : State) : Prop where
  bays : t.cup.bays = s.cup.bays
  flash : t.cup.flash = s.cup.flash ++ [(r.num, false, s.dev.ticks)]
  recs : ∀ x ∈ t.cup.recs, x.num = r.num → x.st = st ∧ x.summary = summaryOf s r

theorem SealedRec.complete {s t : State} {r : CupRec} {st : RecSt} (h : SealedRec s r st t) : SealedRec s r .complete (completeRec t r.num) where
  bays := (congrArg Cup.bays (completeRec_cup ..)).trans h.bays
  flash := (congrArg Cup.flash (completeRec_cup ..)).trans h.flash
  recs x hx hn := by
    rw [completeRec_cup] at hx
    obtain ⟨y, hy, hyn, rfl⟩ := mem_modRec hx hn
    exact ⟨rfl, (h.recs y hy hyn).2⟩

theorem recordSealed_seals {s : State} {n : Nat} {r : CupRec} {cb : CupBay} (hr : s.cup.recs.find? (fun x => decide (x.bay = n ∧ x.st = .sealing ∧ x.final = true)) = some r)
    (hc : cupBay? s n = some cb) : ∃ t, exec (.recordSealed n) s = .next (cupBayStat (cupStat (openQueued t n cb.queue)) n) ∧
      SealedRec s r (if spanOver s n r then .complete else .tail) t := by
  show ∃ t, next (sealRec s n) = _ ∧ _
  simp -zeta only [sealRec, hr, hc]
  extract_lets hi leap r1 done s1 moved kept s2 s3 s4
  have h2 : SealedRec s r .tail s2 := by
    have hcup : s2.cup = { s1.cup with flash := s1.cup.flash ++ [(r.num, false, s1.dev.ticks)] } := raise_cup ..
    refine ⟨(congrArg Cup.bays hcup :), (congrArg Cup.flash hcup :), fun x hx hn => ?_⟩
    rw [hcup] at hx
    obtain ⟨y, -, -, rfl⟩ := mem_modRec hx hn
    exact ⟨rfl, rfl⟩
  have h3 : SealedRec s r (if spanOver s n r then .complete else .tail) s3 := by
    show SealedRec s r _ (if spanOver s n r then completeRec s2 r.num else s2)
    split
    · exact h2.complete
    · exact h2
  have h4 : s4 = openQueued s3 n cb.queue := by
    unfold s4
    cases cb.queue <;> rfl
  exact ⟨s3, congrArg (fun t => next (cupBayStat (cupStat t) n)) h4, h3⟩

theorem recordSealed_same {s : State} {n : Nat} (h : s.cup.recs.find? (fun x => decide (x.bay = n ∧ x.st = .sealing ∧ x.final = true)) = none ∨ cupBay? s n = none) :
    exec (.recordSealed n) s = .next s := by
  show next (sealRec s n) = _
  unfold sealRec
  split
  · next r cb hr hc =>
    rcases h with h | h
    · rw [hr] at h; cases h
    · rw [hc] at h; cases h
  · rfl

/-! ### RECORD_TAIL_END (R355) -/

theorem recordTailEnd_eq {s : State} {num : Nat} {r : CupRec} (hr : rec? s num = some r) :
    exec (.recordTailEnd num) s = if r.st = .tail ∧ reached s r.bay r.rmsEnd then .next (completeRec s num) else .next s := by
  show execRecordTailEnd num s = _
  simp only [execRecordTailEnd, hr]

theorem recordTailEnd_unknown {s : State} {num : Nat} (hr : rec? s num = none) : exec (.recordTailEnd num) s = .next s := by
  show execRecordTailEnd num s = _
  simp only [execRecordTailEnd, hr]

/-! ### AUTO_TRIGGER (R351, R352) -/

theorem autoTrigger_eq {s : State} {n : Nat} {cb : CupBay} {b : Bay} {p : PrEnt} (hc : cupBay? s n = some cb) (hb : bay? s n = some b) (hp : cb.ring.head? = some p) : exec (.autoTrigger n) s =
    if b.runs ∧ flag s R.cupCtl 0 ∧ fld s (R.cupBayCtl n) 3 2 = 2 ∧ cb.autoAt + field cb.recd 24 4 * secI ≤ p.at_.inst b.rate then
      .next (fireAt (setCup s n { cb with autoAt := p.at_.inst b.rate }) n ⟨p.at_, p.at_.att s b.rate, p.word, [⟨18, p.at_.ns b.rate, 0, 0, none⟩]⟩)
    else .next s := by
  show execAutoTrigger n s = _
  simp only [execAutoTrigger, hc, hb, hp]

theorem autoTrigger_same {s : State} {n : Nat} (h : flag s R.cupCtl 0 = false ∨ fld s (R.cupBayCtl n) 3 2 ≠ 2 ∨ cupBay? s n = none ∨ (cupBay? s n).map CupBay.ring = some [] ∨
    bay? s n = none ∨ (bay? s n).map Bay.runs = some false) : exec (.autoTrigger n) s = .next s := by
  show execAutoTrigger n s = _
  unfold execAutoTrigger
  split
  · next cb b hc hb =>
    split
    · next p hp =>
      refine if_neg ?_
      rintro ⟨hr, hf, h2, -⟩
      rcases h with h | h | h | h | h | h
      · rw [hf] at h; cases h
      · exact h h2
      · rw [hc] at h; cases h
      · simp only [hc, Option.map_some, Option.some.injEq] at h
        rw [h] at hp; cases hp
      · rw [hb] at h; cases h
      · simp [hb, hr] at h
    · rfl
  · rfl

/-! ### INDEX_FLASH_COPY (R366) -/

/-- A record copied to flash, its release marked, or nothing for a record that is there no more. -/
def copied (s : State) (num : Nat) (freed : Bool) : State :=
  if freed then { s with flash := { s.flash with recs := s.flash.recs.map (fun x => if x.num = num then { x with freed := true } else x) } }
  else match rec? s num with
    | some r => { s with flash := { s.flash with recs := s.flash.recs.filter (fun x => x.num ≠ num) ++ [⟨num, indexEntry s r, r.summary, false⟩] } }
    | none => s

theorem copied_cup (s : State) (num : Nat) (freed : Bool) : (copied s num freed).cup = s.cup := by
  unfold copied
  split
  · rfl
  · split <;> rfl

theorem indexFlashCopy_oldest {s : State} {num : Nat} {freed : Bool} {k : Ticks} {fs : List (Nat × Bool × Ticks)} (hf : s.cup.flash = (num, freed, k) :: fs) :
    exec .indexFlashCopy s = .next (cupStat (copied { s with cup := { s.cup with flash := fs } } num freed)) := by
  show next (flashCopy s) = _
  simp only [flashCopy, hf]
  rfl

theorem indexFlashCopy_none {s : State} (hf : s.cup.flash = []) : exec .indexFlashCopy s = .next s := by
  show next (flashCopy s) = _
  simp only [flashCopy, hf]

theorem copied_known {s : State} {num : Nat} {r : CupRec} (hr : rec? s num = some r) :
    (copied s num false).flash.recs = s.flash.recs.filter (fun x => x.num ≠ num) ++ [⟨num, indexEntry s r, r.summary, false⟩] := by
  simp only [copied, hr, Bool.false_eq_true, if_false]

theorem copied_unknown {s : State} {num : Nat} (hr : rec? s num = none) : copied s num false = s := by
  simp only [copied, hr, Bool.false_eq_true, if_false]

/-- Settles O50: each event by the branch of it that the clause names; of a sealed record and a refined one, by what a change by number leaves in the records. -/
theorem recordsRunTheirCourse : Obligations.RecordsRunTheirCourse := by
  unfold Obligations.RecordsRunTheirCourse
  refine fun s => ⟨fun n cb hc => ?rearm, fun n hc => unrecordedBay_rearmed hc, fun n cb l ls hc hl => ?line, fun n h => recordLine_same h, fun n r cb b hr hc hb => ?refined,
    fun n h => recordT0Refined_same h, fun n r hr => ⟨fun h => ?postEnd, recordPostEnd_early hr⟩, fun n hr => recordPostEnd_none hr, fun n r cb hr hc => ?sealed,
    fun n h => recordSealed_same h, fun num r hr => ⟨fun ht h => ?tail, fun h => ?tailSame⟩, fun num hr => recordTailEnd_unknown hr,
    fun n cb b p hc hb hp hr hf h2 => ⟨fun ht => ?auto, fun ht => ?autoEarly⟩, fun n h => autoTrigger_same h, fun num freed k fs hf => ?flash, indexFlashCopy_none⟩
  case rearm =>
    refine ⟨_, recordedBay_rearmed hc, ?_, (cupBayStat_regsOnly ..).cup_rest rfl⟩
    rw [cupBay_congr (congrArg Cup.bays (cupBayStat_cup ..)), cupBay_setCup]
  case line =>
    rw [recordLine_oldest hc hl]
    refine ⟨fun hf => ?_, fun hf hs => ?_, fun hf hs => ?_⟩
    · rw [if_pos hf]
    · rw [hf, hs]; rfl
    · rw [hf, hs]; rfl
  case refined =>
    refine ⟨_, recordT0Refined_refines hr hc, fun x hx hn => ?_, ?_⟩
    · rw [cupStat_cup, announceRec_cup] at hx
      obtain ⟨y, hy, hyn, rfl⟩ := mem_modRec hx hn
      obtain ⟨z, -, -, rfl⟩ := mem_modRec hy hyn
      exact fixT0_final hc hb ..
    · rw [cupStat_cup, announceRec_cup, modRec_length, modRec_length]
  case postEnd =>
    refine ⟨_, recordPostEnd_seals hr h, fun x hx hn => ?_, ((cupStat_regsOnly _).trans (cupBayStat_regsOnly ..)).cup_rest rfl⟩
    rw [cupBayStat_cup, cupStat_cup] at hx
    obtain ⟨y, -, -, rfl⟩ := mem_modRec hx hn
    exact ⟨rfl, rfl⟩
  case sealed =>
    obtain ⟨t, ht, hs⟩ := recordSealed_seals hr hc
    have hct : cupBay? t n = some cb := (cupBay_congr hs.bays n).trans hc
    cases hq : cb.queue with
    | nil =>
      rw [hq] at ht
      exact ⟨t, t, ht, by rw [hct, Option.map_some, hq], hs.flash, hs.recs, fun _ => rfl, fun _ _ h => (nomatch h)⟩
    | cons d ds =>
      rw [hq, openQueued, modCup_recorded hct] at ht
      refine ⟨setCup t n { cb with queue := [] }, _, ht, by rw [cupBay_setCup]; rfl, hs.flash, hs.recs, fun h => (nomatch h), fun d' ds' h => ?_⟩
      cases h
      rfl
  case tail =>
    refine ⟨_, (recordTailEnd_eq hr).trans (if_pos ⟨ht, h⟩), fun x hx hn => ?_⟩
    rw [completeRec_cup] at hx
    obtain ⟨y, -, -, rfl⟩ := mem_modRec hx hn
    rfl
  case tailSame =>
    refine (recordTailEnd_eq hr).trans (if_neg fun ⟨ht, hx⟩ => ?_)
    rcases h with h | h
    · exact h ht
    · rw [hx] at h; cases h
  case auto => exact (autoTrigger_eq hc hb hp).trans (if_pos ⟨hr, hf, h2, ht⟩)
  case autoEarly => exact (autoTrigger_eq hc hb hp).trans (if_neg fun ⟨_, _, _, h⟩ => absurd h (Nat.not_le.mpr ht))
  case flash =>
    refine ⟨_, indexFlashCopy_oldest hf, ?_, ?_, ?_, ?_⟩
    · rw [cupStat_cup, copied_cup]
    · rintro rfl
      rw [(cupStat_host _).flash]
      rfl
    · rintro rfl r hr
      have hr' : rec? { s with cup := { s.cup with flash := fs } } num = some r := hr
      rw [(cupStat_host _).flash, copied_known hr']
      exact ⟨_, rfl, rfl, rfl, rfl⟩
    · rintro rfl hr
      have hr' : rec? { s with cup := { s.cup with flash := fs } } num = none := hr
      rw [(cupStat_host _).flash, copied_unknown hr']

end Sys2Proof.Machine

namespace Sys2Proof.Machine

/-! ### BEACON_SEND (R400) -/

/-- The state in which the beacon of millisecond `k` is the last one. -/
def lastBeacon (s : State) (k : Nat) : State := { s with bel := { s.bel with bcnAt := k } }

theorem lastBeacon_bfDmac (s : State) (k : Nat) : bfDmac (lastBeacon s k) = bfDmac s := rfl
theorem lastBeacon_bcn (s : State) (k : Nat) : (lastBeacon s k).bel.bcn = s.bel.bcn := rfl

/-- A beacon counted. -/
def beaconCounted (s : State) : State := { s with bel := { s.bel with bcn := (s.bel.bcn + 1) % 2 ^ 32 } }

section Beacon
variable {s : State}

theorem beaconSend_due (hs : sends s = true) (hk : now s / msI ≠ s.bel.bcnAt) : exec .beaconSend s = .next (sendBeacon (lastBeacon s (now s / msI))) := by
  refine congrArg next (if_pos ?_)
  rw [hs, Bool.true_and, decide_eq_true hk]

theorem beaconSend_same (h : sends s = false ∨ now s / msI = s.bel.bcnAt) : exec .beaconSend s = .next s := by
  refine congrArg next (if_neg ?_)
  rcases h with h | h <;> simp [h]

theorem sendBeacon_unset (h : bfDmac s = 0) : sendBeacon s = s := if_pos h

theorem sendBeacon_set (h : bfDmac s ≠ 0) : ∃ u, FramesSent s u ∧ sendBeacon s = beaconCounted u := by
  unfold sendBeacon
  rw [if_neg h]
  exact ⟨_, (FramesSent.refl s).sendBelfry, rfl⟩

theorem beaconSend_sent (hs : sends s = true) (hk : now s / msI ≠ s.bel.bcnAt) (hd : bfDmac s ≠ 0) :
    ∃ t, exec .beaconSend s = .next t ∧ t.bel.bcnAt = now s / msI ∧ t.bel.bcn = (s.bel.bcn + 1) % 2 ^ 32 := by
  obtain ⟨u, hu, he⟩ := sendBeacon_set ((lastBeacon_bfDmac s _).trans_ne hd)
  refine ⟨beaconCounted u, (beaconSend_due hs hk).trans (congrArg next he), hu.bcnAt, ?_⟩
  rw [← lastBeacon_bcn s (now s / msI), ← hu.bcn]
  rfl

end Beacon

/-! ### BELFRY_FRAME_RX (R362, R402, R465) -/

theorem setMir_mir (s : State) (f : Mir → Mir) : (setMir s f).mir = f s.mir := (mirShow_host _).mir

theorem detectTakeover_begins {s : State} (hm : s.dev.mode = .vigil) (ht : s.mir.takeover = none) (cause : Nat) :
    (detectTakeover s cause).mir.takeover = some ⟨cause, effectInst s, currentSnap s⟩ := by
  rw [detectTakeover, if_pos ⟨hm, by rw [ht]; rfl⟩, setMir_mir]

theorem detectTakeover_same {s : State} (h : s.dev.mode ≠ .vigil ∨ s.mir.takeover.isSome = true) (cause : Nat) : detectTakeover s cause = s := by
  refine if_neg fun ⟨hm, ht⟩ => ?_
  rcases h with h | h
  · exact h hm
  · rw [Option.isNone_iff_eq_none] at ht
    rw [ht] at h; cases h

/-- A payload of the version and length of R397. -/
abbrev belfrySound (p : List Byte) : Prop := field p 0 1 = 1 ∧ field p 2 2 = 48

/-- A payload of the partner: of this pair, and not of this unit. -/
abbrev fromMate (s : State) (p : List Byte) : Prop := field p 4 4 = regGet s R.belPairId ∧ field p 8 4 % 2 ^ 20 ≠ s.otp.unitId % 2 ^ 20

section Belfry
variable {s : State} {p : List Byte}

theorem belfryFrameRx_same (h : s.dev.mode = .boot ∨ belCrcOk p = false) : exec (.belfryFrameRx p) s = .next s :=
  congrArg next (if_pos (by simpa using h))

variable (hm : s.dev.mode ≠ .boot) (hc : belCrcOk p = true)
include hm hc

theorem belfryFrameRx_eq : exec (.belfryFrameRx p) s = .next (
    if belfrySound p ∧ field p 1 1 = 2 ∧ fromMate s p then takeBeacon (bump s R.belBcnRx) (field p 8 4 % 2 ^ 20) (field p 12 1) (field p 13 1) (field p 14 2) (attInst p 20)
    else if belfrySound p ∧ field p 1 1 = 4 ∧ fromMate s p then (if paired s then detectTakeover (bump s R.belBcnRx) 3 else bump s R.belBcnRx)
    else if belfrySound p ∧ field p 1 1 = 3 then takeXtrig s (field p 8 4 % 2 ^ 20) (field p 16 4) (field p 14 1) (bitOf (field p 15 1) 0) (attInst p 20)
    else bump s R.belRxIgn) := by
  show execBelfryFrameRx p s = _
  simp only [execBelfryFrameRx, Bool.and_eq_true, decide_eq_true_eq]
  exact congrArg next (if_neg (by simp [hm, hc]))

theorem belfryFrameRx_ignored (h : ¬belfrySound p ∨ 4 < field p 1 1 ∨ field p 1 1 ≤ 1 ∨ (field p 1 1 = 2 ∨ field p 1 1 = 4) ∧ ¬fromMate s p) :
    exec (.belfryFrameRx p) s = .next (bump s R.belRxIgn) := by
  rw [belfryFrameRx_eq hm hc, if_neg, if_neg, if_neg] <;> omega

variable (hs : belfrySound p)
include hs

theorem belfryFrameRx_xtrig (ht : field p 1 1 = 3) :
    exec (.belfryFrameRx p) s = .next (takeXtrig s (field p 8 4 % 2 ^ 20) (field p 16 4) (field p 14 1) (bitOf (field p 15 1) 0) (attInst p 20)) := by
  rw [belfryFrameRx_eq hm hc, if_neg (by omega), if_neg (by omega), if_pos ⟨hs, ht⟩]

variable (hp : fromMate s p)
include hp

theorem belfryFrameRx_beacon (ht : field p 1 1 = 2) : exec (.belfryFrameRx p) s =
    .next (takeBeacon (bump s R.belBcnRx) (field p 8 4 % 2 ^ 20) (field p 12 1) (field p 13 1) (field p 14 2) (attInst p 20)) := by
  rw [belfryFrameRx_eq hm hc, if_pos ⟨hs, ht, hp⟩]

theorem belfryFrameRx_gasp (ht : field p 1 1 = 4) :
    exec (.belfryFrameRx p) s = .next (if paired s then detectTakeover (bump s R.belBcnRx) 3 else bump s R.belBcnRx) := by
  rw [belfryFrameRx_eq hm hc, if_neg (by omega), if_pos ⟨hs, ht, hp⟩]

end Belfry

/-! ### Subscriptions (R409 to R411) -/

theorem goSub_setSub (s : State) (n : Nat) (u : GoSub) : goSub (setSub s n u) n = u := by simp [goSub, setSub, tget, tget_tset]
theorem goSub_congr {s t : State} (h : t.bel = s.bel) (n : Nat) : goSub t n = goSub s n := by rw [goSub, goSub, h]

theorem subLost_lost {s : State} {n : Nat} (hv : (goSub s n).valid = true) (ha : (goSub s n).validAt (nowQ s) = false) :
    subLost s n = raise 0x0B05 (setSub s n { goSub s n with valid := false, tal := satInc (goSub s n).tal }) (idx := n) :=
  if_pos (by rw [hv, ha]; rfl)

theorem subLost_same {s : State} {n : Nat} (h : (goSub s n).valid = false ∨ (goSub s n).validAt (nowQ s) = true) : subLost s n = s :=
  if_neg (by rcases h with h | h <;> simp [h])

theorem subLost_dev (s : State) (n : Nat) : (subLost s n).dev = s.dev := iteInduction (motive := fun t : State => t.dev = s.dev) (fun _ => raise_dev ..) (fun _ => rfl)
theorem subLost_alm (s : State) (n : Nat) : (subLost s n).alm = s.alm := iteInduction (motive := fun t : State => t.alm = s.alm) (fun _ => raise_alm ..) (fun _ => rfl)

theorem subLost_nowQ (s : State) (n : Nat) : nowQ (subLost s n) = nowQ s := by simp only [nowQ, eventQ, subLost_dev, subLost_alm]
theorem subLost_rejects (s : State) (n : Nat) (r : List Byte) (f : GooseFrame) : subRejects (subLost s n) r f = subRejects s r f := by
  simp only [subRejects, subLost_dev]

/-- An accepted frame is the newest that its subscription keeps, and is counted. -/
theorem subAccept_newest (s : State) (n : Nat) (r : List Byte) (f : GooseFrame) :
    (goSub (subAccept s n r f) n).frames.head? = some ⟨f.st, f.sq, nowQ s, f.tal, f.vals⟩ ∧ (goSub (subAccept s n r f) n).accept = satInc (goSub s n).accept := by
  unfold subAccept
  extract_lets u all u1
  split
  · rw [goSub_congr (raise_bel ..), goSub_setSub]
    exact ⟨rfl, rfl⟩
  · rw [goSub_setSub]
    exact ⟨rfl, rfl⟩

/-- The state in which a frame finds the subscription of a record: an expired one is LOST. -/
def subReady (s : State) (r : List Byte) : State := subLost s (field r 2 2)

/-- The subscription of a record as a frame finds it. -/
def subBefore (s : State) (r : List Byte) : GoSub := goSub (subReady s r) (field r 2 2)

section Frame
variable {s : State} {r : List Byte} {f : GooseFrame}

theorem subFrame_badRev (hr : f.confRev ≠ field r 20 4) :
    (goSub (subFrame s r f) (field r 2 2)).rej = satInc (subBefore s r).rej ∧
    (goSub (subFrame s r f) (field r 2 2)).frames = (subBefore s r).frames := by
  unfold subFrame
  extract_lets n s0 u s1 u1
  have h1 : goSub s1 n = { u with rej := satInc u.rej } := goSub_setSub ..
  rw [if_pos hr]
  refine iteInduction (motive := fun t : State => (goSub t n).rej = satInc u.rej ∧ (goSub t n).frames = u.frames) (fun _ => ?_) (fun _ => ?_)
  · rw [goSub_congr (raise_bel ..), goSub_setSub]
    exact ⟨(congrArg GoSub.rej h1 :), (congrArg GoSub.frames h1 :)⟩
  · rw [h1]
    exact ⟨rfl, rfl⟩

variable (hr : f.confRev = field r 20 4)
include hr

theorem subFrame_rejected (hj : subRejects s r f = true) : subFrame s r f =
    setSub (subReady s r) (field r 2 2) { subBefore s r with rej := satInc (subBefore s r).rej } :=
  (if_neg (not_not_intro hr)).trans (if_pos ((subLost_rejects ..).trans hj))

variable (hj : subRejects s r f = false)
include hj

theorem subFrame_first (h : (subBefore s r).frames = []) : subFrame s r f = subAccept (subReady s r) (field r 2 2) r f := by
  refine (if_neg (not_not_intro hr)).trans ((if_neg (by rw [subLost_rejects, hj]; exact Bool.false_ne_true)).trans ?_)
  split
  · rfl
  · next l ls hl => exact absurd (hl.symm.trans h) (List.cons_ne_nil l ls)

/-- How far the state number of a frame lies after that of the newest one kept, modulo 2^32 (R410). -/
def stateLead (f : GooseFrame) (l : GoFrame) : Nat := (f.st + 2 ^ 32 - l.st % 2 ^ 32) % 2 ^ 32

variable {l : GoFrame} {ls : List GoFrame} (hl : (subBefore s r).frames = l :: ls)
include hl

/-- A frame after another is taken where the subscription is LOST or the frame newer, and else counted as a repeat or as stale. -/
theorem subFrame_after : subFrame s r f =
    if (subBefore s r).valid = false ∨ 1 ≤ stateLead f l ∧ stateLead f l < 2 ^ 31 ∨ stateLead f l = 0 ∧ l.sq < f.sq then
      subAccept (subReady s r) (field r 2 2) r f
    else if stateLead f l = 0 then
      setSub (subReady s r) (field r 2 2) { subBefore s r with dup := satInc (subBefore s r).dup }
    else setSub (subReady s r) (field r 2 2) { subBefore s r with stale := satInc (subBefore s r).stale } := by
  refine (if_neg (not_not_intro hr)).trans ((if_neg (by rw [subLost_rejects, hj]; exact Bool.false_ne_true)).trans ?_)
  split
  · next h => exact absurd (hl.symm.trans h) (List.cons_ne_nil l ls)
  · next l' ls' h =>
    obtain ⟨rfl, rfl⟩ := List.cons.inj (h.symm.trans hl)
    simp only [Bool.or_eq_true, Bool.and_eq_true, decide_eq_true_eq, Bool.not_eq_true', or_assoc]
    rfl

end Frame

/-! ### GOOSE_FRAME_RX and GOOSE_TAL_EXPIRY (R393, R409, R411) -/

/-- A GOOSE frame passed through the duplicate discard of its redundant pair: the state, and whether the table holds its key. -/
def discarded (s : State) (f : GooseFrame) : State × Bool :=
  match f.red with
  | some q => if pairMode s f.port = 0 then (s, false) else ddLookup s (decide (2 ≤ f.port)) f.src q
  | none => (s, false)

theorem discarded_unpaired {s : State} {f : GooseFrame} (h : f.red = none ∨ pairMode s f.port = 0) : discarded s f = (s, false) := by
  unfold discarded
  split
  · next q hq => exact if_pos (h.resolve_left (by rw [hq]; exact Option.some_ne_none q))
  · rfl

theorem discarded_paired {s : State} {f : GooseFrame} {q : Nat} (hq : f.red = some q) (h : pairMode s f.port ≠ 0) :
    discarded s f = ddLookup s (decide (2 ≤ f.port)) f.src q := by
  simp only [discarded, hq, if_neg h]

section GooseRx
variable {s : State} {f : GooseFrame}

theorem gooseFrameRx_off (h : s.dev.mode = .boot ∨ 5 < f.port) : exec (.gooseFrameRx f) s = .next s := if_pos h

theorem gooseFrameRx_on (hm : s.dev.mode ≠ .boot) (hp : f.port ≤ 5) : exec (.gooseFrameRx f) s =
    .next (if ((discarded s f).2 || !flag s R.belCtl 1) = true then (discarded s f).1
      else ((subRecs (discarded s f).1).filter (fun r => subMatch r f)).foldl (fun st r => subFrame st r f) (discarded s f).1) :=
  if_neg (not_or.mpr ⟨hm, Nat.not_lt.mpr hp⟩)

theorem gooseTalExpiry_eq (n : Nat) : exec (.gooseTalExpiry n) s = .next (if s.dev.mode = .boot then s else subLost s n) := rfl

end GooseRx

/-! ### Publications (R406, R407, R499) -/

theorem goPub_congr {s t : State} (h : t.bel.pubs = s.bel.pubs) (n : Nat) : goPub t n = goPub s n := by rw [goPub, goPub, h]
theorem goPub_setPub (s : State) (n : Nat) (p : GoPub) : goPub (setPub s n p) n = p := by simp [goPub, setPub, tget, tget_tset]

/-- A GOOSE frame sent leaves the publications alone. -/
theorem goPub_sendGoose (s : State) (r : List Byte) (p : GoPub) (tal : Nat) (bell : Bool) (n : Nat) : goPub (sendGoose s r p tal bell) n = goPub s n :=
  goPub_congr (FramesSent.refl s).sendGoose.pubs n

/-- A state change takes the next stNum, with sqNum 0 and the test field of its word. -/
theorem goPub_stateChange (s : State) (r : List Byte) (word bins : Nat) (att : Att) (dying : Bool) :
    (goPub (stateChange s r word bins att dying) (field r 2 2)).st = goNext (goPub s (field r 2 2)).st ∧
    (goPub (stateChange s r word bins att dying) (field r 2 2)).sq = 0 ∧ (goPub (stateChange s r word bins att dying) (field r 2 2)).test = bitOf word 49 := by
  unfold stateChange
  extract_lets n p tmin utc p1
  rw [goPub_sendGoose, goPub_setPub]
  exact ⟨rfl, rfl, rfl⟩

/-- A retransmission that is due takes the next sqNum, with the stNum and the dataset as they were. -/
theorem goPub_retransmit {s : State} {r : List Byte} {at_ : Inst} (test : Bool) (h1 : (goPub s (field r 2 2)).first = false) (hf : (goPub s (field r 2 2)).full ≠ [])
    (ht : (goPub s (field r 2 2)).tc + (goPub s (field r 2 2)).sum * msI ≤ at_) :
    (goPub (retransmit s r test at_) (field r 2 2)).sq = goNext (goPub s (field r 2 2)).sq ∧ (goPub (retransmit s r test at_) (field r 2 2)).st = (goPub s (field r 2 2)).st ∧
    (goPub (retransmit s r test at_) (field r 2 2)).full = (goPub s (field r 2 2)).full := by
  unfold retransmit
  extract_lets n p
  have hc : ¬(p.first || p.full.isEmpty || decide (at_ < p.tc + p.sum * msI)) = true := by
    simp only [Bool.or_eq_true, List.isEmpty_iff, decide_eq_true_eq, not_or, Bool.not_eq_true]
    exact ⟨⟨h1, hf⟩, Nat.not_lt.mpr ht⟩
  rw [if_neg hc, goPub_sendGoose, goPub_setPub]
  exact ⟨rfl, rfl, rfl⟩

theorem Bay.rate_pos (b : Bay) : 0 < b.rate := by
  unfold Bay.rate brRate
  split <;> decide

/-- The record that a search by block number finds bears that number. -/
theorem pubRec_block {l : List (List Byte)} {n : Nat} {r : List Byte} (h : l.find? (fun x => decide (field x 2 2 = n)) = some r) : field r 2 2 = n :=
  by
  simpa using List.find?_some h

/-- When the retransmission of a bay's block is due: the bay's first grid instant at or after its place in the schedule (R407). -/
def retransmitDue (s : State) (n : Nat) (b : Bay) : Inst := firstGrid b.rate ((goPub s n).tc + (goPub s n).sum * msI)

section Retransmit
variable {s : State} {n : Nat} {r : List Byte} (hr : (pubRecs s).find? (fun x => decide (field x 2 2 = n)) = some r)
include hr

theorem gooseRetransmit_noBay (hb : bay? s (field r 4 2) = none) : exec (.gooseRetransmit n) s = .next s := by
  show execGooseRetransmit n s = _
  simp only [execGooseRetransmit, hr, hb]

variable {b : Bay} (hb : bay? s (field r 4 2) = some b)
include hb

theorem gooseRetransmit_eq : exec (.gooseRetransmit n) s = .next (
    if sends s = true ∧ flag s R.belCtl 0 = true ∧ b.runs = false ∧ (goPub s n).full ≠ [] ∧ retransmitDue s n b + 2 * usI ≤ now s then
      (if (goPub s n).first then stateChange s r b.ctx.pub b.ctx.bins (attAt s (retransmitDue s n b)) false else retransmit s r (goPub s n).test (retransmitDue s n b))
    else s) := by
  show execGooseRetransmit n s = _
  simp only [execGooseRetransmit, hr, hb, Bool.and_eq_true, Bool.not_eq_true', decide_eq_true_eq, and_assoc, List.isEmpty_eq_false_iff]
  rfl

theorem gooseRetransmit_same (h : sends s = false ∨ flag s R.belCtl 0 = false ∨ b.runs = true ∨ (goPub s n).full = [] ∨ now s < retransmitDue s n b + 2 * usI) :
    exec (.gooseRetransmit n) s = .next s := by
  rw [gooseRetransmit_eq hr hb, if_neg]
  rintro ⟨hs, hf, hn, hx, ht⟩
  rcases h with h | h | h | h | h
  · rw [hs] at h; cases h
  · rw [hf] at h; cases h
  · rw [hn] at h; cases h
  · exact hx h
  · exact Nat.not_lt.mpr ht h

end Retransmit

theorem gooseRetransmit_unknown {s : State} {n : Nat} (hr : (pubRecs s).find? (fun x => decide (field x 2 2 = n)) = none) : exec (.gooseRetransmit n) s = .next s := by
  show execGooseRetransmit n s = _
  simp only [execGooseRetransmit, hr]

@[simp] theorem accepted_pubRecs (s : State) (op : Nat) (e : CmdEntry) (i : Nat) : pubRecs (accepted s op e i) = pubRecs s := by rw [accepted_eq]; rfl
@[simp] theorem accepted_goPub (s : State) (op : Nat) (e : CmdEntry) (i n : Nat) : goPub (accepted s op e i) n = goPub s n := by rw [accepted_eq]; rfl

section TestPublish
variable {s : State} {e : CmdEntry} {cid : Nat}

theorem belTestPublishOwn_badMode (h : s.dev.mode ≠ .commission ∧ s.dev.mode ≠ .test) : belTestPublishOwn e cid s = .rejAfter s stBadMode := if_pos h

variable (hm : ¬(s.dev.mode ≠ .commission ∧ s.dev.mode ≠ .test))
include hm

theorem belTestPublishOwn_unknown (hr : (pubRecs s).find? (fun x => decide (field x 2 2 = field e.params 0 2)) = none) : belTestPublishOwn e cid s = .rejAfter s stBadParam := by
  simp only [belTestPublishOwn, if_neg hm, hr, CmdOut.rej_eq]

theorem belTestPublishOwn_sends {r : List Byte} (hr : (pubRecs s).find? (fun x => decide (field x 2 2 = field e.params 0 2)) = some r) : ∃ bins,
    belTestPublishOwn e cid s = .ok (stateChange s r (Nat.lor (field e.params 8 8) (2 ^ 49)) bins (attNow s) false) (attNow s) := by
  simp only [belTestPublishOwn, if_neg hm, hr]
  exact ⟨_, rfl⟩

end TestPublish

/-- Settles O55: beacons and Belfry frames by their kind, GOOSE frames by what their subscription keeps, publications by what a frame sent leaves of them. -/
theorem belfryFramesAndGoose : Obligations.BelfryFramesAndGoose := by
  unfold Obligations.BelfryFramesAndGoose
  refine fun s => ⟨fun hs hk hd => ?sent, fun hs hk hd => ?unset, fun h => beaconSend_same h, fun p h => belfryFrameRx_same h, ?belfry, fun f h => gooseFrameRx_off h, ?goose, ?frame,
    fun n hm hv ha => ?lost, fun n h => ?kept, ?retransmit, ?none, ?test⟩
  case sent => exact beaconSend_sent hs hk hd
  case unset => exact (beaconSend_due hs hk).trans (congrArg next (sendBeacon_unset ((lastBeacon_bfDmac s _).trans hd)))
  case belfry =>
    rintro p unit hm hc rfl
    refine ⟨fun h => belfryFrameRx_ignored hm hc (by omega), fun h0 h2 => ⟨fun hid hu => ⟨?_, fun ht hp hv hn => ?_, fun ht h => ?_⟩, fun h ht => ?_, belfryFrameRx_xtrig hm hc ⟨h0, h2⟩⟩⟩
    · exact belfryFrameRx_beacon hm hc ⟨h0, h2⟩ ⟨hid, hu⟩
    · rw [belfryFrameRx_gasp hm hc ⟨h0, h2⟩ ⟨hid, hu⟩ ht, if_pos hp]
      exact ⟨_, rfl, detectTakeover_begins (s := bump s R.belBcnRx) hv hn 3⟩
    · rw [belfryFrameRx_gasp hm hc ⟨h0, h2⟩ ⟨hid, hu⟩ ht]
      rcases h with h | h
      · rw [h]; rfl
      · rw [detectTakeover_same (s := bump s R.belBcnRx) h 3, ite_self]
    · exact belfryFrameRx_ignored hm hc (by omega)
  case goose =>
    rintro f p hm hport hp
    have hd : discarded s f = p := by
      rcases hp with ⟨h, rfl⟩ | ⟨q, hq, h, rfl⟩
      · exact discarded_unpaired h
      · exact discarded_paired hq h
    rw [gooseFrameRx_on hm hport, hd]
    refine ⟨fun h => ?_, fun h hf => ?_⟩
    · rw [if_pos (by rcases h with h | h <;> simp [h])]
    · rw [if_neg (by simp [h, hf])]
  case frame =>
    rintro f r n u z t rfl rfl rfl rfl
    refine ⟨subFrame_badRev, subFrame_rejected, fun hr hj h => ?_, ?_⟩
    · have ha : subFrame s r f = subAccept (subReady s r) (field r 2 2) r f := by
        cases hl : (subBefore s r).frames with
        | nil => exact subFrame_first hr hj hl
        | cons l ls => exact (subFrame_after hr hj hl).trans (if_pos (.inl (h.resolve_left fun h0 => List.cons_ne_nil l ls (hl.symm.trans h0))))
      rw [ha, ← subLost_nowQ s (field r 2 2)]
      exact subAccept_newest ..
    · rintro l ls d hr hj hl hv rfl
      refine ⟨fun hn => ?_, fun h0 hq => ?_, fun hd => ?_⟩
      · rw [(subFrame_after hr hj hl).trans (if_pos (.inr hn)), ← subLost_nowQ s (field r 2 2)]
        exact subAccept_newest ..
      · refine (subFrame_after hr hj hl).trans ((if_neg ?_).trans (if_pos h0))
        rintro (h | h | h)
        · exact Bool.false_ne_true (h.symm.trans hv)
        · exact absurd h0 (Nat.one_le_iff_ne_zero.mp h.1)
        · exact absurd h.2 (Nat.not_lt.mpr hq)
      · have h0 : stateLead f l ≠ 0 := fun h => absurd (h ▸ hd : 2 ^ 31 ≤ 0) (by decide)
        refine (subFrame_after hr hj hl).trans ((if_neg ?_).trans (if_neg h0))
        rintro (h | h | h)
        · exact Bool.false_ne_true (h.symm.trans hv)
        · exact absurd h.2 (Nat.not_lt.mpr hd)
        · exact h0 h.1
  case lost => rw [gooseTalExpiry_eq, if_neg hm, subLost_lost hv ha]
  case kept =>
    rw [gooseTalExpiry_eq]
    rcases h with h | h
    · rw [if_pos h]
    · rw [subLost_same h, ite_self]
  case retransmit =>
    rintro n r b due hr hb rfl
    have hn := pubRec_block hr
    refine ⟨fun hs hf hx hl ht => ?_, gooseRetransmit_same hr hb⟩
    have ho := (gooseRetransmit_eq hr hb).trans (congrArg next (if_pos ⟨hs, hf, hx, hl, ht⟩))
    refine ⟨fun h1 => ⟨_, ho, ?_⟩, fun h1 => ho.trans (congrArg next (if_pos h1))⟩
    rw [h1]
    subst hn
    exact goPub_retransmit _ h1 hl (le_firstGrid b.rate_pos _)
  case none =>
    rintro n (h | ⟨r, hr, hb⟩)
    · exact gooseRetransmit_unknown h
    · exact gooseRetransmit_noBay hr hb
  case test =>
    rintro e i n ht rfl
    refine ⟨fun h1 h2 => ?_, fun hm => ?_⟩
    · exact congrArg next (submit_rej ht (by decide) (belTestPublishOwn_badMode (by simpa using ⟨h1, h2⟩)))
    have hm' : ¬((accepted s 0x90 e i).dev.mode ≠ .commission ∧ (accepted s 0x90 e i).dev.mode ≠ .test) := by
      rw [accepted_dev, not_and_or, not_not, not_not]
      exact hm
    refine ⟨fun hr => ?_, fun r hr => ?_⟩
    · exact congrArg next (submit_rej ht (by decide) (belTestPublishOwn_unknown hm' (by rw [accepted_pubRecs]; exact hr)))
    · obtain ⟨bins, ho⟩ := belTestPublishOwn_sends (cid := s.hif.nextCid) hm' (by rw [accepted_pubRecs]; exact hr)
      have hp := goPub_stateChange (accepted s 0x90 e i) r (Nat.lor (field e.params 8 8) (2 ^ 49)) bins (attNow (accepted s 0x90 e i)) false
      have hb : bitOf (Nat.lor (field e.params 8 8) (2 ^ 49)) 49 = true := by
        show bitOf (field e.params 8 8 ||| 2 ^ 49) 49 = true
        rw [bitOf_eq_testBit, Nat.testBit_lor, Nat.testBit_two_pow_self, Bool.or_true]
      rw [pubRec_block hr, accepted_goPub, accepted_attNow, hb] at hp
      rw [accepted_attNow] at ho
      exact ⟨_, congrArg next (submit_ok ht ho), hp⟩

end Sys2Proof.Machine

namespace Sys2Proof.Machine

/-! ### Ports after an operation (R385, R391, R416) -/

theorem port_congr {s t : State} (h : t.bel = s.bel) (n : Nat) : port t n = port s n := by rw [port, port, h]
theorem port_modPort_self (s : State) (n : Nat) (f : Port → Port) : port (modPort s n f) n = f (port s n) := by simp [port, modPort, tget, tget_tset]
theorem port_modPort_ne (s : State) {n x : Nat} (h : x ≠ n) (f : Port → Port) : port (modPort s n f) x = port s x := by simp [port, modPort, tget, tget_tset, h]

/-- The dying sequence gates off P4 and P5 alone (R544). -/
theorem not_gated {s : State} {n : Nat} (h : isDying s = false ∨ n ≤ 3) : ¬(isDying s = true ∧ 4 ≤ n) := by
  rintro ⟨hy, h4⟩
  rcases h with h | h
  · rw [h] at hy; cases hy
  · omega

theorem showPort_host (s : State) (n : Nat) : HostOnly s (showPort s n) := (flagSet_host ..).trans (regSet_host ..)

/-- A port that takes its next frame keeps its link. -/
theorem Port.pop_link {p p' : Port} {f : NetFrame} (h : p.pop = some (f, p')) : p'.up = p.up ∧ p'.speed = p.speed := by
  unfold Port.pop at h
  split at h
  · cases h
    exact ⟨rfl, rfl⟩
  · obtain ⟨i, -, hi⟩ := List.mem_filterMap.mp (List.mem_of_head? h)
    split at hi
    · cases hi
      exact ⟨rfl, rfl⟩
    · cases hi

/-- A port that starts its next frame keeps its link. -/
theorem drainPort_link (s : State) (n : Nat) : (port (drainPort s n) n).up = (port s n).up ∧ (port (drainPort s n) n).speed = (port s n).speed := by
  unfold drainPort
  extract_lets p
  refine iteInduction (motive := fun t => (port t n).up = p.up ∧ (port t n).speed = p.speed) (fun _ => ?_) (fun _ => ⟨rfl, rfl⟩)
  split
  · next f p' hf =>
    extract_lets s1
    have h1 : port s1 n = { p' with busy := s.dev.ticks + frameTicks p.speed f.bytes } := port_modPort_self ..
    have h2 : port (bump { s1 with bel := { s1.bel with sent := (n, f.bytes) :: s1.bel.sent } } (R.belPTxOk n)) n = port s1 n :=
      port_congr (s := { s1 with bel := { s1.bel with sent := (n, f.bytes) :: s1.bel.sent } }) (bump_bel ..) n
    rw [h2, h1]
    obtain ⟨hu, hs⟩ := Port.pop_link hf
    exact ⟨hu, hs⟩
  · exact ⟨rfl, rfl⟩

/-! ### What frames sent move of Belfry (R391 to R396) -/

/-- Of Belfry, `t` differs from `o` in the ports, the counters of redundancy and the log of what was sent. -/
def EgressOnly (o t : State) : Prop := t.bel = { o.bel with ports := t.bel.ports, seqs := t.bel.seqs, sent := t.bel.sent }

section Egress
variable {o s : State} (h : EgressOnly o s)
include h

theorem EgressOnly.bel {t : State} (k : t.bel = { s.bel with ports := t.bel.ports, seqs := t.bel.seqs, sent := t.bel.sent }) : EgressOnly o t := by
  unfold EgressOnly at h
  rw [h] at k
  exact k

theorem EgressOnly.host {t : State} (k : HostOnly s t) : EgressOnly o t := h.bel (by rw [k.bel])

theorem EgressOnly.modPort {n : Nat} {f : Port → Port} : EgressOnly o (modPort s n f) := h.bel rfl

theorem EgressOnly.drainPort {n : Nat} : EgressOnly o (drainPort s n) := by
  unfold Machine.drainPort
  refine iteInduction (fun _ => ?_) (fun _ => h)
  split
  · next f p' _ =>
    extract_lets s1
    have h1 : EgressOnly o { s1 with bel := { s1.bel with sent := (n, f.bytes) :: s1.bel.sent } } := h.bel rfl
    exact h1.host (bump_host ..)
  · exact h

theorem EgressOnly.bellDrop {n : Nat} : EgressOnly o (bellDrop s n) :=
  have h1 := (h.host (bump_host ..)).host (flagSet_host ..)
  iteInduction (fun _ => h1) (fun _ => h1.modPort.host (raise_host ..))

theorem EgressOnly.bellPut {n : Nat} {f : NetFrame} : EgressOnly o (bellPut s n f) :=
  iteInduction (fun _ => h.modPort) (fun _ => iteInduction (fun _ => h.modPort.bellDrop) (fun _ => h.bellDrop))

theorem EgressOnly.egress {n q : Nat} {bell : Bool} {f : NetFrame} : EgressOnly o (egress s n bell q f) :=
  iteInduction (fun _ => EgressOnly.drainPort (iteInduction (fun _ => h.bellPut) (fun _ => h.modPort))) (fun _ => h)

theorem EgressOnly.sendOwn {f : OwnFrame} : EgressOnly o (sendOwn s f) :=
  List.foldlRecOn _ _ (h.bel rfl) fun _ k _ _ => k.egress

end Egress

/-! ### Faults of redundant pairs (R395) -/

/-- `t` has the time of `s`, and each port as `s` has it but for its fault. -/
structure FaultsOnly (s t : State) : Prop where
  dev : t.dev = s.dev
  port : ∀ x, ∃ b, port t x = { port s x with fault := b }

theorem FaultsOnly.refl (s : State) : FaultsOnly s s := ⟨rfl, fun x => ⟨(Machine.port s x).fault, rfl⟩⟩

section Faults
variable {o s : State} (h : FaultsOnly o s)
include h

theorem FaultsOnly.host {t : State} (k : HostOnly s t) : FaultsOnly o t :=
  ⟨k.dev.trans h.dev, fun x => by rw [port_congr k.bel]; exact h.port x⟩

theorem FaultsOnly.setFault {n : Nat} {b : Bool} : FaultsOnly o (modPort s n (fun p => { p with fault := b })) := by
  refine ⟨h.dev, fun x => ?_⟩
  obtain ⟨c, hc⟩ := h.port x
  by_cases hx : x = n
  · subst hx
    exact ⟨b, by rw [port_modPort_self, hc]⟩
  · exact ⟨c, by rw [port_modPort_ne s hx, hc]⟩

theorem FaultsOnly.lanFault {n : Nat} : FaultsOnly o (lanFault s n) :=
  iteInduction (fun _ => (h.setFault.host (flagSet_host ..)).host (raise_host ..)) (fun _ => h)

theorem FaultsOnly.lanCheck {pair : Nat} : FaultsOnly o (lanCheck s pair) :=
  iteInduction (fun _ => h) (fun _ =>
    have h1 := h.lanFault.lanFault
    iteInduction (fun _ => (h1.setFault.setFault.host (flagSet_host ..)).host (raise_host ..)) (fun _ => h1))

theorem FaultsOnly.up (x : Nat) : (Machine.port s x).up = (Machine.port o x).up := by
  obtain ⟨b, hb⟩ := h.port x
  rw [hb]

theorem FaultsOnly.heard (x : Nat) : heard s x = heard o x := by
  obtain ⟨b, hb⟩ := h.port x
  simp only [Machine.heard, elapsed, hb, h.dev]

theorem FaultsOnly.lanBad (x : Nat) : lanBad s x = lanBad o x := by
  obtain ⟨b, hb⟩ := h.port x
  simp only [Machine.lanBad, elapsed, h.heard, hb, h.dev]

end Faults

/-- Port `n` is marked: at fault, and the fault of its pair shown in BEL_STAT. -/
def LanMarked (s : State) (n : Nat) : Prop := (port s n).fault = true ∧ flag s R.belStat (2 + n / 2) = true

/-- A port is bad where its link is down or it is not heard while its fellow is; so never where it is up and heard. -/
theorem lanBad_of_heard {s : State} {n : Nat} (hu : (port s n).up = true) (hh : heard s n = true) : lanBad s n = false := by
  have he : elapsed s (port s n).lastRx (100 * msT) = false := by
    rw [heard, Bool.and_eq_true, Bool.not_eq_true'] at hh
    exact hh.2
  rw [lanBad, hu, he]
  rfl

section Mark
variable {s : State} {n : Nat}

theorem lanFault_same (h : lanBad s n = false ∨ (port s n).fault = true) : lanFault s n = s :=
  if_neg (by rcases h with h | h <;> simp [h])

theorem lanFault_found (hb : lanBad s n = true) (hf : (port s n).fault = false) : lanFault s n =
    raise 0x0B03 (flagSet (modPort s n (fun p => { p with fault := true })) R.belStat (2 + n / 2) true) (idx := n / 2) (items := [(1, n)]) :=
  if_pos (by rw [hb, hf]; rfl)

theorem port_lanFault_ne {x : Nat} (h : x ≠ n) : port (lanFault s n) x = port s x := by
  refine iteInduction (motive := fun t => port t x = port s x) (fun _ => ?_) (fun _ => rfl)
  rw [port_congr ((raise_bel ..).trans (flagSet_bel ..)), port_modPort_ne s h]

/-- Raising an event leaves BEL_STAT as it was. -/
theorem flag_raise_belStat (code : Nat) (s : State) (bay idx : Nat) (items : List (Nat × Nat)) (att : Option Att) (att2 : Att) (i : Nat) :
    flag (raise code s bay idx items att att2) R.belStat i = flag s R.belStat i := by
  rw [flag, flag, raise_regs _ _ _ _ _ _ _ _ (by decide)]

theorem lanFault_marks (hn : n ≤ 3) (hb : lanBad s n = true) (hf : (port s n).fault = false) : LanMarked (lanFault s n) n := by
  rw [lanFault_found hb hf]
  refine ⟨?_, ?_⟩
  · rw [port_congr ((raise_bel ..).trans (flagSet_bel ..)), port_modPort_self]
  · rw [flag_raise_belStat, flag_flagSet _ (by omega)]

/-- Marking the other port of a pair leaves a marked one marked. -/
theorem LanMarked.lanFault {x : Nat} (h : LanMarked s x) (hn : n ≤ 3) (hx : x ≠ n) (hp : x / 2 = n / 2) : LanMarked (lanFault s n) x := by
  obtain ⟨hf, hs⟩ := h
  refine ⟨by rw [port_lanFault_ne hx, hf], ?_⟩
  refine iteInduction (motive := fun t => flag t R.belStat (2 + x / 2) = true) (fun _ => ?_) (fun _ => hs)
  rw [flag_raise_belStat, hp, flag_flagSet _ (by omega)]

end Mark

/-- The bad ports of a pair marked. -/
def pairMarked (s : State) (p : Nat) : State := lanFault (lanFault s (2 * p)) (2 * p + 1)

/-- A pair that shows a fault has both links up and hears both. -/
abbrev PairHeals (s : State) (p : Nat) : Prop :=
  flag s R.belStat (2 + p) = true ∧ (port s (2 * p)).up = true ∧ (port s (2 * p + 1)).up = true ∧ heard s (2 * p) = true ∧ heard s (2 * p + 1) = true

/-- The fault of a pair cleared, with its event. -/
def pairHealed (s : State) (p : Nat) : State :=
  raise 0x0B04 (flagSet (modPort (modPort s (2 * p) (fun x => { x with fault := false })) (2 * p + 1) (fun x => { x with fault := false })) R.belStat (2 + p) false) (idx := p)

section Pair
variable {s : State} {p : Nat}

theorem pairMarked_faultsOnly : FaultsOnly s (pairMarked s p) := (FaultsOnly.refl s).lanFault.lanFault

theorem pairMarked_same (ha : lanBad s (2 * p) = false ∨ (port s (2 * p)).fault = true) (hb : lanBad s (2 * p + 1) = false ∨ (port s (2 * p + 1)).fault = true) :
    pairMarked s p = s := by
  rw [pairMarked, lanFault_same ha, lanFault_same hb]

/-- A bad port of a pair that was not at fault is marked. -/
theorem pairMarked_marks {x : Nat} (hp : p ≤ 1) (hx : x = 2 * p ∨ x = 2 * p + 1) (hb : lanBad s x = true) (hf : (port s x).fault = false) : LanMarked (pairMarked s p) x := by
  rcases hx with rfl | rfl
  · exact (lanFault_marks (by omega) hb hf).lanFault (by omega) (by omega) (by omega)
  · exact lanFault_marks (by omega) (((FaultsOnly.refl s).lanFault.lanBad _).trans hb) (by rw [port_lanFault_ne (by omega), hf])

/-- A pair with a bad port does not heal. -/
theorem not_pairHeals_of_lanBad {x : Nat} (hx : x = 2 * p ∨ x = 2 * p + 1) (hb : lanBad s x = true) : ¬PairHeals s p := by
  rintro ⟨-, ha, hb', ga, gb⟩
  rcases hx with rfl | rfl
  · exact Bool.false_ne_true ((lanBad_of_heard ha ga).symm.trans hb)
  · exact Bool.false_ne_true ((lanBad_of_heard hb' gb).symm.trans hb)

theorem pairHealed_clears (hp : p ≤ 1) : (port (pairHealed s p) (2 * p)).fault = false ∧ (port (pairHealed s p) (2 * p + 1)).fault = false ∧
    flag (pairHealed s p) R.belStat (2 + p) = false := by
  unfold pairHealed
  rw [port_congr ((raise_bel ..).trans (flagSet_bel ..)), port_congr ((raise_bel ..).trans (flagSet_bel ..)), port_modPort_ne _ (by omega), port_modPort_self, port_modPort_self,
    flag_raise_belStat, flag_flagSet _ (by omega)]
  exact ⟨rfl, rfl, rfl⟩

/-- The supervision of a redundant pair marks its bad ports, then clears a fault that is over. -/
theorem lanCheck_paired (hp : p ≤ 1) (hm : pairMode s (2 * p) ≠ 0) : lanCheck s p = if PairHeals (pairMarked s p) p then pairHealed (pairMarked s p) p else pairMarked s p := by
  refine (if_neg (by omega)).trans ?_
  simp only [Bool.and_eq_true, and_assoc]
  rfl

theorem lanFaultTimeout_off (h : 1 < p ∨ s.dev.mode = .boot ∨ pairMode s (2 * p) = 0) : exec (.lanFaultTimeout p) s = .next s := by
  show next (if s.dev.mode = .boot then s else lanCheck s p) = _
  by_cases hm : s.dev.mode = .boot
  · rw [if_pos hm]
  · rw [if_neg hm, lanCheck, if_pos (h.imp_right (Or.resolve_left · hm))]

variable (hp : p ≤ 1) (hm : s.dev.mode ≠ .boot) (hr : pairMode s (2 * p) ≠ 0)
include hp hm hr

theorem lanFaultTimeout_marks (h : ¬PairHeals (pairMarked s p) p) : exec (.lanFaultTimeout p) s = .next (pairMarked s p) := by
  refine congrArg next ((if_neg hm).trans ?_)
  rw [lanCheck_paired hp hr, if_neg h]

theorem lanFaultTimeout_heals (h : PairHeals s p) : exec (.lanFaultTimeout p) s = .next (pairHealed s p) := by
  obtain ⟨-, ua, ub, ga, gb⟩ := id h
  have hs : pairMarked s p = s := pairMarked_same (.inl (lanBad_of_heard ua ga)) (.inl (lanBad_of_heard ub gb))
  refine congrArg next ((if_neg hm).trans ?_)
  rw [lanCheck_paired hp hr, hs, if_pos h]

end Pair

/-! ### LINK_STATE_CHANGE (R384, R385) -/

section Link
variable {s : State} {n sp : Nat}

theorem linkStateChange_off (h : 5 < n ∨ s.dev.mode = .boot) (up : Bool) : exec (.linkStateChange n up sp) s = .next s := congrArg next (if_pos h)

theorem linkRise_up (s : State) (n sp : Nat) : (port (linkRise s n sp) n).up = true ∧ (port (linkRise s n sp) n).speed = sp := by
  unfold linkRise
  extract_lets s1
  have h1 : port s1 n = { port s n with up := true, speed := sp, lastRx := s.dev.ticks, got := false } := by
    rw [port_congr ((raise_bel ..).trans (showPort_host ..).bel), port_modPort_self]
  obtain ⟨b, hb⟩ := ((FaultsOnly.refl (drainPort s1 n)).lanCheck (pair := n / 2)).port n
  obtain ⟨hu, hs⟩ := drainPort_link s1 n
  rw [hb]
  exact ⟨by rw [hu, h1], by rw [hs, h1]⟩

theorem linkFall_down (s : State) (n : Nat) :
    (port (linkFall s n) n).up = false ∧ (port (linkFall s n) n).bell = [] ∧ (port (linkFall s n) n).qs = [[], [], [], []] := by
  unfold linkFall
  extract_lets down
  have h1 : port (raise 0x0B02 (showPort (modPort s n down) n) (idx := n)) n = down (port s n) := by
    rw [port_congr ((raise_bel ..).trans (showPort_host ..).bel), port_modPort_self]
  obtain ⟨b, hb⟩ := ((FaultsOnly.refl (raise 0x0B02 (showPort (modPort s n down) n) (idx := n))).lanCheck (pair := n / 2)).port n
  rw [hb, h1]
  exact ⟨rfl, rfl, rfl⟩

variable (hn : n ≤ 5) (hm : s.dev.mode ≠ .boot)
include hn hm

theorem linkStateChange_up : exec (.linkStateChange n true sp) s = .next (
    if speedOk (fld s (R.belPCfg n) 31 28) sp = true ∧ ((port s n).up = false ∨ (port s n).speed ≠ sp) ∧ ¬(isDying s = true ∧ 4 ≤ n) then linkRise s n sp else s) := by
  show execLinkStateChange n true sp s = _
  refine congrArg next ((if_neg (not_or.mpr ⟨Nat.not_lt.mpr hn, hm⟩)).trans ((if_pos rfl).trans ?_))
  simp only [Bool.and_eq_true, Bool.or_eq_true, Bool.not_eq_true', decide_eq_true_eq, and_assoc, Bool.and_eq_false_iff, decide_eq_false_iff_not, not_and_or, Bool.not_eq_true]

theorem linkStateChange_down : exec (.linkStateChange n false sp) s = .next (if (port s n).up then linkFall s n else s) :=
  congrArg next ((if_neg (not_or.mpr ⟨Nat.not_lt.mpr hn, hm⟩)).trans (if_neg Bool.false_ne_true))

end Link

/-! ### ETH_FRAME_RX (R385, R388 to R390) -/

/-- The longest frame, with its FCS, that a port takes. -/
def maxLen (s : State) (n : Nat) : Nat := if pairMode s n = 0 then 1522 else 1528

/-- A good frame counted and heard on its port, and its pair supervised. -/
def frameHeard (s : State) (n : Nat) : State := lanCheck (modPort (bump s (R.belPRxOk n)) n (fun p => { p with lastRx := s.dev.ticks, got := true })) (n / 2)

section Rx
variable {s : State} {n : Nat} {f : List Byte}

theorem ethFrameRx_off (h : 5 < n ∨ s.dev.mode = .boot ∨ (port s n).up = false ∨ 4 ≤ n ∧ isDying s = true) (ok : Bool) : exec (.ethFrameRx n f ok) s = .next s :=
  congrArg next (if_pos (by simpa using h))

theorem switchFrame_dropped (h : ∀ w, vlanEntry s (frameVlan s n (frameHead f)).1 = some w → bitOf w (18 + n) = false) : switchFrame s n f = bump s (R.belPRxDrop n) := by
  unfold switchFrame
  extract_lets hd v
  split
  · rfl
  · next w hw => exact if_pos (by rw [h w hw]; rfl)

theorem switchFrame_member {w : Nat} (hw : vlanEntry s (frameVlan s n (frameHead f)).1 = some w) (hb : bitOf w (18 + n) = true) : switchFrame s n f =
    (dests s n f (frameHead f) (frameVlan s n (frameHead f)).1 (bitsOf w 24 18)).foldl
      (fun st e => egress st e false (pcpQueue st (frameVlan s n (frameHead f)).2)
        ⟨retag f (frameHead f) (decide (pairMode s n = 2)) (bitOf w (25 + e)) (frameVlan s n (frameHead f)).1 (frameVlan s n (frameHead f)).2, false, false⟩)
      (learnMac s n (frameHead f) (frameVlan s n (frameHead f)).1) := by
  simp only [switchFrame, hw, hb]
  rfl

variable (hn : n ≤ 5) (hm : s.dev.mode ≠ .boot) (hu : (port s n).up = true) (hd : isDying s = false ∨ n ≤ 3)
include hn hm hu hd

theorem ethFrameRx_open (ok : Bool) : exec (.ethFrameRx n f ok) s = .next (
    if f.length + 4 < 64 ∨ maxLen s n < f.length + 4 then bump s (R.belPRxLen n)
    else if ok then switchFrame (frameHeard s n) n f else badFcs s n f) := by
  have hopen : ¬(5 < n ∨ s.dev.mode = .boot ∨ (!(port s n).up) = true ∨ 4 ≤ n ∧ isDying s = true) := by
    rintro (h | h | h | h)
    · omega
    · exact hm h
    · rw [hu] at h; cases h
    · exact not_gated hd h.symm
  refine congrArg next ((if_neg hopen).trans ?_)
  cases ok <;> rfl

theorem ethFrameRx_badLen (h : f.length + 4 < 64 ∨ maxLen s n < f.length + 4) (ok : Bool) : exec (.ethFrameRx n f ok) s = .next (bump s (R.belPRxLen n)) := by
  rw [ethFrameRx_open hn hm hu hd, if_pos h]

theorem ethFrameRx_sized (hl : 64 ≤ f.length + 4) (hx : f.length + 4 ≤ maxLen s n) (ok : Bool) :
    exec (.ethFrameRx n f ok) s = .next (if ok then switchFrame (frameHeard s n) n f else badFcs s n f) := by
  rw [ethFrameRx_open hn hm hu hd, if_neg (by omega)]

end Rx

/-! ### PRP_SUPERVISION_SEND (R393) -/

/-- PRP supervision is due: the part sends, a pair is in PRP mode, and 2 s have passed. -/
abbrev prpDue (s : State) : Prop := sends s = true ∧ (pairMode s 0 = 1 ∨ pairMode s 2 = 1) ∧ s.bel.supAt + 2 * secT ≤ s.dev.ticks

section Prp
variable {s : State}

/-- The pairs in PRP mode are some, where one of the two is. -/
theorem prpPairs_nonempty : (!([0, 1].filter (fun p => decide (pairMode s (2 * p) = 1))).isEmpty) = true ↔ pairMode s 0 = 1 ∨ pairMode s 2 = 1 := by
  by_cases h0 : pairMode s 0 = 1 <;> by_cases h2 : pairMode s 2 = 1 <;> simp [h0, h2]

theorem prpGuard_iff : (sends s && !([0, 1].filter (fun p => decide (pairMode s (2 * p) = 1))).isEmpty && elapsed s s.bel.supAt (2 * secT)) = true ↔ prpDue s := by
  rw [Bool.and_eq_true, Bool.and_eq_true, prpPairs_nonempty, elapsed, decide_eq_true_eq, and_assoc]

theorem prpSupervisionSend_same (h : ¬prpDue s) : exec .prpSupervisionSend s = .next s := if_neg (mt prpGuard_iff.mp h)

theorem prpSupervisionSend_due (h : prpDue s) : ∃ t, exec .prpSupervisionSend s = .next t ∧ t.bel.supAt = s.dev.ticks ∧ t.bel.supSeq = (s.bel.supSeq + 1) % 65536 := by
  have ht : ∃ t, exec .prpSupervisionSend s = .next t ∧ EgressOnly { s with bel := { s.bel with supAt := s.dev.ticks, supSeq := (s.bel.supSeq + 1) % 65536 } } t :=
    ⟨_, if_pos (prpGuard_iff.mpr h), List.foldlRecOn (motive := EgressOnly _) _ _ rfl fun _ k _ _ => k.sendOwn⟩
  obtain ⟨t, he, hb⟩ := ht
  exact ⟨t, he, (congrArg Bel.supAt hb :), (congrArg Bel.supSeq hb :)⟩

end Prp

/-- Settles O54: links by what rising and falling leave of their port, frames by the check that answers them, pairs by what their supervision marks and clears. -/
theorem portsSwitchAndSupervise : Obligations.PortsSwitchAndSupervise := by
  unfold Obligations.PortsSwitchAndSupervise
  refine fun s => ⟨fun n hn hm => ⟨fun sp hs hc hd => ?rise, fun sp h => ?stays, fun sp hu => ?fall, fun sp hu => ?isDown⟩, fun n up sp h => linkStateChange_off h up,
    fun n f ok hn hm hu hd => ⟨fun h => ethFrameRx_badLen hn hm hu hd h ok, fun hl hx => ⟨ethFrameRx_sized hn hm hu hd hl hx false, ?good⟩⟩, fun n f ok h => ethFrameRx_off h ok,
    ?pair, fun p h => lanFaultTimeout_off h, fun hs hp ht => prpSupervisionSend_due ⟨hs, hp, ht⟩, fun h => ?notDue, rfl⟩
  case rise =>
    rw [linkStateChange_up hn hm, if_pos ⟨hs, hc, not_gated hd⟩]
    exact ⟨_, rfl, linkRise_up s n sp⟩
  case stays =>
    rw [linkStateChange_up hn hm, if_neg]
    rintro ⟨hs, hc, hd⟩
    rcases h with h | ⟨hu, hp⟩ | h
    · rw [hs] at h; cases h
    · rcases hc with hc | hc
      · rw [hu] at hc; cases hc
      · exact hc hp
    · exact hd h
  case fall =>
    rw [linkStateChange_down hn hm, if_pos hu]
    exact ⟨_, rfl, linkFall_down s n⟩
  case isDown => rw [linkStateChange_down hn hm, hu]; rfl
  case good =>
    rintro u h v rfl rfl rfl
    rw [ethFrameRx_sized hn hm hu hd hl hx true, if_pos rfl]
    refine ⟨fun hv => ?_, fun w hw => ⟨fun hb => ?_, fun hb => congrArg next (switchFrame_member hw hb)⟩⟩
    · exact congrArg next (switchFrame_dropped fun w hw => nomatch hv.symm.trans hw)
    · exact congrArg next (switchFrame_dropped fun w' hw' => by rwa [← Option.some.inj (hw.symm.trans hw')])
  case pair =>
    rintro p a hp hm hr rfl
    refine ⟨fun x hx hb hf => ?_, fun hs ha hb ga gb => ?_, fun ha hb h => ?_⟩
    · have hbad : lanBad (pairMarked s p) x = true := (pairMarked_faultsOnly.lanBad x).trans hb
      obtain ⟨hf', hs'⟩ := pairMarked_marks hp hx hb hf
      rw [show x / 2 = p by omega] at hs'
      exact ⟨_, lanFaultTimeout_marks hp hm hr (not_pairHeals_of_lanBad hx hbad), hf', hs'⟩
    · exact ⟨_, lanFaultTimeout_heals hp hm hr ⟨hs, ha, hb, ga, gb⟩, pairHealed_clears hp⟩
    · have hsame := pairMarked_same ha hb
      have hnot : ¬PairHeals (pairMarked s p) p := by
        rw [hsame]
        rintro ⟨hs, ua, ub, ga, gb⟩
        simp [hs, ua, ub, ga, gb] at h
      rw [lanFaultTimeout_marks hp hm hr hnot, hsame]
  case notDue =>
    refine prpSupervisionSend_same fun ⟨hs, hp, ht⟩ => ?_
    rcases h with h | ⟨h0, h2⟩ | h
    · rw [hs] at h; cases h
    · exact hp.elim h0 h2
    · exact Nat.not_lt.mpr ht h

end Sys2Proof.Machine

namespace Sys2Proof.Machine

/-! ### CELL_SPLIT and CELL_JOIN (R439) -/

section Accepted
variable (s : State) (op : Nat) (e : CmdEntry) (i : Nat)

@[simp] theorem accepted_nGroups : nGroups (accepted s op e i) = nGroups s := by rw [accepted_eq]; rfl
@[simp] theorem accepted_grp (g : Nat) : grp (accepted s op e i) g = grp s g := by rw [accepted_eq]; rfl
@[simp] theorem accepted_hostOf (g : Nat) : hostOf (accepted s op e i) g = hostOf s g := by rw [accepted_eq]; rfl
@[simp] theorem accepted_posFailed (g p : Nat) : posFailed (accepted s op e i) g p = posFailed s g p := by rw [accepted_eq]; rfl
@[simp] theorem accepted_memberMask (g : Nat) : memberMask (accepted s op e i) g = memberMask s g := by rw [accepted_eq]; rfl
@[simp] theorem accepted_formBusy (g : Nat) : formBusy (accepted s op e i) g = formBusy s g := by rw [accepted_eq]; rfl

end Accepted

/-- The positions that make the form of a group, in ascending order. -/
def members (s : State) (g : Nat) : List Nat := setBits 3 (memberMask s g)

/-- Whether a split is refused for the mode (R439): BOOT, SAFE, or a group of two positions in a sealed mode. -/
def splitBarred (s : State) (g : Nat) : Prop := s.dev.mode = .boot ∨ s.dev.mode = .safe ∨ (isSealed s = true ∧ g < nGroups s ∧ (members s g).length = 2)

/-- The position that a CELL_SPLIT names; 0xFF names the highest that makes the form. -/
def splitPosOf (s : State) (e : CmdEntry) : Nat := if field e.params 2 1 = 0xFF then (members s (field e.params 0 2)).getLastD 0 else field e.params 2 1

section Split
variable {s : State} {e : CmdEntry} {cid : Nat}

theorem cellSplitOwn_badMode (h : splitBarred s (field e.params 0 2)) : cellSplitOwn e cid s = .rejAfter s stBadMode := if_pos h

variable (hm : ¬splitBarred s (field e.params 0 2))
include hm

theorem cellSplitOwn_badParam (h : 1 < field e.params 3 1 ∨ nGroups s ≤ field e.params 0 2 ∨ hostOf s (field e.params 0 2) = none ∨ (members s (field e.params 0 2)).length ≤ 1 ∨
    splitPosOf s e ∉ members s (field e.params 0 2)) : cellSplitOwn e cid s = .rejAfter s stBadParam :=
  (if_neg hm).trans (if_pos (by simpa [members, splitPosOf] using h))

variable (hf : field e.params 3 1 ≤ 1) (hg : field e.params 0 2 < nGroups s) (hh : (hostOf s (field e.params 0 2)).isSome = true)
  (hl : 1 < (members s (field e.params 0 2)).length) (hp : splitPosOf s e ∈ members s (field e.params 0 2))
include hf hg hh hl hp

/-- A split of a position that may leave goes by what its group has pending. -/
theorem cellSplitOwn_placed : cellSplitOwn e cid s = if formBusy s (field e.params 0 2) then .rejAfter s stBusy
    else putForm s (field e.params 0 2) false (splitPosOf s e) (bitOf (field e.params 3 1) 0) cid := by
  refine (if_neg hm).trans (if_neg ?_)
  rintro (h | h | h | h | h)
  · exact absurd h (Nat.not_lt.mpr hf)
  · exact absurd hg (Nat.not_lt.mpr h)
  · simp [Option.isNone_eq_false_iff.mpr hh] at h
  · exact absurd hl (Nat.not_lt.mpr h)
  · exact absurd hp (by simpa [members, splitPosOf] using h)

theorem cellSplitOwn_busy (h : formBusy s (field e.params 0 2) = true) : cellSplitOwn e cid s = .rejAfter s stBusy := by
  rw [cellSplitOwn_placed hm hf hg hh hl hp, if_pos h]

theorem cellSplitOwn_waits (h : formBusy s (field e.params 0 2) = false) :
    cellSplitOwn e cid s = putForm s (field e.params 0 2) false (splitPosOf s e) (bitOf (field e.params 3 1) 0) cid := by
  rw [cellSplitOwn_placed hm hf hg hh hl hp, if_neg (by simp [h])]

end Split

/-- Whether a position may not join its group (R439). -/
def joinBarred (s : State) (g p : Nat) : Prop :=
  nGroups s ≤ g ∨ hostOf s g = none ∨ 2 < p ∨ bitOf (memberMask s g) p = true ∨ bitOf (grp s g).fixed p = true ∨ (grp s g).dbg = some p ∨ posFailed s g p = true

section Join
variable {s : State} {e : CmdEntry} {cid : Nat}

theorem cellJoinOwn_badMode (h : s.dev.mode = .boot ∨ s.dev.mode = .safe) : cellJoinOwn e cid s = .rejAfter s stBadMode := if_pos h

/-- A join in a mode that allows it: the position is judged, then what its group has pending. -/
theorem cellJoinOwn_judged (hm : ¬(s.dev.mode = .boot ∨ s.dev.mode = .safe)) : (joinBarred s (field e.params 0 2) (field e.params 2 1) → cellJoinOwn e cid s = .rejAfter s stBadParam) ∧
    (¬joinBarred s (field e.params 0 2) (field e.params 2 1) → cellJoinOwn e cid s = if formBusy s (field e.params 0 2) then .rejAfter s stBusy
      else putForm s (field e.params 0 2) true (field e.params 2 1) false cid) := by
  have hc : (nGroups s ≤ field e.params 0 2 ∨ (hostOf s (field e.params 0 2)).isNone = true ∨ 2 < field e.params 2 1 ∨
      (!(!bitOf (memberMask s (field e.params 0 2)) (field e.params 2 1) && !bitOf (grp s (field e.params 0 2)).fixed (field e.params 2 1) &&
        decide ((grp s (field e.params 0 2)).dbg ≠ some (field e.params 2 1)) && !posFailed s (field e.params 0 2) (field e.params 2 1))) = true) ↔
      joinBarred s (field e.params 0 2) (field e.params 2 1) := by
    simp [joinBarred, or_assoc]
  exact ⟨fun h => (if_neg hm).trans (if_pos (hc.mpr h)), fun h => (if_neg hm).trans (if_neg (mt hc.mp h))⟩

end Join

/-! ### CELL_FORM_CHANGE (R439, R440) -/

theorem formChange_none {s : State} {g : Nat} (h : (grp s g).form = none ∨ (hostOf s g).bind (bay? s) = none) (ok : Bool) : exec (.cellFormChange g ok) s = .next s := by
  show next (formChange s g ok) = _
  rcases h with h | h
  · simp only [formChange, h]
  · cases hf : (grp s g).form <;> simp only [formChange, hf, h]

/-- The form of a group changed at its boundary: the position leaves, rejoins, or fails its check. -/
def formTaken (u : State) (g : Nat) (f : FormReq) (att : Att) (ok : Bool) : State :=
  if f.join then
    if ok then complete (raise 0x080A (showLks (joinPos u g f.pos)) (idx := g) (items := [(1, f.pos)]) (att := some att)) f.cid stOk att
    else complete (bump u R.lksResyncFailCnt) f.cid stInternal Att.zero
  else complete (raise 0x0809 (showLks (splitPos u g f.pos f.obs)) (idx := g) (items := [(1, f.pos)]) (att := some att)) f.cid stOk att

section FormChange
variable {s : State} {g : Nat} {f : FormReq} (hf : (grp s g).form = some f) (hb : ((hostOf s g).bind (bay? s)).isSome = true)
include hf hb

theorem formChange_eq (ok : Bool) : exec (.cellFormChange g ok) s =
    .next (if now s < f.at_ ∨ groupBusy s g = true then s else formTaken (modGrp s g (fun x => { x with form := none })) g f (nextInstant s g) ok) := by
  obtain ⟨b, hb⟩ := Option.isSome_iff_exists.mp hb
  show next (formChange s g ok) = _
  simp only [formChange, hf, hb]
  rfl

theorem formChange_waits (h : now s < f.at_ ∨ groupBusy s g = true) (ok : Bool) : exec (.cellFormChange g ok) s = .next s := by
  rw [formChange_eq hf hb, if_pos h]

theorem formChange_taken (ht : f.at_ ≤ now s) (hg : groupBusy s g = false) (ok : Bool) :
    exec (.cellFormChange g ok) s = .next (formTaken (modGrp s g (fun x => { x with form := none })) g f (nextInstant s g) ok) := by
  rw [formChange_eq hf hb, if_neg]
  rintro (h | h)
  · exact absurd h (Nat.not_lt.mpr ht)
  · rw [hg] at h; cases h

end FormChange

/-! ### RESYNC_CHECK_DONE (R432, R433) -/

/-- A group after a good check of a position, whether or not it hosts a bay. -/
def checkPassed (hosted : Bool) (p : Nat) (x : Grp) : Grp :=
  { x with resync := maskOf 3 (fun i => bitOf x.resync i && decide (i ≠ p)), fresh := if hosted then Nat.lor x.fresh (2 ^ p) else x.fresh }

section Resync
variable {s : State} {g p : Nat}

theorem resyncCheckDone_same (h : 3 ≤ p ∨ bitOf (grp s g).resync p = false ∨ partRuns s = false) (ok : Bool) : exec (.resyncCheckDone g p ok) s = .next s := by
  refine if_neg ?_
  rcases h with h | h | h
  · simp [Nat.not_lt.mpr h]
  all_goals simp [h]

variable (hp : p < 3) (hr : bitOf (grp s g).resync p = true) (hs : partRuns s = true)
include hp hr hs

theorem resyncCheckDone_bad : exec (.resyncCheckDone g p false) s = .next (cfgKick (showLks (resyncFail s g p (nextInstant s g)))) := if_pos (by simp [hp, hr, hs])

theorem resyncCheckDone_good : ∃ t, exec (.resyncCheckDone g p true) s = .next t ∧ bitOf (grp t g).resync p = false := by
  refine ⟨cfgKick (showLks (modGrp s g (checkPassed (hostOf s g).isSome p))), if_pos (by simp [hp, hr, hs]), ?_⟩
  have hP := samePlaces_blind (modGrp s g (checkPassed (hostOf s g).isSome p))
  rw [(hP.to_cfgKick (hP.host (.refl _) (showLks_host _))).grp g, grp_modGrp, checkPassed, bitOf_maskOf _ hp]
  simp

end Resync

/-! ### Debug attach and detach (R442, R443) -/

theorem dbgMay_iff (s : State) : dbgMay s = true ↔ s.dev.mode = .test ∧ ∃ g, s.sec.grant = some g ∧ bitOf g.scope 0 = true := by
  cases h : s.sec.grant <;> simp [dbgMay, h]

theorem showDbg_host (s : State) : HostOnly s (showDbg s) := (regSet_host ..).trans (flagSet_host ..)

section DbgCtl
variable {s : State}

theorem lksDbg_unreached (h : hostReach s = false) : (∀ cell, exec (.lksDbgAttach cell) s = .next s) ∧ exec .lksDbgDetach s = .next s := by
  have hn : ¬hostReach s = true := by simp [h]
  exact ⟨fun _ => congrArg next (if_neg hn), congrArg next (if_neg hn)⟩

variable (hh : hostReach s = true)
include hh

theorem lksDbgAttach_asked {cell : Nat} (hm : dbgMay s = true) (hc : cell < nCells s) (hd : s.cfg.dbgCell = none) (hq : s.cfg.dbgReq = none) : exec (.lksDbgAttach cell) s =
    .next (showDbg { fldSet s R.lksDbgCtl 8 0 cell with cfg := { s.cfg with dbgReq := some (true, cell) } }) :=
  congrArg next ((if_pos hh).trans (if_pos ⟨hc, hm, by simp [hd], by simp [hq]⟩))

theorem lksDbgAttach_refused {cell : Nat} (h : dbgMay s = false ∨ nCells s ≤ cell ∨ s.cfg.dbgCell.isSome = true ∨ s.cfg.dbgReq.isSome = true) :
    exec (.lksDbgAttach cell) s = .next (flagSet s R.lksStat 0 true) := by
  refine congrArg next ((if_pos hh).trans (if_neg ?_))
  rintro ⟨hc, hm, hd, hq⟩
  rcases h with h | h | h | h
  · rw [hm] at h; cases h
  · exact absurd hc (Nat.not_lt.mpr h)
  · simp [Option.isNone_iff_eq_none.mp hd] at h
  · simp [Option.isNone_iff_eq_none.mp hq] at h

theorem lksDbgDetach_asked (hm : dbgMay s = true) :
    exec .lksDbgDetach s = .next (showDbg { s with cfg := { s.cfg with dbgReq := s.cfg.dbgCell.map (fun c => (false, c)) } }) :=
  congrArg next ((if_pos hh).trans (if_neg (by simp [hm])))

theorem lksDbgDetach_refused (hm : dbgMay s = false) : exec .lksDbgDetach s = .next (flagSet s R.lksStat 0 true) :=
  congrArg next ((if_pos hh).trans (if_pos (by simp [hm])))

end DbgCtl

/-! ### DEBUG_ATTACH_EFFECT (R442, R443) -/

/-- `s` is `o` in the attached cell, in what is asked of it, and in the groups. -/
structure SameAttach (o s : State) : Prop where
  cell : s.cfg.dbgCell = o.cfg.dbgCell
  req : s.cfg.dbgReq = o.cfg.dbgReq
  grps : s.cfg.grps = o.cfg.grps

theorem SameAttach.refl (o : State) : SameAttach o o := ⟨rfl, rfl, rfl⟩

theorem SameAttach.grp {o s : State} (h : SameAttach o s) (g : Nat) : grp s g = grp o g := by simp only [Machine.grp, h.grps]

theorem sameAttach_blind (o : State) : MigBlind (SameAttach o) where
  host h k := ⟨by rw [k.cfg, h.cell], by rw [k.cfg, h.req], by rw [k.cfg, h.grps]⟩
  migs h e := by rw [e]; exact ⟨h.cell, h.req, h.grps⟩
  causes h e := by rw [e]; exact ⟨h.cell, h.req, h.grps⟩

/-- What an attach or a detach shows, reports and logs once it has taken effect. -/
theorem SameAttach.reported {o s : State} (h : SameAttach o s) {code g cell k : Nat} {att : Att} :
    SameAttach o (showSpares (showDbg (showLks (raise code s (idx := g) (items := [(k, cell)]) (att := some att))))) :=
  have hP := sameAttach_blind o
  hP.to_showSpares (hP.host (hP.host (hP.to_raise h) (showLks_host _)) (showDbg_host _))

/-- `t` has `cell` attached or none, no request that waits, and `pos` as the attached position of group `g`. -/
structure Attached (t : State) (cell : Option Nat) (g : Nat) (pos : Option Nat) : Prop where
  cell : t.cfg.dbgCell = cell
  req : t.cfg.dbgReq = none
  pos : (grp t g).dbg = pos

theorem Attached.same {o t : State} {cell pos : Option Nat} {g : Nat} (h : Attached o cell g pos) (k : SameAttach o t) : Attached t cell g pos :=
  ⟨k.cell.trans h.cell, k.req.trans h.req, by rw [k.grp, h.pos]⟩

/-- A group changed in what is not its attached position. -/
theorem Attached.modGrp {t : State} {cell pos : Option Nat} {g : Nat} (h : Attached t cell g pos) {f : Grp → Grp} (hf : (f (grp t g)).dbg = (grp t g).dbg) :
    Attached (modGrp t g f) cell g pos :=
  ⟨h.cell, h.req, by rw [grp_modGrp, hf, h.pos]⟩

theorem Attached.ite {t u : State} {cell pos : Option Nat} {g : Nat} {c : Prop} [Decidable c] (ht : Attached t cell g pos) (hu : Attached u cell g pos) :
    Attached (if c then t else u) cell g pos := by
  split
  · exact ht
  · exact hu

theorem Attached.joinPos {t : State} {cell pos : Option Nat} {g : Nat} (h : Attached t cell g pos) (p : Nat) : Attached (joinPos t g p) cell g pos := by
  unfold Machine.joinPos
  exact h.modGrp rfl

theorem debugEffect_none {s : State} (h : s.cfg.dbgReq = none) (ok : Bool) : exec (.debugAttachEffect ok) s = .next s := by
  show next (dbgEffect s ok) = _
  simp only [dbgEffect, h]

section DbgEffect
variable {s : State} {cell : Nat}

theorem debugEffect_waits {a : Bool} (hq : s.cfg.dbgReq = some (a, cell)) (h : groupBusy s (cell / 3) = true ∨ a = true ∧ (grp s (cell / 3)).form.isSome = true) (ok : Bool) :
    exec (.debugAttachEffect ok) s = .next s := by
  show next (dbgEffect s ok) = _
  simp only [dbgEffect, hq]
  exact congrArg next (if_pos (by simpa using h))

variable (hb : groupBusy s (cell / 3) = false)
include hb

theorem debugEffect_attaches (hq : s.cfg.dbgReq = some (true, cell)) (hf : (grp s (cell / 3)).form = none) (ok : Bool) :
    ∃ t, exec (.debugAttachEffect ok) s = .next t ∧ Attached t (some cell) (cell / 3) (some (cell % 3)) := by
  refine ⟨dbgEffect s ok, rfl, ?_⟩
  simp only [dbgEffect, hq, hb, hf, Bool.false_or, Bool.true_and, Option.isSome_none, Bool.false_eq_true, if_false, if_true]
  refine Attached.same ?_ ((sameAttach_blind _).host (.reported (.refl _)) (appendLog_host ..))
  refine Attached.modGrp ⟨rfl, rfl, ?_⟩ rfl
  rw [grp_modGrp]

theorem debugEffect_detaches (hq : s.cfg.dbgReq = some (false, cell)) (ok : Bool) :
    ∃ t, exec (.debugAttachEffect ok) s = .next t ∧ Attached t none (cell / 3) none := by
  refine ⟨dbgEffect s ok, rfl, ?_⟩
  simp only [dbgEffect, hq, hb, Bool.false_or, Bool.false_and, Bool.false_eq_true, if_false]
  set s2 : State := modGrp { s with cfg := { s.cfg with dbgReq := none, dbgCell := none } } (cell / 3) fun x => { x with dbg := none }
  have h2 : Attached s2 none (cell / 3) none := ⟨rfl, rfl, by rw [grp_modGrp]⟩
  refine Attached.same ?_ ((sameAttach_blind _).host ((sameAttach_blind _).to_cfgKick (.reported (.refl _))) (appendLog_host ..))
  exact .ite (.ite ((h2.joinPos _).modGrp rfl) (h2.same ((sameAttach_blind _).to_bump (.refl _)))) (h2.modGrp rfl)

end DbgEffect

/-- Settles O46: each command by its owning rule, each boundary by its lemma above. -/
theorem cellsLeaveAndRejoinTheirGroup : Obligations.CellsLeaveAndRejoinTheirGroup := by
  unfold Obligations.CellsLeaveAndRejoinTheirGroup
  refine ⟨fun s => ⟨?split, ?join, fun g ok h => formChange_none h ok, ?form, ?resync, fun g p ok h => resyncCheckDone_same h ok⟩,
    fun s => ⟨?attach, fun cell hh h => lksDbgAttach_refused hh h, dbgMay_iff s, ?detach, lksDbgDetach_refused, lksDbg_unreached, fun ok h => debugEffect_none h ok,
      ?attaches, ?detaches, fun ok a cell hq h => debugEffect_waits hq h ok⟩⟩
  case split =>
    rintro e i g p h rfl rfl
    have hbar : splitBarred (accepted s 0x50 e i) (field e.params 0 2) ↔
        s.dev.mode = .boot ∨ s.dev.mode = .safe ∨ (isSealed s = true ∧ field e.params 0 2 < nGroups s ∧ (setBits 3 (memberMask s (field e.params 0 2))).length = 2) := by
      simp [splitBarred, members, accepted_isSealed]
    refine ⟨fun hm => congrArg next (submit_rej h (by decide) (cellSplitOwn_badMode (hbar.mpr hm))), fun h1 h2 h3 => ?_⟩
    have hm : ¬splitBarred (accepted s 0x50 e i) (field e.params 0 2) := by
      rw [hbar]
      exact not_or.mpr ⟨h1, not_or.mpr ⟨h2, h3⟩⟩
    refine ⟨fun hbad => congrArg next (submit_rej h (by decide) (cellSplitOwn_badParam hm (by simpa [members, splitPosOf] using hbad))), fun hf hg hh hl hp => ?_⟩
    have hga : field e.params 0 2 < nGroups (accepted s 0x50 e i) := by simpa using hg
    have hha : (hostOf (accepted s 0x50 e i) (field e.params 0 2)).isSome = true := by simpa using hh
    have hla : 1 < (members (accepted s 0x50 e i) (field e.params 0 2)).length := by simpa [members] using hl
    have hpa : splitPosOf (accepted s 0x50 e i) e ∈ members (accepted s 0x50 e i) (field e.params 0 2) := by simpa [members, splitPosOf] using hp
    refine ⟨fun hw => ?_, fun hw => ?_⟩
    · exact congrArg next (submit_rej h (by decide) (cellSplitOwn_busy hm hf hga hha hla hpa (by simpa using hw)))
    · have ho := cellSplitOwn_waits (cid := s.hif.nextCid) hm hf hga hha hla hpa (by simpa using hw)
      simp only [putForm, splitPosOf, members, accepted_memberMask, accepted_now] at ho
      exact congrArg next (submit_later h ho)
  case join =>
    rintro e i g p h rfl rfl
    refine ⟨fun hm => congrArg next (submit_rej h (by decide) (cellJoinOwn_badMode (by simpa using hm))), fun h1 h2 => ?_⟩
    obtain ⟨hbad, hmay⟩ := cellJoinOwn_judged (s := accepted s 0x51 e i) (e := e) (cid := s.hif.nextCid) (by simp [h1, h2])
    refine ⟨fun hb => congrArg next (submit_rej h (by decide) (hbad (by simpa [joinBarred] using hb))), fun hg hh hp hc hx hd hk => ?_⟩
    have ho := hmay (by simp [joinBarred, hg, Option.isSome_iff_ne_none.mp hh, hp, hc, hx, hd, hk])
    refine ⟨fun hw => ?_, fun hw => ?_⟩
    · rw [if_pos (by simpa using hw)] at ho
      exact congrArg next (submit_rej h (by decide) ho)
    · rw [if_neg (by simp [hw]), putForm, accepted_now] at ho
      exact congrArg next (submit_later h ho)
  case form =>
    intro g f ok hf hb
    refine ⟨fun h => formChange_waits hf hb h ok, ?_⟩
    rintro u ht hg rfl
    have h := formChange_taken hf hb ht hg ok
    refine ⟨fun hj => ?_, fun hj ho => ?_, fun hj ho => ?_⟩
    · rw [h, formTaken, if_neg (by simp [hj])]
    · rw [h, formTaken, if_pos hj, if_pos ho]
    · rw [h, formTaken, if_pos hj, if_neg (by simp [ho])]
  case resync => exact fun g p hp hr hs => ⟨resyncCheckDone_good hp hr hs, resyncCheckDone_bad hp hr hs⟩
  case attach =>
    exact fun cell g hh hm hg hb hc hd hq => ⟨_, lksDbgAttach_asked hh ((dbgMay_iff s).mpr ⟨hm, g, hg, hb⟩) hc hd hq, rfl, rfl⟩
  case detach => exact fun hh hm => ⟨_, lksDbgDetach_asked hh hm, rfl, rfl⟩
  case attaches =>
    intro ok cell hq hb hf
    obtain ⟨t, ht, ha⟩ := debugEffect_attaches hb hq hf ok
    exact ⟨t, ht, ha.cell, ha.req, ha.pos⟩
  case detaches =>
    intro ok cell hq hb
    obtain ⟨t, ht, ha⟩ := debugEffect_detaches hb hq ok
    exact ⟨t, ht, ha.cell, ha.req, ha.pos⟩

end Sys2Proof.Machine

namespace Sys2Proof.Machine

/-- Settles O1: the queue of a step is the one given, with `c` at its front. -/
theorem stepRunsFrontCommand : Obligations.StepRunsFrontCommand := fun _ _ _ => rfl

/-- Settles O56: every operation that `exec` is built from keeps the queue (`exec_kept`). -/
theorem everyCommandCompletes : Obligations.EveryCommandCompletes := fun c s => by
  obtain ⟨t, ht, hk⟩ := exec_kept c (Kept.rfl' s)
  exact ⟨t, ht, hk.queue⟩

/-! ### Entries written to rings (R487, R488, R491, R500) -/

/-- Settles O3: each owning rule completes with OK, and its completion is one put that the log does not see. -/
theorem nopAndIdentifyWriteOneEntry : Obligations.NopAndIdentifyWriteOneEntry := by
  intro s e i r hr hl
  refine ⟨fun h => ?nop, fun h => ?identify⟩
  case nop => exact ⟨_, congrArg next (submit_ok h rfl), okCpl_put hr hl (by decide)⟩
  case identify =>
    have hid : identifyOwn e s.hif.nextCid (accepted s 0x02 e i) = .ok (accepted s 0x02 e i) Att.zero
        (leBytes 2 (if s.dev.part7264 then 0x7264 else 0x7296) ++ leBytes 1 0xA1 ++ leBytes 1 s.dev.mode.code ++ leBytes 4 s.otp.unitId ++ leBytes 4 s.sec.libVer
          ++ leBytes 2 (nBays s) ++ leBytes 2 (nCells s)) := by
      simp [identifyOwn, partNum, nBays, nCells]
    exact ⟨_, congrArg next (submit_ok h hid), okCpl_put hr hl (by decide)⟩

/-- The phase turns exactly when the index wraps. -/
theorem phase_turned_iff (p : Bool) (n : Nat) : (if n = 0 then !p else p) = p ↔ n ≠ 0 := by
  split <;> simp [*]

/-- Settles O4: what a put does to memory and to its ring (`ringPut_put`), read back. -/
theorem ringEntryCarriesPhaseBit : Obligations.RingEntryCarriesPhaseBit := by
  intro s i r ent hr hl hw
  have hp := ringPut_put (ent := ent) hr hl
  have hlen := slotBytes_length r ent
  refine ⟨?reads, fun x hx => ?kept, ?ring⟩
  case reads =>
    have := memReadBytes_memWriteBytes (bs := slotBytes r ent) (a := r.base + 64 * r.part) hw
    rwa [hlen, ← hp.mem] at this
  case kept => rw [hp.mem, memRead_memWriteBytes hw, hlen, if_neg (by omega)]
  case ring =>
    obtain ⟨r', hr', hpart, hphase, -⟩ := hp.ring
    exact ⟨r', hr', hpart, by rw [hphase]; exact phase_turned_iff ..⟩

/-- Settles O5: the checks of R491 come before the owning rule. -/
theorem commandChecksRefuse : Obligations.CommandChecksRefuse := by
  intro s op e i named hc hr
  refine ⟨fun c hop hb => ?_, fun hop => ?_⟩
  · simp only [takeCommand, hop]
    exact submit_bad hc hr hb
  · simp only [takeCommand, hop, submitUnknown, hc, hr, reserve_eq, if_true]
    rfl
end Sys2Proof.Machine

namespace Sys2Proof.Machine

/-! ### The fetch of commands and its failures (R491, R505): `Obligations.CommandFetchTakesOrHalts` -/

/-- An event moves no register but its own two counters, as a lemma about one register. -/
theorem regGet_raise {a : Nat} (h : a ∉ evtRegs) (code : Nat) (s : State) (bay idx : Nat) (items : List (Nat × Nat)) (att : Option Att) (att2 : Att) :
    regGet (raise code s bay idx items att att2) a = regGet s a := raise_regs _ _ _ _ _ _ _ a h

theorem regGet_dmaError (s : State) (ring addr : Nat) : regGet (dmaError s ring addr) R.hifDmaErr = capN (2 ^ 32 - 1) (regGet s R.hifDmaErr + 1) := by
  rw [dmaError, regGet_raise (by decide), regGet_flagSet_ne _ (by decide), regGet_bump]

/-- `t` has ring `i` halted, no command of it fetched, and one DMA error more than `s` counted. -/
structure Halted (s t : State) (i : Nat) : Prop where
  ring : ∃ r', tget? t.hif.rings i = some r' ∧ r'.halted = true
  none : mayFetch t i = false
  count : regGet t R.hifDmaErr = capN (2 ^ 32 - 1) (regGet s R.hifDmaErr + 1)

/-- A failed read of the entries of a CMD ring that holds some halts it. -/
theorem haltRing_halts {s : State} {i : Nat} {r : HostRing} (hr : tget? s.hif.rings i = some r) (hk : r.kind = .cmd) (hp : r.part ≠ r.host) (hh : r.halted = false) :
    Halted s (haltRing s i) i := by
  have he : HifEvt (flagSet (bump s R.hifDmaErr) R.hifStat 3 true) (dmaError s i (r.base + 64 * r.part)) := raise_evt ..
  obtain ⟨r', hr', -⟩ := he.ring (i := i) (r := r) hr
  have hs : haltRing s i = modRing (dmaError s i (r.base + 64 * r.part)) i (fun x => { x with halted := true }) := by
    simp [haltRing, hr, hk, hp, hh]
  have ht : tget? (haltRing s i).hif.rings i = some { r' with halted := true } := by simp [hs, modRing, hr', tget_tset]
  refine ⟨⟨_, ht, rfl⟩, by simp [mayFetch, ht], ?_⟩
  rw [hs, regGet, modRing_regs, ← regGet, regGet_dmaError]

/-- A ring of which a command may be fetched is a CMD ring that holds entries and is not halted. -/
theorem mayFetch_ring {s : State} {i : Nat} {r : HostRing} (h : mayFetch s i = true) (hr : tget? s.hif.rings i = some r) :
    r.kind = .cmd ∧ r.part ≠ r.host ∧ r.halted = false := by
  simp only [mayFetch, hr, Bool.and_eq_true, decide_eq_true_eq, Bool.not_eq_true'] at h
  obtain ⟨⟨⟨⟨hk, hp⟩, hh⟩, -⟩, -⟩ := h
  exact ⟨hk, hp, hh⟩

theorem nextRing_mayFetch {s : State} {i : Nat} (h : nextRing s = some i) : mayFetch s i = true := by
  have := List.find?_some h
  exact this

/-- Settles O13: the fetch of the ring served next, and the four ways in which a read fails. -/
theorem commandFetchTakesOrHalts : Obligations.CommandFetchTakesOrHalts := by
  intro s i r hl hp hr
  refine ⟨fun hf hn => ?takes, fun hf hn => ?fails, fun hk hi hh => ?timeout, fun op e addr k h => ?param⟩
  case takes =>
    have : ¬256 ≤ s.hif.inflight.length := by omega
    simp [exec, execCommandFetch, hl, hp, this, hn, hr]
  case fails =>
    have : ¬256 ≤ s.hif.inflight.length := by omega
    obtain ⟨hk, hi, hh⟩ := mayFetch_ring (nextRing_mayFetch hn) hr
    have hx := haltRing_halts (s := { s with hif := { s.hif with lastServed := i } }) hr hk hi hh
    exact ⟨_, by simp [exec, execCommandFetch, hl, hp, this, hn], hx.none, hx.count⟩
  case timeout =>
    have hx := haltRing_halts hr hk hi hh
    obtain ⟨r', hr', hh'⟩ := hx.ring
    exact ⟨_, r', by simp [exec, execDmaCompletionTimeout, hl, hp], hr', hh', hx.none, hx.count⟩
  case param =>
    have hs := submit_rej (op := op) (own := dmaFailOwn addr) (st := stBadParam) h (by decide) rfl
    simp [exec, execDmaCompletionTimeout, hl, hp, hs]

/-! ### The audit log (R508 to R510): `Obligations.LogIsAHashChain` -/

/-- An entry that finds no place in the hold is counted (R510). -/
theorem logDrop_counts (s : State) : (logDrop s).hif.logLost = s.hif.logLost + 1 ∧ regGet (logDrop s) R.hifLogDrop = capN (2 ^ 32 - 1) (regGet s R.hifLogDrop + 1) :=
  ⟨rfl, regGet_bump ..⟩

/-- With the hold full a chained entry is dropped. -/
theorem logChained_full {s : State} (kind b9 b10 b12 : Nat) (h : 1024 ≤ s.hif.logHold.length) : logChained s kind b9 b10 b12 = logDrop s := if_pos h

/-- Without nine places in the hold the CHECKPOINT is dropped and the 10 s begin again (log entry 101). -/
theorem logCheckpoint_full {s : State} (h : 1015 < s.hif.logHold.length) :
    logCheckpoint s = logDrop { s with hif := { s.hif with logCount := 0, logSince := s.hif.logSince.map (fun _ => s.dev.ticks) } } := if_pos h

theorem execLogCheckpoint_due {s : State} {t0 : Nat} (hs : s.hif.logSince = some t0) (ht : t0 + 10 * secT ≤ s.dev.ticks) : exec .logCheckpoint s = .next (logCheckpoint s) := by
  simp [exec, execLogCheckpoint, hs, elapsed, ht]

/-- Settles O15: the chain while the hold has room, and the CHECKPOINT with and without room. -/
theorem logIsAHashChain : Obligations.LogIsAHashChain := by
  refine ⟨fun s kind b9 b10 b12 h => logChained_chain kind b9 b10 b12 h, fun s kind b9 b10 b12 h => ?full, fun s t0 hs ht => ⟨fun h => ?covers, fun h => ?drops⟩, fun s h => ?early⟩
  case full =>
    rw [logChained_full kind b9 b10 b12 h]
    exact ⟨rfl, rfl, logDrop_counts s⟩
  case covers =>
    obtain ⟨hsince, hcount⟩ := logCheckpoint_cover h
    exact ⟨_, execLogCheckpoint_due hs ht, hsince, hcount, (logCheckpoint_host s).dev⟩
  case drops =>
    refine ⟨_, execLogCheckpoint_due hs ht, ?_⟩
    rw [logCheckpoint_full h, hs]
    exact ⟨rfl, rfl, rfl, (logDrop_counts _).2, rfl, rfl⟩
  case early =>
    rcases h with h | ⟨t0, h, ht⟩
    · simp [exec, execLogCheckpoint, h]
    · simp [exec, execLogCheckpoint, h, elapsed, ht]

/-! ### MSI-X (R497): `Obligations.MsixFiresOrPends` -/

/-- Firing a vector changes the host island's rings and its messages alone. -/
theorem fireVector_eq (s : State) (v : Nat) : fireVector s v = { s with hif := (fireVector s v).hif } := by
  unfold fireVector; dsimp only; split <;> rfl

/-- A vector that is not masked sends one message while messages can go out. -/
theorem fireVector_sends {s : State} {v : Nat} (hm : bitOf s.hif.msixMasked v = false) (hl : linkOk s = true) :
    (fireVector s v).hif.msixSent = tmod 0 s.hif.msixSent v (· + 1) ∧ (fireVector s v).hif.msixPending = s.hif.msixPending := by
  simp [fireVector, hm, hl]

/-- A vector that is masked, or whose message cannot go out, pends. -/
theorem fireVector_pends {s : State} {v : Nat} (h : bitOf s.hif.msixMasked v = true ∨ linkOk s = false) :
    bitOf (fireVector s v).hif.msixPending v = true ∧ (fireVector s v).hif.msixSent = s.hif.msixSent := by
  have hc : (bitOf s.hif.msixMasked v || !linkOk s) = true := by simpa using h
  simp only [fireVector, hc, if_true, and_true]
  split
  · assumption
  · exact bitOf_add_two_pow (by simp_all)

theorem tget_tmod {α : Type} (d : α) (t : Tab α) (k x : Nat) (f : α → α) : tget d (tmod d t k f) x = if x = k then f (tget d t k) else tget d t x := by
  simp only [tmod, tget, tget_tset]
  split <;> rfl

/-- The one set bit of a power of two. -/
theorem setBits_two_pow (n v : Nat) : setBits n (2 ^ v) = if v < n then [v] else [] := by
  have hb : ∀ i, bitOf (2 ^ v) i = decide (v = i) := fun i => by rw [bitOf_eq_testBit, Nat.testBit_two_pow]
  induction n with
  | zero => rfl
  | succ n ih =>
    simp only [setBits, hb] at ih
    simp only [setBits, hb, List.range_succ, List.filter_append, ih]
    rcases Nat.lt_trichotomy v n with h | h | h
    · simp [h, Nat.ne_of_lt h, Nat.lt_succ_of_lt h]
    · simp [h]
    · simp [Nat.ne_of_gt h, Nat.not_lt_of_gt h, Nat.not_lt_of_ge h]

/-- What was pending goes out without touching a mask. -/
theorem sendPending_masked (s : State) : (sendPending s).hif.msixMasked = s.hif.msixMasked :=
  foldl_keeps (fun s => s.hif.msixMasked) (fun st v => by dsimp only; split <;> rfl) _ s

/-- One vector pending, not masked, while messages can go out: it alone sends. -/
theorem sendPending_one {s : State} {v : Nat} (hv : v < 128) (hl : linkOk s = true) (hm : bitOf s.hif.msixMasked v = false) (hp : s.hif.msixPending = 2 ^ v) :
    sendPending s = { s with hif := { s.hif with msixPending := 0, msixSent := tmod 0 s.hif.msixSent v (· + 1) } } := by
  rw [sendPending, hp, setBits_two_pow, if_pos hv]
  simp [hl, hm, hp]

theorem execMsixVectorUnmask_unmasks {s : State} {v : Nat} (hv : v < 128) (hr : hostReach s = true) (hm : bitOf s.hif.msixMasked v = true) :
    exec (.msixVectorUnmask v) s = .next (sendPending { s with hif := { s.hif with msixMasked := s.hif.msixMasked - 2 ^ v } }) := congrArg next (if_pos ⟨hv, hr, hm⟩)

/-- Settles O10: a vector that asks fires, which sends or pends; an unmasked vector sends what pends. -/
theorem msixFiresOrPends : Obligations.MsixFiresOrPends := by
  intro s
  refine ⟨fun i r hr ha => ?fires, fun i h => ?quiet, fun v hv hr hm => ⟨?unmasks, fun hl hp => ?sends⟩, fun v h => ?nothing⟩
  case fires =>
    have he : exec (.msixModerationExpiry i) s = .next (fireVector s r.vec) := by simp [exec, execMsixModerationExpiry, askVector, hr, ha]
    refine ⟨_, he, fun j x hx => fireVector_ring hx, fireVector_eq s r.vec, fun hm hl => ?_, fireVector_pends⟩
    obtain ⟨hsent, hpend⟩ := fireVector_sends hm hl
    refine ⟨by rw [hsent, tget_tmod, if_pos rfl], fun v hv => by rw [hsent, tget_tmod, if_neg hv], hpend⟩
  case quiet =>
    rcases h with h | ⟨r, h, ha⟩
    · simp [exec, execMsixModerationExpiry, askVector, h]
    · simp [exec, execMsixModerationExpiry, askVector, h, ha]
  case unmasks =>
    exact ⟨_, execMsixVectorUnmask_unmasks hv hr hm, sendPending_masked _, by rw [sendPending_masked]; exact bitOf_sub_two_pow hm⟩
  case sends =>
    refine ⟨_, execMsixVectorUnmask_unmasks hv hr hm, sendPending_masked _, ?_⟩
    rw [sendPending_one (s := { s with hif := { s.hif with msixMasked := s.hif.msixMasked - 2 ^ v } }) hv hl (bitOf_sub_two_pow hm) hp]
    exact ⟨rfl, by rw [tget_tmod, if_pos rfl]⟩
  case nothing =>
    refine congrArg next (if_neg ?_)
    rintro ⟨hv, hr, hm⟩
    rcases h with h | h | h
    · omega
    · simp [hr] at h
    · simp [hm] at h

end Sys2Proof.Machine

namespace Sys2Proof.Machine

/-! ### Doorbells (R485): `Obligations.DoorbellsTakenOrCounted` -/

theorem doorbell_beyond {s : State} {ring : Nat} (h : 127 < ring) (value : Nat) : doorbell s ring value = bump s R.hifBadAccess := if_pos h

/-- The doorbell's register holds the 32 bits written (log entry 16). -/
def doorbellNoted (s : State) (ring value : Nat) : State := { s with hif := { s.hif with doorbells := tset s.hif.doorbells ring (value % 2 ^ 32) } }

/-- A ring with its head at `idx` and the entries before it released. -/
def HostRing.released (r : HostRing) (idx : Nat) : HostRing := { r with host := idx, used := r.used - (idx + r.size - r.host) % r.size }

section Doorbell
variable {s : State} {ring value : Nat} {r : HostRing}

/-- A doorbell in range of a CMD ring sets the tail. -/
theorem doorbell_cmd (hn : ring ≤ 127) (hr : tget? s.hif.rings ring = some r) (hk : r.kind = .cmd) (hv : value % 65536 < 2 ^ r.n) :
    doorbell s ring value = { s with hif := { (doorbellNoted s ring value).hif with rings := tset s.hif.rings ring { r with host := value % 65536 } } } := by
  have hn' : ¬127 < ring := by omega
  have hok : doorbellOk r (value % 65536) = true := by simp [doorbellOk, HostRing.size, hv, hk]
  simp only [doorbell, hn', if_false, hr, hok, Bool.not_true, Bool.false_eq_true, hk, if_true, modRing]
  rfl

/-- A doorbell in range of a part-to-host ring releases what lies before the head; a LOG ring is then filled from the hold. -/
theorem doorbell_head (hn : ring ≤ 127) (hr : tget? s.hif.rings ring = some r) (hk : r.kind ≠ .cmd) (hv : value % 65536 < 2 ^ r.n)
    (hu : (value % 65536 + 2 ^ r.n - r.host) % 2 ^ r.n ≤ r.used) {u : State}
    (h : u = { s with hif := { (doorbellNoted s ring value).hif with rings := tset s.hif.rings ring (r.released (value % 65536)) } }) :
    doorbell s ring value = if r.kind = .log then logRoom u else u := by
  have hn' : ¬127 < ring := by omega
  have hok : doorbellOk r (value % 65536) = true := by simp [doorbellOk, HostRing.size, hv, hu]
  subst h
  simp only [doorbell, hn', if_false, hr, hok, Bool.not_true, Bool.false_eq_true, hk, modRing]
  rfl

/-- A doorbell of no ring, out of range, or that would release entries not yet written is ignored and counted. -/
theorem doorbell_bad (hn : ring ≤ 127)
    (h : tget? s.hif.rings ring = none ∨ ∃ r, tget? s.hif.rings ring = some r ∧ (2 ^ r.n ≤ value % 65536 ∨ (r.kind ≠ .cmd ∧ r.used < (value % 65536 + 2 ^ r.n - r.host) % 2 ^ r.n))) :
    doorbell s ring value = badDoorbell (doorbellNoted s ring value) ring value := by
  have hn' : ¬127 < ring := by omega
  rcases h with h | ⟨r, hr, h⟩
  · simp only [doorbell, hn', if_false, h]
    rfl
  · have hok : doorbellOk r (value % 65536) = false := by
      rcases h with h | ⟨hk, hu⟩
      · have : ¬value % 65536 < r.size := Nat.not_lt.mpr h
        simp [doorbellOk, this]
      · have : ¬(value % 65536 + r.size - r.host) % r.size ≤ r.used := Nat.not_le.mpr hu
        simp [doorbellOk, hk, this]
    simp only [doorbell, hn', if_false, hr, hok, Bool.not_false, if_true]
    rfl

end Doorbell

/-- What an ignored doorbell leaves in the registers. -/
theorem badDoorbell_regs (s : State) (ring value : Nat) :
    regGet (badDoorbell s ring value) R.hifBadDb = capN (2 ^ 32 - 1) (regGet s R.hifBadDb + 1) ∧ flag (badDoorbell s ring value) R.hifStat 2 = true := by
  constructor
  · rw [badDoorbell, raise_regs _ _ _ _ _ _ _ _ (by decide), regGet_flagSet_ne _ (by decide), regGet_bump]
  · rw [flag, badDoorbell, raise_regs _ _ _ _ _ _ _ _ (by decide)]
    exact flag_flagSet _ (by decide)

theorem retryWaiting_empty {s : State} (h : s.hif.waiting = []) : retryWaiting s = s := by
  simp only [retryWaiting, h, List.foldl_nil]
  rw [← h]

theorem execCmdDoorbell_reached {s : State} (h : hostReach s = true) (ring value : Nat) : exec (.cmdDoorbell ring value) s = .next (doorbell s ring value) := congrArg next (if_pos h)

theorem execHeadDoorbell_reached {s : State} (h : hostReach s = true) (ring value : Nat) : exec (.headDoorbell ring value) s = .next (retryWaiting (doorbell s ring value)) :=
  congrArg next (if_pos h)

/-- Settles O9: each doorbell by the lemma of its case. -/
theorem doorbellsTakenOrCounted : Obligations.DoorbellsTakenOrCounted := by
  refine ⟨fun s ring value => ⟨fun h => ⟨congrArg next (if_neg (by simp [h])), congrArg next (if_neg (by simp [h]))⟩, fun h hn => ?beyond⟩,
    fun s ring value h hn => ⟨fun r hr hk hv => ?tail, fun r hr hk hl hv hu hw => ?head, fun r u hr hk hv hu he => ?release, fun hb => ?bad⟩⟩
  case beyond =>
    rw [execCmdDoorbell_reached h, execHeadDoorbell_reached h, doorbell_beyond hn]
    exact ⟨rfl, rfl⟩
  case tail =>
    refine ⟨_, execCmdDoorbell_reached h ring value, ?_⟩
    rw [doorbell_cmd hn hr hk hv]
    exact ⟨by simp [tget_tset], rfl⟩
  case head =>
    refine ⟨_, execHeadDoorbell_reached h ring value, ?_⟩
    rw [doorbell_head hn hr hk hv hu rfl, if_neg hl, retryWaiting_empty (by exact hw)]
    exact ⟨by simp [tget_tset, HostRing.released, HostRing.size], rfl⟩
  case release => rw [execHeadDoorbell_reached h, doorbell_head hn hr hk hv hu he]
  case bad =>
    have hx := doorbell_bad hn hb
    obtain ⟨hcnt, hflag⟩ := badDoorbell_regs (doorbellNoted s ring value) ring value
    refine ⟨_, flagSet (bump (doorbellNoted s ring value) R.hifBadDb) R.hifStat 2 true, execCmdDoorbell_reached h ring value, execHeadDoorbell_reached h ring value, ?_, rfl, ?_, ?_⟩
    · rw [hx]; rfl
    · rw [hx]; exact hcnt
    · rw [hx]; exact hflag

/-! ### Rings created and destroyed (R495, R496): `Obligations.RingCreateAndDestroyComplete` -/

/-- A ring that takes nothing held is put in place, and that is all. -/
theorem ringReady_plain {s : State} {i : Nat} {r : HostRing} (he : r.kind ≠ .evt) (hl : r.kind ≠ .log) :
    ringReady s i r = { s with hif := { s.hif with rings := tset s.hif.rings i r, doorbells := tset s.hif.doorbells i 0 } } := by
  unfold ringReady
  cases hk : r.kind <;> simp_all

/-- Settles O6: the owning rules of RING_CREATE and RING_DESTROY on an entry in order. -/
theorem ringCreateAndDestroyComplete : Obligations.RingCreateAndDestroyComplete := by
  rintro s e i k r rfl h2 h127
  refine ⟨fun h hn hr => ⟨?created, ?host, ?part, ?phase, ringReady_plain, ?filled⟩, fun h hr hne hni hfl hb => ?destroyed⟩
  case created =>
    refine congrArg next (submit_ok h ?_)
    have : ¬(field e.params 0 1 < 2 ∨ 127 < field e.params 0 1 ∨ (tget? (accepted s 0x04 e i).hif.rings (field e.params 0 1)).isSome = true) := by
      rw [accepted_ring_none h hn]; simp; omega
    simp only [ringCreateOwn, this, if_false, hr]
  case host => exact (ringOf_new hr).1
  case part => exact (ringOf_new hr).2.1
  case phase => exact (ringOf_new hr).2.2
  case filled =>
    rintro u v rfl
    refine ⟨fun hk => ?_, fun hk hv => ?_⟩
    · simp only [ringReady, hk]
    · subst hv; simp only [ringReady, hk]
  case destroyed =>
    have hfind : (accepted s 0x05 e i).hif.inflight.find? (fun f => decide (f.cid = s.hif.nextCid)) = some (flightOf s 0x05 e i) := by
      rw [accepted_inflight, List.find?_append, List.find?_eq_none.mpr (fun f hf => by simpa using hfl f hf)]
      simp [flightOf]
    have hmine : (decide ((flightOf s 0x05 e i).ring = field e.params 0 1) || decide ((flightOf s 0x05 e i).cpl = field e.params 0 1)) = false := by
      simp [flightOf, Ne.symm hne, Ne.symm hni]
    refine ⟨_, congrArg next (submit_ok h (u := { accepted s 0x05 e i with hif := { (accepted s 0x05 e i).hif with
      rings := terase (accepted s 0x05 e i).hif.rings (field e.params 0 1),
      gone := if r.kind = .evt then Nat.lor (accepted s 0x05 e i).hif.gone r.mask else (accepted s 0x05 e i).hif.gone } }) ?_), rfl, rfl⟩
    have hlo : ¬field e.params 0 1 < 2 := by omega
    have hhi : ¬127 < field e.params 0 1 := by omega
    simp only [ringDestroyOwn, hr, hfind, hmine, hlo, hhi, decide_false, Bool.or_false, Bool.false_eq_true, if_false, hb]

/-! ### Rings 0 and 1, and the link (R482, R494, R565): `Obligations.AdminRingsAndLinkComplete` -/

/-- ADMIN_EN with rings 0 and 1 free puts both in place. -/
theorem adminEnable_creates {s : State} (h0 : tget? s.hif.rings 0 = none) :
    ∃ r0 r1, tget? (adminEnable s).hif.rings 0 = some r0 ∧ tget? (adminEnable s).hif.rings 1 = some r1 ∧ r0.kind = .cmd ∧ r1.kind = .cpl ∧ r0.dflt = 1 ∧
      r0.base = regGet s R.hifAdminCmdHi * 2 ^ 32 + regGet s R.hifAdminCmdLo ∧ r1.base = regGet s R.hifAdminCplHi * 2 ^ 32 + regGet s R.hifAdminCplLo ∧
      r0.n = fld s R.hifAdminCfg 11 8 ∧ r1.n = fld s R.hifAdminCfg 7 4 ∧ r1.vec = fld s R.hifAdminCfg 23 16 ∧ flag (adminEnable s) R.hifCtl 0 = true := by
  refine ⟨HostRing.new .cmd (fld s R.hifAdminCfg 11 8) (regGet s R.hifAdminCmdHi * 2 ^ 32 + regGet s R.hifAdminCmdLo) 0xFF 1 0 1 0,
    HostRing.new .cpl (fld s R.hifAdminCfg 7 4) (regGet s R.hifAdminCplHi * 2 ^ 32 + regGet s R.hifAdminCplLo) (fld s R.hifAdminCfg 23 16) 1 0 0 0, ?_⟩
  have he : adminEnable s = flagSet (ringReady (ringReady s 0 (HostRing.new .cmd (fld s R.hifAdminCfg 11 8) (regGet s R.hifAdminCmdHi * 2 ^ 32 + regGet s R.hifAdminCmdLo) 0xFF 1 0 1 0)) 1
      (HostRing.new .cpl (fld s R.hifAdminCfg 7 4) (regGet s R.hifAdminCplHi * 2 ^ 32 + regGet s R.hifAdminCplLo) (fld s R.hifAdminCfg 23 16) 1 0 0 0)) R.hifCtl 0 true := if_neg (by simp [h0])
  rw [he, flagSet_hif, ringReady_plain (by simp [HostRing.new]) (by simp [HostRing.new]), ringReady_plain (by simp [HostRing.new]) (by simp [HostRing.new])]
  exact ⟨by simp [tget_tset], by simp [tget_tset], rfl, rfl, rfl, rfl, rfl, rfl, rfl, rfl, flag_flagSet _ (by decide)⟩

/-- Registers written one after another, each with a word of its own, hold these words. -/
theorem regGet_foldl_regSet (f : Nat → Nat) {l : List Nat} {a : Nat} (ha : a ∈ l) (s : State) : regGet (l.foldl (fun st a => regSet st a (f a)) s) a = f a % 2 ^ 32 := by
  induction l generalizing s with
  | nil => cases ha
  | cons x l ih =>
    by_cases h : a ∈ l
    · exact ih h _
    · obtain rfl : a = x := by simpa [h] using ha
      rw [List.foldl_cons, foldl_regSet_regs (List.Subset.refl l) f _ a h, regGet_regSet, if_pos rfl]

/-- The reset of the host island's registers clears admin_en. -/
theorem resetHost_adminEn (s : State) : flag (resetHost s) R.hifCtl 0 = false := by
  rw [resetHost_eq, flag_flagSet_ne _ (by decide), flag, regGet_foldl_regSet _ (by decide)]
  decide +kernel

theorem execPerstAssert_eq (s : State) (down : Bool) : exec (.perstAssert down) s = .next { s with hif := { s.hif with perst := s.hif.perst || !down, linkUp := false } } := rfl

/-- Settles O8: the two admin rings, the reset, and the four changes of the link. -/
theorem adminRingsAndLinkComplete : Obligations.AdminRingsAndLinkComplete := by
  intro s
  refine ⟨fun hr h0 _ => ?enables, fun hr h0 => ?enabled, fun hr => ?resets, fun hr => ⟨congrArg next (if_neg (by simp [hr])), congrArg next (if_neg (by simp [hr]))⟩,
    execPerstAssert_eq s, fun hl hp => ?linkUp, fun hl => congrArg next (if_pos hl), rfl, fun hr => congrArg next (if_neg (by simpa [hostReach] using hr))⟩
  case enables =>
    obtain ⟨r0, r1, h⟩ := adminEnable_creates h0
    exact ⟨_, r0, r1, congrArg next (if_pos hr), h⟩
  case enabled => exact congrArg next ((if_pos hr).trans (if_pos h0))
  case resets =>
    have hrest := resetHost_rest s
    refine ⟨resetHost s, congrArg next (if_pos hr), congrArg next (if_pos hr), ?_, ?_, ?_, resetHost_adminEn s, ?_⟩ <;> rw [hrest] <;> rfl
  case linkUp =>
    refine ⟨resetHost { s with hif := { s.hif with linkUp := true, perst := false, power := .d0 } }, congrArg next ((if_neg (by simp [hl])).trans (if_pos hp)), ?_⟩
    rw [resetHost_rest]
    exact ⟨rfl, rfl, rfl, rfl, rfl⟩

end Sys2Proof.Machine

namespace Sys2Proof.Machine

/-! ### The data port's reads and its address (R511, R512, R516): `Obligations.UnderrunKeepsTheAddress` -/

/-- The data port's address is what its two registers hold. -/
theorem dpcAddr_congr {s t : State} (hlo : regGet t R.dpcAddrLo = regGet s R.dpcAddrLo) (hhi : regGet t R.dpcAddrHi = regGet s R.dpcAddrHi) : dpcAddr t = dpcAddr s := by
  simp only [dpcAddr, fld, hlo, hhi]

theorem dpcAddr_lt (s : State) : dpcAddr s < 2 ^ 40 := by
  have hhi : fld s R.dpcAddrHi 7 0 < 2 ^ (7 + 1 - 0) := bitsOf_lt ..
  have hlo := regGet_lt s R.dpcAddrLo
  unfold dpcAddr
  omega

/-- An access moves the address on by its length, modulo 2^40 (R511). -/
theorem dpcAddr_dpcAdvance (s : State) (n : Nat) : dpcAddr (dpcAdvance s n) = (dpcAddr s + n) % 2 ^ 40 := by
  have hlo : regGet (dpcAdvance s n) R.dpcAddrLo = (dpcAddr s + n) % 2 ^ 40 % 2 ^ 32 := by
    rw [dpcAdvance, regGet_regSet_ne _ (by decide), regGet_regSet, if_pos rfl, Nat.mod_mod]
  have hhi : regGet (dpcAdvance s n) R.dpcAddrHi = (dpcAddr s + n) % 2 ^ 40 / 2 ^ 32 % 2 ^ 32 := by rw [dpcAdvance, regGet_regSet, if_pos rfl]
  rw [dpcAddr, fld, hlo, hhi, bitsOf]
  omega

theorem dpcTakes_words {len : Nat} (h0 : 0 < len) (h256 : len ≤ 256) (h4 : len % 4 = 0) : dpcTakes len true = true := by simp [dpcTakes, h0, h256, h4]

/-- What an underrun leaves before its event goes out. -/
def dpcUnderrunNoted (s : State) (len : Nat) : State :=
  bump (flagSet { s with hif := { s.hif with dportData := List.replicate (len / 4) 0 } } R.dpcStat 0 true) R.dpcUnderrunCnt

/-- An underrun's event goes out at most once per second. -/
theorem dpcUnderrun_eq (s : State) (len : Nat) : ∃ due : Bool, dpcUnderrun s len =
    if due then raise 0x0D05 { dpcUnderrunNoted s len with hif := { (dpcUnderrunNoted s len).hif with dpEvt := some s.dev.ticks } } (items := [(8, dpcAddr s)])
    else dpcUnderrunNoted s len := ⟨_, rfl⟩

/-- The event moves no register of the data port and none of the words answered. -/
theorem dpcUnderrun_noted (s : State) (len : Nat) :
    (dpcUnderrun s len).hif.dportData = List.replicate (len / 4) 0 ∧ ∀ a, a ∉ evtRegs → regGet (dpcUnderrun s len) a = regGet (dpcUnderrunNoted s len) a := by
  obtain ⟨due, h⟩ := dpcUnderrun_eq s len
  rw [h]
  cases due with
  | false => exact ⟨rfl, fun _ _ => rfl⟩
  | true => exact ⟨(raise_evt _ _ _ _ _ _ _).dportData, fun a ha => raise_regs _ _ _ _ _ _ _ a ha⟩

theorem regGet_dpcUnderrunNoted {a : Nat} (hs : a ≠ R.dpcStat) (hc : a ≠ R.dpcUnderrunCnt) (s : State) (len : Nat) : regGet (dpcUnderrunNoted s len) a = regGet s a := by
  rw [dpcUnderrunNoted, regGet_bump_ne _ hc, regGet_flagSet_ne _ hs]
  rfl

/-- Settles O11: the words, the flag, the count and the address after `dpcUnderrun`. -/
theorem underrunKeepsTheAddress : Obligations.UnderrunKeepsTheAddress := by
  intro s len hr h0 h256 h4
  obtain ⟨hdata, hregs⟩ := dpcUnderrun_noted s len
  refine ⟨dpcUnderrun s len, congrArg next (if_pos ⟨hr, dpcTakes_words h0 h256 h4⟩), hdata, ?flag, ?count, dpcAddr_congr ?lo ?hi⟩
  case flag =>
    rw [flag, hregs _ (by decide), dpcUnderrunNoted, regGet_bump_ne _ (by decide)]
    exact flag_flagSet _ (by decide)
  case count =>
    rw [hregs _ (by decide), dpcUnderrunNoted, regGet_bump, regGet_flagSet_ne _ (by decide)]
    rfl
  case lo => rw [hregs _ (by decide), regGet_dpcUnderrunNoted (by decide) (by decide)]
  case hi => rw [hregs _ (by decide), regGet_dpcUnderrunNoted (by decide) (by decide)]

/-! ### One word written through the data port (R137, R187, R513): `Obligations.DataPortAddressAdvances` -/

/-- What the words of a write have met, shown in DPC_STAT and its counter and raised (R513). -/
def wrNoted (r : State × WrNote) : State :=
  let s1 := if r.2.rej then bump (flagSet r.1 R.dpcStat 2 true) R.dpcWrRejCnt else r.1
  let s2 := if r.2.err then flagSet s1 R.dpcStat 1 true else s1
  match r.2.seal_ with | some a => sealedWrite s2 a true | none => s2

theorem dportWrite_eq (s : State) (data : List Byte) (en : Bool) : dportWrite s data en =
    if !dpcTakes data.length en then bump s R.hifBadAccess
    else dpcAdvance (wrNoted ((enumFrom0 (dpcWords s data.length)).foldl (fun acc p => intPut acc.1 acc.2 p.2 (field data (4 * p.1) 4)) (s, ⟨false, false, none⟩))) data.length := rfl

/-- An access of one word reaches the address alone. -/
theorem dpcWords_one (s : State) : dpcWords s 4 = [dpcAddr s] := by simpa [dpcWords] using dpcAddr_lt s

/-- One word goes to its region, and the address moves on by 4. -/
theorem dportWrite_word {s : State} {data : List Byte} (hd : data.length = 4) {u : State} {x : WrNote} {g : Region} (hg : regionOf s (dpcAddr s) = g)
    (h : intPutIn s ⟨false, false, none⟩ (dpcAddr s) (field data 0 4) g = (u, x)) :
    dportWrite s data true = dpcAdvance (wrNoted (u, x)) 4 := by
  have he : enumFrom0 [dpcAddr s] = [(0, dpcAddr s)] := rfl
  rw [dportWrite_eq, hd, dpcWords_one, if_neg (by decide), he, List.foldl_cons, List.foldl_nil, intPut, Nat.mul_zero, hg, h]

theorem wrNoted_rejected (u : State) : wrNoted (u, ⟨true, false, none⟩) = bump (flagSet u R.dpcStat 2 true) R.dpcWrRejCnt := rfl
theorem wrNoted_undecoded (u : State) : wrNoted (u, ⟨false, true, none⟩) = flagSet u R.dpcStat 1 true := rfl
theorem wrNoted_stored (u : State) : wrNoted (u, ⟨false, false, none⟩) = u := rfl

/-- Bytes read as a number and written again are the bytes. -/
theorem leBytes_leVal (bs : List Byte) : leBytes bs.length (leVal bs) = bs := by
  induction bs with
  | nil => rfl
  | cons b bs ih =>
    have hlt := b.isLt
    have hdiv : (b.toNat + 256 * leVal bs) / 256 = leVal bs := by omega
    have hb : BitVec.ofNat 8 (b.toNat + 256 * leVal bs) = b := BitVec.eq_of_toNat_eq (by rw [BitVec.toNat_ofNat]; omega)
    rw [List.length_cons, leBytes, leVal, hdiv, ih, hb]

theorem leBytes_field {data : List Byte} {n : Nat} (h : data.length = n) : leBytes n (field data 0 n) = data := by
  subst h
  have : slice data 0 data.length = data := by simp [slice]
  rw [field, this, leBytes_leVal]

/-- Four bytes written to DRAM read back, each at its offset. -/
theorem tget_dramPut {data : List Byte} (hd : data.length = 4) (t : Tab Byte) (o j : Nat) (hj : j < 4) :
    tget? ((enumFrom0 (leBytes 4 (field data 0 4))).foldl (fun t p => tset t (o + p.1) p.2) t) (o + j) = data[j]? := by
  rw [leBytes_field hd]
  obtain ⟨a, b, c, d, rfl⟩ : ∃ a b c d, data = [a, b, c, d] := List.length_eq_four.mp hd
  have he : enumFrom0 [a, b, c, d] = [(0, a), (1, b), (2, c), (3, d)] := rfl
  rw [he]
  simp only [List.foldl_cons, List.foldl_nil, tget_tset]
  interval_cases j <;> simp

/-- In TEST a word goes to DRAM outside the statistics area. -/
theorem intPutIn_dram {s : State} {x : WrNote} {a w o : Nat} (hm : s.dev.mode = .test) (ho : o < 0x42000000 ∨ 0x43000000 ≤ o) :
    intPutIn s x a w (.dram o) = ({ s with hif := { s.hif with dram := (enumFrom0 (leBytes 4 w)).foldl (fun t p => tset t (o + p.1) p.2) s.hif.dram } }, x) := by
  have h : ¬(0x42000000 ≤ o ∧ o < 0x43000000) := by omega
  simp only [intPutIn, hm, ne_eq, not_true_eq_false, if_false, h]

/-- A coefficient goes to a bank that is not busy, outside SERVICE and VIGIL. -/
theorem intPutIn_coef {s : State} {x : WrNote} {a w o : Nat} (hs : isSealed s = false)
    (hb : bankBusy (if o % 0x400 < 0x200 then (fltCh s (o / 0x400)).b3 else (fltCh s (o / 0x400)).b4) (decide (o % 0x400 / 0x100 % 2 = 1)) = false) :
    intPutIn s x a w (.coef o) = (coefPut s o w, x) := by
  simp only [intPutIn, hs, hb, Bool.false_eq_true, if_false]

theorem execDportWrite_reached {s : State} (h : hostReach s = true) (data : List Byte) (en : Bool) : exec (.dportWrite data en) s = .next (dportWrite s data en) := congrArg next (if_pos h)
theorem execDportRead_reached {s : State} (h : hostReach s = true) (len : Nat) (en : Bool) : exec (.dportRead len en) s = .next (dportRead s len en) := congrArg next (if_pos h)
theorem execDpcAddrWrite_reached {s : State} (h : hostReach s = true) (hi : Bool) (v : Nat) : exec (.dpcAddrWrite hi v) s = .next (dpcAddrPut s hi v) := congrArg next (if_pos h)

/-- A read of words none of which lies in DRAM before its training. -/
theorem dportRead_words {s : State} {len : Nat} (ht : dpcTakes len true = true) (hw : ∀ a ∈ dpcWords s len, ∀ o, regionOf s a = .dram o → dramEnd s ≠ 0) :
    dportRead s len true = bumpFree (dpcAdvance { s with hif := { s.hif with dportData := (dpcWords s len).map (fun a => BitVec.ofNat 32 (intWord s a)) } } len) := by
  unfold dportRead
  dsimp only
  rw [if_neg (by simp [ht]), if_neg ?_]
  rw [List.any_eq_true]
  rintro ⟨a, ha, hdark⟩
  split at hdark
  · rename_i o ho
    exact hw a ha o ho (of_decide_eq_true hdark)
  · exact Bool.false_ne_true hdark

theorem dportRead_refused {s : State} {len : Nat} {en : Bool} (h : dpcTakes len en = false) : dportRead s len en = bump s R.hifBadAccess := if_pos (by simp [h])
theorem dportWrite_refused {s : State} {data : List Byte} {en : Bool} (h : dpcTakes data.length en = false) : dportWrite s data en = bump s R.hifBadAccess := if_pos (by simp [h])

/-- An undecoded address reads 0 (R574). The definition is unfolded as a function: unfolded at `a`, the kernel would compute `regionOf s a` to find the arm. -/
theorem intWord_none {s : State} {a : Nat} (h : regionOf s a = .none_) : intWord s a = 0 := by
  have key : ∀ f : State → Nat → Nat, f = intWord → f s a = 0 := by
    intro f hf
    delta intWord at hf
    subst hf
    beta_reduce
    generalize regionOf s a = g at h
    subst h
    rfl
  exact key intWord rfl

/-- Settles O12: what a read answers, where one written word goes by its region, and when the address moves. -/
theorem dataPortAddressAdvances : Obligations.DataPortAddressAdvances := by
  refine ⟨fun s len data en hi v hr => ?unreached, fun s hr => ⟨fun len ht hw => ?read, fun data o hd hm ho hrow => ?dram, fun data o hd hs ho hb => ?coef,
    fun data hd h => ?refused, fun data c o hd ho => ?cluster, fun data hd ho => ?undecoded, fun a => intWord_none, fun len en h => ?badRead, fun data en h => ?badWrite,
    fun v hv h4 => ?lo, fun v => ?hi⟩⟩
  case unreached => exact ⟨congrArg next (if_neg (by simp [hr])), congrArg next (if_neg (by simp [hr])), congrArg next (if_neg (by simp [hr]))⟩
  case read =>
    refine ⟨_, execDportRead_reached hr len true, ?_⟩
    rw [dportRead_words ht hw]
    exact ⟨rfl, dpcAddr_dpcAdvance _ _⟩
  case dram =>
    refine ⟨_, execDportWrite_reached hr data true, ?_⟩
    rw [dportWrite_word hd ho (intPutIn_dram hm hrow), wrNoted_stored]
    exact ⟨fun j hj => tget_dramPut hd _ o j hj, dpcAddr_dpcAdvance _ _⟩
  case coef =>
    rw [execDportWrite_reached hr, dportWrite_word hd ho (intPutIn_coef hs hb), wrNoted_stored]
  case refused =>
    rw [execDportWrite_reached hr, dportWrite_word hd (u := s) (x := ⟨true, false, none⟩) rfl ?_, wrNoted_rejected]
    rcases h with ⟨o, h | h⟩ | ⟨b, o, h⟩ | ⟨hm, o, h⟩ <;> rw [h]
    case inr.inr => exact if_pos hm
    all_goals rfl
  case cluster =>
    refine ⟨if o < 0x60000 ∨ 0x80000 ≤ o then flagSet s R.cfgStat 17 true else s, ?_, ?_⟩
    · rw [execDportWrite_reached hr, dportWrite_word hd (x := ⟨true, false, none⟩) ho rfl, wrNoted_rejected]
    · split
      · exact .inr rfl
      · exact .inl rfl
  case undecoded =>
    rw [execDportWrite_reached hr, dportWrite_word hd (u := s) (x := ⟨false, true, none⟩) ho rfl, wrNoted_undecoded]
  case badRead => rw [execDportRead_reached hr, dportRead_refused h]
  case badWrite => rw [execDportWrite_reached hr, dportWrite_refused h]
  case lo =>
    refine ⟨_, execDpcAddrWrite_reached hr false v, ?_⟩
    have : dpcAddrPut s false v = regSet s R.dpcAddrLo v := by simp [dpcAddrPut, h4]
    rw [this, regGet_regSet, if_pos rfl, regGet_regSet_ne _ (by decide)]
    exact ⟨Nat.mod_eq_of_lt hv, rfl⟩
  case hi =>
    refine ⟨_, execDpcAddrWrite_reached hr true v, ?_⟩
    have : dpcAddrPut s true v = regSet s R.dpcAddrHi (v % 256) := rfl
    rw [this, regGet_regSet, if_pos rfl, regGet_regSet_ne _ (by decide)]
    exact ⟨by omega, rfl⟩

end Sys2Proof.Machine

namespace Sys2Proof.Machine

/-! ### Authority tokens (R532): `Obligations.TokenSerialOnlyRises` -/

/-- A failure of authentication is counted. -/
theorem authFailed_counts (s : State) (what : Nat) : regGet (authFailed s what) R.secAuthFailCnt = capN (2 ^ 32 - 1) (regGet s R.secAuthFailCnt + 1) := by
  rw [authFailed, raise_regs _ _ _ _ _ _ _ _ (by decide), regGet_bump]

theorem authFailed_sec (s : State) (what : Nat) : (authFailed s what).sec = s.sec := by simp only [authFailed, raise_sec, bump_sec]
theorem authFailed_flash (s : State) (what : Nat) : (authFailed s what).flash = s.flash := by simp only [authFailed, raise_flash, bump_flash]

/-- The failures of the last hour before this one. -/
def failsInHour (s : State) : List Ticks := s.sec.failTimes.filter (fun t => decide (s.dev.ticks < t + 3600 * secT))

/-- A token failure is an authentication failure that leaves the failures noted and the lockout in the security island (R532). -/
theorem tokenFail_eq (s : State) (op : Nat) : tokenFail s op =
    if tokenLocked s then authFailed s op
    else if 15 ≤ (failsInHour s).length then { authFailed s op with sec := { s.sec with failTimes := [], lockUntil := some (s.dev.ticks + 600 * secT) } }
    else { authFailed s op with sec := { s.sec with failTimes := s.dev.ticks :: failsInHour s } } := by
  unfold tokenFail
  dsimp only
  by_cases hl : tokenLocked s = true
  · rw [if_pos hl, if_pos hl]
  · rw [if_neg hl, if_neg hl, authFailed_sec]
    by_cases h : 15 ≤ (failsInHour s).length
    · exact (if_pos (Nat.succ_le_succ h)).trans (if_pos h).symm
    · exact (if_neg (fun k => h (Nat.le_of_succ_le_succ k))).trans (if_neg h).symm

theorem tokenFail_counts (s : State) (op : Nat) :
    (tokenFail s op).flash = s.flash ∧ regGet (tokenFail s op) R.secAuthFailCnt = capN (2 ^ 32 - 1) (regGet s R.secAuthFailCnt + 1) := by
  rw [tokenFail_eq]
  split_ifs <;> exact ⟨authFailed_flash s op, authFailed_counts s op⟩

theorem tokenFail_locked {s : State} (h : tokenLocked s = true) (op : Nat) : (tokenFail s op).sec = s.sec := by
  rw [tokenFail_eq, if_pos h, authFailed_sec]

theorem tokenFail_lockUntil {s : State} (h : tokenLocked s = false) (op : Nat) :
    (tokenFail s op).sec.lockUntil = if 15 ≤ (failsInHour s).length then some (s.dev.ticks + 600 * secT) else s.sec.lockUntil := by
  rw [tokenFail_eq, if_neg (by simp [h])]
  split_ifs <;> rfl

/-- Whether a command's token is missing, misaligned, locked out, not valid, or breaks the command's own condition (R532). -/
def tokenRefused (s : State) (e : CmdEntry) (op arg : Nat) (more : List Byte → Bool) : Prop :=
  e.token = 0 ∨ e.token % 64 ≠ 0 ∨ tokenLocked s = true ∨ (!tokenValid s (hostRead s e.token 896) op arg) = true ∨ (!more (hostRead s e.token 896)) = true

section Token
variable {s : State} {e : CmdEntry} {op arg : Nat} {more : List Byte → Bool}

theorem takeToken_refused (h : tokenRefused s e op arg more) : takeToken s e op arg more = (tokenFail s op, none) := if_pos h

theorem takeToken_taken (h : ¬tokenRefused s e op arg more) : takeToken s e op arg more =
    (appendLog (raise 0x0E07 { s with flash := { s.flash with serial := field (hostRead s e.token 896) 16 8 } } (items := [(1, op), (8, field (hostRead s e.token 896) 16 8)])) 5 0 op 0,
      some (hostRead s e.token 896)) := if_neg h

/-- A token is taken or refused, and its answer says which. -/
theorem takeToken_none_iff : (takeToken s e op arg more).2 = none ↔ tokenRefused s e op arg more := by
  by_cases h : tokenRefused s e op arg more
  · simp [takeToken_refused h, h]
  · simp [takeToken_taken h, h]

/-- What a valid token says of the command and of its serial (R531, R532). -/
theorem tokenValid_names {t : List Byte} (h : tokenValid s t op arg = true) : field t 6 1 = op ∧ field t 7 1 = arg ∧ s.flash.serial < field t 16 8 := by
  simp only [tokenValid, Bool.and_eq_true, decide_eq_true_eq] at h
  obtain ⟨⟨⟨⟨⟨-, hop⟩, harg⟩, -⟩, hser⟩, -⟩ := h
  exact ⟨hop, harg, hser⟩

end Token

/-- Settles O19: a token that is taken is valid; one that is not fails, which counts and may lock. -/
theorem tokenSerialOnlyRises : Obligations.TokenSerialOnlyRises := by
  intro s e op arg more
  refine ⟨fun t ht => ?taken, fun h => ?fails, fun h => ?locked, fun hl h => ?locks⟩
  case taken =>
    have h : ¬tokenRefused s e op arg more := by
      rw [← takeToken_none_iff, ht]
      exact Option.some_ne_none t
    rw [takeToken_taken h] at ht ⊢
    obtain rfl := Option.some.inj ht
    simp only [tokenRefused, not_or, Bool.not_eq_true, Bool.not_eq_false'] at h
    obtain ⟨-, -, hlock, hvalid, -⟩ := h
    obtain ⟨hop, harg, hser⟩ := tokenValid_names hvalid
    exact ⟨hlock, hop, harg, hser, by rw [appendLog_flash, raise_flash]⟩
  case fails =>
    rw [takeToken_refused (takeToken_none_iff.mp h)]
    exact tokenFail_counts s op
  case locked =>
    rw [takeToken_refused (.inr (.inr (.inl h)))]
    exact ⟨rfl, tokenFail_locked h op⟩
  case locks =>
    rw [takeToken_refused (takeToken_none_iff.mp h)]
    exact tokenFail_lockUntil hl op

/-! ### IMAGE_LOAD_DONE (R518, R528): `Obligations.ImageLoadDoneStoresOrRefuses` -/

theorem slot_setSlot (f : Flash) (kind : Nat) (b : Bool) (v : Option (List Byte)) : (f.setSlot kind b v).slot kind b = v := by
  rcases kind with _ | _ | kind <;> cases b <;> rfl

theorem pends_setPend (x : Sec) (kind : Nat) (v : Bool) : (x.setPend kind v).pends kind = v := by
  rcases kind with _ | _ | kind <;> rfl

theorem setPend_load (x : Sec) (kind : Nat) (v : Bool) : (x.setPend kind v).load = x.load := by
  rcases kind with _ | _ | kind <;> rfl

/-- A verified image put into the slot that is not selected, or that slot emptied where flash does not read back. -/
def imagePut (s : State) (j : LoadJob) (v : Option (List Byte)) : State :=
  { imageVerified s j.kind j.image with
    flash := s.flash.setSlot j.kind (!s.flash.sel j.kind) v
    sec := s.sec.setPend j.kind v.isSome }

section LoadDone
variable {s : State} {j : LoadJob}

/-- The load is no longer under way. -/
def loadOver (s : State) : State := { s with sec := { s.sec with load := none } }

theorem loadDone_cert (hj : s.sec.load = some j) (hk : j.kind = 3) (ok : Bool) : loadDone s ok =
    if Config.certSubjectKey j.image ≠ some s.otp.idPub then complete (authFailed (loadOver s) 3) j.cid stAuthFail Att.zero
    else if ok then complete { loadOver s with flash := { s.flash with cert := j.image } } j.cid stOk Att.zero (leBytes 1 3)
    else complete { loadOver s with flash := { s.flash with cert := [] } } j.cid stInternal Att.zero := by
  simp only [loadDone, hj, hk, if_true, loadOver]

theorem loadDone_verified (hj : s.sec.load = some j) (hk : j.kind < 3) (hv : verifyErr (loadOver s) j.kind j.image = none) (ok : Bool) : loadDone s ok =
    if ok then complete (imagePut (loadOver s) j (some j.image)) j.cid stOk Att.zero
      (leBytes 1 j.kind ++ leBytes 1 (imgKey j.image) ++ leBytes 2 0 ++ leBytes 4 (imgRoll j.image) ++ slice (sha256 j.image) 0 8)
    else complete (imagePut (loadOver s) j none) j.cid stInternal Att.zero := by
  have hk' : j.kind ≠ 3 := by omega
  simp only [loadOver] at hv
  simp only [loadDone, hj, hk', if_false, hv, imageVerified, raise_flash, raise_sec, imagePut, loadOver]

theorem loadDone_shape (hj : s.sec.load = some j) (hk : j.kind < 3) {d : LoadErr} (hv : verifyErr (loadOver s) j.kind j.image = some (.shape d)) (ok : Bool) :
    loadDone s ok = complete (loadRejected (loadOver s) d) j.cid stBadParam Att.zero := by
  have hk' : j.kind ≠ 3 := by omega
  simp only [loadOver] at hv
  simp only [loadDone, hj, hk', if_false, hv, loadOver]

theorem loadDone_refused (hj : s.sec.load = some j) (hk : j.kind < 3) {x : VerErr} (hv : verifyErr (loadOver s) j.kind j.image = some x) (hx : ∀ d, x ≠ .shape d) (ok : Bool) :
    loadDone s ok = complete (authFailed (loadOver s) j.kind) j.cid stAuthFail Att.zero := by
  have hk' : j.kind ≠ 3 := by omega
  simp only [loadOver] at hv
  cases x with
  | shape d => exact absurd rfl (hx d)
  | key | roll => simp only [loadDone, hj, hk', if_false, hv, loadOver]

end LoadDone

/-- Settles O21: the end of a load, by its kind and its verification. -/
theorem imageLoadDoneStoresOrRefuses : Obligations.ImageLoadDoneStoresOrRefuses := by
  refine ⟨fun s ok h => ?none, fun s j hj hk u hu => ⟨fun hc => ?cert, fun hc ok => ?other⟩,
    fun s j hj hk => ⟨fun hv => ?stored, fun hv => ?emptied, fun x hv hx => ?refused, fun d hv ok => congrArg next (loadDone_shape hj hk hv ok)⟩⟩
  case none => exact congrArg next (by simp only [loadDone, h])
  case cert =>
    subst hu
    have hc' : ¬Config.certSubjectKey j.image ≠ some s.otp.idPub := not_not_intro hc
    exact ⟨congrArg next (by rw [loadDone_cert hj hk, if_neg hc']; rfl), congrArg next (by rw [loadDone_cert hj hk, if_neg hc']; rfl)⟩
  case other =>
    subst hu
    exact congrArg next (by rw [loadDone_cert hj hk, if_pos hc]; rfl)
  case stored =>
    refine ⟨imagePut (loadOver s) j (some j.image), congrArg next ((loadDone_verified hj hk hv true).trans (if_pos rfl)), slot_setSlot .., pends_setPend .., ?_, rfl⟩
    exact setPend_load ..
  case emptied =>
    refine ⟨imagePut (loadOver s) j none, congrArg next ((loadDone_verified hj hk hv false).trans (if_neg Bool.false_ne_true)), slot_setSlot .., pends_setPend .., ?_⟩
    exact setPend_load ..
  case refused =>
    refine ⟨authFailed (loadOver s) j.kind, fun ok => congrArg next (loadDone_refused hj hk hv hx ok), authFailed_flash .., ?_, authFailed_counts ..⟩
    rw [authFailed_sec]
    rfl

/-! ### DEBUG_UNLOCK, the expiries, and OTP programming (R532, R535 to R537): `Obligations.DebugGrantsAndOtpComplete` -/

/-- A grant that ends leaves the rest of the security island, and asks an attached cell to detach. -/
theorem endGrant_ends {s : State} {g : Grant} (h : s.sec.grant = some g) (cause : Nat) :
    (endGrant s cause).sec = { s.sec with grant := none } ∧ (endGrant s cause).dev = s.dev ∧
      (∀ c, s.cfg.dbgCell = some c → (endGrant s cause).cfg.dbgReq = some (false, c)) ∧ ∃ u, endGrant s cause = raise 0x0E06 u (items := [(1, cause)]) := by
  simp only [endGrant, h, raise_sec, raise_dev, raise_cfg, (showDbg_host _).sec, (showDbg_host _).dev, (showDbg_host _).cfg, true_and]
  exact ⟨fun c hc => by rw [hc], ⟨_, rfl⟩⟩

theorem endGrant_none {s : State} (h : s.sec.grant = none) (cause : Nat) : endGrant s cause = s := by simp only [endGrant, h]

section DebugUnlock
variable {s : State} {e : CmdEntry} {cid : Nat}

theorem debugUnlockOwn_badMode (hc : s.dev.mode ≠ .commission) (ht : s.dev.mode ≠ .test) : debugUnlockOwn e cid s = .rejAfter s stBadMode := if_pos ⟨hc, ht⟩

variable (hm : s.dev.mode = .commission ∨ s.dev.mode = .test)
include hm

theorem debugUnlock_mode : ¬(s.dev.mode ≠ .commission ∧ s.dev.mode ≠ .test) := fun ⟨hc, ht⟩ => hm.elim hc ht

theorem debugUnlockOwn_challenge (h0 : field e.params 0 1 = 0) :
    debugUnlockOwn e cid s = .ok (bumpFree { s with sec := { s.sec with challenge := some (s.dev.free, s.dev.ticks) } }) Att.zero (challengeBytes s.dev.free) := by
  simp only [debugUnlockOwn, debugUnlock_mode hm, if_false, h0]

theorem debugUnlockOwn_token (h1 : field e.params 0 1 = 1) : debugUnlockOwn e cid s = debugGrant e s := by
  simp only [debugUnlockOwn, debugUnlock_mode hm, if_false, h1]

theorem debugUnlockOwn_locks (h2 : field e.params 0 1 = 2) : debugUnlockOwn e cid s = .ok (endGrant s 2) := by
  simp only [debugUnlockOwn, debugUnlock_mode hm, if_false, h2]

theorem debugUnlockOwn_badParam (h : 2 < field e.params 0 1) : debugUnlockOwn e cid s = .rejAfter s stBadParam := by
  refine (if_neg (debugUnlock_mode hm)).trans ?_
  split
  case h_4 => rfl
  all_goals omega

end DebugUnlock

/-- The debug scope that the token of a command names. -/
def tokenScope (s : State) (e : CmdEntry) : Nat := field (hostRead s e.token 896) 7 1

theorem debugGrant_stale {s : State} {e : CmdEntry} (h : challengeNow s = none) : debugGrant e s = .rejAfter s stAuthFail := by simp only [debugGrant, h, CmdOut.rej_eq]

section DebugGrant
variable {s u v : State} {e : CmdEntry} {c : Nat} (h : challengeNow s = some c) (hu : u = { s with sec := { s.sec with challenge := none } })
include h hu

theorem debugGrant_refused (ht : takeToken u e 0x13 (tokenScope u e) (fun t => decide (slice t 48 16 = challengeBytes c)) = (v, none)) : debugGrant e s = .rejAfter v stAuthFail := by
  subst hu
  simp only [tokenScope] at ht
  simp only [debugGrant, h, ht]

theorem debugGrant_granted {t : List Byte} (ht : takeToken u e 0x13 (tokenScope u e) (fun t => decide (slice t 48 16 = challengeBytes c)) = (v, some t)) :
    debugGrant e s = .ok (raise 0x0E05 { v with sec := { v.sec with grant := some ⟨tokenScope u e, field t 32 8, decide (field t 41 1 = 1)⟩, grantSeen := true } }
      (items := [(1, tokenScope u e), (1, field t 41 1)])) := by
  subst hu
  simp only [tokenScope] at ht
  simp only [debugGrant, h, ht, tokenScope]

end DebugGrant

theorem accepted_challengeNow (s : State) (op : Nat) (e : CmdEntry) (i : Nat) : challengeNow (accepted s op e i) = challengeNow s := by
  rw [accepted_eq]
  rfl

/-- Settles O22: DEBUG_UNLOCK by its phases, then each expiry and each step of OTP programming. -/
theorem debugGrantsAndOtpComplete : Obligations.DebugGrantsAndOtpComplete := by
  refine ⟨fun s e i h => ⟨fun hc ht => ?badMode, fun hm => ?phases⟩, fun s cause => ⟨fun h => endGrant_none h cause, fun g h => endGrant_ends h cause⟩, fun s => ?events⟩
  case badMode => exact congrArg next (submit_rej h (by decide) (debugUnlockOwn_badMode (by simpa using hc) (by simpa using ht)))
  case phases =>
    have hm' : (accepted s 0x13 e i).dev.mode = .commission ∨ (accepted s 0x13 e i).dev.mode = .test := by simpa using hm
    refine ⟨fun h0 => ?challenge, fun h1 hc => ?stale, fun c u h1 hc hu => ⟨fun ht => ?refused, fun t v ht => ?granted⟩, fun h2 => ?locks, fun h2 => ?badParam⟩
    case challenge => exact congrArg next (submit_ok h (by simpa using debugUnlockOwn_challenge hm' h0))
    case stale =>
      have := debugGrant_stale (s := accepted s 0x13 e i) (e := e) (by rw [accepted_challengeNow, hc])
      exact congrArg next (submit_rej h (by decide) ((debugUnlockOwn_token hm' h1).trans this))
    case refused =>
      have := debugGrant_refused (s := accepted s 0x13 e i) (u := u) (by rw [accepted_challengeNow, hc]) (by rw [hu, accepted_sec]) (Prod.ext rfl ht)
      exact congrArg next (submit_rej h (by decide) ((debugUnlockOwn_token hm' h1).trans this))
    case granted =>
      have := debugGrant_granted (s := accepted s 0x13 e i) (u := u) (by rw [accepted_challengeNow, hc]) (by rw [hu, accepted_sec]) ht
      exact congrArg next (submit_ok h ((debugUnlockOwn_token hm' h1).trans this))
    case locks => exact congrArg next (submit_ok h (debugUnlockOwn_locks hm' h2))
    case badParam => exact congrArg next (submit_rej h (by decide) (debugUnlockOwn_badParam hm' h2))
  case events =>
    refine ⟨fun h => ?_, fun c t0 h => ?_, fun h => ?_, fun g h => ?_, fun h => ?_, fun t0 h => ?_, fun h hm => ?_, fun h => ?_, fun v h => ?_, fun a d v u h hu => ?_⟩
    · exact congrArg next (by simp only [h])
    · exact congrArg next (by simp only [h, elapsed, decide_eq_true_eq])
    · exact congrArg next (by simp only [h])
    · exact congrArg next (by simp only [h])
    · exact congrArg next ((if_neg (by simp [tokenLocked, h])).trans (by rw [← h]))
    · refine congrArg next ?_
      simp only [tokenLocked, h, decide_eq_true_eq, ← Nat.not_le, ite_not]
    · exact congrArg next (if_pos (by simp [hm, h]))
    · exact congrArg next (if_neg (by rcases h with h | h <;> simp_all [Option.isSome_iff_ne_none]))
    · exact congrArg next (by simp only [h])
    · subst hu
      exact congrArg next (by simp only [h])

end Sys2Proof.Machine

namespace Sys2Proof.Machine

/-! ### Degraded causes, throttling and DRAM errors (R34, R551 to R556): `Obligations.ThermalAndDramHealth` -/

/-- An event raised from a state with the registers of another. -/
theorem RegsBut.raise {o s u : State} (h : RegsBut evtRegs o s) (hu : u.regs = s.regs) {code bay idx : Nat} {items : List (Nat × Nat)} {att : Option Att} {att2 : Att} :
    RegsBut evtRegs o (Machine.raise code u bay idx items att att2) :=
  (h.trans (.same hu)).trans (raise_regs _ _ _ _ _ _ _)

/-- The state in which a degraded cause has its new bits, before HEALTH.degraded follows. -/
def causesPut (s : State) (c bit : Nat) (v : Bool) : State :=
  raise 0x0204 { s with pwr := { s.pwr with causes := c } } (items := [(1, bit), (1, b2n v)])

theorem causesPut_pwr (s : State) (c bit : Nat) (v : Bool) : (causesPut s c bit v).pwr = { s.pwr with causes := c } := raise_pwr ..

theorem causesPut_dev (s : State) (c bit : Nat) (v : Bool) : (causesPut s c bit v).dev = s.dev := raise_dev ..

theorem causesPut_regs (s : State) (c bit : Nat) (v : Bool) : RegsBut evtRegs s (causesPut s c bit v) :=
  (RegsBut.same rfl).trans (raise_regs _ _ _ _ _ _ _)

theorem setCause_eq {s : State} {bit : Nat} {v : Bool} (h : bitOf s.pwr.causes bit ≠ v) :
    ∃ c, bitOf c bit = v ∧ ∃ due : Bool, setCause s bit v =
      if due then raise 0x0203 { causesPut s c bit v with pwr := { (causesPut s c bit v).pwr with degraded := true } } else causesPut s c bit v := by
  refine ⟨if v then s.pwr.causes + 2 ^ bit else s.pwr.causes - 2 ^ bit, ?bit, _, if_neg h⟩
  cases v with
  | true => exact bitOf_add_two_pow (by simpa using h)
  | false => exact bitOf_sub_two_pow (by simpa using h)

/-- A degraded cause changed leaves the power state alone but for its bits and HEALTH.degraded, and every register but those of the events. -/
theorem setCause_changes (s : State) (bit : Nat) (v : Bool) :
    bitOf (setCause s bit v).pwr.causes bit = v ∧ (∃ c d, (setCause s bit v).pwr = { s.pwr with causes := c, degraded := d }) ∧ (setCause s bit v).dev = s.dev ∧
      RegsBut evtRegs s (setCause s bit v) := by
  by_cases h : bitOf s.pwr.causes bit = v
  · rw [setCause, if_pos h]
    exact ⟨h, ⟨_, _, rfl⟩, rfl, .refl _ s⟩
  · obtain ⟨c, hc, due, hs⟩ := setCause_eq h
    have hp := causesPut_pwr s c bit v
    have hd := causesPut_dev s c bit v
    have hr := causesPut_regs s c bit v
    rw [hs]
    generalize causesPut s c bit v = u at hp hd hr ⊢
    cases due with
    | true =>
      rw [if_pos rfl]
      refine ⟨?_, ⟨c, true, ?_⟩, (raise_dev ..).trans hd, hr.raise (by rfl)⟩
      · rw [raise_pwr, hp]
        exact hc
      · rw [raise_pwr, hp]
    | false =>
      rw [if_neg (by decide), hp, hd]
      exact ⟨hc, ⟨c, s.pwr.degraded, rfl⟩, rfl, hr⟩

/-- The throttle entries of the last 24 h. -/
def throttleDay (s : State) : List Ticks := s.pwr.throttleAt.filter (fun t => decide (s.dev.ticks < t + 24 * 3600 * secT))

/-- The margin judged: the entries of the last 24 h stay, and cause 5 is set exactly when they reach margin_n (R553). -/
theorem thermMargin_judges (s : State) :
    (thermMargin s).pwr.throttleAt = throttleDay s ∧ (thermMargin s).pwr.throttle = s.pwr.throttle ∧ (thermMargin s).pwr.temps = s.pwr.temps ∧
      bitOf (thermMargin s).pwr.causes 5 = decide (fld s R.pwrThermCfg 7 4 ≤ (throttleDay s).length) ∧ (thermMargin s).dev = s.dev ∧ RegsBut evtRegs s (thermMargin s) := by
  obtain ⟨u, hu, hp, hd, hr⟩ : ∃ u : State, thermMargin s = setCause u 5 (decide (fld s R.pwrThermCfg 7 4 ≤ (throttleDay s).length)) ∧
      u.pwr = { s.pwr with throttleAt := throttleDay s } ∧ u.dev = s.dev ∧ RegsBut evtRegs s u := by
    refine ⟨_, rfl, ?_⟩
    split
    · exact ⟨raise_pwr .., raise_dev .., (RegsBut.refl evtRegs s).raise (by rfl)⟩
    · exact ⟨rfl, rfl, .same rfl⟩
  obtain ⟨hbit, ⟨c, d, hpwr⟩, hdev, hregs⟩ := setCause_changes u 5 (decide (fld s R.pwrThermCfg 7 4 ≤ (throttleDay s).length))
  rw [hu, hpwr, hp]
  rw [hpwr] at hbit
  exact ⟨rfl, rfl, rfl, hbit, hdev.trans hd, hr.trans hregs⟩

theorem setTemp_reads {n : Nat} (h : n < 40) (s : State) (temp : Int) :
    setTemp s n temp = { s with pwr := { s.pwr with temps := tset s.pwr.temps n temp, hottest := if s.pwr.hottest < temp then temp else s.pwr.hottest, hotAt := if 135 * 16 ≤ temp then s.dev.ticks else s.pwr.hotAt } } := if_pos h

/-- Throttling begins: counted, noted and raised (R552). -/
def throttled (s : State) (n : Nat) (temp : Int) : State :=
  raise 0x0205 (bump { setTemp s n temp with pwr := { (setTemp s n temp).pwr with throttle := true, throttleAt := s.dev.ticks :: (setTemp s n temp).pwr.throttleAt } } R.pwrThrottleCnt) (items := [(1, n)])

theorem execThermalThrottle_eq (s : State) (n : Nat) (temp : Int) : exec (.thermalThrottle n temp) s =
    .next (if n < 40 ∧ 140 * 16 ≤ temp ∧ !s.pwr.throttle ∧ partRuns s then thermMargin (throttled s n temp) else setTemp s n temp) := rfl

/-- Settles O27: `thermMargin_judges` and `setCause_changes` where a cause moves, the reading alone elsewhere. -/
theorem thermalAndDramHealth : Obligations.ThermalAndDramHealth := by
  intro s
  refine ⟨fun n temp hn ht hth hr => ?throttles, fun n temp h => ?recorded, fun ts => ?release, ?margin, fun n hn hm => ?high, fun n h => ?low, fun n h => ?hourGood, fun n h => ?hourBad⟩
  case throttles =>
    refine ⟨thermMargin (throttled s n temp), by rw [execThermalThrottle_eq, if_pos ⟨hn, ht, by simp [hth], hr⟩], ?_⟩
    obtain ⟨hat, hthr, htemps, -, hdev, hregs⟩ := thermMargin_judges (throttled s n temp)
    have hp : (throttled s n temp).pwr = { (setTemp s n temp).pwr with throttle := true, throttleAt := s.dev.ticks :: s.pwr.throttleAt } := by
      rw [throttled, raise_pwr, bump_pwr, setTemp_reads hn]
    have hd : (throttled s n temp).dev = s.dev := by rw [throttled, raise_dev, bump_dev]; exact setTemp_dev n temp
    rw [hthr, htemps, hat, throttleDay, hdev, hd, hp, setTemp_reads hn]
    refine ⟨rfl, by simp [tget_tset], rfl, ?_, rfl⟩
    rw [hregs _ (by decide), throttled, raise_regs _ _ _ _ _ _ _ _ (by decide), regGet_bump, setTemp_reads hn]
    rfl
  case recorded =>
    rw [execThermalThrottle_eq, if_neg]
    rintro ⟨hn, ht, hth, hr⟩
    rcases h with h | h | h | h
    · omega
    · omega
    · simp [h] at hth
    · simp [h] at hr
  case release =>
    refine congrArg next ?_
    simp only [elapsed, decide_eq_true_eq]
  case margin =>
    obtain ⟨hat, -, -, hbit, -, -⟩ := thermMargin_judges s
    exact ⟨thermMargin s, rfl, hat, by rw [hbit, hat]⟩
  case high =>
    by_cases hb : bitOf s.pwr.causes 4 = true
    · exact ⟨_, congrArg next (if_neg (by simp [hb])), by simpa using hb, by simp⟩
    · obtain ⟨hbit, -, hdev, -⟩ := setCause_changes (raise 0x0208 (regSet s R.pwrDramCeCnt (capN (2 ^ 32 - 1) n))) 4 true
      exact ⟨_, congrArg next (if_pos ⟨hn, hm, by simpa using hb⟩), hbit, by rw [hdev, raise_dev, regSet_dev]⟩
  case low =>
    refine congrArg next (if_neg ?_)
    rintro ⟨hn, hm, -⟩
    rcases h with h | h
    · omega
    · exact hm h
  case hourGood =>
    obtain ⟨hbit, -, -, hregs⟩ := setCause_changes (regSet s R.pwrDramCeCnt 0) 4 false
    refine ⟨_, congrArg next (if_pos h), hbit, ?_⟩
    rw [hregs _ (by decide), regGet_regSet, if_pos rfl]
    rfl
  case hourBad => exact congrArg next (if_neg (by omega))

end Sys2Proof.Machine

namespace Sys2Proof.Machine

/-! ### The boot chain advances (R517, R519, R524, R578): `Obligations.BootChainAdvances` -/

/-- The state that a vendor stage runs its image in: the failure of the selected slot is counted first (R519). -/
def slotFell (s : State) (kind : Nat) (fell : Bool) : State :=
  if fell then authFailed { s with sec := { s.sec with fallback := true } } kind else s

theorem slotFell_mode (s : State) (kind : Nat) (fell : Bool) : (slotFell s kind fell).dev.mode = s.dev.mode := by
  cases fell <;> simp [slotFell, authFailed]

theorem vendorStage_picked {s : State} {kind : Nat} {b fell : Bool} {img : List Byte} (h : pickVendor s kind = .inr (b, fell, img)) (keyCause : Nat)
    (run : Bool → List Byte → State → State) :
    vendorStage s kind keyCause run = imageVerified (run b img (slotFell s kind fell)) kind img := by
  simp only [vendorStage, h, slotFell]

theorem imageVerified_sec (s : State) (kind : Nat) (img : List Byte) : (imageVerified s kind img).sec = s.sec := raise_sec ..

theorem imageVerified_dev (s : State) (kind : Nat) (img : List Byte) : (imageVerified s kind img).dev = s.dev := raise_dev ..

theorem bootCal_dev (s : State) : (bootCal s).dev = s.dev :=
  foldl_keeps State.dev (fun _ _ => by simp [setTerms]) _ s

theorem makeIdentity_mode (s : State) : (makeIdentity s).dev.mode = s.dev.mode := by
  unfold makeIdentity
  split <;> rfl

theorem bootStage1_picked {s : State} (hf : s.flash.bcbOk = true) {b fell : Bool} {img : List Byte} (hp : pickVendor (makeIdentity (bootCal s)) 0 = .inr (b, fell, img)) :
    (bootStage1 s true true).sec.stage = 1 ∧ (bootStage1 s true true).sec.s1Slot = b ∧ (bootStage1 s true true).sec.s1Key = imgKey img % 4 ∧
      (bootStage1 s true true).sec.meas1 = sha256 img ∧ (bootStage1 s true true).dev.mode = s.dev.mode := by
  simp only [bootStage1, bootCal_flash, hf, Bool.not_true, Bool.or_self, Bool.false_eq_true, if_false]
  rw [vendorStage_picked hp, imageVerified_sec, imageVerified_dev]
  exact ⟨rfl, rfl, rfl, rfl, by rw [slotFell_mode, makeIdentity_mode, bootCal_dev]⟩

theorem bootLibrary_picked {s : State} {b fell : Bool} {img : List Byte} (hp : pickVendor s 1 = .inr (b, fell, img)) :
    (bootLibrary s).sec.stage = 2 ∧ (bootLibrary s).sec.libSlot = b ∧ (bootLibrary s).sec.libKey = imgKey img % 4 ∧ (bootLibrary s).sec.meas2 = sha256 img ∧
      (bootLibrary s).sec.libVer = field img 36 4 := by
  rw [bootLibrary, vendorStage_picked hp, imageVerified_sec]
  simp

theorem bootScheme_verified {s : State} (hd : s.sec.dramDone = true) {img : List Byte} (h : s.flash.slot 2 s.flash.schSel = some img) (hv : verifyErr s 2 img = none) :
    (bootScheme s).sec.stage = 3 ∧ (bootScheme s).sec.schSlot = s.flash.schSel := by
  simp only [bootScheme, hd, h, hv, Bool.not_true, Bool.false_eq_true, if_false, imageVerified_sec, and_self]

theorem ChainRuns.lastStage {s : State} (h : ChainRuns s) (hs : 3 ≤ s.sec.stage) (otpOk flashOk : Bool) :
    exec (.bootStageVerified otpOk flashOk) s = .next (bootEnter s) := by
  obtain ⟨n, hn⟩ := Nat.exists_eq_add_of_le' hs
  show execBootStageVerified otpOk flashOk s = _
  simp [execBootStageVerified, h.boot, h.going, h.more, h.runs, h.power, hn]

/-- DRAM trained: its density and the largest record area in DEV_CAP2 (R578). -/
def dramTrained (s : State) (eight : Bool) : State :=
  fldSet (fldSet { s with sec := { s.sec with dramDone := true } } R.devCap2 31 28 (if eight then 2 else 1)) R.devCap2 27 20 (if eight then 96 else 42)

theorem ChainRuns.trained {s : State} (h : ChainRuns s) (hs : s.sec.stage ≠ 0) (hd : s.sec.dramDone = false) (eight : Bool) :
    exec (.dramTrainingDone true eight) s = .next (if (if eight then 96 else 42) < fld (dramTrained s eight) R.cupAreaCfg 7 0 then
      fldSet (dramTrained s eight) R.cupAreaCfg 7 0 (if eight then 96 else 42) else dramTrained s eight) :=
  congrArg next (if_neg (by simp [h.boot, h.going, h.runs, h.power, hs, hd]))

/-- DEV_CAP2 after training. -/
theorem dramTrained_caps (s : State) (eight : Bool) :
    fld (dramTrained s eight) R.devCap2 31 28 = (if eight then 2 else 1) ∧ fld (dramTrained s eight) R.devCap2 27 20 = (if eight then 96 else 42) := by
  rw [dramTrained, fld_fldSet_beside _ (by decide) (by decide) (by decide) (by decide), fld_fldSet _ (by decide) (by decide), fld_fldSet _ (by decide) (by decide)]
  cases eight <;> decide

/-- Settles O24, stage by stage and with the training. -/
theorem bootChainAdvances : Obligations.BootChainAdvances := by
  refine ⟨fun s a b => ⟨fun h => congrArg next (if_pos (by simpa using h)), fun h => congrArg next (if_pos (by simpa using h))⟩, fun s hm hh hc hr hp => ?_⟩
  have chain : ChainRuns s := ⟨hm, hh, hc, hr, hp⟩
  refine ⟨fun b f img hs hf hi => ?stage0, fun x y b f img hs hi => ?stage1, fun x y hs hd => ?untrained, fun x y img hs hd hi hv => ?stage2, fun x y hs => chain.lastStage hs x y,
    fun eight hs hd => ?training⟩
  case stage0 =>
    obtain ⟨h1, h2, h3, h4, h5⟩ := bootStage1_picked hf hi
    exact ⟨_, chain.stage0 hs true true, h1, h2, h3, h4, h5.trans hm⟩
  case stage1 => exact ⟨_, chain.stage1 hs x y, bootLibrary_picked hi⟩
  case untrained =>
    rw [chain.stage2 hs x y, bootScheme, if_pos (by simp [hd])]
  case stage2 => exact ⟨_, chain.stage2 hs x y, bootScheme_verified hd hi hv⟩
  case training =>
    refine ⟨_, chain.trained hs hd eight, ?_⟩
    obtain ⟨hdens, hmost⟩ := dramTrained_caps s eight
    have hdone : (dramTrained s eight).sec.dramDone = true := by simp [dramTrained]
    generalize (if eight then 96 else 42) = most at hmost ⊢
    by_cases h : most < fld (dramTrained s eight) R.cupAreaCfg 7 0
    · rw [if_pos h, fld_fldSet_ne _ (by decide), fld_fldSet_ne _ (by decide), fld_fldSet _ (by decide) (by decide), fldSet_sec]
      exact ⟨hdone, hdens, hmost, Nat.mod_le _ _⟩
    · rw [if_neg h]
      exact ⟨hdone, hdens, hmost, Nat.le_of_not_lt h⟩

end Sys2Proof.Machine

namespace Sys2Proof.Machine

/-! ### Power loss and the dying sequence (R523, R541 to R550, R589): `Obligations.PowerLossWritesTheDyingBlock` -/

/-- A reset of a state tells of another that has what outlives the reset in common with it. -/
theorem AtBoot.of_same {s u t : State} (h : AtBoot u t) (hd : u.dev = s.dev) (ho : u.otp = s.otp) (hm : u.hostMem = s.hostMem) (hp : u.pending = s.pending) : AtBoot s t :=
  { h with otp := h.otp.trans ho, part := h.part.trans (by rw [hd]), mem := h.mem.trans hm, ticks := h.ticks.trans (by rw [hd]), queue := h.queue.trans hp }

/-- A dying block that is cut off is lost from the flash; the rest stands. -/
theorem cutDying_rest (s : State) : cutDying s = { s with flash := (cutDying s).flash } := by
  unfold cutDying
  repeat' split
  all_goals rfl

theorem cutDying_none {s : State} (h : s.pwr.dying = none) : cutDying s = s := by
  simp only [cutDying, h]

/-- A reset that cuts a dying sequence off (R557, R589). -/
theorem allReset_cut (s : State) (f : Pwr → Pwr) : AtBoot s (allReset (cutDying s) f) ∧ (allReset (cutDying s) f).flash = (cutDying s).flash ∧
    (allReset (cutDying s) f).pwr = f { Pwr.reset with resetLow := s.pwr.resetLow, failLow := s.pwr.failLow, temps := s.pwr.temps } := by
  rw [cutDying_rest s]
  obtain ⟨hboot, hflash, hpwr⟩ := allReset_atBoot { s with flash := (cutDying s).flash } f
  exact ⟨hboot.of_same rfl rfl rfl rfl, hflash, hpwr⟩

/-- `t` is `s` with other readings of the temperature sensors. -/
def TempsOnly (s t : State) : Prop := ∃ l h a, t = { s with pwr := { s.pwr with temps := l, hottest := h, hotAt := a } }

theorem setTemp_tempsOnly (s : State) (n : Nat) (temp : Int) : TempsOnly s (setTemp s n temp) := by
  unfold setTemp
  split
  · exact ⟨_, _, _, rfl⟩
  · exact ⟨s.pwr.temps, s.pwr.hottest, s.pwr.hotAt, rfl⟩

theorem TempsOnly.trans {s t u : State} (h : TempsOnly s t) (k : TempsOnly t u) : TempsOnly s u := by
  obtain ⟨_, _, _, rfl⟩ := h
  obtain ⟨l, h, a, rfl⟩ := k
  exact ⟨l, h, a, rfl⟩

theorem foldl_setTemp_tempsOnly (l : List (Nat × Int)) (s : State) : TempsOnly s (l.foldl (fun st p => setTemp st p.1 p.2) s) := by
  induction l generalizing s with
  | nil => exact ⟨s.pwr.temps, s.pwr.hottest, s.pwr.hotAt, rfl⟩
  | cons p l ih => exact (setTemp_tempsOnly s p.1 p.2).trans (ih _)

theorem setTemps_tempsOnly (s : State) (ts : List Int) : TempsOnly s (setTemps s ts) := foldl_setTemp_tempsOnly _ s

/-- A reset after readings is one of the state before them. -/
theorem AtBoot.of_tempsOnly {s u t : State} (h : TempsOnly s u) (k : AtBoot u t) : AtBoot s t := by
  obtain ⟨_, _, _, rfl⟩ := h
  exact k.of_same rfl rfl rfl rfl

theorem TempsOnly.flash {s u : State} (h : TempsOnly s u) : u.flash = s.flash := by
  obtain ⟨_, _, _, rfl⟩ := h
  rfl

theorem TempsOnly.cutDying {s u : State} (h : TempsOnly s u) : (Machine.cutDying u).flash = (Machine.cutDying s).flash := by
  obtain ⟨_, _, _, rfl⟩ := h
  unfold Machine.cutDying elapsed
  cases s.pwr.dying with
  | none => rfl
  | some d =>
    dsimp only
    split <;> rfl

/-- The dying sequence starts in its hold phase, at the instant of now (R543). -/
theorem dyingStart_starts (s : State) : ∃ d, (dyingStart s).pwr.failLow = s.pwr.failLow ∧ (dyingStart s).pwr.dying = some d ∧ d.phase = .hold ∧ d.since = s.dev.ticks ∧
    d.at_ = attNow s ∧ d.mode = s.dev.mode ∧ (dyingStart s).pwr.selftest = none ∧ (dyingStart s).dev = s.dev ∧ ∃ u, dyingStart s = raise 0x0201 u := by
  simp only [dyingStart, raise_pwr, raise_dev]
  exact ⟨_, trivial, rfl, rfl, rfl, rfl, rfl, trivial, trivial, _, rfl⟩

/-- PROT_HOLD_END before its time, or outside the hold phase, does nothing; at its time the islands are gated (R544). -/
theorem holdEnd_early {s : State} {d : Dying} (hd : s.pwr.dying = some d) (h : d.phase ≠ .hold ∨ s.dev.ticks < d.since + fld s R.pwrDyingCfg 2 0 * msT) : holdEnd s = s := by
  have hn : d.phase ≠ .hold ∨ (!elapsed s d.since (fld s R.pwrDyingCfg 2 0 * msT)) = true := h.imp id (fun h => by simpa [elapsed] using h)
  simp only [holdEnd, hd, if_pos hn]

theorem holdEnd_gates {s : State} {d : Dying} (hd : s.pwr.dying = some d) (hp : d.phase = .hold) (ht : d.since + fld s R.pwrDyingCfg 2 0 * msT ≤ s.dev.ticks) :
    ∃ u : State, u.pwr.dying = some { d with phase := .writing } ∧ holdEnd s = gateIslands u := by
  have hn : ¬(d.phase ≠ .hold ∨ (!elapsed s d.since (fld s R.pwrDyingCfg 2 0 * msT)) = true) := by simpa [elapsed, hp] using ht
  simp only [holdEnd, hd, if_neg hn]
  exact ⟨_, by rfl, rfl⟩

/-- A sequence that writes ends in BOOT, halted, with its block in the flash (R544, R545). -/
theorem dyingWritten_writes {s : State} {d : Dying} (hd : s.pwr.dying = some d) (hp : d.phase = .writing) (dur en : Nat) :
    let t := dyingWritten s dur en
    t.dev.mode = .boot ∧ t.pwr.dying = some { d with phase := .halted } ∧ t.pwr.failLow = true ∧ t.flash = writeBlock s d dur en ∧ t.cfg.dtos = s.cfg.dtos ∧ t.bays = [] := by
  simp only [dyingWritten, hd, if_pos hp]
  obtain ⟨hboot, hflash, hpwr⟩ := allReset_atBoot { s with flash := writeBlock s d dur en }
    (fun p => { p with dying := some { d with phase := .halted }, failLow := true, degraded := s.pwr.degraded })
  exact ⟨hboot.mode, by rw [hpwr], by rw [hpwr], hflash, trivial, hboot.bays⟩

theorem dyingWritten_idle {s : State} (h : s.pwr.dying = none ∨ ∃ d, s.pwr.dying = some d ∧ d.phase ≠ .writing) (dur en : Nat) : dyingWritten s dur en = s := by
  rcases h with h | ⟨d, h, hp⟩
  · simp only [dyingWritten, h]
  · simp only [dyingWritten, h, if_neg hp]

/-- Settles O26: every way to BOOT is `allReset_atBoot` or `allReset_cut`. -/
theorem powerLossWritesTheDyingBlock : Obligations.PowerLossWritesTheDyingBlock := by
  intro s
  refine ⟨fun hf hb hd hr => ?fail, fun hf h => ?failElse, fun hf => congrArg next (if_pos hf), fun d hd hp ht => ?hold, fun h => ?holdElse, fun d dur en hd hp => ⟨_, rfl, dyingWritten_writes hd hp dur en⟩,
    fun dur en h => congrArg next (dyingWritten_idle h dur en), fun hs h => ?good, fun h => ?goodElse, fun h hr hs => ?release, fun h => ?releaseElse, ?resetN, fun n temp hn ht => ?shutdown,
    fun n temp h => ?shutdownElse, fun ts hs hb => ?cooled, fun ts h => ?cooledElse⟩
  case fail =>
    obtain ⟨d, h⟩ := dyingStart_starts { s with pwr := { s.pwr with failLow := true } }
    exact ⟨_, d, congrArg next ((if_neg (by simp [hf])).trans (if_neg (by simp [hb, isDying, hd, hr]))), h⟩
  case failElse =>
    exact congrArg next ((if_neg (by simp [hf])).trans (if_pos (by simpa [isDying, or_assoc] using h)))
  case hold =>
    obtain ⟨u, hu, he⟩ := holdEnd_gates hd hp ht
    exact ⟨gateIslands u, congrArg next he, rfl, rfl, rfl, rfl, rfl, rfl, hu⟩
  case holdElse =>
    refine congrArg next ?_
    rcases h with h | ⟨d, hd, h⟩
    · simp only [holdEnd, h]
    · exact holdEnd_early hd h
  case good =>
    obtain ⟨hboot, hflash, hpwr⟩ := allReset_atBoot s (fun p => { p with powerGood := true, resetLow := false, failLow := false })
    refine ⟨_, congrArg next (if_neg ?_), hboot, hpwr, hflash⟩
    rcases h with h | ⟨d, h, hp⟩
    · simp [hs, h]
    · simp [hs, h, hp]
  case goodElse =>
    refine congrArg next (if_pos ?_)
    rcases h with h | ⟨d, h, hp⟩
    · simp [h]
    · simp [h, hp]
  case release =>
    obtain ⟨hboot, hflash, hpwr⟩ := allReset_atBoot s (fun p => { p with failLow := false })
    refine ⟨_, congrArg next (if_pos ?_), hboot, by rw [hpwr], by rw [hpwr]; rfl, hflash⟩
    rcases h with ⟨d, h, hp⟩ | ⟨h, hb, hl⟩
    · simp [h, hp, hr, hs]
    · simp [h, hb, hl, hr, hs]
  case releaseElse =>
    refine congrArg next (if_neg ?_)
    rcases h with ⟨d, h, hp⟩ | ⟨h, hb | hl⟩ | h | h
    · simp [h, hp]
    · simp [h, hb]
    · simp [h, hl]
    · simp [h]
    · simp [h]
  case resetN =>
    obtain ⟨hboot, hflash, hpwr⟩ := allReset_cut s (fun p => { p with powerGood := false, resetLow := true, shutdown := s.pwr.shutdown })
    exact ⟨_, rfl, hboot, by rw [hpwr], by rw [partRuns, hpwr]; rfl, hflash, fun h => by rw [hflash, cutDying_none h]⟩
  case shutdown =>
    obtain ⟨hboot, hflash, hpwr⟩ := allReset_cut (setTemp s n temp) (fun p => { p with powerGood := s.pwr.powerGood, shutdown := true })
    have k := setTemp_tempsOnly s n temp
    exact ⟨_, congrArg next (if_pos ⟨hn, ht⟩), hboot.of_tempsOnly k, by rw [hpwr], by rw [partRuns, hpwr]; simp, hflash.trans k.cutDying⟩
  case shutdownElse => exact congrArg next (if_neg (by omega))
  case cooled =>
    obtain ⟨hboot, hflash, hpwr⟩ := allReset_atBoot (setTemps s ts) (fun p => { p with powerGood := s.pwr.powerGood, shutdown := false })
    have k := setTemps_tempsOnly s ts
    exact ⟨_, congrArg next (if_pos ⟨hs, hb⟩), hboot.of_tempsOnly k, by rw [hpwr], hflash.trans k.flash⟩
  case cooledElse =>
    refine congrArg next (if_neg ?_)
    rcases h with h | h
    · simp [h]
    · simp [h]

end Sys2Proof.Machine

namespace Sys2Proof.Machine

/-! ### What the operations of the pair leave alone (R449 to R476) -/

/-- `t` is `s` in its pair state but for the seals that bay resynchronisations note, in its scheme, and in its epoch. -/
structure PairSame (s t : State) : Prop where
  mir : ∃ b, t.mir = { s.mir with brs := b }
  scheme : t.scheme = s.scheme
  epoch : regGet t R.belEpoch = regGet s R.belEpoch

namespace PairSame
variable {s t u : State}

theorem of_eq (hm : t.mir = s.mir) (hs : t.scheme = s.scheme) (he : regGet t R.belEpoch = regGet s R.belEpoch) : PairSame s t := ⟨⟨_, hm⟩, hs, he⟩

theorem refl (s : State) : PairSame s s := .of_eq rfl rfl rfl

theorem trans (h : PairSame s t) (k : PairSame t u) : PairSame s u := by
  obtain ⟨⟨_, hm⟩, hs, he⟩ := h
  obtain ⟨⟨b, km⟩, ks, ke⟩ := k
  exact ⟨⟨b, by rw [km, hm]⟩, ks.trans hs, ke.trans he⟩

theorem foldl {α : Type} {f : State → α → State} (hf : ∀ u x, PairSame u (f u x)) (l : List α) (s : State) : PairSame s (l.foldl f s) := by
  induction l generalizing s with
  | nil => exact .refl s
  | cons x l ih => exact (hf s x).trans (ih _)

theorem same (h : PairSame s t) (hm : u.mir = t.mir) (hs : u.scheme = t.scheme) (hr : u.regs = t.regs) : PairSame s u :=
  h.trans (.of_eq hm hs (by rw [regGet, regGet, hr]))

theorem host {as : List Nat} (h : HostOnly s t) (k : RegsBut as s t) (ha : R.belEpoch ∉ as) : PairSame s t := .of_eq h.mir h.scheme (k _ ha)

theorem paired (h : PairSame s t) : paired t = Machine.paired s := by rw [Machine.paired, Machine.paired, pairRec, pairRec, h.scheme]

theorem fld (h : PairSame s t) : fld t R.belEpoch 15 0 = Machine.fld s R.belEpoch 15 0 := by rw [Machine.fld, Machine.fld, h.epoch]

theorem raise (h : PairSame s t) {code bay idx : Nat} {items : List (Nat × Nat)} {att : Option Att} {att2 : Att} : PairSame s (raise code t bay idx items att att2) :=
  h.trans (.host (raise_host ..) (raise_regs _ _ _ _ _ _ _) (by decide))

theorem appendLog (h : PairSame s t) {kind b9 b10 b12 : Nat} : PairSame s (appendLog t kind b9 b10 b12) :=
  h.trans (.host (appendLog_host ..) (appendLog_regs _ _ _ _ _) (by decide))

theorem complete (h : PairSame s t) {cid status : Nat} {res : Att} {fields : List Byte} : PairSame s (complete t cid status res fields) :=
  h.trans (.host (complete_host ..) (complete_regs _ _ _ _ _) (by decide))

theorem regSet (h : PairSame s t) {a v : Nat} (ha : R.belEpoch ≠ a) : PairSame s (regSet t a v) :=
  h.trans (.of_eq (regSet_mir ..) (regSet_scheme ..) (regGet_regSet_ne _ ha))

theorem fldSet (h : PairSame s t) {a hi lo v : Nat} (ha : R.belEpoch ≠ a) : PairSame s (fldSet t a hi lo v) := h.regSet ha

theorem flagSet (h : PairSame s t) {a i : Nat} {v : Bool} (ha : R.belEpoch ≠ a) : PairSame s (flagSet t a i v) := h.regSet ha

theorem bump (h : PairSame s t) {a : Nat} (ha : R.belEpoch ≠ a) : PairSame s (bump t a) := h.regSet ha

end PairSame

theorem mirShow_same (s : State) : PairSame s (mirShow s) := by
  unfold mirShow
  split
  · exact .refl s
  · have h := PairSame.refl s
    exact ((((((((h.fldSet (by decide)).flagSet (by decide)).flagSet (by decide)).flagSet (by decide)).flagSet (by decide)).flagSet (by decide)).flagSet (by decide)).fldSet (by decide)).trans
      (.foldl (fun u i => (PairSame.refl u).regSet (by show 0x4834 ≠ 0x5040 + 0x4 * i; omega)) _ _)

/-- The pair state changed: its registers follow. -/
theorem setMir_same (s : State) (f : Mir → Mir) : PairSame { s with mir := f s.mir } (setMir s f) := mirShow_same _

/-! Samples staged (R162, R163, R455) -/

theorem setBay_same (s : State) (n : Nat) (b : Bay) : PairSame s (setBay s n b) := .of_eq rfl rfl rfl

theorem modBay_same (s : State) (n : Nat) (f : Bay → Bay) : PairSame s (modBay s n f) := by
  unfold modBay
  split
  · exact setBay_same ..
  · exact .refl s

theorem slotOverflow_same (s : State) (n c : Nat) : PairSame s (slotOverflow s n c) := by
  unfold slotOverflow
  extract_lets s1
  have h1 : PairSame s s1 := ((PairSame.refl s).bump (by decide)).flagSet (by decide)
  split
  · exact h1
  · exact iteInduction (fun _ => h1) (fun _ => (h1.trans (setBay_same ..)).raise)

theorem stage_same (s : State) (n c : Nat) (w : SampleWord) : PairSame s (stage s n c w) := by
  unfold stage
  split
  · exact .refl s
  · split
    · exact .refl s
    · split
      · exact slotOverflow_same ..
      · extract_lets x s1
        split
        · split
          · exact ⟨⟨_, rfl⟩, rfl, rfl⟩
          · exact setBay_same ..
        · exact setBay_same ..

theorem stageAfter_same (s : State) (n c : Nat) (w : SampleWord) : PairSame s (stageAfter s n c w) := by
  unfold stageAfter
  split
  · split
    · exact stage_same ..
    · exact .refl s
  · exact .refl s

theorem endSwitch_same (s : State) (n c : Nat) : PairSame s (endSwitch s n c) := by
  unfold endSwitch
  split
  · exact (modBay_same ..).trans (.foldl (fun _ _ => stageAfter_same ..) _ _)
  · exact .refl s

theorem stageNew_same (s : State) (n c : Nat) (w : SampleWord) : PairSame s (stageNew s n c w) := by
  unfold stageNew
  split
  · split
    · exact .refl s
    · split
      · exact (endSwitch_same ..).trans (stageAfter_same ..)
      · exact modBay_same ..
  · exact stageAfter_same ..

theorem stageOld_same (s : State) (n c : Nat) (w : SampleWord) : PairSame s (stageOld s n c w) := by
  unfold stageOld
  split
  · split
    · exact stageAfter_same ..
    · exact endSwitch_same ..
  · exact .refl s

theorem stageLocal_same (s : State) (ch : Nat) (s4 : Bool) (w : SampleWord) : PairSame s (stageLocal s ch s4 w) := by
  refine .foldl (fun u p => ?_) _ s
  split
  · split
    · split
      · exact stageOld_same ..
      · exact stageNew_same ..
    · exact .refl u
  · exact .refl u

/-- The pair state once the standby uses its own samples. -/
def Mir.own (m : Mir) : Mir := { m with inUse := false, binsMir := false, since := none, aside := [] }

theorem useOwn_same (s : State) : PairSame { s with mir := s.mir.own } (useOwn s) :=
  (setMir_same s Mir.own).trans (.foldl (fun _ _ => .foldl (fun _ _ => stageLocal_same ..) _ _) _ _)

/-! Transitions (R27, R457) -/

theorem showDbg_same (s : State) : PairSame s (showDbg s) := ((PairSame.refl s).regSet (by decide)).flagSet (by decide)

theorem endGrant_same (s : State) (cause : Nat) : PairSame s (endGrant s cause) := by
  unfold endGrant
  split
  · exact .refl s
  · extract_lets req _ _ s1
    have h1 : PairSame s s1 := .of_eq rfl rfl rfl
    exact (h1.trans (showDbg_same _)).raise

theorem leaveTest_same (s : State) : PairSame s (leaveTest s) := by
  unfold leaveTest
  split
  · refine PairSame.trans ?_ (showDbg_same _)
    exact .of_eq rfl rfl rfl
  · exact .refl s

theorem dtoAll_same (s : State) : PairSame s (dtoAll s) := by
  unfold dtoAll
  extract_lets frozen
  split
  · exact .refl s
  · exact (((PairSame.foldl (f := dtoStep) (fun _ _ => .of_eq rfl rfl rfl) _ s)).fldSet (by decide)).fldSet (by decide)

/-- A mode entered leaves the pair state and the scheme, and outside an entry to SERVICE from BOOT or COMMISSION the epoch (R457). -/
theorem enterMode_same {s : State} {m : Mode} (h : m = .service → s.dev.mode ≠ .boot ∧ s.dev.mode ≠ .commission) (at_ : Inst) : PairSame s (enterMode s m at_) := by
  unfold enterMode
  extract_lets u old clr d0 d s1 pw s2 s3 s4
  have hu : u.dev.mode = s.dev.mode := by rw [show u = leaveTest s from rfl, leaveTest_dev]
  have hl : PairSame s u := leaveTest_same s
  clear_value d u
  have h0 : PairSame s { u with dev := d } := hl.same rfl rfl rfl
  have h1 : PairSame s s1 := h0.raise.appendLog
  clear_value s1
  have h2 : PairSame s s2 := by
    unfold s2
    split
    · refine .raise ?_
      exact h1.same rfl rfl rfl
    · exact h1
  have h3 : PairSame s s3 := by
    unfold s3
    split
    · exact h2.trans (endGrant_same ..)
    · exact h2
  have h4 : s4 = s3 := by
    refine if_neg ?_
    rintro ⟨-, hm, ho⟩
    obtain ⟨hb, hc⟩ := h hm
    exact ho.elim (fun ho => hb (hu ▸ ho)) (fun ho => hc (hu ▸ ho))
  rw [h4]
  exact (h3.trans (dtoAll_same _)).trans (mirShow_same _)

end Sys2Proof.Machine

namespace Sys2Proof.Machine

/-! ### Frames handed to the lanes (R451) -/

/-- `t` is `s` after the lanes took or started frames: neither lane has come up, gone down or counted a heartbeat. -/
structure LanesOnly (s t : State) : Prop where
  rest : t = { s with mir := t.mir }
  mir : t.mir = { s.mir with laneA := t.mir.laneA, laneB := t.mir.laneB, sent := t.mir.sent }
  up : ∀ l, (lane t l).up = (lane s l).up
  good : ∀ l, (lane t l).good = (lane s l).good

theorem LanesOnly.refl (s : State) : LanesOnly s s := ⟨rfl, rfl, fun _ => rfl, fun _ => rfl⟩

theorem LanesOnly.trans {s t u : State} (h : LanesOnly s t) (k : LanesOnly t u) : LanesOnly s u :=
  ⟨k.rest.trans (by rw [h.rest]), k.mir.trans (by rw [h.mir]), fun l => (k.up l).trans (h.up l), fun l => (k.good l).trans (h.good l)⟩

theorem LanesOnly.foldl {α : Type} {f : State → α → State} (hf : ∀ u x, LanesOnly u (f u x)) (l : List α) (s : State) : LanesOnly s (l.foldl f s) := by
  induction l generalizing s with
  | nil => exact .refl s
  | cons x l ih => exact (hf s x).trans (ih _)

/-- Lane `l` replaced by one that is as much up and has counted as much. -/
theorem setLane_lanesOnly {s : State} {l : Nat} {x : Lane} (hu : x.up = (lane s l).up) (hg : x.good = (lane s l).good) (sent : List (Nat × List Byte)) :
    LanesOnly s { s with mir := { s.mir.setLane l x with sent := sent } } := by
  unfold Mir.setLane
  by_cases hl : l = 0
  · simp only [lane, hl, if_true] at hu hg ⊢
    refine ⟨rfl, rfl, fun k => ?_, fun k => ?_⟩ <;> by_cases hk : k = 0 <;> simp [lane, hk, hu, hg]
  · simp only [lane, hl, if_false] at hu hg ⊢
    refine ⟨rfl, rfl, fun k => ?_, fun k => ?_⟩ <;> by_cases hk : k = 0 <;> simp [lane, hk, hu, hg]

theorem drainLane_lanesOnly (s : State) (l : Nat) : LanesOnly s (drainLane s l) := by
  unfold drainLane
  extract_lets x
  split
  · refine iteInduction (fun _ => ?_) (fun _ => .refl s)
    refine setLane_lanesOnly ?_ ?_ _ <;> rfl
  · exact .refl s

theorem lanePut_lanesOnly (s : State) (l ty : Nat) (f : List Byte) : LanesOnly s { s with mir := s.mir.setLane l ((lane s l).put ty f) } :=
  setLane_lanesOnly (x := (lane s l).put ty f) rfl rfl (s.mir.setLane l ((lane s l).put ty f)).sent

/-- The pair state with the next sequence number of a type. -/
def Mir.nextSeq (m : Mir) (ty : Nat) : Mir := { m with txSeq := tset m.txSeq ty ((tget 0 m.txSeq ty + 1) % 2 ^ 32) }

theorem linkSend_sent {s : State} {ty : Nat} (h : (!paired s || (pairBad s && decide (ty ≠ 1))) = false) (part count : Nat) (payload : List Byte) :
    LanesOnly { s with mir := s.mir.nextSeq ty } (linkSend s ty part count payload) := by
  rw [linkSend, if_neg (by rw [h]; exact Bool.false_ne_true)]
  exact .foldl (fun u l => (lanePut_lanesOnly u l _ _).trans (drainLane_lanesOnly _ l)) _ _

theorem linkSend_idle {s : State} {ty : Nat} (h : (!paired s || (pairBad s && decide (ty ≠ 1))) = true) (part count : Nat) (payload : List Byte) :
    linkSend s ty part count payload = s := by
  rw [linkSend, if_pos h]

/-- `t` is `s` but for frames of type `ty` handed to the lanes. -/
structure LinkSent (ty : Nat) (s t : State) : Prop where
  rest : t = { s with mir := t.mir }
  mir : t.mir = { s.mir with txSeq := t.mir.txSeq, laneA := t.mir.laneA, laneB := t.mir.laneB, sent := t.mir.sent }
  seq : ∀ x, x ≠ ty → tget 0 t.mir.txSeq x = tget 0 s.mir.txSeq x
  up : ∀ l, (lane t l).up = (lane s l).up
  good : ∀ l, (lane t l).good = (lane s l).good

theorem linkSend_linkSent (s : State) (ty part count : Nat) (payload : List Byte) : LinkSent ty s (linkSend s ty part count payload) := by
  cases h : !paired s || (pairBad s && decide (ty ≠ 1)) with
  | true =>
    rw [linkSend_idle h]
    exact ⟨rfl, rfl, fun _ _ => rfl, fun _ => rfl, fun _ => rfl⟩
  | false =>
    have k := linkSend_sent h part count payload
    have ktx : (linkSend s ty part count payload).mir.txSeq = (s.mir.nextSeq ty).txSeq := by rw [k.mir]
    refine ⟨k.rest, ?_, fun x hx => ?_, k.up, k.good⟩
    · rw [k.mir]
      rfl
    · rw [ktx, Mir.nextSeq, tget, tget_tset, if_neg hx, tget]

theorem LinkSent.dev {ty : Nat} {s t : State} (h : LinkSent ty s t) : t.dev = s.dev := by rw [h.rest]

theorem LinkSent.scheme {ty : Nat} {s t : State} (h : LinkSent ty s t) : t.scheme = s.scheme := by rw [h.rest]

theorem linkEvent_linkSent (s : State) (kind bay : Nat) (e : EvalAt) (arg : List Byte) : LinkSent 3 s (linkEvent s kind bay e arg) := linkSend_linkSent ..

@[simp] theorem linkEvent_dev (s : State) (kind bay : Nat) (e : EvalAt) (arg : List Byte) : (linkEvent s kind bay e arg).dev = s.dev := (linkEvent_linkSent ..).dev

/-! ### Waiting commands let go of, and a hand-over cancelled (R473 to R476) -/

/-- The pair state without a resynchronisation. -/
def Mir.unsync (m : Mir) : Mir := { m with full := none, one := [], brs := [], retry := [] }

theorem stopResync_same (s : State) : PairSame { s with mir := s.mir.unsync } (stopResync s) :=
  (setMir_same s Mir.unsync).trans (.foldl (fun u _ => (PairSame.refl u).complete) _ _)

theorem endRole_same (s : State) (status : Nat) (att : Att) : PairSame { s with mir := { s.mir with role := none } } (endRole s status att) := by
  unfold endRole
  split
  · extract_lets m s1
    have h1 : PairSame { s with mir := { s.mir with role := none } } s1 := .of_eq rfl rfl rfl
    split
    · exact h1.complete
    · exact h1
  · rename_i h
    exact .of_eq (by rw [← h]) rfl rfl

/-- A hand-over cancelled: none is under way; besides, a waiting MIR_ROLE ends and frames are sent. -/
theorem cancelHand_mir (s : State) : ∃ r b tx la lb se,
    (cancelHand s).mir = { s.mir with hand := none, role := r, brs := b, txSeq := tx, laneA := la, laneB := lb, sent := se } := by
  unfold cancelHand
  split
  · rename_i h
    exact ⟨s.mir.role, s.mir.brs, s.mir.txSeq, s.mir.laneA, s.mir.laneB, s.mir.sent, by rw [← h]⟩
  · extract_lets e s1 s2
    obtain ⟨b1, h1⟩ : ∃ b, s1.mir = { s.mir with hand := none, brs := b } := (setMir_same s (fun m => { m with hand := none })).mir
    obtain ⟨tx, la, lb, se, h2⟩ : ∃ tx la lb se, s2.mir = { s1.mir with txSeq := tx, laneA := la, laneB := lb, sent := se } := by
      unfold s2
      split
      · exact ⟨_, _, _, _, (linkEvent_linkSent s1 ..).mir⟩
      · exact ⟨s1.mir.txSeq, s1.mir.laneA, s1.mir.laneB, s1.mir.sent, rfl⟩
    obtain ⟨b3, h3⟩ := (endRole_same (raise 0x0C0C s2) stAborted Att.zero).mir
    exact ⟨none, b3, tx, la, lb, se, by rw [h3, raise_mir, h2, h1]⟩

@[simp] theorem cancelHand_dev (s : State) : (cancelHand s).dev = s.dev := by
  unfold cancelHand
  split
  · rfl
  · extract_lets e s1 s2
    have h2 : s2.dev = s.dev := by
      unfold s2
      split
      · exact (linkEvent_dev ..).trans (setMir_dev ..)
      · exact setMir_dev ..
    rw [endRole_dev, raise_dev, h2]

@[simp] theorem cancelHand_hand (s : State) : (cancelHand s).mir.hand = none := by
  obtain ⟨_, _, _, _, _, _, h⟩ := cancelHand_mir s
  rw [h]

/-- A pair state entered: its number, and the tick of the change. -/
theorem setPstate_same (s : State) (v : Nat) : ∃ t, PairSame { s with mir := { s.mir with pstate := v, syncSince := t } } (setPstate s v) := by
  unfold setPstate
  split
  · rename_i h
    exact ⟨s.mir.syncSince, .of_eq (by rw [← h]) rfl rfl⟩
  · refine ⟨some s.dev.ticks, PairSame.trans ?_ (setMir_same _ _)⟩
    split
    · exact .of_eq rfl rfl rfl
    · exact .of_eq (by rw [flagSet_mir]) (flagSet_scheme s R.mirStat 23 false) (regGet_flagSet_ne s (by decide))

@[simp] theorem setPstate_dev (s : State) (v : Nat) : (setPstate s v).dev = s.dev := by
  unfold setPstate
  split
  · rfl
  · rw [setMir_dev]
    split
    · rfl
    · exact flagSet_dev ..

end Sys2Proof.Machine

namespace Sys2Proof.Machine

/-! ### The takeover (R466, R476) -/

theorem modCtx_dev (s : State) (n : Nat) (f : Ctx → Ctx) : (modCtx s n f).dev = s.dev := by
  have h : (modBay s n (fun b => { b with ctx := f b.ctx })).dev = s.dev := modBay_dev ..
  unfold modCtx
  extract_lets s1
  split
  · exact h
  · exact h

theorem setRun_dev (s : State) (n v : Nat) : (setRun s n v).dev = s.dev := modBay_dev ..

theorem takeBay_dev (snap : Option (Nat × List (List Byte))) (at_ : Inst) (s : State) (p : Nat × Bay) : (takeBay snap at_ s p).dev = s.dev := by
  unfold takeBay
  extract_lets n b keep s1 drop s2
  have h2 : s2.dev = s.dev := by
    unfold s2
    split
    · exact setRun_dev ..
    · split
      · exact setRun_dev ..
      · rfl
  split
  · exact (modCtx_dev ..).trans h2
  · split
    · exact h2
    · extract_lets s3 g cur
      have h3 : s3.dev = s.dev := (modCtx_dev ..).trans h2
      split
      · exact h3
      · exact h3

/-- The standby as the active alone, with the next epoch (R457, R466). -/
def takenOver (s : State) (epoch : Nat) (at_ : Inst) : State :=
  setPstate (enterMode (endRole (useOwn (setMir (setEpoch s epoch) (fun m => { m with takeover := none, iso := false, synced := [] }))) stAborted Att.zero) .service at_) 1

theorem takeoverEffect_eq (s : State) (k : Takeover) : ∃ (u : State) (items : List (Nat × Nat)) (att : Att), u.dev.mode = s.dev.mode ∧
    takeoverEffect s k = raise 0x0C06 (bump (takenOver u ((fld s R.belEpoch 15 0 % 2 ^ 15 + 1) % 2 ^ 15) k.at_) R.mirTakeoverCnt) (items := items) (att := some att) := by
  unfold takeoverEffect
  extract_lets old new cur parts d s0 s1 s2 pubs s3 s4 s5
  refine ⟨s3, _, _, ?_, rfl⟩
  have h0 : s0.dev.mode = s.dev.mode := by
    unfold s0
    split
    · split
      · rw [complete_dev]
      · rfl
    · rfl
  have h2 : s2.dev = s1.dev := foldl_dev (fun _ _ => takeBay_dev ..) _ _
  have h3 : s3.dev = s2.dev := by
    refine foldl_dev (fun st r => ?_) _ _
    rfl
  rw [h3, h2, show s1.dev = s0.dev from by rw [cancelHand_dev, stopResync_dev], h0]

theorem takenOver_dev (s : State) (epoch : Nat) (at_ : Inst) :
    (takenOver s epoch at_).dev.mode = .service ∧ (takenOver s epoch at_).dev.prev = s.dev.mode ∧ (takenOver s epoch at_).dev.since = at_ := by
  simp [takenOver, enterMode_dev]

theorem setEpoch_epoch (s : State) {e : Nat} (he : e < 2 ^ 16) : fld (setEpoch s e) R.belEpoch 15 0 = e := by
  unfold setEpoch
  split
  · assumption
  · exact (fld_fldSet s (by decide) (by decide)).trans (Nat.mod_eq_of_lt he)

theorem takenOver_pair {s : State} (hs : s.dev.mode = .vigil) {epoch : Nat} (he : epoch < 2 ^ 16) (at_ : Inst) :
    (takenOver s epoch at_).mir.takeover = none ∧ (takenOver s epoch at_).mir.pstate = 1 ∧ (takenOver s epoch at_).mir.inUse = false ∧
      fld (takenOver s epoch at_) R.belEpoch 15 0 = epoch := by
  unfold takenOver
  have hm := setMir_same (setEpoch s epoch) (fun m => { m with takeover := none, iso := false, synced := [] })
  have hu := useOwn_same (setMir (setEpoch s epoch) (fun m => { m with takeover := none, iso := false, synced := [] }))
  have hv : (useOwn (setMir (setEpoch s epoch) (fun m => { m with takeover := none, iso := false, synced := [] }))).dev.mode = .vigil := by
    rw [useOwn_dev, setMir_dev, setEpoch_dev, hs]
  generalize setMir (setEpoch s epoch) (fun m => { m with takeover := none, iso := false, synced := [] }) = a at hm hu hv ⊢
  generalize useOwn a = b at hu hv ⊢
  have hr := endRole_same b stAborted Att.zero
  have hn := enterMode_same (s := endRole b stAborted Att.zero) (m := .service) (fun _ => by simp [hv]) at_
  generalize enterMode (endRole b stAborted Att.zero) .service at_ = c at hn ⊢
  obtain ⟨t, hp⟩ := setPstate_same c 1
  have hmir := hp.mir
  obtain ⟨x1, h1⟩ := hm.mir
  obtain ⟨x2, h2⟩ := hu.mir
  obtain ⟨x3, h3⟩ := hr.mir
  obtain ⟨x4, h4⟩ := hn.mir
  obtain ⟨x5, h5⟩ := hp.mir
  have hepoch : fld (setPstate c 1) R.belEpoch 15 0 = fld (setEpoch s epoch) R.belEpoch 15 0 :=
    hp.fld.trans (hn.fld.trans (hr.fld.trans (hu.fld.trans hm.fld)))
  rw [hepoch, setEpoch_epoch s he, h5]
  dsimp only
  rw [h4, h3]
  dsimp only
  rw [h2]
  dsimp only [Mir.own]
  rw [h1]
  exact ⟨rfl, rfl, rfl, rfl⟩

/-! ### Hand-overs and contention (R471 to R473) -/

theorem detectTakeover_eq {s : State} (hm : s.dev.mode = .vigil) (ht : s.mir.takeover = none) (cause : Nat) :
    detectTakeover s cause = setMir (cancelHand s) (fun m => { m with takeover := some ⟨cause, effectInst s, currentSnap s⟩ }) :=
  if_pos ⟨hm, by rw [ht]; rfl⟩

theorem propose_hand (s : State) (cause : Nat) (force : Bool) :
    (propose s cause force).mir.hand = some ⟨true, firstGrid 14400 (now s + msI), false, false, true, force, s.dev.ticks, cause⟩ := by
  rw [propose, setMir_mir]

theorem propose_role (s : State) (cause : Nat) (force : Bool) : (propose s cause force).mir.role = s.mir.role := by
  rw [propose, setMir_mir, (linkEvent_linkSent ..).mir]

theorem propose_dev (s : State) (cause : Nat) (force : Bool) : (propose s cause force).dev = s.dev := by
  rw [propose, setMir_dev, linkEvent_dev]

/-- A hand-over taken off: revert ready ends, and the tick is noted. -/
def handCleared (s : State) (at_ : Ticks) : State := setMir (flagSet s R.mirStat 23 false) (fun m => { m with hand := none, syncSince := some at_ })

/-- The unit in its new role (R473 step 4). -/
def handSwapped (s : State) (h : HandOver) : State :=
  if h.mine then
    let a := handCleared (enterMode s .vigil h.kh) s.dev.ticks
    setMir a (fun m => { m with inUse := pairFlag a 0, binsMir := pairFlag a 0 && pairFlag a 1, since := some s.dev.ticks, irOut := [] })
  else useOwn (handCleared (enterMode s .service h.kh) s.dev.ticks)

/-- The revert suspended by a hand-over for MIR_ROLE (R472). -/
def revertHeld (s : State) (h : HandOver) : State := if h.cause = 1 then flagSet s R.mirStat 22 true else s

theorem handEffect_eq (s : State) (h : HandOver) : handEffect s h =
    endRole (raise 0x0C07 (bump (revertHeld (handSwapped s h) h) R.mirRoleCnt) (items := [(1, h.cause)]) (att2 := attAt (revertHeld (handSwapped s h) h) h.kh)) stOk
      (attAt (revertHeld (handSwapped s h) h) h.kh) := rfl

theorem handSwapped_dev (s : State) (h : HandOver) :
    (handSwapped s h).dev.mode = (if h.mine then Mode.vigil else Mode.service) ∧ (handSwapped s h).dev.since = h.kh := by
  unfold handSwapped handCleared
  cases h.mine <;> simp [enterMode_dev]

theorem handSwapped_hand (s : State) (h : HandOver) : (handSwapped s h).mir.hand = none := by
  unfold handSwapped handCleared
  split
  · dsimp only
    rw [setMir_mir, setMir_mir]
  · obtain ⟨b, hb⟩ := (useOwn_same (setMir (flagSet (enterMode s .service h.kh) R.mirStat 23 false) (fun m => { m with hand := none, syncSince := some s.dev.ticks }))).mir
    rw [hb]
    dsimp only [Mir.own]
    rw [setMir_mir]

theorem endRole_regs (s : State) (status : Nat) (att : Att) : RegsBut [R.hifLogDrop] s (endRole s status att) := by
  unfold endRole
  split
  · extract_lets m s1
    have h1 : RegsBut [R.hifLogDrop] s s1 := .same rfl
    split
    · exact h1.trans (complete_regs _ _ _ _ _)
    · exact h1
  · exact .refl _ s

theorem revertHeld_dev (s : State) (h : HandOver) : (revertHeld s h).dev = s.dev := by
  unfold revertHeld
  split
  · exact flagSet_dev ..
  · rfl

theorem revertHeld_mir (s : State) (h : HandOver) : (revertHeld s h).mir = s.mir := by
  unfold revertHeld
  split
  · exact flagSet_mir ..
  · rfl

/-- The units have swapped roles: the mode, no hand-over under way, and the revert held off after MIR_ROLE. -/
theorem handEffect_swaps (s : State) (h : HandOver) :
    (handEffect s h).dev.mode = (if h.mine then Mode.vigil else Mode.service) ∧ (handEffect s h).dev.since = h.kh ∧ (handEffect s h).mir.hand = none ∧
      (h.cause = 1 → flag (handEffect s h) R.mirStat 22 = true) := by
  rw [handEffect_eq, endRole_dev, raise_dev, bump_dev, revertHeld_dev]
  obtain ⟨hm, hs⟩ := handSwapped_dev s h
  refine ⟨hm, hs, ?_, fun hc => ?_⟩
  · obtain ⟨b, hb⟩ := (endRole_same (raise 0x0C07 (bump (revertHeld (handSwapped s h) h) R.mirRoleCnt) (items := [(1, h.cause)]) (att2 := attAt (revertHeld (handSwapped s h) h) h.kh)) stOk
      (attAt (revertHeld (handSwapped s h) h) h.kh)).mir
    rw [hb, raise_mir, bump_mir, revertHeld_mir]
    exact handSwapped_hand s h
  · rw [flag, endRole_regs _ _ _ _ (by decide), raise_regs _ _ _ _ _ _ _ _ (by decide), regGet_bump_ne _ (by decide), revertHeld, if_pos hc]
    exact flag_flagSet _ (by decide)

theorem setMir_scheme (s : State) (f : Mir → Mir) : (setMir s f).scheme = s.scheme := (mirShow_host _).scheme

theorem useOwn_scheme (s : State) : (useOwn s).scheme = s.scheme := (useOwn_same s).scheme

/-- What the pair logic lets go of in the pair state. -/
theorem pairLetGo_mir {s : State} (hp : paired s = true) : (pairLetGo s).mir.contention = none ∧ (pairLetGo s).mir.hand = none ∧ (pairLetGo s).scheme = s.scheme := by
  unfold pairLetGo
  rw [if_neg (by simp [hp])]
  extract_lets s1
  have hs1 : s1.scheme = s.scheme := (endRole_same _ _ _).scheme.trans (stopResync_same s).scheme
  clear_value s1
  have k := (useOwn_same (setMir s1 (fun m => { m with takeover := none, hand := none, contention := none, synced := [], syncSince := none, iso := false, matched := false, irOut := [] })))
  obtain ⟨b, hb⟩ := k.mir
  refine ⟨?_, ?_, ?_⟩
  · rw [hb]
    dsimp only [Mir.own]
    rw [setMir_mir]
  · rw [hb]
    dsimp only [Mir.own]
    rw [setMir_mir]
  · rw [useOwn_scheme, setMir_scheme, hs1]

/-- Entering VIGIL, a paired unit shows pair state 2 and lets go of what the other role waited for. -/
theorem changeMode_vigil {s : State} (hp : paired s = true) (at_ : Inst) :
    (changeMode s .vigil at_).mir.pstate = 2 ∧ (changeMode s .vigil at_).mir.contention = none ∧ (changeMode s .vigil at_).mir.hand = none := by
  obtain ⟨hc, hh, hs⟩ := pairLetGo_mir hp
  have k := enterMode_same (s := pairLetGo s) (m := .vigil) (fun h => by simp at h) at_
  have hpd : paired (enterMode (pairLetGo s) .vigil at_) = true := by rw [k.paired, paired, pairRec, hs]; exact hp
  obtain ⟨b, hb⟩ := k.mir
  unfold changeMode
  dsimp only
  rw [if_pos hpd, setMir_mir, flagSet_mir, hb]
  exact ⟨rfl, hc, hh⟩

theorem changeMode_since (s : State) (m : Mode) (at_ : Inst) : (changeMode s m at_).dev.since = at_ := by
  rw [changeMode_dev, enterMode_dev]

end Sys2Proof.Machine

namespace Sys2Proof.Machine

/-! ### The roles move: `Obligations.RolesMoveBetweenTheUnits` -/

/-- MIR_ROLE in a mode of the pair with parameters in range, for a role that the unit does not hold, of a paired unit that is SYNCED (R474). -/
structure RoleAsked (s : State) (e : CmdEntry) : Prop where
  mode : s.dev.mode = .service ∨ s.dev.mode = .vigil
  target : field e.params 0 1 ≤ 1
  force : field e.params 1 1 ≤ 1
  other : ¬(field e.params 0 1 = 0 ↔ s.dev.mode = .service)

section MirRole
variable {s : State} {e : CmdEntry} {cid : Nat}

theorem ownMirRole_mode (h1 : s.dev.mode ≠ .service) (h2 : s.dev.mode ≠ .vigil) : ownMirRole e cid s = .rej s stBadMode := by
  simp [ownMirRole, h1, h2]

theorem ownMirRole_param (hm : s.dev.mode = .service ∨ s.dev.mode = .vigil) (h : 2 < field e.params 0 1 ∨ 1 < field e.params 1 1) :
    ownMirRole e cid s = .rej s stBadParam := by
  unfold ownMirRole
  extract_lets tgt force active
  rw [if_neg (by rcases hm with hm | hm <;> simp [active, hm]), if_pos h]

theorem ownMirRole_resume (hm : s.dev.mode = .service ∨ s.dev.mode = .vigil) (ht : field e.params 0 1 = 2) (hf : field e.params 1 1 ≤ 1) :
    ownMirRole e cid s = .ok (flagSet s R.mirStat 22 false) := by
  unfold ownMirRole
  extract_lets tgt force active
  rw [if_neg (by rcases hm with hm | hm <;> simp [active, hm]), if_neg (by omega), if_pos ht]

theorem ownMirRole_held (hm : s.dev.mode = .service ∨ s.dev.mode = .vigil) (ht : field e.params 0 1 ≤ 1) (hf : field e.params 1 1 ≤ 1)
    (h : field e.params 0 1 = 0 ↔ s.dev.mode = .service) : ownMirRole e cid s = .ok s := by
  unfold ownMirRole
  extract_lets tgt force active
  rw [if_neg (by rcases hm with hm | hm <;> simp [active, hm]), if_neg (by omega), if_neg (show ¬tgt = 2 by omega), if_pos (decide_eq_decide.mpr h)]

/-- MIR_ROLE waiting for its move (R474). -/
def roleWaits (s : State) (e : CmdEntry) (cid : Nat) : State :=
  { s with mir := { s.mir with role := some ⟨field e.params 0 1, bitOf (field e.params 1 1) 0, s.dev.ticks + 10 * secT, some cid⟩ } }

/-- The active proposes at once when forced; the standby asks the active. -/
def roleBegun (s : State) (force : Bool) : State :=
  if s.dev.mode = .service then (if force then propose s 1 true else s) else linkEvent s 11 0xFFFF ⟨0, 0⟩ (leBytes 1 (b2n force))

/-- What MIR_ROLE for the other role asks next (R474). -/
theorem ownMirRole_asked (h : RoleAsked s e) : ownMirRole e cid s =
    if !paired s || decide (s.mir.pstate ≠ 3) then .rej s stNoResource
    else if s.mir.takeover.isSome || s.mir.hand.isSome || s.mir.role.isSome || s.mir.full.isSome || !s.mir.brs.isEmpty || !s.mir.one.isEmpty then .rej s stBusy
    else .later (roleBegun (roleWaits s e cid) (bitOf (field e.params 1 1) 0)) := by
  obtain ⟨hm, ht, hf, ho⟩ := h
  unfold ownMirRole
  extract_lets tgt force active s1
  rw [if_neg (by rcases hm with hm | hm <;> simp [active, hm]), if_neg (by omega), if_neg (show ¬tgt = 2 by omega), if_neg (fun k => ho (decide_eq_decide.mp k))]
  refine ite_congr rfl (fun _ => rfl) fun _ => ite_congr rfl (fun _ => rfl) fun _ => ?_
  rw [roleBegun]
  refine Eq.trans ?_ (apply_ite CmdOut.later _ _ _).symm
  exact if_congr decide_eq_true_iff rfl rfl

/-- A MIR_ROLE that waits, and the hand-over or the request that it begins. -/
theorem roleBegun_waits (hm : s.dev.mode = .service ∨ s.dev.mode = .vigil) (hh : s.mir.hand = none) (force : Bool) :
    (roleBegun s force).mir.role = s.mir.role ∧ (roleBegun s force).mir.hand.isSome = (decide (s.dev.mode = .service) && force) := by
  rcases hm with hm | hm
  · rw [roleBegun, if_pos hm]
    cases force with
    | true => exact ⟨propose_role .., by rw [if_pos rfl, propose_hand]; simp [hm]⟩
    | false => exact ⟨rfl, by simp [hh]⟩
  · rw [roleBegun, if_neg (by simp [hm]), (linkEvent_linkSent ..).mir]
    exact ⟨rfl, by simp [hm, hh]⟩

end MirRole

theorem accepted_paired (s : State) (op : Nat) (e : CmdEntry) (i : Nat) : paired (accepted s op e i) = paired s := by rw [accepted_eq]; rfl

theorem execMirRoleQuietTimeout_waits {s : State} {r : RoleReq} (h : s.mir.role = some r) :
    exec .mirRoleQuietTimeout s = .next (if s.mir.hand.isNone && decide (r.until_ ≤ s.dev.ticks) then endRole s stAborted Att.zero else s) := by
  show execMirRoleQuietTimeout s = _
  simp only [execMirRoleQuietTimeout, h]
  split <;> rfl

/-- PARTNER_LOSS by the mode of the unit that has lost its partner (R465). -/
def lostPartner (s : State) : State :=
  if s.dev.mode = .vigil then detectTakeover s 0 else if s.dev.mode = .service then (if s.mir.pstate = 1 then s else setPstate (cancelHand (stopResync s)) 1) else s

/-- No report of the partner within 3 ms (R465). -/
def silent (s : State) (t : Option Ticks) : Bool := match t with | some k => decide (k + 3 * msT < s.dev.ticks) | none => true

theorem execPartnerLoss_eq (s : State) : exec .partnerLoss s =
    .next (if paired s && silent s s.mir.lastHb && silent s s.mir.lastBcn && decide (s.dev.since + 3 * msI < now s) then lostPartner s else s) := by
  show execPartnerLoss s = _
  unfold execPartnerLoss lostPartner
  extract_lets old
  rw [apply_ite Host.Outcome.next]
  refine if_congr Iff.rfl ?_ rfl
  cases s.dev.mode <;> rfl

/-- An active that is alone: no resynchronisation, no hand-over. -/
theorem activeAlone (s : State) : (setPstate (cancelHand (stopResync s)) 1).mir.pstate = 1 ∧ (setPstate (cancelHand (stopResync s)) 1).mir.full = none ∧
    (setPstate (cancelHand (stopResync s)) 1).mir.hand = none := by
  obtain ⟨t, ht⟩ := setPstate_same (cancelHand (stopResync s)) 1
  obtain ⟨b, hb⟩ := ht.mir
  obtain ⟨_, _, _, _, _, _, hc⟩ := cancelHand_mir (stopResync s)
  obtain ⟨b', hs⟩ := (stopResync_same s).mir
  rw [hb]
  dsimp only
  rw [hc]
  dsimp only
  rw [hs]
  exact ⟨rfl, rfl, rfl⟩

theorem execTakeoverEffect_some {s : State} {k : Takeover} (h : s.mir.takeover = some k) :
    exec .takeoverEffect s = .next (if s.dev.mode = .vigil ∧ k.at_ ≤ now s then takeoverEffect s k else s) := by
  show execTakeoverEffect s = _
  simp only [execTakeoverEffect, h, ← Bool.decide_and, decide_eq_true_eq]
  split <;> rfl

theorem takeoverEffect_takes {s : State} (hm : s.dev.mode = .vigil) (k : Takeover) :
    (takeoverEffect s k).dev.mode = .service ∧ (takeoverEffect s k).dev.prev = .vigil ∧ (takeoverEffect s k).dev.since = k.at_ ∧
      (takeoverEffect s k).mir.takeover = none ∧ (takeoverEffect s k).mir.pstate = 1 ∧ (takeoverEffect s k).mir.inUse = false ∧
      fld (takeoverEffect s k) R.belEpoch 15 0 = (fld s R.belEpoch 15 0 % 2 ^ 15 + 1) % 2 ^ 15 := by
  obtain ⟨u, items, att, hu, he⟩ := takeoverEffect_eq s k
  rw [hm] at hu
  obtain ⟨h1, h2, h3⟩ := takenOver_dev u ((fld s R.belEpoch 15 0 % 2 ^ 15 + 1) % 2 ^ 15) k.at_
  obtain ⟨h4, h5, h6, h7⟩ := takenOver_pair hu (epoch := (fld s R.belEpoch 15 0 % 2 ^ 15 + 1) % 2 ^ 15) (by omega) k.at_
  rw [he, raise_dev, raise_mir, bump_dev, bump_mir]
  refine ⟨h1, h2.trans hu, h3, h4, h5, h6, ?_⟩
  rw [fld, raise_regs _ _ _ _ _ _ _ _ (by decide), regGet_bump_ne _ (by decide)]
  exact h7

theorem execHandoverTimeout_some {s : State} {h : HandOver} (hh : s.mir.hand = some h) : exec .handoverTimeout s =
    .next (if h.committed = false ∧ (if h.mine then (h.accepted = false ∧ h.since + 200 * usT ≤ s.dev.ticks) ∨ h.kh < now s + 200 * usI else h.kh ≤ now s) then cancelHand s else s) := by
  show execHandoverTimeout s = _
  simp only [execHandoverTimeout, hh]
  cases h.committed with
  | true => rfl
  | false =>
    cases h.mine with
    | true => simp [elapsed, apply_ite next]
    | false => simp [apply_ite next]

theorem execHandoverEffect_some {s : State} {h : HandOver} (hh : s.mir.hand = some h) : exec .handoverEffect s =
    .next (if h.committed = true ∧ h.kh ≤ now s ∧ s.dev.mode = (if h.mine then Mode.service else Mode.vigil) then handEffect s h else s) := by
  show execHandoverEffect s = _
  simp only [execHandoverEffect, hh, Bool.and_eq_true, decide_eq_true_eq, and_assoc, apply_ite next]

theorem execContentionEffect_some {s : State} {k : Inst} (hk : s.mir.contention = some k) : exec .contentionEffect s =
    .next (if s.dev.mode = .service ∧ k ≤ now s then
      raise 0x0C07 (bump (changeMode s .vigil k) R.mirRoleCnt) (items := [(1, 2)]) (att2 := attAt (changeMode s .vigil k) k) else s) := by
  show execContentionEffect s = _
  simp only [execContentionEffect, hk, Bool.and_eq_true, decide_eq_true_eq, apply_ite next]


/-- A MIR_ROLE to VIGIL waits (R474). -/
def roleAsks (s : State) : Bool := (s.mir.role.map (fun r => decide (r.target = 1))).getD false

/-- A partner in VIGIL that is ready to return waits for unit B (R472). -/
def revertAsks (s : State) : Bool := isUnitB s && (s.mir.partner.map (fun p => decide (p.mode = 3) && bitOf p.flags 2)).getD false

/-- Nothing is in the way of a hand-over that the active proposes (R472, R473). -/
structure HandFree (s : State) : Prop where
  active : isActive s = true
  hand : s.mir.hand = none
  contention : s.mir.contention = none
  synced : s.mir.pstate = 3
  link : linkUp s = true
  good : pairBad s = false
  quiet : quietNow s = true

theorem execQuietInstant_asked {s : State} (h : HandFree s) (ha : roleAsks s = true ∨ revertAsks s = true) :
    exec .quietInstant s = .next (propose s (b2n (roleAsks s)) false) := by
  obtain ⟨h1, h2, h3, h4, h5, h6, h7⟩ := h
  show execQuietInstant s = _
  unfold execQuietInstant
  extract_lets role revert
  have hr : role = roleAsks s := by unfold role roleAsks; cases s.mir.role <;> rfl
  have hv : revert = revertAsks s := by unfold revert revertAsks; cases s.mir.partner <;> rfl
  rw [hr, hv]
  exact if_pos (by simp [h1, h2, h3, h4, h5, h6, h7, ha])

theorem execQuietInstant_idle {s : State} (h : ¬(HandFree s ∧ (roleAsks s = true ∨ revertAsks s = true))) : exec .quietInstant s = .next s := by
  show execQuietInstant s = _
  unfold execQuietInstant
  extract_lets role revert
  have hr : role = roleAsks s := by unfold role roleAsks; cases s.mir.role <;> rfl
  have hv : revert = revertAsks s := by unfold revert revertAsks; cases s.mir.partner <;> rfl
  rw [hr, hv]
  refine if_neg fun k => h ?_
  simp only [Bool.and_eq_true, Option.isNone_iff_eq_none, decide_eq_true_eq, Bool.not_eq_true', Bool.or_eq_true] at k
  obtain ⟨⟨⟨⟨⟨⟨⟨h1, h2⟩, h3⟩, h4⟩, h5⟩, h6⟩, h7⟩, ha⟩ := k
  exact ⟨⟨h1, h2, h3, h4, h5, h6, h7⟩, ha⟩

/-- Settles O53, event by event: what each leaves in the pair state and the mode. -/
theorem rolesMoveBetweenTheUnits : Obligations.RolesMoveBetweenTheUnits := by
  intro s
  have hsilent (old : Option Ticks → Bool) (hold : ∀ x, old x = (match x with | some k => decide (k + 3 * msT < s.dev.ticks) | none => true)) (x : Option Ticks) :
      silent s x = old x := by
    rw [hold]
    cases x <;> rfl
  refine ⟨fun old hold => ⟨fun hp hh hb ht => ⟨fun hm hn => ?lossVigil, fun hm hn => ?lossPending, fun hm hn => ?lossService, fun hm hn => ?lossAlone, fun h1 h2 => ?lossElse⟩, fun h => ?lossNone⟩,
    fun k hk => ⟨fun hm ht => ?takeover, fun h => ?takeoverElse⟩, fun h => ?takeoverNone, fun h1 h2 h3 h4 h5 h6 h7 => ?revert, fun h => ?revertElse,
    fun role revert hr hv => ⟨fun h1 h2 h3 h4 h5 h6 h7 h8 => ?quiet, fun h => ?quietElse⟩,
    fun h hh hc => ⟨fun hm => ⟨fun k => ?mineLate, fun k1 k2 => ?mineWaits⟩, fun hm => ⟨fun k => ?otherLate, fun k => ?otherWaits⟩, ?uncommitted⟩,
    fun h hh hc => ⟨?committedNoTimeout, fun hk hm => ?swap, fun k => ?swapElse⟩, fun h => ?noHand, fun k hk => ⟨fun hm ht => ?contention, fun h => ?contentionElse⟩, fun h => ?contentionNone,
    fun r hr => ⟨fun hh hu => ?roleOver, fun h => ?roleWaits⟩, fun h => ?roleNone, fun e i tgt fl ht htgt hfl => ⟨fun h1 h2 => ?badMode, fun hm => ⟨fun h => ?badParam, fun h2 hf => ?resume, fun h1 hf hs => ?held,
      fun h1 hf ho => ⟨fun h => ?noResource, fun hp h3 => ⟨fun h => ?busy, fun k1 k2 k3 k4 k5 k6 => ?waits⟩⟩⟩⟩⟩
  case lossVigil =>
    refine ⟨_, execPartnerLoss_eq s, ?_⟩
    rw [if_pos (by simp [hsilent old hold, hp, hh, hb, ht]), lostPartner, if_pos hm, detectTakeover_eq hm hn, setMir_mir, setMir_dev]
    exact ⟨rfl, cancelHand_hand s, cancelHand_dev s⟩
  case lossPending =>
    rw [execPartnerLoss_eq, lostPartner, if_pos hm, detectTakeover_same (Or.inr hn), ite_self]
  case lossService =>
    obtain ⟨h1, h2, h3⟩ := activeAlone s
    refine ⟨_, execPartnerLoss_eq s, ?_⟩
    rw [if_pos (by simp [hsilent old hold, hp, hh, hb, ht]), lostPartner, if_neg (by simp [hm]), if_pos hm, if_neg hn]
    exact ⟨h1, h2, h3, by rw [setPstate_dev, cancelHand_dev, stopResync_dev]⟩
  case lossAlone =>
    rw [execPartnerLoss_eq, lostPartner, if_neg (c := s.dev.mode = .vigil) (by simp [hm]), if_pos hm, if_pos hn, ite_self]
  case lossElse =>
    rw [execPartnerLoss_eq, lostPartner, if_neg h1, if_neg h2, ite_self]
  case lossNone =>
    rw [execPartnerLoss_eq, if_neg]
    simp only [hsilent old hold, Bool.and_eq_true, decide_eq_true_eq]
    rintro ⟨⟨⟨h1, h2⟩, h3⟩, h4⟩
    rcases h with h | h | h | h
    · simp [h] at h1
    · simp [h] at h2
    · simp [h] at h3
    · exact absurd h4 (Nat.not_lt.mpr h)
  case takeover => exact ⟨_, (execTakeoverEffect_some hk).trans (congrArg _ (if_pos ⟨hm, ht⟩)), takeoverEffect_takes hm k⟩
  case takeoverElse =>
    rw [execTakeoverEffect_some hk, if_neg]
    rintro ⟨hm, ht⟩
    exact h.elim (fun h => h hm) (fun h => absurd ht (Nat.not_le.mpr h))
  case takeoverNone =>
    show execTakeoverEffect s = _
    simp only [execTakeoverEffect, h]
  case revert => exact if_pos (by simp [h1, h2, h3, h4, h5, h6, h7, elapsed])
  case revertElse =>
    refine if_neg ?_
    simp only [Bool.and_eq_true, decide_eq_true_eq, elapsed, Bool.not_eq_true']
    rintro ⟨⟨⟨⟨⟨⟨h1, h2⟩, h3⟩, h4⟩, h5⟩, h6⟩, h7⟩
    rcases h with h | h | h | h | h | h | h
    · simp [h] at h1
    · exact h h2
    · simp [h] at h3
    · simp [h] at h4
    · simp [h] at h5
    · exact h h6
    · exact absurd h7 (Nat.not_le.mpr h)
  case quiet =>
    subst hr hv
    exact ⟨_, execQuietInstant_asked ⟨h1, h2, h3, h4, h5, h6, h7⟩ h8, propose_hand .., propose_dev ..⟩
  case quietElse =>
    subst hr hv
    refine execQuietInstant_idle ?_
    rintro ⟨⟨h1, h2, h3, h4, h5, h6, h7⟩, h8⟩
    rcases h with h | h | h | h | h | h | h | ⟨hr, hv⟩
    · simp [h] at h1
    · simp [h2] at h
    · simp [h3] at h
    · exact h h4
    · simp [h] at h5
    · simp [h] at h6
    · simp [h] at h7
    · exact h8.elim (fun h8 => Bool.noConfusion (hr.symm.trans h8)) (fun h8 => Bool.noConfusion (hv.symm.trans h8))
  case mineLate =>
    exact ⟨_, (execHandoverTimeout_some hh).trans (congrArg _ (if_pos ⟨hc, by rw [if_pos hm]; exact k⟩)), cancelHand_hand s, cancelHand_dev s⟩
  case mineWaits =>
    rw [execHandoverTimeout_some hh, if_neg]
    rw [if_pos hm]
    rintro ⟨-, ⟨ha, hl⟩ | hl⟩
    · exact k1.elim (fun k => by simp [ha] at k) (fun k => absurd hl (Nat.not_le.mpr k))
    · exact absurd hl (Nat.not_lt.mpr k2)
  case otherLate =>
    exact ⟨_, (execHandoverTimeout_some hh).trans (congrArg _ (if_pos ⟨hc, by rw [hm]; exact k⟩)), cancelHand_hand s, cancelHand_dev s⟩
  case otherWaits =>
    rw [execHandoverTimeout_some hh, if_neg]
    rw [hm]
    rintro ⟨-, hl⟩
    exact absurd hl (by simpa using k)
  case uncommitted => rw [execHandoverEffect_some hh, if_neg (by simp [hc])]
  case committedNoTimeout => rw [execHandoverTimeout_some hh, if_neg (by simp [hc])]
  case swap => exact ⟨_, (execHandoverEffect_some hh).trans (congrArg _ (if_pos ⟨hc, hk, hm⟩)), handEffect_swaps s h⟩
  case swapElse =>
    rw [execHandoverEffect_some hh, if_neg]
    rintro ⟨-, hk, hm⟩
    exact k.elim (fun k => absurd hk (Nat.not_le.mpr k)) (fun k => k hm)
  case noHand =>
    show execHandoverTimeout s = _ ∧ execHandoverEffect s = _
    simp only [execHandoverTimeout, execHandoverEffect, h, and_self]
  case contention =>
    refine ⟨_, (execContentionEffect_some hk).trans (congrArg _ (if_pos ⟨hm, ht⟩)), ?_⟩
    rw [raise_dev, raise_mir, bump_dev, bump_mir]
    obtain ⟨h1, h2, -, -⟩ := changeMode_mode s .vigil k
    exact ⟨h1, h2.trans hm, changeMode_since .., fun hp => changeMode_vigil hp k⟩
  case contentionElse =>
    rw [execContentionEffect_some hk, if_neg]
    rintro ⟨hm, ht⟩
    exact h.elim (fun h => h hm) (fun h => absurd ht (Nat.not_le.mpr h))
  case contentionNone =>
    show execContentionEffect s = _
    simp only [execContentionEffect, h]
  case roleOver => rw [execMirRoleQuietTimeout_waits hr, if_pos (by simp [hh, hu])]
  case roleWaits =>
    rw [execMirRoleQuietTimeout_waits hr, if_neg]
    simp only [Bool.and_eq_true, decide_eq_true_eq, Option.isNone_iff_eq_none]
    rintro ⟨hh, hu⟩
    exact h.elim (fun h => by simp [hh] at h) (fun h => absurd hu (Nat.not_le.mpr h))
  case roleNone =>
    show execMirRoleQuietTimeout s = _
    simp only [execMirRoleQuietTimeout, h]
  case badMode => exact congrArg next (submit_rej ht (by decide) (ownMirRole_mode (by rwa [accepted_dev]) (by rwa [accepted_dev])))
  case badParam =>
    subst htgt hfl
    exact congrArg next (submit_rej ht (by decide) (ownMirRole_param (by rwa [accepted_dev]) h))
  case resume =>
    subst hfl
    exact congrArg next (submit_ok ht (ownMirRole_resume (by rwa [accepted_dev]) (htgt.symm.trans h2) hf))
  case held =>
    subst htgt hfl
    exact congrArg next (submit_ok ht (ownMirRole_held (by rwa [accepted_dev]) h1 hf (by rwa [accepted_dev])))
  case noResource =>
    subst htgt hfl
    have hask : RoleAsked (accepted s 0x70 e i) e := ⟨by rwa [accepted_dev], h1, hf, by rwa [accepted_dev]⟩
    refine congrArg next (submit_rej ht (by decide) ((ownMirRole_asked hask).trans (if_pos ?_)))
    rw [accepted_paired, accepted_mir]
    rcases h with h | h <;> simp [h]
  case busy =>
    subst htgt hfl
    have hask : RoleAsked (accepted s 0x70 e i) e := ⟨by rwa [accepted_dev], h1, hf, by rwa [accepted_dev]⟩
    refine congrArg next (submit_rej ht (by decide) ((ownMirRole_asked hask).trans ((if_neg ?_).trans (if_pos ?_))))
    · simp [accepted_paired, hp, h3]
    · rw [accepted_mir]
      rcases h with h | h | h | h | h | h <;> simp [h]
  case waits =>
    subst htgt hfl
    have hask : RoleAsked (accepted s 0x70 e i) e := ⟨by rwa [accepted_dev], h1, hf, by rwa [accepted_dev]⟩
    refine ⟨_, congrArg next (submit_later ht ((ownMirRole_asked hask).trans ((if_neg ?_).trans (if_neg ?_)))), ?_⟩
    · simp [accepted_paired, hp, h3]
    · simp [k1, k2, k3, k4, k5, k6]
    · have hd : (roleWaits (accepted s 0x70 e i) e s.hif.nextCid).dev = s.dev := accepted_dev s 0x70 e i
      have hmir : (roleWaits (accepted s 0x70 e i) e s.hif.nextCid).mir.hand = none := (congrArg Mir.hand (accepted_mir s 0x70 e i)).trans k2
      obtain ⟨w1, w2⟩ := roleBegun_waits (by rwa [hd]) hmir (bitOf (field e.params 1 1) 0)
      rw [w1, w2, hd]
      exact ⟨by rw [roleWaits, accepted_dev], rfl⟩

end Sys2Proof.Machine

namespace Sys2Proof.Machine

/-! ### What the link's heartbeats rest on, and what leaves it alone (R451 to R453) -/

/-- The lanes' state, the partner's last report, the frames received, the send clock and the next heartbeat's number. -/
structure LinkView where
  upA : Bool
  goodA : Nat
  upB : Bool
  goodB : Nat
  partner : Option Partner
  lastHb : Option Ticks
  rxSeq : Tab (List Nat)
  hbAt : Inst
  seq : Nat

def Mir.link (m : Mir) : LinkView := ⟨m.laneA.up, m.laneA.good, m.laneB.up, m.laneB.good, m.partner, m.lastHb, m.rxSeq, m.hbAt, tget 0 m.txSeq 1⟩

/-- `t` is `s` in what the link's heartbeats rest on, in the tick count and in the scheme. -/
structure LinkKept (s t : State) : Prop where
  ticks : t.dev.ticks = s.dev.ticks
  scheme : t.scheme = s.scheme
  link : t.mir.link = s.mir.link

namespace LinkKept
variable {o s t : State}

theorem refl (s : State) : LinkKept s s := ⟨rfl, rfl, rfl⟩

theorem trans {u : State} (h : LinkKept s t) (k : LinkKept t u) : LinkKept s u := ⟨k.ticks.trans h.ticks, k.scheme.trans h.scheme, k.link.trans h.link⟩

/-- It sees neither registers, migrations nor the degraded causes. -/
theorem blind (o : State) : MigBlind (LinkKept o) where
  host h k := h.trans ⟨congrArg Dev.ticks k.dev, k.scheme, congrArg Mir.link k.mir⟩
  migs h k := h.trans (by rw [k]; exact ⟨rfl, rfl, rfl⟩)
  causes h k := h.trans (by rw [k]; exact ⟨rfl, rfl, rfl⟩)

theorem up (h : LinkKept s t) (l : Nat) : (lane t l).up = (lane s l).up := by
  unfold lane
  split
  · exact congrArg LinkView.upA h.link
  · exact congrArg LinkView.upB h.link

theorem good (h : LinkKept s t) (l : Nat) : (lane t l).good = (lane s l).good := by
  unfold lane
  split
  · exact congrArg LinkView.goodA h.link
  · exact congrArg LinkView.goodB h.link

theorem partner (h : LinkKept s t) : t.mir.partner = s.mir.partner := congrArg LinkView.partner h.link

theorem lastHb (h : LinkKept s t) : t.mir.lastHb = s.mir.lastHb := congrArg LinkView.lastHb h.link

theorem rxSeq (h : LinkKept s t) : t.mir.rxSeq = s.mir.rxSeq := congrArg LinkView.rxSeq h.link

theorem hbAt (h : LinkKept s t) : t.mir.hbAt = s.mir.hbAt := congrArg LinkView.hbAt h.link

theorem seq (h : LinkKept s t) : tget 0 t.mir.txSeq 1 = tget 0 s.mir.txSeq 1 := congrArg LinkView.seq h.link

theorem paired (h : LinkKept s t) : Machine.paired t = Machine.paired s := by rw [Machine.paired, Machine.paired, pairRec, pairRec, h.scheme]

/-- An operation that leaves alone a state with another pair state of the same link. -/
theorem of_same {m : Mir} (hm : m.link = s.mir.link) (h : PairSame { s with mir := m } t) (hd : t.dev = s.dev) : LinkKept s t := by
  obtain ⟨b, hb⟩ := h.mir
  exact ⟨congrArg Dev.ticks hd, h.scheme, by rw [hb]; exact hm⟩

end LinkKept

theorem LinkSent.linkKept {ty : Nat} {s t : State} (h : LinkSent ty s t) (hty : ty ≠ 1) : LinkKept s t := by
  refine ⟨congrArg Dev.ticks h.dev, h.scheme, ?_⟩
  rw [Mir.link, h.seq 1 hty.symm, show t.mir.laneA.up = s.mir.laneA.up from h.up 0, show t.mir.laneA.good = s.mir.laneA.good from h.good 0,
    show t.mir.laneB.up = s.mir.laneB.up from h.up 1, show t.mir.laneB.good = s.mir.laneB.good from h.good 1, h.mir]
  rfl

theorem setMir_linkKept {s : State} {f : Mir → Mir} (h : (f s.mir).link = s.mir.link) : LinkKept s (setMir s f) := .of_same h (setMir_same s f) (setMir_dev s f)

theorem linkEvent_linkKept (s : State) (kind bay : Nat) (e : EvalAt) (arg : List Byte) : LinkKept s (linkEvent s kind bay e arg) :=
  (linkEvent_linkSent ..).linkKept (by decide)

theorem stopResync_linkKept (s : State) : LinkKept s (stopResync s) := .of_same (m := s.mir.unsync) rfl (stopResync_same s) (stopResync_dev s)

theorem endRole_linkKept (s : State) (status : Nat) (att : Att) : LinkKept s (endRole s status att) := by
  exact .of_same (by rfl) (endRole_same s status att) (endRole_dev ..)

theorem useOwn_linkKept (s : State) : LinkKept s (useOwn s) := .of_same (m := s.mir.own) rfl (useOwn_same s) (useOwn_dev s)

theorem setPstate_linkKept (s : State) (v : Nat) : LinkKept s (setPstate s v) := by
  obtain ⟨t, h⟩ := setPstate_same s v
  exact .of_same (by rfl) h (setPstate_dev s v)

theorem raise_linkKept (code : Nat) (s : State) (bay idx : Nat) (items : List (Nat × Nat)) (att : Option Att) (att2 : Att) : LinkKept s (raise code s bay idx items att att2) :=
  (LinkKept.blind s).to_raise (.refl s)

theorem cancelHand_linkKept (s : State) : LinkKept s (cancelHand s) := by
  unfold cancelHand
  split
  · exact .refl s
  · extract_lets e s1 s2
    have h1 : LinkKept s s1 := setMir_linkKept rfl
    have h2 : LinkKept s s2 := by
      unfold s2
      split
      · exact h1.trans (linkEvent_linkKept ..)
      · exact h1
    exact (h2.trans (raise_linkKept ..)).trans (endRole_linkKept ..)

theorem setEpoch_linkKept (s : State) (e : Nat) : LinkKept s (setEpoch s e) := by
  unfold setEpoch
  split
  · exact .refl s
  · extract_lets s1
    have h1 : LinkKept s s1 := (LinkKept.blind s).to_fldSet (.refl s)
    exact h1.trans ⟨rfl, rfl, rfl⟩

theorem isolate_linkKept (s : State) : LinkKept s (isolate s) := by
  unfold isolate
  extract_lets s1
  have h1 : LinkKept s s1 := (((stopResync_linkKept s).trans (cancelHand_linkKept _)).trans (setMir_linkKept rfl)).trans (setPstate_linkKept ..)
  exact ((h1.trans (setEpoch_linkKept ..)).trans (useOwn_linkKept _)).trans (raise_linkKept ..)

theorem linkCheck_linkKept (s : State) : LinkKept s (linkCheck s) := by
  unfold linkCheck
  extract_lets ok
  split
  · split
    · exact isolate_linkKept s
    · split
      · exact setPstate_linkKept ..
      · exact .refl s
  · split
    · exact ((stopResync_linkKept s).trans (cancelHand_linkKept _)).trans (setPstate_linkKept ..)
    · exact .refl s
  · exact .refl s

theorem laneCause_linkKept (s : State) : LinkKept s (laneCause s) := (LinkKept.blind s).to_setCause (.refl s)

/-! The lanes -/

theorem modLane_mir (s : State) (l : Nat) (f : Lane → Lane) : (modLane s l f).mir = s.mir.setLane l (f (lane s l)) := setMir_mir ..

theorem lane_modLane (s : State) (l : Nat) (f : Lane → Lane) : lane (modLane s l f) l = f (lane s l) := by
  rw [lane, modLane_mir, Mir.setLane]
  by_cases h : l = 0
  · rw [if_pos h, if_pos h]
  · rw [if_neg h, if_neg h]

@[simp] theorem modLane_dev (s : State) (l : Nat) (f : Lane → Lane) : (modLane s l f).dev = s.dev := setMir_dev ..

theorem modLane_rxSeq (s : State) (l : Nat) (f : Lane → Lane) : (modLane s l f).mir.rxSeq = s.mir.rxSeq := by
  rw [modLane_mir, Mir.setLane]
  split <;> rfl

/-- What follows a lane that came up or went down leaves the lanes and the frames received alone. -/
theorem laneChanged_linkKept (s : State) (code l : Nat) : LinkKept s (linkCheck (laneCause (raise code s (idx := l)))) :=
  ((raise_linkKept ..).trans (laneCause_linkKept _)).trans (linkCheck_linkKept _)

/-- A lane that goes down is down, and has counted no heartbeat. -/
theorem laneDown_down (s : State) (l : Nat) : (lane (laneDown s l) l).up = false ∧ (lane (laneDown s l) l).good = 0 := by
  unfold laneDown
  split
  · have k := laneChanged_linkKept (modLane s l (fun x => { x with up := false, good := 0 })) 0x0C03 l
    rw [k.up, k.good, lane_modLane]
    exact ⟨rfl, rfl⟩
  · rename_i h
    rw [lane_modLane]
    exact ⟨by simpa using h, rfl⟩

/-- The lane's heartbeat counted (R452). -/
def beatCounted (s : State) (l : Nat) : State := modLane s l (fun y => { y with good := capN 10 ((lane s l).good + 1), lastHb := s.dev.ticks })

theorem laneBeat_eq (s : State) (l : Nat) : laneBeat s l =
    if !(lane s l).up && decide (10 ≤ capN 10 ((lane s l).good + 1)) then linkCheck (laneCause (raise 0x0C04 (modLane (beatCounted s l) l (fun y => { y with up := true })) (idx := l)))
    else beatCounted s l := rfl

/-- A heartbeat counted leaves the tick count and the frames received; the tenth in a row finds the lane up. -/
theorem laneBeat_counts (s : State) (l : Nat) :
    (laneBeat s l).dev.ticks = s.dev.ticks ∧ (laneBeat s l).mir.rxSeq = s.mir.rxSeq ∧ (9 ≤ (lane s l).good → (lane (laneBeat s l) l).up = true) := by
  rw [laneBeat_eq]
  split
  · have k := laneChanged_linkKept (modLane (beatCounted s l) l (fun y => { y with up := true })) 0x0C04 l
    refine ⟨?_, ?_, fun _ => ?_⟩
    · rw [k.ticks, modLane_dev, beatCounted, modLane_dev]
    · rw [k.rxSeq, modLane_rxSeq, beatCounted, modLane_rxSeq]
    · rw [k.up, lane_modLane]
  · rename_i h
    refine ⟨by rw [beatCounted, modLane_dev], by rw [beatCounted, modLane_rxSeq], fun hg => ?_⟩
    have hc : 10 ≤ capN 10 ((lane s l).good + 1) := by unfold capN; split <;> omega
    rw [beatCounted, lane_modLane]
    simpa [hc] using h

/-! A heartbeat taken (R450, R453, R465, R470, R471) -/

theorem showPartner_linkKept (s : State) (unit role mode : Nat) : LinkKept s (showPartner s unit role mode) := (LinkKept.blind s).to_regSet (.refl s)

theorem superviseOfs_linkKept (s : State) (ofs : Int) : LinkKept s (superviseOfs s ofs) := by
  unfold superviseOfs
  extract_lets bad m nb ng eras s1 skew
  have h1 : LinkKept s s1 := ((LinkKept.blind s).to_regSet (.refl s)).trans (setMir_linkKept rfl)
  split
  · exact (LinkKept.blind s).to_raise ((LinkKept.blind s).to_flagSet h1)
  · split
    · exact (LinkKept.blind s).to_flagSet h1
    · exact h1

theorem compareConfig_linkKept (s : State) (b : Heartbeat) : LinkKept s (compareConfig s b) := by
  unfold compareConfig
  split
  · exact .refl s
  · extract_lets bad mis new s1
    have h1 : LinkKept s s1 := (LinkKept.blind s).to_flagSet ((LinkKept.blind s).to_flagSet (.refl s))
    refine LinkKept.trans ?_ (linkCheck_linkKept _)
    split
    · exact (LinkKept.blind s).to_raise h1
    · exact h1

theorem yieldEntry_linkKept (s : State) (flags : Nat) : LinkKept s (yieldEntry s flags) := by
  unfold yieldEntry
  split
  · split
    · exact ⟨rfl, rfl, rfl⟩
    · exact .refl s
  · exact .refl s

theorem followPartner_linkKept (s : State) (mode pst : Nat) : LinkKept s (followPartner s mode pst) := by
  have hstop : LinkKept s (if s.mir.pstate = 1 then s else stopResync s) := by
    split
    · exact .refl s
    · exact stopResync_linkKept s
  unfold followPartner
  split
  · split
    · exact hstop.trans (setPstate_linkKept ..)
    · split
      · split
        · exact .refl s
        · exact setPstate_linkKept ..
      · split
        · exact .refl s
        · exact setPstate_linkKept ..
  · exact .refl s

theorem detectTakeover_linkKept (s : State) (cause : Nat) : LinkKept s (detectTakeover s cause) := by
  unfold detectTakeover
  split
  · exact (cancelHand_linkKept s).trans (setMir_linkKept rfl)
  · exact .refl s

theorem partnerMode_linkKept (s : State) (mode : Nat) (authority : Bool) (sentAt : Inst) : LinkKept s (partnerMode s mode authority sentAt) := by
  unfold partnerMode
  split
  · exact .refl s
  · split
    · split
      · exact detectTakeover_linkKept ..
      · split
        · exact detectTakeover_linkKept ..
        · exact .refl s
    · split
      · exact (cancelHand_linkKept s).trans (setMir_linkKept rfl)
      · exact .refl s
    · exact .refl s

/-- The partner as a heartbeat reports it (R453). -/
def partnerOf (b : Heartbeat) : Partner := ⟨b.unit, b.role, b.mode, b.pstate, b.flags, b.snum, b.lib, b.digest, b.pairId, b.effAt⟩

/-- A heartbeat taken notes the partner, and leaves the rest of what the link rests on. -/
theorem takeHeartbeat_linkKept (s : State) (b : Heartbeat) :
    LinkKept { s with mir := { s.mir with partner := some (partnerOf b), lastHb := some s.dev.ticks } } (takeHeartbeat s b) := by
  unfold takeHeartbeat
  extract_lets m p s1 s2
  have h1 : LinkKept { s with mir := { s.mir with partner := some (partnerOf b), lastHb := some s.dev.ticks } } s1 :=
    LinkKept.trans (.of_same rfl (setMir_same s (fun m => { m with partner := some (partnerOf b), lastHb := some s.dev.ticks })) (setMir_dev ..)) (showPartner_linkKept ..)
  have h2 : LinkKept s1 s2 := (superviseOfs_linkKept ..).trans (compareConfig_linkKept _ b)
  exact (((h1.trans h2).trans (yieldEntry_linkKept ..)).trans (followPartner_linkKept ..)).trans (partnerMode_linkKept ..)

end Sys2Proof.Machine

namespace Sys2Proof.Machine

/-! ### Frames received (R450, R451) -/

/-- A frame on a lane that a paired part takes. -/
structure LaneOn (s : State) (h : LinkHead) : Prop where
  pair : paired s = true
  num : h.lane ≤ 1
  on : flag s R.mirCtl h.lane = true

/-- A frame's sequence number noted with its type (R451). -/
def rxNoted (s : State) (ty seq : Nat) : State := { s with mir := { s.mir with rxSeq := tset s.mir.rxSeq ty ((seq :: tget [] s.mir.rxSeq ty).take 64) } }

section LinkRx
variable {s t : State} {h : LinkHead}

theorem linkRx_ignored (k : paired s = false ∨ 1 < h.lane ∨ flag s R.mirCtl h.lane = false) (ty : Nat) : linkRx s h ty = (s, false) := by
  refine if_pos ?_
  rcases k with k | k | k <;> simp [k]

theorem LaneOn.taken (k : LaneOn s h) : ¬(!paired s || !flag s R.mirCtl h.lane || decide (1 < h.lane)) = true := by
  simp [k.pair, k.on, Nat.not_lt.mpr k.num]

theorem LaneOn.badCrc (k : LaneOn s h) (hc : h.crcOk = false) (ty : Nat) : linkRx s h ty = (laneErr s h.lane, false) := by
  rw [linkRx, if_neg k.taken, if_pos (by simp [hc])]

/-- A second copy, or a frame that R450 stops. -/
theorem LaneOn.again (k : LaneOn s h) (hc : h.crcOk = true) {ty : Nat} (hty : ty ≠ 1) (ha : pairBad s = true ∨ (tget [] s.mir.rxSeq ty).contains h.seq = true) :
    linkRx s h ty = (s, false) := by
  rw [linkRx, if_neg k.taken, if_neg (by simp [hc])]
  extract_lets s1 seen
  have h1 : s1 = s := if_neg hty
  refine (if_pos ?_).trans (by rw [h1])
  rw [show seen = tget [] s.mir.rxSeq ty from by rw [← h1], h1]
  rcases ha with ha | ha <;> simp only [ha, hty, ne_eq, not_false_eq_true, decide_true, Bool.and_self, Bool.or_true, Bool.true_or]

theorem LaneOn.first (k : LaneOn s h) (hc : h.crcOk = true) {ty : Nat} (hty : ty ≠ 1) (hb : pairBad s = false) (hn : (tget [] s.mir.rxSeq ty).contains h.seq = false) :
    linkRx s h ty = (rxNoted s ty h.seq, true) := by
  rw [linkRx, if_neg k.taken, if_neg (by simp [hc])]
  extract_lets s1 seen
  have h1 : s1 = s := if_neg hty
  clear_value s1
  subst h1
  exact if_neg (by rw [show seen.contains h.seq = false from hn, hb]; exact Bool.false_ne_true)

theorem LaneOn.beatAgain (k : LaneOn s h) (hc : h.crcOk = true) (ha : (tget [] s.mir.rxSeq 1).contains h.seq = true) : linkRx s h 1 = (laneBeat s h.lane, false) := by
  obtain ⟨-, hrx, -⟩ := laneBeat_counts s h.lane
  rw [linkRx, if_neg k.taken, if_neg (by simp [hc])]
  refine if_pos ?_
  rw [if_pos rfl, hrx, ha, Bool.true_or]

theorem LaneOn.beatFirst (k : LaneOn s h) (hc : h.crcOk = true) (hn : (tget [] s.mir.rxSeq 1).contains h.seq = false) :
    linkRx s h 1 = (rxNoted (laneBeat s h.lane) 1 h.seq, true) := by
  obtain ⟨-, hrx, -⟩ := laneBeat_counts s h.lane
  rw [linkRx, if_neg k.taken, if_neg (by simp [hc])]
  refine if_neg ?_
  rw [if_pos rfl, hrx, hn]
  simp

/-! A frame whose contents are not used -/

theorem heartbeatRx_dropped (hr : linkRx s h 1 = (t, false)) (b : Heartbeat) : exec (.heartbeatRx h b) s = .next t := by
  show execHeartbeatRx h b s = _
  rw [execHeartbeatRx, hr]
  rfl

theorem samplesRx_dropped (hr : linkRx s h 2 = (t, false)) (m : MirSamples) : exec (.samplesRx h m) s = .next t := by
  show execSamplesRx h m s = _
  rw [execSamplesRx, hr]
  rfl

theorem eventRx_dropped (hr : linkRx s h 3 = (t, false)) (es : List MirEvent) : exec (.eventRx h es) s = .next t := by
  show execEventRx h es s = _
  rw [execEventRx, hr]
  rfl

theorem snapshotPartRx_dropped (hr : linkRx s h 4 = (t, false)) (p c : Nat) (d : List Byte) : exec (.snapshotPartRx h p c d) s = .next t := by
  show execSnapshotPartRx h p c d s = _
  rw [execSnapshotPartRx, hr]
  rfl

theorem baystateRx_dropped (hr : linkRx s h 5 = (t, false)) (n p c : Nat) (x : BayCopy) : exec (.baystateRx h n p c x) s = .next t := by
  show execBaystateRx h n p c x s = _
  unfold execBaystateRx
  rw [hr]
  dsimp only
  split <;> rfl

/-! A frame whose contents are used -/

theorem samplesRx_first (hr : linkRx s h 2 = (t, true)) (m : MirSamples) :
    exec (.samplesRx h m) s = .next (if t.dev.mode = .vigil ∧ pairFlag t 0 = true then takeSamples t m else t) := by
  show execSamplesRx h m s = _
  rw [execSamplesRx, hr]
  simp only [Bool.true_and, Bool.and_eq_true, decide_eq_true_eq]

theorem eventRx_first (hr : linkRx s h 3 = (t, true)) (es : List MirEvent) : exec (.eventRx h es) s = .next ((es.take 16).foldl takeEvent t) := by
  show execEventRx h es s = _
  rw [execEventRx, hr]
  rfl

theorem snapshotPartRx_first (hr : linkRx s h 4 = (t, true)) (p c : Nat) (d : List Byte) :
    exec (.snapshotPartRx h p c d) s = .next (if t.dev.mode = .vigil ∧ t.mir.iso = false then takeSnapPart t p c d else t) := by
  show execSnapshotPartRx h p c d s = _
  rw [execSnapshotPartRx, hr]
  simp only [Bool.true_and, Bool.and_eq_true, decide_eq_true_eq, Bool.not_eq_true']

theorem baystateRx_unasked (hr : linkRx s h 5 = (t, true)) {n : Nat} (hn : tget? t.mir.brs n = none ∨ t.dev.mode ≠ .vigil) (p c : Nat) (x : BayCopy) :
    exec (.baystateRx h n p c x) s = .next t := by
  show execBaystateRx h n p c x s = _
  unfold execBaystateRx
  rw [hr]
  dsimp only
  split
  · rename_i hx
    refine if_neg ?_
    rcases hn with hn | hn
    · rw [hn] at hx
      cases hx
    · simp [hn]
  · rfl

/-- A resynchronisation with a further part of the copy (R464). -/
def BayRs.withPart (x : BayRs) (part count : Nat) (copy : BayCopy) : BayRs :=
  let ps := if x.parts.contains part then x.parts else part :: x.parts
  { x with parts := ps, count := count, copy := if count ≤ ps.length then some copy else x.copy }

theorem baystateRx_part (hr : linkRx s h 5 = (t, true)) {n : Nat} {x : BayRs} (hx : tget? t.mir.brs n = some x) (hm : t.dev.mode = .vigil) (p c : Nat) (copy : BayCopy) :
    exec (.baystateRx h n p c copy) s = .next (tryAdopt (setMir t (fun m => { m with brs := tset m.brs n (x.withPart p c copy) })) n) := by
  show execBaystateRx h n p c copy s = _
  simp only [execBaystateRx, hr, hx, hm, decide_true, Bool.and_self, if_true]
  rfl

/-- The first copy of a heartbeat notes the partner; with the tenth in a row its lane is up. -/
theorem heartbeatRx_first (k : LaneOn s h) (hc : h.crcOk = true) (hn : (tget [] s.mir.rxSeq 1).contains h.seq = false) (b : Heartbeat) :
    ∃ t, exec (.heartbeatRx h b) s = .next t ∧ t.mir.lastHb = some s.dev.ticks ∧ t.mir.partner = some (partnerOf b) ∧
      (9 ≤ (lane s h.lane).good → (lane t h.lane).up = true) := by
  obtain ⟨hticks, -, hup⟩ := laneBeat_counts s h.lane
  have hk := takeHeartbeat_linkKept (rxNoted (laneBeat s h.lane) 1 h.seq) b
  refine ⟨takeHeartbeat (rxNoted (laneBeat s h.lane) 1 h.seq) b, ?_, hk.lastHb.trans (congrArg some hticks), hk.partner, fun hg => (hk.up h.lane).trans (hup hg)⟩
  show execHeartbeatRx h b s = _
  rw [execHeartbeatRx, k.beatFirst hc hn]
  rfl

end LinkRx

/-! ### Heartbeats sent, and the pair's timers (R453, R455, R460, R461, R463, R464) -/

/-- The instant of the next heartbeat set (R453). -/
def beatDue (s : State) (due : Inst) : State := { s with mir := { s.mir with hbAt := due } }

theorem beatDue_hbAt (s : State) (due : Inst) : (beatDue s due).mir.hbAt = due := rfl

theorem beatDue_txSeq (s : State) (due : Inst) : (beatDue s due).mir.txSeq = s.mir.txSeq := rfl

theorem beatDue_paired (s : State) (due : Inst) : paired (beatDue s due) = paired s := rfl

theorem sendHeartbeat_linkSend (s : State) : ∃ payload, sendHeartbeat s = linkSend s 1 0 0 payload := ⟨_, rfl⟩

theorem sendHeartbeat_counts {s : State} (hp : paired s = true) :
    tget 0 (sendHeartbeat s).mir.txSeq 1 = (tget 0 s.mir.txSeq 1 + 1) % 2 ^ 32 ∧ (sendHeartbeat s).mir.hbAt = s.mir.hbAt := by
  obtain ⟨payload, he⟩ := sendHeartbeat_linkSend s
  have hs := linkSend_sent (s := s) (ty := 1) (by simp [hp]) 0 0 payload
  rw [he, hs.mir]
  exact ⟨by simp only [Mir.nextSeq, tget, tget_tset, if_true, Option.getD_some], rfl⟩

theorem execHeartbeatSend_due {s : State} (hp : paired s = true) (hd : s.mir.hbAt ≤ now s) :
    exec .heartbeatSend s = .next (sendHeartbeat (linkCheck (beatDue s ((now s / (100 * usI) + 1) * (100 * usI))))) := by
  have h : (paired s && decide (s.mir.hbAt ≤ now s)) = true := by simp [hp, hd]
  show execHeartbeatSend s = _
  rw [execHeartbeatSend, if_pos h, beatDue]

/-- A heartbeat that is due goes out with the next number (R453). -/
theorem heartbeatSend_due {s : State} (hp : paired s = true) (hd : s.mir.hbAt ≤ now s) :
    ∃ t, exec .heartbeatSend s = .next t ∧ tget 0 t.mir.txSeq 1 = (tget 0 s.mir.txSeq 1 + 1) % 2 ^ 32 ∧ t.mir.hbAt = (now s / (100 * usI) + 1) * (100 * usI) := by
  refine ⟨_, execHeartbeatSend_due hp hd, ?_⟩
  generalize (now s / (100 * usI) + 1) * (100 * usI) = due
  have hk := linkCheck_linkKept (beatDue s due)
  obtain ⟨h1, h2⟩ := sendHeartbeat_counts (hk.paired.trans ((beatDue_paired s due).trans hp))
  exact ⟨by rw [h1, hk.seq, beatDue_txSeq], by rw [h2, hk.hbAt, beatDue_hbAt]⟩

theorem mirrorFallback_ends (s : State) (w : SampleWord) : (mirrorFallback s w).mir.inUse = false ∧ (mirrorFallback s w).mir.aside = [] := by
  unfold mirrorFallback
  extract_lets s1
  obtain ⟨b, hb⟩ := (useOwn_same (loseSync s1)).mir
  rw [hb]
  exact ⟨rfl, rfl⟩

theorem discardSnap_mir (s : State) (num reason : Nat) : (discardSnap s num reason).mir = { s.mir with rx := [], rxCount := 0, rxSince := none } := by
  rw [discardSnap, raise_mir, bump_mir, setMir_mir]

theorem startBayRs_begins {s : State} {n : Nat} (h : (bay? s n).map Bay.runs = some true) :
    (startBayRs s n).mir.one = s.mir.one ∧ (tget? (startBayRs s n).mir.brs n).isSome = true := by
  obtain ⟨b, hb, hr⟩ := Option.map_eq_some_iff.mp h
  simp only [startBayRs, hb, hr, if_true, setMir_mir, tget_tset, Option.isSome_some, and_true]
  rw [(linkEvent_linkSent ..).mir]

end Sys2Proof.Machine

namespace Sys2Proof.Machine

/-! ### Resynchronisation, and what starts it (R462 to R464, R475): `Obligations.MirrorLinkCarriesThePair` -/

section Step
variable {s : State} {f : FullRs} {left : List Nat}

theorem bayResyncStep_next (hf : s.mir.full = some f) (ha : isActive s = true) (hm : now s / msI ≠ f.ms)
    (hl : left = f.todo.filter (fun n => decide ((bay? s n).map Bay.runs = some true))) {n : Nat} {ns : List Nat}
    (hn : left.filter (fun n => (tget? s.mir.brs n).isNone) = n :: ns) :
    exec .bayResyncStep s = .next (startBayRs (setMir s (fun m => { m with full := some { f with ms := now s / msI } })) n) := by
  show execBayResyncStep s = _
  unfold execBayResyncStep
  split
  · rename_i f' hf'
    obtain rfl : f' = f := Option.some.inj (hf'.symm.trans hf)
    rw [if_pos (by simp [ha, hm])]
    extract_lets todo
    have ht : todo = left := hl ▸ List.filter_congr (fun n _ => by cases bay? s n <;> simp)
    rw [ht, hn]
  · rename_i hf'
    rw [hf] at hf'
    cases hf'

theorem bayResyncStep_last (hf : s.mir.full = some f) (ha : isActive s = true) (hm : now s / msI ≠ f.ms)
    (hl : left = f.todo.filter (fun n => decide ((bay? s n).map Bay.runs = some true)))
    (hn : left.filter (fun n => (tget? s.mir.brs n).isNone) = []) :
    exec .bayResyncStep s = .next (endFull (setMir s (fun m => { m with full := some { f with todo := left } }))) := by
  show execBayResyncStep s = _
  unfold execBayResyncStep
  split
  · rename_i f' hf'
    obtain rfl : f' = f := Option.some.inj (hf'.symm.trans hf)
    rw [if_pos (by simp [ha, hm])]
    extract_lets todo
    have ht : todo = left := hl ▸ List.filter_congr (fun n _ => by cases bay? s n <;> simp)
    rw [ht, hn]
  · rename_i hf'
    rw [hf] at hf'
    cases hf'

theorem bayResyncStep_idle (h : isActive s = false ∨ ∀ f, s.mir.full = some f → now s / msI = f.ms) : exec .bayResyncStep s = .next s := by
  show execBayResyncStep s = _
  unfold execBayResyncStep
  split
  · rename_i f hf
    refine if_neg ?_
    rcases h with h | h
    · simp [h]
    · simp [h f hf]
  · rfl

end Step

section Retry
variable {s : State} {n : Nat} {w : Bool}

/-- BAY_RESYNC_RETRY by what it asks (R462, R464). -/
theorem bayResyncRetry_eq (hw : w = (match tget? s.mir.retry n with | some k => decide (k + 10 * msT ≤ s.dev.ticks) | none => decide (s.dev.mode = .service))) :
    exec (.bayResyncRetry n) s = .next (if paired s && linkUp s && !pairBad s && w && (tget? s.mir.brs n).isNone then
      (if isActive s then (if s.mir.pstate = 2 ∨ s.mir.pstate = 3 then startBayRs s n else s)
       else if s.dev.mode = .vigil then linkEvent { s with mir := { s.mir with retry := tset s.mir.retry n s.dev.ticks } } 9 n ⟨0, 0⟩ [] else s) else s) := by
  show execBayResyncRetry n s = _
  unfold execBayResyncRetry
  extract_lets waited
  have h : waited = w := by
    rw [hw]
    unfold waited
    cases tget? s.mir.retry n <;> rfl
  rw [h]
  simp only [apply_ite Host.Outcome.next]

end Retry

section MirSync
variable {s : State} {e : CmdEntry} {cid : Nat}

/-- The bay of MIR_SYNC, or 0xFFFF for all (R475). -/
def syncBay (e : CmdEntry) : Nat := field e.params 0 2

theorem ownMirSync_mode (h1 : s.dev.mode ≠ .service) (h2 : s.dev.mode ≠ .vigil) : ownMirSync e cid s = .rej s stBadMode := by
  simp [ownMirSync, h1, h2]

theorem ownMirSync_param (hm : s.dev.mode = .service ∨ s.dev.mode = .vigil) (hn : syncBay e ≠ 0xFFFF) (hr : (bay? s (syncBay e)).map Bay.runs ≠ some true) :
    ownMirSync e cid s = .rej s stBadParam := by
  unfold ownMirSync
  extract_lets n active runs
  have hruns : runs = decide ((bay? s n).map Bay.runs = some true) := by
    unfold runs
    cases bay? s n <;> simp
  rw [if_neg (by rcases hm with hm | hm <;> simp [active, hm]), if_pos ⟨hn, by rw [hruns.trans (decide_eq_false hr)]; rfl⟩]

/-- One bay's resynchronisation asked for by MIR_SYNC (R475). -/
def syncAsked (s : State) (n cid : Nat) : State := { s with mir := { s.mir with one := tset s.mir.one n (tget [] s.mir.one n ++ [cid]) } }

/-- The active starts it; the standby asks the active. -/
def syncBegun (s : State) (n cid : Nat) : State :=
  if s.dev.mode = .service then (if (tget? s.mir.brs n).isNone then startBayRs (syncAsked s n cid) n else syncAsked s n cid)
  else linkEvent (syncAsked s n cid) 9 n ⟨0, 0⟩ []

/-- A full resynchronisation of a standby, which waits for the active's (R475). -/
def fullAsked (s : State) (cid : Nat) : State := setMir s (fun m => { m with full := some ⟨runningBays s, some cid, attNow s, now s / msI⟩ })

/-- What MIR_SYNC of all bays, or of one that runs, asks next (R475). -/
theorem ownMirSync_named (hm : s.dev.mode = .service ∨ s.dev.mode = .vigil) (hn : syncBay e = 0xFFFF ∨ (bay? s (syncBay e)).map Bay.runs = some true) :
    ownMirSync e cid s =
      if !paired s || !linkUp s || pairBad s then .rej s stNoResource
      else if s.mir.full.isSome then .rej s stBusy
      else if syncBay e = 0xFFFF then
        .later (if s.dev.mode = .service then startFull s (some cid) else linkEvent (fullAsked s cid) 9 0xFFFF ⟨0, 0⟩ [])
      else
        .later (syncBegun s (syncBay e) cid) := by
  unfold ownMirSync
  extract_lets n active runs
  have hruns : runs = decide ((bay? s n).map Bay.runs = some true) := by
    unfold runs
    cases bay? s n <;> simp
  have hgood : ¬(n ≠ 0xFFFF ∧ (!runs) = true) := by
    rintro ⟨ha, hr⟩
    rcases hn with hn | hn
    · exact ha hn
    · rw [hruns.trans (decide_eq_true hn)] at hr
      cases hr
  rw [if_neg (by rcases hm with hm | hm <;> simp [active, hm]), if_neg hgood]
  simp only [syncBegun, apply_ite CmdOut.later, active, decide_eq_true_eq]
  rfl

/-- One bay's resynchronisation asked for waits with its command; on the active it is under way. -/
theorem syncBegun_waits {n : Nat} (hr : (bay? s n).map Bay.runs = some true) (cid : Nat) :
    tget [] (syncBegun s n cid).mir.one n = tget [] s.mir.one n ++ [cid] ∧ (s.dev.mode = .service → (tget? (syncBegun s n cid).mir.brs n).isSome = true) := by
  have hone : tget [] (syncAsked s n cid).mir.one n = tget [] s.mir.one n ++ [cid] := by rw [syncAsked, tget, tget_tset, if_pos rfl, Option.getD_some]
  unfold syncBegun
  split
  · split
    · obtain ⟨h1, h2⟩ := startBayRs_begins (s := syncAsked s n cid) hr
      rw [h1]
      exact ⟨hone, fun _ => h2⟩
    · rename_i hb
      refine ⟨hone, fun _ => ?_⟩
      show (tget? s.mir.brs n).isSome = true
      simpa [Option.isSome_iff_ne_none] using hb
  · rename_i hm
    rw [(linkEvent_linkSent ..).mir]
    exact ⟨hone, fun h => absurd h hm⟩

end MirSync

theorem accepted_linkUp (s : State) (op : Nat) (e : CmdEntry) (i : Nat) : linkUp (accepted s op e i) = linkUp s := by rw [accepted_eq]; rfl

theorem accepted_pairBad (s : State) (op : Nat) (e : CmdEntry) (i : Nat) : pairBad (accepted s op e i) = pairBad s := by rw [accepted_eq]; rfl

/-- Settles O52, event by event. -/
theorem mirrorLinkCarriesThePair : Obligations.MirrorLinkCarriesThePair := by
  intro s
  refine ⟨heartbeatSend_due, fun h => ?beatWaits, fun h k => ?ignored, fun h hp hl hon => ?frames, fun w hm hu hw => ?deadline, fun h => ?noDeadline, fun x ha hl hb hx => ?snapshot, fun h => ?noSnapshot,
    fun k hk => ⟨fun ht => ?snapLate, fun ht => ?snapWaits⟩, fun h => ?noSnapPart, fun l hl hp hu ht => ?laneDown, fun l h => ?laneHolds, fun l => ⟨fun hl hp hon => ?frameLate, fun h => ?noFrame⟩,
    fun p h1 h2 h3 h4 h5 h6 h7 h8 h9 h10 => ?full, fun h => ?noFull, fun f left hf ha hm hl => ⟨fun n ns hn => bayResyncStep_next hf ha hm hl hn, fun hn => bayResyncStep_last hf ha hm hl hn⟩, bayResyncStep_idle,
    fun n x k hx hs hm hc ht => ?copyLate, fun n h => ?copyWaits, fun n w hw => ⟨fun hp hl hb hww hn => ⟨fun hm => ?retryActive, fun hm => ?retryStandby⟩, fun h => ?noRetry⟩,
    fun e i n ht hn => ⟨fun h1 h2 => ?badMode, fun hm => ⟨fun ha hr => ?badParam, fun hr => ⟨fun h => ?noResource,
      fun hp hl hb => ⟨fun hf => ?busy, fun hf ha hs => ?fullActive, fun hf ha hs => ?fullStandby, fun hf ha => ?single⟩⟩⟩⟩⟩
  case beatWaits =>
    refine if_neg ?_
    rcases h with h | h
    · simp [h]
    · simp [Nat.not_le.mpr h]
  case ignored =>
    exact ⟨heartbeatRx_dropped (linkRx_ignored k 1), samplesRx_dropped (linkRx_ignored k 2), eventRx_dropped (linkRx_ignored k 3), snapshotPartRx_dropped (linkRx_ignored k 4),
      baystateRx_dropped (linkRx_ignored k 5)⟩
  case frames =>
    have k : LaneOn s h := ⟨hp, hl, hon⟩
    refine ⟨fun hc => ⟨heartbeatRx_dropped (k.badCrc hc 1), samplesRx_dropped (k.badCrc hc 2), eventRx_dropped (k.badCrc hc 3), snapshotPartRx_dropped (k.badCrc hc 4), baystateRx_dropped (k.badCrc hc 5)⟩,
      fun hc hn b => heartbeatRx_first k hc hn b, fun hc ha => heartbeatRx_dropped (k.beatAgain hc ha), fun hc ha => samplesRx_dropped (k.again hc (by decide) ha),
      fun hc ha => eventRx_dropped (k.again hc (by decide) ha), fun hc ha => snapshotPartRx_dropped (k.again hc (by decide) ha), fun hc ha => baystateRx_dropped (k.again hc (by decide) ha),
      fun u hc hb hu => ⟨fun hn m => ?samples, fun hn es => ?events, fun hn p c d => ?parts, fun hn n p c copy => ⟨fun hx => ?unasked, fun x ps hx hm hps => ?adopted⟩⟩⟩
    case samples => rw [hu 2]; exact samplesRx_first (k.first hc (by decide) hb hn) m
    case events => rw [hu 3]; exact eventRx_first (k.first hc (by decide) hb hn) es
    case parts => rw [hu 4]; exact snapshotPartRx_first (k.first hc (by decide) hb hn) p c d
    case unasked => rw [hu 5]; exact baystateRx_unasked (k.first hc (by decide) hb hn) hx p c copy
    case adopted => rw [hu 5, hps]; exact baystateRx_part (k.first hc (by decide) hb hn) hx hm p c copy
  case deadline =>
    refine ⟨?_, mirrorFallback_ends s w⟩
    show execMirrorDeadline s = _
    rw [execMirrorDeadline, if_pos ⟨hm, hu⟩, hw]
  case noDeadline =>
    show execMirrorDeadline s = _
    unfold execMirrorDeadline
    split
    · rename_i hc
      obtain ⟨hm, hu⟩ := hc
      rw [(h.resolve_left (not_not_intro hm)).resolve_left (by simp [hu])]
    · rfl
  case snapshot =>
    show execSnapshotSend s = _
    rw [execSnapshotSend, if_pos (by simp [ha, hl, hb]), hx]
  case noSnapshot =>
    show execSnapshotSend s = _
    unfold execSnapshotSend
    split
    · rename_i hc
      simp only [Bool.and_eq_true, Bool.not_eq_true'] at hc
      obtain ⟨⟨ha, hl⟩, hb⟩ := hc
      rw [((h.resolve_left (by simp [ha])).resolve_left (by simp [hl])).resolve_left (by simp [hb])]
    · rfl
  case snapLate =>
    refine ⟨_, ?_, rfl, by rw [discardSnap_mir], by rw [discardSnap_mir], by rw [discardSnap_mir]⟩
    show execSnapshotTimeout s = _
    simp only [execSnapshotTimeout, hk]
    exact if_pos (decide_eq_true ht)
  case snapWaits =>
    show execSnapshotTimeout s = _
    simp only [execSnapshotTimeout, hk]
    exact if_neg (by simpa [elapsed] using ht)
  case noSnapPart =>
    show execSnapshotTimeout s = _
    simp only [execSnapshotTimeout, h]
  case laneDown => exact ⟨_, if_pos (by simp [hl, hp, hu, elapsed, ht]), laneDown_down s l⟩
  case laneHolds =>
    refine if_neg ?_
    rcases h with h | h | h | h
    · simp [Nat.not_lt.mpr h]
    · simp [h]
    · simp [h]
    · simp [elapsed, h]
  case frameLate => exact if_pos (by simp [hl, hp, hon])
  case noFrame =>
    refine if_neg ?_
    rcases h with h | h | h
    · simp [Nat.not_lt.mpr h]
    · simp [h]
    · simp [h]
  case full =>
    show execFullResyncStart s = _
    unfold execFullResyncStart
    extract_lets vigil
    have hv : vigil = true := by
      unfold vigil
      rw [h7]
      simp [h8, h9]
    exact if_pos (by simp [h1, h2, h3, h4, h5, h6, hv, elapsed, h10])
  case noFull =>
    show execFullResyncStart s = _
    unfold execFullResyncStart
    extract_lets vigil
    refine if_neg fun k => ?_
    simp only [Bool.and_eq_true, Bool.not_eq_true', Option.isNone_iff_eq_none, decide_eq_true_eq, elapsed] at k
    obtain ⟨⟨⟨⟨⟨⟨⟨h1, h2⟩, h3⟩, h4⟩, h5⟩, h6⟩, hv⟩, h8⟩ := k
    rcases h with h | h | h | h | h | h | h | h
    · simp [h] at h1
    · simp [h] at h2
    · simp [h] at h3
    · simp [h] at h4
    · simp [h5] at h
    · exact h h6
    · unfold vigil at hv
      split at hv
      · rename_i p hp
        simp only [Bool.and_eq_true, decide_eq_true_eq] at hv
        exact (h p hp).elim (fun h => h hv.1) (fun h => h hv.2)
      · cases hv
    · exact absurd h8 (Nat.not_le.mpr h)
  case copyLate =>
    refine ⟨setMir s (fun m => { m with brs := terase m.brs n, retry := tset m.retry n s.dev.ticks, synced := m.synced.filter (fun k => decide (k ≠ n)) }), ?_, ?_⟩
    · show execBayResyncTimeout n s = _
      simp only [execBayResyncTimeout, hx, hs]
      exact if_pos (by simp [hm, hc, elapsed, ht])
    · rw [setMir_mir]
      exact ⟨rfl, by rw [tget_tset, if_pos rfl], by simp⟩
  case copyWaits =>
    show execBayResyncTimeout n s = _
    unfold execBayResyncTimeout
    split
    · rename_i x hx
      split
      · rename_i k hk
        refine if_neg fun hc => ?_
        simp only [Bool.and_eq_true, decide_eq_true_eq, Option.isNone_iff_eq_none, elapsed] at hc
        obtain ⟨⟨hm, hn⟩, ht⟩ := hc
        rcases h with h | h
        · exact h hm
        · exact (h x hx).elim (fun h => by simp [hn] at h) (fun h => absurd ht (Nat.not_le.mpr (h k hk)))
      · rfl
    · rfl
  case retryActive =>
    rw [bayResyncRetry_eq hw, if_pos (by simp [hp, hl, hb, hww, hn]), if_pos (show isActive s = true by simp [isActive, hp, hm])]
  case retryStandby =>
    rw [bayResyncRetry_eq hw, if_pos (by simp [hp, hl, hb, hww, hn]), if_neg (by simp [isActive, hm]), if_pos hm]
  case noRetry =>
    rw [bayResyncRetry_eq hw]
    refine congrArg _ ?_
    split
    · rename_i hc
      simp only [Bool.and_eq_true, Bool.not_eq_true', Option.isNone_iff_eq_none] at hc
      obtain ⟨⟨⟨⟨hp, hl⟩, hb⟩, hww⟩, hn⟩ := hc
      obtain ⟨h1, h2⟩ := ((((h.resolve_left (by simp [hp])).resolve_left (by simp [hl])).resolve_left (by simp [hb])).resolve_left (by simp [hww])).resolve_left (by simp [hn])
      rw [if_neg (by simp [isActive, h1]), if_neg h2]
    · rfl
  case badMode => exact congrArg next (submit_rej ht (by decide) (ownMirSync_mode (by rwa [accepted_dev]) (by rwa [accepted_dev])))
  case badParam =>
    subst hn
    exact congrArg next (submit_rej ht (by decide) (ownMirSync_param (by rwa [accepted_dev]) ha (by rwa [accepted_bay])))
  case noResource =>
    subst hn
    refine congrArg next (submit_rej ht (by decide) ((ownMirSync_named (by rwa [accepted_dev]) (by rwa [accepted_bay])).trans (if_pos ?_)))
    rw [accepted_paired, accepted_linkUp, accepted_pairBad]
    rcases h with h | h | h <;> simp [h]
  case busy =>
    subst hn
    refine congrArg next (submit_rej ht (by decide) ((ownMirSync_named (by rwa [accepted_dev]) (by rwa [accepted_bay])).trans ((if_neg ?_).trans (if_pos ?_))))
    · simp [accepted_paired, accepted_linkUp, accepted_pairBad, hp, hl, hb]
    · rw [accepted_mir, hf]
  case fullActive =>
    subst hn
    refine congrArg next (submit_later ht ((ownMirSync_named (by rwa [accepted_dev]) (by rwa [accepted_bay])).trans ((if_neg ?_).trans ((if_neg ?_).trans ((if_pos ha).trans (congrArg _ (if_pos ?_)))))))
    · simp [accepted_paired, accepted_linkUp, accepted_pairBad, hp, hl, hb]
    · simp [hf]
    · rwa [accepted_dev]
  case fullStandby =>
    subst hn
    refine ⟨_, ⟨runningBays s, some s.hif.nextCid, attNow (accepted s 0x71 e i), now (accepted s 0x71 e i) / msI⟩,
      congrArg next (submit_later ht ((ownMirSync_named (by rwa [accepted_dev]) (by rwa [accepted_bay])).trans ((if_neg ?_).trans ((if_neg ?_).trans ((if_pos ha).trans (congrArg _ (if_neg ?_))))))), ?_, rfl, rfl⟩
    · simp [accepted_paired, accepted_linkUp, accepted_pairBad, hp, hl, hb]
    · simp [hf]
    · simp [hs]
    · rw [(linkEvent_linkSent ..).mir, fullAsked, setMir_mir, runningBays, accepted_bays]
      rfl
  case single =>
    subst hn
    have hbay : (bay? (accepted s 0x71 e i) (syncBay e)).map Bay.runs = some true := by
      rw [accepted_bay]
      exact hr.resolve_left ha
    obtain ⟨h1, h2⟩ := syncBegun_waits hbay s.hif.nextCid
    rw [accepted_mir] at h1
    rw [accepted_dev] at h2
    refine ⟨_, congrArg next (submit_later ht ((ownMirSync_named (by rwa [accepted_dev]) (Or.inr hbay)).trans ((if_neg ?_).trans ((if_neg ?_).trans (if_neg ha))))), h1, h2⟩
    · simp [accepted_paired, accepted_linkUp, accepted_pairBad, hp, hl, hb]
    · simp [hf]

end Sys2Proof.Machine

namespace Sys2Proof.Machine

/-! ### SCHED_ADD: `Obligations.SchedAddByLateness` -/

@[simp] theorem accepted_schedBad (s : State) (op : Nat) (e : CmdEntry) (i : Nat) (p : List Byte) : schedBad (accepted s op e i) p = schedBad s p := by
  rw [accepted_eq]; rfl
@[simp] theorem accepted_slotFor (s : State) (op : Nat) (e : CmdEntry) (i n : Nat) : slotFor (accepted s op e i) n = slotFor s n := by
  rw [accepted_eq]; rfl
@[simp] theorem accepted_lateness (s : State) (op : Nat) (e : CmdEntry) (i : Nat) (t : Inst) : lateness (accepted s op e i) t = lateness s t := by
  rw [accepted_eq]; rfl

section Lateness
variable {s : State} {t : Inst}

theorem lateness_held (h : (now s : Int) + 10 * usI - t ≤ 0) : lateness s t = 0 := if_pos h

theorem lateness_late (h : 0 < (now s : Int) + 10 * usI - t) (hl : (now s : Int) + 10 * usI - t ≤ lateLimit s) : lateness s t = 1 :=
  (if_neg (Int.not_le.mpr h)).trans (if_pos hl)

theorem lateness_past (h : 0 < (now s : Int) + 10 * usI - t) (hl : (lateLimit s : Int) < (now s : Int) + 10 * usI - t) : lateness s t = 2 :=
  (if_neg (Int.not_le.mpr h)).trans (if_neg (Int.not_le.mpr hl))

end Lateness

section SchedAdd
variable {s : State} {e : CmdEntry} {cid : Nat}

theorem schedAddOwn_badParam (h : schedBad s e.params = true) : schedAddOwn e cid s = .rejAfter s stBadParam := if_pos h

theorem schedAddOwn_noSlot (h : schedBad s e.params = false) (hn : slotFor s (field e.params 0 2) = none) : schedAddOwn e cid s = .rejAfter s stNoResource := by
  rw [schedAddOwn, if_neg (by simp [h]), hn]
  rfl

/-- An action whose parameters are good goes to its slot by its lateness. -/
theorem schedAddOwn_put (h : schedBad s e.params = false) {n : Nat} (hn : slotFor s (field e.params 0 2) = some n) :
    schedAddOwn e cid s = schedPut s cid n (schedOf e.params) (lateness s (schedAtt e.params)) := by
  rw [schedAddOwn, if_neg (by simp [h]), hn]

end SchedAdd

/-- Settles O28: the refusals of R69, then the three answers of the lateness of R71. -/
theorem schedAddByLateness : Obligations.SchedAddByLateness := by
  intro s e i h
  refine ⟨fun hb => ?_, fun hb hn => ?_, fun n L hb hn hL => ?_⟩
  · exact congrArg next (submit_rej h (by decide) (schedAddOwn_badParam (by rwa [accepted_schedBad])))
  · exact congrArg next (submit_rej h (by decide) (schedAddOwn_noSlot (by rwa [accepted_schedBad]) (by rwa [accepted_slotFor])))
  · subst hL
    have hput := schedAddOwn_put (s := accepted s 0x21 e i) (cid := s.hif.nextCid) (by rwa [accepted_schedBad]) ((accepted_slotFor s 0x21 e i _).trans hn)
    rw [accepted_lateness] at hput
    refine ⟨fun h0 => ?held, fun h0 hl => ?late, fun h0 hl => ?past⟩
    case held =>
      rw [lateness_held h0, schedPut, accepted_alm] at hput
      exact congrArg next (submit_ok h hput)
    case late =>
      rw [lateness_late h0 (hl.trans_eq (Int.natCast_mul ..).symm), schedPut, accepted_alm, accepted_now] at hput
      exact congrArg next (submit_later h hput)
    case past =>
      rw [lateness_past h0 hl] at hput
      exact congrArg next (submit_rej h (by decide) hput)

/-! ### SCHED_CANCEL: `Obligations.SchedCancelFreesUnlessNear` -/

@[simp] theorem accepted_instant (s : State) (op : Nat) (e : CmdEntry) (i : Nat) (x : Sched) : x.instant (accepted s op e i) = x.instant s := by
  rw [accepted_eq]; rfl

section SchedCancel
variable {s : State} {e : CmdEntry} {cid : Nat}

theorem schedCancelOwn_badParam (h : 63 < field e.params 0 2 ∨ tget? s.alm.slots (field e.params 0 2) = none) :
    schedCancelOwn e cid s = .rejAfter s stBadParam := by
  by_cases hn : 63 < field e.params 0 2
  · exact if_pos hn
  · rw [schedCancelOwn, if_neg hn, h.resolve_left hn]
    rfl

/-- The action of an occupied slot is kept when its instant is near, and freed otherwise. -/
theorem schedCancelOwn_held (hn : field e.params 0 2 ≤ 63) {x : Sched} (hx : tget? s.alm.slots (field e.params 0 2) = some x) :
    schedCancelOwn e cid s = if x.instant s < now s + 10 * usI then .rejAfter s stBusy else .ok (endSlot (freeSlot s (field e.params 0 2)) x stAborted) := by
  rw [schedCancelOwn, if_neg (Nat.not_lt.mpr hn), hx]
  rfl

end SchedCancel

/-- Settles O29: no action to cancel, an action that is about to run, and one that is freed. -/
theorem schedCancelFreesUnlessNear : Obligations.SchedCancelFreesUnlessNear := by
  intro s e i n h hn
  subst hn
  refine ⟨fun hb => ?empty, fun x h63 hx hi => ?near, fun x h63 hx hi => ?freed⟩
  case empty =>
    exact congrArg next (submit_rej h (by decide) (schedCancelOwn_badParam (by rwa [accepted_alm])))
  case near =>
    refine congrArg next (submit_rej h (by decide) ((schedCancelOwn_held h63 (by rwa [accepted_alm])).trans (if_pos ?_)))
    rwa [accepted_instant, accepted_now]
  case freed =>
    have hown := (schedCancelOwn_held (cid := s.hif.nextCid) (s := accepted s 0x22 e i) h63 (by rwa [accepted_alm])).trans (if_neg ?_)
    · rw [freeSlot, accepted_alm] at hown
      exact congrArg next (submit_ok h hown)
    · rwa [accepted_instant, accepted_now, Nat.not_lt]

/-! ### SCHED_EXECUTE: `Obligations.ScheduledActionsRunInOrder` -/

/-- The slots whose execution instant has come. -/
def dueSlots (s : State) : Tab Sched := s.alm.slots.filter (fun p => decide (p.2.instant s ≤ now s))

/-- Of an action found before and the next one, the one whose instant came first; the one before where they are equal. -/
def sooner (s : State) (b : Option (Nat × Sched)) (p : Nat × Sched) : Option (Nat × Sched) :=
  match b with
  | none => some p
  | some q => if p.2.instant s < q.2.instant s then some p else b

theorem schedExecute_eq (s : State) :
    execSchedExecute s = match (dueSlots s).foldl (sooner s) none with | some (n, x) => next (schedRun s n x) | none => next s := rfl

/-- An action stays the first one as long as none has an earlier instant. -/
theorem sooner_stays {s : State} {q : Nat × Sched} : ∀ {l : Tab Sched}, (∀ p ∈ l, q.2.instant s ≤ p.2.instant s) → l.foldl (sooner s) (some q) = some q
  | [], _ => rfl
  | p :: l, h => by
    have hp : sooner s (some q) p = some q := if_neg (Nat.not_lt.mpr (h p List.mem_cons_self))
    rw [List.foldl_cons, hp]
    exact sooner_stays fun r hr => h r (List.mem_cons_of_mem p hr)

theorem le_of_mem_keysFrom {α : Type} {p : Nat × α} : ∀ {t : Tab α} {lo : Nat}, keysFrom lo t = true → p ∈ t → lo ≤ p.1
  | (j, a) :: t, lo, h, hp => by
    simp only [keysFrom, Bool.and_eq_true, decide_eq_true_eq] at h
    obtain ⟨hj, ht⟩ := h
    rcases List.mem_cons.mp hp with rfl | hp
    · exact hj
    · exact hj.trans (Nat.le_of_succ_le (le_of_mem_keysFrom ht hp))

/-- A table with rising keys lists its entries by them. -/
theorem keysFrom_pairwise {α : Type} : ∀ {t : Tab α} {lo : Nat}, keysFrom lo t = true → t.Pairwise (fun p q => p.1 < q.1)
  | [], _, _ => .nil
  | (j, a) :: t, lo, h => by
    simp only [keysFrom, Bool.and_eq_true, decide_eq_true_eq] at h
    exact .cons (fun _ hq => le_of_mem_keysFrom h.2 hq) (keysFrom_pairwise h.2)

/-- The action before all others is found, whichever later one was found before it. -/
theorem sooner_finds {s : State} {q : Nat × Sched} : ∀ {l : Tab Sched} {b : Option (Nat × Sched)}, l.Pairwise (fun p r => p.1 < r.1) → q ∈ l →
    (∀ p ∈ l, q.2.instant s < p.2.instant s ∨ q.2.instant s = p.2.instant s ∧ q.1 ≤ p.1) → (∀ p, b = some p → q.2.instant s < p.2.instant s) →
    l.foldl (sooner s) b = some q
  | p :: l, b, hk, hq, hl, hb => by
    obtain ⟨hp, hk⟩ := List.pairwise_cons.mp hk
    rw [List.foldl_cons]
    rcases List.mem_cons.mp hq with rfl | hq
    · have hs : sooner s b q = some q := by
        cases b with
        | none => rfl
        | some r => exact if_pos (hb r rfl)
      rw [hs]
      exact sooner_stays fun r hr => (hl r (List.mem_cons_of_mem q hr)).elim Nat.le_of_lt fun h => Nat.le_of_eq h.1
    · have hlt : q.2.instant s < p.2.instant s := (hl p List.mem_cons_self).resolve_right fun h => absurd h.2 (Nat.not_le.mpr (hp q hq))
      refine sooner_finds hk hq (fun r hr => hl r (List.mem_cons_of_mem p hr)) fun r hr => ?_
      cases b with
      | none => cases hr; exact hlt
      | some b =>
        simp only [sooner] at hr
        split at hr
        · cases hr; exact hlt
        · exact hb r hr

theorem dueSlots_none {s : State} (h : ∀ p ∈ s.alm.slots, now s < p.2.instant s) : dueSlots s = [] :=
  List.filter_eq_nil_iff.mpr fun p hp => by simpa using h p hp

/-- The due action whose instant came first, the lowest slot among equal instants (R73). -/
theorem dueSlots_first {s : State} {n : Nat} {x : Sched} (hk : keysFrom 0 s.alm.slots = true) (hx : (n, x) ∈ s.alm.slots) (ht : x.instant s ≤ now s)
    (hl : ∀ p ∈ s.alm.slots, x.instant s < p.2.instant s ∨ (x.instant s = p.2.instant s ∧ n ≤ p.1)) : (dueSlots s).foldl (sooner s) none = some (n, x) :=
  sooner_finds ((keysFrom_pairwise hk).filter _) (List.mem_filter.mpr ⟨hx, decide_eq_true ht⟩) (fun p hp => hl p (List.mem_filter.mp hp).1) (fun _ h => nomatch h)

/-- An action that a case of R74 skips. -/
theorem schedRun_skipped {s : State} {n r : Nat} {x : Sched} (h : skipReason s x (x.instant s) = some r) :
    schedRun s n x = endSlot (skipSlot s n x r) x stAborted := by
  simp only [schedRun, h]

/-- An action's slot once it has executed: free, or for a repeating action kept with its ATT a period on (R75). -/
def movedOn (s : State) (n : Nat) (x : Sched) : State :=
  { s with alm := { s.alm with
      slots := if x.rep then tset (terase s.alm.slots n) n { x with at_ := x.at_ + x.period * secI, earliest := 0, late := none } else terase s.alm.slots n } }

/-- How an executed action reports: a late one by its completion, an AFE_SNAP's by its own, another by SCHED_DONE (R72, R91). -/
def schedReport (s : State) (n : Nat) (x : Sched) (t : Inst) : State :=
  match x.late, x.own with
  | some c, _ => complete s c stLate (attAt s t) (leBytes 2 n)
  | none, some _ => s
  | none, none => raise 0x0309 s (bay := x.bay) (idx := n) (items := [(1, x.action)]) (att := some (attAt s t))

/-- An action that no case of R74 skips. -/
theorem schedRun_executed {s : State} {n : Nat} {x : Sched} (h : skipReason s x (x.instant s) = none) :
    schedRun s n x = schedReport (actionEffect (movedOn s n x) x (x.instant s)) n x (x.instant s) := by
  have hs : movedOn s n x = if x.rep then { freeSlot s n with alm := { (freeSlot s n).alm with
      slots := tset (freeSlot s n).alm.slots n { x with at_ := x.at_ + x.period * secI, earliest := 0, late := none } } } else freeSlot s n := by
    unfold movedOn
    split <;> rfl
  simp only [schedRun, h, hs]
  rfl

/-- Settles O31: nothing due, and the first due action, skipped or executed. -/
theorem scheduledActionsRunInOrder : Obligations.ScheduledActionsRunInOrder := by
  refine fun s hk => ⟨fun h => ?_, fun n x hx ht hl => ?_⟩
  · show execSchedExecute s = _
    rw [schedExecute_eq, dueSlots_none h, List.foldl_nil]
  · have hrun : exec .schedExecute s = .next (schedRun s n x) := by
      show execSchedExecute s = _
      rw [schedExecute_eq, dueSlots_first hk hx ht hl]
    refine ⟨fun r hr => ?_, fun u hr hu => ?_⟩
    · rw [hrun, schedRun_skipped hr]
      rfl
    · rw [hrun, schedRun_executed hr, hu]
      rfl

end Sys2Proof.Machine

namespace Sys2Proof.Machine

/-! ### TIME_RESTEP, IMAGE_LOAD, IMAGE_COMMIT, ATTEST and IMAGE_APPLY: `Obligations.RestepImageAndAttestComplete` -/

/-- COMMISSION and TEST, in which these commands need no token (R529). -/
def OpenMode (s : State) : Prop := s.dev.mode = .commission ∨ s.dev.mode = .test

theorem OpenMode.needToken {s : State} (h : OpenMode s) (e : CmdEntry) (op arg : Nat) : needToken s e op arg = (s, true) := by
  have hs : isSealed s = false := by rcases h with h | h <;> simp [isSealed, h]
  simp [Machine.needToken, hs]

theorem OpenMode.ne_boot {s : State} (h : OpenMode s) : s.dev.mode ≠ .boot := by rcases h with h | h <;> simp [h]
theorem OpenMode.ne_safe {s : State} (h : OpenMode s) : s.dev.mode ≠ .safe := by rcases h with h | h <;> simp [h]

theorem OpenMode.accepted {s : State} (h : OpenMode s) (op : Nat) (e : CmdEntry) (i : Nat) : OpenMode (accepted s op e i) := by
  simpa only [OpenMode, accepted_dev] using h

theorem accepted_fld (s : State) (op : Nat) (e : CmdEntry) (i a hi lo : Nat) : fld (accepted s op e i) a hi lo = fld s a hi lo := by
  rw [accepted_eq]; rfl
theorem accepted_hostRead (s : State) (op : Nat) (e : CmdEntry) (i a n : Nat) : hostRead (accepted s op e i) a n = hostRead s a n := by
  rw [accepted_eq]; rfl
theorem accepted_restepAt (s : State) (op : Nat) (e : CmdEntry) (i : Nat) : restepAt (accepted s op e i) = restepAt s := by
  rw [accepted_eq]; rfl

/-- A re-step that R60 lets wait. -/
theorem timeRestepOwn_waits {s : State} (hm : OpenMode s) (hl : s.alm.lock = .disputed) (hp : s.alm.candSince + fld s R.almRestepCfg 11 0 * secI ≤ now s)
    (hr : s.alm.restep = none) (hq : s.alm.preset = none) (e : CmdEntry) (cid : Nat) :
    timeRestepOwn e cid s = .later { s with alm := { s.alm with restep := some (cid, restepAt s) } } := by
  have hmode : ¬(s.dev.mode = .boot ∨ s.dev.mode = .safe) := not_or.mpr ⟨hm.ne_boot, hm.ne_safe⟩
  have hfree : ¬(now s < s.alm.candSince + fld s R.almRestepCfg 11 0 * secI ∨ s.alm.restep.isSome ∨ s.alm.preset.isSome) := by
    simpa [hr, hq] using hp
  simp only [timeRestepOwn, if_neg hmode, hm.needToken, Bool.not_true, Bool.false_eq_true, if_false, hl, ne_eq, not_true_eq_false, if_neg hfree]

theorem imageLoadOwn_begins {s : State} {e : CmdEntry} (hp : (field e.params 0 1 ≤ 2 ∧ 904 ≤ field e.params 4 4 ∧ field e.params 4 4 ≤ imgMost (field e.params 0 1)) ∨
      (field e.params 0 1 = 3 ∧ field e.params 4 4 ≤ 60 * 1024))
    (ha : field e.params 8 8 % 64 = 0) (hl : s.sec.load = none) (hc : s.sec.apply = none) (cid : Nat) :
    imageLoadOwn e cid s = .later { s with sec := { s.sec with load := some ⟨field e.params 0 1, hostRead s (field e.params 8 8) (field e.params 4 4), cid⟩ } } := by
  have hgood : ¬(3 < field e.params 0 1 ∨ (if field e.params 0 1 = 3 then 60 * 1024 else imgMost (field e.params 0 1)) < field e.params 4 4 ∨
      (field e.params 0 1 ≠ 3 ∧ field e.params 4 4 < 904) ∨ field e.params 8 8 % 64 ≠ 0) := by
    rcases hp with ⟨hk, hlo, hhi⟩ | ⟨hk, hhi⟩
    · rw [if_neg (by omega)]
      omega
    · rw [if_pos hk]
      omega
  have hfree : ¬(s.sec.load.isSome ∨ s.sec.apply.isSome) := by simp [hl, hc]
  simp only [imageLoadOwn, if_neg hgood, if_neg hfree]

/-! IMAGE_COMMIT (R526, R527) -/

theorem sel_setSel (f : Flash) (kind : Nat) (b : Bool) : (f.setSel kind b).sel kind = b := by
  unfold Flash.setSel
  split <;> simp_all [Flash.sel]

/-- The image committed, whatever its flags and mask: its slot is the selected one, and nothing is pending any more; the mode stays. -/
theorem commitImage_selects (s : State) (kind : Nat) (img : List Byte) (adv : Bool) (mask : Nat) :
    (commitImage s kind img adv mask).flash.sel kind = (!s.flash.sel kind) ∧ (commitImage s kind img adv mask).sec.pends kind = false ∧
      (commitImage s kind img adv mask).dev = s.dev := by
  unfold commitImage
  extract_lets owner cls o1 s1 s2 v o2
  have hflash : s1.flash = s.flash := iteInduction (motive := fun t : State => t.flash = s.flash) (fun _ => rfl) (fun _ => raise_flash ..)
  have hdev : s1.dev = s.dev := iteInduction (motive := fun t : State => t.dev = s.dev) (fun _ => rfl) (fun _ => raise_dev ..)
  have hs2 : s2.flash.sel kind = (!s.flash.sel kind) ∧ s2.sec.pends kind = false ∧ s2.dev = s.dev :=
    ⟨by rw [← hflash]; exact sel_setSel .., pends_setPend .., hdev⟩
  split
  · rw [raise_flash, raise_sec, raise_dev]
    exact hs2
  · exact hs2

/-- How a committed image completes: a scheme image's with the instant at which it is to be applied (R529, R207). -/
def commitDone (s : State) (kind : Nat) : CmdOut :=
  if kind = 2 then .ok { s with sec := { s.sec with apply := some ⟨effectInst s⟩ } } (attAt s (effectInst s)) else .ok s

/-- A pending image that R526 lets be committed. -/
theorem imageCommitOwn_commits {s : State} {e : CmdEntry} {img : List Byte} (hk : field e.params 0 1 ≤ 2) (hf : field e.params 1 1 ≤ 1) (hmask : field e.params 2 1 ≤ 15)
    (hp : s.sec.pends (field e.params 0 1) = true) (hm : OpenMode s) (hi : s.flash.slot (field e.params 0 1) (!s.flash.sel (field e.params 0 1)) = some img)
    (hr : revokeBad s.otp (decide (field e.params 0 1 = 2)) (imgKey img) (field e.params 2 1) = false) (hl : s.sec.load = none) (hc : s.sec.apply = none) (cid : Nat) :
    imageCommitOwn e cid s = commitDone (commitImage s (field e.params 0 1) img (bitOf (field e.params 1 1) 0) (field e.params 2 1)) (field e.params 0 1) := by
  have hmode : ¬(s.dev.mode = .safe ∨ (s.dev.mode = .boot ∧ !s.sec.halted)) := not_or.mpr ⟨hm.ne_safe, fun h => hm.ne_boot h.1⟩
  have hgood : ¬(2 < field e.params 0 1 ∨ 1 < field e.params 1 1 ∨ 15 < field e.params 2 1 ∨ !s.sec.pends (field e.params 0 1)) := by
    simp [hp, Nat.not_lt.mpr hk, Nat.not_lt.mpr hf, Nat.not_lt.mpr hmask]
  have hfree : ¬(s.sec.load.isSome ∨ s.sec.apply.isSome) := by simp [hl, hc]
  obtain ⟨-, -, hdev⟩ := commitImage_selects s (field e.params 0 1) img (bitOf (field e.params 1 1) 0) (field e.params 2 1)
  simp only [imageCommitOwn, if_neg hmode, hm.needToken, Bool.not_true, Bool.false_eq_true, if_false, if_neg hgood, hi, hr, if_neg hfree]
  exact if_neg (hdev ▸ hm.ne_boot)

/-! ATTEST and IMAGE_APPLY (R534, R207) -/

theorem attestOwn_writes {s : State} {e : CmdEntry} (hk : field e.params 32 1 ≤ 2) (hc : field e.params 32 1 = 1 → s.flash.cert ≠ [])
    (ha : addrOk (field e.params 40 8) = true) (cid : Nat) :
    attestOwn e cid s = .ok (raise 0x0E08 (hostWrite s (field e.params 40 8) (attestOut s (field e.params 32 1) (slice e.params 0 32))) (items := [(1, field e.params 32 1)]))
      Att.zero (leBytes 4 (attestOut s (field e.params 32 1) (slice e.params 0 32)).length) := by
  have hgood : ¬(2 < field e.params 32 1 ∨ !addrOk (field e.params 40 8)) := by simp [ha, Nat.not_lt.mpr hk]
  exact (if_neg hgood).trans (if_neg fun h => hc h.1 h.2)

theorem applyDue_applies {s : State} {p : SchemeApply} {img : List Byte} (hp : s.sec.apply = some p) (hi : s.flash.slot 2 s.flash.schSel = some img) (ht : p.at_ ≤ now s) :
    applyDue s = applyScheme { s with sec := { s.sec with apply := none, schSlot := s.flash.schSel } } img p.at_ := by
  simp only [applyDue, hp, hi]
  exact if_neg (Nat.not_lt.mpr ht)

theorem applyDue_waits {s : State} (h : s.sec.apply = none ∨ ∃ p, s.sec.apply = some p ∧ now s < p.at_) : applyDue s = s := by
  unfold applyDue
  split
  · next p img hp _ =>
    rcases h with h | ⟨q, hq, ht⟩
    · rw [h] at hp
      cases hp
    · cases hq.symm.trans hp
      exact if_pos ht
  · rfl

/-- Settles O20, command by command. -/
theorem restepImageAndAttestComplete : Obligations.RestepImageAndAttestComplete := by
  refine fun s e i => ⟨fun h hm hl hp hr hq => ?restep, fun h hp ha hl hc => ?load, fun kind img h hk hk2 hf hmask hp hm hi hr hl hc => ?commit, fun h hk hc ha => ?attest,
    fun p img hp hi ht => congrArg next (applyDue_applies hp hi ht), fun h => congrArg next (applyDue_waits h)⟩
  case restep =>
    have hown := timeRestepOwn_waits (OpenMode.accepted hm 0x20 e i) (by rwa [accepted_alm]) (by rwa [accepted_alm, accepted_fld, accepted_now]) (by rwa [accepted_alm])
      (by rwa [accepted_alm]) e s.hif.nextCid
    rw [accepted_alm, accepted_restepAt] at hown
    exact congrArg next (submit_later h hown)
  case load =>
    have hown := imageLoadOwn_begins (s := accepted s 0x10 e i) hp ha (by rwa [accepted_sec]) (by rwa [accepted_sec]) s.hif.nextCid
    rw [accepted_sec, accepted_hostRead] at hown
    exact congrArg next (submit_later h hown)
  case commit =>
    subst hk
    have hown := imageCommitOwn_commits (s := accepted s 0x11 e i) hk2 hf hmask (by rwa [accepted_sec]) (OpenMode.accepted hm 0x11 e i) (by rwa [accepted_flash]) (by rwa [accepted_otp])
      (by rwa [accepted_sec]) (by rwa [accepted_sec]) s.hif.nextCid
    obtain ⟨hsel, hpend, -⟩ := commitImage_selects (accepted s 0x11 e i) (field e.params 0 1) img (bitOf (field e.params 1 1) 0) (field e.params 2 1)
    rw [accepted_flash] at hsel
    refine ⟨_, rfl, hsel, hpend, congrArg next ?_⟩
    unfold commitDone at hown
    split at hown
    · next h2 => exact (submit_ok h hown).trans (if_pos h2).symm
    · next h2 => exact (submit_ok h hown).trans (if_neg h2).symm
  case attest =>
    exact congrArg next (submit_ok h (attestOwn_writes hk (by rwa [accepted_flash]) ha s.hif.nextCid))

end Sys2Proof.Machine

namespace Sys2Proof.Machine

/-! ### The clock's tick: `Obligations.EmptyQueueTicksTheClock` -/

/-- `t` has the time counter of `s`, its tick count and its phase. -/
structure SameTick (s t : State) : Prop where
  sec : t.alm.sec = s.alm.sec
  ns : t.alm.ns = s.alm.ns
  frac : t.alm.frac = s.alm.frac
  ticks : t.dev.ticks = s.dev.ticks
  phase : t.dev.phase = s.dev.phase

theorem SameTick.refl (s : State) : SameTick s s := ⟨rfl, rfl, rfl, rfl, rfl⟩

/-- A change of the Almanac that leaves the counter alone. -/
theorem SameTick.alm {o s t : State} (h : SameTick o s) (ha : t.alm = { t.alm with sec := s.alm.sec, ns := s.alm.ns, frac := s.alm.frac }) (hd : t.dev = s.dev) : SameTick o t :=
  ⟨by rw [ha]; exact h.sec, by rw [ha]; exact h.ns, by rw [ha]; exact h.frac, by rw [hd]; exact h.ticks, by rw [hd]; exact h.phase⟩

theorem SameTick.same {o s t : State} (h : SameTick o s) (ha : t.alm = s.alm) (hd : t.dev = s.dev) : SameTick o t := h.alm (by rw [ha]) hd

theorem sameTick_blind (o : State) : BayBlind (SameTick o) where
  host h k := h.same k.alm k.dev
  cup h e := h.same (by rw [e]) (by rw [e])
  bel h e := h.same (by rw [e]) (by rw [e])
  free h := ⟨h.sec, h.ns, h.frac, h.ticks, h.phase⟩
  mir h e := h.same (by rw [e]) (by rw [e])
  migs h e := h.same (by rw [e]; rfl) (by rw [e]; rfl)
  causes h e := h.same (by rw [e]) (by rw [e])
  pins h e := h.same (by rw [e]) (by rw [e])

theorem setInc_alm (s : State) (i : Nat) : (setInc s i).alm = { s.alm with inc := i, rateHist := (setInc s i).alm.rateHist } := by
  unfold setInc
  split
  · next h => rw [h]
  · rfl

theorem setInc_dev (s : State) (i : Nat) : (setInc s i).dev = s.dev := iteInduction (motive := fun t : State => t.dev = s.dev) (fun _ => rfl) (fun _ => rfl)

/-- Besides the counter's advance a tick moves the increment of a slew, err_class and the frames that wait. -/
theorem fullTick_sameTick (s : State) : SameTick (tick s) (fullTick s) := by
  unfold fullTick
  extract_lets d s1 left a s2
  have h2 : SameTick s1 s2 := by
    unfold s2
    split
    · exact SameTick.alm (.refl s1) (by rw [setInc_alm]) (setInc_dev ..)
    · exact .refl s1
  have hports : SameTick s1 ((List.range 6).foldl drainPort (refreshErr s2)) :=
    List.foldlRecOn _ _ (h2.alm rfl rfl) fun _ k _ _ => (sameTick_blind s1).toFrameBlind.to_drainPort k
  exact List.foldlRecOn _ _ hports fun _ k _ _ => (sameTick_blind s1).toPairBlind.to_drainLane k

/-- The counter as one number in units of 2^-48 ns (R37). -/
def Alm.count (a : Alm) : Nat := (a.sec * 10 ^ 9 + a.ns) * 2 ^ 48 + a.frac

/-- An advance adds INC to the counter, with carry into its fields (R37). -/
theorem advance_count (a : Alm) : a.advance.count = a.count + a.inc ∧ a.advance.ns < 10 ^ 9 ∧ a.advance.frac < 2 ^ 48 := by
  have hf := Nat.div_add_mod (a.frac + a.inc) (2 ^ 48)
  have hn := Nat.div_add_mod (a.ns + (a.frac + a.inc) / 2 ^ 48) (10 ^ 9)
  refine ⟨?_, Nat.mod_lt _ (by decide), Nat.mod_lt _ (by decide)⟩
  simp only [Alm.count, Alm.advance]
  omega

/-- Settles O2: the first four phases, and the fifth with its tick. -/
theorem emptyQueueTicksTheClock : Obligations.EmptyQueueTicksTheClock := by
  intro s hq
  have hstep : step s = .next (clockTick s) := by rw [step, hq]
  refine ⟨fun hp => ?_, fun hp => ⟨fullTick s, ?_, ?_⟩⟩
  · rw [hstep, clockTick, if_pos hp]
  · rw [hstep, clockTick, if_neg (Nat.not_lt.mpr hp)]
  · have h := fullTick_sameTick s
    obtain ⟨hc, hns, hfrac⟩ := advance_count s.alm
    refine ⟨h.ticks, h.phase, (fullTick_kept (Kept.rfl' s)).queue.trans hq, ?_, ?_, ?_⟩
    · rw [h.ns]; exact hns
    · rw [h.frac]; exact hfrac
    · rw [h.sec, h.ns, h.frac]; exact hc

/-! ### Reset: `Obligations.ResetStateIsAsSpecified` -/

theorem inv_reset : Inv State.reset where
  mem := rfl
  regs := rfl
  ns := by decide
  frac := by decide
  inc := rateOk_nominal
  incBase := rateOk_nominal
  hist _ h := nomatch h
  held := by decide

/-- Settles O60, field by field of the reset state. -/
theorem resetStateIsAsSpecified : Obligations.ResetStateIsAsSpecified :=
  ⟨rfl, rfl, rfl, rfl, rfl, rfl, rfl, rfl, rfl, rfl, rfl, rfl, rfl, rfl, rfl, by decide, by decide, by decide, by decide, by decide, inv_reset⟩

end Sys2Proof.Machine

namespace Sys2Proof.Machine

/-! ### What operations outside the Almanac leave of it -/

/-- What is said of the Almanac alone sees nothing of bays, records, frames, the pair, migrations and output pins. -/
theorem alm_blind (Q : Alm → Prop) : BayBlind (fun s => Q s.alm) where
  host h k := by rw [k.alm]; exact h
  cup h e := by rw [e]; exact h
  bel h e := by rw [e]; exact h
  free h := h
  mir h e := by rw [e]; exact h
  migs h e := by rw [e]; exact h
  causes h e := by rw [e]; exact h
  pins h e := by rw [e]; exact h

theorem drainLines_alm (s : State) (n : Nat) : (drainLines s n).alm = s.alm :=
  foldl_keeps State.alm (fun t _ => (alm_blind (· = t.alm)).to_recordLine rfl) _ s

theorem modCup_alm (s : State) (n : Nat) (f : CupBay → CupBay) : (modCup s n f).alm = s.alm := (alm_blind (· = s.alm)).to_modCup rfl
theorem cutCup_alm (s : State) (n why : Nat) : (cutCup s n why).alm = s.alm := (alm_blind (· = s.alm)).to_cutCup rfl
theorem cupBayStat_alm (s : State) (n : Nat) : (cupBayStat s n).alm = s.alm := (cupBayStat_host s n).alm
theorem setCause_alm (s : State) (bit : Nat) (v : Bool) : (setCause s bit v).alm = s.alm := (alm_blind (· = s.alm)).to_setCause rfl

theorem setFlt_alm (s : State) (n : Nat) (c : FltCh) : (setFlt s n c).alm = s.alm := regSet_alm ..

theorem syncReset_alm (s : State) (mask cause : Nat) : (syncReset s mask cause).alm = s.alm := by
  unfold syncReset
  extract_lets s1
  exact (raise_alm ..).trans (foldl_keeps State.alm (fun _ _ => (bump_alm ..).trans (setFlt_alm ..)) _ s)

theorem metWrite_alm (s : State) (n : Nat) (x : MetRec) (z : Nat) : (metWrite s n x z).alm = s.alm := by
  unfold metWrite
  split
  · rfl
  · extract_lets byp b1 s1 before
    have h1 : s1.alm = s.alm := (raise_alm ..).trans (showMet_host _).alm
    split
    · exact (raise_alm ..).trans h1
    · exact h1

theorem metClose_alm (s : State) (n : Nat) : (metClose s n).alm = s.alm := by
  unfold metClose
  split
  · rfl
  · exact foldl_keeps State.alm (fun _ _ => metWrite_alm ..) _ _

theorem modMet_alm (s : State) (n : Nat) (f : MetBay → MetBay) : (modMet s n f).alm = s.alm := by
  unfold modMet
  split <;> rfl

theorem metStep_alm (s : State) (t u : Nat) : (metStep s t u).alm = s.alm := by
  unfold metStep
  split
  · rfl
  · exact foldl_keeps State.alm (fun _ _ => (metClose_alm ..).trans (modMet_alm ..)) _ s

/-! ### A step of the time counter (R44) -/

theorem stepBay_alm (t new : Inst) (s : State) (n : Nat) : (stepBay t new s n).alm = s.alm := by
  unfold stepBay
  split
  · rfl
  · extract_lets first near s1 s2 keep
    exact (cupBayStat_alm ..).trans ((modCup_alm ..).trans ((modCup_alm ..).trans (cutCup_alm s2 ..)))

theorem stepSignals_alm (new : Inst) (s : State) : (stepSignals new s).alm = s.alm := by
  unfold stepSignals
  extract_lets q sec a sy s1
  exact syncReset_alm s1 ..

theorem endSlot_alm (s : State) (x : Sched) (status : Nat) : (endSlot s x status).alm = s.alm := by
  unfold endSlot
  extract_lets s1
  have h1 : s1.alm = s.alm := by
    unfold s1
    split
    · exact complete_alm ..
    · rfl
  split
  · exact (complete_alm ..).trans h1
  · exact h1

/-- A step moves nothing of the Almanac in a slot but the slots. -/
theorem stepSlot_alm (new : Inst) (s : State) (n : Nat) : (stepSlot new s n).alm = { s.alm with slots := (stepSlot new s n).alm.slots } := by
  unfold stepSlot
  split
  · rfl
  · extract_lets p k s1 l
    split
    · rfl
    · split
      · rw [bumpBy_alm]
      · split
        · rfl
        · rw [endSlot_alm, skipSlot, raise_alm, freeSlot]

/-- The Almanac after a step to `new`, but for its slots (R44). -/
def almStepped (s : State) (new : Inst) : Alm :=
  { s.alm.load new with
    lockHist := [(new, s.alm.lock)], holdAt := new - (now s - s.alm.holdAt), dispAt := new - (now s - s.alm.dispAt), run := []
    rateHist := s.alm.rateHist.map (fun p => (new - (now s - p.1), p.2)), ppsSec := cdivN new secI - 1 }

theorem almanacStep_alm (s : State) (new : Inst) (cause : StepCause) : ∃ sl, (almanacStep s new cause).alm = { almStepped s new with slots := sl } := by
  unfold almanacStep
  extract_lets old t s0 a ld s1 s2 s3 cp s4 s5 code s6
  have h0 : s0.alm = s.alm := foldl_keeps State.alm (fun _ _ => drainLines_alm ..) _ s
  have h1 : s1.alm = almStepped s new := by
    unfold s1 ld a
    rw [h0]
    rfl
  have h2 : s2.alm = s1.alm := stepSignals_alm ..
  have h3 : s3.alm = s2.alm := foldl_keeps State.alm (fun _ _ => stepBay_alm ..) _ _
  have h4 : s4.alm = s3.alm := (cupStat_host _).alm.trans (metStep_alm ..)
  have h5 : ∃ sl, s5.alm = { s4.alm with slots := sl } :=
    List.foldlRecOn (motive := fun u : State => ∃ sl, u.alm = { s4.alm with slots := sl }) _ _ ⟨s4.alm.slots, rfl⟩ fun u ⟨sl, hu⟩ n _ =>
      ⟨(stepSlot new u n).alm.slots, by rw [stepSlot_alm, hu]⟩
  obtain ⟨sl, h5⟩ := h5
  have h6 : s6.alm = s5.alm := by
    unfold s6
    split <;> exact raise_alm ..
  exact ⟨sl, by rw [appendLog_alm, h6, h5, h4, h3, h2, h1]⟩

/-- A number of 2^-16 ns cut into seconds, nanoseconds and a fraction, and put together again. -/
theorem inst_cut (t : Nat) : (t / secI * 10 ^ 9 + t / nsI % 10 ^ 9) * 65536 + t % nsI = t := by
  simp only [secI, nsI]
  omega

/-- The counter loaded with an instant stands at it. -/
theorem load_inst (a : Alm) (t : Inst) : (a.load t).inst = t := by
  have hf : rdivN (t % nsI * 2 ^ 32) (2 ^ 32) = t % nsI := rdivN_mul _ (by decide)
  simp only [Alm.inst, Alm.load, hf]
  exact inst_cut t

theorem almanacStep_now (s : State) (new : Inst) (cause : StepCause) : now (almanacStep s new cause) = new := by
  obtain ⟨sl, h⟩ := almanacStep_alm s new cause
  have hi : now (almanacStep s new cause) = (s.alm.load new).inst := by rw [now, h]; rfl
  exact hi.trans (load_inst _ _)

end Sys2Proof.Machine

namespace Sys2Proof.Machine

/-! ### What the operations of the lock state, the rate and the sources leave of the Almanac -/

/-- `t` has what `s` holds of the sources heard: the usable ones, the grandmasters, and the frames of IRIG-B. -/
structure SameSources (s t : State) : Prop where
  usable : t.alm.usable = s.alm.usable
  foreign : t.alm.foreign = s.alm.foreign
  irigBad : t.alm.irigBad = s.alm.irigBad
  irigLast : t.alm.irigLast = s.alm.irigLast

/-- `t` has moreover the time of `s`: its counter, its era and its preset. -/
structure SameTime (s t : State) : Prop extends SameSources s t where
  sec : t.alm.sec = s.alm.sec
  ns : t.alm.ns = s.alm.ns
  frac : t.alm.frac = s.alm.frac
  era : t.alm.era = s.alm.era
  preset : t.alm.preset = s.alm.preset

section Relations
variable {o s t : State}

theorem SameSources.refl (s : State) : SameSources s s := ⟨rfl, rfl, rfl, rfl⟩
theorem SameSources.trans (h : SameSources o s) (k : SameSources s t) : SameSources o t :=
  ⟨k.usable.trans h.usable, k.foreign.trans h.foreign, k.irigBad.trans h.irigBad, k.irigLast.trans h.irigLast⟩

/-- A change, written out, of nothing that the relation looks at. -/
theorem SameSources.same (h : SameSources o s) (k : SameSources s t := by exact ⟨rfl, rfl, rfl, rfl⟩) : SameSources o t := h.trans k

theorem SameTime.refl (s : State) : SameTime s s := ⟨.refl s, rfl, rfl, rfl, rfl, rfl⟩
theorem SameTime.trans (h : SameTime o s) (k : SameTime s t) : SameTime o t :=
  ⟨h.toSameSources.trans k.toSameSources, k.sec.trans h.sec, k.ns.trans h.ns, k.frac.trans h.frac, k.era.trans h.era, k.preset.trans h.preset⟩

/-- A change, written out, of nothing that the relation looks at. -/
theorem SameTime.same (h : SameTime o s) (k : SameTime s t := by exact ⟨⟨rfl, rfl, rfl, rfl⟩, rfl, rfl, rfl, rfl, rfl⟩) : SameTime o t := h.trans k

/-- A change of nothing of the Almanac. -/
theorem SameTime.alm (h : SameTime o s) (k : t.alm = s.alm) : SameTime o t :=
  h.trans ⟨⟨by rw [k], by rw [k], by rw [k], by rw [k]⟩, by rw [k], by rw [k], by rw [k], by rw [k], by rw [k]⟩

theorem SameTime.now (h : SameTime s t) : now t = now s := by simp only [Machine.now, Alm.inst, h.sec, h.ns, h.frac]

end Relations

/-! Rates and lock states (R37, R53 to R61) -/

theorem refreshErr_alm (s : State) : (refreshErr s).alm = { s.alm with errClass := (refreshErr s).alm.errClass } := rfl

/-- Whether entering a lock state leaves the disputed one. -/
def leavesDispute (a : Alm) (l : Lock) : Bool := decide (a.lock = .disputed) && decide (l ≠ .disputed)

theorem leavesDispute_not {a : Alm} (h : a.lock ≠ .disputed) (l : Lock) : leavesDispute a l = false := by simp [leavesDispute, h]

/-- The Almanac as a lock state is entered, but for its rate and its error class (R53, R54, R56, R61). -/
def lockEntered (s : State) (l : Lock) : Alm :=
  { s.alm with
    lock := l, lockHist := ((now s, l) :: s.alm.lockHist).take 16
    traceable := (match l with | .locked => srcTraceable s | .holdover => s.alm.traceable && decide (s.alm.lock = .locked) | _ => false)
    firstLock := s.alm.firstLock || decide (l = .locked), stepRefused := s.alm.stepRefused && decide (l ≠ .locked)
    slewing := s.alm.slewing && !leavesDispute s.alm l, restepReady := s.alm.restepReady && !leavesDispute s.alm l
    restep := if leavesDispute s.alm l then none else s.alm.restep, run := [] }

/-- A lock state entered: a slew of the dispute ends with it, so that the rate returns to the one before (R54, R59). -/
theorem lockTo_alm (s : State) (l : Lock) : ∃ hist cls, (lockTo s l).alm =
    { lockEntered s l with inc := if leavesDispute s.alm l then s.alm.incBase else s.alm.inc, rateHist := hist, errClass := cls } := by
  have h : (lockTo s l).alm = (refreshErr (setInc { s with alm := lockEntered s l } (if leavesDispute s.alm l then s.alm.incBase else s.alm.inc))).alm := by
    unfold lockTo
    extract_lets a leave tr a1 s1 s2
    have h2 : s2.alm = s1.alm := by
      unfold s2
      split
      · split
        · exact complete_alm ..
        · rfl
      · rfl
    exact (raise_alm ..).trans h2
  exact ⟨_, _, h.trans (by rw [refreshErr_alm, setInc_alm])⟩

theorem lockTo_lock (s : State) (l : Lock) : (lockTo s l).alm.lock = l := by
  obtain ⟨hist, cls, h⟩ := lockTo_alm s l
  rw [h]
  rfl

/-- The Almanac as a dispute begins: its hold, no slew, the rate to return to, and the candidate (R58, R60). -/
def disputeBegun (s : State) (ofs : Int) (e0 : Nat) : State :=
  { s with alm := { s.alm with
      lastOfs := ofs, dispAt := now s, holdE0 := e0, holdUntil := now s + fld s R.almServoCfg 23 16 * secI, slewed := 0, slewing := false, incBase := s.alm.inc, slewLeft := 0
      cand := ofs, candRef := ofs, candSince := now s, restepReady := false } }

theorem toDisputed_alm (s : State) (ofs : Int) (e0 : Nat) : (toDisputed s ofs e0).alm = (lockTo (disputeBegun s ofs e0) .disputed).alm := raise_alm ..

/-! The servo (R37, R54, R67) -/

theorem checkOsc_alm (s : State) : ∃ b, (checkOsc s).alm = { s.alm with oscFail := b } := by
  unfold checkOsc
  extract_lets dev bad a s1
  split
  · exact ⟨s.alm.oscFail, rfl⟩
  · refine ⟨bad, (setCause_alm ..).trans ?_⟩
    split
    · exact raise_alm ..
    · rfl

/-- The increment that the servo gives: what it wants within the slew limit, and within 300 ppm of nominal (R37, R54). -/
def servoTo (s : State) (ofs : Int) : Nat :=
  clampInc (clampI ((s.alm.inc : Int) - slewMax s) ((s.alm.inc : Int) + slewMax s) (Config.servoInc ofs s.alm.inc))

theorem servo_alm (s : State) (ofs : Int) : ∃ run dev hist b cls, (servo s ofs).alm =
    { s.alm with run := run, devEst := dev, inc := servoTo s ofs, rateHist := hist, oscFail := b, errClass := cls } := by
  unfold servo
  extract_lets a run want inc s1
  obtain ⟨b, hb⟩ := checkOsc_alm s1
  have h1 : s1.alm = { s.alm with run := run, devEst := Config.offsetDeviation (run.map Meas.ofs), inc := servoTo s ofs, rateHist := s1.alm.rateHist } := setInc_alm ..
  exact ⟨_, _, _, b, _, (refreshErr_alm _).trans (by rw [hb, h1])⟩

section Time
variable {o s : State} (h : SameTime o s)
include h

theorem setInc_time {i : Nat} : SameTime o (setInc s i) := iteInduction (fun _ => h) (fun _ => h.same)

theorem refreshErr_time : SameTime o (refreshErr s) := h.same

theorem lockTo_time {l : Lock} : SameTime o (lockTo s l) := by
  obtain ⟨hist, cls, e⟩ := lockTo_alm s l
  exact (h.same (t := { s with alm := _ })).alm e

theorem toHoldover_time : SameTime o (toHoldover s) := setInc_time (lockTo_time h.same)

theorem toDisputed_time {ofs : Int} {e0 : Nat} : SameTime o (toDisputed s ofs e0) := (lockTo_time (s := disputeBegun s ofs e0) h.same).alm (toDisputed_alm ..)

theorem servo_time {ofs : Int} : SameTime o (servo s ofs) := by
  obtain ⟨run, dev, hist, b, cls, e⟩ := servo_alm s ofs
  exact (h.same (t := { s with alm := _ })).alm e

/-! Sources (R45, R46) -/

theorem reTrace_time : SameTime o (reTrace s) := iteInduction (fun _ => h.same) (fun _ => h)

theorem source_time {x : Source} : SameTime o { s with alm := { s.alm with source := x } } := h.same

/-- A source chosen anew changes neither the time nor what is known of the sources. -/
theorem chooseSource_time : SameTime o (chooseSource s) := by
  have h1 : SameTime o { s with alm := { s.alm with source := bestSource s, run := [] } } := h.same
  have hh : SameTime o (toHoldover { s with alm := { s.alm with run := [] } }) := toHoldover_time h.same
  unfold chooseSource
  dsimp only
  generalize ({ s with alm := { s.alm with source := bestSource s, run := [] } } : State) = s1 at h1 ⊢
  generalize toHoldover _ = u at hh ⊢
  refine iteInduction (fun _ => h) (fun _ => iteInduction (fun _ => ?_) (fun _ => ?_))
  · split
    · exact lockTo_time h1
    · exact source_time hh
    · exact source_time hh
    · exact h1
  · have h2 : ∀ l, SameTime o (if s.alm.source = .internal then s1 else raise 0x0305 s1 (items := l)) := fun l => iteInduction (fun _ => h1) (fun _ => h1.alm (raise_alm ..))
    exact iteInduction (fun _ => lockTo_time (h2 _)) (fun _ => refreshErr_time (reTrace_time (h2 _)))

end Time

/-! A step of the time counter (R44) -/

section Load
variable (a : Alm) (t : Inst)

theorem load_lock : (a.load t).lock = a.lock := by cases a; rfl
theorem load_era : (a.load t).era = a.era := by cases a; rfl
theorem load_preset : (a.load t).preset = a.preset := by cases a; rfl
theorem load_usable : (a.load t).usable = a.usable := by cases a; rfl
theorem load_foreign : (a.load t).foreign = a.foreign := by cases a; rfl
theorem load_irigBad : (a.load t).irigBad = a.irigBad := by cases a; rfl
theorem load_irigLast : (a.load t).irigLast = a.irigLast := by cases a; rfl
theorem load_restep : (a.load t).restep = a.restep := by cases a; rfl

end Load

/-- `t` is `s` with its counter stepped to `new`: the lock state, the era, a preset and a re-step that wait, and the sources stay. -/
structure SteppedTo (s t : State) (new : Inst) : Prop extends SameSources s t where
  now : now t = new
  sec : t.alm.sec = (s.alm.load new).sec
  ns : t.alm.ns = (s.alm.load new).ns
  frac : t.alm.frac = (s.alm.load new).frac
  lock : t.alm.lock = s.alm.lock
  era : t.alm.era = s.alm.era
  preset : t.alm.preset = s.alm.preset
  restep : t.alm.restep = s.alm.restep

theorem almanacStep_stepped (s : State) (new : Inst) (cause : StepCause) : SteppedTo s (almanacStep s new cause) new := by
  obtain ⟨sl, h⟩ := almanacStep_alm s new cause
  refine ⟨⟨?_, ?_, ?_, ?_⟩, almanacStep_now .., ?_, ?_, ?_, ?_, ?_, ?_, ?_⟩ <;> rw [h]
  · exact load_usable s.alm new
  · exact load_foreign s.alm new
  · exact load_irigBad s.alm new
  · exact load_irigLast s.alm new
  · rfl
  · rfl
  · rfl
  · exact load_lock s.alm new
  · exact load_era s.alm new
  · exact load_preset s.alm new
  · exact load_restep s.alm new

end Sys2Proof.Machine

namespace Sys2Proof.Machine

/-! ### Presets, steps and ALM_SNAP: `Obligations.PresetsAndStepsLoadTheCounter` -/

section Landing
variable {s : State}

theorem landPreset_none (h : s.alm.preset = none) : landPreset s = s := by rw [landPreset, h]

variable {sec due : Nat} (h : s.alm.preset = some (sec, due))
include h

theorem landPreset_waits (ht : now s < due * secI) : landPreset s = s := by
  rw [landPreset, h]
  exact if_pos ht

theorem landPreset_steps (ht : due * secI ≤ now s) (hl : s.alm.lock = .freeRun ∨ s.alm.lock = .acquiring) : landPreset s = presetStep s sec := by
  rw [landPreset, h]
  exact (if_neg (Nat.not_lt.mpr ht)).trans (if_pos hl)

theorem landPreset_dropped (ht : due * secI ≤ now s) (hl : ¬(s.alm.lock = .freeRun ∨ s.alm.lock = .acquiring)) :
    landPreset s = flagSet { s with alm := { s.alm with preset := none } } R.almStat 6 true := by
  rw [landPreset, h]
  exact (if_neg (Nat.not_lt.mpr ht)).trans (if_neg hl)

end Landing

/-- What a counter loaded with whole nanoseconds holds (R41, R44). -/
theorem load_whole (a : Alm) (sec ns : Nat) (h : ns < 10 ^ 9) :
    (a.load (sec * secI + ns * nsI)).sec = sec ∧ (a.load (sec * secI + ns * nsI)).ns = ns ∧ (a.load (sec * secI + ns * nsI)).frac = 0 := by
  have hsec : (sec * secI + ns * nsI) / secI = sec := by simp only [secI, nsI]; omega
  have hns : (sec * secI + ns * nsI) / nsI % 10 ^ 9 = ns := by simp only [secI, nsI]; omega
  have hfrac : (sec * secI + ns * nsI) % nsI = 0 := by simp only [secI, nsI]; omega
  exact ⟨hsec, hns, by show _ % nsI * 2 ^ 32 = 0; rw [hfrac, Nat.zero_mul]⟩

/-- The instant that a preset loads: its second, or the present time where that has passed it (R39, R41). -/
def presetInst (s : State) (sec : Nat) : Inst := if now s ≤ sec * secI then sec * secI else now s

/-- The state whose counter a preset steps. -/
def presetTaken (s : State) : State := { s with alm := { s.alm with preset := none, secKnown := true } }

theorem presetStep_eq (s : State) (sec : Nat) : presetStep s sec = chooseSource (almanacStep (presetTaken s) (presetInst s sec) .preset) := by
  rw [presetStep, presetInst]
  rfl

/-- A preset loads the counter and is used up; the source chosen after it leaves that alone. -/
theorem presetStep_lands (s : State) (sec : Nat) :
    now (presetStep s sec) = presetInst s sec ∧ (presetStep s sec).alm.preset = none ∧ (presetStep s sec).alm.era = s.alm.era ∧
      (now s ≤ sec * secI → (presetStep s sec).alm.sec = sec ∧ (presetStep s sec).alm.ns = 0 ∧ (presetStep s sec).alm.frac = 0) := by
  have ht : SameTime (almanacStep (presetTaken s) (presetInst s sec) .preset) (presetStep s sec) := by
    rw [presetStep_eq]
    exact chooseSource_time (.refl _)
  have hu := almanacStep_stepped (presetTaken s) (presetInst s sec) .preset
  refine ⟨ht.now.trans hu.now, ht.preset.trans hu.preset, ht.era.trans hu.era, fun hs => ?_⟩
  · have hi : presetInst s sec = sec * secI + 0 * nsI := (if_pos hs).trans (by rw [Nat.zero_mul, Nat.add_zero])
    rw [ht.sec, ht.ns, ht.frac, hu.sec, hu.ns, hu.frac, hi]
    exact load_whole (presetTaken s).alm sec 0 (by decide)

/-- A preset that waits dropped, with preset_rej (R54). -/
def presetDropped (s : State) : State := if s.alm.preset.isSome then flagSet { s with alm := { s.alm with preset := none } } R.almStat 6 true else s

theorem presetDropped_alm (s : State) : (presetDropped s).alm = { s.alm with preset := none } := by
  unfold presetDropped
  split
  · exact flagSet_alm ..
  · next h =>
    have hn : s.alm.preset = none := by simpa using h
    rw [← hn]

/-- The state locked for the first time, before its step (R53, R54). -/
def firstLocked (s : State) (b d : Int) : State :=
  lockTo (setInc { presetDropped s with alm := { (presetDropped s).alm with secKnown := true, devEst := Config.offsetDeviation (s.alm.run.map Meas.ofs) } }
    (clampInc ((s.alm.inc : Int) + rdivI (s.alm.inc * b) d.toNat))) .locked

/-- The state in which a step back is refused (R54). -/
def stepRefusal (s : State) (ofs : Int) : State := raise 0x030B { s with alm := { s.alm with stepRefused := true } } (items := [(8, ofSigned 64 (ofsNs ofs))])

theorem firstLock_forward {s : State} {ofs : Int} (h : 0 ≤ ofs) (b d : Int) : firstLock s ofs b d = almanacStep (firstLocked s b d) (now s + ofs.toNat) .firstLock :=
  if_neg (Int.not_lt.mpr h)

theorem firstLock_back {s : State} {ofs : Int} (h : ofs < 0) (b d : Int) : firstLock s ofs b d = toDisputed (stepRefusal s ofs) ofs ofs.natAbs := if_pos h

/-- The first lock leaves the Almanac locked in its era, with no preset. -/
theorem firstLocked_holds (s : State) (b d : Int) : (firstLocked s b d).alm.lock = .locked ∧ (firstLocked s b d).alm.preset = none ∧ (firstLocked s b d).alm.era = s.alm.era := by
  have ht : SameTime { presetDropped s with alm := { (presetDropped s).alm with secKnown := true, devEst := Config.offsetDeviation (s.alm.run.map Meas.ofs) } } (firstLocked s b d) :=
    lockTo_time (setInc_time (.refl _))
  refine ⟨lockTo_lock .., ht.preset.trans ?_, ht.era.trans ?_⟩
  · show (presetDropped s).alm.preset = none
    rw [presetDropped_alm]
  · show (presetDropped s).alm.era = s.alm.era
    rw [presetDropped_alm]

/-- A step back that is refused leaves the time, and the dispute open (R54). -/
theorem firstLock_refused {s : State} {ofs : Int} (h : ofs < 0) (b d : Int) :
    now (firstLock s ofs b d) = now s ∧ (firstLock s ofs b d).alm.lock = .disputed ∧ (firstLock s ofs b d).alm.stepRefused = true := by
  have hr : (stepRefusal s ofs).alm = { s.alm with stepRefused := true } := raise_alm ..
  have hn : now (stepRefusal s ofs) = now s := by rw [now, hr]; rfl
  obtain ⟨hist, cls, hd⟩ := lockTo_alm (disputeBegun (stepRefusal s ofs) ofs ofs.natAbs) .disputed
  rw [firstLock_back h]
  refine ⟨(toDisputed_time (.refl _)).now.trans hn, ?_, ?_⟩
  · rw [toDisputed_alm, hd]
    rfl
  · rw [toDisputed_alm, hd]
    show ((stepRefusal s ofs).alm.stepRefused && _) = true
    rw [hr]
    rfl

/-- A first lock steps the counter to the time of its offset (R54). -/
theorem firstLock_steps {s : State} {ofs : Int} (h : 0 ≤ ofs) {sec ns : Nat} (hn : ns < 10 ^ 9) (ht : now s + ofs.toNat = sec * secI + ns * nsI) (b d : Int) :
    (firstLock s ofs b d).alm.sec = sec ∧ (firstLock s ofs b d).alm.ns = ns ∧ (firstLock s ofs b d).alm.lock = .locked ∧ (firstLock s ofs b d).alm.preset = none ∧
      (firstLock s ofs b d).alm.era = s.alm.era := by
  obtain ⟨hl, hp, he⟩ := firstLocked_holds s b d
  obtain ⟨hsec, hns, -⟩ := load_whole (firstLocked s b d).alm sec ns hn
  rw [firstLock_forward h, ht]
  have hu := almanacStep_stepped (firstLocked s b d) (sec * secI + ns * nsI) .firstLock
  exact ⟨hu.sec.trans hsec, hu.ns.trans hns, hu.lock.trans hl, hu.preset.trans hp, hu.era.trans he⟩

/-- The state with an offset held. -/
def offsetHeld (s : State) (ofs : Int) : State := { s with alm := { s.alm with lastOfs := ofs } }

theorem offsetHeld_time (s : State) (ofs : Int) : SameTime s (offsetHeld s ofs) := SameTime.same (.refl s)

/-- ALMANAC_STEP by a first lock while acquiring. -/
theorem almanacStep_acquiring {s : State} (h : s.alm.lock = .acquiring) (sec ns : Nat) {ofs : Int} (ho : ((sec * secI + ns % 10 ^ 9 * nsI : Nat) : Int) - now s = ofs) :
    exec (.almanacStep sec ns .firstLock) s = .next (firstLock (offsetHeld s ofs) ofs 0 1) := by
  subst ho
  exact if_pos h

/-- ALM_SNAP moves registers alone, and the four of ALM_NOW hold the present ATT (R80). -/
theorem almSnap_holds (s : State) : almSnap s = { s with regs := (almSnap s).regs } ∧ regGet (almSnap s) R.almNowSecLo = (attNow s).sec % 2 ^ 32 ∧
    regGet (almSnap s) R.almNowSecHi = (attNow s).sec / 2 ^ 32 % 2 ^ 32 ∧ regGet (almSnap s) R.almNowNs = (attNow s).ns % 2 ^ 32 ∧
    regGet (almSnap s) R.almNowFq = ((attNow s).frac * 65536 + (attNow s).q.toNat) % 2 ^ 32 := by
  unfold almSnap
  extract_lets a
  refine ⟨rfl, ?_, ?_, ?_, ?_⟩
  · rw [regGet_regSet_ne _ (by decide), regGet_regSet_ne _ (by decide), regGet_regSet_ne _ (by decide), regGet_regSet, if_pos rfl]
  · rw [regGet_regSet_ne _ (by decide), regGet_regSet_ne _ (by decide), regGet_regSet, if_pos rfl]
  · rw [regGet_regSet_ne _ (by decide), regGet_regSet, if_pos rfl]
  · rw [regGet_regSet, if_pos rfl]

/-- Settles O32: a preset asked for and landed, the steps, and ALM_SNAP. -/
theorem presetsAndStepsLoadTheCounter : Obligations.PresetsAndStepsLoadTheCounter := by
  refine fun s => ⟨fun hl hs => congrArg next (if_pos ⟨hl, hs⟩), fun h => congrArg next (if_neg h), fun h => congrArg next (landPreset_none h),
    fun sec due h => ⟨fun ht => congrArg next (landPreset_waits h ht), fun ht hl => ?lands, fun ht hl => congrArg next (landPreset_dropped h ht hl)⟩,
    fun sec ns hl => ⟨fun hn => ?forward, fun hn => ?back⟩, fun sec ns hl => if_neg hl, fun sec ns => ?preset, fun sec ns => ?restep, ⟨_, rfl, almSnap_holds s⟩⟩
  case lands =>
    obtain ⟨hnow, hp, he, hw⟩ := presetStep_lands s sec
    exact ⟨_, congrArg next (landPreset_steps h ht hl), hnow, hw, hp, he⟩
  case forward =>
    have hofs : 0 ≤ ((sec * secI + ns % 10 ^ 9 * nsI : Nat) : Int) - now s := Int.sub_nonneg_of_le (Int.ofNat_le.mpr hn)
    have ht : now s + (((sec * secI + ns % 10 ^ 9 * nsI : Nat) : Int) - now s).toNat = sec * secI + ns % 10 ^ 9 * nsI := by
      rw [Int.toNat_sub]
      exact Nat.add_sub_of_le hn
    generalize ho : ((sec * secI + ns % 10 ^ 9 * nsI : Nat) : Int) - now s = ofs at hofs ht
    have hk := offsetHeld_time s ofs
    obtain ⟨hsec, hns, hlk, hp, he⟩ := firstLock_steps (s := offsetHeld s ofs) hofs (Nat.mod_lt _ (by decide)) (by rw [hk.now]; exact ht) 0 1
    exact ⟨_, almanacStep_acquiring hl sec ns ho, hsec, hns, hlk, hp, he.trans hk.era⟩
  case back =>
    have hofs : ((sec * secI + ns % 10 ^ 9 * nsI : Nat) : Int) - now s < 0 := Int.sub_neg_of_lt (Int.ofNat_lt.mpr hn)
    generalize ho : ((sec * secI + ns % 10 ^ 9 * nsI : Nat) : Int) - now s = ofs at hofs
    obtain ⟨hnow, hlk, hr⟩ := firstLock_refused (s := offsetHeld s ofs) hofs 0 1
    exact ⟨_, almanacStep_acquiring hl sec ns ho, hnow.trans (offsetHeld_time s ofs).now, hlk, hr⟩
  case preset => rfl
  case restep => rfl

end Sys2Proof.Machine

namespace Sys2Proof.Machine

/-! ### Measurements, the dispute and the re-step: `Obligations.MeasurementsSteerTheAlmanac` -/

section Landing
variable {s : State}

theorem landRestep_none (h : s.alm.restep = none) : landRestep s = s := by rw [landRestep, h]

variable {cid at_ : Nat} (h : s.alm.restep = some (cid, at_))
include h

theorem landRestep_lands (hl : s.alm.lock = .disputed) (ht : (at_ : Int) ≤ candTime s) :
    landRestep s = complete (restepApply s at_) cid stOk (attAt (restepApply s at_) at_) := by
  rw [landRestep, h]
  exact if_pos ⟨ht, hl⟩

theorem landRestep_waits (hn : candTime s < at_ ∨ s.alm.lock ≠ .disputed) : landRestep s = s := by
  rw [landRestep, h]
  exact if_neg fun ⟨ht, hl⟩ => hn.elim (Int.not_lt.mpr ht) (· hl)

end Landing

/-- The state that a re-step locks: in the next era, with no re-step waiting (R61). -/
def restepTaken (s : State) : State := { s with alm := { s.alm with era := s.alm.era + 1, restep := none } }

/-- A re-step leaves the counter at its instant, one era on and locked (R39, R53, R61). -/
theorem restepApply_lands (s : State) (new : Inst) :
    now (restepApply s new) = new ∧ (restepApply s new).alm.era = s.alm.era + 1 ∧ (restepApply s new).alm.lock = .locked ∧ (restepApply s new).alm.restep = none := by
  have hu : SteppedTo (lockTo (restepTaken s) .locked) (restepApply s new) new := almanacStep_stepped ..
  have ht : SameTime (restepTaken s) (lockTo (restepTaken s) .locked) := lockTo_time (.refl _)
  obtain ⟨hist, cls, hl⟩ := lockTo_alm (restepTaken s) .locked
  refine ⟨hu.now, hu.era.trans ht.era, hu.lock.trans (lockTo_lock ..), hu.restep.trans ?_⟩
  rw [hl]
  exact ite_self none

/-! A measurement (R53, R54, R58) -/

/-- A dispute from a state that was not disputed: its rate kept, its hold begun, and no slew (R58). -/
theorem toDisputed_holds {s : State} (h : s.alm.lock ≠ .disputed) (ofs : Int) (e0 : Nat) :
    (toDisputed s ofs e0).alm.lock = .disputed ∧ (toDisputed s ofs e0).alm.inc = s.alm.inc ∧ (toDisputed s ofs e0).alm.slewing = false ∧
      (toDisputed s ofs e0).alm.holdUntil = now s + fld s R.almServoCfg 23 16 * secI := by
  obtain ⟨hist, cls, hd⟩ := lockTo_alm (disputeBegun s ofs e0) .disputed
  rw [leavesDispute_not (a := (disputeBegun s ofs e0).alm) h] at hd
  rw [toDisputed_alm, hd]
  exact ⟨rfl, rfl, rfl, rfl⟩

/-- Within 300 ppm already, a bounded change stays bounded as it is held within 300 ppm. -/
theorem clampInc_near {r m : Nat} (h : rateOk r) (i : Int) : ((clampInc (clampI (r - m) (r + m) i) : Int) - r).natAbs ≤ m := by
  unfold rateOk at h
  unfold clampInc
  dsimp only
  generalize incNominal * 300 / 10 ^ 6 = d at h ⊢
  generalize incNominal = n at h ⊢
  obtain ⟨hlo, hhi⟩ := h
  have hw := clampI_le (lo := (r : Int) - m) (hi := r + m) (x := i) (by omega)
  generalize clampI ((r : Int) - m) (r + m) i = w at hw ⊢
  unfold clampI
  split
  · omega
  · split <;> omega

theorem servo_near {s : State} (h : rateOk s.alm.inc) (ofs : Int) :
    (servo s ofs).alm.lock = s.alm.lock ∧ rateOk (servo s ofs).alm.inc ∧ (((servo s ofs).alm.inc : Int) - s.alm.inc).natAbs ≤ slewMax s := by
  obtain ⟨run, dev, hist, b, cls, hs⟩ := servo_alm s ofs
  rw [hs]
  exact ⟨rfl, clampInc_ok _, clampInc_near h _⟩

/-- A measurement that keeps the dispute open leaves the time and the lock state (R58, R60). -/
theorem disputeMeas_beyond (s : State) (ofs : Int) : SameTime s (disputeMeas s ofs true) ∧ (disputeMeas s ofs true).alm.lock = s.alm.lock := by
  unfold disputeMeas
  extract_lets a cand out near run a1 s1
  have h1 : SameTime s s1 := SameTime.same (.refl s)
  have hl : s1.alm.lock = s.alm.lock := rfl
  have hrun : run = [] := rfl
  rw [if_neg (by rw [hrun]; decide)]
  generalize s1 = t at h1 hl ⊢
  split
  · refine ⟨refreshErr_time (setInc_time h1), ?_⟩
    rw [refreshErr_alm, setInc_alm]
    exact hl
  · exact ⟨h1, hl⟩

/-- Settles O33: the dispute's hold, its candidate and its re-step, and what a measurement does in each lock state. -/
theorem measurementsSteerTheAlmanac : Obligations.MeasurementsSteerTheAlmanac := by
  refine ⟨fun s => ⟨fun hl hs ht => if_pos ⟨hl, by simp [hs], ht⟩, fun h => if_neg fun ⟨hl, hs, ht⟩ => h ⟨hl, by simpa using hs, ht⟩,
      fun hl hr ht => if_pos ⟨hl, by simp [hr], ht⟩, fun h => if_neg fun ⟨hl, hr, ht⟩ => h ⟨hl, by simpa using hr, ht⟩,
      fun h => congrArg next (landRestep_none h), fun cid at_ h => ⟨fun hl ht => ?lands, fun hn => congrArg next (landRestep_waits h hn)⟩⟩,
    fun s ofs beyond hr => ⟨fun hl hfar => ?far, fun hl hb hnear => ?near, fun hl => ?freeRun, fun hl hb => ?disputed⟩⟩
  case lands => exact ⟨_, congrArg next (landRestep_lands h hl ht), restepApply_lands s at_⟩
  case far =>
    have hm : almMeasure s ofs beyond = toDisputed (offsetHeld s ofs) ofs (errEst s) := by
      rw [almMeasure, hl]
      exact if_pos ((Bool.or_eq_true_iff ..).mpr (hfar.imp_right decide_eq_true))
    have hd : (offsetHeld s ofs).alm.lock ≠ .disputed := fun h => Lock.noConfusion (hl.symm.trans h)
    obtain ⟨hlk, hinc, hslew, hhold⟩ := toDisputed_holds hd ofs (errEst s)
    rw [hm]
    exact ⟨hlk, hinc, hslew, by rw [hhold, (offsetHeld_time s ofs).now]; rfl⟩
  case near =>
    have hm : almMeasure s ofs beyond = servo (offsetHeld s ofs) ofs := by
      rw [almMeasure, hl]
      exact if_neg (by rw [hb, Bool.false_or, decide_eq_true_eq]; exact Nat.not_lt.mpr hnear)
    obtain ⟨hlk, hrate, hslew⟩ := servo_near (s := offsetHeld s ofs) hr ofs
    rw [hm]
    exact ⟨hlk.trans hl, hrate, hslew⟩
  case freeRun => rw [almMeasure, hl]
  case disputed =>
    have hm : almMeasure s ofs beyond = disputeMeas (offsetHeld s ofs) ofs true := by rw [almMeasure, hl, hb]; rfl
    obtain ⟨ht, hlk⟩ := disputeMeas_beyond (offsetHeld s ofs) ofs
    rw [hm]
    exact ⟨hlk.trans hl, ht.now.trans (offsetHeld_time s ofs).now⟩

end Sys2Proof.Machine

namespace Sys2Proof.Machine

/-! ### What a measurement and a source leave of the sources heard -/

section Sources
variable {o s : State} (h : SameSources o s)
include h

theorem lockTo_sources {l : Lock} : SameSources o (lockTo s l) := h.trans (lockTo_time (.refl s)).toSameSources
theorem servo_sources {ofs : Int} : SameSources o (servo s ofs) := h.trans (servo_time (.refl s)).toSameSources
theorem toDisputed_sources {ofs : Int} {e0 : Nat} : SameSources o (toDisputed s ofs e0) := h.trans (toDisputed_time (.refl s)).toSameSources
theorem refreshErr_sources : SameSources o (refreshErr s) := h.trans (refreshErr_time (.refl s)).toSameSources
theorem setInc_sources {i : Nat} : SameSources o (setInc s i) := h.trans (setInc_time (.refl s)).toSameSources

/-- A change of nothing of the Almanac. -/
theorem SameSources.alm {t : State} (k : t.alm = s.alm) : SameSources o t := h.trans (SameTime.alm (.refl s) k).toSameSources

theorem offsetHeld_sources {ofs : Int} : SameSources o (offsetHeld s ofs) := h.same

theorem presetDropped_sources : SameSources o (presetDropped s) := (h.same (t := { s with alm := { s.alm with preset := none } })).alm (presetDropped_alm s)

theorem firstLock_sources {ofs b d : Int} : SameSources o (firstLock s ofs b d) := by
  rcases lt_or_ge ofs 0 with hofs | hofs
  · rw [firstLock_back hofs]
    exact toDisputed_sources ((h.same (t := { s with alm := { s.alm with stepRefused := true } })).alm (raise_alm ..))
  · rw [firstLock_forward hofs]
    have hp := presetDropped_sources h
    exact (lockTo_sources (setInc_sources hp.same)).trans (almanacStep_stepped ..).toSameSources

theorem acquire_sources {ofs : Int} {beyond : Bool} : SameSources o (acquire s ofs beyond) := by
  unfold acquire
  extract_lets run x s1
  have h1 : SameSources o s1 := h.same
  refine iteInduction (fun _ => ?_) (fun _ => h1)
  rcases lineFit run with ⟨w, k, b, d⟩
  exact iteInduction (fun _ => firstLock_sources h1) (fun _ => h1)

theorem disputeMeas_sources {ofs : Int} {beyond : Bool} : SameSources o (disputeMeas s ofs beyond) := by
  unfold disputeMeas
  extract_lets a cand out near run a1 s1 x
  have h1 : SameSources o s1 := h.same
  have h2 : SameSources o { s1 with alm := { x with devEst := Config.offsetDeviation (run.map Meas.ofs) } } := h.same
  generalize ({ s1 with alm := { x with devEst := Config.offsetDeviation (run.map Meas.ofs) } } : State) = t at h2 ⊢
  generalize s1 = u at h1 ⊢
  exact iteInduction (fun _ => lockTo_sources h2) (fun _ => iteInduction (fun _ => refreshErr_sources (setInc_sources h1)) (fun _ => h1))

/-- A measurement changes nothing of what is known of the sources. -/
theorem almMeasure_sources {ofs : Int} {beyond : Bool} : SameSources o (almMeasure s ofs beyond) := by
  have h0 : SameSources o (offsetHeld s ofs) := offsetHeld_sources h
  unfold almMeasure
  split
  · exact h0
  · exact acquire_sources h0
  · exact iteInduction (fun _ => toDisputed_sources h0) (fun _ => servo_sources h0)
  · exact iteInduction (fun _ => toDisputed_sources h0) (fun _ => servo_sources (lockTo_sources h0))
  · exact disputeMeas_sources h0

theorem leapNote_sources {ptp irig : Option Bool} : SameSources o (leapNote s ptp irig) := by
  unfold leapNote
  extract_lets a old new s1 utc x
  have h1 : SameSources o s1 := h.same
  clear_value old new
  split
  · exact SameSources.alm h1.same (raise_alm ..)
  · exact h1.same
  · exact h1.same

end Sources

/-- The usable sources with one set or cleared. -/
def usableSet (s : State) (x : Source) (v : Bool) : State :=
  { s with alm := { s.alm with usable := if v then s.alm.usable.filter (fun y => decide (y ≠ x)) ++ [x] else s.alm.usable.filter (fun y => decide (y ≠ x)) } }

theorem setUsable_time (s : State) (x : Source) (v : Bool) : SameTime (usableSet s x v) (setUsable s x v) := chooseSource_time (.refl _)

theorem setUsable_usable (s : State) (x : Source) (v : Bool) : (setUsable s x v).alm.usable.contains x = v := by
  rw [(setUsable_time s x v).usable]
  cases v <;> simp [usableSet]

/-- The selection keeps the grandmasters whose announce timeout has not passed (R46, R47). -/
theorem selectMaster_foreign (s : State) : (selectMaster s).alm.foreign = s.alm.foreign.filter (fun g => g.fresh s.dev.ticks) := by
  unfold selectMaster
  extract_lets l best same x s1
  exact (refreshErr_time (reTrace_time (setUsable_time s1 ..))).foreign

end Sys2Proof.Machine

namespace Sys2Proof.Machine

/-! ### Time measured and forwarded: `Obligations.TimeIsMeasuredAndForwarded` -/

theorem ite_elapsed {α : Type} (s : State) (t n : Ticks) (a b : α) : (if elapsed s t n then a else b) = if t + n ≤ s.dev.ticks then a else b :=
  if_congr decide_eq_true_iff rfl rfl

/-! IRIG-B -/

/-- The state with a good IRIG-B frame counted (R46, R63). -/
def irigTaken (f : IrigFrame) (s : State) : State :=
  { s with alm := { s.alm with
      irigBad := 0, irigLast := s.dev.ticks, irigWhole := f.ext && s.alm.utcValid, irigTq := if f.ext then f.quality else s.alm.irigTq
      secKnown := s.alm.secKnown || f.ext && s.alm.utcValid } }

/-- A good frame: IRIG-B set usable, and then a leap announcement and a measurement, which leave the sources heard. -/
theorem irigbFrame_good (s : State) {f : IrigFrame} (h : f.good = true) :
    ∃ t, exec (.irigbFrame f) s = .next t ∧ SameSources (setUsable (irigTaken f s) .irig true) t := by
  refine ⟨_, if_neg (by rw [h]; decide), ?_⟩
  have h2 : SameSources (setUsable (irigTaken f s) .irig true)
      (if f.ext then leapNote (setUsable (irigTaken f s) .irig true) (setUsable (irigTaken f s) .irig true).alm.ptpLeap (if f.leapPending then some f.leapDir else none)
        else setUsable (irigTaken f s) .irig true) :=
    iteInduction (fun _ => leapNote_sources (.refl _)) (fun _ => .refl _)
  exact iteInduction (fun _ => almMeasure_sources h2) (fun _ => h2)

theorem irigbFrame_usable (s : State) {f : IrigFrame} (h : f.good = true) :
    ∃ t, exec (.irigbFrame f) s = .next t ∧ t.alm.usable.contains .irig = true ∧ t.alm.irigBad = 0 ∧ t.alm.irigLast = s.dev.ticks := by
  obtain ⟨t, ht, hs⟩ := irigbFrame_good s h
  have hu := setUsable_time (irigTaken f s) .irig true
  exact ⟨t, ht, by rw [hs.usable]; exact setUsable_usable .., hs.irigBad.trans hu.irigBad, hs.irigLast.trans hu.irigLast⟩

/-! PTP (R47) -/

/-- Whether a Sync is a measurement: from the selected grandmaster, on its port, with an interval of R47. -/
def syncCounts (s : State) (m : PtpSync) : Bool :=
  ptpHears s m.port m.domain && (match s.alm.gm with | some g => decide (g.id = m.gmId) | none => false) && decide (m.port = s.alm.selPort) && decide (-4 ≤ m.logInterval) &&
    decide (m.logInterval ≤ 0)

theorem syncCounts_iff {s : State} {m : PtpSync} : syncCounts s m = true ↔
    ptpHears s m.port m.domain = true ∧ (∃ g, s.alm.gm = some g ∧ g.id = m.gmId) ∧ m.port = s.alm.selPort ∧ -4 ≤ m.logInterval ∧ m.logInterval ≤ 0 := by
  have hg : (match s.alm.gm with | some g => decide (g.id = m.gmId) | none => false) = true ↔ ∃ g, s.alm.gm = some g ∧ g.id = m.gmId := by
    cases s.alm.gm <;> simp
  simp only [syncCounts, Bool.and_eq_true, decide_eq_true_eq, and_assoc, hg]

/-- The state with a Sync that counts: seconds known, and its interval (R46). -/
def syncTaken (s : State) (m : PtpSync) : State :=
  { s with alm := { s.alm with secKnown := true, syncAt := s.dev.ticks, syncIvl := m.logInterval, syncLost := false } }

theorem ptpSyncRx_counts {s : State} {m : PtpSync} (h : syncCounts s m = true) {u : State} (hu : u = setUsable (syncTaken s m) .ptp true) :
    exec (.ptpSyncRx m) s = .next (if u.alm.source = .ptp then
      almMeasure u (((m.originSec : Int) * 10 ^ 9 + m.originNs) * nsI + m.correction + tget 0 s.alm.pathDelay m.port - eventInst s) false else u) := by
  subst hu
  exact if_pos h

theorem ptpSyncRx_ignored {s : State} {m : PtpSync} (h : ¬syncCounts s m = true) : exec (.ptpSyncRx m) s = .next s := if_neg h

/-- Whether an Announce is heard: its domain and port, its interval and its steps (R47). -/
def announceCounts (s : State) (m : PtpAnnounce) : Bool :=
  ptpHears s m.port m.domain && decide (-3 ≤ m.logInterval) && decide (m.logInterval ≤ 1) && decide (m.steps < 255)

theorem announceCounts_iff {s : State} {m : PtpAnnounce} :
    announceCounts s m = true ↔ ptpHears s m.port m.domain = true ∧ -3 ≤ m.logInterval ∧ m.logInterval ≤ 1 ∧ m.steps < 255 := by
  simp only [announceCounts, Bool.and_eq_true, decide_eq_true_eq, and_assoc]

/-- The grandmaster that an Announce tells of (R47). -/
def announced (s : State) (m : PtpAnnounce) : Grandmaster :=
  ⟨m.gmId, m.port, m.sender, m.clockClass, m.accuracy, m.variance, m.prio1, m.prio2, m.steps, m.traceable, m.ptpScale,
    if flag s R.almPtpCfg 23 then m.inaccuracy else none, if flag s R.almPtpCfg 23 then m.tlvId else none, m.logInterval, s.dev.ticks⟩

/-- Just heard, a grandmaster's announce timeout has not passed (R46). -/
theorem announced_fresh (s : State) (m : PtpAnnounce) : (announced s m).fresh s.dev.ticks = true := decide_eq_true (Nat.le_add_right ..)

/-- The state with the grandmaster of an Announce kept in place of what its sender told before. -/
def announceTaken (s : State) (m : PtpAnnounce) : State :=
  { s with alm := { s.alm with foreign := s.alm.foreign.filter (fun x => !(decide (x.sender = m.sender) && decide (x.port = m.port))) ++ [announced s m] } }

/-- An Announce that counts leaves the selection's grandmasters: what the selected one tells of UTC is taken besides. -/
theorem ptpAnnounceRx_counts {s : State} {m : PtpAnnounce} (h : announceCounts s m = true) :
    ∃ t, exec (.ptpAnnounceRx m) s = .next t ∧ t.alm.foreign = (selectMaster (announceTaken s m)).alm.foreign := by
  have hx : exec (.ptpAnnounceRx m) s = execPtpAnnounceRx m s := rfl
  unfold announceCounts at h
  rw [hx, execPtpAnnounceRx, if_pos h]
  extract_lets g others a s1 sel a1 s2
  have h2 : s2.alm.foreign = s1.alm.foreign := by
    unfold s2
    split
    · rw [fldSet_alm]
    · rfl
  split
  · exact ⟨_, rfl, (leapNote_sources (.refl s2)).foreign.trans h2⟩
  · exact ⟨_, rfl, rfl⟩

theorem ptpAnnounceRx_ignored {s : State} {m : PtpAnnounce} (h : ¬announceCounts s m = true) : exec (.ptpAnnounceRx m) s = .next s := if_neg h

theorem ptpAnnounceRx_keeps {s : State} {m : PtpAnnounce} (h : announceCounts s m = true) :
    ∃ t, exec (.ptpAnnounceRx m) s = .next t ∧ ∃ g ∈ t.alm.foreign, g.id = m.gmId ∧ g.sender = m.sender ∧ g.port = m.port ∧ g.last = s.dev.ticks := by
  obtain ⟨t, ht, hf⟩ := ptpAnnounceRx_counts h
  refine ⟨t, ht, announced s m, ?_, rfl, rfl, rfl, rfl⟩
  rw [hf, selectMaster_foreign]
  exact List.mem_filter.mpr ⟨List.mem_append_right _ (List.mem_singleton_self _), announced_fresh s m⟩

/-! The transparent clock (R50 to R52) -/

section Forward
variable {s : State} {frame : List Byte} {inp out : Nat} {res : Int}

theorem tcEventForward_ignored (h : 6 ≤ inp ∨ 6 ≤ out ∨ 1 < fieldBE frame (ptpAt frame) 1 % 16) : exec (.tcEventForward frame inp out res) s = .next s := if_pos h

variable (hin : inp < 6) (hout : out < 6)
include hin hout

theorem tcEventForward_oneStep (hty : fieldBE frame (ptpAt frame) 1 % 16 = 0) (htwo : bitOf (fieldBE frame (ptpAt frame + 6) 1) 1 = false) :
    exec (.tcEventForward frame inp out res) s =
      .next (egress s out false (frameQueue s frame inp) ⟨addCorrection frame (tget 0 s.alm.pathDelay inp + res), false, false⟩) := by
  have hx : exec (.tcEventForward frame inp out res) s = execTcEventForward frame inp out res s := rfl
  simp [hx, execTcEventForward, hty, htwo, Nat.not_le.mpr hin, Nat.not_le.mpr hout]

/-- What a two-step Sync records: its residence time, and the oldest of 64 entries given up for it. -/
theorem tcEventForward_twoStep (hty : fieldBE frame (ptpAt frame) 1 % 16 = 0) (htwo : bitOf (fieldBE frame (ptpAt frame + 6) 1) 1 = true) {x : TcEntry}
    (hx : x = ⟨fieldBE frame (ptpAt frame + 4) 1, fieldBE frame (ptpAt frame + 20) 10, fieldBE frame (ptpAt frame + 30) 2, out, res, s.dev.ticks⟩) :
    exec (.tcEventForward frame inp out res) s =
      .next (egress (if s.alm.tc.length < 64 then { s with alm := { s.alm with tc := s.alm.tc ++ [x] } }
          else bumpFld { s with alm := { s.alm with tc := s.alm.tc.drop 1 ++ [x] } } R.almTcCnt 31 16)
        out false (frameQueue s frame inp) ⟨addCorrection frame (tget 0 s.alm.pathDelay inp), false, false⟩) := by
  have he : exec (.tcEventForward frame inp out res) s = execTcEventForward frame inp out res s := rfl
  subst hx
  by_cases h : s.alm.tc.length < 64 <;> simp [he, execTcEventForward, hty, htwo, Nat.not_le.mpr hin, Nat.not_le.mpr hout, h]

theorem tcEventForward_delayReq (hty : fieldBE frame (ptpAt frame) 1 % 16 = 1) :
    exec (.tcEventForward frame inp out res) s = .next (egress s out false (frameQueue s frame inp) ⟨addCorrection frame 0, false, false⟩) := by
  have hx : exec (.tcEventForward frame inp out res) s = execTcEventForward frame inp out res s := rfl
  simp [hx, execTcEventForward, hty, Nat.not_le.mpr hin, Nat.not_le.mpr hout]

end Forward

/-- The entry of the Sync that a Follow_Up follows (R51). -/
def tcHit (frame : List Byte) (out : Nat) (x : TcEntry) : Bool :=
  decide (x.domain = fieldBE frame (ptpAt frame + 4) 1) && decide (x.portId = fieldBE frame (ptpAt frame + 20) 10) && decide (x.seq = fieldBE frame (ptpAt frame + 30) 2) &&
    decide (x.egress = out)

/-- A Follow_Up goes out behind its Sync, with the residence time of its entry or unchanged and counted (R51, R52). -/
theorem tcFollowUpForward_eq {s : State} {frame : List Byte} {inp out : Nat} (hout : out < 6) {q : Nat}
    (hq : q = (syncQueue s out (fieldBE frame (ptpAt frame + 4) 1) (fieldBE frame (ptpAt frame + 20) 10) (fieldBE frame (ptpAt frame + 30) 2)).getD (frameQueue s frame inp)) :
    exec (.tcFollowUpForward frame inp out) s = .next ((s.alm.tc.find? (tcHit frame out)).elim (egress (bumpFld s R.almTcCnt 15 0) out false q ⟨frame, false, false⟩)
      fun x => egress { s with alm := { s.alm with tc := s.alm.tc.erase x } } out false q ⟨addCorrection frame x.residence, false, false⟩) := by
  subst hq
  have hx : exec (.tcFollowUpForward frame inp out) s = execTcFollowUpForward frame inp out s := rfl
  rw [hx, execTcFollowUpForward, if_neg (Nat.not_le.mpr hout)]
  change (match s.alm.tc.find? (tcHit frame out) with | some x => _ | none => _) = _
  cases s.alm.tc.find? (tcHit frame out) <;> rfl

theorem tcEntryExpiry_eq (s : State) :
    exec .tcEntryExpiry s = .next { s with alm := { s.alm with tc := s.alm.tc.filter (fun x => decide (s.dev.ticks < x.since + 100 * msT)) } } := by
  have hf : (fun x : TcEntry => !elapsed s x.since (100 * msT)) = fun x => decide (s.dev.ticks < x.since + 100 * msT) := by
    funext x
    rw [elapsed, ← decide_not]
    exact decide_eq_decide.mpr Nat.not_le
  have hx : exec .tcEntryExpiry s = .next { s with alm := { s.alm with tc := s.alm.tc.filter (fun x => !elapsed s x.since (100 * msT)) } } := rfl
  rw [hx, hf]

/-- Settles O34: each source measured, the grandmasters and the path delays heard, and the transparent clock. -/
theorem timeIsMeasuredAndForwarded : Obligations.TimeIsMeasuredAndForwarded := by
  refine ⟨fun s => ⟨fun x u hx hu => ?pps, fun f u hf hu => ?irigBad, fun f hf => irigbFrame_usable s hf, ?lostPps, rfl, ?lostPtp, fun n hn => ?lostNone, setUsable_usable s,
      fun m g u hh hg hid hport hlo hhi hu => ?sync, fun m hm => ptpSyncRx_ignored (fun h => ?syncNot), fun m hh hlo hhi hst => ptpAnnounceRx_keeps (announceCounts_iff.mpr ⟨hh, hlo, hhi, hst⟩),
      fun m hm => ptpAnnounceRx_ignored (fun h => ?announceNot), fun port rp delay => ?resp, fun port seq rp log turn => ?req⟩,
    fun s frame inp out res => ⟨tcEventForward_ignored, fun h => if_pos h⟩,
    fun s frame inp out res hout => ⟨fun hin => tcEventForward_oneStep hin hout,
      fun x hin hty htwo hx => ⟨fun hl => ?room, fun hl => ?full⟩, fun hin => tcEventForward_delayReq hin hout,
      fun q hq => ⟨fun x hf => ?matched, fun hf => ?unmatched⟩, tcEntryExpiry_eq s⟩⟩
  case pps =>
    subst hx hu
    rfl
  case irigBad =>
    subst hu
    exact if_pos (by rw [hf]; rfl)
  case lostPps => exact congrArg next (ite_elapsed ..)
  case lostPtp => exact congrArg (fun t => next (selectMaster t)) (ite_elapsed ..)
  case lostNone =>
    match n, hn with
    | _ + 3, _ => rfl
  case sync =>
    rw [ptpSyncRx_counts (syncCounts_iff.mpr ⟨hh, ⟨g, hg, hid⟩, hport, hlo, hhi⟩) hu]
    push_cast
    rfl
  case syncNot =>
    obtain ⟨hh, ⟨g, hg, hid⟩, hport, hlo, hhi⟩ := syncCounts_iff.mp h
    rcases hm with hf | hp | hl | hl | hn | ⟨g', hg', hid'⟩
    · exact absurd (hh.symm.trans hf) (by decide)
    · exact hp hport
    · omega
    · omega
    · exact absurd (hn.symm.trans hg) (by simp)
    · obtain rfl : g' = g := Option.some.inj (hg'.symm.trans hg)
      exact hid' hid
  case announceNot =>
    obtain ⟨hh, hlo, hhi, hst⟩ := announceCounts_iff.mp h
    rcases hm with hf | hl | hl | hl
    · exact absurd (hh.symm.trans hf) (by decide)
    · omega
    · omega
    · omega
  case resp => exact (apply_ite ..).symm
  case req => exact (apply_ite ..).symm
  case room => rw [tcEventForward_twoStep hin hout hty htwo hx, if_pos hl]
  case full => rw [tcEventForward_twoStep hin hout hty htwo hx, if_neg (Nat.not_lt.mpr hl)]
  case matched =>
    have hx : s.alm.tc.find? (tcHit frame out) = some x := hf
    rw [tcFollowUpForward_eq hout hq, hx]
    rfl
  case unmatched =>
    have hx : s.alm.tc.find? (tcHit frame out) = none := hf
    rw [tcFollowUpForward_eq hout hq, hx]
    rfl

end Sys2Proof.Machine

namespace Sys2Proof.Machine

/-! ### Leap seconds, PPS_OUT and the PTP intervals: `Obligations.LeapPpsOutAndPtpIntervals` -/

/-! PPS_OUT (R66) -/

/-- Whether the gate of PPS_OUT is open (R66). -/
def ppsGate (s : State) : Bool := !flag s R.almPpsCfg 1 || decide (s.alm.lock = .locked) || (decide (s.alm.lock = .holdover) && s.alm.traceable)

theorem ppsGate_iff (s : State) : ppsGate s = true ↔ flag s R.almPpsCfg 1 = false ∨ s.alm.lock = .locked ∨ s.alm.lock = .holdover ∧ s.alm.traceable = true := by
  simp [ppsGate, or_assoc]

/-- When PPS_OUT rises: at the top of a new second, enabled, its gate open, and not in BOOT (R66, R68). -/
def PpsRises (s : State) : Prop :=
  s.alm.ppsSec < now s / secI ∧ now s % secI ≤ 5 * nsI ∧ flag s R.almPpsCfg 0 = true ∧ ppsGate s = true ∧ s.dev.mode ≠ .boot

section PpsOut
variable {s : State}

theorem ppsOutPulse_rises (h : s.alm.ppsOut = none) (hr : PpsRises s) :
    exec .ppsOutPulse s = .next { s with alm := { s.alm with ppsOut := some s.dev.ticks, ppsSec := now s / secI } } := by
  have hx : exec .ppsOutPulse s = execPpsOutPulse s := rfl
  rw [hx, execPpsOutPulse, h]
  exact if_pos hr

theorem ppsOutPulse_low (h : s.alm.ppsOut = none) (hr : ¬PpsRises s) : exec .ppsOutPulse s = .next s := by
  have hx : exec .ppsOutPulse s = execPpsOutPulse s := rfl
  rw [hx, execPpsOutPulse, h]
  exact if_neg hr

theorem ppsOutPulse_falls {t : Ticks} (h : s.alm.ppsOut = some t) :
    exec .ppsOutPulse s = .next (if t + fld s R.almPpsCfg 11 2 * msT ≤ s.dev.ticks then { s with alm := { s.alm with ppsOut := none } } else s) := by
  have hx : exec .ppsOutPulse s = execPpsOutPulse s := rfl
  rw [hx, execPpsOutPulse, h]
  exact (ite_elapsed ..).trans (apply_ite next ..).symm

end PpsOut

/-! PTP_INTERVAL_SEND (R47, R48) -/

/-- Whether a port is a boundary-clock master: P4 or P5 with its enable. -/
def bcPort (s : State) (port : Nat) : Bool := (decide (port = 4) && flag s R.almPtpCfg 20) || (decide (port = 5) && flag s R.almPtpCfg 21)

theorem bcPort_iff {s : State} {port : Nat} : bcPort s port = true ↔ port = 4 ∧ flag s R.almPtpCfg 20 = true ∨ port = 5 ∧ flag s R.almPtpCfg 21 = true := by
  simp [bcPort]

/-- Whether a port is a slave of PTP: P0 to P3 with its enable. -/
def slavePort (s : State) (port : Nat) : Bool := decide (port < 4) && flag s R.almPtpCfg (16 + port)

theorem slavePort_iff {s : State} {port : Nat} : slavePort s port = true ↔ port < 4 ∧ flag s R.almPtpCfg (16 + port) = true := by
  simp [slavePort]

section Intervals
variable {s u : State} {kind port : Nat}
  (hu : u = { s with alm := { s.alm with ptpSeq := tset s.alm.ptpSeq (port * 4 + kind) ((tget 0 s.alm.ptpSeq (port * 4 + kind) + 1) % 65536) } })

section Sends
include hu

theorem ptpIntervalSend_sync (hb : bcPort s port = true) (hk : kind = 0) :
    exec (.ptpIntervalSend kind port) s =
      .next (ptpSend u port false (ptpHeader s 0 44 0 0 port (tget 0 s.alm.ptpSeq (port * 4 + kind)) 0 0 ++ ptpStamp (eventInst s))) := by
  subst hu
  exact if_pos ⟨hk, hb⟩

theorem ptpIntervalSend_announce (hb : bcPort s port = true) (hk : kind = 1) :
    exec (.ptpIntervalSend kind port) s =
      .next (ptpSend u port false (ptpHeader s 11 64 (announceFlags s) 0 port (tget 0 s.alm.ptpSeq (port * 4 + kind)) 5 0 ++ announceBody s)) := by
  subst hu
  exact (if_neg (by omega)).trans (if_pos ⟨hk, hb⟩)

theorem ptpIntervalSend_pdelayReq (hp : bcPort s port = true ∨ slavePort s port = true) (hk : kind = 2) :
    exec (.ptpIntervalSend kind port) s =
      .next (ptpSend u port true (ptpHeader s 2 54 0 0 port (tget 0 s.alm.ptpSeq (port * 4 + kind)) 5 0x7F ++ ptpStamp (now s) ++ beBytes 10 0)) := by
  subst hu
  exact (if_neg (by omega)).trans ((if_neg (by omega)).trans (if_pos ⟨hk, hp⟩))

end Sends

/-- Nothing is sent on a port that is no master, nor a Pdelay_Req on one that is no slave either. -/
theorem ptpIntervalSend_none (hb : ¬(kind < 2 ∧ bcPort s port = true)) (hp : ¬(kind = 2 ∧ (bcPort s port = true ∨ slavePort s port = true))) :
    exec (.ptpIntervalSend kind port) s = .next s :=
  (if_neg fun ⟨hk, h⟩ => hb ⟨by omega, h⟩).trans ((if_neg fun ⟨hk, h⟩ => hb ⟨by omega, h⟩).trans (if_neg hp))

end Intervals

/-- Settles O35: the leap second, PPS_OUT, the end of traceability in holdover, and the messages sent at intervals. -/
theorem leapPpsOutAndPtpIntervals : Obligations.LeapPpsOutAndPtpIntervals := by
  refine fun s => ⟨fun d off hd hoff => ⟨fun hp ht => ?leap, fun hn => ?noLeap⟩, fun ho hsec htop hen hmode hgate => ppsOutPulse_rises ho ⟨hsec, htop, hen, (ppsGate_iff s).mpr hgate, hmode⟩,
    fun ho hn => ppsOutPulse_low ho (fun ⟨hsec, htop, hen, hgate, hmode⟩ => ?low), fun t ho => ppsOutPulse_falls ho, fun u hu => ?trace,
    fun kind port u hu => ⟨fun hb => ⟨ptpIntervalSend_sync hu (bcPort_iff.mpr hb), ptpIntervalSend_announce hu (bcPort_iff.mpr hb)⟩, fun hk hp => ?pdelay, fun hn => ?nothing⟩⟩
  case leap =>
    subst hd hoff
    exact if_pos ⟨hp, ht⟩
  case noLeap =>
    subst hd hoff
    refine if_neg fun ⟨hp, ht⟩ => hn.elim (fun hf => ?_) (fun hlt => Int.not_lt.mpr ht hlt)
    exact absurd (hp.symm.trans hf) (by decide)
  case low =>
    rcases hn with hb | hs | ht | he | ⟨hg, hl, hh⟩
    · exact hmode hb
    · exact Nat.not_lt.mpr hs hsec
    · exact Nat.not_lt.mpr htop ht
    · exact absurd (hen.symm.trans he) (by decide)
    · rcases (ppsGate_iff s).mp hgate with hf | hk | hk
      · exact absurd (hg.symm.trans hf) (by decide)
      · exact hl hk
      · exact hh hk
  case trace =>
    subst hu
    exact (apply_ite ..).symm
  case pdelay => exact ptpIntervalSend_pdelayReq hu (hp.elim (fun h => .inr (slavePort_iff.mpr h)) (fun h => .inl (bcPort_iff.mpr h))) hk
  case nothing =>
    refine ptpIntervalSend_none (fun ⟨hk, hb⟩ => ?_) (fun ⟨hk, hp⟩ => ?_)
    · have hb := bcPort_iff.mp hb
      grind
    · have hp := hp.imp bcPort_iff.mp slavePort_iff.mp
      grind

end Sys2Proof.Machine
